-- ==== Sys2Proof/Word.lean ====
section
/-!
DEFINITION. The word types of the block and the index types of its numbered items (R5, R6).
-/

namespace Sys2Proof

/-- One octet of a message, record, frame or register image. -/
abbrev Byte := BitVec 8

/-- One 16-bit word of the register window. -/
abbrev Word := BitVec 16

/-- A 32-bit register of the check-value unit, or a 32-bit code. -/
abbrev DWord := BitVec 32

/-- A run of octets, first octet at the head. -/
abbrev Bytes := List Byte

/-- Lanes A, B, C are 0, 1, 2 (R5). -/
abbrev LaneId := Fin 3

/-- Hubs X, Y are 0, 1; a bus channel bears its hub's number (R5). -/
abbrev HubId := Fin 2

/-- Masters M1, M2, M3 are 0, 1, 2 (R5 numbers them from 1; the index is one less). -/
abbrev MasterId := Fin 3

/-- Lamp groups G00 to G11 (R5). -/
abbrev GroupId := Fin 12

/-- Lamp channels L00 to L95 (R5). -/
abbrev Chan := Fin 96

/-- Field points IO00 to IO47 (R5). -/
abbrev Point := Fin 48

/-- Field banks B0 to B3 (R5). -/
abbrev BankId := Fin 4

/-- Queues Q00 to Q15 (R5). -/
abbrev RingId := Fin 16

/-- A set of lamp channels: bit c is channel Lc (the channel mask of the command reference). -/
abbrev ChanMask := BitVec 96

/-- A set of field points: bit p is point IOp. -/
abbrev PointMask := BitVec 48

/-- A set of groups: bit g is group Gg. -/
abbrev GroupMask := BitVec 12

/-- A set of lanes: bit l is lane l. -/
abbrev LaneMask := BitVec 3

/-- The group of a channel (R6). -/
def Chan.group (c : Chan) : GroupId := ⟨c.val / 8, by omega⟩

/-- The position of a channel within its group (R6). -/
def Chan.pos (c : Chan) : Fin 8 := ⟨c.val % 8, by omega⟩

/-- The channel at position k of group g (R6). -/
def chanOf (g : GroupId) (k : Fin 8) : Chan := ⟨8 * g.val + k.val, by omega⟩

/-- The bank of a point (R6). -/
def Point.bank (p : Point) : BankId := ⟨p.val / 12, by omega⟩

/-- The position of a point within its bank (R6). -/
def Point.pos (p : Point) : Fin 12 := ⟨p.val % 12, by omega⟩

/-- The point at position j of bank b (R6). -/
def pointOf (b : BankId) (j : Fin 12) : Point := ⟨12 * b.val + j.val, by omega⟩

end Sys2Proof
end

