-- ==== Sys2Proof/Syntax.lean ====
section
/-!
DEFINITION. The commands the block takes: one constructor of Instr for each row of the table of
operations and events, with what the outside world or the hardware supplies to that step as operands.
The table gives no operand encodings (every row's "fields" is empty), so the operands are those that the
numbered rule of the row names.
-/

namespace Sys2Proof

/-- A source of mailbox commands (R309): a master, the maintenance node or the local port. -/
inductive Source where
  | master (m : MasterId)
  | maint
  | host
  deriving DecidableEq, Repr

/-- A complete mailbox command as the lanes take it (R307): its source, the inbound ring that held it, its
TAG and its payload octets. The opcode is the row's own. -/
structure MailCmd where
  src : Source
  ring : RingId
  tag : Byte
  payload : Bytes
  deriving DecidableEq, Repr

/-- Positions of one front-end (0 to 7) or bank (0 to 11). -/
abbrev Position := Fin 12

/-- A set of positions of one front-end or bank. -/
abbrev PosMask := BitVec 12

/-- A modulator of one front-end, by its index (R72). -/
abbrev Modulator := Fin 20

/-- The receiver of a drive stream: a group front-end (R45) or a field bank (R450). -/
inductive DriveDest where
  | grp (g : GroupId)
  | bank (b : BankId)
  deriving DecidableEq, Repr

/-- What arrives on one lane input when the lane's DRIVE block ends a frame (R47 to R50): the frame as the
lane sent it, or other bits, of which the first `n` arrived, with the frame-start line right or wrong. -/
inductive RxDrive where
  | asSent
  | bits (w : BitVec 16) (n : Nat) (fsOk : Bool)
  deriving DecidableEq, Repr

/-- The 192 bits of a side frame, bit 0 sent first (R76). -/
abbrev SideBits := BitVec 192

/-- The output bits of the twenty modulators of a front-end at one FIELD clock, in index order (R75). -/
abbrev ModBits := BitVec 20

/-- One word of a front-end's stream: the modulator bits, one bit of the side frame, and the marker (R75). -/
abbrev StreamWord := BitVec 22

/-- What arrives of the 192 stream words that carry one side frame (R75, R76): the words as the front-end forms them from its
own state, with the modulators' output bits and the voltage-watch comparators that its inputs give, or other words. -/
inductive RxStream where
  | asSent (mods : List ModBits) (vw : BitVec 8)
  | words (ws : List StreamWord)
  deriving DecidableEq, Repr

/-- The 160 bits of a bank sample frame (R456). -/
abbrev BankBits := BitVec 160

/-- A bank's sample frame as it reaches a lane (R456): as the bank forms it from its own state, with the raw input states, the
output read-backs, the current limits, the supply comparators and the measured value that its terminals give, or other bits. -/
inductive RxBank where
  | asSent (raw rb cl : PosMask) (sup : BitVec 3) (mval : Word)
  | bits (w : BankBits)
  deriving DecidableEq, Repr

/-- One lane's fine-path sums of a calibration: the outputs that count of ZERO and of REF, and their numbers (R122). -/
structure CalMeas where
  lane : LaneId
  zeroSum : Int
  zeroN : Nat
  refSum : Int
  refN : Nat
  deriving DecidableEq, Repr

/-- What the calibration of one modulator in Thaw measured (R128): each lane's sums, whether REFS was set throughout, and the
CMPREF results of its REF step within and outside their limit (R122). -/
structure ThawCal where
  group : GroupId
  mod : Fin 20
  meas : List CalMeas
  refsHeld : Bool
  cmprefGood : Nat
  cmprefBad : Nat
  deriving DecidableEq, Repr

/-- Extreme readings of core supply in mV and of TEST clock in 10 kHz over a run, and its mean TEST frequency (R424, R446). -/
structure RangeMeas where
  vmin : Nat
  vmax : Nat
  fmin : Nat
  fmax : Nat
  testf : Nat
  deriving DecidableEq, Repr

/-- The outcome of a logic BIST run before it is judged (R423, R424, R446). -/
structure LbistRun where
  sig : BitVec 64
  pcount : DWord
  gen : DWord
  meas : RangeMeas
  deriving DecidableEq, Repr

/-- What the Thaw steps found (R381, R382): the lanes and hubs that passed memory BIST, the logic BIST runs of lanes and hubs, the
lanes that found each firmware slot good (R516), the lanes whose check-value unit passed, the slot-coding contacts as read at step 7
(R536), the group or bank faults found on the way, each by its code and the items of its scope, and the calibrations of step 8. -/
structure ThawResult where
  mbistL : LaneMask
  mbistH : BitVec 2
  lbist : Vector LbistRun 3
  lbistHub : Vector LbistRun 2
  slotA : LaneMask
  slotB : LaneMask
  cvu : LaneMask
  pins : Fin 64
  groupFaults : List (Nat × List Nat)
  cals : List ThawCal
  deriving DecidableEq, Repr

/-- A frame as one hub receives it (R226): the ns between the last code-group and its complete reception, which lie within one
tick (notes/assumptions/124.md), whether the packet is whole and free of code-group errors (check 1), and the octets of header,
payload and frame check sequence. -/
structure RxFrame where
  late : Nat
  codeOk : Bool
  octets : Bytes
  deriving DecidableEq, Repr

/-- A compare record of a partner lane (R24, R172): its evaluation index, the groups its lane holds valid,
and its check value over drive image, latched fault set and proving decisions. -/
structure CompareRec where
  index : Nat
  mask : GroupMask
  check : DWord
  deriving DecidableEq, Repr

/-- A compare record as it arrives over a lane link: as the partner formed it, or with another mask and check value. -/
inductive RxCompare where
  | asSent
  | record (mask : GroupMask) (check : DWord)
  deriving DecidableEq, Repr

/-- The three triggers of an injected sequence (R101). -/
inductive InjSource where
  | contactor
  | trip
  | explicit
  deriving DecidableEq, Repr

/-- What a modulator's input is connected to (R72, R120): the node of its own index, nothing, a position of its type (a
spare), or a calibration input. -/
inductive ModInput where
  | own
  | off
  | chan (k : Fin 8)
  | zero
  | ref
  deriving DecidableEq, Repr

/-- A control write of a lane to a front-end register (R97). -/
inductive FeWrite where
  | refEn (on : Bool)
  | probe (mask : BitVec 8)
  | auxCtrl (v : Word)
  | auxSel (v : Word)
  | auxReq (v : Word)
  | auxRseq (j : Fin 4) (v : Word)
  | auxIseq (v : Word)
  | modulators (run : Bool)
  | vwLimit (k : Fin 8) (mv : Nat)
  | modInput (m : Modulator) (x : ModInput)
  deriving DecidableEq, Repr

/-- A lane's chip strobe as it reaches a front-end (R177): as the lane formed it, or with other chip values. -/
inductive RxChips where
  | asSent
  | values (v : BitVec 8)
  deriving DecidableEq, Repr

/-- An item that keeps a proof timer (R66, R461). -/
inductive ProofItem where
  | chan (c : Chan)
  | point (p : Point)
  deriving DecidableEq, Repr

/-- The two spares of the Understorey slice (R72). -/
inductive Spare where
  | volt
  | curr
  deriving DecidableEq, Repr

/-- A register that a write without a row of its own addresses: a window word through a chip select (R331),
or a register of a lane's check-value unit by byte offset (R299 to R303). -/
inductive RegTarget where
  | window (h : HubId) (addr : Word) (v : Word)
  | cvu (l : LaneId) (off : Nat) (v : DWord)
  deriving DecidableEq, Repr

/-- Where an uncorrectable queue-memory error lies (R321). -/
inductive QmemHit where
  | inHeader (q : RingId)
  | inBody (q : RingId)
  | outMsg (q : RingId)
  | idle
  deriving DecidableEq, Repr

/-- A memory that a scrubber reads (R442). -/
inductive MemUnit where
  | lane (l : LaneId)
  | hub (h : HubId)
  deriving DecidableEq, Repr

/-- The outcome of the steps of a lane restart (R437). -/
structure RestartResult where
  mbist : Bool
  lbist : LbistRun
  image : Bool
  param : Bool
  deriving DecidableEq, Repr

/-- The outcome of a hub slice (R438): its MISR, and the readings of R424. -/
structure SliceRun where
  misr : BitVec 64
  meas : RangeMeas
  deriving DecidableEq, Repr

/-- The two contactors of a group (R412). -/
inductive Contactor where
  | a
  | b
  deriving DecidableEq, Repr

/-- The supply conditions of a bank as its comparators pass them (R467). -/
inductive SupplyEdge where
  | warnOn
  | warnOff
  | lossOn
  | missOn
  | missOff
  deriving DecidableEq, Repr

/-- Lanes A to C and hubs X and Y as silicon items 0 to 4 (R492). -/
abbrev SiliconItem := Fin 5

/-- A ring-oscillator measurement (R497): corrected drift in 0.001 % and die temperature in 0.1 K. -/
structure OscMeasure where
  drift : Int
  temp : Nat
  deriving DecidableEq, Repr

/-- The commands of the block: the rows of the table of operations and events. -/
inductive Instr where
  /-- POWER_GOOD (R381): The logic supply reaches power-good and the module starts Thaw from a full wipe. -/
  | powerGood
  /-- SUPPLY_DROP_RESET (R537): The logic supply stays below 16.0 V for more than 10 ms and the module resets to THAW. -/
  | supplyDropReset
  /-- THAW_DONE (R381): The Thaw steps complete, the rings open, the receivers are enabled and the module enters JOIN or HALT. -/
  | thawDone (r : ThawResult)
  /-- WATCHDOG (R383): The watchdog channel of a lane expires; the lane is held in reset and lost. -/
  | watchdog (l : LaneId)
  /-- THAW_WATCHDOG_HALT (R383): JOIN has not been entered 2.0 s after power-good, so the watchdog forces HALT with cause 14. -/
  | thawWatchdogHalt
  /-- ACTION_POINT (R252): The action-point strobe starts a cycle; the drive images, mode changes and levels agreed at the vote take effect. -/
  | actionPoint
  /-- VOTE_INSTANT (R25): The lanes copy, check and vote the master images and derive the drive images for the next action point. -/
  | voteInstant
  /-- LATCH_DRIVE_REDERIVE (R400): A new latch in a lane's latched fault set re-derives the drive image and hands it to the DRIVE domain. -/
  | latchDriveRederive (l : LaneId)
  /-- SUB_IMAGE_FREEZE (R29): Each lane freezes its status sub-image, codes it and writes it to both hubs. -/
  | subImageFreeze
  /-- MODULE_SLOT_SEND (R215): In its slot the module sends a data or null frame carrying the sub-images, the trailer and one outbound segment. -/
  | moduleSlotSend
  /-- CLOCK_CORRECTION (R258): At the network idle time a hub computes the offset and rate correction from the sync deviations. -/
  | clockCorrection (h : HubId)
  /-- FRAME_RECEIVED (R226): A hub judges a received frame by checks 1 to 8 and uses it for liveness, timing, records and segments. -/
  | frameReceived (h : HubId) (f : RxFrame)
  /-- SCHED_CHANGED (R238): After the last answer slot the change takes effect at the next cycle boundary or is cancelled. -/
  | schedChanged
  /-- LINK_UP (R208): The PCS has reported synchronisation for 1 ms and the port's link comes up. -/
  | linkUp (h : HubId)
  /-- LINK_DOWN (R208): Loss of synchronisation or a received /C/ takes the link down at once. -/
  | linkDown (h : HubId)
  /-- CHANNEL_DOWN (R228): A hub counts CHDOWN cycles without a valid frame and raises CHANNEL_DOWN for its channel. -/
  | channelDown (h : HubId)
  /-- INTEGRATION_CYCLE_END (R229): An OBSERVE or SYNCHRONISE cycle ends and the hub advances, repeats or returns to ACQUIRE. -/
  | integrationCycleEnd (h : HubId)
  /-- COLD_START_LISTEN_TIMEOUT (R232): A cold-starter hears silence for LISTEN x T_CYC and starts its cold-start phase. -/
  | coldStartListenTimeout
  /-- CS_BACKOFF (R232): No other sync node follows within 16 cycles, or another cold-start frame is heard, so the cold-starter stops and backs off. -/
  | csBackoff
  /-- CS_BACKOFF_EXPIRY (R233): The cold-start back-off wait ends and the node listens or integrates again. -/
  | csBackoffExpiry
  /-- SPARE_SLOT_CLAIM (R240): An unowned node claims the lowest spare slot found empty in two consecutive cycles. -/
  | spareSlotClaim
  /-- CLAIM_WAIT_EXPIRY (R241): The wait after a lost claim ends and the claim search starts afresh. -/
  | claimWaitExpiry
  /-- COMPARE_RECORD (R24): A lane receives a partner's compare record and compares it with its own of the same index. -/
  | compareRecord (receiver : LaneId) (sender : LaneId) (index : Nat) (rx : RxCompare)
  /-- LATCH_MERGE (R22): Once per cycle the lanes merge their latched fault sets by union over the lane links. -/
  | latchMerge
  /-- DRIVE_FRAME (R50): A front-end or bank receives a drive frame from a lane input and updates its on-votes, toggle outputs and OFF outputs. -/
  | driveFrame (d : DriveDest) (l : LaneId) (rx : RxDrive) (hot : PosMask)
  /-- DRIVE_LOSS_TIMER (R51): No valid frame completes on a lane input for 24 us, or 40 us on a bank, and every on-vote of the input is cleared. -/
  | driveLossTimer (d : DriveDest) (l : LaneId)
  /-- OVERLAY_WORD (R20): At a 10 us grid instant the lane sends its DRIVE domain the overlay state from then on. -/
  | overlayWord
  /-- SHORT_CIRCUIT_TRIP (R42): A channel current above 32 A opens the switch in hardware and sets the trip latch. -/
  | shortCircuitTrip (c : Chan)
  /-- OVERTEMP_TRIP (R43): The switch junction reaches 150 C and the overtemperature trip opens the switch and latches. -/
  | overtempTrip (c : Chan)
  /-- SIDE_FRAME (R77): A lane receives a side frame of a front-end and checks it, or discards it and counts towards MEAS_LINK. -/
  | sideFrame (l : LaneId) (g : GroupId) (rx : RxStream)
  /-- MODULATOR_OVERLOAD (R78): A modulator's bit holds for 64 clocks; its integrators reset and OVL is set. -/
  | modulatorOverload (g : GroupId) (m : Modulator)
  /-- FAST_SAMPLE (R145): The proving engine judges a fast sample under the lit, dark, warm-up, test and foreign rules. -/
  | fastSample (l : LaneId) (c : Chan)
  /-- NOT_PROVEN (R147): Neither LIT_OK nor FAIL_DARK has been decided 100 ms after WARMUP, so FAIL_DARK with cause NOT_PROVEN is decided. -/
  | notProven (l : LaneId) (c : Chan)
  /-- PERIOD_WINDOW_CLOSE (R87): A window closes and the period results of every channel are formed and PERIOD_SEQ advances. -/
  | periodWindowClose (g : GroupId) (ambient : Int)
  /-- AUX_CONVERSION_DONE (R102): An auxiliary conversion completes; its result is stored and checked, and the converter chooses the next conversion. -/
  | auxConversionDone (g : GroupId) (raw : Int)
  /-- TRACKER_UNLOCK_TIMEOUT (R84): No crossing is counted for 25 ms and the AC tracker unlocks. -/
  | trackerUnlockTimeout (g : GroupId)
  /-- FEED_ABSENT_DECISION (R38): The feed level stays below FEED_MIN for FEED_FILTER, or at or above it, and the feed-absent decision is taken or withdrawn. -/
  | feedAbsentDecision (g : GroupId)
  /-- FEED_FREQ_RANGE (R85): The AC tracker stays unlocked for 1 s with the feed present. -/
  | feedFreqRange (g : GroupId)
  /-- AUX_STALL (R105): A regular auxiliary result is older than 10 ms. -/
  | auxStall (g : GroupId)
  /-- GROUP_OVERLOAD (R40): The group's summed current stays above its limit for 1 s. -/
  | groupOverload (g : GroupId)
  /-- INJECTED_TRIGGER (R101): A contactor command edge, a trip or an explicit request starts the injected sequence. -/
  | injectedTrigger (g : GroupId) (src : InjSource)
  /-- REFS_SET (R96): 202,000 FIELD clocks after REF_EN rises the front-end sets REFS. -/
  | refsSet (g : GroupId)
  /-- REF_FAULT_TIMEOUT (R96): REFS is still clear 12 ms after REF_EN rose, so REF_FAULT is raised. -/
  | refFaultTimeout (g : GroupId)
  /-- FRONT_END_CONTROL_WRITE (R97): A front-end applies a control write when two lanes have written the same value within 24 us. -/
  | frontEndControlWrite (l : LaneId) (g : GroupId) (w : FeWrite)
  /-- CHIP_STROBE (R177): At each chip boundary the front-end applies agreeing chip values from two lanes to all probe sources. -/
  | chipStrobe (g : GroupId) (l : LaneId) (rx : RxChips)
  /-- PROBE_ENABLE (R176): DECAY after the derived-off action point the lanes issue the probe enable write. -/
  | probeEnable (c : Chan)
  /-- CODE_PERIOD_END (R186): At a code period boundary each lane correlates, gives verdicts and judges the coupling matrix and I/Q rules. -/
  | codePeriodEnd (l : LaneId)
  /-- PARTIAL_WINDOW_END (R191): A partial window ends and COLD_EARLY or CROSS_EARLY can be raised. -/
  | partialWindowEnd (l : LaneId)
  /-- MATRIX_ROW_SEND (R192): The supplying lane streams the selected matrix rows of a period to Q15. -/
  | matrixRowSend
  /-- OFF_TEST_START (R61): At t0 every active lane withdraws the channel's on for 140 us. -/
  | offTestStart (c : Chan)
  /-- OFF_TEST_GATE_CHECK (R61): Gate sense has not fallen by t0 + 40 us, so the test fails with GATE_STUCK. -/
  | offTestGateCheck (c : Chan)
  /-- OFF_TEST_END (R62): The off-test overlay ends and the test passes or fails with SWITCH_FAULT. -/
  | offTestEnd (c : Chan)
  /-- MAJORITY_TEST_START (R67): The test lane adds on for a dark channel for 4 frames. -/
  | majorityTestStart (c : Chan)
  /-- MAJORITY_TEST_END (R68): 20 us after the overlay the test passes or fails with SWITCH_FAULT. -/
  | majorityTestEnd (c : Chan)
  /-- DIMMING_EDGE (R59): A 1 kHz dimming on-phase or off-phase edge changes the overlay. -/
  | dimmingEdge (c : Chan) (onPhase : Bool)
  /-- PROOF_OVERDUE (R66): A channel's proof timer reaches 24 h. -/
  | proofOverdue (i : ProofItem)
  /-- LOAN_STEP_END (R120): A timed step of an Understorey loan ends and the next step begins. -/
  | loanStepEnd (g : GroupId) (sp : Spare)
  /-- HANDOFF (R121): The lanes take a handoff at a permitted instant H and switch the sample source. -/
  | handoff (g : GroupId) (sp : Spare)
  /-- SPARE_SELF_CALIBRATION (R126): After RELEASE the spare self-calibrates for 120 ms. -/
  | spareSelfCalibration (g : GroupId) (sp : Spare)
  /-- IN_PLACE_CALIBRATION (R127): An in-place calibration or direct partner release completes. -/
  | inPlaceCalibration (g : GroupId) (m : Modulator)
  /-- COMPARE_NO_SAMPLES (R123): A compare has not reached 3,000 included pairs within 1 s and fails. -/
  | compareNoSamples (g : GroupId) (sp : Spare)
  /-- CAL_HANDOFF (R130): No handoff is permitted within 1 s of SHADOW_IN passing and the loan is abandoned. -/
  | calHandoff (g : GroupId) (sp : Spare)
  /-- CAL_OVERDUE (R129): A modulator at P0 reaches an age of 6 s. -/
  | calOverdue (g : GroupId) (m : Modulator)
  /-- TEACH_CHANNEL_DONE (R161): A channel's teach-in steps end and its fingerprint is adopted or rejected. -/
  | teachChannelDone (c : Chan)
  /-- COMMAND_START (R311): A lane takes a complete command from an inbound ring and checks and executes it. -/
  | commandStart (l : LaneId) (q : RingId)
  /-- RESPONSE_VOTE (R312): The active hub forwards a response on which two lanes agree. -/
  | responseVote (num : Nat)
  /-- LANE_DISAGREE (R312): No two lanes agree within 20 ms and a LANE_DISAGREE response is forwarded. -/
  | laneDisagree (num : Nat)
  /-- RESPONSE_RING_ROOM (R314): A response waiting for a full outbound ring is placed once room is made. -/
  | responseRingRoom (q : RingId)
  /-- SPI_TRANSACTION (R327): A local-port SPI transaction reads or writes window words and reports in PSTAT. -/
  | spiTransaction (h : HubId) (mosi : List Word) (cut : Bool)
  /-- REGISTER_WRITE (R331): A write to a register without a row of its own is accepted, refused or ignored. -/
  | registerWrite (t : RegTarget)
  /-- MULTIWORD_CAPTURE (R333): A read of a multi-word value's lowest word captures the whole value in the shadow. -/
  | multiwordCapture (h : HubId) (addr : Word)
  /-- PROD_WRITE (R319): The local port advances PROD to produce messages into Q04 or Q05. -/
  | prodWrite (h : HubId) (q : RingId) (v : Word)
  /-- HCONS_WRITE (R319): The local port advances HCONS to consume entries of Q10 to Q15. -/
  | hconsWrite (h : HubId) (q : RingId) (v : Word)
  /-- AUX_CTRL_WRITE (R98): A write to AUX_CTRL selects the converter mode and sequence lengths, or is refused outside COMMISSION. -/
  | auxCtrlWrite (h : HubId) (g : GroupId) (v : Word)
  /-- AUX_REQ_CAL (R103): AUX_REQ.CAL requests a ZERO and REF calibration pair. -/
  | auxReqCal (h : HubId) (g : GroupId)
  /-- AUX_REQ_INJ (R101): AUX_REQ.INJ is an explicit injected trigger. -/
  | auxReqInj (h : HubId) (g : GroupId)
  /-- WINDOW_REFRESH (R33): The supplying lane refreshes its window blocks in both hubs. -/
  | windowRefresh
  /-- CV_LOAD (R302): CV_CMD.LOAD loads INIT into the running value. -/
  | cvLoad (l : LaneId)
  /-- CV_FOLD_IMP (R302): CV_CMD.FOLD_IMP folds the implicit block. -/
  | cvFoldImp (l : LaneId)
  /-- CV_DMA (R302): CV_CMD.DMA starts folding octets from lane SRAM. -/
  | cvDma (l : LaneId)
  /-- CV_DMA_DONE (R298): The DMA fold ends, or ends early on an ECC error. -/
  | cvDmaDone (l : LaneId) (eccAt : Option Nat)
  /-- CV_DATA8 (R302): A write to CV_DATA8 folds one octet. -/
  | cvData8 (l : LaneId) (d : Byte)
  /-- CV_DATA32 (R302): A write to CV_DATA32 folds four octets. -/
  | cvData32 (l : LaneId) (d : DWord)
  /-- HUB_SWITCHOVER (R324): The lanes move the mailbox engine from hub X to hub Y. -/
  | hubSwitchover
  /-- QMEM_FAULT (R321): An uncorrectable queue-memory error takes the hub out of mailbox service. -/
  | qmemFault (h : HubId) (a : QmemHit)
  /-- SRAM_SCRUB_ERROR (R442): The scrubber finds an error and corrects it or restarts the lane. -/
  | sramScrubError (u : MemUnit) (correctable : Bool)
  /-- COPPICE_DUE (R428): A Coppice window falls due and opens when the conditions hold. -/
  | coppiceDue
  /-- COPPICE_STEP_END (R429): A timed step of a Coppice window ends. -/
  | coppiceStepEnd (r : RangeMeas)
  /-- LBIST_DONE (R425): A lane logic BIST run ends with PASS, FAIL or INVALID. -/
  | lbistDone (l : LaneId) (r : LbistRun)
  /-- LANE_RESTART_DONE (R437): A lane restart completes and the lane rejoins, or the lane is lost. -/
  | laneRestartDone (l : LaneId) (r : RestartResult)
  /-- HUB_TEST_SLICE (R438): A hub runs one logic BIST slice in the network idle time. -/
  | hubTestSlice (h : HubId) (r : SliceRun)
  /-- DEGRADED_LIMIT (R398): Time in DEGRADED or under DRIVE_LINK reaches 72 h. -/
  | degradedLimit
  /-- REVERT_ENVELOPE_JUDGE (R404): After the envelope end the lanes judge 16 samples and decide stage 2 or the safe state. -/
  | revertEnvelopeJudge (g : GroupId)
  /-- REVERT_FAIL (R406): The feed-absent decision is not taken within FB_TIME + t_fa of stage 2. -/
  | revertFail (g : GroupId)
  /-- GLADE_UNPROVEN (R410): GLADE is not proven in time, or fails, in the safe state. -/
  | gladeUnproven (g : GroupId)
  /-- CONTACTOR_JUDGE (R413): At edge plus FB_TIME the contactor feedback is judged. -/
  | contactorJudge (g : GroupId) (k : Contactor)
  /-- BANK_SAMPLE_FRAME (R456): A lane receives a bank sample frame and updates inputs, read-backs and measurements. -/
  | bankSampleFrame (l : LaneId) (b : BankId) (rx : RxBank)
  /-- OUTPUT_OVERLOAD (R455): An output in current limit for 5 ms is switched off and latched. -/
  | outputOverload (p : Point)
  /-- BANK_SUPPLY_CONDITION (R467): A bank enters or leaves supply warning, loss or missing. -/
  | bankSupplyCondition (b : BankId) (k : SupplyEdge)
  /-- FIELD_OFF_TEST_START (R458): An output's on is withdrawn for 200 us. -/
  | fieldOffTestStart (p : Point)
  /-- FIELD_OFF_TEST_END (R459): A field off-test is judged and may locate a cross connection. -/
  | fieldOffTestEnd (p : Point)
  /-- FIELD_MAJORITY_TEST (R461): The test lane adds on for an off output and judges the result. -/
  | fieldMajorityTest (p : Point)
  /-- DISCREPANCY_SAMPLE (R471): At each millisecond the dual-channel pair is sampled and DISCREPANCY judged. -/
  | discrepancySample (l : LaneId) (p : Point)
  /-- WEAR_DAILY_CLOSE (R490): At the first vote after a day boundary the wear values and forecasts are closed. -/
  | wearDailyClose (ok : Bool)
  /-- WEAR_HOURLY_STORE (R490): The running wear totals are written to flash every hour. -/
  | wearHourlyStore (ok : Bool)
  /-- RING_OSC_MEASURE (R497): The ring-oscillator drift is measured hourly. -/
  | ringOscMeasure (i : SiliconItem) (m : OscMeasure)
  /-- UPDATE_TICK (R518): At a whole millisecond the update-session claims are resolved. -/
  | updateTick
  /-- UPD_SESSION_TIMEOUT (R520): A session idle for 300 s is closed. -/
  | updSessionTimeout
  /-- TRIAL_BOOT_RESET (R521): The module resets into the trial boot after UPD_ACTIVATE. -/
  | trialBootReset
  /-- TRIAL_TIME_EXPIRY (R524): TRIAL_TIME reaches 600 s without confirmation and the module falls back. -/
  | trialTimeExpiry
  /-- MODULE_RESET_AFTER_EXEC (R348): The module resets after an accepted RESET_EXEC. -/
  | moduleResetAfterExec
  /-- CAPTURE_TRIGGER (R362): The capture trigger occurs and data goes to Q12. -/
  | captureTrigger
  /-- CAPTURE_TIMEOUT (R362): A TRIG 2 capture sees no status change within 60 s. -/
  | captureTimeout
  /-- LAMP_TEST_END (R360): The lamp test ends and its response follows. -/
  | lampTestEnd
  /-- FIELD_TEST_END (R364): The field test ends and its response follows. -/
  | fieldTestEnd
  /-- PROOF_TEST_TIMEOUT (R365): 5 s after execution the proof test responds with its results. -/
  | proofTestTimeout
  /-- NOP (R341): Command that does nothing and answers OK. -/
  | nop (c : MailCmd)
  /-- IDENT (R343): Command that returns the module's identity. -/
  | ident (c : MailCmd)
  /-- STATUS (R344): Command that returns the module's status. -/
  | status (c : MailCmd)
  /-- FAULT_LIST (R345): Command that lists the standing faults. -/
  | faultList (c : MailCmd)
  /-- MODE_REQ (R346): Command that requests COMMISSION, SERVICE or HALT. -/
  | modeReq (c : MailCmd)
  /-- LIFECYCLE_REQ (R347): Two-step command that changes the life-cycle state. -/
  | lifecycleReq (c : MailCmd)
  /-- SUBSCRIBE (R349): Command that sets the source's subscriptions. -/
  | subscribe (c : MailCmd)
  /-- COUNTS_READ (R350): Command that returns the master counts. -/
  | countsRead (c : MailCmd)
  /-- LOG_READ (R351): Command that queues log records to Q14. -/
  | logRead (c : MailCmd)
  /-- CHIP_IDENT (R509): Command that returns chip identities per lane. -/
  | chipIdent (c : MailCmd)
  /-- RESET_ARM (R348): First step of the authorised reset out of HALT. -/
  | resetArm (c : MailCmd)
  /-- RESET_EXEC (R348): Second step of the authorised reset out of HALT. -/
  | resetExec (c : MailCmd)
  /-- PARAM_READ (R353): Command that reads a parameter record. -/
  | paramRead (c : MailCmd)
  /-- PARAM_WRITE (R353): Command that writes a record into the working copy. -/
  | paramWrite (c : MailCmd)
  /-- PARAM_REVERT (R353): Command that replaces the working copy with the active bank. -/
  | paramRevert (c : MailCmd)
  /-- PARAM_DEFAULTS (R353): Command that loads defaults into the working copy. -/
  | paramDefaults (c : MailCmd)
  /-- SEAL_SHOW (R354): Command that checks the working copy and shows its seal. -/
  | sealShow (c : MailCmd)
  /-- SEAL_CONFIRM (R354): Command that writes and activates a bank and sets SEALED. -/
  | sealConfirm (c : MailCmd)
  /-- LAMP_READ (R355): Command that returns voted lamp statuses. -/
  | lampRead (c : MailCmd)
  /-- PROVE_CLEAR (R357): Command that clears held proving decisions. -/
  | proveClear (c : MailCmd)
  /-- LATCH_CLEAR (R358): Command that clears named latches on dark items. -/
  | latchClear (c : MailCmd)
  /-- TEACH (R359): Command that teaches fingerprints in COMMISSION. -/
  | teach (c : MailCmd)
  /-- LAMP_TEST (R360): Command that overlays a lamp command for a duration. -/
  | lampTest (c : MailCmd)
  /-- MEAS_READ (R361): Command that returns period records. -/
  | measRead (c : MailCmd)
  /-- AUX_READ (R361): Command that returns a group's auxiliary block. -/
  | auxRead (c : MailCmd)
  /-- CAPTURE (R362): Command that starts a sample capture. -/
  | capture (c : MailCmd)
  /-- CAPTURE_STOP (R362): Command that ends a running capture. -/
  | captureStop (c : MailCmd)
  /-- PROBE_READ (R361): Command that returns a channel's probe data. -/
  | probeRead (c : MailCmd)
  /-- MATRIX_STREAM (R363): Command that sets the matrix row stream. -/
  | matrixStream (c : MailCmd)
  /-- BUS_READ (R361): Command that returns a hub's bus status. -/
  | busRead (c : MailCmd)
  /-- TIME_READ (R361): Command that returns a hub's time registers. -/
  | timeRead (c : MailCmd)
  /-- FIELD_READ (R364): Command that returns point and bank states. -/
  | fieldRead (c : MailCmd)
  /-- FIELD_TEST (R364): Command that energises outputs for a duration. -/
  | fieldTest (c : MailCmd)
  /-- SELFTEST_READ (R366): Command that returns self-test results. -/
  | selftestRead (c : MailCmd)
  /-- PROOF_TEST (R365): Command that schedules off-tests and majority tests. -/
  | proofTest (c : MailCmd)
  /-- COPPICE_NOW (R366): Command that brings the next Coppice window forward. -/
  | coppiceNow (c : MailCmd)
  /-- WEAR_READ (R367): Command that returns a wear report record. -/
  | wearRead (c : MailCmd)
  /-- WEAR_REPORT (R367): Command that queues all wear records to Q13. -/
  | wearReport (c : MailCmd)
  /-- WEAR_RESET (R367): Command that restarts the wear indicators of a replaced item. -/
  | wearReset (c : MailCmd)
  /-- UPD_OPEN (R368): Command that claims an update session. -/
  | updOpen (c : MailCmd)
  /-- UPD_BLOCK (R368): Command that stores an image block. -/
  | updBlock (c : MailCmd)
  /-- UPD_VERIFY (R368): Command that verifies the downloaded image. -/
  | updVerify (c : MailCmd)
  /-- UPD_ACTIVATE (R521): Command that starts a trial boot of the new image. -/
  | updActivate (c : MailCmd)
  /-- UPD_CONFIRM (R524): Command that confirms the trial slot. -/
  | updConfirm (c : MailCmd)
  /-- UPD_ROLLBACK (R525): Command that returns to the other slot. -/
  | updRollback (c : MailCmd)
  /-- UPD_CLOSE (R369): Command that ends the update session. -/
  | updClose (c : MailCmd)
  /-- UPD_STATUS (R369): Command that returns the update session status. -/
  | updStatus (c : MailCmd)
  /-- MIRROR_LINK_FAIL (R324): The hub mirror link fails and the lanes move the mailbox engine from hub X to hub Y. -/
  | mirrorLinkFail
  /-- OUTPUT_THERMAL_SHUTDOWN (R455): A field output's junction reaches 160 C, the bank switches it off and sets the point's overload latch. -/
  | outputThermalShutdown (p : Point)
  /-- LSPEC_RESPONSE_TIMEOUT (R313): 20 ms after the first lane-specific response the transaction ends without the lanes that have not answered. -/
  | lspecResponseTimeout (num : Nat)
  /-- TRIAL_TIME_STORE (R524): Every 10 s of a trial boot TRIAL_TIME is written to the boot control record. -/
  | trialTimeStore
  /-- PUMP_STARVATION (R52): With no majority edges the gate holdup runs out and the switch stops conducting passively, within 60 us, or 70 us on a bank. -/
  | pumpStarvation (d : DriveDest) (k : Position)
  /-- MODULATOR_OVERLOAD_END (R78): 192 modulator clocks pass with no new overload and the front-end clears the modulator's OVL bit. -/
  | modulatorOverloadEnd (g : GroupId) (m : Modulator)
  /-- GATE_DRIVE_SUPPLY (R56): The group's gate-drive supply leaves or returns within its limits, and GDS changes; while GDS is false every gate is held discharged. -/
  | gateDriveSupply (g : GroupId) (ok : Bool)
  deriving DecidableEq, Repr

end Sys2Proof
end

