-- ==== Sys2Proof/Machine/Crc.lean ====
section
/-!
DEFINITION. Octet runs as little-endian fields (R7) and the check codes of the block: CRC-4 of drive frames
(R46), CRC-16/CCITT, IEEE CRC-32 and CRC-32C (R76, R211, R277, R297).
-/

namespace Sys2Proof.Machine

/-- The octet at an offset; octets beyond the end read as zero. -/
def octet (bs : Bytes) (i : Nat) : Byte := bs.getD i 0

/-- The little-endian value of `n` octets at an offset (R7). -/
def leAt (bs : Bytes) (off : Nat) : Nat → Nat
  | 0 => 0
  | n + 1 => (octet bs off).toNat + 256 * leAt bs (off + 1) n

/-- `n` octets holding a value, least significant first (R7). -/
def toLe : Nat → Nat → Bytes
  | 0, _ => []
  | n + 1, v => BitVec.ofNat 8 v :: toLe n (v / 256)

/-- `n` octets holding a signed value in two's complement, least significant first. -/
def toLeInt (n : Nat) (v : Int) : Bytes := toLe n (v % (256 ^ n : Nat)).toNat

/-- The signed reading of an unsigned value of `bits` bits. -/
def signed (bits v : Nat) : Int := if v < 2 ^ (bits - 1) then (v : Int) else (v : Int) - (2 ^ bits : Nat)

/-- A run of octets inside another. -/
def slice (bs : Bytes) (off n : Nat) : Bytes := (bs.drop off).take n

/-- All octets of a stretch are zero. -/
def allZero (bs : Bytes) (off n : Nat) : Bool := (slice bs off n).all (· == 0)

/-- A set given by a test on each member. -/
def maskOf {n : Nat} (f : Fin n → Bool) : BitVec n :=
  (BitVec.ofBoolListLE (List.ofFn f)).cast (by simp)

/-- The members of a set, in ascending order. -/
def members {n : Nat} (m : BitVec n) : List (Fin n) := (List.finRange n).filter fun i => m.getLsbD i.val

/-- The set with one member. -/
def only {n : Nat} (i : Fin n) : BitVec n := BitVec.ofNat n (2 ^ i.val)

/-- A member belongs to a set. -/
def has {n : Nat} (m : BitVec n) (i : Fin n) : Bool := m.getLsbD i.val

/-- The octets of a mask, bit c mod 8 of octet c / 8 (field conventions of the command reference). -/
def maskBytes {n : Nat} (m : BitVec n) : Bytes := toLe (n / 8) m.toNat

/-- One bit folded into a running value of width w, most significant bit leaving first (R46, R297). -/
def crcBit (w poly reg : Nat) (b : Bool) : Nat :=
  let sh := (2 * reg) % 2 ^ w
  if reg.testBit (w - 1) != b then sh ^^^ poly else sh

/-- The bits of an octet in the order they are folded: least significant first with REFIN (R297). -/
def octetBits (refin : Bool) (b : Byte) : List Bool :=
  if refin then (List.range 8).map fun i => b.getLsbD i else (List.range 8).map fun i => b.getLsbD (7 - i)

/-- One octet folded. -/
def crcOctet (w poly : Nat) (refin : Bool) (reg : Nat) (b : Byte) : Nat :=
  (octetBits refin b).foldl (crcBit w poly) reg

/-- A run of octets folded. -/
def crcFold (w poly : Nat) (refin : Bool) (reg : Nat) (bs : Bytes) : Nat :=
  bs.foldl (crcOctet w poly refin) reg

/-- The value with its low w bits in reverse order. -/
def reflect (w v : Nat) : Nat :=
  (List.range w).foldl (fun a i => if v.testBit i then a + 2 ^ (w - 1 - i) else a) 0

/-- CRC-32C over octets (R277). -/
def crc32c (bs : Bytes) : DWord :=
  BitVec.ofNat 32 (reflect 32 (crcFold 32 0x1EDC6F41 true 0xFFFFFFFF bs) ^^^ 0xFFFFFFFF)

/-- IEEE 802.3 CRC-32 over octets (R211, R297 context 1). -/
def crc32 (bs : Bytes) : DWord :=
  BitVec.ofNat 32 (reflect 32 (crcFold 32 0x04C11DB7 true 0xFFFFFFFF bs) ^^^ 0xFFFFFFFF)

/-- CRC-16/CCITT over octets, as the check-value unit folds them (R297 context 2). -/
def crc16 (bs : Bytes) : Word := BitVec.ofNat 16 (crcFold 16 0x1021 false 0xFFFF bs)

/-- CRC-16/CCITT over the first n bits of a frame in the order sent (R76, R456). -/
def crc16Bits {n : Nat} (w : BitVec n) (k : Nat) : Word :=
  BitVec.ofNat 16 ((List.range k).foldl (fun r i => crcBit 16 0x1021 r (w.getLsbD i)) 0xFFFF)

/-- The CRC-4 of a drive frame over its bits 11 to 0 (R46). -/
def crc4 (w : BitVec 16) : Nat :=
  (List.range 12).foldl (fun r i => crcBit 4 0b0011 r (w.getLsbD i)) 0b1111

/-- The field of a value from bit lo, n bits wide. -/
def field {w : Nat} (v : BitVec w) (lo n : Nat) : Nat := (v.toNat >>> lo) % 2 ^ n

/-- The nearest integer to a / b for positive b, ties away from zero (R81). -/
def roundDiv (a : Int) (b : Nat) : Int :=
  if a < 0 then -(((2 * a.natAbs + b) / (2 * b) : Nat) : Int) else (((2 * a.natAbs + b) / (2 * b) : Nat) : Int)

/-- The integer nearest to the square root of n / d (d positive). -/
def roundSqrt (n d : Nat) : Nat :=
  let r := Nat.sqrt (n / d)
  if 4 * n ≥ (2 * r + 1) * (2 * r + 1) * d then r + 1 else r

/-- A value put into its place in a rising list. -/
def insertInt (x : Int) : List Int → List Int
  | [] => [x]
  | y :: t => if x ≤ y then x :: y :: t else y :: insertInt x t
/-- Values in rising order. -/
def sortInts (xs : List Int) : List Int := xs.foldr insertInt []
/-- The median of some values; of an even number of them the mean of the two in the middle. -/
def median (xs : List Int) : Int :=
  let ys := sortInts xs
  let n := ys.length
  if n % 2 = 1 then ys.getD (n / 2) 0 else (ys.getD (n / 2 - 1) 0 + ys.getD (n / 2) 0) / 2

end Sys2Proof.Machine
end

