-- ==== Sys2Proof/Machine/Crypto.lean ====
section
/-!
DEFINITION. The digest and the signature of an image (R512, R513). The spec names SHA-256 and ECDSA over P-256 and
gives neither; both are taken from their public standards, FIPS 180-4 and FIPS 186-4 (notes/assumptions/10.md).
-/

namespace Sys2Proof.Machine

/-! ## SHA-256, on words below 2^32 -/

def sha256K : List Nat :=
  [0x428a2f98, 0x71374491, 0xb5c0fbcf, 0xe9b5dba5, 0x3956c25b, 0x59f111f1, 0x923f82a4, 0xab1c5ed5] ++
  [0xd807aa98, 0x12835b01, 0x243185be, 0x550c7dc3, 0x72be5d74, 0x80deb1fe, 0x9bdc06a7, 0xc19bf174] ++
  [0xe49b69c1, 0xefbe4786, 0x0fc19dc6, 0x240ca1cc, 0x2de92c6f, 0x4a7484aa, 0x5cb0a9dc, 0x76f988da] ++
  [0x983e5152, 0xa831c66d, 0xb00327c8, 0xbf597fc7, 0xc6e00bf3, 0xd5a79147, 0x06ca6351, 0x14292967] ++
  [0x27b70a85, 0x2e1b2138, 0x4d2c6dfc, 0x53380d13, 0x650a7354, 0x766a0abb, 0x81c2c92e, 0x92722c85] ++
  [0xa2bfe8a1, 0xa81a664b, 0xc24b8b70, 0xc76c51a3, 0xd192e819, 0xd6990624, 0xf40e3585, 0x106aa070] ++
  [0x19a4c116, 0x1e376c08, 0x2748774c, 0x34b0bcb5, 0x391c0cb3, 0x4ed8aa4a, 0x5b9cca4f, 0x682e6ff3] ++
  [0x748f82ee, 0x78a5636f, 0x84c87814, 0x8cc70208, 0x90befffa, 0xa4506ceb, 0xbef9a3f7, 0xc67178f2]
def sha256Init : List Nat := [0x6a09e667, 0xbb67ae85, 0x3c6ef372, 0xa54ff53a, 0x510e527f, 0x9b05688c, 0x1f83d9ab, 0x5be0cd19]
def rotr (n x : Nat) : Nat := x / 2 ^ n + x % 2 ^ n * 2 ^ (32 - n)
def bigSigma0 (x : Nat) : Nat := rotr 2 x ^^^ rotr 13 x ^^^ rotr 22 x
def bigSigma1 (x : Nat) : Nat := rotr 6 x ^^^ rotr 11 x ^^^ rotr 25 x
def smallSigma0 (x : Nat) : Nat := rotr 7 x ^^^ rotr 18 x ^^^ x / 8
def smallSigma1 (x : Nat) : Nat := rotr 17 x ^^^ rotr 19 x ^^^ x / 1024
def not32 (x : Nat) : Nat := 4294967295 - x
/-- A number from octets, the first the highest. -/
def beNat (bs : Bytes) : Nat := bs.foldl (fun a b => 256 * a + b.toNat) 0
/-- The padded message: a one bit, zeros, and the length in bits. -/
def sha256Pad (m : Bytes) : Bytes :=
  m ++ [0x80#8] ++ List.replicate ((119 - m.length % 64) % 64) 0 ++ (toLe 8 (8 * m.length)).reverse
/-- The message schedule, newest word first. -/
def sha256Sched (block : Bytes) : List Nat :=
  let w0 := ((List.range 16).map fun i => beNat (slice block (4 * i) 4)).reverse
  ((List.range 48).foldl (fun w _ =>
    ((smallSigma1 (w.getD 1 0) + w.getD 6 0 + smallSigma0 (w.getD 14 0) + w.getD 15 0) % 2 ^ 32) :: w) w0).reverse
/-- One round on a, b, c, d, e, f, g, h. -/
def sha256Round (v : List Nat) (kw : Nat × Nat) : List Nat :=
  match v with
  | [a, b, c, d, e, f, g, h] =>
    let t1 := h + bigSigma1 e + ((e &&& f) ^^^ (not32 e &&& g)) + kw.1 + kw.2
    let t2 := bigSigma0 a + ((a &&& b) ^^^ (a &&& c) ^^^ (b &&& c))
    [(t1 + t2) % 2 ^ 32, a, b, c, (d + t1) % 2 ^ 32, e, f, g]
  | v => v
def sha256Block (v : List Nat) (block : Bytes) : List Nat :=
  (((sha256K.zip (sha256Sched block)).foldl sha256Round v).zip v).map fun x => (x.1 + x.2) % 2 ^ 32
/-- The digest as eight words. -/
def sha256Words (m : Bytes) : List Nat :=
  let p := sha256Pad m
  (List.range (p.length / 64)).foldl (fun v i => sha256Block v (slice p (64 * i) 64)) sha256Init
/-- The digest as 32 octets. -/
def sha256 (m : Bytes) : Bytes := (sha256Words m).flatMap fun w => (toLe 4 w).reverse

/-! ## ECDSA over P-256 -/

namespace P256
/-- The field prime, the group order, the coefficient b, the base point. -/
def p : Nat := 0xffffffff00000001000000000000000000000000ffffffffffffffffffffffff
def n : Nat := 0xffffffff00000000ffffffffffffffffbce6faada7179e84f3b9cac2fc632551
def b : Nat := 0x5ac635d8aa3a93e7b3ebbd55769886bc651d06b0cc53b0f63bce3c3e27d2604b
def gx : Nat := 0x6b17d1f2e12c4247f8bce6e563a440f277037d812deb33a0f4a13945d898c296
def gy : Nat := 0x4fe342e2fe1a7f9b8ee7eb4a7c0f9e162bce33576b315ececbb6406837bf51f5
/-- x to the power e modulo m, by the bits of e from the top. -/
def powMod (m x e : Nat) : Nat :=
  (List.range 256).foldl (fun a i => let s := a * a % m; if e.testBit (255 - i) then s * x % m else s) 1
/-- The inverse modulo a prime. -/
def inv (m x : Nat) : Nat := powMod m (x % m) (m - 2)
/-- A point; none is the point at infinity. -/
abbrev Pt := Option (Nat × Nat)
def onCurve (x y : Nat) : Bool := decide (x < p) && decide (y < p) && y * y % p == (x * x * x + (p - 3) * x + b) % p
def addPt (a c : Pt) : Pt :=
  match a, c with
  | none, c => c
  | a, none => a
  | some (x1, y1), some (x2, y2) =>
    if x1 = x2 ∧ (y1 + y2) % p = 0 then none
    else
      let k := if x1 = x2 then (3 * x1 * x1 + (p - 3)) * inv p (2 * y1) % p else (y2 + p - y1) * inv p (x2 + p - x1) % p
      let x3 := (k * k + 2 * p - x1 - x2) % p
      some (x3, (k * (x1 + p - x3) + p - y1) % p)
/-- A multiple of a point. -/
def mulPt (k : Nat) (a : Pt) : Pt :=
  (List.range 256).foldl (fun r i => let d := addPt r r; if k.testBit (255 - i) then addPt d a else d) none
/-- The signature (r, s) verifies over the hash h under the key (x, y). -/
def verify (x y r s h : Nat) : Bool :=
  decide (0 < r) && decide (r < n) && decide (0 < s) && decide (s < n) && onCurve x y &&
  (let w := inv n s
   match addPt (mulPt (h * w % n) (some (gx, gy))) (mulPt (r * w % n) (some (x, y))) with
   | none => false
   | some q => q.1 % n == r)
end P256

end Sys2Proof.Machine
end

