-- ==== Sys2Proof/Config.lean ====
section
/-!
DEFINITION. What one implementation of the block fixes, and the free values: the values the spec leaves open
after a step that goes on. A free value has no body, so nothing can be proved of it.
-/

namespace Sys2Proof.Config

/-- The n-th free value. The n is State.fresh, which the step that takes the value advances
(notes/assumptions/2.md). -/
opaque freeValue : Nat → BitVec 32

/-- The check value of a compare record over what it covers (R24): the spec does not say how it is formed
(notes/assumptions/11.md). -/
opaque compareCheck : List (BitVec 8) → BitVec 32

/-- Ticks of lane time in a microsecond (R251: a tick is 5 ns). -/
def us : Nat := 200

/-- Ticks of lane time in a millisecond. -/
def ms : Nat := 200000

/-- Ticks of lane time in a second. -/
def sec : Nat := 200000000

/-- The precision in ns (R253). -/
def precision : Int := 100

end Sys2Proof.Config
end

