-- ==== Sys2Proof/Machine/State.lean ====
section
/-!
DEFINITION. The state of the block: every register, buffer, counter, latch, timer, mode and stored record the
spec gives the module, with its reset value as the field's default, and the queue of waiting commands.
All instants are counts of 5 ns ticks of lane time since logic power came up (R251 fixes the tick).
-/

namespace Sys2Proof.Machine

/-- The eight modes (R370), in the order of their codes. -/
inductive Mode where
  | thaw | join | commission | service | degraded | dormant | safe | halt
  deriving DecidableEq, Repr

/-- The five life-cycle states (R343, R388), in the order of their codes 1 to 5. -/
inductive LifeCycle where
  | factory | commissioning | sealed | maintenance | retired
  deriving DecidableEq, Repr

/-- What a lane is doing: held in reset, running the Thaw, in the vote, resting in a Coppice window,
restarting (R437), or lost. -/
inductive LaneStatus where
  | thawing | active | resting | restarting | lost
  deriving DecidableEq, Repr

/-- The steps of a hub's integration (R229). -/
inductive Integ where
  | none | acquire | observe | synchronise | send
  deriving DecidableEq, Repr

/-- Own-code verdicts of a code period (R186, R193), in the order of their codes. -/
inductive Verdict where
  | unavailable | intact | cooling | failedHigh | failedLow | failedCompliance | notProbed
  deriving DecidableEq, Repr

/-- Causes in the coding of CAUSE of LAMP_READ (R355), in the order of their codes. -/
inductive Cause where
  | none | litRule | notProven | fast | resistive | capacitive | high | low | compliance
  | offTest | gateStuck | majorityTest
  deriving DecidableEq, Repr

/-- Causes of OUTPUT_FAULT (R455, R459, R461). -/
inductive OutCause where
  | none | overload | thermal | gateStuck | majorityTest
  deriving DecidableEq, Repr

/-- One lane's latched fault set (R22): trips, reaction latches, switch faults, the group revert,
energy-removal and safe-state latches, the bank supply-loss latches, the point latches, restart latches,
and the SAFE latch. Of a group's revert stages it holds whether stage 1 has taken effect (`staged`), the contactor outputs that
it keeps (`keepA`, `keepB`: those on in the image in force until stage 1, and those kept on from then on, R403), and whether
the group went safe-dark (`safeDark`, R405, R407). -/
structure Latches where
  short : ChanMask := 0
  overtemp : ChanMask := 0
  switchFault : ChanMask := 0
  react : ChanMask := 0
  revert : GroupMask := 0
  energy : GroupMask := 0
  safeState : GroupMask := 0
  safeDark : GroupMask := 0
  staged : GroupMask := 0
  keepA : GroupMask := 0
  keepB : GroupMask := 0
  supplyLoss : BitVec 4 := 0
  outFault : PointMask := 0
  restart : PointMask := 0
  safe : Bool := false
  deriving DecidableEq, Repr

/-- A voted command image (R288): the command of each channel, the points, the 24 budget octets and the
voted CLR field (R289), with the masters fresh in the vote. -/
structure Voted where
  cmd : Vector (BitVec 4) 96 := Vector.replicate 96 0
  pts : PointMask := 0
  budget : Vector Byte 24 := Vector.replicate 24 0
  clr : BitVec 16 := 0
  fresh : BitVec 3 := 0
  deriving DecidableEq, Repr

/-- A lane's drive image (R21): the channels and points derived on, the channels on through the dimming
overlay of R59, the channels whose command is a flash phase, and the group reverts and energy removals it was
derived under (R403, R405). -/
structure DriveImage where
  on : ChanMask := 0
  pts : PointMask := 0
  dim : ChanMask := 0
  flash : ChanMask := 0
  revert : GroupMask := 0
  energy : GroupMask := 0
  deriving DecidableEq, Repr

/-- The overlays of one lane (R23, R57): channels and points whose "on" is withdrawn, those whose "on" is
added, and the DRIVE frames left of each added one (channels 0 to 95, points 96 to 143). -/
structure Overlay where
  off : ChanMask := 0
  add : ChanMask := 0
  dimOff : ChanMask := 0
  ptOff : PointMask := 0
  ptAdd : PointMask := 0
  frames : List (Nat × Nat) := []
  deriving DecidableEq, Repr

/-- One lane's DRIVE-side record of one front-end or bank: the previous completed frame (R47; per HALF for a
bank, R451), the HALF and the PH of the next frame, and the frames that still carry CLR (R44, R455). -/
structure DriveRef where
  prev : Option (BitVec 16) := none
  prevHi : Option (BitVec 16) := none
  half : Bool := false
  ph : Bool := false
  clrLeft : Nat := 0
  deriving DecidableEq, Repr

/-- Held decisions that PROVE_CLEAR has cleared at a vote, whose codes stand until the action point restarts the rules
(R357). -/
structure Lapse where
  dark : Bool
  lit : Bool
  foreign : Bool
  deriving DecidableEq, Repr

/-- One lane's proving state of one channel under the sample rules (R143 to R152, R194, R553). `otAt` is the start of
the last off-test overlay, `majAt` those of the majority-test overlays of the last 1.2 s, newest first, `settle` the channel's
settle intervals (R124); `litAts` are the last action
points at which the derived state became on from off, newest first; `cmdAt` the last one at which the voted command changed.
`changeAt` and the fields named late serve samples whose input instants lie before the last action point that changed the
derived state: its windows, the first instant of its foreign samples, the duty it was dimmed with, whether it was warming up and since
when on, and whether that action point clears a decision; after a change of command under a channel that stays on, at `recmdAt`, its duty,
warm-up and lighting are held there too (R553). -/
structure Proving where
  litWin : List Bool := []
  goodRun : Nat := 0
  darkWin : List Bool := []
  vHist : List (Nat × Nat) := []
  forHist : List Nat := []
  vwHist : List Nat := []
  onsetAt : Option Nat := none
  onAt : Option Nat := none
  offAt : Option Nat := none
  warming : Bool := false
  litOk : Bool := false
  failDark : Bool := false
  darkCause : Cause := .none
  failLit : Bool := false
  foreign : Bool := false
  forCause : Cause := .none
  source : Option Chan := none
  degraded : Bool := false
  warmEnds : Nat := 0
  inrushMax : Nat := 0
  inrushRaised : Bool := false
  swCause : Cause := .none
  otAt : Option Nat := none
  majAt : List Nat := []
  changeAt : Nat := 0
  lateWin : List Bool := []
  lateCleared : Bool := false
  lapse : Option Lapse := none
  settle : List (Nat × Nat) := []
  cmdAt : Nat := 0
  litAts : List Nat := []
  lateFor : List Nat := []
  lateDuty : Option Nat := none
  lateWarm : Bool := false
  lateOn : Option Nat := none
  recmdAt : Nat := 0
  lateOnset : Option Nat := none
  untaken : Bool := false
  deriving DecidableEq, Repr

/-- One lane's drift counters and probe state of one channel (R151, R183 to R191, R197, R198). -/
structure Probing where
  driftOut : Nat := 0
  driftIn : Nat := 0
  verdict : Verdict := .notProbed
  verdictStart : Nat := 0
  verdictEnd : Nat := 0
  failRun : Nat := 0
  intactRun : Nat := 0
  ocCause : Cause := .none
  openCircuit : Bool := false
  sourceFault : Bool := false
  rMeas : Nat := 0
  ipMeas : Int := 0
  vI : Int := 0
  vQ : Int := 0
  resRun : Nat := 0
  capRun : Nat := 0
  iqRaised : Bool := false
  coldOut : Nat := 0
  rowFlags : Nat := 0
  rowVerdict : Nat := 6
  deriving DecidableEq, Repr

/-- One remembered coupling entry (R189, R190): its value in 0.1 ohm, the CPN of its period, and the
consecutive available periods that met, or did not meet, the threshold. -/
structure Coupling where
  val : Int := 0
  cpn : Nat := 0
  hits : Nat := 0
  misses : Nat := 0
  cross : Bool := false
  deriving DecidableEq, Repr

/-- One fast output of a lane's decimators for the twenty modulators of a group (R79 to R81): the number of the stream word
that completes it, its input instant, each modulator's value corrected with that modulator's coefficients, the modulators
whose value may be used (coefficients loaded and the group's samples available: R77, R96, R117), and those whose filter output or
corrected value reached the clamp of its width (R78). -/
structure FastRow where
  n : Nat
  t : Nat
  y : Vector Int 20
  ok : BitVec 20
  ov : BitVec 20
  deriving DecidableEq, Repr

/-- One fine output of a lane's decimators for the twenty modulators of a group: as FastRow, with the filter outputs before
correction, which calibration uses (R122), and whether REFS was clear (R96, R116). -/
structure FineRow where
  t : Nat
  x : Vector Int 20
  y : Vector Int 20
  ok : BitVec 20
  ov : BitVec 20
  ns : Bool
  deriving DecidableEq, Repr

/-- A channel's period record (R116). -/
structure PeriodRec where
  power : Int := 0
  imean : Int := 0
  refNs : Bool := false
  spI : Bool := false
  spV : Bool := false
  ovrI : Bool := false
  ovrV : Bool := false
  fixed : Bool := false
  valid : Bool := false
  irms : Nat := 0
  pseq : Byte := 0
  vrms : Nat := 0
  deriving DecidableEq, Repr

/-- What a lane holds of one front-end: the fields of the last good side frame (R76) and the link counts of
R77, and since when each lane input's read-back has differed from its intended state (R55). Then its decimator island: the
stream words since the streams last resumed and their latest modulator bits, newest first; the words counted up to the last
action point, and of the last 16 cycles the words and the ticks (R80); when the last word arrived; the input instant of the
first settled sample since the streams resumed (R91), and when the run before began and ended; the word number of the last sample judged of each position; and the
outputs of the last 1.2 s, newest first, from which period results, compares, calibrations and correlations are formed
(notes/assumptions/116.md); its own period records (R116, R338); and whether the group has risen to P0 and the fast rule has had no
available sample since (R482). -/
structure LaneGroup where
  side : SideBits := 0
  bad : Nat := 0
  good : Nat := 0
  measLink : Bool := false
  diffSince : Vector (Option Nat) 3 := Vector.replicate 3 none
  words : Nat := 0
  stream : List ModBits := []
  frameAt : Nat := 0
  apWords : Nat := 0
  cycles : List (Nat × Nat) := []
  since : Option Nat := none
  judged : Vector Nat 8 := Vector.replicate 8 0
  fast : List FastRow := []
  fine : List FineRow := []
  ran : Option (Nat × Nat) := none
  recs : Vector PeriodRec 8 := Vector.replicate 8 {}
  vwOn : Bool := false
  deriving DecidableEq, Repr

/-- What a lane holds of one bank: the last good sample frame (R456) and the link counts of R457. -/
structure LaneBank where
  frame : BankBits := 0
  bad : Nat := 0
  good : Nat := 0
  measLink : Bool := false
  diffSince : Vector (Option Nat) 3 := Vector.replicate 3 none
  supply : Nat := 0
  temp : Nat := 0
  deriving DecidableEq, Repr

/-- One lane's decisions on one field point (R464, R465, R469, R471, R474); `discAt` is when its pair was last sampled,
`decided` that the lane has decided on it since reset, `sameAt` since when its raw samples have been of the debounced state until then
(R165, R473). -/
structure LanePoint where
  deb : Bool := false
  runStart : Option Nat := none
  iin : Nat := 0
  wbLow : Option Nat := none
  wbHigh : Option Nat := none
  wireBreak : Bool := false
  extHigh : Option Nat := none
  extLow : Option Nat := none
  extFeed : Bool := false
  crossConnect : Bool := false
  discCount : Nat := 0
  discAt : Option Nat := none
  discrepancy : Bool := false
  outCause : OutCause := .none
  offAt : Option Nat := none
  onReadBack : Option Nat := none
  decided : Bool := false
  sameAt : Option Nat := none
  deriving DecidableEq, Repr

/-- One context of the check-value unit (R297, R300). -/
structure CvContext where
  poly : BitVec 2
  refin : Bool
  refout : Bool
  init : DWord
  xorout : DWord
  val : DWord
  deriving DecidableEq, Repr

/-- The reset configuration of the four contexts (R297, R300). -/
def CvContext.atReset : Vector CvContext 4 :=
  #v[{ poly := 0, refin := true, refout := true, init := 0xFFFFFFFF, xorout := 0xFFFFFFFF, val := 0xFFFFFFFF },
     { poly := 1, refin := true, refout := true, init := 0xFFFFFFFF, xorout := 0xFFFFFFFF, val := 0xFFFFFFFF },
     { poly := 2, refin := false, refout := false, init := 0x0000FFFF, xorout := 0, val := 0x0000FFFF },
     { poly := 3, refin := false, refout := false, init := 0, xorout := 0, val := 0 }]

/-- A lane's check-value unit (R297 to R303). -/
structure Cvu where
  sel : Fin 4 := 0
  ctx : Vector CvContext 4 := CvContext.atReset
  upoly : DWord := 0
  uwid : BitVec 6 := 0x20
  imp0 : DWord := 0
  imp1 : DWord := 0
  daddr : BitVec 20 := 0
  dlen : BitVec 13 := 1
  ecc : Bool := false
  err : Bool := false
  busy : Bool := false
  deriving DecidableEq, Repr

/-- A lane's logic BIST result block (R446). -/
structure LbistRes where
  res : Nat := 0
  invc : Nat := 0
  vok : Bool := false
  fok : Bool := false
  sigOk : Bool := false
  cntOk : Bool := false
  genOk : Bool := false
  sig : BitVec 64 := 0
  pcount : DWord := 0
  gen : DWord := 0
  vmin : Word := 0
  vmax : Word := 0
  testf : Word := 0
  passAt : Option Nat := none
  sramCe : DWord := 0
  deriving DecidableEq, Repr

/-- The counts of one master in one lane (R304, R350), and the runs that shape their events (R304); `latest` is the cycle of its
latest eligible image. -/
structure MasterCounts where
  discrepancy : DWord := 0
  sealMismatch : DWord := 0
  ssetMismatch : DWord := 0
  formatError : DWord := 0
  codeFailX : DWord := 0
  codeFailY : DWord := 0
  sealRun : Bool := false
  ssetRun : Bool := false
  stale : Bool := false
  latest : Option Word := none
  deriving DecidableEq, Repr

/-- The drive side of one lane: the image in force and the next one handed over (R25, R400), the overlays as the
lane holds them and as the last overlay word gave them to DRIVE (R20), and the frame references. While `held` is set the
frames hold every channel and point: from REJOIN until the lane's image is in force (R397, R429). -/
structure LaneDrive where
  img : DriveImage := {}
  next : DriveImage := {}
  ov : Overlay := {}
  sent : Overlay := {}
  grp : Vector DriveRef 12 := Vector.replicate 12 {}
  bank : Vector DriveRef 4 := Vector.replicate 4 {}
  running : Bool := false
  held : Bool := false
  deriving DecidableEq, Repr

/-- What a lane evaluated for its compare records at one index (R24, R172): the octets of its drive image and latched fault
set, those of its proving decisions group by group, and the groups it held valid. -/
structure CmpOwn where
  index : Nat
  base : Bytes
  groups : Vector Bytes 12
  mask : GroupMask
  deriving DecidableEq, Repr

/-- A revert of one group in one lane (R403 to R405): the stage-1 and stage-2 action points, and the permissive channels
that were derived on before stage 1. -/
structure Revert where
  stage1At : Option Nat := none
  stage2At : Option Nat := none
  wasOn : BitVec 8 := 0
  deriving DecidableEq, Repr

/-- A compare record a lane has received at an evaluation index (R24): the index, the sender, its check value, and whether
it matched the lane's own. -/
structure CmpSeen where
  index : Nat
  sender : LaneId
  check : DWord
  same : Bool
  deriving DecidableEq, Repr

/-- What a lane records of the channel taught in a group (R161, R163): the voltages that V_PK is taken from (R143); the own
resistances of step 1 in 0.1 Ω; from the action point of step 2 on, for each 100 µs, its number and the largest abs(i) and abs(v), in fast LSBs; the judged samples of the first
2 ms after the overlay of step 4; the period results, with the end of each window; the judged sample of step 5 of least
conductance, as abs(i) and abs(v); the action point of step 6; and the last instant after it at which the current had not
fallen below 5 % of the steady peak. -/
structure TeachWatch where
  vHist : List (Nat × Nat) := []
  colds : List Nat := []
  peaks : List (Nat × Nat × Nat) := []
  after : List (Nat × Nat × Nat) := []
  wins : List (Nat × PeriodRec) := []
  least : Option (Nat × Nat) := none
  offAt : Option Nat := none
  decayAt : Nat := 0
  deriving DecidableEq, Repr

/-- What a lane decides and holds on its own. `clr` names the latches that the last vote's CLR field clears at the next action
point (R289, R378). Of the commands in force `cmdVoted` holds the voted ones, which clear trip latches (R44), `cmdRule` those that
proving judges as voted, which in COMMISSION are the test overlays' (R166, R360), and `inForce` those that act on the channels: command 1
on a Glade channel of a reverting group (R403). A lane that rejoined and has derived no image yet is `noImage` (R397). -/
structure LaneState where
  st : LaneStatus := .thawing
  latches : Latches := {}
  clr : Latches := {}
  drive : LaneDrive := {}
  voted : Voted := {}
  inForce : Voted := {}
  noImage : Bool := false
  cmdVoted : Vector (BitVec 4) 96 := Vector.replicate 96 0
  cmdRule : Vector (BitVec 4) 96 := Vector.replicate 96 0
  prov : Vector Proving 96 := Vector.replicate 96 {}
  prob : Vector Probing 96 := Vector.replicate 96 {}
  matrix : List (Nat × Coupling) := []
  earlyCross : List Nat := []
  cpnDone : Option Nat := none
  partDone : Option Nat := none
  inVoteSince : Nat := 0
  grp : Vector LaneGroup 12 := Vector.replicate 12 {}
  bank : Vector LaneBank 4 := Vector.replicate 4 {}
  pts : Vector LanePoint 48 := Vector.replicate 48 {}
  counts : Vector MasterCounts 3 := Vector.replicate 3 {}
  decided : GroupMask := 0
  faultSeq : Word := 0
  subImage : Option Bytes := none
  cmpOwn : List CmpOwn := []
  cmpSeen : List CmpSeen := []
  cvu : Cvu := {}
  sram : List Host.Cell := []
  lbist : LbistRes := {}
  lastRestart : Option Nat := none
  wdService : Nat := 0
  wdLimit : Nat := 20000000
  codes : Vector Nat 96 := Vector.replicate 96 15
  ptCodes : Vector Nat 48 := Vector.replicate 48 15
  rev : Vector Revert 12 := Vector.replicate 12 {}
  teach : Vector TeachWatch 12 := Vector.replicate 12 {}
  deriving DecidableEq, Repr

/-- The modulator coefficients of one modulator or auxiliary converter (R82, R117). -/
structure Coef where
  offset : Int := 0
  gain : Nat := 0
  deriving DecidableEq, Repr

/-- One result register of the auxiliary converter (R109), with the instant it was written (R105). -/
structure AuxRes where
  seq : Word := 0
  input : BitVec 4 := 0
  ns : Bool := false
  val : Int := 0
  at_ : Nat := 0
  deriving DecidableEq, Repr

/-- The auxiliary converter of one front-end (R94 to R115). `entry` is the conversion in progress, coded as
AUX_ENTRY (R76); `none` is idle or stopped. The last five fields are those of the latest completed conversion in the side frame
(R76). -/
structure AuxConv where
  ctrl : Word := 0
  sel : Word := 0
  rseq : Vector Word 4 := Vector.replicate 4 0
  iseq : Word := 0
  entry : Option Nat := none
  input : BitVec 4 := 0
  startNs : Bool := false
  startAt : Nat := 0
  injAct : Bool := false
  injPend : Bool := false
  injNext : Nat := 0
  calPend : Bool := false
  calZeroDone : Bool := false
  nextReg : Nat := 0
  nextMode : Option Word := none
  trigLast : BitVec 2 := 0
  seq : Word := 1
  res : Vector AuxRes 20 := Vector.replicate 20 {}
  lastEntry : Nat := 0
  lastInput : BitVec 4 := 0
  lastNs : Bool := false
  lastRaw : Int := 0
  lastSeq : Word := 0
  deriving DecidableEq, Repr

/-- The lanes' readings of the auxiliary converter: its calibration results and coefficients (R95), supply counts and
the leakage timer (R94), and of the CMPREF results of the last 1.2 s the instant of completion and whether each lay within its
limit (R122). -/
structure AuxWatch where
  zeros : List Int := []
  refs : List Int := []
  coef : Coef := {}
  supplyBad : Vector Nat 16 := Vector.replicate 16 0
  leakSince : Option Nat := none
  cmpref : List (Nat × Bool) := []
  deriving DecidableEq, Repr

/-- The AC tracker, window and feed state of one group (R38, R84 to R90, R115): since when the feed contradicts its sealed type
(R36), since when the summed currents have lain above the limit and whether GROUP_OVERLOAD was raised for that stay (R40), and the
crossings counted since the open window began, oldest first (R87). `lastCross`, `prevPeriod`, `periodLen` and the instant of `lastVal` are in
global time (R84), the other instants those of the lanes' clock. -/
structure FeedState where
  lock : Bool := false
  fixed : Bool := false
  periodLen : Nat := 0
  periodSeq : Word := 0
  winStart : Option Nat := none
  lastCross : Option Nat := none
  prevPeriod : Option Nat := none
  wentNeg : Bool := false
  lastVal : Option (Nat × Int) := none
  unlockedSince : Nat := 0
  hist : List (Nat × Int) := []
  level : Nat := 0
  belowSince : Option Nat := none
  aboveSince : Option Nat := none
  absent : Bool := false
  wrongSince : Option Nat := none
  mismatch : Bool := false
  overSince : Option Nat := none
  overSaid : Bool := false
  crosses : List Nat := []
  deriving DecidableEq, Repr

/-- The steps of an Understorey loan and of what follows a failed step (R120, R126, R130, R131). -/
inductive LoanStep where
  | idle | connect | shadowIn | zero | ref | reconnect | shadowOut | release
  | selfCal | selfRef | arbitrate | arbRef | takeover
  deriving DecidableEq, Repr

/-- Why a shadow compare failed (R123): a condition did not hold, or 3,000 pairs did not accumulate in 1 s. -/
inductive CmpFail where
  | none | limits | noSamples
  deriving DecidableEq, Repr

/-- One spare of one group (R120 to R134): its step and modulator, when the step began, when ZERO began and ended, when the compare of
the step first passed, whether ZERO is a repeat (R131), the modulators still to be served in this round and those that an
abandoned loan puts at the head of the next (R129, R130), whether it was convicted or stays a source, whether its last
self-calibration was rejected and whether one is due before the next loan (R126), and that the step repeats after the Coppice
window (R133). -/
structure Loan where
  step : LoanStep := .idle
  target : Modulator := 0
  since : Nat := 0
  zeroAt : Nat := 0
  zeroEnd : Nat := 0
  passedAt : Option Nat := none
  repeated : Bool := false
  queue : List Modulator := []
  retry : List Modulator := []
  dead : Bool := false
  rejected : Bool := false
  needCal : Bool := false
  again : Bool := false
  deriving DecidableEq, Repr

/-- A modulator out for in-place calibration or direct release (R127): its step, when it began, when ZERO began and ended, when
the compare of a partner passed, that the step repeats after the Coppice window (R133), and whether it is the direct release of
a partner in use. -/
structure CalRun where
  step : LoanStep := .zero
  since : Nat := 0
  zeroAt : Nat := 0
  zeroEnd : Nat := 0
  passedAt : Option Nat := none
  again : Bool := false
  release : Bool := false
  deriving DecidableEq, Repr

/-- A handoff of a live modulator's position (R121, R125): whether the spare serves it from then on, and the instants from which its
fast and its fine samples come from the incoming modulator. -/
structure SourceSwitch where
  spare : Bool
  fast : Nat
  fine : Nat
  deriving DecidableEq, Repr

/-- The Understorey state of one group: the pairs in use, adoption instants,
consecutive rejections, convicted modulators, modulators whose channel the spare now serves, and the two
spares. `switched` holds, for each live modulator, the handoffs of its position in the last 1.2 s, newest first
(R121, R125); `runs` the modulators out in place; `partnerDue` the partners in use still to be released
in this round of the current spare (R127); `cmpFail` why the last compare of each modulator failed (R123). -/
structure Understorey where
  coef : Vector Coef 20 := Vector.replicate 20 {}
  adoptedAt : Vector Nat 20 := Vector.replicate 20 0
  rejects : Vector Nat 20 := Vector.replicate 20 0
  convicted : BitVec 20 := 0
  onSpare : BitVec 20 := 0
  overdue : BitVec 20 := 0
  p0Since : Nat := 0
  volt : Loan := {}
  curr : Loan := {}
  switched : Vector (List SourceSwitch) 16 := Vector.replicate 16 []
  runs : Vector (Option CalRun) 20 := Vector.replicate 20 none
  partnerDue : BitVec 20 := 0
  cmpFail : Vector CmpFail 20 := Vector.replicate 20 .none
  deriving DecidableEq, Repr

/-- One lane input of a front-end or bank (R49 to R51, R451): the last valid frame (per HALF on a bank), its
instant, whether the input has a reference, its on-votes, toggle outputs and OFF outputs, the instants at
which each TG last toggled, and its last CLR with the positions held in that frame. -/
structure LaneInput where
  last : Option (BitVec 16) := none
  lastHi : Option (BitVec 16) := none
  lastAt : Option Nat := none
  ph : Bool := false
  vote : PosMask := 0
  tg : PosMask := 0
  off : PosMask := 0xFFF
  tgAt : Vector Nat 12 := Vector.replicate 12 0
  clrAt : Option Nat := none
  clrHeld : PosMask := 0
  clrHiAt : Option Nat := none
  clrHiHeld : PosMask := 0
  deriving DecidableEq, Repr

/-- A control write that waits for a second lane (R97). -/
structure PendingWrite where
  lane : LaneId
  w : FeWrite
  at_ : Nat
  deriving DecidableEq, Repr

/-- What each modulator's input is connected to after a reset: a spare to nothing (R120). -/
def ModInput.atReset : Vector ModInput 20 := Vector.ofFn fun m => if m.val = 16 ∨ m.val = 17 then .off else .own

/-- A stretch of overloaded clocks of a modulator that has ended (R78). -/
structure OvlSpan where
  m : Modulator
  start : Nat
  stop : Nat
  deriving DecidableEq, Repr

/-- A chip strobe that a front-end holds from a lane (R177): the chip of global time, and its values. -/
structure Strobe where
  chip : Nat
  values : BitVec 8
  deriving DecidableEq, Repr

/-- A stretch in which a probe source drove that has ended (R176). -/
structure ProbeSpan where
  pos : Fin 8
  start : Nat
  stop : Nat
  deriving DecidableEq, Repr

/-- A group front-end: its lane inputs and gates (R50 to R56), trip latches (R42, R43), reference (R96), control
writes (R97), probe sources (R176, R177), overload bits (R78) and auxiliary converter. `refSetAt` is when REFS last became set;
`ovlFrom` the first overloaded clock of each OVL bit set now, `ovlPast` the stretches of the last 1.2 s that have ended; `input`
the modulators' input connections (R120); `strobe` the chip strobe held of each lane; `probeSince` since when each source that
drives now has driven, `probePast` the stretches of the last 1.2 s in which one drove. -/
structure FrontEnd where
  inp : Vector LaneInput 3 := Vector.replicate 3 {}
  conducting : BitVec 8 := 0
  pumpAt : Vector Nat 8 := Vector.replicate 8 0
  sc : BitVec 8 := 0
  ot : BitVec 8 := 0
  gds : Bool := true
  refEn : Bool := false
  refEnAt : Nat := 0
  refs : Bool := false
  waiting : List PendingWrite := []
  probeEn : BitVec 8 := 0
  chips : BitVec 8 := 0
  modsRun : Bool := true
  vwLimit : Vector Nat 8 := Vector.replicate 8 0
  ovl : BitVec 20 := 0
  ovlAt : Vector Nat 20 := Vector.replicate 20 0
  aux : AuxConv := {}
  refSetAt : Nat := 0
  ovlFrom : Vector Nat 20 := Vector.replicate 20 0
  ovlPast : List OvlSpan := []
  input : Vector ModInput 20 := ModInput.atReset
  strobe : Vector (Option Strobe) 3 := Vector.replicate 3 none
  probeSince : Vector Nat 8 := Vector.replicate 8 0
  probePast : List ProbeSpan := []
  deriving DecidableEq, Repr

/-- An off-test or majority-test overlay in progress (R61, R67). -/
structure RunningTest where
  ch : Chan
  majority : Bool
  lane : LaneId
  t0 : Nat
  tOpen : Option Nat := none
  judged : Nat := 0
  failed : Bool := false
  deriving DecidableEq, Repr

/-- An on-to-off transition judged as an off-test (R63). -/
structure TransTest where
  t0 : Nat
  tOpen : Option Nat := none
  judged : Nat := 0
  deriving DecidableEq, Repr

/-- The test schedule, the transition judged and the proof timer of one channel or point (R60, R63, R65 to R67, R458,
R461): the timer's counts over lit and over dark intervals and since when the present one runs. `want` is a test
that PROOF_TEST asks for, `dimSaid` that DIM_UNSUPPORTED was raised in this lit interval (R59), `lane` the next test lane of
its majority tests (R67, R461). -/
structure TestSched where
  nextOff : Option Nat := none
  nextMaj : Option Nat := none
  firstOk : Bool := false
  want : Bool := false
  trans : Option TransTest := none
  lit : Bool := false
  proofLit : Nat := 0
  proofDark : Nat := 0
  proofSince : Nat := 0
  overdue : Bool := false
  dimSaid : Bool := false
  lane : LaneId := 0
  deriving DecidableEq, Repr

/-- A group as the lanes hold it together: level (R478, R484), contactor judgements (R413), feed, converter readings, calibration
and the test in progress (R65). -/
structure GroupState where
  level : Fin 4 := 0
  pendLevel : Option (Fin 4) := none
  lowVotes : List (Nat × Fin 4) := []
  edgeA : Option (Nat × Bool) := none
  edgeB : Option (Nat × Bool) := none
  feed : FeedState := {}
  watch : AuxWatch := {}
  under : Understorey := {}
  test : Option RunningTest := none
  recs : Vector PeriodRec 8 := Vector.replicate 8 {}
  deriving DecidableEq, Repr

/-- A field bank (R450 to R455, R467, R468): lane inputs, output switches, overload latches with the thermal
ones marked, hardware supply-loss latch, CLR due in the frames after the next apply strobe (R468), the supply
conditions the lanes hold, and MIDX of the sample frame that goes next to each lane (R456). -/
structure BankState where
  inp : Vector LaneInput 3 := Vector.replicate 3 {}
  conducting : PosMask := 0
  pumpAt : Vector Nat 12 := Vector.replicate 12 0
  ol : PosMask := 0
  thermal : PosMask := 0
  hwLoss : Bool := false
  clrNext : Bool := false
  warn : Bool := false
  missing : Bool := false
  lossCnt : DWord := 0
  midx : Vector Nat 3 := Vector.replicate 3 0
  deriving DecidableEq, Repr

/-- A judged sample of a field output test (R459): the lane in which it arrived, RB and GS. -/
structure FieldSample where
  lane : LaneId
  rb : Bool
  gs : Bool
  deriving DecidableEq, Repr

/-- A field output test in progress (R458 to R460): `partners` are the other outputs derived on at t0, or those still to be
pulsed. -/
structure FieldTestRun where
  p : Point
  t0 : Nat
  samples : List FieldSample := []
  partners : List Point := []
  partner : Option Point := none
  /-- The pulse on the partner waits for the next cycle (R459). -/
  waits : Bool := false
  deriving DecidableEq, Repr

/-- A field majority test in progress (R461): its point, the test lane, and its start. -/
structure FieldMajRun where
  p : Point
  lane : LaneId
  t0 : Nat
  deriving DecidableEq, Repr

/-- The counters of one bus channel (R249). -/
structure BusCounters where
  valid : DWord := 0
  code : DWord := 0
  fcs : DWord := 0
  header : DWord := 0
  timing : DWord := 0
  sender : DWord := 0
  sset : DWord := 0
  cycle : DWord := 0
  payload : DWord := 0
  nnd : DWord := 0
  recordDup : DWord := 0
  segDropped : DWord := 0
  segLoss : DWord := 0
  txFrames : DWord := 0
  deriving DecidableEq, Repr

/-- A measured sync slot of the last cycle (R256, R275). -/
structure SyncDev where
  slot : Nat
  node : Nat
  dev : Int
  deriving DecidableEq, Repr

/-- A hub's global-time unit (R251 to R264, R269 to R275). -/
structure HubTime where
  gt : BitVec 64 := 0
  phase : Nat := 0
  apGt : BitVec 64 := 0
  rate : Int := 0
  slew : Int := 0
  slewLeft : Nat := 0
  slewWait : Nat := 0
  c : Option Int := none
  corrected : Bool := false
  overRun : Nat := 0
  nval : Nat := 0
  median : Bool := false
  precNg : Bool := true
  precGood : Nat := 0
  rateLimit : Bool := false
  rlimGood : Nat := 0
  passive : Bool := false
  passiveCnt : DWord := 0
  gtMismatch : DWord := 0
  devs : List SyncDev := []
  prevDevs : List SyncDev := []
  deriving DecidableEq, Repr

/-- One master's latest image data in a hub (R219): the IMAGE record octets and its CYCLE, and the HOLD code
and its CYCLE. -/
structure MasterStore where
  image : Option (Bytes × Word) := none
  hold : Option (Bytes × Word) := none
  deriving DecidableEq, Repr

/-- A hub's receiver and integration on its channel (R208, R226 to R233); `lags` while its strobe for the lanes' cycle is still to
come (R262), `late` the image data of masters whose frame came too late for this cycle's vote (R26). -/
structure HubBus where
  link : Bool := false
  integ : Integ := .none
  cycle : Word := 0
  sset : Nat := 0
  acquired : Bool := false
  lags : Bool := false
  syncNodes : List Nat := []
  timingFail : Bool := false
  csHeard : Bool := false
  syncUsable : Bool := false
  repeats : Nat := 0
  validThis : Bool := false
  silent : Nat := 0
  heardRun : Nat := 0
  chDown : Bool := false
  ssetFails : Nat := 0
  begun : List Nat := []
  cnt : BusCounters := {}
  store : Vector MasterStore 3 := Vector.replicate 3 {}
  late : Vector (Option MasterStore) 3 := Vector.replicate 3 none
  sub : Vector (Option Bytes) 3 := Vector.replicate 3 none
  tx : Bytes := []
  deriving DecidableEq, Repr

/-- A hub's slice test block (R438, R447), and the cycle of the last slice run or skipped. -/
structure HubSlice where
  res : Nat := 0
  skip : Bool := false
  slice : Nat := 0
  started : Bool := false
  passes : DWord := 0
  passAt : Option Nat := none
  skips : DWord := 0
  qmemCe : DWord := 0
  cycle : Option Word := none
  deriving DecidableEq, Repr

/-- A hub's local port and register window: shadows by lowest word (R333), the lane-supplied words of the last
refresh that are not zero (R33), the hub's own words held from HALT entry (R376), and what the port reports of the last transaction (R327, R330). -/
structure HubWindow where
  shadows : List (Nat × List Word) := []
  supplied : List (Nat × Word) := []
  refreshed : Bool := false
  ref : Bool := false
  refCause : BitVec 3 := 0
  refAddr : Word := 0
  rsv : Bool := false
  abort : Bool := false
  miso : List Word := []
  held : Option (List (Nat × Word)) := none
  heldMem : List Host.Cell := []
  deriving DecidableEq, Repr

/-- One hub (R13, R262, R321, R382). -/
structure HubState where
  inReset : Bool := false
  faulted : Bool := false
  within : Nat := 0
  outOfMail : Bool := false
  time : HubTime := {}
  bus : HubBus := {}
  win : HubWindow := {}
  slice : HubSlice := {}
  qmem : List Host.Cell := []
  deriving DecidableEq, Repr

/-- A pending schedule change (R235 to R238): the nodes whose ACCEPT is needed, those that gave it, and the cycle and slot
of the last answer. -/
structure SchedChange where
  target : Nat
  requester : Nat
  rcyc : Byte
  answered : List Nat := []
  needed : List Nat := []
  lastCycle : Word := 0
  lastSlot : Nat := 0
  deriving DecidableEq, Repr

/-- A cycle of lane time (R255, R283): its number, its nominal start, and the instant of the strobe that began it. -/
structure CycleStart where
  cycle : Word
  gt : BitVec 64
  struck : Nat
  deriving DecidableEq, Repr

/-- The module on the bus (R215, R220, R228, R230, R232, R236 to R241, R262). `answers` are the schedule-change blocks it
owes, `heardNow` and `heardPrev` the nodes and slots of valid frames in this cycle and the last, `sent` and `sentPrev`
whether it sent in them, `lastSeg` the CYCLE and MSEQ of the last segment of each bus source, `diverged` that SCHED_DIVERGE
is due at the next integration, `csLost` that another's cold-start frame was heard while sending one. -/
structure ModuleBus where
  nodeId : Nat := 0
  pins : Nat := 0
  sset : Nat := 0
  int : Nat := 0
  claimed : Option Nat := none
  claimWait : Option Word := none
  emptyTwice : List Nat := []
  emptyOnce : List Nat := []
  change : Option SchedChange := none
  answers : List Bytes := []
  heardNow : List (Nat × Nat) := []
  heardPrev : List (Nat × Nat) := []
  sent : Bool := false
  sentPrev : Bool := false
  lastSeg : Vector (Option (Word × Byte)) 4 := Vector.replicate 4 none
  everAcquired : Bool := false
  diverged : Bool := false
  coldStart : Bool := false
  csAttempt : Nat := 0
  csHeard : Nat := 0
  csLost : Bool := false
  csWaitUntil : Option Nat := none
  lastValid : Nat := 0
  apAt : Nat := 0
  apGt : BitVec 64 := 0
  apCycle : Word := 0
  starts : List CycleStart := []
  diff : Int := 0
  diffRun : Nat := 0
  timeSplit : Bool := false
  outMseq : Vector Byte 4 := Vector.replicate 4 0
  deriving DecidableEq, Repr

/-- A response or unsolicited message waiting in an outbound ring (R305, R315): the message octets, the
destinations that still need it, and the octets already sent to a destination begun. -/
structure OutMsg where
  octets : Bytes
  dests : List Source
  begun : Option Source := none
  sent : Nat := 0
  num : Option Nat := none
  stamp : Nat := 0
  deriving DecidableEq, Repr

/-- One ring of the queue memory (R305, R318). `msgs` is empty on inbound rings; `part` is the octets and
segments of a message still incomplete. -/
structure Ring where
  prod : Word := 0
  cons : Word := 0
  hcons : Word := 0
  limit : Byte := 0
  expMseq : Byte := 0
  msgCnt : DWord := 0
  dropCnt : DWord := 0
  refuseCnt : DWord := 0
  part : Option (Bytes × Nat) := none
  loss : Bool := false
  msgs : List OutMsg := []
  waiting : List OutMsg := []
  deriving DecidableEq, Repr

/-- The rings after a reset: LIMIT reads 0x20 in Q00 to Q03 and Q05 (R318). -/
def Ring.atReset : Vector Ring 16 := Vector.ofFn fun q => { limit := if q.val < 4 || q.val == 5 then 0x20 else 0 }

/-- A lane's answer to a command: status and payload. -/
structure Reply where
  status : Nat
  payload : Bytes
  deriving DecidableEq, Repr

/-- A transaction (R309 to R313). `refused` is the status that R308 gave it when it was stored; `outcome` is the answer the command
order gives (R337); `replies` are those the lanes have handed to the hubs. -/
structure Txn where
  num : Nat
  src : Source
  ring : RingId
  octets : Bytes
  entries : Nat
  storedAt : Nat
  refused : Option Nat := none
  judged : Bool := false
  started : LaneMask := 0
  freed : Bool := false
  outcome : Option Reply := none
  replies : Vector (Option Reply) 3 := Vector.replicate 3 none
  lspecSent : LaneMask := 0
  firstAt : Option Nat := none
  inFlight : Bool := true
  done : Bool := false
  deriving DecidableEq, Repr

/-- The mailbox path (R305 to R325). -/
structure Mail where
  opened : Bool := false
  active : HubId := 0
  switching : Bool := false
  rings : Vector Ring 16 := Ring.atReset
  txns : List Txn := []
  nextNum : Nat := 0
  turn : Vector (Fin 6) 3 := Vector.replicate 3 0
  subs : Vector (BitVec 5) 5 := Vector.replicate 5 0
  mirrorOk : Bool := true
  deriving DecidableEq, Repr

/-- The sealed parameter records, each as its octets (R352). -/
structure ParamImage where
  groupOut : Vector Bytes 12 := Vector.replicate 12 (List.replicate 16 0)
  groupMeas : Vector Bytes 12 := Vector.replicate 12 (List.replicate 8 0)
  finger : Vector Bytes 96 := Vector.replicate 96 (List.replicate 40 0)
  proving : Vector Bytes 96 := Vector.replicate 96 (List.replicate 16 0)
  probe : Vector Bytes 96 := Vector.replicate 96 (List.replicate 16 0)
  bus : Bytes := List.replicate 24 0
  sched : Vector Bytes 8 := Vector.replicate 8 (List.replicate 528 0)
  vote : Bytes := List.replicate 4 0
  time : Bytes := List.replicate 8 0
  point : Vector Bytes 48 := Vector.replicate 48 (List.replicate 16 0)
  groupSafety : Vector Bytes 12 := Vector.replicate 12 (List.replicate 16 0)
  selfTest : Bytes := List.replicate 8 0
  superv : Bytes := List.replicate 16 0
  wear : Bytes := List.replicate 64 0
  deriving DecidableEq, Repr

/-- A parameter bank in flash (R510): its header fields, image and stored seal. -/
structure ParamBank where
  pfmt : Nat := 0
  seq : Nat := 0
  confirmed : Bool := false
  image : ParamImage := {}
  sealCode : Bytes := []
  deriving DecidableEq, Repr

/-- One copy of the boot control record (R511); `crcOk` says whether its CRC-32C checks, `counted` whether TRIAL_TIME counts
(R526), `fell` the cause of a fallback whose event waits for the rings to open (R524). -/
structure BootRec where
  seq : Nat := 0
  activeSlot : Fin 2 := 0
  trial : Bool := false
  trialSlot : Fin 2 := 0
  fallbackBank : Option (Fin 2) := none
  trials : Nat := 0
  trialTime : Nat := 0
  slotBad : BitVec 2 := 0
  preLc : LifeCycle := .factory
  counted : Bool := true
  fell : Nat := 0
  crcOk : Bool := true
  deriving DecidableEq, Repr

/-- The flash (R510): boot control copies, life-cycle record with its wipe mark (R389), boot counter, firmware
slots, parameter banks, event log; the stored wear area is in `Wear`. `delivered` marks the slots that no block was ever written
to: what they hold from manufacture the spec does not give (notes/assumptions/1.md). -/
structure Flash where
  boot : Vector BootRec 2 := Vector.replicate 2 {}
  lifecycle : LifeCycle := .factory
  wiping : Bool := false
  bootCount : Word := 0
  slots : Vector Bytes 2 := Vector.replicate 2 []
  delivered : BitVec 2 := 3
  banks : Vector (Option ParamBank) 2 := Vector.replicate 2 none
  lastBank : Fin 2 := 0
  bankActive : Bool := false
  log : List Bytes := []
  logFirst : Nat := 0
  /-- The highest and the mean erase count of its sectors, and the sectors retired (R492, R503). -/
  eraseTop : DWord := 0
  eraseMean : DWord := 0
  retired : DWord := 0
  deriving DecidableEq, Repr

/-- The identity fields of one chip in OTP (R507). -/
structure ChipId where
  design : BitVec 4 := 0
  rev : BitVec 3 := 0
  fab : BitVec 4 := 0
  lot : BitVec 24 := 0
  wafer : BitVec 6 := 0
  dieX : Byte := 0
  dieY : Byte := 0
  otpOk : Bool := true
  deriving DecidableEq, Repr

/-- One-time-programmable memory: chip identities in the order of R528, image keys and revocations (R513),
minimum-version cells (R515), factory coefficients (R82), the seed of the pattern generators and the references of the lanes' and the
hubs' logic BIST (R422, R423), and those of each hub's test slices (R438), 0 where none is listed. -/
structure Otp where
  chips : Vector ChipId 21 := Vector.replicate 21 {}
  order96L : Bool := false
  keys : Vector (Nat × Nat) 4 := Vector.replicate 4 (0, 0)
  revoked : BitVec 4 := 0
  minCells : List DWord := []
  factory : Vector (Vector Coef 20) 12 := Vector.replicate 12 (Vector.replicate 20 {})
  factoryAux : Vector Coef 12 := Vector.replicate 12 {}
  lbSig : Vector (BitVec 64) 3 := Vector.replicate 3 0
  lbCount : DWord := 32768
  lbGen : Vector DWord 3 := Vector.replicate 3 0
  lbSeed : DWord := 0
  hubSig : Vector (BitVec 64) 2 := Vector.replicate 2 0
  hubGen : Vector DWord 2 := Vector.replicate 2 0
  sliceSig : Vector (List (BitVec 64)) 2 := Vector.replicate 2 []
  deriving DecidableEq, Repr

/-- A standing fault (R345, R420): code, scope octets, the lanes that hold it, the ECN of its cycle. -/
structure FaultRec where
  code : Nat
  scope : Bytes
  lanes : LaneMask
  ecn : DWord
  deriving DecidableEq, Repr

/-- A mode change that waits for the next action point (R372): the new mode and its cause. -/
structure ModeChange where
  target : Mode
  cause : Nat
  deriving DecidableEq, Repr

/-- A MODE_REQ in progress (R346): target, personal ID, transaction. -/
structure ModeReq where
  target : Mode
  person : DWord
  num : Nat
  deriving DecidableEq, Repr

/-- The mode and its bookkeeping (R370 to R377, R390, R391, R398). `voted` and `frozen`: the vote instant (R25) and the
sub-image freeze (R29) of the present cycle have passed; `answer`: the request that the waiting change answers (R346). -/
structure ModeState where
  mode : Mode := .thaw
  prev : Mode := .thaw
  cause : Nat := 0
  next : Option ModeChange := none
  voted : Bool := false
  frozen : Bool := false
  reqs : List ModeReq := []
  answer : Option ModeReq := none
  dualDisagree : Bool := false
  armed : Option (DWord × Word × Nat) := none
  resetDue : Option Nat := none
  lcStep : Option (Source × Nat × DWord × Word × Nat) := none
  wipeNum : Option Nat := none
  degradedTime : Nat := 0
  driveLinkTime : Nat := 0
  resetAt : Nat := 0
  thawMs : Word := 0
  thawRes : Word := 0
  lifecycle : Option LifeCycle := none
  bootShown : Word := 0
  refusedX : DWord := 0
  refusedY : DWord := 0
  rsvX : DWord := 0
  rsvY : DWord := 0
  deriving DecidableEq, Repr

/-- The Coppice rotation (R427 to R435, R444, R445). `step` is coded as STEP of R444. -/
structure Coppice where
  dueAt : Option Nat := none
  deferred : Bool := false
  next : LaneId := 0
  repeatLane : Option LaneId := none
  rest : Option LaneId := none
  step : Nat := 0
  stepAt : Nat := 0
  agreed : Bool := false
  aborted : Bool := false
  faultSeqAt : Word := 0
  modeAt : Mode := .thaw
  windows : DWord := 0
  aborts : DWord := 0
  restarts : DWord := 0
  deriving DecidableEq, Repr

/-- Clears that wait for the next vote instant (R357, R358). -/
structure PendingClear where
  num : Nat
  prove : ChanMask := 0
  latchCh : ChanMask := 0
  groups : GroupMask := 0
  banks : BitVec 4 := 0
  kinds : Byte := 0
  isProve : Bool := true
  deriving DecidableEq, Repr

/-- A running TEACH (R359): transaction, entries (channel, class, band low, band high, tolerance), outcomes; and of each
group the start of its present channel, the action point that closed its switch (R161 steps 1 and 2), the
channels whose step-4 test has run, and whether its feed failed R160 during the present channel's steps (R163). -/
structure TeachRun where
  num : Nat
  entries : List (Chan × Nat × Nat × Nat × Nat)
  done : List (Chan × Nat) := []
  since : Vector Nat 12 := Vector.replicate 12 0
  onAt : Vector (Option Nat) 12 := Vector.replicate 12 none
  tested : List Chan := []
  feedLost : GroupMask := 0
  deriving DecidableEq, Repr

/-- A running LAMP_TEST (R360) or FIELD_TEST (R364); `skip` while its overlay came too late for the coming action point. -/
structure TimedTest where
  num : Nat
  chans : ChanMask := 0
  pts : PointMask := 0
  cmd : BitVec 4 := 0
  duration : Nat := 0
  endAt : Option Nat := none
  early : Bool := false
  skip : Bool := false
  snap : Option Bytes := none
  deriving DecidableEq, Repr

/-- A running PROOF_TEST (R365). -/
structure ProofRun where
  num : Nat
  mask : ChanMask
  results : Vector Byte 96 := Vector.replicate 96 0
  deadline : Nat
  deriving DecidableEq, Repr

/-- A sample in the capture buffer (R362): its value, input instant, OVR mark, and whether a spare gave it. -/
structure CapSample where
  v : Int
  t : Nat
  ovr : Bool
  spare : Bool
  deriving DecidableEq, Repr

/-- A running capture (R362): `trigAt` is the instant of its trigger, `buf` the samples taken since the command, newest
first; `cut` once the supplying lane has changed. -/
structure CaptureRun where
  id : Word
  chan : Chan
  sel : Byte
  trig : Nat
  samples : Nat
  pre : Nat
  since : Nat
  lane : LaneId
  trigAt : Option Nat := none
  buf : List CapSample := []
  cut : Bool := false
  deriving DecidableEq, Repr

/-- The long-running activities that commands start (R337). -/
structure Activities where
  clears : List PendingClear := []
  teach : Option TeachRun := none
  lamp : Option TimedTest := none
  field : Option TimedTest := none
  proof : Option ProofRun := none
  capture : Option CaptureRun := none
  capCount : Word := 0
  matrixMask : ChanMask := 0
  matrixDiv : Nat := 0
  matrixDropped : Word := 0
  matrixDue : List (Nat × Chan) := []
  deriving DecidableEq, Repr

/-- The states of the update session (R517). -/
inductive UpdState where
  | idle | receiving | received | verified | trial | fallback
  deriving DecidableEq, Repr

/-- The update session and the running image (R517 to R526). -/
structure Update where
  st : UpdState := .idle
  owner : Option Source := none
  ownerEcn : DWord := 0
  size : Nat := 0
  version : DWord := 0
  received : Nat := 0
  lastCmd : Nat := 0
  claims : List (Source × Nat × Nat × DWord) := []
  runSlot : Fin 2 := 0
  trialRun : Bool := false
  incompat : Bool := false
  sealedInTrial : Bool := false
  trialStart : Option Nat := none
  resetDue : Option Nat := none
  deriving DecidableEq, Repr

/-- The history of one wear item (R492, R498, R503): points (day, value) of the fit and the figures closed last. `alarm2` is the
second alarm of a lamp or contactor (R502), `offDays` how many days in a row ended with an inrush off its band (R494),
`clearedNow` a history cleared since the last close. -/
structure WearItem where
  pts : List (Nat × Int) := []
  days : Word := 0xFFFF
  daysLo : Word := 0xFFFF
  daysHi : Word := 0xFFFF
  used : Word := 0
  ndays : Nat := 0
  offDays : Nat := 0
  v1 : DWord := 0
  v2 : DWord := 0
  v3 : DWord := 0
  day : DWord := 0
  alarm : Bool := false
  alarm2 : Bool := false
  cleared : Bool := false
  clearedNow : Bool := false
  deriving DecidableEq, Repr

/-- A lane's running totals of one lamp and its switch (R493, R495). `q` counts squared fast LSBs times 1.6 µs; `onAt` is the
last switch-on, not yet among those of the day, and `peakNow` the largest current since. -/
structure LampRun where
  gSum : Nat := 0
  gN : Nat := 0
  peakSum : Nat := 0
  peakN : Nat := 0
  onAt : Option Nat := none
  peakNow : Option Nat := none
  dayOns : Nat := 0
  inrushHigh : Nat := 0
  q : Nat := 0
  nth : Nat := 0
  switchOns : Nat := 0
  litSince : Option Nat := none
  litTicks : Nat := 0
  /-- When the history began, if since reset (R499, R503). -/
  histAt : Nat := 0
  iSum : Nat := 0
  iN : Nat := 0
  deriving DecidableEq, Repr

/-- A lane's running totals of one contactor (R496): `relAt` is when its output turned off, until the feedback follows,
`slowSaid` that WEAR_CONT_SLOW was raised and its condition has not failed at a close since (R502). -/
structure ContRun where
  ops : Nat := 0
  relAt : Option Nat := none
  slowSaid : Bool := false
  lastRelease : Nat := 0
  maxRelease : Nat := 0
  slow : Nat := 0
  deriving DecidableEq, Repr

/-- What one lane has accumulated from its own samples and decisions (R491). -/
structure WearRun where
  lamp : Vector LampRun 96 := Vector.replicate 96 {}
  cont : Vector ContRun 24 := Vector.replicate 24 {}
  deriving DecidableEq, Repr

/-- The measurements of one ring oscillator (R497). -/
structure OscRun where
  sum : Int := 0
  n : Nat := 0
  temp : Nat := 0
  total : Nat := 0
  hour : Option Nat := none
  deriving DecidableEq, Repr

/-- The wear monitor (R489 to R506): the closed values, which every lane adopts from the supplying lane, and the running totals of
each lane; the stored totals survive a reset (R490). `seen` is the last day closed, or the day of the first vote. -/
structure Wear where
  lamp : Vector WearItem 96 := Vector.replicate 96 {}
  switch : Vector WearItem 96 := Vector.replicate 96 {}
  cont : Vector WearItem 24 := Vector.replicate 24 {}
  silicon : Vector WearItem 5 := Vector.replicate 5 {}
  flash : WearItem := {}
  run : Vector WearRun 3 := Vector.replicate 3 {}
  seen : Option Nat := none
  osc : Vector OscRun 5 := Vector.replicate 5 {}
  day : DWord := 0
  storeFail : Bool := false
  deriving DecidableEq, Repr

/-- What is kept of the wear monitor in flash (R490): lamp, switch, contactor, silicon and flash items with the
running totals of the last hourly write. -/
structure WearStore where
  kept : Wear := {}
  deriving DecidableEq, Repr

/-- The field outputs under test and the schedules of channels and points (R65, R458). -/
structure Tests where
  chan : Vector TestSched 96 := Vector.replicate 96 {}
  point : Vector TestSched 48 := Vector.replicate 48 {}
  field : Option FieldTestRun := none
  fieldMaj : Option FieldMajRun := none
  deriving DecidableEq, Repr

/-- The logic supply (R537). -/
structure Supply where
  good : Bool := true
  deriving DecidableEq, Repr

/-- A colour of a front-panel indicator (R551). -/
inductive Colour where
  | off | green | yellow | red
  deriving DecidableEq, Repr

/-- The indicators of lanes, buses, faults and groups (R551). -/
structure Panel where
  lane : Vector Colour 3
  bus : Vector Colour 2
  flt : Colour
  group : Vector Colour 12
  deriving DecidableEq, Repr

/-- The state of the block. `panel` holds what the indicators showed at HALT entry (R552). -/
structure State where
  now : Nat := 0
  fresh : Nat := 0
  supply : Supply := {}
  mode : ModeState := {}
  lanes : Vector LaneState 3 := Vector.replicate 3 {}
  hubs : Vector HubState 2 := Vector.replicate 2 {}
  fe : Vector FrontEnd 12 := Vector.replicate 12 {}
  groups : Vector GroupState 12 := Vector.replicate 12 {}
  banks : Vector BankState 4 := Vector.replicate 4 {}
  bus : ModuleBus := {}
  mail : Mail := {}
  flash : Flash := {}
  otp : Otp := {}
  working : ParamImage := {}
  faults : List FaultRec := []
  tests : Tests := {}
  act : Activities := {}
  coppice : Coppice := {}
  upd : Update := {}
  wear : Wear := {}
  wearStore : WearStore := {}
  panel : Option Panel := none
  pending : List Instr := []
  deriving DecidableEq, Repr

/-- The block right after reset, before any command: THAW, every volatile memory wiped (R380), every register at
the reset value of its table, the queue of waiting commands empty. The contents of flash and OTP, which a
reset does not touch, are those of a module in FACTORY (notes/assumptions/1.md). -/
def State.reset : State := {}

/-- The reasons the block can stop with a fault. The spec gives every command of the table an effect in every
state, so no meaning raises one; the constructor keeps the type inhabited for the host's interface. -/
inductive Fault where
  /-- Raised by no meaning. Safe: a run that reached it would stop. -/
  | unused
  deriving DecidableEq, Repr

/-- The reasons a command has no meaning. -/
inductive Refusal where
  /-- Raised by an arm of exec whose command has no meaning yet, by its mnemonic. Safe: the run stops. -/
  | notModelled (mnemonic : String)
  deriving DecidableEq, Repr

end Sys2Proof.Machine
end

