-- ==== Sys2Proof/Machine/Converter.lean ====
section
/-!
DEFINITION. The auxiliary converter of a front-end (R98 to R106): its modes, the choice of each conversion, triggers, requested
calibration pairs and the sequences of Poind.
-/

namespace Sys2Proof.Machine

/-- MODE, INJ_LEN and REG_LEN of an AUX_CTRL value (R110). -/
def auxMode (v : Word) : Nat := field v 12 2
def auxInjLen (v : Word) : Nat := field v 9 3
def auxRegLen (v : Word) : Nat := field v 4 5
/-- The input of regular entry e, of injected entry j (R114). -/
def AuxConv.regInput (a : AuxConv) (e : Nat) : BitVec 4 := (((a.rseq[e / 4]?).getD 0) >>> (4 * (e % 4))).setWidth 4
def AuxConv.injInput (a : AuxConv) (j : Nat) : BitVec 4 := (a.iseq >>> (4 * j)).setWidth 4
/-- A conversion starts. -/
def AuxConv.begin_ (a : AuxConv) (entry : Nat) (input : BitVec 4) (now : Nat) (ns : Bool) : AuxConv :=
  { a with entry := some entry, input := input, startAt := now, startNs := ns }
/-- An AUX_CTRL value takes effect; the sequencer starts at regular entry 0 when its mode begins (R98). -/
def AuxConv.adopt (a : AuxConv) (v : Word) (now : Nat) : AuxConv :=
  if auxMode v = auxMode a.ctrl then { a with ctrl := v }
  else { a with ctrl := v, nextReg := 0, injAct := false, injPend := false, res := a.res.map fun r => { r with at_ := now } }
/-- The choice of the next conversion at a conversion boundary (R98, R99, R102, R103, R114): an injected sequence that INJ_LEN 0
has disabled since its trigger does not run (R101). -/
def AuxConv.boundary (a0 : AuxConv) (now : Nat) (refs : Bool) : AuxConv :=
  let a := match a0.nextMode with
    | some v => { a0.adopt v now with nextMode := none }
    | none => a0
  let ns := !refs
  if auxMode a.ctrl = 0 ∨ auxMode a.ctrl = 3 then { a with entry := none, injAct := false }
  else if auxMode a.ctrl = 2 ∧ a.injPend ∧ auxInjLen a.ctrl ≠ 0 then ({ a with injAct := true, injPend := false, injNext := 1 }).begin_ 16 (a.injInput 0) now ns
  else if auxMode a.ctrl = 2 ∧ a.injAct ∧ a.injNext < auxInjLen a.ctrl then
    ({ a with injNext := a.injNext + 1 }).begin_ (16 + a.injNext) (a.injInput a.injNext) now ns
  else
    let b := { a with injAct := false, injPend := a.injPend && auxInjLen a.ctrl != 0 }
    if b.calPend then (if b.calZeroDone then b.begin_ 22 1 now ns else b.begin_ 21 0 now ns)
    else if auxMode b.ctrl = 1 then b.begin_ 20 (b.sel.setWidth 4) now ns
    else if auxRegLen b.ctrl = 0 then { b with entry := none }
    else
      let e := if b.nextReg < auxRegLen b.ctrl then b.nextReg else 0
      ({ b with nextReg := (e + 1) % auxRegLen b.ctrl }).begin_ e (b.regInput e) now ns
/-- An idle converter chooses at once. -/
def AuxConv.kick (a : AuxConv) (now : Nat) (refs : Bool) : AuxConv := if a.entry.isNone then a.boundary now refs else a
/-- A trigger of the injected sequence arrives (R101, R102): 1 contactor edge, 2 trip, 3 explicit. Where it discards the REF
conversion of a requested pair, the ZERO result of the pair stands and REF alone is converted again: the model's choice
(notes/assumptions/119.md). -/
def AuxConv.trigger (a : AuxConv) (src : BitVec 2) (now : Nat) (refs : Bool) : AuxConv :=
  let b := { a with trigLast := src }
  if auxMode b.ctrl ≠ 2 ∨ auxInjLen b.ctrl = 0 then b
  else
    let c := { b with injPend := true }
    match c.entry with
    | none => c.boundary now refs
    | some e =>
      if e < 16 then (if c.input = 0 ∨ c.input = 1 then ({ c with nextReg := e }).boundary now refs else c)
      else if e = 21 ∨ e = 22 then c.boundary now refs
      else c
/-- A calibration pair is requested; a second request merges into a pending one (R103). In the stopped mode the pair stays pending
and runs once a mode starts: the model's choice (notes/assumptions/30.md). -/
def AuxConv.request (a : AuxConv) (now : Nat) (refs : Bool) : AuxConv :=
  (if a.calPend then a else { a with calPend := true, calZeroDone := false }).kick now refs
/-- An AUX_CTRL value is written: a change of MODE waits for the conversion in progress (R98). REG_LEN and INJ_LEN wait with a
change of MODE and act at once without one: the model's choice (notes/assumptions/119.md). -/
def AuxConv.write (a : AuxConv) (v : Word) (now : Nat) (refs : Bool) : AuxConv :=
  if auxMode v = auxMode a.ctrl then ({ a with ctrl := v, nextMode := none }).kick now refs
  else if a.entry.isNone then ({ a with nextMode := some v }).boundary now refs
  else { a with nextMode := some v }
/-- The Poind sequences (R106): AUX_RSEQ0 to 3, AUX_ISEQ, and AUX_CTRL in sequencer mode with REG_LEN 16 and INJ_LEN 4. -/
def poindAux (a : AuxConv) (now : Nat) (refs : Bool) : AuxConv :=
  ({ a with rseq := #v[0x2534, 0xA764, 0xB984, 0x5104], iseq := 0x45A4 }).write 0x2900 now refs
/-- A regular result is older than 10 ms in sequencer mode (R105). -/
def AuxConv.stalled (a : AuxConv) (now : Nat) : Bool :=
  auxMode a.ctrl == 2 && ((List.range (auxRegLen a.ctrl)).any fun e => decide ((((a.res[e]?).getD {}).at_) + 10 * Config.ms < now))
/-- A conversion has completed: what the next side frames carry of it (R76). After a requested ZERO or REF conversion, which takes no
number, AUX_SEQ stays that of the last stored result; before any conversion the fields are 0: the model's choice
(notes/assumptions/134.md). -/
def AuxConv.finished (a : AuxConv) (raw : Int) (stored : Bool) : AuxConv :=
  { a with lastEntry := a.entry.getD 0, lastInput := a.input, lastNs := a.startNs, lastRaw := raw, lastSeq := if stored then a.seq else a.lastSeq }
/-- The converter stops with the reference off, as Poind has it at P2 and P3: the sequence lengths stay (R106, R478). -/
def poindStop : Word := 0x0900

end Sys2Proof.Machine
end

