-- ==== Sys2Proof/Machine/Params.lean ====
section
/-!
DEFINITION. The parameter records: their fields (R70, R93, R140, R141, R181, R223, R224, R267, R286, R414, R426,
R448, R480, R501), their defaults, the canonical image and its seal (R352, R415), and the checks of sealing (R354).
-/

namespace Sys2Proof.Machine

/-- An entry of a table of records, or no octets outside it. -/
def rowOf {n : Nat} (v : Vector Bytes n) (i : Nat) : Bytes := (v[i]?).getD []

namespace ParamImage

/-! Group output record (R70). -/
def feedType (p : ParamImage) (g : GroupId) : Nat := leAt p.groupOut[g] 0 1
def chUsed (p : ParamImage) (g : GroupId) : BitVec 8 := octet p.groupOut[g] 1
def chPermissive (p : ParamImage) (g : GroupId) : BitVec 8 := octet p.groupOut[g] 2
def offPeriod (p : ParamImage) (g : GroupId) : Nat := leAt p.groupOut[g] 4 2
def majPeriod (p : ParamImage) (g : GroupId) : Nat := leAt p.groupOut[g] 6 2
def dim1 (p : ParamImage) (g : GroupId) : Nat := leAt p.groupOut[g] 8 1
def dim2 (p : ParamImage) (g : GroupId) : Nat := leAt p.groupOut[g] 9 1
def groupLimit (p : ParamImage) (g : GroupId) : Nat := leAt p.groupOut[g] 10 2
def feedMin (p : ParamImage) (g : GroupId) : Nat := leAt p.groupOut[g] 12 2
def feedFilter (p : ParamImage) (g : GroupId) : Nat := leAt p.groupOut[g] 14 2
/-- The group has an AC feed (R70). -/
def isAc (p : ParamImage) (g : GroupId) : Bool := p.feedType g == 1

/-! Group measurement record (R93). -/
def fastA (p : ParamImage) (g : GroupId) : Nat := leAt p.groupMeas[g] 0 1
def fastB (p : ParamImage) (g : GroupId) : Nat := leAt p.groupMeas[g] 1 1
def dcWindow (p : ParamImage) (g : GroupId) : Nat := leAt p.groupMeas[g] 2 2
def earthLeakMax (p : ParamImage) (g : GroupId) : Nat := leAt p.groupMeas[g] 4 2
def earthFilter (p : ParamImage) (g : GroupId) : Nat := leAt p.groupMeas[g] 6 2

/-! Fingerprint (R140). -/
def cls (p : ParamImage) (c : Chan) : Nat := leAt p.finger[c] 0 1
def fpSource (p : ParamImage) (c : Chan) : Nat := leAt p.finger[c] 1 1
def rCold (p : ParamImage) (c : Chan) : Nat := leAt p.finger[c] 2 2
def vSteady (p : ParamImage) (c : Chan) : Nat := leAt p.finger[c] 4 4
def iSteady (p : ParamImage) (c : Chan) : Nat := leAt p.finger[c] 8 4
def gNom (p : ParamImage) (c : Chan) : Nat := leAt p.finger[c] 12 4
def bandLo (p : ParamImage) (c : Chan) : Nat := leAt p.finger[c] 16 2
def bandHi (p : ParamImage) (c : Chan) : Nat := leAt p.finger[c] 18 2
def inrushPk (p : ParamImage) (c : Chan) : Nat := leAt p.finger[c] 20 2
def inrushTau (p : ParamImage) (c : Chan) : Nat := leAt p.finger[c] 22 2
def warmup (p : ParamImage) (c : Chan) : Nat := leAt p.finger[c] 24 2
def dead (p : ParamImage) (c : Chan) : Nat := leAt p.finger[c] 26 2
def decay (p : ParamImage) (c : Chan) : Nat := leAt p.finger[c] 28 2
def recover (p : ParamImage) (c : Chan) : Nat := leAt p.finger[c] 30 2
def form1 (p : ParamImage) (c : Chan) : Nat := leAt p.finger[c] 32 2
def form2 (p : ParamImage) (c : Chan) : Nat := leAt p.finger[c] 34 2
def formTol (p : ParamImage) (c : Chan) : Nat := leAt p.finger[c] 36 2

/-! Proving record (R141). -/
def filtDark (p : ParamImage) (c : Chan) : Nat := leAt p.proving[c] 0 2
def filtFlit (p : ParamImage) (c : Chan) : Nat := leAt p.proving[c] 2 2
def filtTol (p : ParamImage) (c : Chan) : Nat := leAt p.proving[c] 4 2
def filtLit (p : ParamImage) (c : Chan) : Nat := leAt p.proving[c] 6 2
def darkI (p : ParamImage) (c : Chan) : Nat := leAt p.proving[c] 8 2
def loFrac (p : ParamImage) (c : Chan) : Nat := leAt p.proving[c] 10 2
def driftTime (p : ParamImage) (c : Chan) : Nat := leAt p.proving[c] 12 2

/-! Probe record (R181). -/
def code (p : ParamImage) (c : Chan) : Nat := leAt p.probe[c] 0 2
def probeI (p : ParamImage) (c : Chan) : Nat := leAt p.probe[c] 2 1
def prot (p : ParamImage) (c : Chan) : Nat := leAt p.probe[c] 3 1
def foreignV (p : ParamImage) (c : Chan) : Nat := leAt p.probe[c] 4 2
def filtFor (p : ParamImage) (c : Chan) : Nat := leAt p.probe[c] 6 1
def ocCount (p : ParamImage) (c : Chan) : Nat := leAt p.probe[c] 7 1
def coldLo (p : ParamImage) (c : Chan) : Nat := leAt p.probe[c] 8 2
def coldHi (p : ParamImage) (c : Chan) : Nat := leAt p.probe[c] 10 2
def capAllow (p : ParamImage) (c : Chan) : Nat := leAt p.probe[c] 12 1
def resAllow (p : ParamImage) (c : Chan) : Nat := leAt p.probe[c] 13 1
def coolTime (p : ParamImage) (c : Chan) : Nat := leAt p.probe[c] 14 1
def crossFrac (p : ParamImage) (c : Chan) : Nat := leAt p.probe[c] 15 1

/-! Bus record (R223). -/
def nodeRec (p : ParamImage) : Nat := leAt p.bus 0 1
def csEnable (p : ParamImage) : Bool := octet p.bus 1 == 1
def startSet (p : ParamImage) : Nat := leAt p.bus 2 1
def claim (p : ParamImage) : Bool := octet p.bus 3 == 1
def masterNode (p : ParamImage) (m : MasterId) : Nat := leAt p.bus (4 + m.val) 1
def maintNode (p : ParamImage) : Nat := leAt p.bus 7 1
def mayChange (p : ParamImage) (n : Nat) : Bool := (leAt p.bus 8 8).testBit n
def chDown (p : ParamImage) : Nat := leAt p.bus 16 1
def listen (p : ParamImage) : Nat := leAt p.bus 17 1

/-! Schedule sets (R224); lengths and times in 10 ns. -/
def set (p : ParamImage) (k : Nat) : Bytes := rowOf p.sched k
def loaded (p : ParamImage) (k : Nat) : Bool := octet (p.set k) 0 == 1
def nSlots (p : ParamImage) (k : Nat) : Nat := leAt (p.set k) 1 1
def nit (p : ParamImage) (k : Nat) : Nat := leAt (p.set k) 2 2
def tCyc (p : ParamImage) (k : Nat) : Nat := leAt (p.set k) 4 4
def owner (p : ParamImage) (k j : Nat) : Nat := leAt (p.set k) (16 + 8 * j) 1
def slotFlags (p : ParamImage) (k j : Nat) : Byte := octet (p.set k) (17 + 8 * j)
def isSpare (p : ParamImage) (k j : Nat) : Bool := (p.slotFlags k j).getLsbD 0
def isSync (p : ParamImage) (k j : Nat) : Bool := (p.slotFlags k j).getLsbD 1
def isCold (p : ParamImage) (k j : Nat) : Bool := (p.slotFlags k j).getLsbD 2
def slotLen (p : ParamImage) (k j : Nat) : Nat := leAt (p.set k) (18 + 8 * j) 2
def delay (p : ParamImage) (k j : Nat) (h : HubId) : Nat := leAt (p.set k) (20 + 8 * j + 2 * h.val) 2
/-- Start of slot j after the action point, in 10 ns (R222). -/
def slotStart (p : ParamImage) (k j : Nat) : Nat := ((List.range j).map (p.slotLen k)).sum
/-- The slot a node owns in set k. -/
def slotOf (p : ParamImage) (k node : Nat) : Option Nat :=
  (List.range (p.nSlots k)).find? fun j => p.owner k j == node
/-- T_CYC in ticks of 5 ns (R252). -/
def cycTicks (p : ParamImage) (k : Nat) : Nat := 2 * p.tCyc k
/-- The sync slots of a set in slot order. -/
def syncSlots (p : ParamImage) (k : Nat) : List Nat := (List.range (p.nSlots k)).filter (p.isSync k)

/-! Vote, time, point, group safety, self-test, supervision and wear records. -/
def maxAge (p : ParamImage) : Nat := leAt p.vote 0 1
def flashPeriod (p : ParamImage) : Nat := leAt p.time 0 2
def dir (p : ParamImage) (i : Point) : Nat := leAt p.point[i] 0 1
def isOut (p : ParamImage) (i : Point) : Bool := p.dir i == 2
def isIn (p : ParamImage) (i : Point) : Bool := p.dir i == 1
def wbEn (p : ParamImage) (i : Point) : Bool := (octet p.point[i] 1).getLsbD 0
def otEn (p : ParamImage) (i : Point) : Bool := (octet p.point[i] 1).getLsbD 1
def debounce (p : ParamImage) (i : Point) : Nat := leAt p.point[i] 2 2
def wbLimit (p : ParamImage) (i : Point) : Nat := leAt p.point[i] 4 2
def pair (p : ParamImage) (i : Point) : Nat := leAt p.point[i] 6 1
def extFilter (p : ParamImage) (i : Point) : Nat := leAt p.point[i] 7 1
def discTime (p : ParamImage) (i : Point) : Nat := leAt p.point[i] 8 2
def ptPeriod (p : ParamImage) (i : Point) : Nat := leAt p.point[i] 10 2
def glade (p : ParamImage) (g : GroupId) : BitVec 8 := octet p.groupSafety[g] 0
def contactors (p : ParamImage) (g : GroupId) : Bool := (octet p.groupSafety[g] 1).getLsbD 0
def outA (p : ParamImage) (g : GroupId) : Nat := leAt p.groupSafety[g] 2 1
def outB (p : ParamImage) (g : GroupId) : Nat := leAt p.groupSafety[g] 3 1
def fbA (p : ParamImage) (g : GroupId) : Nat := leAt p.groupSafety[g] 4 1
def fbB (p : ParamImage) (g : GroupId) : Nat := leAt p.groupSafety[g] 5 1
def fbTime (p : ParamImage) (g : GroupId) : Nat := leAt p.groupSafety[g] 6 2
def coppiceEn (p : ParamImage) : Bool := octet p.selfTest 0 == 1
def coppicePeriod (p : ParamImage) : Nat := leAt p.selfTest 2 2
def maxLevel (p : ParamImage) (g : GroupId) : Nat := leAt p.superv g.val 1
def lowerHold (p : ParamImage) : Nat := leAt p.superv 12 1
def fitDays (p : ParamImage) : Nat := leAt p.wear 0 2
def lampAlarmDays (p : ParamImage) : Nat := leAt p.wear 2 2
def swAlarm (p : ParamImage) : Nat := leAt p.wear 4 2
def contAlarm (p : ParamImage) : Nat := leAt p.wear 6 1
def silAlarm (p : ParamImage) : Nat := leAt p.wear 7 1
def flashAlarm (p : ParamImage) : Nat := leAt p.wear 8 1
def contRating (p : ParamImage) (g : GroupId) : Nat := leAt p.wear (16 + 4 * g.val) 4

/-- The channel is in CH_USED of its group (R70). -/
def used (p : ParamImage) (c : Chan) : Bool := (p.chUsed c.group).getLsbD c.pos.val
/-- The channel shows a permissive aspect (R70). -/
def permissive (p : ParamImage) (c : Chan) : Bool := (p.chPermissive c.group).getLsbD c.pos.val
/-- The channel is in the Glade pattern of its group (R414). -/
def inGlade (p : ParamImage) (c : Chan) : Bool := (p.glade c.group).getLsbD c.pos.val
/-- The channel is configured for proving (R165): in CH_USED with a class. -/
def configured (p : ParamImage) (c : Chan) : Bool := p.used c && p.cls c != 0
/-- The node ID in use: the record's, or that of the slot-coding contacts (R223, R536). -/
def nodeInUse (p : ParamImage) (pins : Nat) : Nat := if p.nodeRec == 0xFF then pins else p.nodeRec

end ParamImage

/-! ## Defaults (the Default columns) -/

/-- Default group output record (R70): AC, so FEED_MIN 250. -/
def defGroupOut : Bytes :=
  toLe 1 1 ++ toLe 1 0xFF ++ toLe 1 0 ++ toLe 1 0 ++ toLe 2 10 ++ toLe 2 10 ++ toLe 1 60 ++ toLe 1 30 ++
  toLe 2 100 ++ toLe 2 250 ++ toLe 2 20

/-- Default group measurement record (R93). -/
def defGroupMeas : Bytes := toLe 1 0xFF ++ toLe 1 0xFF ++ toLe 2 20 ++ toLe 2 50 ++ toLe 2 1000

/-- Default proving record (R141). -/
def defProving : Bytes := toLe 2 400 ++ toLe 2 400 ++ toLe 2 40 ++ toLe 2 300 ++ toLe 2 20 ++ toLe 2 350 ++ toLe 2 30 ++ toLe 2 0

/-- Default probe record (R181) of a channel under node ID n; PROT is 2 on a permissive channel. -/
def defProbe (n : Nat) (perm : Bool) (c : Nat) : Bytes :=
  toLe 2 (96 * (n % 10) + c) ++ toLe 1 20 ++ toLe 1 (if perm then 2 else 0) ++ toLe 2 30 ++ toLe 1 32 ++ toLe 1 2 ++
  toLe 2 600 ++ toLe 2 1600 ++ toLe 1 50 ++ toLe 1 5 ++ toLe 1 20 ++ toLe 1 10

/-- Default bus record (R223). -/
def defBus : Bytes :=
  toLe 1 0xFF ++ toLe 1 0 ++ toLe 1 0 ++ toLe 1 0 ++ toLe 1 0 ++ toLe 1 1 ++ toLe 1 2 ++ toLe 1 3 ++ toLe 8 7 ++
  toLe 1 8 ++ toLe 1 4 ++ toLe 6 0

/-- Default slot entry j (R224). -/
def defSlot (j : Nat) : Bytes :=
  toLe 1 (if j ≤ 57 then j else 0xFF) ++
  toLe 1 ((if j ≤ 3 then 2 else 0) + (if j ≤ 2 then 4 else 0) + (if 58 ≤ j then 1 else 0)) ++ toLe 2 700 ++ toLe 2 0 ++ toLe 2 0

/-- Default schedule set k (R224): S0 is preloaded. -/
def defSched (k : Nat) : Bytes :=
  toLe 1 (if k = 0 then 1 else 0) ++ toLe 1 64 ++ toLe 2 5200 ++ toLe 4 50000 ++ toLe 8 0 ++ (List.range 64).flatMap defSlot

/-- Default field point record (R448). -/
def defPoint : Bytes :=
  toLe 1 0 ++ toLe 1 0 ++ toLe 2 3000 ++ toLe 2 500 ++ toLe 1 0xFF ++ toLe 1 10 ++ toLe 2 0 ++ toLe 2 10 ++ toLe 4 0

/-- Default group safety record (R414). -/
def defGroupSafety : Bytes :=
  toLe 1 0 ++ toLe 1 0 ++ toLe 1 0xFF ++ toLe 1 0xFF ++ toLe 1 0xFF ++ toLe 1 0xFF ++ toLe 2 100 ++ toLe 8 0

/-- Default self-test record (R426). -/
def defSelfTest : Bytes := toLe 1 1 ++ toLe 1 0 ++ toLe 2 20 ++ toLe 4 0

/-- Default supervision record (R480). -/
def defSuperv : Bytes := List.replicate 12 2 ++ toLe 1 5 ++ toLe 3 0

/-- Default wear record (R501). -/
def defWear : Bytes :=
  toLe 2 90 ++ toLe 2 30 ++ toLe 2 8000 ++ toLe 1 90 ++ toLe 1 50 ++ toLe 1 80 ++ toLe 7 0 ++
  (List.replicate 12 (toLe 4 1000000)).flatten

/-- The default image under node ID n (R353, R180). -/
def ParamImage.defaults (n : Nat) : ParamImage where
  groupOut := Vector.replicate 12 defGroupOut
  groupMeas := Vector.replicate 12 defGroupMeas
  finger := Vector.replicate 96 (List.replicate 40 0)
  proving := Vector.replicate 96 defProving
  probe := Vector.ofFn fun c => defProbe n false c.val
  bus := defBus
  sched := Vector.ofFn fun k => defSched k.val
  vote := toLe 1 1 ++ toLe 3 0
  time := toLe 2 1000 ++ toLe 6 0
  point := Vector.replicate 48 defPoint
  groupSafety := Vector.replicate 12 defGroupSafety
  selfTest := defSelfTest
  superv := defSuperv
  wear := defWear

/-! ## Records by TYPE and INDEX (R352) -/

/-- Records of a TYPE, and the size of each (R352); none for a TYPE not listed. -/
def recShape : Nat → Option (Nat × Nat)
  | 0x01 => some (12, 16)
  | 0x02 => some (12, 8)
  | 0x03 => some (96, 40)
  | 0x04 => some (96, 16)
  | 0x05 => some (96, 16)
  | 0x06 => some (1, 24)
  | 0x07 => some (8, 528)
  | 0x08 => some (1, 4)
  | 0x09 => some (1, 8)
  | 0x0A => some (48, 16)
  | 0x0B => some (12, 16)
  | 0x0C => some (1, 8)
  | 0x0D => some (1, 16)
  | 0x0E => some (1, 64)
  | _ => none

/-- The record of a TYPE and INDEX. -/
def ParamImage.getRec (p : ParamImage) (t i : Nat) : Bytes :=
  match t with
  | 0x01 => rowOf p.groupOut i
  | 0x02 => rowOf p.groupMeas i
  | 0x03 => rowOf p.finger i
  | 0x04 => rowOf p.proving i
  | 0x05 => rowOf p.probe i
  | 0x06 => p.bus
  | 0x07 => rowOf p.sched i
  | 0x08 => p.vote
  | 0x09 => p.time
  | 0x0A => rowOf p.point i
  | 0x0B => rowOf p.groupSafety i
  | 0x0C => p.selfTest
  | 0x0D => p.superv
  | 0x0E => p.wear
  | _ => []

/-- The image with one record replaced. -/
def ParamImage.setRec (p : ParamImage) (t i : Nat) (r : Bytes) : ParamImage :=
  match t with
  | 0x01 => { p with groupOut := p.groupOut.setIfInBounds i r }
  | 0x02 => { p with groupMeas := p.groupMeas.setIfInBounds i r }
  | 0x03 => { p with finger := p.finger.setIfInBounds i r }
  | 0x04 => { p with proving := p.proving.setIfInBounds i r }
  | 0x05 => { p with probe := p.probe.setIfInBounds i r }
  | 0x06 => { p with bus := r }
  | 0x07 => { p with sched := p.sched.setIfInBounds i r }
  | 0x08 => { p with vote := r }
  | 0x09 => { p with time := r }
  | 0x0A => { p with point := p.point.setIfInBounds i r }
  | 0x0B => { p with groupSafety := p.groupSafety.setIfInBounds i r }
  | 0x0C => { p with selfTest := r }
  | 0x0D => { p with superv := r }
  | 0x0E => { p with wear := r }
  | _ => p

/-- The TYPE and INDEX of every record in canonical order (R352). -/
def canonOrder : List (Nat × Nat) :=
  (List.range 15).flatMap fun t => match recShape t with
    | some (n, _) => (List.range n).map fun i => (t, i)
    | none => []

/-- The canonical parameter image (R352). -/
def ParamImage.canonical (p : ParamImage) : Bytes := canonOrder.flatMap fun ti => p.getRec ti.1 ti.2

/-- The seal in the layout of SEAL of an IMAGE record (R415, R280). -/
def ParamImage.sealOctets (p : ParamImage) : Bytes :=
  toLe 4 (crc32c p.canonical).toNat ++ toLe 4 (crc32 p.canonical).toNat

/-- The default of a record, following PROT's default on permissive channels of the image (R181) and FEED_MIN's
on DC groups, which a defaulted group record never is (R70). -/
def ParamImage.defaultRec (p : ParamImage) (node t i : Nat) : Bytes :=
  if t = 0x05 then
    match (if h : i < 96 then some (⟨i, h⟩ : Chan) else none) with
    | some c => defProbe node (p.permissive c) i
    | none => []
  else (ParamImage.defaults node).getRec t i

/-- The reserved octets and bits of a record that PARAM_WRITE checks (R353), per TYPE. -/
def reservedClear (t : Nat) (r : Bytes) : Bool :=
  match t with
  | 0x01 => octet r 3 == 0
  | 0x03 => allZero r 38 2
  | 0x04 => allZero r 14 2
  | 0x06 => allZero r 18 6
  | 0x07 => allZero r 8 8 && (List.range 64).all fun j => (octet r (17 + 8 * j)) &&& 0xF8#8 == 0
  | 0x08 => allZero r 1 3
  | 0x09 => allZero r 2 6
  | 0x0A => (octet r 1) &&& 0xFC#8 == 0 && allZero r 12 4
  | 0x0B => (octet r 1) &&& 0xFE#8 == 0 && allZero r 8 8
  | 0x0C => octet r 1 == 0 && allZero r 4 4
  | 0x0D => allZero r 13 3
  | 0x0E => allZero r 9 7
  | _ => true

/-! ## The checks of sealing (R354) -/

/-- A value lies in a closed range. -/
def within (v lo hi : Nat) : Bool := decide (lo ≤ v) && decide (v ≤ hi)

/-- Group output record (R70): offset of each field with its check. -/
def chkGroupOut (p : ParamImage) (g : GroupId) : List (Nat × Bool) :=
  [(0, within (p.feedType g) 1 2), (2, (p.chPermissive g) &&& ~~~(p.chUsed g) == 0#8), (3, octet p.groupOut[g] 3 == 0),
   (4, within (p.offPeriod g) 1 3600), (6, within (p.majPeriod g) 1 3600), (8, within (p.dim1 g) 10 88),
   (9, within (p.dim2 g) 10 88), (10, within (p.groupLimit g) 10 100), (12, within (p.feedMin g) 50 400),
   (14, within (p.feedFilter g) 1 100)]

/-- Group measurement record (R93). -/
def chkGroupMeas (p : ParamImage) (g : GroupId) : List (Nat × Bool) :=
  [(0, within (p.fastA g) 0 7 || p.fastA g == 0xFF),
   (1, (within (p.fastB g) 0 7 && p.fastB g != p.fastA g && p.fastA g != 0xFF) || p.fastB g == 0xFF),
   (2, within (p.dcWindow g) 1 100), (4, within (p.earthLeakMax g) 5 200), (6, within (p.earthFilter g) 10 10000)]

/-- The fields of a fingerprint record after CLASS: offset and size (R140). -/
def fingerFields : List (Nat × Nat) :=
  [(1, 1), (2, 2), (4, 4), (8, 4), (12, 4), (16, 2), (18, 2), (20, 2), (22, 2), (24, 2), (26, 2), (28, 2), (30, 2), (32, 2), (34, 2), (36, 2), (38, 2)]
/-- Fingerprint (R140, R137): an untaught record is all zero and its channel not in use; a taught one lies in its
ranges and its class matches the feed. -/
def chkFinger (p : ParamImage) (c : Chan) : List (Nat × Bool) :=
  let k := p.cls c
  if k = 0 then
    (0, !p.used c) :: fingerFields.map fun f => (f.1, allZero p.finger[c] f.1 f.2)
  else
    [(0, within k 1 5 && !((k == 1 || k == 3) && !p.isAc c.group) && !((k == 2 || k == 4) && p.isAc c.group)),
     (1, within (p.fpSource c) 1 2), (2, within (p.rCold c) 1 65535), (4, within (p.vSteady c) 10000 250000),
     (8, within (p.iSteady c) 5000 2500000), (12, within (p.gNom c) 100 2500000), (16, within (p.bandLo c) 500 999),
     (18, within (p.bandHi c) 1001 2000), (20, within (p.inrushPk c) 1 2500), (22, within (p.inrushTau c) 1 50000),
     (24, within (p.warmup c) 1 1500), (26, within (p.dead c) 0 1000 && decide (p.dead c < 100 * p.warmup c)),
     (28, within (p.decay c) 1 2000 && (k > 2 || p.decay c == 500)), (30, within (p.recover c) 200 500),
     (32, within (p.form1 c) 0 10000), (34, within (p.form2 c) 0 10000 && (p.isAc c.group || p.form2 c == 0)),
     (36, decide (k ≤ 2) || within (p.formTol c) 1 5000), (38, allZero p.finger[c] 38 2)]

/-- The conduction fraction c_F of R150 is at most 0.35, in exact integers. -/
def cfOk (p : ParamImage) (c : Chan) : Bool :=
  decide ((p.darkI c) ^ 2 * 10 ^ 27 ≤ 1770125 * (p.loFrac c * p.gNom c * p.vSteady c) ^ 2)

/-- Proving record (R141, R150). -/
def chkProving (p : ParamImage) (c : Chan) : List (Nat × Bool) :=
  [(0, within (p.filtDark c) 8 4096), (2, within (p.filtFlit c) 8 4096),
   (4, within (p.filtTol c) 0 255 && decide (4 * p.filtTol c ≤ min (p.filtDark c) (p.filtFlit c))),
   (6, within (p.filtLit c) 8 4096),
   (8, within (p.darkI c) 10 500 && (!p.isAc c.group || p.cls c == 0 || cfOk p c)),
   (10, within (p.loFrac c) (if p.cls c = 5 then 500 else 100) 900), (12, within (p.driftTime c) 1 600),
   (14, allZero p.proving[c] 14 2)]

/-- Probe record (R181, R180, R182). -/
def chkProbe (p : ParamImage) (c : Chan) : List (Nat × Bool) :=
  [(0, (within (p.code c) 0 1024 && ((List.finRange 96).all fun d => d.val ≥ c.val || p.code d != p.code c)) || p.code c == 0xFFFF),
   (2, within (p.probeI c) 10 40 && decide (p.probeI c * p.rCold c * p.coldHi c ≤ 10 ^ 9)), (3, within (p.prot c) 0 2),
   (4, within (p.foreignV c) 20 200), (6, within (p.filtFor c) 8 255), (7, within (p.ocCount c) 1 8),
   (8, within (p.coldLo c) 100 999), (10, within (p.coldHi c) 1001 10000), (12, within (p.capAllow c) 0 250),
   (13, within (p.resAllow c) 3 250), (14, within (p.coolTime c) 1 100), (15, within (p.crossFrac c) 1 90)]

/-- Bus record (R223). -/
def chkBus (p : ParamImage) : List (Nat × Bool) :=
  let ids := [p.masterNode 0, p.masterNode 1, p.masterNode 2, p.maintNode]
  [(0, within p.nodeRec 0 63 || p.nodeRec == 0xFF), (1, within (leAt p.bus 1 1) 0 1), (2, within p.startSet 0 7),
   (3, within (leAt p.bus 3 1) 0 1), (4, within (p.masterNode 0) 0 63), (5, within (p.masterNode 1) 0 63),
   (6, within (p.masterNode 2) 0 63), (7, (within p.maintNode 0 63 || p.maintNode == 0xFF) && decide ids.Nodup),
   (16, within p.chDown 2 64), (17, within p.listen 2 64), (18, allZero p.bus 18 6)]

/-- One slot entry of a loaded set (R224, R225 conditions 1 and 4). -/
def chkSlot (p : ParamImage) (k j : Nat) : List (Nat × Bool) :=
  if j < p.nSlots k then
    [(16 + 8 * j, within (p.owner k j) 0 63 || p.owner k j == 0xFF),
     (17 + 8 * j, (p.slotFlags k j) &&& 0xF8#8 == 0 && (!p.isSpare k j || p.owner k j == 0xFF) &&
       (!(p.isSync k j || p.isCold k j) || p.owner k j != 0xFF) && (!p.isCold k j || p.isSync k j)),
     (18 + 8 * j, within (p.slotLen k j) 300 3000), (20 + 8 * j, within (p.delay k j 0) 0 30000),
     (22 + 8 * j, within (p.delay k j 1) 0 30000)]
  else [(16 + 8 * j, allZero (p.set k) (16 + 8 * j) 8)]

/-- R27 for set k: the last master slot ends at least 47 µs before the cycle end. -/
def masterSlotsOk (p : ParamImage) (k : Nat) : Bool :=
  [0, 1, 2].all fun m => match p.slotOf k (p.masterNode m) with
    | some j => decide (p.slotStart k j + p.slotLen k j + 4700 ≤ p.tCyc k)
    | none => false

/-- This node can send in set k (R225 condition 7). -/
def ownSlotOk (p : ParamImage) (node k : Nat) : Bool :=
  (match p.slotOf k node with
    | some j => decide (438 ≤ p.slotLen k j)
    | none => false) ||
  (p.claim && (List.range (p.nSlots k)).any fun j => p.isSpare k j && decide (438 ≤ p.slotLen k j))

/-- A schedule set (R224, R225) for a node ID; a set not preloaded passes whatever else it holds. -/
def chkSched (p : ParamImage) (node k : Nat) : List (Nat × Bool) :=
  if leAt (p.set k) 0 1 = 0 then [] else
  let owners := ((List.range (p.nSlots k)).map (p.owner k)).filter (· != 0xFF)
  [(0, p.loaded k), (1, within (p.nSlots k) 1 64), (2, within (p.nit k) 2000 65535),
   (4, within (p.tCyc k) 12500 400000 && p.tCyc k == p.nit k + p.slotStart k (p.nSlots k)), (8, allZero (p.set k) 8 8)] ++
  (List.range 64).flatMap (chkSlot p k) ++
  [(16, decide owners.Nodup), (17, decide ((p.syncSlots k).length ≤ 8)), (16, masterSlotsOk p k), (16, ownSlotOk p node k),
   (17, !p.csEnable || p.startSet != k || (match p.slotOf k node with
      | some j => p.isSync k j && p.isCold k j
      | none => false))]

/-- Set k is valid for this node (R225). -/
def setValid (p : ParamImage) (node k : Nat) : Bool := p.loaded k && (chkSched p node k).all (·.2)

/-- A point named by a group safety record has the given direction and is named once in the module (R414). -/
def namedOnce (p : ParamImage) (i : Nat) : Bool :=
  ((List.finRange 12).flatMap fun g => [p.outA g, p.outB g, p.fbA g, p.fbB g]).count i == 1

/-- The point at a number, if there is one. -/
def pointAt (i : Nat) : Option Point := if h : i < 48 then some ⟨i, h⟩ else none

/-- The channel at a number, if there is one. -/
def chanAt (i : Nat) : Option Chan := if h : i < 96 then some ⟨i, h⟩ else none

/-- The group at a number, if there is one. -/
def groupAt (i : Nat) : Option GroupId := if h : i < 12 then some ⟨i, h⟩ else none

/-- Field point record (R448, R449; OT_EN and WB_EN: notes/assumptions/146.md). -/
def chkPoint (p : ParamImage) (i : Point) : List (Nat × Bool) :=
  let cs := (List.finRange 12).filter p.contactors
  let isOutP := cs.any fun g => p.outA g == i.val || p.outB g == i.val
  let isFb := cs.any fun g => p.fbA g == i.val || p.fbB g == i.val
  [(0, within (p.dir i) 0 2), (1, (octet p.point[i] 1) &&& 0xFC#8 == 0 && (!isOutP || p.otEn i) && (!isFb || p.wbEn i)),
   (2, p.debounce i == 0 || within (p.debounce i) 10 65535), (4, within (p.wbLimit i) 100 2000),
   (6, p.pair i == 0xFF || (match pointAt (p.pair i) with
      | some q => p.isIn q && q.bank != i.bank && p.pair q == i.val && p.discTime q == p.discTime i
      | none => false)),
   (7, within (p.extFilter i) 1 100), (8, if p.pair i = 0xFF then p.discTime i == 0 else within (p.discTime i) 10 2000),
   (10, within (p.ptPeriod i) 1 3600), (12, allZero p.point[i] 12 4)]

/-- Group safety record (R414). -/
def chkGroupSafety (p : ParamImage) (g : GroupId) : List (Nat × Bool) :=
  let dirOk (i : Nat) (d : Nat) : Bool := match pointAt i with
    | some q => p.dir q == d && namedOnce p i
    | none => false
  let otherBank (i j : Nat) : Bool := i / 12 != j / 12
  let free (i : Nat) : Bool := within i 0 47 || i == 0xFF
  [(0, (p.glade g) &&& ~~~(p.chUsed g) == 0#8 && (p.glade g) &&& (p.chPermissive g) == 0#8),
   (1, (octet p.groupSafety[g] 1) &&& 0xFE#8 == 0 && (p.contactors g || p.chPermissive g == 0)),
   (2, if p.contactors g then dirOk (p.outA g) 2 else free (p.outA g)),
   (3, if p.contactors g then dirOk (p.outB g) 2 && otherBank (p.outA g) (p.outB g) else free (p.outB g) && (p.outA g == 0xFF || otherBank (p.outA g) (p.outB g))),
   (4, if p.contactors g then dirOk (p.fbA g) 1 else free (p.fbA g)),
   (5, if p.contactors g then dirOk (p.fbB g) 1 && otherBank (p.fbA g) (p.fbB g) else free (p.fbB g) && (p.fbA g == 0xFF || otherBank (p.fbA g) (p.fbB g))),
   (6, within (p.fbTime g) 20 500), (8, allZero p.groupSafety[g] 8 8)]

/-- Self-test record (R426). -/
def chkSelfTest (p : ParamImage) : List (Nat × Bool) :=
  [(0, within (leAt p.selfTest 0 1) 0 1), (1, octet p.selfTest 1 == 0), (2, within p.coppicePeriod 7 200), (4, allZero p.selfTest 4 4)]

/-- Supervision record (R480). -/
def chkSuperv (p : ParamImage) : List (Nat × Bool) :=
  ((List.finRange 12).map fun g => (g.val, within (p.maxLevel g) 0 3)) ++ [(12, within p.lowerHold 1 60), (13, allZero p.superv 13 3)]

/-- Wear record (R501). -/
def chkWear (p : ParamImage) : List (Nat × Bool) :=
  [(0, within p.fitDays 14 365), (2, within p.lampAlarmDays 1 365), (4, within p.swAlarm 1000 10000), (6, within p.contAlarm 50 100),
   (7, within p.silAlarm 10 200), (8, within p.flashAlarm 50 100), (9, allZero p.wear 9 7)] ++
  (List.finRange 12).map fun g => (16 + 4 * g.val, !p.contactors g || within (p.contRating g) 10000 100000000)

/-- The checks of one record by TYPE and INDEX, for a node ID. -/
def recChecks (p : ParamImage) (node t i : Nat) : List (Nat × Bool) :=
  match t with
  | 0x01 => ((groupAt i).map (chkGroupOut p)).getD []
  | 0x02 => ((groupAt i).map (chkGroupMeas p)).getD []
  | 0x03 => ((chanAt i).map (chkFinger p)).getD []
  | 0x04 => ((chanAt i).map (chkProving p)).getD []
  | 0x05 => ((chanAt i).map (chkProbe p)).getD []
  | 0x06 => chkBus p
  | 0x07 => (if i = p.startSet then [(0, p.loaded i)] else []) ++ chkSched p node i
  | 0x08 => [(0, within p.maxAge 1 8), (1, allZero p.vote 1 3)]
  | 0x09 => [(0, within p.flashPeriod 400 2000), (2, allZero p.time 2 6)]
  | 0x0A => ((pointAt i).map (chkPoint p)).getD []
  | 0x0B => ((groupAt i).map (chkGroupSafety p)).getD []
  | 0x0C => chkSelfTest p
  | 0x0D => chkSuperv p
  | 0x0E => chkWear p
  | _ => []

/-- CAUSE of a SEAL_REFUSED answer by the TYPE of the failing record (R354). -/
def sealCause (t : Nat) : Nat := if t = 3 ∨ t = 4 then 2 else if t = 5 then 3 else if t = 7 then 4 else 1

/-- The first failure of sealing in canonical order: TYPE, INDEX and OFFSET (R354); none when every check passes. -/
def sealFailure (p : ParamImage) (node : Nat) : Option (Nat × Nat × Nat) :=
  canonOrder.findSome? fun ti =>
    ((recChecks p node ti.1 ti.2).find? (fun c => !c.2)).map fun c => (ti.1, ti.2, c.1)

end Sys2Proof.Machine
end

