-- ==== Sys2Proof/Machine/Flags.lean ====
section
/-!
DEFINITION. The codes of the block: modes (R370), life-cycle states (R343), causes (R355), verdicts (R193), lamp
and point status codes (R165, R473), response status codes (R342), fault and event codes (R420, R421, R506, R529).
-/

namespace Sys2Proof.Machine

/-- The code of a mode (R370). -/
def Mode.code : Mode → Nat
  | .thaw => 0 | .join => 1 | .commission => 2 | .service => 3 | .degraded => 4 | .dormant => 5 | .safe => 6 | .halt => 7

/-- The code of a life-cycle state (R343). -/
def LifeCycle.code : LifeCycle → Nat
  | .factory => 1 | .commissioning => 2 | .sealed => 3 | .maintenance => 4 | .retired => 5

/-- The code of a cause (R355). -/
def Cause.code : Cause → Nat
  | .none => 0 | .litRule => 1 | .notProven => 2 | .fast => 3 | .resistive => 4 | .capacitive => 5 | .high => 6
  | .low => 7 | .compliance => 8 | .offTest => 9 | .gateStuck => 10 | .majorityTest => 11

/-- The code of a verdict (R193). -/
def Verdict.code : Verdict → Nat
  | .unavailable => 0 | .intact => 1 | .cooling => 2 | .failedHigh => 3 | .failedLow => 4 | .failedCompliance => 5
  | .notProbed => 6

/-- The number of a source as scopes and SUBS name it: 0 to 2 the masters, 3 the maintenance node, 4 the local
port (R318). -/
def srcIdx : Source → Fin 5
  | .master m => ⟨m.val, by omega⟩
  | .maint => 3
  | .host => 4

/-- The source of a number. -/
def srcOf (i : Fin 5) : Source := if h : i.val < 3 then .master ⟨i.val, h⟩ else if i = 3 then .maint else .host

/-- The response ring of a source (R305). -/
def respRing (x : Source) : RingId := ⟨6 + (srcIdx x).val, by have := (srcIdx x).isLt; omega⟩

/-- The command ring of a source of its own (R305); Q05 belongs to the owner of the update session. -/
def cmdRing (x : Source) : RingId := ⟨(srcIdx x).val, by have := (srcIdx x).isLt; omega⟩

namespace Status
/-! Response status codes (R342). -/
def ok : Nat := 0
def tagRange : Nat := 1
def format : Nat := 2
def lengthRange : Nat := 3
def lengthZero : Nat := 4
def tagBusy : Nat := 5
def busy : Nat := 6
def aborted : Nat := 7
def laneDisagree : Nat := 8
def opcode : Nat := 9
def source : Nat := 10
def mode : Nat := 11
def lifecycle : Nat := 12
def range : Nat := 13
def reserved : Nat := 14
def notReady : Nat := 15
def auth : Nat := 16
def sealWrong : Nat := 17
def sealRefused : Nat := 18
def state : Nat := 19
def exitCond : Nat := 20
def teachFeed : Nat := 0x20
def notInUse : Nat := 0x21
def auxMode : Nat := 0x22
def updateOwned : Nat := 0x30
def updateState : Nat := 0x31
def imageAuth : Nat := 0x32
def imageBinding : Nat := 0x33
def imageRollback : Nat := 0x34
def settingsIncompatible : Nat := 0x35
def updateOffset : Nat := 0x36
end Status

namespace FaultCode
/-! Fault codes (R420). -/
def feedTypeMismatch : Nat := 0x0101
def feedEarthLeak : Nat := 0x0102
def proofOverdue : Nat := 0x0103
def driveLink : Nat := 0x0104
def measLink : Nat := 0x0111
def refFault : Nat := 0x0112
def feSupply : Nat := 0x0113
def feOvertemp : Nat := 0x0114
def feedFreqRange : Nat := 0x0115
def auxCalRange : Nat := 0x0116
def auxStall : Nat := 0x0117
def modFault : Nat := 0x0121
def spareFault : Nat := 0x0122
def calLaneDisagree : Nat := 0x0123
def calOverdue : Nat := 0x0124
def cross : Nat := 0x0131
def probeSource : Nat := 0x0132
def channelDown : Nat := 0x0141
def hubTime : Nat := 0x0151
def timeSplit : Nat := 0x0152
def noQuorum : Nat := 0x0161
def cvuSelftest : Nat := 0x0162
def qmemFault : Nat := 0x0171
def standbyLost : Nat := 0x0172
def paramCorrupt : Nat := 0x0181
def contactorWelded : Nat := 0x0191
def contactorNoClose : Nat := 0x0192
def revertFail : Nat := 0x0193
def gladeUnproven : Nat := 0x0194
def degradedLimit : Nat := 0x0195
def laneCompare : Nat := 0x01A1
def laneLost : Nat := 0x01A2
def lbistFail : Nat := 0x01A3
def lbistInvalid : Nat := 0x01A4
def hubSliceFail : Nat := 0x01A5
def watchdog : Nat := 0x01A6
def supplyLoss : Nat := 0x01B1
def supplyMissing : Nat := 0x01B2
def externalFeed : Nat := 0x01B3
def crossConnect : Nat := 0x01B4
def wireBreak : Nat := 0x01B5
def discrepancy : Nat := 0x01B6
def outputFault : Nat := 0x01B7
end FaultCode

namespace EventCode
/-! Event codes (R421). -/
def groupOverload : Nat := 0x0201
def dimUnsupported : Nat := 0x0202
def inrushHigh : Nat := 0x0203
def calShadow : Nat := 0x0204
def calRange : Nat := 0x0205
def calHandoff : Nat := 0x0206
def coldEarly : Nat := 0x0207
def crossEarly : Nat := 0x0208
def iqUnref : Nat := 0x0209
def react : Nat := 0x020A
def segLoss : Nat := 0x020B
def schedChanged : Nat := 0x020C
def schedReject : Nat := 0x020D
def schedDiverge : Nat := 0x020E
def csBackoff : Nat := 0x020F
def claimLost : Nat := 0x0210
def hubPassive : Nat := 0x0211
def precNg : Nat := 0x0212
def rateLimit : Nat := 0x0213
def channelDiscrepancy : Nat := 0x0214
def sealMismatch : Nat := 0x0215
def ssetMismatch : Nat := 0x0216
def masterStale : Nat := 0x0217
def laneDisagree : Nat := 0x0218
def hubSwitchover : Nat := 0x0219
def modeChange : Nat := 0x021A
def lifecycleChange : Nat := 0x021B
def coppiceAbort : Nat := 0x021C
def supplyWarn : Nat := 0x021D
def thawFail : Nat := 0x0280
def haltEntered : Nat := 0x0281
end EventCode

/-- A scope of R356: up to three octets of items, then the cause octet; 0xFF where unused. -/
def scope (items : List Nat) (cause : Nat := 0xFF) : Bytes :=
  ((items.map (BitVec.ofNat 8)) ++ List.replicate 3 0xFF).take 3 ++ [BitVec.ofNat 8 cause]

/-- The conditions of a channel as one lane holds them, for the choice of its status code (R165). -/
structure ChanConds where
  invalid : Bool
  notConfigured : Bool
  short : Bool
  overtemp : Bool
  failLit : Bool
  switchFault : Bool
  feedAbsent : Bool
  foreign : Bool
  failDark : Bool
  openCircuit : Bool
  on : Bool
  coldProof : Bool
  warming : Bool
  degraded : Bool
  deriving DecidableEq, Repr

/-- The status code of highest priority (R165). -/
def ChanConds.code (k : ChanConds) : Nat :=
  if k.invalid then 15
  else if k.notConfigured then 13
  else if k.short then 9
  else if k.overtemp then 12
  else if k.failLit then 5
  else if k.switchFault then 11
  else if k.on && k.feedAbsent then 10
  else if k.foreign then 6
  else if k.failDark then 4
  else if k.openCircuit then 8
  else if !k.on && !k.coldProof then 3
  else if k.on && k.warming then 2
  else if k.on && k.degraded then 7
  else if k.on then 1
  else 0

/-- The conditions of a field point as one lane holds them (R473). -/
structure PointConds where
  invalid : Bool
  dir : Nat
  supplyMissing : Bool
  supplyLoss : Bool
  outputFault : Bool
  crossConnect : Bool
  externalFeed : Bool
  wireBreak : Bool
  discrepancy : Bool
  on : Bool
  debounced : Bool
  deriving DecidableEq, Repr

/-- The point status code of highest priority (R473). -/
def PointConds.code (k : PointConds) : Nat :=
  if k.invalid then 15
  else if k.dir == 0 then 13
  else if k.supplyMissing then 10
  else if k.dir == 2 && k.supplyLoss then 9
  else if k.outputFault then 8
  else if k.crossConnect then 7
  else if k.externalFeed then 6
  else if k.wireBreak then 4
  else if k.discrepancy then 5
  else if k.dir == 2 then (if k.on then 3 else 2)
  else if k.debounced then 1
  else 0

end Sys2Proof.Machine
end

