-- ==== Sys2Proof/Machine/Mem.lean ====
section
/-!
DEFINITION. Memory as a list of (address, octet) pairs in one canonical form: addresses strictly rising, and no
entry that holds zero, which is what an unlisted address reads as (a wiped memory, R380; notes/assumptions/5.md).
The hubs' queue memories (R305) and the lanes' SRAM are held so.
-/

namespace Sys2Proof.Machine

/-- A memory. -/
abbrev Memory := List Host.Cell

/-- The octet at an address. -/
def Memory.read : Memory → Nat → Byte
  | [], _ => 0
  | (a, b) :: m, x => if x = a then b else if x < a then 0 else Memory.read m x

/-- The memory with one octet written. -/
def Memory.write : Memory → Nat → Byte → Memory
  | [], x, v => if v = 0 then [] else [(x, v)]
  | (a, b) :: m, x, v =>
    if x < a then (if v = 0 then (a, b) :: m else (x, v) :: (a, b) :: m)
    else if x = a then (if v = 0 then m else (x, v) :: m)
    else (a, b) :: Memory.write m x v

/-- The canonical form from a bound on. -/
def Memory.wfFrom (m : Memory) (lo : Nat) : Bool :=
  match m with
  | [] => true
  | (a, b) :: t => decide (lo ≤ a) && b != 0 && Memory.wfFrom t (a + 1)

/-- The canonical form holds. -/
def Memory.wf (m : Memory) : Bool := Memory.wfFrom m 0

/-- A run of octets written from an address on. -/
def Memory.writeRun (m : Memory) (x : Nat) (bs : Bytes) : Memory :=
  match bs with
  | [] => m
  | b :: t => Memory.writeRun (m.write x b) (x + 1) t

/-- A run of octets read from an address on. -/
def Memory.readRun (m : Memory) (x n : Nat) : Bytes := (List.range n).map fun i => m.read (x + i)

end Sys2Proof.Machine
end

