-- ==== Sys2Proof/Machine/Ops.lean ====
section
/-!
DEFINITION. The named operations over the state that every family shares: updates of one lane, hub, group or
item; lanes in the vote and the supplying lane (R33); time (R251, R279); faults, events and the event log (R315,
R345, R356); messages of the outbound rings (R305, R315); and the passing of a tick.
-/

namespace Sys2Proof.Machine

/-! ## Updates of one item -/

def State.modLane (s : State) (l : LaneId) (f : LaneState → LaneState) : State :=
  { s with lanes := s.lanes.set l (f s.lanes[l]) }
def State.modHub (s : State) (h : HubId) (f : HubState → HubState) : State :=
  { s with hubs := s.hubs.set h (f s.hubs[h]) }
def State.modFe (s : State) (g : GroupId) (f : FrontEnd → FrontEnd) : State :=
  { s with fe := s.fe.set g (f s.fe[g]) }
def State.modGroup (s : State) (g : GroupId) (f : GroupState → GroupState) : State :=
  { s with groups := s.groups.set g (f s.groups[g]) }
def State.modBank (s : State) (b : BankId) (f : BankState → BankState) : State :=
  { s with banks := s.banks.set b (f s.banks[b]) }
/-- An update of every front-end. -/
def State.modFes (s : State) (f : FrontEnd → FrontEnd) : State := { s with fe := s.fe.map f }
/-- Change a lane's running totals of wear. -/
def State.modRun (s : State) (l : LaneId) (f : WearRun → WearRun) : State :=
  { s with wear := { s.wear with run := s.wear.run.set l (f s.wear.run[l]) } }
/-- Change a lane's running totals of a lamp and its switch. -/
def State.modLamp (s : State) (l : LaneId) (c : Chan) (f : LampRun → LampRun) : State :=
  s.modRun l fun r => { r with lamp := r.lamp.set c (f r.lamp[c]) }
/-- The last switch-on joins those of the day, with its peak (R493). -/
def LampRun.fold (r : LampRun) : LampRun :=
  match r.onAt with
  | none => r
  | some _ => { r with onAt := none, peakNow := none, dayOns := r.dayOns + 1
                       peakSum := r.peakSum + r.peakNow.getD 0, peakN := r.peakN + r.peakNow.toList.length }
/-- A switch-on (R493, R495): a lit interval begins unless one runs through a flash. -/
def LampRun.turnOn (r : LampRun) (now : Nat) : LampRun :=
  let r1 := { r.fold with onAt := some now, switchOns := r.switchOns + 1 }
  if r1.litSince.isSome then r1 else { r1 with litSince := some now, iSum := 0, iN := 0 }
/-- The lit interval ends (R495): a thermal cycle where it lasted 60 s at a mean IRMS of 0.5 A. -/
def LampRun.endLit (r : LampRun) (now : Nat) : LampRun :=
  match r.litSince with
  | none => r
  | some a => { r with litSince := none, litTicks := r.litTicks + (now - max a r.histAt)
                       nth := if 60 * Config.sec ≤ now - a ∧ 0 < r.iN ∧ 500 * r.iN * 2 ^ 23 ≤ r.iSum * 40000 then r.nth + 1 else r.nth }
/-- Change a lane's running totals of a contactor. -/
def State.modCont (s : State) (l : LaneId) (i : Fin 24) (f : ContRun → ContRun) : State :=
  s.modRun l fun r => { r with cont := r.cont.set i (f r.cont[i]) }
/-- An update of every bank. -/
def State.modBanks (s : State) (f : BankState → BankState) : State := { s with banks := s.banks.map f }
def State.modRing (s : State) (q : RingId) (f : Ring → Ring) : State :=
  { s with mail := { s.mail with rings := s.mail.rings.set q (f s.mail.rings[q]) } }
def LaneState.modProv (L : LaneState) (c : Chan) (f : Proving → Proving) : LaneState :=
  { L with prov := L.prov.set c (f L.prov[c]) }
def LaneState.modProb (L : LaneState) (c : Chan) (f : Probing → Probing) : LaneState :=
  { L with prob := L.prob.set c (f L.prob[c]) }
def LaneState.modPoint (L : LaneState) (p : Point) (f : LanePoint → LanePoint) : LaneState :=
  { L with pts := L.pts.set p (f L.pts[p]) }
def State.modProv (s : State) (l : LaneId) (c : Chan) (f : Proving → Proving) : State :=
  s.modLane l fun L => L.modProv c f
def State.modProb (s : State) (l : LaneId) (c : Chan) (f : Probing → Probing) : State :=
  s.modLane l fun L => L.modProb c f
def State.modPoint (s : State) (l : LaneId) (p : Point) (f : LanePoint → LanePoint) : State :=
  s.modLane l fun L => L.modPoint p f
def State.modLatches (s : State) (l : LaneId) (f : Latches → Latches) : State :=
  s.modLane l fun L => { L with latches := f L.latches }
/-- An update of every lane. -/
def State.modLanes (s : State) (f : LaneId → LaneState → LaneState) : State :=
  { s with lanes := Vector.ofFn fun l => f l s.lanes[l] }
/-- An update of every group. -/
def State.modGroups (s : State) (f : GroupId → GroupState → GroupState) : State :=
  { s with groups := Vector.ofFn fun g => f g s.groups[g] }
/-- An update of every hub. -/
def State.modHubs (s : State) (f : HubId → HubState → HubState) : State :=
  { s with hubs := Vector.ofFn fun h => f h s.hubs[h] }

/-- How long the lanes keep their outputs, and the events that bear on them: 1.2 s (notes/assumptions/116.md). -/
def keepFor : Nat := 240000000

/-- All lanes, groups, channels, points, banks, hubs. -/
def allLanes : List LaneId := List.finRange 3
def allGroups : List GroupId := List.finRange 12
def allChans : List Chan := List.finRange 96
def allPoints : List Point := List.finRange 48
def allBanks : List BankId := List.finRange 4
def allHubs : List HubId := List.finRange 2
def allMasters : List MasterId := List.finRange 3
def groupChans (g : GroupId) : List Chan := (List.finRange 8).map (chanOf g)
def bankPoints (b : BankId) : List Point := (List.finRange 12).map (pointOf b)

/-- A fold of an update over the items of a list. -/
def State.each {α : Type} (s : State) (xs : List α) (f : State → α → State) : State := xs.foldl f s

/-! ## Lanes and parameters -/

/-- The lane is in the vote. -/
def State.active (s : State) (l : LaneId) : Bool := s.lanes[l].st == .active
/-- The lanes in the vote, in the order A, B, C. -/
def State.activeLanes (s : State) : List LaneId := allLanes.filter s.active
/-- The lanes in the vote, as a mask. -/
def State.voteMask (s : State) : LaneMask := maskOf s.active
/-- The supplying lane (R33): the first lane in the vote. -/
def State.supplier (s : State) : Option LaneId := s.activeLanes.head?
/-- The lanes that are not lost. -/
def State.aliveLanes (s : State) : List LaneId := allLanes.filter fun l => s.lanes[l].st != .lost
/-- The active parameter bank (R343), if one is active. -/
def State.activeBank (s : State) : Option ParamBank := if s.flash.bankActive then s.flash.banks[s.flash.lastBank] else none
/-- The parameters the lanes run on: the active bank (R15), or, the model's choice, the working copy while no bank is active
(notes/assumptions/132.md). -/
def State.params (s : State) : ParamImage := (s.activeBank.map (·.image)).getD s.working
/-- The parameters proving uses: the working copy in COMMISSION (R353, R371), else those in force. -/
def State.lampParams (s : State) : ParamImage := if s.mode.mode = .commission then s.working else s.params
/-- T_CYC of the set in force, in ticks (R252). -/
def State.tCyc (s : State) : Nat := s.params.cycTicks s.bus.sset
/-- Voted drive: SERVICE, DEGRADED and DORMANT (R371). -/
def Mode.drives (m : Mode) : Bool := m == .service || m == .degraded || m == .dormant
/-- Modes in which a level other than P0 may stand (R483). -/
def Mode.supervised (m : Mode) : Bool := m == .service || m == .dormant
/-- Modes in which the lanes run: every mode but THAW and HALT. -/
def Mode.runs (m : Mode) : Bool := m != .thaw && m != .halt

/-! ## Time -/

/-- The rate of lane time (R255): ticks of global time, and of the lanes' crystals, over the last 16 cycles; equal until a cycle
has been measured. -/
def State.clockRate (s : State) : Nat × Nat :=
  match s.bus.starts.head?, s.bus.starts.getLast? with
  | some a, some b => if b.struck < a.struck ∧ b.gt.toNat < a.gt.toNat then (a.gt.toNat - b.gt.toNat, a.struck - b.struck) else (1, 1)
  | _, _ => (1, 1)
/-- Lane time at an instant (R255): loaded at the strobe of the last action point, and carried on with the lanes' crystals at the
measured rate. -/
def State.laneAt (s : State) (t : Int) : Int := s.bus.apGt.toNat + (t - s.bus.apAt) * s.clockRate.1 / s.clockRate.2
/-- Lane time now (R255, R263), and at another instant (R80). -/
def State.laneTime (s : State) : Nat := (s.laneAt s.now).toNat
def State.globalAt (s : State) (t : Nat) : Nat := (s.laneAt t).toNat
/-- The vote instant in ticks after the action point: 2 µs after the last master slot ends (R25). -/
def State.voteOffset (s : State) : Nat :=
  let p := s.params
  let k := s.bus.sset
  ((allMasters.map fun m => ((p.slotOf k (p.masterNode m)).map fun j => 2 * (p.slotStart k j + p.slotLen k j)).getD 0).foldl max 0) + 400
/-- The vote instant of the running cycle in global time (R25). -/
def State.voteAt (s : State) : Nat := s.bus.apGt.toNat + s.voteOffset
/-- The wear day of the cycle's vote instant (R490). -/
def State.wearDay (s : State) : Nat := s.voteAt / 17280000000000
/-- A duration of lane time in ticks of the lanes' crystals. -/
def State.localIn (s : State) (d : Nat) : Nat := d * s.clockRate.2 / s.clockRate.1
/-- The instant at which lane time has a value. -/
def State.localOf (s : State) (g : Nat) : Nat := if g ≤ s.laneTime then s.now - s.localIn (s.laneTime - g) else s.now + s.localIn (g - s.laneTime)
/-- Lane time reaches, with this tick, a whole multiple of a duration less an offset. -/
def State.reaches (s : State) (d : Nat) (off : Nat := 0) : Bool :=
  decide ((s.laneAt s.now + off) / (d : Int) ≠ (s.laneAt (s.now - 1) + off) / (d : Int))
/-- The extended cycle number of a cycle (R279). -/
def ecnOf (cycle : Word) (ta : BitVec 64) : DWord := ((ta >>> 30).setWidth 16) ++ cycle
/-- The extended cycle number of the present cycle. -/
def State.ecn (s : State) : DWord := ecnOf s.bus.apCycle s.bus.apGt
/-- Has a duration in ticks passed since an instant? -/
def State.since (s : State) (t d : Nat) : Bool := decide (t + d ≤ s.now)
/-- Whole seconds since the last reset. -/
def State.uptime (s : State) : Nat := (s.now - s.mode.resetAt) / Config.sec

/-- A source as an octet: its node ID, or 0xFE for the local port (R356, R518). -/
def State.ownerOctet (s : State) : Source → Nat
  | .host => 0xFE
  | .maint => s.params.maintNode
  | .master m => s.params.masterNode m

/-! ## Outbound messages -/

/-- Entries of a message of n octets (R306). -/
def entriesOf (n : Nat) : Nat := (n + 127) / 128
/-- Entries between CONS and PROD of a ring. -/
def Ring.used (r : Ring) : Nat := (r.prod - r.cons).toNat
/-- Entries that a message still incomplete takes beyond PROD. -/
def Ring.begun (r : Ring) : Nat := (r.part.map (·.2)).getD 0
/-- Free entries (R318). -/
def Ring.free (r : Ring) : Nat := 32 - r.used - r.begun
/-- The header of a message (R307). -/
def header (tag flags : Nat) (op status : Nat) (len : Nat) : Bytes :=
  toLe 1 tag ++ toLe 1 flags ++ toLe 2 op ++ toLe 2 len ++ toLe 2 status
/-- The sources that subscribe to a ring Q11 to Q15 (R315, R349). -/
def State.subscribers (s : State) (q : RingId) : List Source :=
  ((List.finRange 5).filter fun i => (s.mail.subs[i]).getLsbD (q.val - 11)).map srcOf
/-- A message is placed in an outbound ring that has room. -/
def Ring.place (r : Ring) (m : OutMsg) : Ring :=
  { r with prod := r.prod + BitVec.ofNat 16 (entriesOf m.octets.length), msgCnt := r.msgCnt + 1, msgs := r.msgs ++ [m] }
/-- A message laid into both hubs' queue memory from an entry on (R305, R306): octets beyond its end in its last
entry are zero. -/
def Memory.putMsg (m : Memory) (q : RingId) (entry : Nat) (bs : Bytes) : Memory :=
  (List.range (entriesOf bs.length)).foldl
    (fun m k => m.writeRun (4096 * q.val + 128 * ((entry + k) % 32)) ((bs.drop (128 * k) ++ List.replicate 128 0).take 128)) m
/-- A message is stored in a ring of both hubs. -/
def State.putMsg (s : State) (q : RingId) (bs : Bytes) : State :=
  s.modHubs fun _ h => { h with qmem := Memory.putMsg h.qmem q s.mail.rings[q].prod.toNat bs }
/-- A message is placed in an outbound ring. -/
def State.placeMsg (s : State) (q : RingId) (m : OutMsg) : State :=
  (s.putMsg q m.octets).modRing q fun r => r.place m
/-- The ring has room for a message of n octets. -/
def Ring.room (r : Ring) (n : Nat) : Bool := decide (r.used + r.begun + entriesOf n ≤ 32)
/-- Entries of an outbound message that every destination has (R315): the local port has those that HCONS passed (none while HCONS
lies before the message), a bus destination those whose segments were sent. -/
def OutMsg.progress (m : OutMsg) (pos hcons : Word) : Nat :=
  m.dests.foldl (fun n d => min n (match d with
    | .host => if 32 < (hcons - pos).toNat then 0 else (hcons - pos).toNat
    | _ => if m.begun = some d then m.sent / 128 else 0)) (entriesOf m.octets.length)
/-- The messages at the head that every destination has leave the ring. -/
def settleMsgs (pos hcons : Word) : List OutMsg → List OutMsg
  | [] => []
  | m :: t => if m.progress pos hcons = entriesOf m.octets.length then settleMsgs (pos + BitVec.ofNat 16 (entriesOf m.octets.length)) hcons t else m :: t
/-- Entries that a list of messages takes. -/
def entriesIn (ms : List OutMsg) : Nat := (ms.map fun m => entriesOf m.octets.length).sum
/-- The entries of an outbound ring that every destination has are freed (R315). -/
def Ring.settle (r : Ring) : Ring :=
  let first := r.prod - BitVec.ofNat 16 (entriesIn r.msgs)
  let ms := settleMsgs first r.hcons r.msgs
  let pos := r.prod - BitVec.ofNat 16 (entriesIn ms)
  { r with msgs := ms, cons := pos + BitVec.ofNat 16 ((ms.head?.map fun m => m.progress pos r.hcons).getD 0) }
/-- An unsolicited message to Q11 to Q15 (R305, R315): without a subscriber the ring is emptied as fast as it is written
and the message counts as dropped; a full ring discards it and sets LOSS on the next, but Q14's waits. -/
def State.post (s : State) (q : RingId) (op : Nat) (payload : Bytes) : State :=
  let ds := s.subscribers q
  let r := s.mail.rings[q]
  let m : OutMsg := { octets := header 0xFF (2 + if r.loss then 4 else 0) op 0 payload.length ++ payload, dests := ds, stamp := s.now }
  if ds.isEmpty then (if r.room m.octets.length then s.placeMsg q m else s).modRing q fun r => { r.settle with dropCnt := r.dropCnt + 1 }
  else if r.room m.octets.length && r.waiting.isEmpty then (s.placeMsg q m).modRing q fun r => { r with loss := false }
  else if q == 14 then s.modRing q fun r => { r with waiting := r.waiting ++ [m] }
  else s.modRing q fun r => { r with dropCnt := r.dropCnt + 1, loss := true }

/-! ## Events, faults and the event log -/

/-- The 32 octets of an event (R356). -/
def State.eventOctets (s : State) (code kind lane : Nat) (sc detail : Bytes) : Bytes :=
  toLe 2 code ++ toLe 1 kind ++ toLe 1 lane ++ sc ++ toLe 4 s.ecn.toNat ++ toLe 8 s.laneTime ++
  (detail ++ List.replicate 12 0).take 12
/-- A record of the event log in flash (R315, R351). -/
def State.logRec (s : State) (r : Bytes) : State := { s with flash := { s.flash with log := s.flash.log ++ [r] } }
/-- An event: written to the log and posted to Q11 (R315). -/
def State.event (s : State) (code kind lane : Nat) (sc : Bytes) (detail : Bytes := []) : State :=
  let r := s.eventOctets code kind lane sc detail
  (s.logRec r).post 11 0x0F01 r
/-- A plain event of the module. -/
def State.note (s : State) (code : Nat) (items : List Nat) (detail : Bytes := []) (lane : Nat := 3) (cause : Nat := 0xFF) : State :=
  s.event code 0 lane (scope items cause) detail
/-- The lane octet of an event: the one lane of a mask, or 3. -/
def laneOctet (m : LaneMask) : Nat := if m = 1 then 0 else if m = 2 then 1 else if m = 4 then 2 else 3
/-- A fault stands with a code and items (the cause octet aside). -/
def State.stands (s : State) (code : Nat) (items : List Nat) : Bool :=
  s.faults.any fun f => f.code == code && f.scope.take 3 == (scope items).take 3
/-- A fault with a code stands, whatever its items. -/
def State.anyStands (s : State) (code : Nat) : Bool := s.faults.any fun f => f.code == code
/-- FAULT_SEQ of a lane advances, from 0xFFFF to 0x0001 (R170). -/
def nextSeq (w : Word) : Word := if w = 0xFFFF then 1 else w + 1
/-- A fault is raised by lanes (R345, R170): a new one enters the list and is an event of KIND 1; a lane that
joins a standing one is added to its lanes. FAULT_SEQ counts it in the lanes that did not hold it. -/
def State.raiseFault (s : State) (code : Nat) (items : List Nat) (lanes : LaneMask) (cause : Nat := 0xFF) : State :=
  let sc := scope items cause
  let held : LaneMask := ((s.faults.find? fun f => f.code == code && f.scope.take 3 == sc.take 3).map (·.lanes)).getD 0
  let s1 := s.modLanes fun l L => if has lanes l && !has held l then { L with faultSeq := nextSeq L.faultSeq } else L
  if s.stands code items then
    { s1 with faults := s1.faults.map fun (f : FaultRec) =>
        if f.code == code && f.scope.take 3 == sc.take 3 then { f with lanes := f.lanes ||| lanes } else f }
  else
    let s2 : State := { s1 with faults := s1.faults ++ [{ code := code, scope := sc, lanes := lanes, ecn := s1.ecn }] }
    s2.event code 1 (laneOctet lanes) sc
/-- A fault is withdrawn by lanes: when no lane holds it any more it leaves the list, an event of KIND 2. -/
def State.withdrawFault (s : State) (code : Nat) (items : List Nat) (lanes : LaneMask := 7) : State :=
  let sc := (scope items).take 3
  let hit (f : FaultRec) : Bool := f.code == code && f.scope.take 3 == sc
  let out := s.faults.filter fun f => hit f && (f.lanes &&& ~~~lanes) == 0
  let keep := s.faults.filter fun f => !(hit f && (f.lanes &&& ~~~lanes) == 0)
  let s1 : State := { s with faults := keep.map fun (f : FaultRec) => if hit f then { f with lanes := f.lanes &&& ~~~lanes } else f }
  s1.each out fun t f => t.event f.code 2 3 f.scope

/-! ## Free values -/

/-- The next free value, and the state whose counter has advanced (notes/assumptions/2.md). -/
def State.free (s : State) : BitVec 32 × State := (Config.freeValue s.fresh, { s with fresh := s.fresh + 1 })

/-- A step takes n free values from the counter on. -/
def State.useFree (s : State) (n : Nat) : State := { s with fresh := s.fresh + n }

/-! ## The passing of a tick (notes/assumptions/3.md) -/

/-- A hub's count after one tick of lane time (R251, R258): the rate correction is in 0.05 ppm, the slew takes back
the offset over 4,000 ticks; the count never steps back. -/
def HubTime.tick (t : HubTime) : HubTime :=
  let wait := t.slewWait - 1
  let slewing := t.slewWait = 0 ∧ 0 < t.slewLeft
  let adv : Int := 20000000 + t.rate - (if slewing then t.slew * 1000 else 0)
  let ph := t.phase + adv.toNat
  { t with gt := t.gt + BitVec.ofNat 64 (ph / 20000000), phase := ph % 20000000, slewWait := wait,
           slewLeft := if slewing then t.slewLeft - 1 else t.slewLeft }
/-- What a step does on an empty queue: one tick of 5 ns passes. -/
def State.tick (s : State) : State :=
  { s with now := s.now + 1, hubs := s.hubs.map fun h => if h.inReset then h else { h with time := h.time.tick } }

/-- The debounced state that the lane reports: 0 while WIRE_BREAK or SUPPLY_MISSING stands (R465, R467). -/
def State.inputState (s : State) (l : LaneId) (p : Point) : Bool :=
  s.lanes[l].pts[p].deb && !s.lanes[l].pts[p].wireBreak && !s.banks[p.bank].missing

end Sys2Proof.Machine
end

