-- ==== Sys2Proof/Machine/Operands.lean ====
section
/-!
DEFINITION. The forms in which operands arrive: commands and their opcodes (R307, R341), the coded records of the
masters (R278, R280, R281), drive frames (R45, R450), side frames (R76) and bank sample frames (R456).
-/

namespace Sys2Proof.Machine

/-! ## Commands -/

/-- Who may send an opcode (R341): every source, the maintenance node and the local port, the local port alone, or
the owner of the update session through Q05. -/
inductive Sources where
  | a | w | l | s
  deriving DecidableEq, Repr

/-- In which modes an opcode is executed (R341). -/
inductive ModeSet where
  | all | notJoin | commission | halt | proof | coppice
  deriving DecidableEq, Repr

/-- In which life-cycle states an opcode is executed (R341). -/
inductive LifeSet where
  | all | opened | sealing | notRetired
  deriving DecidableEq, Repr

/-- The row of an opcode in R341: payload lengths allowed, sources, modes, life-cycle states, whether its response
is lane-specific and whether it takes no payload. -/
structure OpInfo where
  lo : Nat
  hi : Nat
  src : Sources := .a
  modes : ModeSet := .all
  life : LifeSet := .all
  lspec : Bool := false
  deriving DecidableEq, Repr

/-- The opcodes (R341). PARAM_WRITE's length rests on its TYPE (R353). -/
def opInfo : Nat → Option OpInfo
  | 0x0000 => some { lo := 0, hi := 0 }
  | 0x0001 => some { lo := 0, hi := 0 }
  | 0x0002 => some { lo := 0, hi := 0 }
  | 0x0003 => some { lo := 2, hi := 2 }
  | 0x0004 => some { lo := 8, hi := 8, src := .w }
  | 0x0005 => some { lo := 12, hi := 12, src := .w, modes := .commission }
  | 0x0006 => some { lo := 4, hi := 4 }
  | 0x0007 => some { lo := 0, hi := 0, lspec := true }
  | 0x0008 => some { lo := 8, hi := 8 }
  | 0x0009 => some { lo := 0, hi := 0, lspec := true }
  | 0x000A => some { lo := 4, hi := 4, src := .l, modes := .halt }
  | 0x000B => some { lo := 8, hi := 8, src := .l, modes := .halt }
  | 0x0100 => some { lo := 4, hi := 4 }
  | 0x0101 => some { lo := 4, hi := 1016, src := .w, modes := .commission, life := .opened }
  | 0x0102 => some { lo := 0, hi := 0, src := .w, modes := .commission, life := .opened }
  | 0x0103 => some { lo := 4, hi := 4, src := .w, modes := .commission, life := .opened }
  | 0x0104 => some { lo := 0, hi := 0, src := .w, modes := .commission, life := .opened }
  | 0x0105 => some { lo := 12, hi := 12, src := .w, modes := .commission, life := .sealing }
  | 0x0200 => some { lo := 2, hi := 2 }
  | 0x0201 => some { lo := 12, hi := 12, modes := .notJoin }
  | 0x0202 => some { lo := 16, hi := 16, modes := .notJoin }
  | 0x0203 => some { lo := 4, hi := 1012, src := .w, modes := .commission, life := .opened }
  | 0x0204 => some { lo := 16, hi := 16, src := .w, modes := .commission, life := .opened }
  | 0x0300 => some { lo := 2, hi := 2, lspec := true }
  | 0x0301 => some { lo := 2, hi := 2, lspec := true }
  | 0x0302 => some { lo := 8, hi := 8, modes := .notJoin }
  | 0x0303 => some { lo := 0, hi := 0, modes := .notJoin }
  | 0x0400 => some { lo := 2, hi := 2, lspec := true }
  | 0x0401 => some { lo := 16, hi := 16 }
  | 0x0500 => some { lo := 2, hi := 2, lspec := true }
  | 0x0600 => some { lo := 0, hi := 0 }
  | 0x0601 => some { lo := 8, hi := 8, src := .w, modes := .commission, life := .opened }
  | 0x0700 => some { lo := 0, hi := 0, lspec := true }
  | 0x0701 => some { lo := 12, hi := 12, modes := .proof }
  | 0x0702 => some { lo := 0, hi := 0, src := .w, modes := .coppice }
  | 0x0800 => some { lo := 2, hi := 2 }
  | 0x0801 => some { lo := 0, hi := 0 }
  | 0x0802 => some { lo := 8, hi := 8, src := .w, life := .sealing }
  | 0x0900 => some { lo := 8, hi := 8, src := .w, life := .notRetired }
  | 0x0901 => some { lo := 5, hi := 1016, src := .s, life := .notRetired }
  | 0x0902 => some { lo := 0, hi := 0, src := .s, life := .notRetired }
  | 0x0903 => some { lo := 0, hi := 0, src := .s, modes := .commission, life := .notRetired }
  | 0x0904 => some { lo := 0, hi := 0, src := .w, modes := .commission, life := .notRetired }
  | 0x0905 => some { lo := 0, hi := 0, src := .w, modes := .commission, life := .notRetired }
  | 0x0906 => some { lo := 0, hi := 0, src := .s, life := .notRetired }
  | 0x0907 => some { lo := 0, hi := 0 }
  | 0x0A00 => some { lo := 2, hi := 2, lspec := true }
  | _ => none

/-- A mode is one of a set of R341. -/
def ModeSet.allows : ModeSet → Mode → Bool
  | .all, m => m.runs
  | .notJoin, m => m.runs && m != .join
  | .commission, m => m == .commission
  | .halt, m => m == .halt
  | .proof, m => m == .commission || m == .service || m == .degraded || m == .safe
  | .coppice, m => m == .commission || m == .service

/-- A life-cycle state is one of a set of R341; a state not yet read allows none but "all". -/
def LifeSet.allows : LifeSet → Option LifeCycle → Bool
  | .all, _ => true
  | .opened, k => k == some .factory || k == some .commissioning || k == some .maintenance
  | .sealing, k => k == some .commissioning || k == some .maintenance
  | .notRetired, k => k.isSome && k != some .retired

/-- The octets of a command as they lie in its ring (R307). -/
def cmdOctets (c : MailCmd) (op : Nat) : Bytes := header c.tag.toNat 0 op 0 c.payload.length ++ c.payload

/-- The fields of a stored command message. -/
def msgTag (m : Bytes) : Nat := leAt m 0 1
def msgFlags (m : Bytes) : Nat := leAt m 1 1
def msgOp (m : Bytes) : Nat := leAt m 2 2
def msgLen (m : Bytes) : Nat := leAt m 4 2
def msgStatus (m : Bytes) : Nat := leAt m 6 2

/-- A command as the operations see it: its source, transaction number and payload. -/
structure Cmd where
  src : Source
  ring : RingId
  num : Nat
  tag : Byte
  p : Bytes
  deriving DecidableEq, Repr

/-- A mask of n items in a payload at an offset (field conventions of the command reference). -/
def maskAt (n : Nat) (p : Bytes) (off : Nat) : BitVec n := BitVec.ofNat n (leAt p off (n / 8))

/-- PERSON values that are refused (field conventions). -/
def badPerson (v : Nat) : Bool := v == 0 || v == 0xFFFFFFFF

/-! ## The masters' records (R280): fields of the 106 payload octets -/

/-- The command of channel c in an IMAGE payload. -/
def imgLamp (p : Bytes) (c : Chan) : BitVec 4 := ((octet p (c.val / 2)) >>> (4 * (c.val % 2))).setWidth 4
/-- The POINT field. -/
def imgPoints (p : Bytes) : PointMask := maskAt 48 p 48
/-- Budget octet i of an IMAGE payload. -/
def imgBudget (p : Bytes) (i : Nat) : Byte := octet p (54 + i)
/-- The SEAL field. -/
def imgSeal (p : Bytes) : Bytes := slice p 78 8
/-- The SSET field. -/
def imgSset (p : Bytes) : Nat := (leAt p 86 1) % 8
/-- The CLR field. -/
def imgClr (p : Bytes) : BitVec 16 := BitVec.ofNat 16 (leAt p 88 2)
/-- Reserved octets and bits of an IMAGE payload are zero (R282). -/
def imgClean (p : Bytes) : Bool := (leAt p 86 1) < 8 && allZero p 87 1 && allZero p 90 16

/-- The implicit block (R278). -/
def implicit (kind sender dest lane : Nat) (ecn : DWord) : Bytes :=
  toLe 1 kind ++ toLe 1 sender ++ toLe 1 dest ++ toLe 1 lane ++ toLe 4 ecn.toNat
/-- The safety code over an implicit block and a payload (R277). -/
def scode (imp payload : Bytes) : Bytes := toLe 4 (crc32c (imp ++ payload)).toNat

/-! ## Drive frames (R45, R450) -/

/-- LID of a lane. -/
def lid (l : LaneId) : Nat := l.val + 1
/-- A frame from its twelve low bits, with its FCS (R46). -/
def withFcs (w : BitVec 16) : BitVec 16 := (w &&& 0x0FFF#16) ||| BitVec.ofNat 16 (crc4 w * 4096)
/-- The FCS of a frame checks. -/
def fcsOk (w : BitVec 16) : Bool := field w 12 4 == crc4 w
/-- PH of a frame to a group front-end, and to a bank. -/
def phG (w : BitVec 16) : Bool := w.getLsbD 8
def phB (w : BitVec 16) : Bool := w.getLsbD 9
/-- A frame to a group front-end. -/
def groupFrame (l : LaneId) (ph clr : Bool) (ch : BitVec 8) : BitVec 16 :=
  withFcs (ch.setWidth 16 ||| (if ph then 0x100#16 else 0) ||| BitVec.ofNat 16 (512 * lid l) ||| (if clr then 0x800#16 else 0))
/-- A frame to a bank. -/
def bankFrame (l : LaneId) (ph clr half : Bool) (q : BitVec 6) : BitVec 16 :=
  withFcs (q.setWidth 16 ||| (if clr then 0x80#16 else 0) ||| (if half then 0x100#16 else 0) ||| (if ph then 0x200#16 else 0) |||
    BitVec.ofNat 16 (1024 * lid l))

/-! ## Side frames (R76) -/

namespace Side
def gs (w : SideBits) : BitVec 8 := w.setWidth 8
def sc (w : SideBits) : BitVec 8 := (w >>> 8).setWidth 8
def ot (w : SideBits) : BitVec 8 := (w >>> 16).setWidth 8
/-- The on-vote read-back of a lane input. -/
def rb (w : SideBits) (l : LaneId) : BitVec 8 := (w >>> (24 + 8 * l.val)).setWidth 8
def fv (w : SideBits) : BitVec 3 := (w >>> 48).setWidth 3
def gds (w : SideBits) : Bool := w.getLsbD 51
def refs (w : SideBits) : Bool := w.getLsbD 52
def auxEntry (w : SideBits) : Nat := field w 53 5
def auxInput (w : SideBits) : Nat := field w 58 4
def auxNs (w : SideBits) : Bool := w.getLsbD 62
def auxRaw (w : SideBits) : Int := signed 18 (field w 63 18)
def auxSeq (w : SideBits) : Word := (w >>> 81).setWidth 16
def vw (w : SideBits) : BitVec 8 := (w >>> 97).setWidth 8
def ovl (w : SideBits) : BitVec 20 := (w >>> 105).setWidth 20
/-- AUX_STATE: injected sequence active, injected pending, calibration pending. -/
def auxState (w : SideBits) : BitVec 3 := (w >>> 125).setWidth 3
/-- A side frame with its CRC over bits 175:0. -/
def withCrc (w : SideBits) : SideBits := (w &&& BitVec.ofNat 192 (2 ^ 176 - 1)) ||| ((crc16Bits w 176).setWidth 192 <<< 176)
/-- The CRC checks. -/
def crcOk (w : SideBits) : Bool := field w 176 16 == (crc16Bits w 176).toNat
end Side

/-! ## Bank sample frames (R456), the fields in the order of its table (notes/assumptions/4.md) -/

namespace BankF
def raw (w : BankBits) : PosMask := w.setWidth 12
def rb (w : BankBits) : PosMask := (w >>> 12).setWidth 12
def gs (w : BankBits) : PosMask := (w >>> 24).setWidth 12
def cl (w : BankBits) : PosMask := (w >>> 36).setWidth 12
def ol (w : BankBits) : PosMask := (w >>> 48).setWidth 12
/-- The on-vote read-back of a lane input. -/
def rbl (w : BankBits) (l : LaneId) : PosMask := (w >>> (60 + 12 * l.val)).setWidth 12
def fv (w : BankBits) : BitVec 3 := (w >>> 96).setWidth 3
def sup (w : BankBits) : BitVec 3 := (w >>> 99).setWidth 3
def midx (w : BankBits) : Nat := field w 102 4
def mval (w : BankBits) : Nat := field w 106 16
/-- A sample frame with its CRC over the other 144 bits. -/
def withCrc (w : BankBits) : BankBits := (w &&& BitVec.ofNat 160 (2 ^ 144 - 1)) ||| ((crc16Bits w 144).setWidth 160 <<< 144)
/-- The CRC checks. -/
def crcOk (w : BankBits) : Bool := field w 144 16 == (crc16Bits w 144).toNat
/-- A frame that a lane acts on: its CRC checks, and it carries none of the reserved MIDX 14 and 15 (R9, R456). -/
def good (w : BankBits) : Bool := crcOk w && decide (midx w < 14)
end BankF

/-! ## Octet packings -/

/-- Four-bit values packed two to an octet, the even item low (R170). -/
def nibbles : List Nat → Bytes
  | a :: b :: t => BitVec.ofNat 8 (a + 16 * b) :: nibbles t
  | [a] => [BitVec.ofNat 8 a]
  | [] => []

end Sys2Proof.Machine
end

