-- ==== Sys2Proof/Machine/Status.lean ====
section
/-!
DEFINITION. Derivation of the drive image (R21, R58, R266, R403) and the status codes a lane reports for channels,
points and groups (R165, R167, R170, R473).
-/

namespace Sys2Proof.Machine

/-! ## Commands and the drive image -/

/-- The mode at the next action point (R372). -/
def State.targetMode (s : State) : Mode := (s.mode.next.map (·.target)).getD s.mode.mode
/-- Flash phase B is shown in a cycle of nominal start ta and length t (R266). -/
def phaseB (ta t half : Nat) : Bool := (ta + t / 2) / half % 2 == 1
/-- The flash phase of the next cycle is B; in COMMISSION by FLASH_PERIOD of the working copy (R353, R360). -/
def State.nextPhaseB (s : State) : Bool :=
  phaseB (s.bus.apGt.toNat + s.tCyc) s.tCyc ((if s.targetMode = .commission then s.working else s.params).flashPeriod * 100000)
/-- A command shows light in a phase (R58, R59, R280). -/
def cmdLit (cmd : BitVec 4) (b : Bool) : Bool := cmd == 1 || cmd == 4 || cmd == 5 || (cmd == 2 && !b) || (cmd == 3 && b)
/-- A command is dark: 0, or a reserved value (R44). -/
def cmdDark (cmd : BitVec 4) : Bool := cmd == 0 || decide (6 ≤ cmd.toNat)
/-- The channel that a running TEACH teaches in a group: its first unfinished entry (R161). -/
def TeachRun.current (t : TeachRun) (g : GroupId) : Option Chan :=
  ((t.entries.filter fun e => e.1.group == g && !(t.done.any fun d => d.1 == e.1)).head?).map (·.1)
/-- The next action point's instant by lane time. -/
def State.nextAp (s : State) : Nat := s.bus.apAt + s.localIn s.tCyc
/-- Step 1 of R161 ends when four complete code periods of 127.875 ms have passed since the channel's start. -/
def State.teachStep1End (s : State) (since : Nat) : Nat :=
  since + s.localIn ((25575000 - s.globalAt since % 25575000) % 25575000 + 4 * 25575000)
/-- A taught channel is closed in the cycle that starts at the next action point: from step 2 until the first action
point at or after 2,000 ms (R161). -/
def State.teachCloses (s : State) (t : TeachRun) (c : Chan) : Bool :=
  t.current c.group == some c && decide (s.teachStep1End t.since[c.group] ≤ s.nextAp) &&
  (t.onAt[c.group]).all fun a => decide (s.nextAp < a + 400000000)
/-- A test overlay of COMMISSION covers the cycle that starts at the next action point (R360, R364). -/
def State.testCovers (s : State) (t : TimedTest) : Bool := t.endAt.all fun e => decide (s.bus.apAt + s.tCyc < e)
/-- The command of the LAMP_TEST or TEACH overlay on a channel from the next action point (R15, R23, R360); dark where
neither names it. -/
def State.testCmd (s : State) (c : Chan) : BitVec 4 :=
  match s.act.lamp with
  | some t => if has t.chans c && s.testCovers t then t.cmd else 0
  | none => if s.act.teach.any fun t => s.teachCloses t c then 1 else 0
/-- The command that acts on a channel from the next action point in one lane: in COMMISSION that of its test overlay, else
the voted one (R15, R288). -/
def State.cmdNext (s : State) (l : LaneId) (c : Chan) : BitVec 4 :=
  if s.targetMode = .commission then s.testCmd c else s.lanes[l].voted.cmd[c]
/-- A latched fault set without the latches of another; what it says of the contactor outputs is no latch to clear. -/
def Latches.less (k c : Latches) : Latches :=
  { short := k.short &&& ~~~c.short, overtemp := k.overtemp &&& ~~~c.overtemp, switchFault := k.switchFault &&& ~~~c.switchFault
    react := k.react &&& ~~~c.react, revert := k.revert &&& ~~~c.revert, energy := k.energy &&& ~~~c.energy, safeState := k.safeState &&& ~~~c.safeState
    safeDark := k.safeDark &&& ~~~c.safeDark, staged := k.staged &&& ~~~c.staged, keepA := k.keepA, keepB := k.keepB
    supplyLoss := k.supplyLoss &&& ~~~c.supplyLoss, outFault := k.outFault &&& ~~~c.outFault, restart := k.restart &&& ~~~c.restart
    safe := k.safe && !c.safe }
/-- The latched fault set from which a lane derives the next cycle: without those that the last vote clears (R289). -/
def LaneState.due (L : LaneState) : Latches := L.latches.less L.clr
/-- Every latch that keeps a channel off (R22). -/
def Latches.chanOff (k : Latches) : ChanMask := k.short ||| k.overtemp ||| k.switchFault ||| k.react
/-- Lamps and points are driven from votes in the next cycle: not held as R56 and R371 say. -/
def State.drivesNext (s : State) : Bool := s.targetMode.drives || s.targetMode == .safe
/-- A group shows its Glade pattern in one lane in the next cycle: under its revert latch, and in SAFE (R56, R403). -/
def State.revertNext (s : State) (l : LaneId) (g : GroupId) : Bool :=
  s.targetMode != .commission && (has s.lanes[l].due.revert g || s.targetMode == .safe)
/-- A channel derived on in one lane for the next cycle (R21, R403, R405, R409). -/
def State.chanOnNext (s : State) (l : LaneId) (c : Chan) : Bool :=
  let p := s.params
  let k := s.lanes[l].due
  s.drivesNext && p.used c && !has k.chanOff c && !has k.energy c.group &&
  (if s.revertNext l c.group then p.inGlade c else cmdLit (s.cmdNext l c) s.nextPhaseB)
/-- The group whose contactor output a point is, with true for OUT_A (R412). -/
def ParamImage.contactorOf (p : ParamImage) (i : Point) : Option (GroupId × Bool) :=
  allGroups.findSome? fun g =>
    if !p.contactors g then none
    else if p.outA g == i.val then some (g, true)
    else if p.outB g == i.val then some (g, false) else none
/-- A latch keeps an output point off (R22, R455, R468). -/
def Latches.pointOff (k : Latches) (i : Point) : Bool := has k.outFault i || has k.restart i || has k.supplyLoss i.bank
/-- A point derived on in one lane for the next cycle (R403, R405, R455, R468). At its stage-1 action point a contactor output of a
reverting group is on only if it was on and is voted on, from then on only if it was kept: the latched set holds both (R22, R403). -/
def State.pointOnNext (s : State) (l : LaneId) (i : Point) : Bool :=
  let L := s.lanes[l]
  let k := L.due
  let free := s.drivesNext && s.params.isOut i && has L.voted.pts i && !k.pointOff i
  match s.params.contactorOf i with
  | none => free
  | some (g, isA) =>
    if has k.energy g then false
    else if s.revertNext l g then
      has (if isA then k.keepA else k.keepB) g &&
      (if has k.staged g then s.drivesNext && !has k.outFault i && !has k.supplyLoss i.bank else free)
    else free
/-- A lane's drive image for the next cycle, from the voted images, the sealed parameters, its latched fault set and
global time (R21). In COMMISSION no output is derived on (R371). -/
def State.derived (s : State) (l : LaneId) : DriveImage :=
  { on := maskOf (s.chanOnNext l)
    pts := maskOf (s.pointOnNext l)
    dim := maskOf fun (c : Chan) => s.chanOnNext l c && !s.params.isAc c.group && (s.cmdNext l c == 4 || s.cmdNext l c == 5) && !s.revertNext l c.group
    flash := maskOf fun (c : Chan) => s.drivesNext && (s.cmdNext l c == 2 || s.cmdNext l c == 3) && !s.revertNext l c.group
    revert := maskOf (s.revertNext l)
    energy := s.lanes[l].due.energy }
/-- The LAMP_TEST or TEACH overlay adds "on" for a channel in the next cycle (R23, R161, R360): only in COMMISSION, never
against a latch. -/
def State.testOnNext (s : State) (l : LaneId) (c : Chan) : Bool :=
  let k := s.lanes[l].due
  s.targetMode == .commission && s.working.used c && !has k.chanOff c && !has k.energy c.group && cmdLit (s.testCmd c) s.nextPhaseB
/-- The FIELD_TEST overlay adds "on" for a point in the next cycle (R23, R364). -/
def State.testPtNext (s : State) (l : LaneId) (i : Point) : Bool :=
  s.targetMode == .commission && s.working.isOut i && !s.lanes[l].due.pointOff i &&
  s.act.field.any fun t => has t.pts i && s.testCovers t
/-- The images for the next action point are handed over already, and it is too late to hand over others (R400). -/
def State.pastHandOver (s : State) : Bool := s.mode.voted && decide (s.nextAp < s.now + 440)
/-- What a lane hands to its DRIVE domain for the next cycle: the derived image with the overlays that travel on the image
channel, those of TEACH, LAMP_TEST and FIELD_TEST (R20, R23). -/
def State.derive (s : State) (l : LaneId) : DriveImage :=
  let d := s.derived l
  let flashes (c : Chan) : Bool := s.testCmd c == 2 || s.testCmd c == 3
  let dims (c : Chan) : Bool := !s.working.isAc c.group && (s.testCmd c == 4 || s.testCmd c == 5)
  { d with
    on := d.on ||| maskOf (s.testOnNext l)
    pts := d.pts ||| maskOf (s.testPtNext l)
    dim := d.dim ||| maskOf fun (c : Chan) => s.testOnNext l c && dims c
    flash := d.flash ||| maskOf fun (c : Chan) => s.targetMode == .commission && flashes c }

/-- A test of COMMISSION that starts after the vote reaches the next action point with images derived anew (R360, R364, R400). -/
def State.overlayNow (s : State) : State :=
  if s.mode.voted && !s.pastHandOver then
    s.modLanes fun l L => if L.st == .active && !L.noImage then { L with drive := { L.drive with next := s.derive l } } else L
  else s

/-! ## What stands in force -/

/-- A channel's derived state in one lane is on. -/
def State.isOn (s : State) (l : LaneId) (c : Chan) : Bool := has s.lanes[l].drive.img.on c
/-- A channel is derived on in some lane in the vote. -/
def State.anyOn (s : State) (c : Chan) : Bool := s.activeLanes.any fun l => s.isOn l c
/-- The lane cannot judge the samples of a group (R77, R96). -/
def State.blind (s : State) (l : LaneId) (g : GroupId) : Bool := s.lanes[l].grp[g].measLink || !s.fe[g].refs
/-- The samples of a group are unavailable for its channels' codes (R165): while side frames are missing, and while REFS is clear
at the levels whose modulators run (R478, R479). -/
def State.unavailable (s : State) (l : LaneId) (g : GroupId) : Bool :=
  s.lanes[l].grp[g].measLink || (!s.fe[g].refs && decide (s.groups[g].level.val < 2))
/-- 255.75 ms in ticks, the age a cold proof may have (R167). -/
def proofAge : Nat := 51150000
/-- DECAY of a channel in ticks (R140: units of 10 µs; R136: 5 ms in classes 1 and 2). -/
def ParamImage.decayTicks (p : ParamImage) (c : Chan) : Nat := 2000 * p.decay c
/-- A dark channel has a current cold proof in one lane (R167); a fault of a probe rail withholds it (R420). -/
def State.coldProof (s : State) (l : LaneId) (c : Chan) : Bool :=
  let b := s.lanes[l].prob[c]
  let a := s.lanes[l].prov[c]
  b.verdict == .intact && s.groups[c.group].level == 0 && !s.stands FaultCode.feSupply [c.group.val, 8] &&
  !s.stands FaultCode.feSupply [c.group.val, 9] && decide (s.now ≤ b.verdictEnd + proofAge) &&
  decide ((a.offAt.getD 0) + s.lampParams.decayTicks c ≤ b.verdictStart)
/-- The decisions that a channel's code shows: those held, and those cleared by PROVE_CLEAR until the next action point
(R357). -/
def Proving.shownDark (a : Proving) : Bool := a.failDark || a.lapse.any (·.dark)
def Proving.shownLit (a : Proving) : Bool := a.failLit || a.lapse.any (·.lit)
def Proving.shownForeign (a : Proving) : Bool := a.foreign || a.lapse.any (·.foreign)
/-- The conditions of a channel in one lane (R165). A lit channel whose decisions the lane did not take over at REJOIN stays invalid
until it decides on it (R432, notes/assumptions/143.md). -/
def State.chanConds (s : State) (l : LaneId) (c : Chan) : ChanConds :=
  let L := s.lanes[l]
  let a := L.prov[c]
  { invalid := L.st != .active || s.unavailable l c.group || !has L.decided c.group ||
      (a.untaken && s.isOn l c && !a.litOk && !a.shownDark)
    notConfigured := !s.lampParams.configured c
    short := has L.latches.short c
    overtemp := has L.latches.overtemp c
    failLit := a.shownLit
    switchFault := has L.latches.switchFault c
    feedAbsent := s.groups[c.group].feed.absent || s.groups[c.group].feed.mismatch
    foreign := a.shownForeign
    failDark := a.shownDark
    openCircuit := L.prob[c].openCircuit
    on := s.isOn l c
    coldProof := s.coldProof l c
    warming := !a.litOk
    degraded := a.degraded }
/-- The status code a lane reports for a channel (R165). -/
def State.chanCode (s : State) (l : LaneId) (c : Chan) : Nat := (s.chanConds l c).code
/-- The conditions of a point in one lane (R473); before the lane's first decision it is LANE_INVALID (R165). -/
def State.pointConds (s : State) (l : LaneId) (i : Point) : PointConds :=
  let L := s.lanes[l]
  let a := L.pts[i]
  { invalid := L.st != .active || L.bank[i.bank].measLink || !a.decided
    dir := s.lampParams.dir i
    supplyMissing := s.banks[i.bank].missing
    supplyLoss := has L.latches.supplyLoss i.bank || has L.latches.restart i
    outputFault := has L.latches.outFault i
    crossConnect := a.crossConnect
    externalFeed := a.extFeed
    wireBreak := a.wireBreak
    discrepancy := a.discrepancy
    on := has L.drive.img.pts i
    debounced := a.deb }
/-- The status code a lane reports for a point (R473). -/
def State.pointCode (s : State) (l : LaneId) (i : Point) : Nat := (s.pointConds l i).code
/-- A group is in its safe state in a lane (R409): after stage 2 once it went safe-dark, else once stage 1 ended. -/
def Latches.inSafe (k : Latches) (g : GroupId) : Bool := if has k.energy g then has k.safeDark g else has k.safeState g
/-- A revert of a group is in progress in a lane: from its trigger until the safe state is reached (R409). -/
def Latches.reverting (k : Latches) (g : GroupId) : Bool := has k.revert g && !k.inSafe g
/-- The GROUP octet of a lane (R170); the feed is not evaluated at P2 and P3 (R479). -/
def State.groupOctet (s : State) (l : LaneId) (g : GroupId) : Nat :=
  let G := s.groups[g]
  let p := s.params
  let k := s.lanes[l].latches
  let fed := p.chUsed g != 0 && decide (G.level.val < 2)
  G.level.val + (if fed && !G.feed.absent then 4 else 0) + (if fed && p.isAc g && G.feed.lock then 8 else 0) + (if k.reverting g then 16 else 0) + (if k.inSafe g then 32 else 0)
/-- The cause octet that goes with a status code (R355, R356); 0xFF where there is none. -/
def State.causeOf (s : State) (l : LaneId) (c : Chan) (code : Nat) : Nat :=
  let a := s.lanes[l].prov[c]
  let k : Cause := if code = 4 then a.darkCause else if code = 6 then a.forCause else if code = 11 then a.swCause
    else if code = 8 then s.lanes[l].prob[c].ocCause else .none
  if k = .none then 0xFF else k.code
/-- The next status change of a captured channel, in the lane that supplies its samples, triggers a TRIG 2 capture (R362). -/
def CaptureRun.statusChange (r : CaptureRun) (l : LaneId) (c : Chan) (now : Nat) : CaptureRun :=
  if r.trig = 2 ∧ r.trigAt.isNone ∧ r.lane = l ∧ r.chan = c then { r with trigAt := some now } else r
/-- What the event of a transition names: the channel, and for FOREIGN the suspected source (R200, R205). -/
def State.chanItems (s : State) (l : LaneId) (c : Chan) (k : Nat) : List Nat :=
  if k = 6 then [c.val, (s.lanes[l].prov[c].source.map (·.val)).getD 0xFF] else [c.val]
/-- A lane reports a channel's code anew: a transition into a code from 4 to 12 is an event (R169). -/
def State.noteChan (s : State) (l : LaneId) (c : Chan) : State :=
  let k := s.chanCode l c
  if s.lanes[l].codes[c] = k then s else
  let s0 : State := { s with act := { s.act with capture := s.act.capture.map fun r => r.statusChange l c s.now } }
  let s1 := s0.modLane l fun L => { L with codes := L.codes.set c k }
  if 4 ≤ k ∧ k ≤ 12 then s1.event k 3 l.val (scope (s.chanItems l c k) (s.causeOf l c k)) else s1
/-- A lane reports a point's code anew: a transition into a code from 4 to 10 is an event (R473). -/
def State.notePoint (s : State) (l : LaneId) (i : Point) : State :=
  let k := s.pointCode l i
  if s.lanes[l].ptCodes[i] = k then s else
  let s1 := s.modLane l fun L => { L with ptCodes := L.ptCodes.set i k }
  if 4 ≤ k ∧ k ≤ 10 then s1.event (0x10 + k) 3 l.val (scope [i.val]) else s1
/-- Every lane in the vote reports every channel and point anew. -/
def State.noteAll (s : State) : State :=
  s.each s.activeLanes fun s l => (s.each allChans fun s c => s.noteChan l c).each allPoints fun s i => s.notePoint l i
/-- The statuses agreed by two valid lanes (R294); 0xFF for none. -/
def State.votedChan (s : State) (c : Chan) : Nat :=
  let vs := (s.activeLanes.map fun l => s.chanCode l c).filter (· != 15)
  (vs.find? fun v => decide (2 ≤ vs.count v)).getD 0xFF
def State.votedPoint (s : State) (i : Point) : Nat :=
  let vs := (s.activeLanes.map fun l => s.pointCode l i).filter (· != 15)
  (vs.find? fun v => decide (2 ≤ vs.count v)).getD 0xFF
/-- The 48 octets of lamp statuses of a lane (R170). -/
def State.lampOctets (s : State) (l : LaneId) : Bytes := nibbles (allChans.map (s.chanCode l))
/-- The 48 octets of voted lamp statuses; 15 stands for none. -/
def State.votedLamps (s : State) : Bytes := nibbles (allChans.map fun c => min (s.votedChan c) 15)

end Sys2Proof.Machine
end

