-- ==== Sys2Proof/Machine/Regs.lean ====
section
/-!
DEFINITION. The words of the register window (R32): the blocks a hub holds itself (identity R528, ring descriptors
R318, time R269 to R275, bus R247 to R249, queue memory R305) and those the supplying lane fills (R33): mode and
status (R390 to R393), measurement (R107 to R117), field points (R475, R476), self-test (R444 to R447) and wear
(R505, R506).
-/

namespace Sys2Proof.Machine

/-- Word i of a value. -/
def wordOf (v i : Nat) : Nat := (v >>> (16 * i)) % 65536
/-- A flag as a number. -/
def bit (b : Bool) (i : Nat) : Nat := if b then 2 ^ i else 0
/-- A signed value in n bits. -/
def tc (n : Nat) (v : Int) : Nat := (v % ((2 ^ n : Nat) : Int)).toNat
/-- A saturating count. -/
def sat (v m : Nat) : Nat := if m < v then m else v

/-! ## Images and identity -/

/-- The header field of an image slot (R512). -/
def slotField (img : Bytes) (off n : Nat) : Nat := leAt img off n
/-- VERSION of the running image. -/
def State.fwVersion (s : State) : Nat := slotField s.flash.slots[s.upd.runSlot] 12 4
/-- The OTP minimum (R515): the highest written cell. -/
def Otp.minimum (o : Otp) : Nat := (o.minCells.map (·.toNat)).foldl max 0
/-- The unit ID, from hub X's chip (R508). -/
def Otp.unitId (o : Otp) : Nat :=
  let c := o.chips[3]
  c.lot.toNat + 2 ^ 24 * c.wafer.toNat + 2 ^ 30 * c.dieX.toNat + 2 ^ 38 * c.dieY.toNat + 2 ^ 46 * c.fab.toNat
/-- The seal of the active bank as it stands in flash; zero while none is active (R343). -/
def State.sealOf (s : State) : Bytes := (s.activeBank.map (·.sealCode)).getD (List.replicate 8 0)
/-- The boot control copy in force (R511): the higher SEQ whose CRC checks. -/
def Flash.bootRec (f : Flash) : BootRec :=
  let a := f.boot[0]
  let b := f.boot[1]
  if a.crcOk && (!b.crcOk || decide (b.seq ≤ a.seq)) then a else b
/-- The session state's code (R517). -/
def UpdState.code : UpdState → Nat
  | .idle => 0 | .receiving => 1 | .received => 2 | .verified => 3 | .trial => 4 | .fallback => 5

/-- Identity words (R528), filled at Thaw step 7 with the boot counter (R391). -/
def State.identWord (s : State) (a : Nat) : Nat :=
  if s.mode.bootShown = 0 then 0 else
  let b := s.flash.bootRec
  if a < 4 then wordOf s.otp.unitId a
  else if a = 4 then 0x0960
  else if a = 5 then bit s.otp.order96L 0
  else if a < 8 then wordOf s.fwVersion (a - 6)
  else if a = 8 then
    bit (s.upd.runSlot == 1) 15 + bit s.upd.trialRun 14 + bit (s.flash.lastBank == 1) 13 + bit (b.fallbackBank == some 1) 12 +
    512 * s.upd.st.code + bit s.upd.incompat 8 + 64 * sat b.trials 3 + 16 * b.slotBad.toNat
  else if a ≤ 0xC then wordOf (leAt s.sealOf 0 8) (a - 9)
  else if a ≤ 0xE then wordOf s.otp.minimum (a - 0xD)
  else if h : 0x10 ≤ a ∧ a - 0x10 < 21 then
    let c := s.otp.chips[a - 0x10]'(h.2)
    8192 * c.rev.toNat + 512 * c.fab.toNat + bit c.otpOk 8
  else 0

/-! ## Ring descriptors (R318) -/

/-- Transactions in flight from a source (R309). -/
def State.inFlight (s : State) (x : Source) : Nat := (s.mail.txns.filter fun t => t.src == x && t.inFlight).length
/-- The local port subscribes to a ring. -/
def State.hostReads (s : State) (q : RingId) : Bool := q == 10 || (decide (11 ≤ q.val) && (s.mail.subs[4]).getLsbD (q.val - 11))
/-- SUBS of a ring. -/
def State.subsWord (s : State) (q : RingId) : Nat :=
  if 6 ≤ q.val ∧ q.val ≤ 10 then 2 ^ (q.val - 6)
  else if 11 ≤ q.val then ((List.finRange 5).map fun i => bit ((s.mail.subs[i]).getLsbD (q.val - 11)) i.val).sum else 0
/-- The expected MSEQ of an inbound ring's stream (R243, R244): that of its source; of Q05, that of the session's owner. -/
def State.expMseq (s : State) (q : RingId) : Byte :=
  if q = 5 then (match s.upd.owner with
    | some .host => 0
    | some x => s.mail.rings[cmdRing x].expMseq
    | none => 0)
  else s.mail.rings[q].expMseq
/-- A descriptor word. -/
def State.ringWord (s : State) (q : RingId) (w : Nat) : Nat :=
  let r := s.mail.rings[q]
  match w with
  | 0 => 4096 * q.val + bit (decide (6 ≤ q.val)) 11 + bit s.mail.opened 10
  | 1 => 32
  | 2 => 64
  | 3 => 0x8000 + 0x800 * q.val
  | 4 => r.prod.toNat
  | 5 => r.cons.toNat
  | 6 => if s.hostReads q then r.hcons.toNat else r.cons.toNat
  | 7 => r.free
  | 8 => if q.val < 4 || q.val == 5 then 256 * r.limit.toNat + (s.expMseq q).toNat else 0
  | 9 => s.subsWord q
  | 0xA => if h : q.val < 5 then s.inFlight (srcOf ⟨q.val, h⟩) else 0
  | 0xC => wordOf r.msgCnt.toNat 0
  | 0xD => wordOf r.msgCnt.toNat 1
  | 0xE => wordOf r.dropCnt.toNat 0
  | 0xF => wordOf r.dropCnt.toNat 1
  | 0x10 => if q.val < 6 then wordOf r.refuseCnt.toNat 0 else 0
  | 0x11 => if q.val < 6 then wordOf r.refuseCnt.toNat 1 else 0
  | _ => 0

/-! ## Time and bus (R247 to R249, R269 to R275) -/

/-- The slot this node sends in: that of its own ID, or a claimed one, once the module is integrated. -/
def State.slotInUse (s : State) : Option Nat :=
  match s.params.slotOf s.bus.sset s.bus.nodeId with
  | some j => some j
  | none => s.bus.claimed
/-- The hub sends on its channel: in SEND, not faulted, not lost in Thaw. -/
def HubState.sends (H : HubState) : Bool := H.bus.integ == .send && !H.faulted && !H.inReset
/-- The module is integrated: a hub of it sends (R230). -/
def State.integrated (s : State) : Bool := allHubs.any fun h => s.hubs[h].sends
/-- The spare slot that this node sends in by its claim (R212, R240). -/
def State.claimInUse (s : State) : Option Nat := if s.integrated && (s.params.slotOf s.bus.sset s.bus.nodeId).isNone then s.bus.claimed else none
/-- The hub keeps the module's cycle: in SEND, or in the cold-start phase (R232). -/
def HubState.inPhase (H : HubState) (cold : Bool) : Bool := !H.inReset && (H.bus.integ == .send || (cold && H.bus.integ == .none))
/-- The hub has cycle timing on its channel. -/
def State.timed (s : State) (h : HubId) : Bool := s.hubs[h].bus.acquired || s.hubs[h].inPhase s.bus.coldStart
/-- DEVi (R275): no set is in force before the module has acquired the bus or begins a cold start. -/
def State.devWord (s : State) (h : HubId) (i : Nat) : Nat :=
  let t := s.hubs[h].time
  match (if s.bus.everAcquired || s.bus.coldStart then (s.params.syncSlots s.hubs[h].bus.sset)[i]? else none) with
  | none => 0
  | some k =>
    512 * (s.params.owner s.hubs[h].bus.sset k % 64) +
    match t.prevDevs.find? fun d => d.slot == k with
    | some d => 32768 + tc 9 (if d.dev < -255 then -255 else if 255 < d.dev then 255 else d.dev)
    | none => 0
/-- Time words. -/
def State.timeWord (s : State) (h : HubId) (a : Nat) : Nat :=
  let t := s.hubs[h].time
  if a < 0x404 then wordOf t.gt.toNat (a - 0x400)
  else if a < 0x408 then (if s.timed h then wordOf t.apGt.toNat (a - 0x404) else 0)
  else if a = 0x408 then
    4096 * sat t.nval 8 + bit t.median 11 + bit t.precNg 10 + bit t.rateLimit 9 + bit t.passive 8 + 64 * sat t.overRun 3
  else if a = 0x409 then (t.c.map (tc 16)).getD 0x8000
  else if a = 0x40A then tc 16 t.rate
  else if a = 0x40C ∨ a = 0x40D then wordOf t.passiveCnt.toNat (a - 0x40C)
  else if a = 0x40E ∨ a = 0x40F then wordOf t.gtMismatch.toNat (a - 0x40E)
  else if a = 0x410 then
    bit (s.stands FaultCode.hubTime [0]) 15 + bit (s.stands FaultCode.hubTime [1]) 14 +
    tc 14 (if s.bus.diff < -8191 then -8191 else if 8191 < s.bus.diff then 8191 else s.bus.diff)
  else if 0x420 ≤ a ∧ a < 0x428 then s.devWord h (a - 0x420)
  else 0
/-- INTEG of a hub (R247). -/
def Integ.code : Integ → Nat
  | .none => 0 | .acquire => 1 | .observe => 1 | .synchronise => 2 | .send => 3
/-- The counters of a channel in word order (R249). -/
def BusCounters.list (c : BusCounters) : List DWord :=
  [c.valid, c.code, c.fcs, c.header, c.timing, c.sender, c.sset, c.cycle, c.payload, c.nnd, c.recordDup, c.segDropped, c.segLoss, c.txFrames]
/-- Bus words. -/
def State.busWord (s : State) (h : HubId) (a : Nat) : Nat :=
  let b := s.hubs[h].bus
  if a = 0x500 then
    8192 * (b.sset % 8) + ((s.bus.change.map fun c => 1024 * (c.target % 8) + 512).getD 0) + bit s.claimInUse.isSome 8 +
    64 * b.integ.code + bit s.bus.coldStart 5 + bit b.link 4 + bit b.chDown 3
  else if a = 0x501 then
    256 * (s.bus.nodeId % 64) + (match (if s.integrated then s.slotInUse else none) with
      | some j => j % 64
      | none => 128)
  else if 0x510 ≤ a ∧ a < 0x52C then wordOf ((b.cnt.list.getD ((a - 0x510) / 2) 0).toNat) ((a - 0x510) % 2)
  else 0

/-! ## Mode and status (R390 to R393) -/

def State.modeWord (s : State) (a : Nat) : Nat :=
  let m := s.mode
  if a = 0x100 then
    8192 * m.mode.code + 1024 * ((m.lifecycle.map (·.code)).getD 0) + 256 * ((s.supplier.map (·.val)).getD 3) +
    32 * s.voteMask.toNat + 4 * (maskOf fun l => s.lanes[l].st == .lost : LaneMask).toNat + bit (m.armed.any fun x => decide (s.now ≤ x.2.2 + 10 * Config.sec)) 1
  else if a = 0x101 then m.bootShown.toNat
  else if a = 0x102 then 8192 * m.prev.code + m.cause
  else if a = 0x103 then m.thawRes.toNat
  else if a = 0x104 then m.thawMs.toNat
  else if 0x108 ≤ a ∧ a < 0x110 then
    wordOf (([m.refusedX, m.refusedY, m.rsvX, m.rsvY].getD ((a - 0x108) / 2) 0).toNat) ((a - 0x108) % 2)
  else 0

/-! ## Measurement (R107 to R117) -/

/-- A result register as its 48 bits (R109). -/
def AuxRes.value (r : AuxRes) : Nat := tc 18 r.val + bit r.ns 27 + 2 ^ 28 * r.input.toNat + 2 ^ 32 * r.seq.toNat
/-- AUX_CTRL with REF_EN (R110). -/
def FrontEnd.auxCtrl (f : FrontEnd) : Nat := f.aux.ctrl.toNat % 32768 + bit f.refEn 15
/-- AUX_STAT (R113). -/
def FrontEnd.auxStat (f : FrontEnd) : Nat :=
  bit f.refs 15 + bit f.aux.injAct 14 + bit f.aux.injPend 13 + bit f.aux.calPend 12 + 1024 * f.aux.trigLast.toNat + (f.aux.entry.getD 0x1F) % 32
/-- A word of the auxiliary block. -/
def State.auxWord (s : State) (g : GroupId) (o : Nat) : Nat :=
  let f := s.fe[g]
  if o < 0x3C then wordOf ((f.aux.res[o / 3]?.getD {}).value) (o % 3)
  else if o = 0x3C then f.auxCtrl
  else if o = 0x3D then f.aux.sel.toNat
  else if o = 0x3F then f.auxStat
  else 0
/-- A period record as its 128 bits (R116). -/
def PeriodRec.value (r : PeriodRec) : Nat :=
  r.vrms % 2 ^ 24 + 2 ^ 24 * r.pseq.toNat + 2 ^ 32 * (r.irms % 2 ^ 24) + bit r.valid 56 + bit r.fixed 57 + bit r.ovrV 58 + bit r.ovrI 59 +
  bit r.spV 60 + bit r.spI 61 + bit r.refNs 62 + 2 ^ 64 * tc 32 r.imean + 2 ^ 96 * tc 32 r.power
/-- Word +5 of the tracker block (R115). -/
def FeedState.flagsWord (f : FeedState) : Nat := bit f.lock 15 + bit f.fixed 14
/-- A word of the sequence and tracker block (R114, R115). -/
def State.seqWord (s : State) (g : GroupId) (o : Nat) : Nat :=
  let f := s.fe[g]
  let d := s.groups[g].feed
  if h : o < 4 then (f.aux.rseq[o]'h).toNat
  else if o = 4 then f.aux.iseq.toNat
  else if o = 5 then d.flagsWord
  else if o = 6 ∨ o = 7 then wordOf d.periodLen (o - 6)
  else if o = 8 then d.periodSeq.toNat
  else if o = 9 ∨ o = 0xA then wordOf f.ovl.toNat (o - 9)
  else 0
/-- A coefficient pair as its 64 bits (R117). -/
def Coef.value (c : Coef) : Nat := tc 32 c.offset + 2 ^ 32 * (c.gain % 2 ^ 24)
/-- A measurement or coefficient word. -/
def State.measWord (s : State) (a : Nat) : Nat :=
  if h : 0x800 ≤ a ∧ a < 0xB00 then s.auxWord ⟨(a - 0x800) / 0x40, by omega⟩ ((a - 0x800) % 0x40)
  else if h : 0xB00 ≤ a ∧ a < 0xE00 then
    let c : Chan := ⟨(a - 0xB00) / 8, by omega⟩
    wordOf (s.groups[c.group].recs[c.pos]).value ((a - 0xB00) % 8)
  else if h : 0xE00 ≤ a ∧ a < 0xEC0 then s.seqWord ⟨(a - 0xE00) / 0x10, by omega⟩ ((a - 0xE00) % 0x10)
  else if h : 0x1000 ≤ a ∧ a < 0x1600 then
    let g : GroupId := ⟨(a - 0x1000) / 0x80, by omega⟩
    let o := (a - 0x1000) % 0x80
    if o < 0x50 then wordOf ((s.groups[g].under.coef[o / 4]?.getD {}).value) (o % 4)
    else if o < 0x54 then wordOf s.groups[g].watch.coef.value (o - 0x50) else 0
  else 0

/-! ## Field points (R475, R476) -/

def State.fieldWord (s : State) (a : Nat) : Nat :=
  match s.supplier with
  | none => if a % 2 = 0 ∧ a < 0x1860 then 0xF000 else 0
  | some l =>
    let L := s.lanes[l]
    if h : 0x1800 ≤ a ∧ a < 0x1860 then
      let p : Point := ⟨(a - 0x1800) / 2, by omega⟩
      let w := L.bank[p.bank].frame
      let j := p.pos
      if a % 2 = 0 then
        4096 * s.pointCode l p + bit (s.inputState l p) 11 + bit (has (BankF.raw w) j) 10 + bit (has L.drive.img.pts p) 9 +
        bit (has (BankF.rb w) j) 8 + bit (has (BankF.gs w) j) 7 + bit (has (BankF.cl w) j) 6 + bit (has (BankF.ol w) j) 5 +
        bit (decide (0 < L.pts[p].discCount)) 4
      else if s.params.isOut p then 0 else L.pts[p].iin % 65536
    else if h : 0x1860 ≤ a ∧ a < 0x1870 then
      let b : BankId := ⟨(a - 0x1860) / 4, by omega⟩
      match (a - 0x1860) % 4 with
      | 0 => bit s.banks[b].warn 15 + bit (has L.latches.supplyLoss b) 14 + bit s.banks[b].missing 13
      | 1 => L.bank[b].supply % 65536
      | 2 => wordOf s.banks[b].lossCnt.toNat 0
      | _ => wordOf s.banks[b].lossCnt.toNat 1
    else 0

/-! ## Self-test (R444 to R447) -/

def State.copStat (s : State) : Nat :=
  bit (s.activeBank.any fun b => b.image.coppiceEn) 15 + bit s.coppice.deferred 14 +
  bit (s.anyStands FaultCode.driveLink || s.mode.mode == .degraded) 13 + 2048 * ((s.coppice.repeatLane).getD s.coppice.next).val +
  512 * ((s.coppice.rest.map (·.val)).getD 3) + 64 * (s.coppice.step % 8) +
  8 * (maskOf fun l => s.lanes[l].st == .restarting : LaneMask).toNat
/-- NEXT_MS. -/
def State.copNextMs (s : State) : Nat :=
  if s.coppice.step ≠ 0 then 0 else
  match s.coppice.dueAt with
  | none => 0xFFFF
  | some t => sat ((t - s.now + Config.ms - 1) / Config.ms) 0xFFFF
/-- A word of a lane's result block (R446); AGE counts from the last reset until a first PASS (R425, notes/assumptions/104.md). -/
def State.lbistWord (s : State) (l : LaneId) (o : Nat) : Nat :=
  let r := s.lanes[l].lbist
  if o = 0 then 8192 * r.res + 2048 * r.invc + bit r.vok 10 + bit r.fok 9 + bit r.sigOk 8 + bit r.cntOk 7 + bit r.genOk 6
  else if o < 5 then wordOf r.sig.toNat (o - 1)
  else if o < 7 then wordOf r.pcount.toNat (o - 5)
  else if o < 9 then wordOf r.gen.toNat (o - 7)
  else if o = 9 then r.vmin.toNat
  else if o = 0xA then r.vmax.toNat
  else if o = 0xB then r.testf.toNat
  else if o < 0xE then wordOf (sat ((s.now - r.passAt.getD s.mode.resetAt) / Config.sec) 0xFFFFFFFF) (o - 0xC)
  else wordOf r.sramCe.toNat (o - 0xE)
/-- A word of a hub's slice block (R447); PASS_AGE counts from the last reset until a first complete pass. -/
def State.sliceWord (s : State) (h : HubId) (o : Nat) : Nat :=
  let x := s.hubs[h].slice
  if o = 0 then 16384 * x.res + bit x.skip 13 + x.slice % 2048
  else if o < 3 then wordOf x.passes.toNat (o - 1)
  else if o < 5 then wordOf (sat ((s.now - x.passAt.getD s.mode.resetAt) / Config.ms) 0xFFFFFFFF) (o - 3)
  else if o < 7 then wordOf x.skips.toNat (o - 5)
  else if o < 9 then wordOf x.qmemCe.toNat (o - 7)
  else 0
def State.testWord (s : State) (a : Nat) : Nat :=
  if a = 0x2000 then s.copStat
  else if a = 0x2001 then s.copNextMs
  else if 0x2002 ≤ a ∧ a < 0x2008 then
    wordOf (([s.coppice.windows, s.coppice.aborts, s.coppice.restarts].getD ((a - 0x2002) / 2) 0).toNat) ((a - 0x2002) % 2)
  else if h : 0x2010 ≤ a ∧ a < 0x2040 then s.lbistWord ⟨(a - 0x2010) / 0x10, by omega⟩ ((a - 0x2010) % 0x10)
  else if h : 0x2040 ≤ a ∧ a < 0x2060 then s.sliceWord ⟨(a - 0x2040) / 0x10, by omega⟩ ((a - 0x2040) % 0x10)
  else 0

/-! ## Wear (R505, R506) -/

/-- FLAGS of a wear item (R503). -/
def WearItem.flags (w : WearItem) : Nat :=
  bit (decide (w.days.toNat < 0xFFFE)) 0 + bit (w.days == 0xFFFE) 1 + bit (w.alarm || w.alarm2) 2 + bit w.cleared 3
/-- A summary entry as its 64 bits (R506). -/
def WearItem.summary (w : WearItem) : Nat := w.flags + 2 ^ 16 * w.days.toNat + 2 ^ 32 * w.daysLo.toNat + 2 ^ 48 * w.used.toNat
/-- Wear alarms standing. -/
def Wear.alarms (w : Wear) : Nat :=
  let n (x : WearItem) : Nat := bit x.alarm 0 + bit x.alarm2 0
  (w.lamp.toList.map n).sum + (w.switch.toList.map n).sum + (w.cont.toList.map n).sum + (w.silicon.toList.map n).sum + n w.flash + bit w.storeFail 0
def State.wearWord (s : State) (a : Nat) : Nat :=
  let w := s.wear
  let entry (x : Option WearItem) (i : Nat) : Nat := wordOf ((x.getD {}).summary) i
  if a = 0x2800 ∨ a = 0x2801 then wordOf w.day.toNat (a - 0x2800)
  else if a = 0x2802 then 256 * sat w.alarms 255 + bit w.storeFail 0
  else if 0x2840 ≤ a ∧ a < 0x29C0 then entry w.lamp[(a - 0x2840) / 4]? ((a - 0x2840) % 4)
  else if 0x29C0 ≤ a ∧ a < 0x2B40 then entry w.switch[(a - 0x29C0) / 4]? ((a - 0x29C0) % 4)
  else if 0x2B40 ≤ a ∧ a < 0x2BA0 then entry w.cont[(a - 0x2B40) / 4]? ((a - 0x2B40) % 4)
  else if 0x2C00 ≤ a ∧ a < 0x2C14 then entry w.silicon[(a - 0x2C00) / 4]? ((a - 0x2C00) % 4)
  else if 0x2C14 ≤ a ∧ a < 0x2C18 then wordOf w.flash.summary ((a - 0x2C14) % 4)
  else 0

/-! ## The window -/

/-- A word of a lane-supplied block as the supplying lane holds it now. -/
def State.laneWord (s : State) (a : Nat) : Word :=
  BitVec.ofNat 16 (
    if a < 0x200 then s.modeWord a else if a < 0x1800 then s.measWord a else if a < 0x2000 then s.fieldWord a
    else if a < 0x2800 then s.testWord a else s.wearWord a)
/-- The word belongs to a block that a lane supplies (R32); the slice blocks of the hubs, which each hub fills for itself, do not
(R447). -/
def laneBlock (a : Nat) : Bool :=
  (decide (0x100 ≤ a) && decide (a < 0x200)) || (decide (0x800 ≤ a) && decide (a < 0x2040)) || (decide (0x2060 ≤ a) && decide (a < 0x3000))
/-- The lane-supplied words that are not zero. -/
def State.suppliedNow (s : State) : List (Nat × Word) :=
  (([(0x100, 0x10), (0x800, 0x6C0), (0x1000, 0x600), (0x1800, 0x70), (0x2000, 0x40), (0x2800, 0x418)] : List (Nat × Nat)).flatMap
    fun r => (List.range r.2).map fun i => (r.1 + i, s.laneWord (r.1 + i))).filter fun x => x.2 != 0
/-- A word from a list of words that are not zero. -/
def lookupWord (m : List (Nat × Word)) (a : Nat) : Word := ((m.find? fun x => x.1 == a).map (·.2)).getD 0
/-- A word of a hub's own block other than queue memory, as it stands. -/
def State.hubWord (s : State) (h : HubId) (a : Nat) : Word :=
  BitVec.ofNat 16 (
    if a < 0x100 then s.identWord a
    else if hh : 0x200 ≤ a ∧ a < 0x400 then s.ringWord ⟨(a - 0x200) / 0x20, by omega⟩ ((a - 0x200) % 0x20)
    else if a < 0x500 then s.timeWord h a
    else if a < 0x800 then s.busWord h a
    else s.testWord a)
/-- The hub's own words that are not zero, held at HALT entry (R376). -/
def State.hubNow (s : State) (h : HubId) : List (Nat × Word) :=
  (((List.range 0x31) ++ (List.range 0x330).map (0x200 + ·) ++ (List.range 0x20).map (0x2040 + ·)).map fun a => (a, s.hubWord h a)).filter fun x => x.2 != 0
/-- A word of queue memory (R305). -/
def qWord (m : List Host.Cell) (a : Nat) : Word := Memory.read m (2 * (a - 0x8000) + 1) ++ Memory.read m (2 * (a - 0x8000))
/-- Is a word in the descriptor or memory of Q04 or Q10 (R376)? -/
def hostRing (a : Nat) : Bool :=
  (decide (0x280 ≤ a) && decide (a < 0x2A0)) || (decide (0x340 ≤ a) && decide (a < 0x360)) ||
  (decide (0xA000 ≤ a) && decide (a < 0xA800)) || (decide (0xD000 ≤ a) && decide (a < 0xD800))
/-- The live word at an address of a hub's window, as a read that captures nothing returns it. Lane-supplied
blocks hold the last refresh, their reset values before the first; HALT holds every block but mode and status and
the host's own rings (R376). Unassigned words read zero (R34). -/
def State.liveWord (s : State) (h : HubId) (a : Nat) : Word :=
  let w := s.hubs[h].win
  if 0x8000 ≤ a then qWord (if w.held.isSome && !hostRing a then w.heldMem else s.hubs[h].qmem) a
  else if 0x3000 ≤ a then 0
  else if 0x100 ≤ a ∧ a < 0x200 ∧ s.mode.mode = .halt then s.laneWord a
  else if laneBlock a then (if w.refreshed then lookupWord w.supplied a else State.reset.laneWord a)
  else match w.held with
    | some m => if hostRing a then s.hubWord h a else lookupWord m a
    | none => s.hubWord h a

/-! ## The front-panel indicators (R551, R552) -/

/-- A standing fault has a reaction other than E (R419, R420). -/
def State.faultActs (s : State) (f : FaultRec) : Bool :=
  let item (i : Nat) : Nat := leAt f.scope i 1
  let pt : Option Point := pointAt (item 0)
  if f.code = FaultCode.measLink then decide (2 ≤ (s.faults.filter fun g => g.code == FaultCode.measLink && octet g.scope 1 == octet f.scope 1).length)
  else if f.code = FaultCode.feSupply then item 1 != 8 && item 1 != 9
  else if f.code = FaultCode.externalFeed then (pt.bind s.params.contactorOf).isSome
  else if f.code = FaultCode.crossConnect then (pt.bind s.params.contactorOf).isSome || ((pointAt (item 1)).bind s.params.contactorOf).isSome
  else if f.code = FaultCode.wireBreak then allGroups.any fun g => s.params.contactors g && (s.params.fbA g == item 0 || s.params.fbB g == item 0)
  else [FaultCode.driveLink, FaultCode.refFault, FaultCode.feOvertemp, FaultCode.hubTime, FaultCode.timeSplit, FaultCode.noQuorum, FaultCode.cvuSelftest,
    FaultCode.qmemFault, FaultCode.paramCorrupt, FaultCode.contactorWelded, FaultCode.revertFail, FaultCode.gladeUnproven, FaultCode.degradedLimit,
    FaultCode.laneCompare, FaultCode.laneLost, FaultCode.lbistFail, FaultCode.hubSliceFail, FaultCode.watchdog, FaultCode.supplyLoss].contains f.code
/-- A channel's status has a reaction other than E (R420): SHORT, OVERTEMP and SWITCH_FAULT latch it, FAIL_LIT reverts the
group of a permissive channel, FOREIGN acts under PROT 1 and 2. -/
def State.statusActs (s : State) (l : LaneId) (c : Chan) : Bool :=
  let k := s.chanCode l c
  k == 9 || k == 11 || k == 12 || (k == 5 && s.params.permissive c) || (k == 6 && s.params.prot c != 0)
/-- The indicator of a lane. -/
def LaneStatus.colour : LaneStatus → Colour
  | .thawing => .off | .active => .green | .resting => .yellow | .restarting => .yellow | .lost => .red
/-- The indicator of a bus port; a standing fault shows before a link that is down. -/
def HubState.colour (H : HubState) : Colour :=
  if H.faulted || H.bus.chDown then .red else if !H.bus.link then .off else if H.bus.integ == .send then .green else .yellow
/-- The indicator of a group, from the supplying lane's codes. -/
def State.groupColour (s : State) (g : GroupId) : Colour :=
  let bad (l : LaneId) : Bool := (groupChans g).any fun c => decide (4 ≤ s.chanCode l c) && decide (s.chanCode l c ≤ 12)
  if s.params.chUsed g = 0 then .off
  else if s.supplier.any bad then .red
  else if s.supplier.any fun l => s.lanes[l].latches.reverting g || s.lanes[l].latches.inSafe g then .yellow else .green
/-- The indicators but PWR and STATE, as the present state gives them. -/
def State.panelNow (s : State) : Panel :=
  { lane := s.lanes.map fun L => L.st.colour
    bus := s.hubs.map HubState.colour
    flt := if s.faults.any s.faultActs || s.supplier.any (fun l => allChans.any (s.statusActs l)) then .red else .off
    group := Vector.ofFn s.groupColour }
/-- The indicators but PWR and STATE: in HALT those of HALT entry (R552). -/
def State.panelShown (s : State) : Panel := s.panel.getD s.panelNow
/-- PWR. -/
def State.pwr (s : State) : Colour := if s.supply.good then .green else .off
/-- STATE at an instant: flashing is 0.25 s on and 0.25 s off (R552). -/
def State.stateColour (s : State) : Colour :=
  let half := s.now / (250 * Config.ms) % 2 == 0
  match s.mode.mode with
  | .thaw => if half then .yellow else .off
  | .join => .yellow
  | .commission => if half then .green else .off
  | .service => .green
  | .degraded => if half then .yellow else .green
  | .dormant => if s.now % (2000 * Config.ms) < 100 * Config.ms then .green else .off
  | .safe => .red
  | .halt => if half then .red else .off

end Sys2Proof.Machine
end

