-- ==== Sys2Proof/Machine/Decide.lean ====
section
/-!
DEFINITION. What the module does when it decides: answers to transactions (R312, R337), group reverts (R402 to
R411), the reactions of the fault table (R419, R420), lost lanes (R373, R382) and changes of mode (R372 to R376).
-/

namespace Sys2Proof.Machine

/-! ## Transactions -/

/-- An update of one transaction. -/
def State.modTxn (s : State) (num : Nat) (f : Txn → Txn) : State :=
  { s with mail := { s.mail with txns := s.mail.txns.map fun t => if t.num == num then f t else t } }
/-- The transaction of a number. -/
def State.txn (s : State) (num : Nat) : Option Txn := s.mail.txns.find? fun t => t.num == num
/-- The lanes that have started a transaction hand their replies over (R312). -/
def Txn.reply (t : Txn) (now : Nat) (r : LaneId → Reply) : Txn :=
  { t with replies := Vector.ofFn fun l => if has t.started l && t.replies[l].isNone then some (r l) else t.replies[l]
           firstAt := if t.firstAt.isNone && t.started != 0 then some now else t.firstAt }
/-- The outcome of a transaction is known, and every lane that has executed it answers. -/
def State.answer (s : State) (num : Nat) (r : Reply) : State :=
  s.modTxn num fun t => { (t.reply s.now fun _ => r) with outcome := some r }
/-- An answer of LEN 0. -/
def plain (st : Nat) : Reply := { status := st, payload := [] }
/-- An OK answer. -/
def okReply (p : Bytes) : Reply := { status := Status.ok, payload := p }

/-! ## Group reverts -/

/-- A trigger after a vote is none of the latches that the vote's CLR field clears. -/
def Latches.retrigger (c : Latches) (g : GroupId) (k : Bool) : Latches :=
  { c with revert := c.revert &&& ~~~(only g), energy := if k then c.energy &&& ~~~(only g) else c.energy }
/-- A revert of a group is triggered by lanes, with stage 2 at once for a reaction K (R402, R409, R420): the lanes' latches are
set, which restarts no revert in progress and takes a group out of the safe state of stage 1 when stage 2 is added. -/
def State.trigger (s : State) (lanes : LaneMask) (g : GroupId) (k : Bool) : State :=
  s.modLanes fun l L => if has lanes l then
    { L with latches := { L.latches with revert := L.latches.revert ||| only g, energy := if k then L.latches.energy ||| only g else L.latches.energy }
             clr := L.clr.retrigger g k } else L
/-- A group's safe state, in one lane's latches: after stage 2 the group is safe-dark (R409). -/
def Latches.reach (k : Latches) (g : GroupId) : Latches :=
  { k with safeState := k.safeState ||| only g, safeDark := if has k.energy g then k.safeDark ||| only g else k.safeDark }
/-- Lanes find that a group has reached its safe state (R409): bit 4 of GROUP clears and bit 5 sets together. -/
def State.reachSafe (s : State) (lanes : LaneMask) (g : GroupId) : State :=
  s.modLanes fun l L => if has lanes l then { L with latches := L.latches.reach g } else L
/-- A group's revert, energy-removal and safe-state latches are cleared in every lane (R411, R408), and GLADE_UNPROVEN ends
(R420). -/
def State.clearGroup (s : State) (g : GroupId) : State :=
  let off (m : GroupMask) : GroupMask := m &&& ~~~(only g)
  let s1 := s.modLanes fun _ L => { L with
    latches := { L.latches with
      revert := off L.latches.revert, energy := off L.latches.energy, safeState := off L.latches.safeState, safeDark := off L.latches.safeDark
      staged := off L.latches.staged }
    rev := L.rev.set g {} }
  s1.withdrawFault FaultCode.gladeUnproven [g.val]
/-- A fault of the list ends. -/
def State.endFault (s : State) (f : FaultRec) : State := s.withdrawFault f.code ((f.scope.take 3).filterMap fun b => if b = 0xFF then none else some b.toNat)
/-- The supplying lane reads the supply of a bank at 16 V or above (R468), in 10 mV. -/
def State.supplyGood (s : State) (b : BankId) : Bool := s.supplier.any fun l => decide (1600 ≤ s.lanes[l].bank[b].supply)
/-- The supply-loss latch of a bank is cleared (R468): its outputs gain restart latches, which those that this very vote commands off lose
again, SUPPLY_LOSS ends, and the bank's
hardware latch is sent CLR from the next apply strobe. -/
def State.clearSupplyLoss (s : State) (b : BankId) : State :=
  let outs : PointMask := maskOf fun (p : Point) => p.bank == b && s.params.isOut p
  ((s.modLanes fun _ L => if L.st == .active then
    { L with latches := { L.latches with supplyLoss := L.latches.supplyLoss &&& ~~~(only b), restart := L.latches.restart ||| (outs &&& L.voted.pts) } } else L).modBank b
    fun x => { x with clrNext := true }).withdrawFault FaultCode.supplyLoss [b.val]
/-- The group whose contactor feedback input a point is (R412). -/
def ParamImage.feedbackOf (p : ParamImage) (i : Point) : Option (GroupId × Bool) :=
  allGroups.findSome? fun g =>
    if !p.contactors g then none
    else if p.fbA g == i.val then some (g, true)
    else if p.fbB g == i.val then some (g, false) else none

/-! ## Modes -/

/-- On entry to HALT (R376): drive streams stop, probe sources are disabled, the hubs hold their windows and send
idle, the indicators hold (R552), and the log holds a HALT record. -/
def State.haltEntry (s : State) (cause : Nat) : State :=
  let s0 : State := { s with panel := some s.panelNow }
  let s1 := s0.modLanes fun _ L => { L with drive := { L.drive with running := false } }
  let s2 := s1.modFes fun f => { f with probeEn := 0, chips := 0 }
  let s3 := s2.modHubs fun h H => { H with win := { H.win with held := some (s2.hubNow h), heldMem := H.qmem, refreshed := true
                                                               supplied := if H.win.refreshed then H.win.supplied else s2.suppliedNow },
                                           bus := { H.bus with integ := .none, tx := [] } }
  s3.logRec (s3.eventOctets EventCode.haltEntered 0 3 (scope [] cause) [])
/-- Modes that permit windows (R428). -/
def Mode.rotates (m : Mode) : Bool := m == .commission || m == .service || m == .dormant || m == .safe
/-- A change that waits for the action point stands beside a change at once to DEGRADED where DEGRADED leads there too; else it
is dropped, and the request it takes is judged again at the next vote (R372). -/
def ModeState.superseded (x : ModeState) (m : Mode) : ModeState :=
  if m = .degraded ∧ x.next.any (fun n => n.target == .safe || n.target == .commission) then x
  else { x with next := none, reqs := x.answer.toList ++ x.reqs, answer := none }
/-- The answer of a TEACH: one entry a channel, 7 for one not run. -/
def TeachRun.octets (t : TeachRun) : Bytes :=
  t.entries.flatMap fun e => toLe 1 e.1.val ++ toLe 1 (((t.done.find? fun d => d.1 == e.1).map (·.2)).getD 7) ++ toLe 2 0
/-- A running TEACH ends and answers (R359). -/
def State.stopTeach (s : State) : State :=
  match s.act.teach with
  | none => s
  | some t => ({ s with act := { s.act with teach := none } } : State).answer t.num (okReply t.octets)
/-- A mode takes effect (R373): PREV and CAUSE are kept, and MODE_CHANGE is raised, for cause 15 in the log only.
Leaving COMMISSION ends its tests (R360, R364), and to HALT, which has no action points, a TEACH too (R359). -/
def State.enterMode (s : State) (m : Mode) (cause : Nat) : State :=
  let old := s.mode.mode
  let s0 : State := { s with mode := { s.mode.superseded m with mode := m, prev := old, cause := cause } }
  let s1 : State := if m.rotates = old.rotates then s0 else
    { s0 with coppice := { s0.coppice with
      dueAt := if m.rotates then some (s.now + s.params.coppicePeriod * Config.sec) else none
      deferred := false } }
  let d : Bytes := toLe 1 old.code ++ toLe 1 m.code ++ toLe 1 cause
  let s2 := if cause = 15 then s1.logRec (s1.eventOctets EventCode.modeChange 0 3 (scope []) d)
            else s1.note EventCode.modeChange [] d
  let s3 := if m = .halt then s2.haltEntry cause
            else if m = .safe then s2.each allGroups fun s g => s.trigger s.voteMask g false
            else s2
  if old = .commission ∧ m ≠ .commission then
    let s4 : State := { s3 with act := { s3.act with
        lamp := s3.act.lamp.map fun t => { t with early := true, endAt := some s.now, snap := some (s.votedLamps) }
        field := s3.act.field.map fun t => { t with early := true, endAt := some s.now } } }
    if m = .halt then s4.stopTeach else s4
  else s3
/-! ## The Coppice window (R427, R434, R435) -/

/-- A window is open: its lane rests. -/
def State.windowOpen (s : State) : Bool := s.coppice.rest.isSome
/-- No overlay of a test runs, none is agreed to start before an action point plus 1 ms (R428, R65). -/
def State.testsQuiet (s : State) (ap : Nat) : Bool :=
  let starts (d : Option Nat) : Bool := d.any fun t => decide (s.now < t) && decide (t < ap + Config.ms)
  (allGroups.all fun g => s.groups[g].test.isNone) && s.tests.field.isNone && s.tests.fieldMaj.isNone &&
  (allChans.all fun c => !starts s.tests.chan[c].nextOff && !starts s.tests.chan[c].nextMaj) &&
  (allPoints.all fun p => !starts s.tests.point[p].nextOff && !starts s.tests.point[p].nextMaj)
/-- The conditions under which a due window opens at an action point (R428). -/
def State.windowMay (s : State) (ap : Nat) : Bool :=
  s.mode.mode.rotates && s.targetMode.rotates && s.activeLanes.length == 3 && s.params.coppiceEn && !s.anyStands FaultCode.driveLink && !s.mail.switching &&
  s.testsQuiet ap
/-- The lanes abort the open window (R434, R435): the step in progress decides what comes next, REJOIN at once at the instant of
HOLD, RESTORE after PRECHECK and BIST; the lane rests again at the next window. -/
def State.abortWindow (s : State) : State :=
  match s.coppice.rest with
  | none => s
  | some l =>
    if s.coppice.aborted then s else
    let c := s.coppice
    let step := if c.step = 1 ∧ c.stepAt = s.now then 6 else if c.step = 2 ∨ c.step = 3 then 5 else c.step
    let s1 : State := { s with coppice := { c with
      aborted := true
      aborts := c.aborts + 1
      repeatLane := some l
      stepAt := if step = c.step then c.stepAt else s.now
      step := step } }
    (s1.modLane l fun L => { L with lbist := { L.lbist with res := 4 } }).note EventCode.coppiceAbort [l.val]
/-- Lanes that are not lost bring DEGRADED when one is missing (R373 cause 6). -/
def State.degrade (s : State) : State :=
  if s.aliveLanes.length < 3 ∧ (s.mode.mode = .service ∨ s.mode.mode = .dormant) then s.enterMode .degraded 6 else s
/-- A change of the supplying lane ends a running capture (R362). -/
def State.cutCapture (s : State) : State :=
  { s with act := { s.act with capture := s.act.capture.map fun r => { r with cut := r.cut || s.supplier != some r.lane } } }
/-- A lane is lost (R373 causes 6 and 13, R383): its streams stop and it leaves the vote until reset. An active lane lost
in a Coppice window aborts it, and DEGRADED follows once the rested lane is back (R435). A LANE_COMPARE of case 1
or 4 that names the lane ends (R436). -/
def State.loseLane (s : State) (l : LaneId) : State :=
  if s.lanes[l].st = .lost then s else
  let s1 := (s.modLane l fun L => { L with st := .lost, drive := { L.drive with running := false } }).cutCapture
  let named := s1.faults.filter fun f => f.code == FaultCode.laneCompare && (octet f.scope 1 == 1 || octet f.scope 1 == 4) && (octet f.scope 0).getLsbD l.val
  let s2 := (s1.raiseFault FaultCode.laneLost [l.val] s1.voteMask).each named State.endFault
  if s2.mode.mode = .thaw ∨ s2.mode.mode = .halt then s2
  else if s2.aliveLanes.length < 2 then s2.enterMode .halt 13
  else if s2.coppice.rest = some l then ({ s2 with coppice := { s2.coppice with rest := none, step := 0 } } : State).degrade
  else if s2.windowOpen then s2.abortWindow
  else s2.degrade
/-- SERVICE when no lane is lost, DEGRADED when one is (R373 cause 2). -/
def State.serviceMode (s : State) : Mode := if s.aliveLanes.length = 3 then .service else .degraded
/-- A module-level reaction S: the SAFE latch is set in every lane in the vote (R419). -/
def State.setSafe (s : State) : State :=
  s.modLanes fun _ L => if L.st == .active then { L with latches := { L.latches with safe := true }, clr := { L.clr with safe := false } } else L
/-- A hub is faulted (R262, R419): it sends idle only and integrates afresh; the lanes move the mailbox engine if
it is the active one. -/
def State.faultHub (s : State) (h : HubId) : State :=
  let s1 := s.modHub h fun H => { H with faulted := true, within := 0, bus := { H.bus with integ := .acquire, acquired := false, tx := [] } }
  if s1.mail.active = h ∧ h = 0 then { s1 with mail := { s1.mail with switching := true } } else s1

/-! ## Reactions (R420) -/

/-- The group a fault's items name first. -/
def itemGroup (items : List Nat) (i : Nat) : Option GroupId := groupAt (items.getD i 99)
/-- A revert of a group named by number. -/
def State.triggerAt (s : State) (lanes : LaneMask) (g : Option GroupId) (k : Bool) : State :=
  match g with
  | some g => s.trigger lanes g k
  | none => s
/-- What the fault table adds to the report of a fault raised now. -/
def State.reaction (s : State) (code : Nat) (items : List Nat) (lanes : LaneMask) : State :=
  let lane (i : Nat) : Option LaneId := if h : items.getD i 9 < 3 then some ⟨items.getD i 9, h⟩ else none
  let pt : Option Point := pointAt (items.getD 0 99)
  let fed (i : Nat) : Option GroupId := ((pointAt (items.getD i 99)).bind s.params.contactorOf).map (·.1)
  if code = FaultCode.driveLink then (if s.coppice.rest = lane 1 then s else s.abortWindow)
  else if code = FaultCode.refFault ∨ code = FaultCode.feOvertemp ∨ code = FaultCode.contactorWelded ∨ code = FaultCode.gladeUnproven then
    s.triggerAt lanes (itemGroup items 0) true
  else if code = FaultCode.feSupply then
    if items.getD 1 0 = 8 ∨ items.getD 1 0 = 9 then s else s.triggerAt lanes (itemGroup items 0) true
  else if code = FaultCode.timeSplit ∨ code = FaultCode.noQuorum ∨ code = FaultCode.revertFail ∨ code = FaultCode.degradedLimit then s.setSafe
  else if code = FaultCode.cvuSelftest ∨ code = FaultCode.lbistFail ∨ code = FaultCode.watchdog then
    match lane 0 with
    | some l => s.loseLane l
    | none => s
  else if code = FaultCode.hubTime ∨ code = FaultCode.hubSliceFail then
    if items.getD 0 9 = 0 then s.faultHub 0 else if items.getD 0 9 = 1 then s.faultHub 1 else s
  else if code = FaultCode.externalFeed then s.triggerAt lanes (fed 0) false
  else if code = FaultCode.crossConnect then (s.triggerAt lanes (fed 0) false).triggerAt lanes (fed 1) false
  else if code = FaultCode.wireBreak then
    match pt with
    | some p => s.triggerAt lanes ((s.params.feedbackOf p).map (·.1)) false
    | none => s
  else s
/-- A fault is raised with its reaction. A reaction acts when the fault is raised by lanes that did not hold it. -/
def State.fault (s : State) (code : Nat) (items : List Nat) (lanes : LaneMask) (cause : Nat := 0xFF) : State :=
  let known := s.faults.any fun f => f.code == code && f.scope.take 3 == (scope items).take 3 && (lanes &&& ~~~f.lanes) == 0
  if known then s else (s.raiseFault code items lanes cause).reaction code items lanes

/-! ## Proof timers (R66, R461) -/

/-- The proof timer in ticks: the count of the present kind of interval. -/
def TestSched.proofNow (t : TestSched) (now : Nat) : Nat := (if t.lit then t.proofLit else t.proofDark) + (now - t.proofSince)
/-- A completed test restarts the count of the present kind of interval. -/
def TestSched.proved (t : TestSched) (now : Nat) : TestSched :=
  { t with proofLit := if t.lit then 0 else t.proofLit, proofDark := if t.lit then t.proofDark else 0, proofSince := now, overdue := false }
/-- An interval of the other kind begins: the running count pauses. -/
def TestSched.turn (t : TestSched) (lit : Bool) (now : Nat) : TestSched :=
  if t.lit == lit then t
  else { t with proofLit := if t.lit then t.proofNow now else t.proofLit, proofDark := if t.lit then t.proofDark else t.proofNow now,
                lit := lit, proofSince := now }
/-- An update of a channel's, or a point's, schedule. -/
def State.modSched (s : State) (c : Chan) (f : TestSched → TestSched) : State :=
  { s with tests := { s.tests with chan := s.tests.chan.set c (f s.tests.chan[c]) } }
def State.modPtSched (s : State) (p : Point) (f : TestSched → TestSched) : State :=
  { s with tests := { s.tests with point := s.tests.point.set p (f s.tests.point[p]) } }
/-- A test of a channel has passed or failed: its proof timer restarts. -/
def State.chanProved (s : State) (c : Chan) : State :=
  (s.modSched c fun t => t.proved s.now).withdrawFault FaultCode.proofOverdue [c.val]
/-- The next scheduled instant after now: a test that waits counts for every instant that has come (R65). -/
def nextAfter (due period now : Nat) : Nat := if now < due then due else due + ((now - due) / max period 1 + 1) * max period 1
/-- A test of a point has completed. A point's PROOF_OVERDUE names it as 96 plus its number (notes/assumptions/8.md). -/
def State.pointProved (s : State) (p : Point) : State :=
  (s.modPtSched p fun t => t.proved s.now).withdrawFault FaultCode.proofOverdue [96 + p.val]
/-- A test result of a channel enters a running PROOF_TEST (R365): 1 passed, 2 failed, 3 abandoned; the last one
brings the response. -/
def State.testResult (s : State) (c : Chan) (code : Nat) : State :=
  match s.act.proof with
  | none => s
  | some r =>
    if !has r.mask c || r.results[c] != 0 then s
    else
      let res := r.results.set c (BitVec.ofNat 8 code)
      if allChans.all fun (d : Chan) => !has r.mask d || res[d] != 0 then
        ({ s with act := { s.act with proof := none } } : State).answer r.num (okReply res.toList)
      else { s with act := { s.act with proof := some { r with results := res } } }

/-! ## Decisions on one channel -/

/-- SWITCH_FAULT (R62, R68): the lane's latch is set with its cause, and a permissive channel's group reverts. -/
def State.switchFault (s : State) (lanes : LaneMask) (c : Chan) (cause : Cause) : State :=
  let s1 := s.modLanes fun l L => if has lanes l then
    { L with latches := { L.latches with switchFault := L.latches.switchFault ||| only c }, prov := L.prov.set c { L.prov[c] with swCause := cause } } else L
  let s2 := if s.lampParams.permissive c then s1.trigger lanes c.group false else s1
  s2.each (members lanes) fun s l => s.noteChan l c
/-- OUTPUT_FAULT (R455, R459, R461): a point latch with its cause; the fault stands until the next command. -/
def State.outputFault (s : State) (lanes : LaneMask) (p : Point) (cause : OutCause) : State :=
  let s1 := s.modLanes fun l L => if has lanes l then
    { L with latches := { L.latches with outFault := L.latches.outFault ||| only p }, pts := L.pts.set p { L.pts[p] with outCause := cause } } else L
  let s2 := s1.fault FaultCode.outputFault [p.val] lanes (match cause with | .gateStuck => 10 | .majorityTest => 11 | _ => 0xFF)
  s2.each (members lanes) fun s l => s.notePoint l p
/-- FAIL_LIT is decided (R149): held, and a permissive channel's group reverts with stage 2 (R420). -/
def State.failLit (s : State) (l : LaneId) (c : Chan) : State :=
  let s1 := s.modProv l c fun a => { a with failLit := true }
  let s2 := if s.lampParams.permissive c then s1.trigger (only l) c.group true else s1
  s2.noteChan l c
/-- FAIL_DARK is decided with a cause (R145, R147, R152): held. -/
def State.failDark (s : State) (l : LaneId) (c : Chan) (k : Cause) : State :=
  (s.modProv l c fun a => { a with failDark := true, darkCause := k, litOk := false, warming := false }).noteChan l c
/-- A lane's REACT latch of a source channel is set (R202). -/
def State.react (s : State) (l : LaneId) (d : Chan) : State :=
  s.modLane l fun L => { L with latches := { L.latches with react := L.latches.react ||| only d }, clr := { L.clr with react := L.clr.react &&& ~~~(only d) } }
/-- FOREIGN is decided with a cause and a named source (R194, R198, R201, R202): held; under PROT 1 and 2 the group
reverts, under PROT 2 the named source channel gets a REACT latch, and each action raises REACT. The decision is reported with
the status it brings, or by an event of its own where another status stands above it or the same one stood already (R200). -/
def State.foreignAt (s : State) (l : LaneId) (c : Chan) (k : Cause) (src : Option Chan) : State :=
  let prot := s.lampParams.prot c
  let s1 := s.modProv l c fun a => { a with foreign := true, forCause := k, source := src }
  let s2 := if 1 ≤ prot then s1.trigger (only l) c.group false else s1
  let s3 : State := match src with
    | some d => if prot = 2 then s2.react l d else s2
    | none => s2
  let s4 : State := if 1 ≤ prot then s3.note EventCode.react [c.val, (src.map (·.val)).getD 0xFF, c.group.val] [] l.val else s3
  if s4.chanCode l c = 6 ∧ s4.lanes[l].codes[c] ≠ 6 then s4.noteChan l c else (s4.noteChan l c).event 6 0 l.val (scope (s4.chanItems l c 6) k.code)

end Sys2Proof.Machine
end

