-- ==== Sys2Proof/Machine/Drive.lean ====
section
/-!
DEFINITION. Voted drive: the frames a lane forms (R23, R45 to R48, R57, R450, R451), what a lane input of a
front-end or bank does with them (R49 to R51), majority, pump and discharge (R52 to R54), trips and their hardware
latches (R42 to R44, R455), overlays (R20, R59) and the gate-drive supply (R56).
-/

namespace Sys2Proof.Machine

/-! ## Forming frames -/

/-- The channels a lane's DRIVE block drives on: the image in force after the overlays that the last overlay word
gave it; nothing in a lane out of the vote (R23, R57). -/
def State.effOn (s : State) (l : LaneId) : ChanMask :=
  let L := s.lanes[l]
  let d := L.drive
  if L.st = .active ∧ !d.held then
    (d.img.on &&& ~~~d.sent.off &&& ~~~(d.img.dim &&& d.sent.dimOff)) ||| (d.sent.add &&& ~~~d.img.on)
  else 0
/-- The points a lane's DRIVE block drives on. -/
def State.effPts (s : State) (l : LaneId) : PointMask :=
  let L := s.lanes[l]
  let d := L.drive
  if L.st = .active ∧ !d.held then (d.img.pts &&& ~~~d.sent.ptOff) ||| (d.sent.ptAdd &&& ~~~d.img.pts) else 0
/-- The eight channel bits of a group. -/
def groupBits (m : ChanMask) (g : GroupId) : BitVec 8 := (m >>> (8 * g.val)).setWidth 8
/-- The twelve point bits of a bank. -/
def bankBits (m : PointMask) (b : BankId) : PosMask := (m >>> (12 * b.val)).setWidth 12
/-- The frame a lane forms for a receiver (R47, R450): an "on" inverts the bit of the previous completed frame (of
the same HALF), an "off" repeats it; the first frame after a reset has PH 0 and every bit 0. -/
def State.formFrame (s : State) (l : LaneId) : DriveDest → BitVec 16
  | .grp g =>
    let r := s.lanes[l].drive.grp[g]
    let ch : BitVec 8 := match r.prev with
      | none => 0
      | some w => w.setWidth 8 ^^^ groupBits (s.effOn l) g
    groupFrame l r.ph (decide (0 < r.clrLeft)) ch
  | .bank b =>
    let r := s.lanes[l].drive.bank[b]
    let on := bankBits (s.effPts l) b
    let q : BitVec 6 := match (if r.half then r.prevHi else r.prev) with
      | none => 0
      | some w => w.setWidth 6 ^^^ (if r.half then (on >>> 6).setWidth 6 else on.setWidth 6)
    bankFrame l r.ph (decide (0 < r.clrLeft)) r.half q
/-- The lane's reference after a completed frame. -/
def DriveRef.done (r : DriveRef) (w : BitVec 16) (isBank : Bool) : DriveRef :=
  { prev := if isBank && r.half then r.prev else some w
    prevHi := if isBank && r.half then some w else r.prevHi
    half := isBank && !r.half
    ph := !r.ph
    clrLeft := r.clrLeft - 1 }
/-- The items of a receiver in an overlay's frame counts: channels 0 to 95, points 96 to 143. -/
def destHolds (d : DriveDest) (i : Nat) : Bool :=
  match d with
  | .grp g => i / 8 == g.val && decide (i < 96)
  | .bank b => decide (96 ≤ i) && (i - 96) / 12 == b.val
/-- A completed frame counts down the added overlays of its receiver, which end in the DRIVE block (R20, R67). -/
def Overlay.count (o : Overlay) (d : DriveDest) : Overlay :=
  let fs := o.frames.map fun x => if destHolds d x.1 then (x.1, x.2 - 1) else x
  let ended := (fs.filter fun x => x.2 == 0).map (·.1)
  { o with frames := fs.filter fun x => x.2 != 0
           add := o.add &&& ~~~(maskOf fun (c : Chan) => ended.contains c.val)
           ptAdd := o.ptAdd &&& ~~~(maskOf fun (p : Point) => ended.contains (96 + p.val)) }
/-- A lane has completed the frame w to a receiver. -/
def State.frameSent (s : State) (l : LaneId) (d : DriveDest) (w : BitVec 16) : State :=
  s.modLane l fun L =>
    let dr := { L.drive with sent := L.drive.sent.count d }
    match d with
    | .grp g => { L with drive := { dr with grp := dr.grp.set g (dr.grp[g].done w false) } }
    | .bank b => { L with drive := { dr with bank := dr.bank.set b (dr.bank[b].done w true) } }

/-! ## A lane input of a receiver -/

/-- Positions cleared at one input: vote cleared, TG low, OFF high (R50). -/
def LaneInput.clear (i : LaneInput) (k : PosMask) : LaneInput :=
  { i with vote := i.vote &&& ~~~k, tg := i.tg &&& ~~~k, off := i.off ||| k }
/-- Positions whose bit alternated in a valid frame: vote set, TG inverted, OFF low (R50). -/
def LaneInput.toggle (i : LaneInput) (k : PosMask) (now : Nat) : LaneInput :=
  { i with vote := i.vote ||| k, tg := i.tg ^^^ k, off := i.off &&& ~~~k, tgAt := Vector.ofFn fun j => if has k j then now else i.tgAt[j] }
/-- The read-back of an input's on-votes at the majority inputs (R55, R456): TG toggled within 24 µs and OFF is low. -/
def LaneInput.readBack (i : LaneInput) (now : Nat) : PosMask := maskOf fun k => !has i.off k && decide (now ≤ i.tgAt[k] + 4800)
/-- A loss at one input (R51): every on-vote is cleared and the next valid frame is only a reference (R49). With no frame to
compare, its PH may have either value (notes/assumptions/112.md). -/
def LaneInput.lose (i : LaneInput) : LaneInput :=
  { i.clear 0xFFF with last := none, lastHi := none, lastAt := none }
/-- A frame is valid at the input of lane l (R49). -/
def frameValid (i : LaneInput) (l : LaneId) (w : BitVec 16) (n : Nat) (fsOk isBank : Bool) : Bool :=
  decide (16 ≤ n) && fsOk && fcsOk w && (if isBank then field w 10 2 == lid l else field w 9 2 == lid l) &&
  (i.lastAt.isNone || (if isBank then phB w else phG w) != i.ph)
/-- The bits of a frame held against a reference: equal bits among the first n received, at the positions of the
frame. -/
def heldBits (isBank : Bool) (w ref : BitVec 16) (n : Nat) : PosMask :=
  let width := if isBank then 6 else 8
  let sh := if isBank && w.getLsbD 8 then 6 else 0
  maskOf fun (j : Position) => decide (sh ≤ j.val) && decide (j.val - sh < width) && decide (j.val - sh < n) &&
    (w.getLsbD (j.val - sh) == ref.getLsbD (j.val - sh))
/-- The positions a frame commands. -/
def frameSpan (isBank : Bool) (w : BitVec 16) : PosMask :=
  if isBank then (if w.getLsbD 8 then 0xFC0 else 0x03F) else 0x0FF
/-- What one lane input does with the first n bits of a frame (R50). A CLR in a reference frame finds no channel off, since no
bit is held yet (R44, notes/assumptions/113.md). -/
def LaneInput.recv (i : LaneInput) (l : LaneId) (isBank : Bool) (now : Nat) (w : BitVec 16) (n : Nat) (fsOk : Bool) : LaneInput :=
  let hi := isBank && w.getLsbD 8
  let ref := if hi then i.lastHi else i.last
  let held := match ref with
    | some v => heldBits isBank w v n
    | none => 0
  let i1 := i.clear held
  if frameValid i l w n fsOk isBank then
    let i2 := match ref with
      | some _ => i1.toggle (frameSpan isBank w &&& ~~~held) now
      | none => i1
    let clr := if isBank then w.getLsbD 7 else w.getLsbD 11
    { i2 with last := if hi then i2.last else some w
              lastHi := if hi then some w else i2.lastHi
              lastAt := some now
              ph := if isBank then phB w else phG w
              clrAt := if clr && !hi then some now else i2.clrAt
              clrHeld := if clr && !hi then held else i2.clrHeld
              clrHiAt := if clr && hi then some now else i2.clrHiAt
              clrHiHeld := if clr && hi then held else i2.clrHiHeld }
  else i1

/-! ## Majority, pump and discharge -/

/-- The majority of three inputs. -/
def maj3 {n : Nat} (a b c : BitVec n) : BitVec n := (a &&& b) ||| (a &&& c) ||| (b &&& c)
/-- The TG and OFF majorities of three inputs (R52, R53). -/
def tgMaj (v : Vector LaneInput 3) : PosMask := maj3 v[0].tg v[1].tg v[2].tg
def offMaj (v : Vector LaneInput 3) : PosMask := maj3 v[0].off v[1].off v[2].off
/-- Positions at which at least two inputs hold an on-vote. -/
def voteMaj (v : Vector LaneInput 3) : PosMask := maj3 v[0].vote v[1].vote v[2].vote
/-- The switches after the inputs changed (R53): a majority edge charges the gate, an OFF majority discharges it. -/
def switched (was new : Vector LaneInput 3) (cond block : PosMask) : PosMask :=
  (cond ||| (tgMaj was ^^^ tgMaj new)) &&& ~~~offMaj new &&& ~~~block
/-- Lane inputs with a valid frame within a time (FV, R55). -/
def freshInputs (v : Vector LaneInput 3) (now d : Nat) : Nat :=
  (allLanes.filter fun l => v[l].lastAt.any fun t => decide (now ≤ t + d)).length
/-- The two lowest-level facts of a hardware latch clear (R44, R455): CLR in valid frames of at least two inputs
within a time, with the position held in them. -/
def clearable (v : Vector LaneInput 3) (now d : Nat) : PosMask :=
  let lo (l : LaneId) : PosMask := if v[l].clrAt.any fun t => decide (now ≤ t + d) then v[l].clrHeld else 0
  let hi (l : LaneId) : PosMask := if v[l].clrHiAt.any fun t => decide (now ≤ t + d) then v[l].clrHiHeld else 0
  maj3 (lo 0 ||| hi 0) (lo 1 ||| hi 1) (lo 2 ||| hi 2)
/-- The sources that drive now: enabled, with no on-vote at any input and no gate sense (R176). -/
def FrontEnd.probeActive (f : FrontEnd) : BitVec 8 :=
  f.probeEn &&& ~~~(f.inp[0].vote ||| f.inp[1].vote ||| f.inp[2].vote).setWidth 8 &&& ~~~f.conducting
/-- The stretches in which each source drives are kept as a front-end changes (R176). -/
def FrontEnd.tracked (f was : FrontEnd) (now : Nat) : FrontEnd :=
  let a := f.probeActive
  let b := was.probeActive
  if a = b then f else
  { f with
    probeSince := Vector.ofFn fun k => if a.getLsbD k.val && !b.getLsbD k.val then now else f.probeSince[k]
    probePast := ((List.finRange 8).filterMap fun k => if b.getLsbD k.val && !a.getLsbD k.val then some { pos := k, start := was.probeSince[k], stop := now } else none) ++
      f.probePast.filter fun x => decide (now ≤ x.stop + keepFor) }
/-- An agreed write of the probe enables: with fewer than two lanes delivering valid frames the hardware keeps every source
disabled (R176). -/
def FrontEnd.setProbe (f : FrontEnd) (m : BitVec 8) (now : Nat) : FrontEnd :=
  ({ f with probeEn := if 2 ≤ freshInputs f.inp now 4800 then m else 0 } : FrontEnd).tracked f now
/-- A front-end after its inputs changed: switches follow; with fewer than two lanes delivering valid frames the
probe sources are disabled in hardware (R176). -/
def FrontEnd.settle (f : FrontEnd) (new : Vector LaneInput 3) (now : Nat) : FrontEnd :=
  let block : PosMask := if f.gds then (f.sc ||| f.ot).setWidth 12 else 0xFFF
  let edges := tgMaj f.inp ^^^ tgMaj new
  let alive := decide (2 ≤ freshInputs new now 4800)
  ({ f with inp := new
            conducting := (switched f.inp new (f.conducting.setWidth 12) block).setWidth 8
            pumpAt := Vector.ofFn fun k => if edges.getLsbD k.val then now else f.pumpAt[k]
            probeEn := if alive then f.probeEn else 0
            chips := if alive then f.chips else 0 } : FrontEnd).tracked f now
/-- The trip latches a front-end clears on CLR (R44): OVERTEMP only with the junction cooled. -/
def FrontEnd.clearTrips (f : FrontEnd) (now : Nat) (hot : PosMask) : FrontEnd :=
  let k := (clearable f.inp now 4800).setWidth 8
  { f with sc := f.sc &&& ~~~k, ot := f.ot &&& ~~~(k &&& ~~~(hot.setWidth 8)) }
/-- A bank after its inputs changed. -/
def BankState.settle (b : BankState) (new : Vector LaneInput 3) (now : Nat) : BankState :=
  let block : PosMask := b.ol ||| (if b.hwLoss then 0xFFF else 0)
  let edges := tgMaj b.inp ^^^ tgMaj new
  { b with inp := new
           conducting := switched b.inp new b.conducting block
           pumpAt := Vector.ofFn fun k => if has edges k then now else b.pumpAt[k] }
/-- The latches a bank clears on CLR (R455, R468): a thermal one only below 140 °C; the hardware supply-loss latch
when CLR reaches it with every position of a half held. -/
def BankState.clearLatches (b : BankState) (now : Nat) (hot : PosMask) : BankState :=
  let k := clearable b.inp now 9600
  let gone := b.ol &&& k &&& ~~~(b.thermal &&& hot)
  { b with ol := b.ol &&& ~~~gone, thermal := b.thermal &&& ~~~gone, hwLoss := b.hwLoss && !(k == 0xFFF) }

/-- The states of one lane input at one channel (R53). -/
inductive InputState where
  | on | off | xd | xs | xh
  deriving DecidableEq, Repr

/-- The majority at TG: toggling, or static (R54). A static high input passes the edges of one other. -/
def tgToggles (a b c : InputState) : Bool :=
  let t := [a, b, c].countP (· == .on)
  let h := [a, b, c].countP (· == .xh)
  decide (2 ≤ t) || (t == 1 && h == 1)
/-- The majority at OFF is high: at least two of the states OFF and XD. -/
def offHigh (a b c : InputState) : Bool := decide (2 ≤ [a, b, c].countP fun x => x == .off || x == .xd)
/-- The switch is on only when the TG majority toggles and the OFF majority is low (R53, R54). -/
def switchOn (a b c : InputState) : Bool := tgToggles a b c && !offHigh a b c

/-! ## Receiving -/

/-- A receiver takes the first n bits of a frame from a lane input. -/
def State.receive (s : State) (d : DriveDest) (l : LaneId) (w : BitVec 16) (n : Nat) (fsOk : Bool) (hot : PosMask) : State :=
  match d with
  | .grp g => s.modFe g fun f => (f.settle (f.inp.set l (f.inp[l].recv l false s.now w n fsOk)) s.now).clearTrips s.now hot
  | .bank b => s.modBank b fun k => (k.settle (k.inp.set l (k.inp[l].recv l true s.now w n fsOk)) s.now).clearLatches s.now hot
/-- A lane sends drive frames: from its boot in the Thaw, with every channel and point held (R56, R371,
notes/assumptions/133.md), until its streams stop. -/
def State.streams (s : State) (l : LaneId) : Bool := s.lanes[l].drive.running || (s.lanes[l].st == .thawing && s.mode.mode == .thaw)
/-- A lane's next drive frame on one line: as the lane formed it, or as it arrived. A frame of which fewer than 16
bits arrived is no completed frame (R48). A lane whose streams have stopped sends none of its own. -/
def State.driveFrame (s : State) (d : DriveDest) (l : LaneId) (rx : RxDrive) (hot : PosMask) : State :=
  let w0 := s.formFrame l d
  match rx with
  | .asSent => if s.streams l then (s.frameSent l d w0).receive d l w0 16 true hot else s
  | .bits w n fsOk =>
    (if s.streams l ∧ 16 ≤ n then s.frameSent l d w0 else s).receive d l w n fsOk hot
/-- The lane inputs of a receiver. -/
def State.inputs (s : State) : DriveDest → Vector LaneInput 3
  | .grp g => s.fe[g].inp
  | .bank b => s.banks[b].inp
/-- Time without a valid frame after which a loss timer fires: 24 µs, 40 µs on a bank (R51, R452). -/
def lossTime : DriveDest → Nat
  | .grp _ => 4800
  | .bank _ => 8000
/-- DRIVE_LOSS_TIMER is due: no valid frame has completed on the input for the time. -/
def State.lossDue (s : State) (d : DriveDest) (l : LaneId) : Bool :=
  (s.inputs d)[l].lastAt.all fun t => decide (t + lossTime d ≤ s.now)
/-- The input's on-votes are cleared (R51). -/
def State.loseInput (s : State) (d : DriveDest) (l : LaneId) : State :=
  match d with
  | .grp g => s.modFe g fun f => f.settle (f.inp.set l f.inp[l].lose) s.now
  | .bank b => s.modBank b fun k => k.settle (k.inp.set l k.inp[l].lose) s.now

/-- The switches of a set of channels open. -/
def FrontEnd.stop (f : FrontEnd) (k : BitVec 8) (now : Nat) : FrontEnd := ({ f with conducting := f.conducting &&& ~~~k } : FrontEnd).tracked f now
/-- Hardware trips of a front-end (R42, R43): the switches open and the latches are set. -/
def FrontEnd.trip (f : FrontEnd) (sc ot : BitVec 8) (now : Nat) : FrontEnd :=
  ({ f with sc := f.sc ||| sc, ot := f.ot ||| ot, conducting := f.conducting &&& ~~~(sc ||| ot) } : FrontEnd).tracked f now
/-- The gate-drive supply of a front-end leaves or returns within its limits (R56). -/
def FrontEnd.supply (f : FrontEnd) (ok : Bool) (now : Nat) : FrontEnd :=
  ({ f with gds := ok, conducting := if ok then f.conducting else 0 } : FrontEnd).tracked f now
/-- The outputs of a set of positions of a bank switch off. -/
def BankState.stop (b : BankState) (k : PosMask) : BankState := { b with conducting := b.conducting &&& ~~~k }

/-- DRIVE_FRAME (R50). -/
def execDriveFrame (d : DriveDest) (l : LaneId) (rx : RxDrive) (hot : PosMask) (s : State) : Host.Outcome State Fault Refusal :=
  .next (s.driveFrame d l rx hot)

/-- DRIVE_LOSS_TIMER (R51, R452). -/
def execDriveLossTimer (d : DriveDest) (l : LaneId) (s : State) : Host.Outcome State Fault Refusal :=
  .next (if s.lossDue d l then s.loseInput d l else s)

/-- What the DRIVE domain holds after an overlay word: a majority overlay that it still counts runs on (R20, R67,
notes/assumptions/127.md). -/
def Overlay.word (o sent : Overlay) : Overlay :=
  { o with add := o.add ||| sent.add, ptAdd := o.ptAdd ||| sent.ptAdd, frames := o.frames ++ sent.frames }
/-- The lane's overlay state after the word is sent: an added "on" was handed to the DRIVE domain, which counts its frames. -/
def Overlay.handed (o : Overlay) : Overlay := { o with add := 0, ptAdd := 0, frames := [] }
/-- An added overlay of a channel ends before its count. -/
def Overlay.dropChan (o : Overlay) (c : Chan) : Overlay :=
  { o with add := o.add &&& ~~~(only c), frames := o.frames.filter fun x => x.1 != c.val }
/-- An added overlay of a point ends before its count. -/
def Overlay.dropPoint (o : Overlay) (p : Point) : Overlay :=
  { o with ptAdd := o.ptAdd &&& ~~~(only p), frames := o.frames.filter fun x => x.1 != 96 + p.val }
/-- OVERLAY_WORD (R20): on the 10 µs grid every lane that runs sends its DRIVE domain the overlay state. -/
def execOverlayWord (s : State) : Host.Outcome State Fault Refusal :=
  .next (if s.reaches 2000 then
    s.modLanes fun _ L => { L with drive := { L.drive with sent := L.drive.ov.word L.drive.sent, ov := L.drive.ov.handed } } else s)

/-- A settle interval of a channel, in every lane; those long past go (R124). -/
def Proving.settles (a : Proving) (from_ to_ : Nat) : Proving :=
  { a with settle := (from_, to_) :: a.settle.filter fun e => decide (from_ ≤ e.2 + 20000000) }
def State.settles (s : State) (c : Chan) (from_ to_ : Nat) : State := s.modLanes fun _ L => L.modProv c fun a => a.settles from_ to_

/-- SHORT_CIRCUIT_TRIP (R42): the switch opens in hardware, the front-end's trip latch is set, and the front-end triggers its
converter (R101). -/
def execShortCircuitTrip (c : Chan) (s : State) : Host.Outcome State Fault Refusal :=
  .next ((s.modFe c.group fun f => { f.trip (only c.pos) 0 s.now with aux := f.aux.trigger 2 s.now f.refs }).settles c s.now (s.now + 10 * Config.ms))

/-- OVERTEMP_TRIP (R43): as a short-circuit trip, with its own latch. -/
def execOvertempTrip (c : Chan) (s : State) : Host.Outcome State Fault Refusal :=
  .next ((s.modFe c.group fun f => f.trip 0 (only c.pos) s.now).settles c s.now (s.now + 10 * Config.ms))

/-- The duty of a dimmed channel in percent, by its command (R59). -/
def ParamImage.dimDuty (p : ParamImage) (c : Chan) (cmd : BitVec 4) : Nat := if cmd = 4 then p.dim1 c.group else p.dim2 c.group
/-- An instant of global time lies in the on-phase of its millisecond (R59). -/
def inOnPhase (duty t : Nat) : Bool := decide (t % 200000 < 2000 * duty)
/-- A lane's dimming overlay of a channel takes an edge of the phase that runs now. -/
def State.edgeDue (s : State) (L : LaneState) (c : Chan) (onPhase : Bool) : Bool :=
  L.st == .active && has L.drive.img.dim c && inOnPhase (s.lampParams.dimDuty c L.inForce.cmd[c]) s.laneTime == onPhase
/-- DIMMING_EDGE (R59): on a DC group the overlay of a dimmed channel ends or begins, with the phase of the present
millisecond of global time, in every lane in the vote; an off-phase edge is judged as an off-test (R63). -/
def execDimmingEdge (c : Chan) (onPhase : Bool) (s : State) : Host.Outcome State Fault Refusal :=
  let falls := allLanes.any fun l => s.edgeDue s.lanes[l] c onPhase && !has s.lanes[l].drive.ov.dimOff c
  let edge := allLanes.any fun l => s.edgeDue s.lanes[l] c onPhase && has s.lanes[l].drive.ov.dimOff c == onPhase
  let s0 := if edge then s.settles c s.now (s.now + 6000) else s
  let s1 := s0.modLanes fun _ L => if s.edgeDue L c onPhase then
      { L with drive := { L.drive with ov := { L.drive.ov with
          dimOff := if onPhase then L.drive.ov.dimOff &&& ~~~(only c) else L.drive.ov.dimOff ||| only c } } } else L
  .next (if falls ∧ !onPhase then s1.modSched c fun t => { t with trans := some { t0 := s.now } } else s1)

/-- PUMP_STARVATION (R52, R452): with the majority of toggling inputs lost, the holdup runs out and the switch
stops conducting. -/
def execPumpStarvation (d : DriveDest) (k : Position) (s : State) : Host.Outcome State Fault Refusal :=
  .next (if has (voteMaj (s.inputs d)) k then s else
    match d with
    | .grp g => s.modFe g fun f => f.stop ((only k : PosMask).setWidth 8) s.now
    | .bank b => s.modBank b fun x => x.stop (only k))

/-- GATE_DRIVE_SUPPLY (R56): GDS follows the supply; without it every gate is held discharged. -/
def execGateDriveSupply (g : GroupId) (ok : Bool) (s : State) : Host.Outcome State Fault Refusal :=
  .next (s.modFe g fun f => f.supply ok s.now)

end Sys2Proof.Machine
end

