-- ==== Sys2Proof/Machine/Field.lean ====
section
/-!
DEFINITION. Field inputs and outputs (R448 to R474) and contactor monitoring (R412, R413, R496).
-/

namespace Sys2Proof.Machine

/-! ## Side conditions of links: R77 for a stream of frames -/

/-- MEAS_LINK's counts after a discarded frame: the third in a row raises it (R77). -/
def linkBad (bad : Nat) (link : Bool) : Nat × Bool := (bad + 1, link || decide (3 ≤ bad + 1))
/-- MEAS_LINK's counts after a good frame: the second in a row ends it (R77). -/
def linkGood (good : Nat) (link : Bool) : Nat × Bool := (good + 1, link && decide (good + 1 < 2))
/-- MEAS_LINK follows a lane's link state for group or bank number n (12 + b for a bank); two lanes that hold it for
one group revert it (R420). -/
def State.measLinkFault (s : State) (l : LaneId) (n : Nat) (was now : Bool) : State :=
  if now && !was then
    let s1 := s.fault FaultCode.measLink [l.val, n] (only l)
    match groupAt n with
    | some g => if decide (2 ≤ (allLanes.filter fun k => s1.stands FaultCode.measLink [k.val, n]).length) then s1.trigger s1.voteMask g true else s1
    | none => s1
  else if was && !now then s.withdrawFault FaultCode.measLink [l.val, n]
  else s
/-- Since when a read-back has differed from what its lane intends (R55). -/
def diffNow (was : Option Nat) (differs : Bool) (now : Nat) : Option Nat := if differs then some (was.getD now) else none
/-- DRIVE_LINK stands for a lane input that has differed for longer than 24 µs. -/
def diffOver (d : Option Nat) (now : Nat) : Bool := d.any fun t => decide (t + 4800 < now)

/-! ## Inputs -/

/-- Debounce of one raw sample (R464), DEBOUNCE in µs. -/
def LanePoint.debounce (a : LanePoint) (raw : Bool) (db now : Nat) : LanePoint :=
  if raw == a.deb then { a with runStart := none }
  else
    let t := a.runStart.getD now
    if t + db * Config.us ≤ now then { a with deb := raw, runStart := none } else { a with runStart := some t }
/-- The first decision on a point (R165, R473): an input's debounced state holds once it has changed, or its raw samples have been of it
over DEBOUNCE; any other point is decided with its first sample. -/
def LanePoint.firstDecision (a was : LanePoint) (isIn raw : Bool) (db now : Nat) : LanePoint :=
  let t := a.sameAt.getD now
  if a.decided then a
  else if !isIn || a.deb != was.deb || (raw == a.deb && Nat.ble (t + db * Config.us) now) then { a with decided := true }
  else { a with sameAt := if raw == a.deb then some t else none }
/-- One current measurement judged for WIRE_BREAK (R465). -/
def LanePoint.wire (a : LanePoint) (i limit now : Nat) : LanePoint :=
  let lo := if i < limit then some (a.wbLow.getD now) else none
  let hi := if i < limit then none else some (a.wbHigh.getD now)
  let w := if lo.any fun t => decide (t + 10 * Config.ms ≤ now) then true
           else if hi.any fun t => decide (t + 10 * Config.ms ≤ now) then false else a.wireBreak
  { a with iin := i, wbLow := lo, wbHigh := hi, wireBreak := w }
/-- One read-back of an output judged for EXTERNAL_FEED (R469), EXT_FILTER in ms: decided while it is off, withdrawn in either state. -/
def LanePoint.external (a : LanePoint) (on rb gs : Bool) (filt now : Nat) : LanePoint :=
  if !on && a.offAt.any fun t => decide (now < t + Config.ms) then a
  else
    let hi := if !on && rb && !gs then some (a.extHigh.getD now) else none
    let lo := if rb then none else some (a.extLow.getD now)
    let e := if hi.any fun t => decide (t + filt * Config.ms ≤ now) then true
             else if lo.any fun t => decide (t + filt * Config.ms ≤ now) then false else a.extFeed
    { a with extHigh := hi, extLow := lo, extFeed := e }

/-! ## Contactors (R413, R496) -/

/-- The output point of a contactor of a group. -/
def ParamImage.outOf (p : ParamImage) (g : GroupId) (a : Bool) : Nat := if a then p.outA g else p.outB g
/-- The feedback input of a contactor of a group. -/
def ParamImage.fbOf (p : ParamImage) (g : GroupId) (a : Bool) : Nat := if a then p.fbA g else p.fbB g
/-- The pending edge of a contactor's output. -/
def GroupState.edgeOf (G : GroupState) (a : Bool) : Option (Nat × Bool) := if a then G.edgeA else G.edgeB
/-- A contactor's output is derived on in a lane. -/
def State.contactorOn (s : State) (l : LaneId) (g : GroupId) (a : Bool) : Bool :=
  (pointAt (s.params.outOf g a)).any fun p => has s.lanes[l].drive.img.pts p
/-- A contactor's feedback as a lane reads it; 1 is open. -/
def State.feedback (s : State) (l : LaneId) (g : GroupId) (a : Bool) : Bool :=
  (pointAt (s.params.fbOf g a)).any fun p => s.inputState l p
/-- A lane judges a contactor on its feedback (R413): off must read 1, on must read 0. -/
def State.judgeContactor (s : State) (lanes : LaneMask) (g : GroupId) (a : Bool) : State :=
  let o := s.params.outOf g a
  let bad (on : Bool) : LaneMask := maskOf fun l => has lanes l && s.contactorOn l g a == on && s.feedback l g a == on
  let right : LaneMask := maskOf fun l => has lanes l && s.contactorOn l g a != s.feedback l g a
  let s1 := if bad false = 0 then s else s.fault FaultCode.contactorWelded [g.val, o] (bad false)
  let s2 := if bad true = 0 then s1 else s1.fault FaultCode.contactorNoClose [g.val, o] (bad true)
  (s2.withdrawFault FaultCode.contactorWelded [g.val, o] right).withdrawFault FaultCode.contactorNoClose [g.val, o] right
/-- A contactor of a group among the 24. -/
def contIdx (g : GroupId) (a : Bool) : Fin 24 := ⟨2 * g.val + (if a then 0 else 1), by split <;> omega⟩
/-- A debounced edge of a contactor's feedback (R496): one to 0 is an operation, one to 1 ends a release, which is slow where it
took more than 80 % of FB_TIME. -/
def ContRun.edge (r : ContRun) (open_ : Bool) (now fbTime : Nat) : ContRun :=
  if !open_ then { r with ops := r.ops + 1 }
  else
    match r.relAt with
    | none => r
    | some t =>
      let rel := (now - t) / 20000
      let slow := if fbTime * 160000 < now - t then r.slow + 1 else 0
      { r with relAt := none, lastRelease := rel, maxRelease := max r.maxRelease rel, slow := slow, slowSaid := r.slowSaid || decide (3 ≤ slow) }
/-- A feedback edge as a lane accumulates it (R491, R496); WEAR_CONT_SLOW as the supplying lane decides it (R502). -/
def State.contactorWear (s : State) (l : LaneId) (g : GroupId) (a open_ : Bool) : State :=
  let r := s.wear.run[l].cont[contIdx g a]
  let r1 := r.edge open_ s.now (s.params.fbTime g)
  let s1 := s.modCont l (contIdx g a) fun _ => r1
  if r1.slowSaid && !r.slowSaid && s.supplier == some l then s1.note 0x0244 [g.val, s.params.outOf g a] else s1
/-- A feedback input changed its state in a lane: between edges the contactor is judged at once (R413). -/
def State.feedbackEdge (s : State) (l : LaneId) (p : Point) : State :=
  match s.params.feedbackOf p with
  | none => s
  | some (g, a) =>
    let s1 := if s.active l then s.contactorWear l g a (s.inputState l p) else s
    if (s1.groups[g].edgeOf a).isSome then s1 else s1.judgeContactor (only l) g a

/-! ## The majority test of an output (R461) -/

/-- The majority test of an output ends: its overlay with it. -/
def State.fieldMajStop (s : State) (t : FieldMajRun) : State :=
  let s1 : State := { s with tests := { s.tests with fieldMaj := none } }
  s1.modLane t.lane fun L => { L with drive := { L.drive with ov := L.drive.ov.dropPoint t.p, sent := L.drive.sent.dropPoint t.p } }
/-- A completed majority test of an output: passed, or failed with OUTPUT_FAULT. -/
def State.fieldMajEnds (s : State) (t : FieldMajRun) (bad : Bool) : State :=
  let s1 := (s.fieldMajStop t).pointProved t.p
  if bad then s1.outputFault s.voteMask t.p .majorityTest else s1
/-- Gate sense, or a read-back without EXTERNAL_FEED, fails a majority test. -/
def State.fieldMajBad (s : State) (p : Point) (gs rb : Bool) : Bool := gs || (rb && !s.stands FaultCode.externalFeed [p.val])
/-- A read-back during a majority test fails it at once. -/
def State.fieldMajSample (s : State) (p : Point) (gs rb : Bool) : State :=
  match s.tests.fieldMaj with
  | some t => if t.p = p ∧ s.fieldMajBad p gs rb then s.fieldMajEnds t true else s
  | none => s

/-! ## The sample frame (R456, R457) -/

/-- One position of a bank in a lane's good frame. -/
def State.bankPoint (s : State) (l : LaneId) (p : Point) (w : BankBits) : State :=
  let j := p.pos
  let q := s.params
  let raw := has (BankF.raw w) j
  let rb := has (BankF.rb w) j
  let gs := has (BankF.gs w) j
  let on := has s.lanes[l].drive.img.pts p
  let measured := BankF.midx w == j.val
  let before := s.inputState l p
  let a0 := s.lanes[l].pts[p]
  let a1 := (if q.isIn p then a0.debounce raw (q.debounce p) s.now else a0).firstDecision a0 (q.isIn p) raw (q.debounce p) s.now
  let a2 := if q.isIn p && measured then
      (if q.wbEn p && decide (1600 ≤ s.lanes[l].bank[p.bank].supply) && !s.banks[p.bank].missing then a1.wire (BankF.mval w) (q.wbLimit p) s.now
       else { a1 with iin := BankF.mval w, wbLow := none, wbHigh := none })
    else if measured && !q.isOut p then { a1 with iin := BankF.mval w } else a1
  let a3 := if q.isOut p then a2.external on rb gs (q.extFilter p) s.now else a2
  let a4 := if q.isOut p && on && rb && a3.onReadBack.isNone then { a3 with onReadBack := some s.now } else a3
  let s1 := s.modPoint l p fun _ => a4
  let s2 := if a4.wireBreak && !a0.wireBreak then s1.fault FaultCode.wireBreak [p.val] (only l)
            else if a0.wireBreak && !a4.wireBreak then s1.withdrawFault FaultCode.wireBreak [p.val] (only l) else s1
  let s3 := if a4.extFeed && !a0.extFeed then s2.fault FaultCode.externalFeed [p.val] (only l)
            else if a0.extFeed && !a4.extFeed then s2.withdrawFault FaultCode.externalFeed [p.val] (only l) else s2
  let s4 := if q.isOut p && has (BankF.ol w) j && !(has s3.lanes[l].latches.outFault p) then
      s3.outputFault (only l) p (if has s3.banks[p.bank].thermal j then .thermal else .overload) else s3
  let s5 := if q.isOut p && q.otEn p && on && rb && a0.onReadBack.isNone && s4.tests.point[p].nextOff.isNone then
      { s4 with tests := { s4.tests with point := s4.tests.point.set p { s4.tests.point[p] with nextOff := some (s.now + 100 * Config.ms) } } } else s4
  let s6 := match s5.tests.field with
    | some t => if t.p = p ∧ !t.waits ∧ t.t0 + 20000 ≤ s.now ∧ s.now ≤ t.t0 + 40000 then
        { s5 with tests := { s5.tests with field := some { t with samples := t.samples ++ [(⟨l, rb, gs⟩ : FieldSample)] } } } else s5
    | none => s5
  let s6 := s6.fieldMajSample p gs rb
  let s7 := if q.isIn p && s6.inputState l p != before then s6.feedbackEdge l p else s6
  s7.notePoint l p
/-- The sample frame that a bank sends to a lane (R456): the on-vote read-backs of its lane inputs and the valid frames of the last
40 µs are those of its inputs, gate sense that of its switches. -/
def BankState.frame (x : BankState) (l : LaneId) (now : Nat) (raw rb cl : PosMask) (sup : BitVec 3) (mval : Word) : BankBits :=
  let at_ {n : Nat} (v : BitVec n) (i : Nat) : BankBits := v.setWidth 160 <<< i
  let fv : BitVec 3 := maskOf fun (k : LaneId) => x.inp[k].lastAt.any fun t => decide (now ≤ t + 8000)
  BankF.withCrc (at_ raw 0 ||| at_ rb 12 ||| at_ x.conducting 24 ||| at_ cl 36 ||| at_ x.ol 48 ||| at_ (x.inp[0].readBack now) 60 ||| at_ (x.inp[1].readBack now) 72 |||
    at_ (x.inp[2].readBack now) 84 ||| at_ fv 96 ||| at_ sup 99 ||| at_ (BitVec.ofNat 4 x.midx[l]) 102 ||| at_ mval 106)
/-- The bits that reach a lane. -/
def BankState.received (x : BankState) (l : LaneId) (now : Nat) : RxBank → BankBits
  | .asSent raw rb cl sup mval => x.frame l now raw rb cl sup mval
  | .bits w => w
/-- The next frame to a lane carries the next quantity: MIDX runs from 0 to 13. -/
def BankState.sentTo (x : BankState) (l : LaneId) : BankState := { x with midx := x.midx.set l ((x.midx[l] + 1) % 14) }
/-- A lane takes the fields of a good bank frame; while MEAS_LINK still stands its samples are unavailable (R77, R457). -/
def State.bankFrame (s : State) (l : LaneId) (b : BankId) (w : BankBits) : State :=
  let B := s.lanes[l].bank[b]
  let lk := linkGood B.good B.measLink
  let diff := Vector.ofFn fun x => diffNow B.diffSince[x] (BankF.rbl w x != bankBits (s.effPts x) b) s.now
  let B1 : LaneBank := { B with frame := w, bad := 0, good := lk.1, measLink := lk.2, diffSince := diff
                                supply := if BankF.midx w = 12 then BankF.mval w else B.supply
                                temp := if BankF.midx w = 13 then BankF.mval w else B.temp }
  let s1 := s.modLane l fun L => { L with bank := L.bank.set b B1 }
  let s2 := s1.measLinkFault l (12 + b.val) B.measLink lk.2
  let s3 := s2.each allLanes fun s x => if diffOver diff[x] s.now then s.fault FaultCode.driveLink [12 + b.val, x.val] (only l) else s
  s3.each (bankPoints b) fun s p => if lk.2 then s.notePoint l p else s.bankPoint l p w
/-- A bank sample frame arrives in a lane (R457): with a bad CRC or a reserved MIDX it is discarded whole (R9) and counts towards
MEAS_LINK. -/
def State.bankSample (s : State) (l : LaneId) (b : BankId) (w : BankBits) : State :=
  if BankF.good w then s.bankFrame l b w
  else
    let B := s.lanes[l].bank[b]
    let lk := linkBad B.bad B.measLink
    let s1 := s.modLane l fun L => { L with bank := L.bank.set b { B with bad := lk.1, good := 0, measLink := lk.2 } }
    (s1.measLinkFault l (12 + b.val) B.measLink lk.2).each (bankPoints b) fun s p => s.notePoint l p

/-- BANK_SAMPLE_FRAME (R456). -/
def execBankSampleFrame (l : LaneId) (b : BankId) (rx : RxBank) (s : State) : Host.Outcome State Fault Refusal :=
  let s1 := s.modBank b fun x => x.sentTo l
  .next (if s.active l then s1.bankSample l b (s.banks[b].received l s.now rx) else s1)

/-! ## Overload, supply -/

/-- Outputs of a bank are switched off and latched, as thermal ones or not (R455). -/
def BankState.trip (b : BankState) (k : PosMask) (thermal : Bool) : BankState :=
  { b with ol := b.ol ||| k, thermal := if thermal then b.thermal ||| k else b.thermal, conducting := b.conducting &&& ~~~k }
/-- The hardware supply-loss latch of a bank is set and every output is off (R467). -/
def BankState.loseSupply (b : BankState) : BankState := { b with hwLoss := true, conducting := 0, lossCnt := b.lossCnt + 1 }
/-- A bank switches an output off and sets its overload latch (R455). -/
def State.overload (s : State) (p : Point) (thermal : Bool) : State :=
  s.modBank p.bank fun b => b.trip (only p.pos) thermal

/-- OUTPUT_OVERLOAD (R455): 5 ms in current limit. -/
def execOutputOverload (p : Point) (s : State) : Host.Outcome State Fault Refusal := .next (s.overload p false)

/-- OUTPUT_THERMAL_SHUTDOWN (R455): a junction at 160 °C. -/
def execOutputThermalShutdown (p : Point) (s : State) : Host.Outcome State Fault Refusal := .next (s.overload p true)

/-- An overlay withdraws a point's "on" in every lane in the vote, or restores it. -/
def State.ptOverlay (s : State) (ps : List Point) (off : Bool) : State :=
  let m : PointMask := maskOf fun p => ps.contains p
  s.modLanes fun _ L => if L.st == .active then
    { L with drive := { L.drive with ov := { L.drive.ov with ptOff := if off then L.drive.ov.ptOff ||| m else L.drive.ov.ptOff &&& ~~~m } } } else L

/-- A field off-test in progress on a bank, or its pulse on a partner there, is abandoned (R460). -/
def State.abandonFieldTest (s : State) (b : BankId) : State :=
  match s.tests.field with
  | some t => if t.p.bank = b ∨ t.partner.any (fun q => q.bank == b) then
      let s1 := s.ptOverlay (t.p :: t.partner.toList) false
      { s1 with tests := { s1.tests with field := none, point := s1.tests.point.set t.p { s1.tests.point[t.p] with nextOff := none } } }
      else s
  | none => s
/-- A bank's supply lets its outputs be tested (R458, R467). -/
def State.bankTestable (s : State) (b : BankId) : Bool :=
  !s.banks[b].warn && !s.banks[b].missing && s.activeLanes.all fun l => !has s.lanes[l].latches.supplyLoss b
/-- The off-tests abandoned for a supply, that of the tested point or of the partner pulsed with it, are rescheduled 100 ms after the
warning clears (R460). -/
def State.resumeFieldTests (s : State) : State :=
  s.each allPoints fun s p =>
    if s.bankTestable p.bank && s.params.isOut p && s.params.otEn p && s.tests.point[p].nextOff.isNone && s.activeLanes.any fun l => s.lanes[l].pts[p].onReadBack.isSome then
      s.modPtSched p fun x => { x with nextOff := some (s.now + 100 * Config.ms) } else s

/-- The feedback inputs of a bank whose debounced state has changed since another state are judged, in every lane in the vote (R413). -/
def State.feedbacksFrom (s was : State) (b : BankId) : State :=
  s.each s.activeLanes fun s l => s.each (bankPoints b) fun s p =>
    if s.params.isIn p && s.inputState l p != was.inputState l p then s.feedbackEdge l p else s
/-- BANK_SUPPLY_CONDITION (R467): warning, loss or missing is entered or left. A missing supply makes the debounced inputs 0, which is
an edge of a contactor's feedback (R413). -/
def execBankSupplyCondition (b : BankId) (k : SupplyEdge) (s : State) : Host.Outcome State Fault Refusal :=
  .next (match k with
    | .warnOn => if s.banks[b].warn then s else ((s.modBank b fun x => { x with warn := true }).abandonFieldTest b).note EventCode.supplyWarn [b.val]
    | .warnOff => if s.banks[b].warn then (s.modBank b fun x => { x with warn := false }).resumeFieldTests else s
    | .lossOn =>
      if s.banks[b].hwLoss && s.activeLanes.all fun l => has s.lanes[l].due.supplyLoss b then s else
      let s1 := s.modBank b fun x => x.loseSupply
      let s2 := s1.modLanes fun _ L => if L.st == .active then
        { L with latches := { L.latches with supplyLoss := L.latches.supplyLoss ||| only b }, clr := { L.clr with supplyLoss := L.clr.supplyLoss &&& ~~~(only b) } } else L
      (s2.abandonFieldTest b).fault FaultCode.supplyLoss [b.val] s.voteMask
    | .missOn => if s.banks[b].missing then s else
        ((s.modBank b fun x => { x with missing := true }).abandonFieldTest b |>.feedbacksFrom s b).fault FaultCode.supplyMissing [b.val] s.voteMask
    | .missOff => ((s.modBank b fun x => { x with missing := false }).feedbacksFrom s b).withdrawFault FaultCode.supplyMissing [b.val])

/-! ## Output tests (R458 to R461) -/

/-- A field output test can start: none runs, no Coppice window is open, and the bank's supply allows it (R458). -/
def State.fieldTestFree (s : State) (p : Point) : Bool :=
  s.tests.field.isNone && s.tests.fieldMaj.isNone && s.coppice.step == 0 && s.bankTestable p.bank
/-- The other outputs derived on in the supplying lane, in ascending order. -/
def State.otherOn (s : State) (p : Point) : List Point :=
  match s.supplier with
  | some l => allPoints.filter fun q => q != p && s.params.isOut q && has s.lanes[l].drive.img.pts q
  | none => []
/-- FIELD_OFF_TEST_START (R458): the scheduled off-test of an output that is derived on starts on the 10 µs grid. -/
def execFieldOffTestStart (p : Point) (s : State) : Host.Outcome State Fault Refusal :=
  let t := s.tests.point[p]
  .next (if s.fieldTestFree p && s.params.isOut p && s.params.otEn p && s.reaches 2000 && (t.nextOff.any fun d => decide (d ≤ s.now)) &&
      (s.activeLanes.all fun l => has s.lanes[l].drive.img.pts p) && s.mode.mode.runs then
    let s1 : State := { s with tests := { s.tests with
      field := some { p := p, t0 := s.now, partners := s.otherOn p }
      point := s.tests.point.set p { t with nextOff := some (nextAfter (t.nextOff.getD s.now) (s.params.ptPeriod p * Config.sec) s.now) } } }
    s1.ptOverlay [p] true
  else s)

/-- EXTERNAL_FEED found by an off-test, held in every lane in the vote. -/
def State.feedFound (s : State) (p : Point) : State :=
  (s.modLanes fun _ L => if L.st == .active then { L with pts := L.pts.set p { L.pts[p] with extFeed := true } } else L).fault FaultCode.externalFeed [p.val] s.voteMask
/-- The next pair waits for its pulse in the following cycle; with none left the tested point has EXTERNAL_FEED (R459). -/
def State.nextPair (s : State) (p : Point) (qs : List Point) : State :=
  match qs with
  | q :: rest => { s with tests := { s.tests with field := some { p := p, t0 := s.now, partners := rest, partner := some q, waits := true } } }
  | [] => s.feedFound p
/-- A passed test withdraws CROSS_CONNECT for the point; a partner keeps it while another pair names it (R459). -/
def State.pairsApart (s : State) (p : Point) : State :=
  let names (f : FaultRec) (q : Point) : Bool := f.code == FaultCode.crossConnect && (octet f.scope 0 == BitVec.ofNat 8 q.val || octet f.scope 1 == BitVec.ofNat 8 q.val)
  let s1 := s.each (s.faults.filter fun f => names f p) fun s f => s.withdrawFault FaultCode.crossConnect [(octet f.scope 0).toNat, (octet f.scope 1).toNat]
  s1.modLanes fun _ L => { L with pts := Vector.ofFn fun q => { L.pts[q] with crossConnect := L.pts[q].crossConnect && s1.faults.any fun f => names f q } }
/-- The lanes in which a judged sample shows gate sense (R459). -/
def FieldTestRun.gateLanes (t : FieldTestRun) : LaneMask := maskOf fun l => t.samples.any fun x => x.lane == l && x.gs
/-- The judgement of an off-test or pulse that had judged samples (R459): gate sense decides GATE_STUCK in the lanes that saw it. -/
def State.fieldJudge (s : State) (t : FieldTestRun) : State :=
  let s0 : State := s.ptOverlay (t.p :: t.partner.toList) false
  let s1 : State := { s0 with tests := { s0.tests with field := none } }
  let anyRb := t.samples.any (·.rb)
  if t.samples.isEmpty then s1
  else if t.gateLanes ≠ 0 then (s1.outputFault t.gateLanes t.p .gateStuck).pointProved t.p
  else match t.partner with
  | none => if anyRb then (s1.pointProved t.p).nextPair t.p t.partners else (s1.pointProved t.p).pairsApart t.p
  | some q =>
    if !anyRb then
      (s1.modLanes fun _ L => if L.st == .active then
        { L with pts := (L.pts.set t.p { L.pts[t.p] with crossConnect := true }).set q { L.pts[q] with crossConnect := true } } else L).fault
          FaultCode.crossConnect [t.p.val, q.val] s.voteMask
    else s1.nextPair t.p t.partners
/-- Every lane in the vote has three judged samples of the test, or one that fails it (R460). -/
def State.fieldDecided (s : State) (t : FieldTestRun) : Bool :=
  (t.samples.any fun x => x.rb || x.gs) || (!s.activeLanes.isEmpty && s.activeLanes.all fun l => decide (3 ≤ t.samples.countP (·.lane == l)))
/-- A waiting pulse starts with the new cycle on the first partner that is still derived on and whose bank's supply allows it (R458);
with none left, or the tested point off, no pair names a partner (R459). -/
def State.pulsePair (s : State) (t : FieldTestRun) (on : PointMask) : State :=
  match if has on t.p then (t.partner.toList ++ t.partners).dropWhile fun (q : Point) => !has on q || !s.bankTestable q.bank else [] with
  | q :: rest =>
    ({ s with tests := { s.tests with field := some { p := t.p, t0 := s.now, partners := rest, partner := some q } } } : State).ptOverlay [t.p, q] true
  | [] => ({ s with tests := { s.tests with field := none } } : State).feedFound t.p

/-- FIELD_OFF_TEST_END (R459): 200 µs after its start the off-test in progress is judged. A located pair keeps
pulsing, one pulse at a time. -/
def execFieldOffTestEnd (p : Point) (s : State) : Host.Outcome State Fault Refusal :=
  .next (match s.tests.field with
    | some t => if t.p = p ∧ !t.waits ∧ t.t0 + 40000 ≤ s.now then
        (let s1 := s.fieldJudge t
         s1.each s1.activeLanes fun s l => s.notePoint l p) else s
    | none => s)

/-- The next lane of a point's rotation that is in the vote (R67, R461). -/
def State.fieldLaneNow (s : State) (p : Point) : Option LaneId :=
  let a := s.tests.point[p].lane
  ([a, a + 1, a + 2] : List LaneId).find? s.active
/-- A majority test of an output is due on the 10 µs grid: derived off in every lane in the vote, its instant come, no
DRIVE_LINK standing for its bank (R420, R457). On a point of another direction OT_EN means nothing (R448,
notes/assumptions/146.md). -/
def State.fieldMajDue (s : State) (p : Point) : Bool :=
  s.fieldTestFree p && s.params.isOut p && s.params.otEn p && s.reaches 2000 && (allLanes.all fun x => !s.stands FaultCode.driveLink [12 + p.bank.val, x.val]) &&
  (s.tests.point[p].nextMaj.all fun d => decide (d ≤ s.now)) &&
  (s.activeLanes.all fun l => !has s.lanes[l].drive.img.pts p) && s.mode.mode.runs
/-- The test lane alone adds "on" for eight frames, four of the point's half. -/
def State.fieldMajStart (s : State) (p : Point) (tl : LaneId) : State :=
  let s1 : State := { s with tests := { s.tests with fieldMaj := some { p := p, lane := tl, t0 := s.now } } }
  let s2 := s1.modPtSched p fun t => { t with lane := tl + 1, nextMaj := some (nextAfter (t.nextMaj.getD s.now) (s.params.ptPeriod p * Config.sec) s.now) }
  s2.modLane tl fun L =>
    { L with drive := { L.drive with ov := { L.drive.ov with ptAdd := L.drive.ov.ptAdd ||| only p, frames := (96 + p.val, 8) :: L.drive.ov.frames } } }
/-- FIELD_MAJORITY_TEST (R461): the test of an output that is off starts when it is due; while it runs, the first bad reading of a
sample frame fails it, and 40 µs after the overlay, of at most 67.4 µs, it has passed. -/
def execFieldMajorityTest (p : Point) (s : State) : Host.Outcome State Fault Refusal :=
  .next (match s.tests.fieldMaj with
    | some t => if t.p = p ∧ t.t0 + 21480 ≤ s.now then s.fieldMajEnds t false else s
    | none =>
      match s.fieldLaneNow p with
      | some tl => if s.fieldMajDue p then s.fieldMajStart p tl else s
      | none => s)

/-- A point of a pair after a sample of both (R471). -/
def LanePoint.sampled (a : LanePoint) (n : Nat) (d : Bool) (now : Nat) : LanePoint := { a with discCount := n, discrepancy := d, discAt := some now }
/-- DISCREPANCY_SAMPLE (R471): at a whole millisecond of lane time a pair is sampled, once. -/
def execDiscrepancySample (l : LaneId) (p : Point) (s : State) : Host.Outcome State Fault Refusal :=
  let q := s.params
  .next (match pointAt (q.pair p) with
    | some r =>
      if q.isIn p && q.isIn r && s.active l && s.reaches 200000 && s.lanes[l].pts[p].discAt != some s.now then
        let differ := s.inputState l p != s.inputState l r
        let n := if differ then s.lanes[l].pts[p].discCount + 1 else 0
        let was := s.lanes[l].pts[p].discrepancy
        let d := if differ then was || decide (q.discTime p ≤ n) else false
        let s1 := s.modLane l fun L => { L with pts := (L.pts.set p (L.pts[p].sampled n d s.now)).set r (L.pts[r].sampled n d s.now) }
        let a := min p.val r.val
        let b := max p.val r.val
        let s2 := if d && !was then s1.fault FaultCode.discrepancy [a, b] (only l)
                  else if was && !d then s1.withdrawFault FaultCode.discrepancy [a, b] (only l) else s1
        (s2.notePoint l p).notePoint l r
      else s
    | none => s)

/-- CONTACTOR_JUDGE (R413): FB_TIME after an edge of its output the contactor's feedback is judged. -/
def execContactorJudge (g : GroupId) (k : Contactor) (s : State) : Host.Outcome State Fault Refusal :=
  let a := k == .a
  .next (match s.groups[g].edgeOf a with
    | some (t, _) => if t + s.params.fbTime g * Config.ms ≤ s.now then
        (s.modGroup g fun G => if a then { G with edgeA := none } else { G with edgeB := none }).judgeContactor s.voteMask g a
      else s
    | none => s)

end Sys2Proof.Machine
end

