-- ==== Sys2Proof/Machine/Samples.lean ====
section
/-!
DEFINITION. The measurement chain up to the samples: the front-end's stream and side frame (R55, R75, R76), overloaded clocks
(R78), the decimators of a lane (R79), the instants of samples (R80), correction (R81, R82), the sources of a channel's samples
(R83, R121) and what is drawn from a lane's outputs: windows (R87), compares (R123) and calibrations (R122).
-/

namespace Sys2Proof.Machine

/-! ## Correction (R81, R82) -/

/-- A value clamped to ±m, and whether it was. -/
def clamp (v : Int) (m : Nat) : Int × Bool :=
  if (m : Int) < v then ((m : Int), true) else if v < -(m : Int) then (-(m : Int), true) else (v, false)
/-- A fine sample corrected: y = round((x − OFFSET) × GAIN / 2^22), clamped to ±(2^23 − 1). -/
def correctFine (k : Coef) (x : Int) : Int × Bool := clamp (roundDiv ((x - k.offset) * k.gain) (2 ^ 22)) (2 ^ 23 - 1)
/-- A fast sample corrected: the 19-bit output times 32, the same formula, divided by 256 with the same rounding. -/
def correctFast (k : Coef) (x : Int) : Int × Bool :=
  clamp (roundDiv (roundDiv ((32 * x - k.offset) * k.gain) (2 ^ 22)) 256) (2 ^ 15 - 1)
/-- The filter output reaches the clamp of its width (R78). -/
def atClamp (x : Int) (bits : Nat) : Bool := decide ((2 ^ (bits - 1) - 1 : Nat) ≤ x.natAbs)
/-- A pair lies within the limits of R82. -/
def calInRange (k : Coef) : Bool := decide (k.offset.natAbs ≤ 524288) && decide (0x499999 ≤ k.gain) && decide (k.gain ≤ 0x566666)

/-! ## The front-end's stream (R75, R76) -/

/-- The on-vote read-backs of the three lane inputs, and which of them had a valid frame within 24 µs (R55). -/
def FrontEnd.readBacks (f : FrontEnd) (now : Nat) : BitVec 24 :=
  ((f.inp[0].readBack now).setWidth 8).setWidth 24 ||| (((f.inp[1].readBack now).setWidth 8).setWidth 24 <<< 8) ||| (((f.inp[2].readBack now).setWidth 8).setWidth 24 <<< 16)
def FrontEnd.freshBits (f : FrontEnd) (now : Nat) : BitVec 3 := maskOf fun l => f.inp[l].lastAt.any fun t => decide (now ≤ t + 4800)
/-- The side frame that a front-end sends, with the voltage-watch comparators as its inputs set them (R76). -/
def FrontEnd.sideFrame (f : FrontEnd) (now : Nat) (vw : BitVec 8) : SideBits :=
  let a := f.aux
  let at_ {n : Nat} (v : BitVec n) (i : Nat) : SideBits := v.setWidth 192 <<< i
  Side.withCrc (at_ f.conducting 0 ||| at_ f.sc 8 ||| at_ f.ot 16 ||| at_ (f.readBacks now) 24 ||| at_ (f.freshBits now) 48 ||| at_ (BitVec.ofBool f.gds) 51 |||
    at_ (BitVec.ofBool f.refs) 52 ||| at_ (BitVec.ofNat 5 a.lastEntry) 53 ||| at_ a.lastInput 58 ||| at_ (BitVec.ofBool a.lastNs) 62 |||
    at_ (BitVec.ofInt 18 a.lastRaw) 63 ||| at_ a.lastSeq 81 ||| at_ vw 97 ||| at_ f.ovl 105 ||| at_ (BitVec.ofBool a.injAct) 125 |||
    at_ (BitVec.ofBool a.injPend) 126 ||| at_ (BitVec.ofBool a.calPend) 127)
/-- The partner modulators that no fast channel uses (R75, R83). -/
def ParamImage.idlePartners (p : ParamImage) (g : GroupId) : ModBits :=
  (if p.fastA g = 0xFF then only (18 : Modulator) else 0) ||| (if p.fastB g = 0xFF then only (19 : Modulator) else 0)
/-- The modulators of a group that are held at zero input: those partners, but for one that is connected to a calibration input. -/
def State.idleMods (s : State) (g : GroupId) : ModBits :=
  s.params.idlePartners g &&& maskOf fun m => s.fe[g].input[m] == .own
/-- The words that carry a side frame: modulator bits, an unused partner's alternating, one bit of the frame, and the marker in
the first word. -/
def streamWords (idle : ModBits) (w : SideBits) (mods : List ModBits) : List StreamWord :=
  (mods.take 192).zipIdx.map fun e =>
    let m := (e.1 &&& ~~~idle) ||| (if e.2 % 2 = 0 then 0 else idle)
    m.setWidth 22 ||| (if w.getLsbD e.2 then 0x100000#22 else 0) ||| (if e.2 = 0 then 0x200000#22 else 0)
/-- The words that reach a lane. -/
def State.rxWords (s : State) (g : GroupId) : RxStream → List StreamWord
  | .asSent mods vw => streamWords (s.idleMods g) (s.fe[g].sideFrame s.now vw) mods
  | .words ws => ws
/-- The side frame in a run of words: 192 of them, with the marker in the first alone; none otherwise (R77). -/
def sideOf (ws : List StreamWord) : Option SideBits :=
  if ws.length = 192 ∧ ws.zipIdx.all (fun e => e.1.getLsbD 21 == (e.2 == 0)) then
    some (maskOf fun (i : Fin 192) => (ws.getD i.val 0).getLsbD 20) else none
/-- The modulator bits of a word. -/
def wordMods (w : StreamWord) : ModBits := w.setWidth 20

/-! ## Overloaded clocks (R78) -/

/-- A modulator holds an overloaded clock between two instants. -/
def FrontEnd.overloaded (f : FrontEnd) (m : Modulator) (a b : Nat) : Bool :=
  (has f.ovl m && decide (f.ovlFrom[m] ≤ b)) || f.ovlPast.any fun x => x.m == m && decide (x.start ≤ b) && decide (a ≤ x.stop)
/-- The modulator's bit has held for 64 clocks: OVL is set, and the stretch began with the first of them. -/
def FrontEnd.overload (f : FrontEnd) (m : Modulator) (now : Nat) : FrontEnd :=
  { f with ovl := f.ovl ||| only m, ovlAt := f.ovlAt.set m now, ovlFrom := if has f.ovl m then f.ovlFrom else f.ovlFrom.set m (now - 640) }
/-- OVL clears, and the stretch of overloaded clocks ends. -/
def FrontEnd.overloadEnds (f : FrontEnd) (m : Modulator) (now : Nat) : FrontEnd :=
  { f with ovl := f.ovl &&& ~~~(only m)
           ovlPast := { m := m, start := f.ovlFrom[m], stop := now } :: f.ovlPast.filter fun x => decide (now ≤ x.stop + keepFor) }

/-! ## The decimators (R79) -/

/-- The number of pairs among n things. -/
def pairsOf (n : Nat) : Nat := n * (n - 1) / 2
/-- Weight k, from the newest bit on, of a sinc3 filter of decimation d: three running sums of d, one after the other. -/
def sincWeight (d k : Nat) : Nat := pairsOf (k + 2) + 3 * pairsOf (k + 2 - 2 * d) - 3 * pairsOf (k + 2 - d)
/-- The bits a sinc3 filter spans. -/
def sincSpan (d : Nat) : Nat := 3 * d - 2
/-- The sum of a sinc3 filter over a modulator's bits, newest first: a 1 counts as +1, a 0 as −1 (notes/assumptions/117.md). -/
def sincSum (d : Nat) (bits : List Bool) : Int :=
  ((bits.take (sincSpan d)).zipIdx.map fun e => if e.1 then (sincWeight d e.2 : Int) else -(sincWeight d e.2 : Int)).sum
/-- The fast filter's 19-bit output, and the fine filter's 24-bit output, in LSBs of full scale / 2^18 and / 2^23. -/
def fastOut (bits : List Bool) : Int := (clamp (sincSum 64 bits) (2 ^ 18 - 1)).1
def fineOut (bits : List Bool) : Int := (clamp (roundDiv (sincSum 256 bits) 2) (2 ^ 23 - 1)).1
/-- The bits of one modulator in a stream. -/
def bitsOf (st : List ModBits) (m : Modulator) : List Bool := st.map fun w => has w m
/-- A mask of modulators in use: the pair is loaded and within its limits (R82, R117). -/
def loaded (k : Vector Coef 20) : ModBits := maskOf fun m => k[m].gain != 0 && calInRange k[m]
/-- The fast row at a word. -/
def fastRow (st : List ModBits) (n t : Nat) (k : Vector Coef 20) (avail : Bool) : FastRow :=
  let x : Vector Int 20 := Vector.ofFn fun m => fastOut (bitsOf st m)
  { n := n, t := t, y := Vector.ofFn fun m => (correctFast k[m] x[m]).1, ok := if avail then loaded k else 0
    ov := maskOf fun m => (correctFast k[m] x[m]).2 || atClamp x[m] 19 || (correctFast k[m] x[m]).1.natAbs == 2 ^ 15 - 1 }
/-- The fine row at a word. -/
def fineRow (st : List ModBits) (t : Nat) (k : Vector Coef 20) (avail ns : Bool) : FineRow :=
  let x : Vector Int 20 := Vector.ofFn fun m => fineOut (bitsOf st m)
  { t := t, x := x, y := Vector.ofFn fun m => (correctFine k[m] x[m]).1, ok := if avail then loaded k else 0
    ov := maskOf fun m => (correctFine k[m] x[m]).2 || atClamp x[m] 24 || (correctFine k[m] x[m]).1.natAbs == 2 ^ 23 - 1
    ns := ns }

/-! ## Sample times (R80) -/

/-- The rate of a front-end's FIELD clock as a lane holds it, ticks over words: the mean over the last 16 cycles, nominal before
there is one. -/
def LaneGroup.rate (B : LaneGroup) : Nat × Nat :=
  let w := (B.cycles.map (·.1)).sum
  if w = 0 then (10, 1) else ((B.cycles.map (·.2)).sum, w)
/-- The instant that lies h half words before the arrival of word n. -/
def LaneGroup.instant (B : LaneGroup) (total now n h : Nat) : Nat :=
  now - ((2 * (total - n) + h) * B.rate.1 + B.rate.2) / (2 * B.rate.2)
/-- A lane counts the words up to an action point, and keeps those of the last 16 cycles. -/
def LaneGroup.atAction (B : LaneGroup) (now was : Nat) : LaneGroup :=
  let n := B.words + (now - B.frameAt) * B.rate.2 / B.rate.1
  if B.since.isNone then { B with apWords := 0, cycles := [] }
  else { B with apWords := n, cycles := if B.apWords = 0 then [] else ((n - B.apWords, now - was) :: B.cycles).take 16 }

/-! ## A lane takes the words -/

/-- The streams of a group stop in a lane (R91, R92): the filters start anew when they resume, on the grid of words that every lane
has (R79). -/
def LaneGroup.stopStream (B : LaneGroup) (now : Nat) : LaneGroup :=
  { B with stream := [], apWords := 0, cycles := [], since := none, ran := match B.since with
      | some t => some (t, now)
      | none => B.ran }
/-- One word enters: a fast row every 32 words, of which the live modulators use every other one and a partner those between
(R83), and a fine row every 256; input instants are the centroids of the filters' weightings. -/
def LaneGroup.push (B : LaneGroup) (total now : Nat) (k : Vector Coef 20) (avail ns : Bool) (b : ModBits) : LaneGroup :=
  let st := (b :: B.stream).take (sincSpan 256)
  let n := B.words + 1
  let tf := B.instant total now n (sincSpan 64 - 1)
  let B1 := { B with stream := st, words := n }
  let B2 := if n % 32 = 0 ∧ sincSpan 64 ≤ st.length then
      { B1 with fast := fastRow st n tf k avail :: B1.fast, since := some (B1.since.getD tf) } else B1
  if n % 256 = 0 ∧ sincSpan 256 ≤ st.length then
    { B2 with fine := fineRow st (B.instant total now n (sincSpan 256 - 1)) k avail ns :: B2.fine } else B2
/-- A run of words enters; outputs older than the lane keeps go. -/
def LaneGroup.intake (B : LaneGroup) (now : Nat) (k : Vector Coef 20) (avail ns : Bool) (ws : List ModBits) : LaneGroup :=
  let total := B.words + ws.length
  let B1 := ws.foldl (fun (B : LaneGroup) b => B.push total now k avail ns b) B
  { B1 with frameAt := now
            fast := B1.fast.filter fun r => decide (now ≤ r.t + keepFor)
            fine := B1.fine.filter fun r => decide (now ≤ r.t + keepFor) }
/-- A lane computes samples of a group (R91, R92, R478): in the vote, the modulators running, the group at P0 or, in its probed
periods, at P1. -/
def State.decimates (s : State) (l : LaneId) (g : GroupId) : Bool :=
  s.active l && s.fe[g].modsRun && s.mode.mode.runs &&
  (s.groups[g].level == 0 || (s.groups[g].level == 1 && (s.laneTime / 25575000) % 4 == 0))

/-! ## Sources (R83, R121) -/

/-- The live modulators behind a position. -/
def voltMod (k : Fin 8) : Modulator := ⟨k.val, by omega⟩
def currMod (k : Fin 8) : Modulator := ⟨8 + k.val, by omega⟩
/-- The partner of a position, if FAST_A or FAST_B names it (R83). -/
def ParamImage.partnerOf (p : ParamImage) (g : GroupId) (k : Fin 8) : Option Modulator :=
  if p.fastA g = k.val then some 18 else if p.fastB g = k.val then some 19 else none
/-- The spare serves a live modulator's position at an instant, by the last handoff that acts there; before every handoff that is
held, the modulator that was the source until the oldest of them. -/
def Understorey.spareAt (u : Understorey) (m : Fin 16) (from_ : SourceSwitch → Nat) (t : Nat) : Bool :=
  match u.switched[m].find? fun x => decide (from_ x ≤ t), u.switched[m].getLast? with
  | some x, _ => x.spare
  | none, some y => !y.spare
  | none, none => u.onSpare.getLsbD m.val
/-- The modulators that give a position's voltage and current in a fast sample at an instant, and in a fine one. -/
def Understorey.voltFast (u : Understorey) (k : Fin 8) (t : Nat) : Modulator :=
  let m : Fin 16 := ⟨k.val, by omega⟩
  if u.spareAt m (·.fast) t then 16 else voltMod k
def Understorey.currFast (u : Understorey) (k : Fin 8) (t : Nat) : Modulator :=
  let m : Fin 16 := ⟨8 + k.val, by omega⟩
  if u.spareAt m (·.fast) t then 17 else currMod k
def Understorey.voltFine (u : Understorey) (k : Fin 8) (t : Nat) : Modulator :=
  let m : Fin 16 := ⟨k.val, by omega⟩
  if u.spareAt m (·.fine) t then 16 else voltMod k
def Understorey.currFine (u : Understorey) (k : Fin 8) (t : Nat) : Modulator :=
  let m : Fin 16 := ⟨8 + k.val, by omega⟩
  if u.spareAt m (·.fine) t then 17 else currMod k
/-- A partner interleaves its channel: named, not convicted, not out for calibration (R83, R127, R131). -/
def State.interleaved (s : State) (g : GroupId) (k : Fin 8) : Option Modulator :=
  (s.params.partnerOf g k).filter fun m => !has s.groups[g].under.convicted m && (s.groups[g].under.runs[m]).isNone

/-! ## Fast samples -/

/-- A corrected sample value with its OVR mark: the full scale of its sign where it carries OVR (R78), n bits wide: 2^(n−1) LSBs,
the 250 V of R73 and R143 and the 40 A of R73 (notes/assumptions/135.md). -/
def fullScale (v : Int) (ovr : Bool) (n : Nat) : Int := if ovr then (if v < 0 then -(2 ^ (n - 1) : Nat) else (2 ^ (n - 1) : Nat)) else v
/-- The OVR mark of a modulator in a fast row, whose filter spans 94.5 words either side of the input instant, and in a fine
one (382.5 words). -/
def FrontEnd.fastOvr (f : FrontEnd) (r : FastRow) (m : Modulator) : Bool := has r.ov m || f.overloaded m (r.t - 945) (r.t + 945)
def FrontEnd.fineOvr (f : FrontEnd) (r : FineRow) (m : Modulator) : Bool := has r.ov m || f.overloaded m (r.t - 3825) (r.t + 3825)
/-- The value of a modulator in a row, none where it is unavailable. -/
def FrontEnd.fastVal (f : FrontEnd) (r : FastRow) (m : Modulator) : Option (Int × Bool) :=
  if has r.ok m then some (fullScale r.y[m] (f.fastOvr r m) 16, f.fastOvr r m) else none
def FrontEnd.fineVal (f : FrontEnd) (r : FineRow) (m : Modulator) : Option (Int × Bool) :=
  if has r.ok m then some (fullScale r.y[m] (f.fineOvr r m) 24, f.fineOvr r m) else none
/-- A fast sample of a channel: its input instant, that of its voltage, voltage and current in fast LSBs with their OVR marks,
whether the current comes from the interleave partner, and which of the two is available (R77, R82). -/
structure Judged where
  t : Nat
  tv : Nat
  v : Int
  i : Int
  ovV : Bool
  ovI : Bool
  partner : Bool
  okV : Bool := true
  okI : Bool := true
  deriving DecidableEq, Repr
/-- A voltage and a current as a sample. -/
def Judged.of (t tv : Nat) (v i : Option (Int × Bool)) (partner : Bool) : Judged :=
  { t := t, tv := tv, v := (v.getD (0, false)).1, i := (i.getD (0, false)).1, ovV := (v.getD (0, false)).2, ovI := (i.getD (0, false)).2
    partner := partner, okV := v.isSome, okI := i.isSome }
/-- Voltage and current are both available. -/
def Judged.both (x : Judged) : Bool := x.okV && x.okI
/-- The sample that a row gives a position: from the live modulators or their stand-ins at every 64th word, from the partner
between, with the live voltage half a sample period before (R83). -/
def State.sampleOf (s : State) (l : LaneId) (g : GroupId) (k : Fin 8) (r : FastRow) : Option Judged :=
  let f := s.fe[g]
  let u := s.groups[g].under
  let rows : List FastRow := s.lanes[l].grp[g].fast
  if r.n % 64 = 0 then some (Judged.of r.t r.t (f.fastVal r (u.voltFast k r.t)) (f.fastVal r (u.currFast k r.t)) false)
  else
    match s.interleaved g k, rows.find? (fun q => q.n + 32 == r.n) with
    | some m, some q => some (Judged.of r.t q.t (f.fastVal q (u.voltFast k q.t)) (f.fastVal r m) true)
    | some m, none => some (Judged.of r.t r.t none (f.fastVal r m) true)
    | _, _ => none
/-- The next row of a position that its lane has not judged: the partner's rows count only while it interleaves. -/
def State.nextRow (s : State) (l : LaneId) (g : GroupId) (k : Fin 8) : Option FastRow :=
  let B := s.lanes[l].grp[g]
  (B.fast.filter fun r => decide (B.judged[k] < r.n) && (r.n % 64 == 0 || (s.interleaved g k).isSome)).getLast?

/-! ## Fine samples -/

/-- The ticks of a fine sample's 12.8 µs interval, centred on its input instant, that lie between two instants (R87,
notes/assumptions/118.md). -/
def overlap (t a b : Nat) : Nat := min (t + 1280) b - max (t - 1280) a
/-- The fine rows of a group whose intervals meet a stretch, oldest first. -/
def LaneGroup.fineIn (B : LaneGroup) (a b : Nat) : List FineRow := (B.fine.filter fun r => decide (0 < overlap r.t a b)).reverse
/-- The fine rows with input instants from one instant up to, not including, another. -/
def LaneGroup.fineFrom (B : LaneGroup) (a b : Nat) : List FineRow := B.fine.filter fun r => decide (a ≤ r.t) && decide (r.t < b)
/-- A lane has computed samples of a group since an instant without a break. -/
def LaneGroup.ranSince (B : LaneGroup) (a : Nat) : Bool := B.since.any fun t => decide (t ≤ a)
/-- A lane computed samples of a group from one instant to another without a break. -/
def LaneGroup.ranOver (B : LaneGroup) (a b : Nat) : Bool := B.ranSince a || B.ran.any fun e => decide (e.1 ≤ a) && decide (b ≤ e.2)

/-! ## Calibration sums and compares (R122, R123) -/

/-- A lane's sums of a modulator's outputs, without correction: those of the last 50 ms of ZERO and of REF. -/
def State.calMeas (s : State) (l : LaneId) (g : GroupId) (m : Modulator) (zeroEnd refEnd : Nat) : CalMeas :=
  let B := s.lanes[l].grp[g]
  let z := B.fineFrom (zeroEnd - 10000000) zeroEnd
  let r := B.fineFrom (refEnd - 10000000) refEnd
  { lane := l, zeroSum := (z.map fun q => q.x[m]).sum, zeroN := z.length, refSum := (r.map fun q => q.x[m]).sum, refN := r.length }
/-- The outcome of a compare in one lane. -/
inductive CmpOutcome where
  | running | passes | fails
  deriving DecidableEq, Repr
/-- The fine pairs of two modulators that a compare includes: both available, neither with OVR; the outgoing or live one
first. -/
def State.cmpPairs (s : State) (l : LaneId) (g : GroupId) (out inc : Modulator) (a b : Nat) : List (Int × Int) :=
  (s.lanes[l].grp[g].fineFrom a b).filterMap fun r =>
    if has r.ok out && has r.ok inc && !s.fe[g].fineOvr r out && !s.fe[g].fineOvr r inc then some (r.y[out], r.y[inc]) else none
/-- The mean difference lies within 0.05 % of full scale, and where the outgoing rms reaches 1 % of full scale, the ratio of the
rms values within 1 ± 0.005. -/
def pairsPass (ps : List (Int × Int)) : Bool :=
  let n := ps.length
  let d : Int := (ps.map fun (e : Int × Int) => e.2 - e.1).sum
  let a : Nat := (ps.map fun (e : Int × Int) => e.1.natAbs ^ 2).sum
  let b : Nat := (ps.map fun (e : Int × Int) => e.2.natAbs ^ 2).sum
  decide (10000 * d.natAbs ≤ 5 * 2 ^ 23 * n) &&
  (decide (a * 10000 < 2 ^ 46 * n) || (decide (995 ^ 2 * a ≤ 1000 ^ 2 * b) && decide (1000 ^ 2 * b ≤ 1005 ^ 2 * a)))
/-- A compare's outcome on its pairs: none until 3,000 are included. -/
def judgePairs (ps : List (Int × Int)) : CmpOutcome := if ps.length < 3000 then .running else if pairsPass ps then .passes else .fails
/-- A lane's outcome of a compare that began at an instant: over all its pairs until it has passed, which takes 40 ms (R120, R127),
then over the latest 40 ms. -/
def State.cmpOutcome (s : State) (l : LaneId) (g : GroupId) (out inc : Modulator) (since : Nat) (passed : Bool) : CmpOutcome :=
  match judgePairs (s.cmpPairs l g out inc (if passed then max since (s.now - 8000000) else since) (s.now + 1)) with
  | .passes => if since + 8000000 ≤ s.now then .passes else .running
  | o => o

end Sys2Proof.Machine
end

