-- ==== Sys2Proof/Machine/Proving.lean ====
section
/-!
DEFINITION. Lamp proving on fast samples (R143 to R154, R194, R201, R482, R553), the judged samples of
off-tests and majority tests (R62, R68), inrush (R148, R493, R495) and the envelope of a revert (R404).
-/

namespace Sys2Proof.Machine

/-! ## Thresholds, in exact integers (voltage LSB 250 V / 2^15, current LSB 40 A / 2^15) -/

/-- abs(i) < G_LO × abs(v) (R144): G_NOM in 0.1 µS, LO_FRAC in ‰. An OVR current is good. A lit channel with neither voltage nor
current is bad, for a lamp whose feed is missing goes FAIL_DARK (R38, R71, notes/assumptions/128.md). -/
def badLit (p : ParamImage) (c : Chan) (x : Judged) : Bool :=
  !x.ovI && (decide (x.i.natAbs * 40 * 10 ^ 10 < p.loFrac c * p.gNom c * 250 * x.v.natAbs) || (x.i == 0 && x.v == 0))
/-- A current reaches a threshold in mA. -/
def atLeastMa (x : Judged) (ma : Nat) : Bool := x.ovI || decide (ma * 2 ^ 15 ≤ x.i.natAbs * 40000)
/-- A voltage reaches V_T = FOREIGN_V / √2 (R194). -/
def atLeastVt (p : ParamImage) (c : Chan) (x : Judged) : Bool :=
  x.ovV || decide ((p.foreignV c * 2 ^ 15) ^ 2 ≤ 2 * (x.v.natAbs * 250) ^ 2)
/-- The off-test threshold (R62): a current reaches the greater of 2 % of the learned steady current (µA) and 10 mA. -/
def overOffTest (p : ParamImage) (c : Chan) (x : Judged) : Bool :=
  x.ovI || decide (max (p.iSteady c) 500000 * 2 ^ 15 ≤ 50 * (x.i.natAbs * 40000000))
/-- A value of 2^40 × exp(−n / d), by the integer part and twenty terms of the series (notes/assumptions/6.md). -/
def expFix (n d : Nat) : Nat :=
  let base : Nat := (List.range (min (n / d) 64)).foldl (fun a _ => a * 404487723187 / 2 ^ 40) (2 ^ 40)
  let r := n % d
  let series : Int × Int := (List.range 20).foldl (fun (a : Int × Int) i =>
    let t := -(a.2 * r) / (d * (i + 1) : Nat)
    (a.1 + t, t)) ((2 ^ 40 : Int), (2 ^ 40 : Int))
  base * series.1.toNat / 2 ^ 40
/-- A current lies above the inrush envelope at a time after the action point (R148): INRUSH_PK in 10 mA, INRUSH_TAU
in 10 µs, I_STEADY in µA. -/
def overInrush (p : ParamImage) (c : Chan) (x : Judged) (dt : Nat) : Bool :=
  let ua := x.i.natAbs * 40000000
  let e := expFix dt (2000 * max (p.inrushTau c) 1)
  let env := decide (15 * p.inrushPk c * 1000 * e * 2 ^ 15 < ua * 2 ^ 40)
  let steady := if p.isAc c.group then decide (2 * (15 * p.iSteady c * 2 ^ 15) ^ 2 < (10 * ua) ^ 2) else decide (15 * p.iSteady c * 2 ^ 15 < 10 * ua)
  x.ovI || (env && steady)

/-! ## The lit rule -/

/-- An off-test overlay excludes a sample (R143). -/
def otExcludes (p : ParamImage) (c : Chan) (a : Proving) (t : Nat) : Bool :=
  a.otAt.any fun t0 => decide (t0 ≤ t) && decide (t ≤ t0 + 28000 + 200 * max 200 (p.recover c))
/-- The sample lies in an on-phase judging window of a dimmed channel (R154). -/
def dimWindow (duty t : Nat) : Bool := decide (8000 ≤ t % 200000) && decide (t % 200000 < 2000 * duty)
/-- The largest abs(v) of the last 25 ms: a list of (instant, value), the value rising with age (R143). -/
def pushPeak (h : List (Nat × Nat)) (t v : Nat) : List (Nat × Nat) :=
  (t, v) :: h.filter fun e => decide (t ≤ e.1 + 5000000) && decide (v < e.2)
/-- V_PK. -/
def peakOf (h : List (Nat × Nat)) : Nat := (h.map (·.2)).foldl max 0
/-- The first instant that is judged after the derived state became on (R143). -/
def litFrom (p : ParamImage) (c : Chan) (onAt : Option Nat) : Nat := onAt.getD 0 + max (2000 * p.dead c) 4000
/-- A window keeps its last entries. -/
def pushWin (w : List Bool) (b : Bool) (keep : Nat) : List Bool := (b :: w).take keep
/-- WARMUP in ticks after the action point (R146). -/
def warmEnd (p : ParamImage) (c : Chan) (a : Proving) : Nat := a.onAt.getD 0 + p.warmup c * Config.ms
/-- A judged sample of the lit rule (R145, R146): FAIL_DARK at FILT_DARK bad ones of the window, LIT_OK at FILT_LIT
good ones in a row from the end of warm-up on. The first LIT_OK of a lit interval schedules its first off-test, 100 ms
on (R60, notes/assumptions/9.md). A FAIL_DARK that a sample from before a change of the voted command completes was cleared by
that change, from which the rules start afresh (R166, R553). -/
def State.litJudge (s : State) (l : LaneId) (c : Chan) (x : Judged) : State :=
  let p := s.lampParams
  let a := s.lanes[l].prov[c]
  let bad := badLit p c x
  let w := pushWin a.litWin bad (p.filtDark c + p.filtTol c)
  let run := if bad then 0 else if warmEnd p c a ≤ x.t then a.goodRun + 1 else 0
  let s1 := s.modProv l c fun a => { a with litWin := w, goodRun := run }
  if !a.failDark && decide (p.filtDark c ≤ w.countP (· == true)) then
    (if x.t < a.cmdAt then s1.modProv l c fun a => { a with litWin := [], goodRun := 0, warming := true, litOk := false, onAt := some a.cmdAt }
     else s1.failDark l c .litRule)
  else if !a.litOk && !a.failDark && decide (p.filtLit c ≤ run) then
    ((s1.modProv l c fun a => { a with litOk := true, warming := false }).modSched c fun t =>
      if t.firstOk then t else { t with firstOk := true, nextOff := some (s.now + 100 * Config.ms) }).noteChan l c
  else s1
/-- The peak and the charge of a switch-on, from a sample within 40 ms after an action point at which the channel became on (R493,
R495); a channel on a spare or with its own fast modulator has samples twice as often. -/
def State.switchOnWear (s : State) (l : LaneId) (c : Chan) (x : Judged) : State :=
  if x.okI && (s.lanes[l].prov[c].litAts.any fun t => decide (t ≤ x.t) && decide (x.t < t + 8000000)) then
    let p := s.lampParams
    let i := if x.ovI then 32768 else x.i.natAbs
    let half := x.partner || p.fastA c.group == c.pos.val || p.fastB c.group == c.pos.val
    s.modLamp l c fun r => { r with peakNow := some (max (r.peakNow.getD 0) i), q := r.q + (if half then 1 else 2) * i * i }
  else s
/-- Inrush of a sample in warm-up (R148; its DETAIL: notes/assumptions/24.md): whether it was warming up, and the
lighting it counts from, are those in force at its input instant (R553). -/
def State.inrush (s : State) (l : LaneId) (c : Chan) (x : Judged) : State :=
  let p := s.lampParams
  let a := s.lanes[l].prov[c]
  let late := decide (x.t < a.changeAt) || decide (x.t < a.recmdAt)
  let ap := ((if late then a.lateOn else a.onAt).getD 0)
  let hi := max a.inrushMax x.i.natAbs
  let over_ := (if late then a.lateWarm else a.warming) && decide (x.t < ap + p.warmup c * Config.ms) && overInrush p c x (x.t - ap)
  let s1 := s.modProv l c fun a => { a with inrushMax := hi, inrushRaised := a.inrushRaised || over_ }
  if over_ && !a.inrushRaised then
      (s1.modLamp l c fun r => { r with inrushHigh := r.inrushHigh + 1 }).note EventCode.inrushHigh [c.val] (toLe 4 (hi * 40000 / 2 ^ 15)) l.val
  else s1
/-- A sample while the derived state is on (R143); a voltage from before the action point does not count towards V_PK. One from before a
change of command is judged by the dimming and the lighting then in force (R553). -/
def State.litSample (s : State) (l : LaneId) (c : Chan) (x : Judged) : State :=
  let p := s.lampParams
  let a := s.lanes[l].prov[c]
  let h := if x.okV ∧ (a.litAts.headD 0) ≤ x.tv then pushPeak a.vHist x.tv x.v.natAbs else a.vHist
  let s0 := s.modProv l c fun a => { a with vHist := h }
  let s1 := if x.okI then s0.inrush l c x else s0
  let late := decide (x.t < a.recmdAt)
  let duty := if late then a.lateDuty else if has s.lanes[l].drive.img.dim c then some (p.dimDuty c s.lanes[l].inForce.cmd[c]) else none
  if !x.both || decide (10 * x.v.natAbs < peakOf h) || otExcludes p c a x.t || decide (x.t < litFrom p c (if late then a.lateOn else a.onAt)) ||
     (duty.any fun d => !dimWindow d (s.globalAt x.t)) then s1
  else s1.litJudge l c x

/-! ## The dark and fast foreign rules -/

/-- The dark rule on a sample (R149); a decision from before a change of the voted command was cleared by it (R166, R553). -/
def State.darkJudge (s : State) (l : LaneId) (c : Chan) (x : Judged) : State :=
  let p := s.lampParams
  let a := s.lanes[l].prov[c]
  let w := pushWin a.darkWin (atLeastMa x (p.darkI c)) (p.filtFlit c + p.filtTol c)
  let s1 := s.modProv l c fun a => { a with darkWin := w }
  if !a.failLit && decide (p.filtFlit c ≤ w.countP (· == true)) then
    (if x.t < a.cmdAt then (s1.failLit l c).modProv l c fun b => { b with failLit := false, darkWin := [] } else s1.failLit l c)
  else s1
/-- A remembered coupling of a victim and a source (R190). -/
def LaneState.coupling (L : LaneState) (i j : Chan) : Option Coupling :=
  (L.matrix.find? fun e => e.1 == 96 * i.val + j.val).map (·.2)
/-- A coupling value reaches max(2 Ω, CROSS_FRAC × 10 ‰ × own resistance), values in 0.1 Ω (R189). -/
def crossAt (p : ParamImage) (i : Chan) (v diag : Int) : Bool := decide (20 ≤ v) && decide ((p.crossFrac i : Int) * diag ≤ 100 * v)
/-- The suspected source (R201). -/
def State.suspect (s : State) (l : LaneId) (i : Chan) (onset : Option Nat) : Option Chan :=
  let L := s.lanes[l]
  let diag := ((L.coupling i i).map (·.val)).getD 0
  let cands := allChans.filterMap fun j => if j ≠ i && s.isOn l j then
    (match L.coupling i j with
      | some k => if crossAt s.lampParams i k.val diag then some (j, k.val) else none
      | none => none) else none
  match cands.foldl (fun b e => match b with
      | some m => if (m : Chan × Int).2 < e.2 then some e else some m
      | none => some e) none with
  | some m => some m.1
  | none =>
    match onset with
    | none => none
    | some t =>
      let aps := (allChans.flatMap fun j => L.prov[j].litAts).filter fun a => decide (a ≤ t)
      let ap := aps.foldl max 0
      if aps.isEmpty || decide (ap + 4000000 < t) then none
      else
        let lit := allChans.filter fun j => L.prov[j].litAts.contains ap
        if lit.length ≤ 4 then lit.head? else none
/-- FOREIGN, naming the suspected source (R200, R201). -/
def State.decideForeign (s : State) (l : LaneId) (c : Chan) (k : Cause) : State :=
  s.foreignAt l c k (s.suspect l c s.lanes[l].prov[c].onsetAt)
/-- A majority-test overlay excludes a sample, until 120 µs after its end: four frames are at most 33.7 µs (R67,
R194). -/
def majExcludes (a : Proving) (t : Nat) : Bool := a.majAt.any fun t0 => decide (t0 ≤ t) && decide (t ≤ t0 + 6740 + 24000)
/-- The fast foreign rule on a sample (R194). -/
def State.foreignJudge (s : State) (l : LaneId) (c : Chan) (x : Judged) : State :=
  let p := s.lampParams
  let a := s.lanes[l].prov[c]
  if !p.used c || !atLeastVt p c x || majExcludes a x.t then s
  else
    let h := x.t :: a.forHist.filter fun t => decide (x.t ≤ t + 5000000)
    let s1 := s.modProv l c fun a => { a with forHist := h, onsetAt := if a.forHist.isEmpty then some x.t else a.onsetAt }
    if !a.foreign && decide (p.filtFor c ≤ h.length) then s1.decideForeign l c .fast else s1
/-- A sample while the derived state is off; the foreign rule judges each voltage sample once (R83, R194). -/
def State.darkSample (s : State) (l : LaneId) (c : Chan) (x : Judged) : State :=
  let p := s.lampParams
  let a := s.lanes[l].prov[c]
  if p.cls c = 0 ∨ x.t < a.offAt.getD 0 + p.decayTicks c then s
  else
    let s1 := if x.okI then s.darkJudge l c x else s
    if x.partner || !x.okV then s1 else s1.foreignJudge l c x
/-- The voltage watch of a group is judged (R482): at P1 and P2, and after a rise to P0 until there are available samples. -/
def State.watched (s : State) (l : LaneId) (g : GroupId) : Bool :=
  let lv := s.groups[g].level
  lv == 1 || lv == 2 || (lv == 0 && (s.lanes[l].grp[g]).vwOn)
/-- A side frame with the channel's voltage watch set (R482). -/
def State.vwJudge (s : State) (l : LaneId) (c : Chan) : State :=
  let p := s.lampParams
  let a := s.lanes[l].prov[c]
  if !s.watched l c.group || s.isOn l c || !p.configured c || decide (s.now < a.offAt.getD 0 + p.decayTicks c) || majExcludes a s.now then s
  else
    let h := s.now :: a.vwHist.filter fun t => decide (s.now ≤ t + 5000000)
    let s1 := s.modProv l c fun a => { a with vwHist := h, onsetAt := if a.vwHist.isEmpty then some s.now else a.onsetAt }
    if !a.foreign && decide (p.filtFor c ≤ h.length) then s1.decideForeign l c .fast else s1

/-! ## Samples of tests (R62, R63, R68) -/

/-- A majority test's overlay ends at once in its test lane (R68). -/
def State.endMajority (s : State) (r : RunningTest) : State :=
  s.modLane r.lane fun L => { L with drive := { L.drive with ov := L.drive.ov.dropChan r.ch, sent := L.drive.sent.dropChan r.ch } }
/-- A running test fails, with its cause, in lanes. -/
def State.testFails (s : State) (lanes : LaneMask) (r : RunningTest) (k : Cause) : State :=
  let s1 := (s.switchFault lanes r.ch k).modGroup r.ch.group fun G => { G with test := some { r with failed := true } }
  if r.majority then s1.endMajority r else s1
/-- Lanes withdraw a channel's "on" (R61, R62). -/
def State.withdrawOn (s : State) (lanes : LaneMask) (c : Chan) : State :=
  s.modLanes fun l L => if has lanes l then { L with drive := { L.drive with ov := { L.drive.ov with off := L.drive.ov.off ||| only c } } } else L
/-- A transition judged as an off-test is complete: passed, or failed with the "on" withdrawn (R62, R63). -/
def State.transDone (s : State) (c : Chan) (lanes : LaneMask) (fail : Option Cause) : State :=
  let s1 := (s.modSched c fun t => { t with trans := none }).chanProved c
  match fail with
  | some k => (s1.switchFault lanes c k).withdrawOn lanes c
  | none => s1
/-- A sample judged for a transition: samples from t_open + 30 µs to t_open + 110 µs (R62, R63). -/
def State.transSample (s : State) (l : LaneId) (c : Chan) (x : Judged) : State :=
  match s.tests.chan[c].trans with
  | none => s
  | some r =>
    match r.tOpen with
    | none => s
    | some t0 =>
      if x.t < t0 + 6000 then s
      else if t0 + 22000 < x.t then s.transDone c s.voteMask none
      else if overOffTest s.lampParams c x then s.transDone c s.voteMask (some .offTest)
      else if s.supplier = some l then s.modSched c fun t => { t with trans := some { r with judged := r.judged + 1 } }
      else s
/-- A sample judged for the group's running test. -/
def State.runSample (s : State) (l : LaneId) (c : Chan) (x : Judged) : State :=
  match s.groups[c.group].test with
  | none => s
  | some r =>
    if r.ch ≠ c ∨ r.failed then s
    else if r.majority then
      if s.groups[c.group].level = 0 ∧ r.t0 ≤ x.t ∧ atLeastMa x 20 then s.testFails (only l) r .majorityTest else s
    else
      match r.tOpen with
      | none => s
      | some t0 =>
        if t0 + 6000 ≤ x.t ∧ x.t ≤ t0 + 22000 then
          (if overOffTest s.lampParams c x then s.testFails s.voteMask r .offTest
           else if s.supplier = some l then s.modGroup c.group fun G => { G with test := some { r with judged := r.judged + 1 } } else s)
        else s
/-- A sample judged for tests. -/
def State.testSample (s : State) (l : LaneId) (c : Chan) (x : Judged) : State := if x.okI then (s.transSample l c x).runSample l c x else s
/-- The gate sense of a group as a lane reads it (R61, R63, R68): falling, it opens an off-test; set, it fails a
majority test. -/
def State.gateSense (s : State) (l : LaneId) (g : GroupId) (gs : BitVec 8) : State :=
  let s1 := match s.groups[g].test with
    | some r =>
      let on := gs.getLsbD r.ch.pos.val
      if r.failed then s
      else if r.majority then (if on then s.testFails (only l) r .majorityTest else s)
      else if !on && r.tOpen.isNone then s.modGroup g fun G => { G with test := some { r with tOpen := some s.now } } else s
    | none => s
  s1.each (groupChans g) fun s c => s.modSched c fun t => match t.trans with
    | some r => if !gs.getLsbD c.pos.val && r.tOpen.isNone then { t with trans := some { r with tOpen := some s.now } } else t
    | none => t

/-! ## The fast sample -/

/-- The rules before an action point that lit a channel judge a sample from before it (R553): FAIL_LIT and FOREIGN that it
completes count as decided before that action point, which clears them where the voted command changed there. -/
def State.lateDark (s : State) (l : LaneId) (c : Chan) (x : Judged) : State :=
  let p := s.lampParams
  let a := s.lanes[l].prov[c]
  if p.cls c = 0 ∨ x.t < a.offAt.getD 0 + p.decayTicks c then s
  else
    let w := if x.okI then pushWin a.lateWin (atLeastMa x (p.darkI c)) (p.filtFlit c + p.filtTol c) else a.lateWin
    let s1 := s.modProv l c fun a => { a with lateWin := w }
    let s2 := if p.filtFlit c ≤ w.countP (· == true) then
        (s1.failLit l c).modProv l c fun b => { b with failLit := a.failLit || !a.lateCleared, lateWin := [] } else s1
    if x.partner || !x.okV || !p.used c || !atLeastVt p c x || majExcludes a x.t then s2
    else
      let h := x.t :: a.lateFor.filter fun t => decide (x.t ≤ t + 5000000)
      let onset := if a.lateFor.isEmpty then some x.t else a.lateOnset
      let s3 := s2.modProv l c fun a => { a with lateFor := h, lateOnset := onset }
      if !a.foreign && decide (p.filtFor c ≤ h.length) then
        (s3.foreignAt l c .fast (s3.suspect l c onset)).modProv l c fun b => { b with foreign := b.foreign && !a.lateCleared, lateFor := [] }
      else s3
/-- The rules before an action point that darkened a channel judge a sample from before it (R553): inrush, FAIL_DARK, and for a
flash phase LIT_OK, with the dimming window of the command then in force. -/
def State.lateLit (s : State) (l : LaneId) (c : Chan) (x : Judged) : State :=
  let p := s.lampParams
  let a := s.lanes[l].prov[c]
  let s0 := if x.okI then s.inrush l c x else s
  if !x.both || decide (10 * x.v.natAbs < peakOf a.vHist) || otExcludes p c a x.t || decide (x.t < litFrom p c a.onAt) ||
     (a.lateDuty.any fun d => !dimWindow d (s.globalAt x.t)) then s0
  else
    let bad := badLit p c x
    let w := pushWin a.lateWin bad (p.filtDark c + p.filtTol c)
    let run := if bad then 0 else if warmEnd p c a ≤ x.t then a.goodRun + 1 else 0
    let s1 := s0.modProv l c fun a => { a with lateWin := w, goodRun := run }
    if !a.lateCleared && !a.failDark && decide (p.filtDark c ≤ w.countP (· == true)) then s1.failDark l c .litRule
    else if !a.lateCleared && !a.litOk && !a.failDark && decide (p.filtLit c ≤ run) then
      s1.modProv l c fun a => { a with litOk := true, warmEnds := 0 }
    else s1

/-- A corrected fast sample judged by the rules of its input instant (R553). -/
def State.judgeSample (s : State) (l : LaneId) (c : Chan) (x : Judged) : State :=
  let s1 := s.testSample l c x
  if x.t < s1.lanes[l].prov[c].changeAt then (if s1.isOn l c then s1.lateDark l c x else s1.lateLit l c x)
  else if s1.isOn l c then s1.litSample l c x
  else s1.darkSample l c x
/-- The channel is being taught (R161). -/
def State.taught (s : State) (c : Chan) : Bool := s.act.teach.any fun t => t.current c.group == some c
/-- A code period that began then lies in step 1 of a channel's teach-in. -/
def State.teachCold (s : State) (c : Chan) (start : Nat) : Bool :=
  s.act.teach.any fun t => t.current c.group == some c && (t.onAt[c.group]).isNone && decide (t.since[c.group] ≤ start)
/-- What a lane records of the sample of a channel that is being taught (R161): peaks per 100 µs from the action point of step 2
on, the samples after the overlay of step 4, the least conductance of step 5 among the samples that R143 does not exclude, and
how long the current of step 6 lasts. -/
def TeachWatch.sample (w : TeachWatch) (a : Proving) (x : Judged) (steady : Nat) (on : Bool) : TeachWatch :=
  let ap := a.onAt.getD 0
  let i := x.i.natAbs
  let v := x.v.natAbs
  let k := (x.t - ap) / 20000
  let h := pushPeak w.vHist x.tv v
  let judged := decide (peakOf h ≤ 10 * v)
  if !x.both then w
  else if on && decide (ap ≤ x.t) then
    let peaks := match w.peaks with
      | (j, mi, mv) :: r => if j = k then (j, max mi i, max mv v) :: r else (k, i, v) :: w.peaks
      | [] => [(k, i, v)]
    let after := if (a.otAt.any fun t0 => decide (t0 + 28000 ≤ x.t) && decide (x.t < t0 + 428000)) && judged then (x.t, i, v) :: w.after else w.after
    let step5 := decide (ap + 300000000 ≤ x.t) && decide (x.t < ap + 400000000) && judged && !x.ovI
    let least := if step5 && (w.least.all fun e => decide (i * e.2 < e.1 * v)) then some (i, v) else w.least
    { w with
      vHist := h
      peaks := peaks
      after := after
      least := least }
  else if !on && (w.offAt.any fun t => decide (t ≤ x.t)) then
    { w with decayAt := (if steady ≤ 20 * i then max w.decayAt x.t else w.decayAt) }
  else w
/-- The period results of step 5 in a lane's record. -/
def TeachWatch.steadyWins (w : TeachWatch) (ap : Nat) : List PeriodRec :=
  (w.wins.filter fun e => decide (ap + 300000000 < e.1) && decide (e.1 ≤ ap + 400000000)).map (·.2)
/-- The rounded mean of values, 0 of none. -/
def meanOf (xs : List Nat) : Nat := if xs.isEmpty then 0 else (roundDiv (xs.sum : Nat) xs.length).toNat
/-- The steady peak of a taught channel in fast LSBs (R404): √2 × I_STEADY on AC, I_STEADY on DC, the mean of IRMS and of IMEAN in
step 5 (R140, R161). -/
def TeachWatch.steadyPeak (w : TeachWatch) (ap : Nat) (ac : Bool) : Nat :=
  let i := meanOf ((w.steadyWins ap).map fun r => if ac then r.irms else r.imean.natAbs)
  if ac then roundSqrt (2 * i ^ 2) (256 ^ 2) else (roundDiv (i : Nat) 256).toNat
/-- A sample of a channel that is being taught enters its lane's record. -/
def State.teachSample (s : State) (l : LaneId) (c : Chan) (x : Judged) : State :=
  if s.taught c then
    let a := s.lanes[l].prov[c]
    let w := s.lanes[l].teach[c.group]
    let w1 := w.sample a x (w.steadyPeak (a.onAt.getD 0) (s.lampParams.isAc c.group)) (s.isOn l c)
    s.modLane l fun L => { L with teach := L.teach.set c.group w1 }
  else s
/-- A fast sample by the channel's use: in CH_USED with a class every rule; without a class the tests alone; outside CH_USED the
dark rule for a class other than 0 (R67, R149, R165); the wear of the switch in each case (R495). -/
def State.takeSample (s : State) (l : LaneId) (c : Chan) (x : Judged) : State :=
  let p := s.lampParams
  let s0 := s.switchOnWear l c x
  let s1 := if p.configured c then s0.judgeSample l c x else if p.used c then s0.testSample l c x else s0.darkSample l c x
  s1.teachSample l c x
/-- FAST_SAMPLE: the next sample of the channel's stream that the lane has not judged (R83). -/
def State.fastSample (s : State) (l : LaneId) (c : Chan) : State :=
  match s.nextRow l c.group c.pos with
  | none => s
  | some r =>
    let s1 := s.modLane l fun L => { L with grp := L.grp.set c.group { L.grp[c.group] with judged := (L.grp[c.group]).judged.set c.pos r.n } }
    match s.sampleOf l c.group c.pos r with
    | some x => if s.decimates l c.group && !s.blind l c.group then s1.takeSample l c x else s1
    | none => s1

/-- FAST_SAMPLE (R145). -/
def execFastSample (l : LaneId) (c : Chan) (s : State) : Host.Outcome State Fault Refusal :=
  .next (s.fastSample l c)

/-- NOT_PROVEN is due in a lane (R147), in a mode with proving (R371): on and still warming 100 ms after the end of WARMUP. -/
def State.notProvenDue (s : State) (l : LaneId) (c : Chan) : Bool :=
  let a := s.lanes[l].prov[c]
  s.active l && s.mode.mode.runs && s.isOn l c && s.lampParams.configured c && a.warming && !a.litOk && !a.failDark &&
  decide (warmEnd s.lampParams c a + 100 * Config.ms ≤ s.now)

/-- NOT_PROVEN (R147). -/
def execNotProven (l : LaneId) (c : Chan) (s : State) : Host.Outcome State Fault Refusal :=
  .next (if s.notProvenDue l c then s.failDark l c .notProven else s)

/-! ## The envelope of a revert (R404) -/

/-- A judged sample reaches 5 % of the steady peak: √2 × I_STEADY on AC, I_STEADY on DC. -/
def overEnvelope (p : ParamImage) (c : Chan) (i : Int) : Bool :=
  let ua := i.natAbs * 40000000
  if p.isAc c.group then decide (2 * (p.iSteady c * 2 ^ 15) ^ 2 ≤ (20 * ua) ^ 2) else decide (p.iSteady c * 2 ^ 15 ≤ 20 * ua)
/-- The first 16 fast samples of a channel in a lane at or after its envelope end; on AC those that the voltage rule of R143
excludes, with the V_PK of the 25 ms before each, do not count (R404). -/
def State.envJudged (s : State) (l : LaneId) (c : Chan) (from_ : Nat) : List Judged :=
  let pk (t : Nat) : Nat := peakOf (s.lanes[l].prov[c].vHist.filter fun e => decide (t ≤ e.1 + 5000000))
  let rows := (s.lanes[l].grp[c.group].fast.filter fun r => decide (from_ ≤ r.t)).reverse
  ((rows.filterMap fun r => s.sampleOf l c.group c.pos r).filter fun x =>
    x.okI && (!s.params.isAc c.group || (x.okV && decide (pk x.t ≤ 10 * x.v.natAbs)))).take 16

/-- The permissive channels of a group that a lane's revert watches. -/
def Revert.watched (r : Revert) (p : ParamImage) (g : GroupId) : List Chan :=
  (groupChans g).filter fun c => r.wasOn.getLsbD c.pos.val && p.permissive c
/-- A judged sample of a watched channel lies above the envelope in a lane. -/
def State.envOver (s : State) (l : LaneId) (g : GroupId) : Bool :=
  let r := s.lanes[l].rev[g]
  let t := r.stage1At.getD 0
  (r.watched s.params g).any fun c => (s.envJudged l c (t + s.params.decayTicks c)).any fun x => x.ovI || overEnvelope s.params c x.i
/-- A lane decides on the envelope of a reverting group: at stage 1 alone, with 16 samples of every watched channel judged, or
one of them above it. -/
def State.envDue (s : State) (l : LaneId) (g : GroupId) : Bool :=
  let L := s.lanes[l]
  L.st == .active && L.latches.reverting g && !has L.latches.energy g &&
  (L.rev[g]).stage1At.any fun t => s.envOver l g || (L.rev[g].watched s.params g).all fun c =>
    decide (t + s.params.decayTicks c ≤ s.now) && decide (16 ≤ (s.envJudged l c (t + s.params.decayTicks c)).length)
/-- REVERT_ENVELOPE_JUDGE (R404): in every lane that judges, a current above the envelope decides stage 2, none brings the
safe state. -/
def execRevertEnvelopeJudge (g : GroupId) (s : State) : Host.Outcome State Fault Refusal :=
  let over_ : LaneMask := maskOf fun l => s.envDue l g && s.envOver l g
  let under : LaneMask := maskOf fun l => s.envDue l g && !s.envOver l g
  .next ((s.trigger over_ g true).reachSafe under g)

end Sys2Proof.Machine
end

