-- ==== Sys2Proof/Machine/Measure.lean ====
section
/-!
DEFINITION. The measurement chain: side frames (R55, R76, R77), overloads (R78), the auxiliary converter with its
sequences, triggers and calibration (R94 to R106), the reference (R96), control writes (R97), the feed level and
the AC tracker (R36, R38, R84 to R89), period results (R86, R87), drift (R151) and the group load (R40).
-/

namespace Sys2Proof.Machine

/-! ## Side frames -/

/-- The channel bits of a group as a channel mask. -/
def groupMask (g : GroupId) (b : BitVec 8) : ChanMask := b.setWidth 96 <<< (8 * g.val)
/-- A lane takes the fields of a good side frame (R42, R43, R55, R77, R482). -/
def State.sideGood (s : State) (l : LaneId) (g : GroupId) (w : SideBits) : State :=
  let L := s.lanes[l]
  let B := L.grp[g]
  let lk := linkGood B.good B.measLink
  let diff := Vector.ofFn fun x => diffNow B.diffSince[x] (Side.rb w x != groupBits (s.effOn x) g) s.now
  let s1 := s.modLane l fun L => { L with
    grp := L.grp.set g { B with side := w, bad := 0, good := lk.1, measLink := lk.2, diffSince := diff }
    latches := { L.latches with short := L.latches.short ||| groupMask g (Side.sc w), overtemp := L.latches.overtemp ||| groupMask g (Side.ot w) } }
  let s2 := s1.measLinkFault l g.val B.measLink lk.2
  let s3 := (s2.each allLanes fun s x => if diffOver diff[x] s.now then s.fault FaultCode.driveLink [g.val, x.val] (only l) else s).gateSense l g (Side.gs w)
  (s3.each (groupChans g) fun s c => if (Side.vw w).getLsbD c.pos.val then s.vwJudge l c else s).each (groupChans g) fun s c => s.noteChan l c
/-- A lane discards a side frame; the third in a row raises MEAS_LINK (R77). -/
def State.sideBad (s : State) (l : LaneId) (g : GroupId) : State :=
  let B := s.lanes[l].grp[g]
  let lk := linkBad B.bad B.measLink
  let s1 := s.modLane l fun L => { L with grp := L.grp.set g { B with bad := lk.1, good := 0, measLink := lk.2 } }
  (s1.measLinkFault l g.val B.measLink lk.2).each (groupChans g) fun s c => s.noteChan l c

/-- The side frame in the words that reach a lane: checked, or discarded (R77). -/
def State.sideCheck (s : State) (l : LaneId) (g : GroupId) (ws : List StreamWord) : State :=
  match sideOf ws with
  | some w => if Side.crcOk w then s.sideGood l g w else s.sideBad l g
  | none => s.sideBad l g
/-- The sample that a fast or fine row gives a running capture, if it records that quantity (R362). -/
def State.capFast (s : State) (r : CaptureRun) (l : LaneId) (q : FastRow) : Option CapSample :=
  let u := s.groups[r.chan.group].under
  if r.sel.getLsbD 0 then
    ((s.sampleOf l r.chan.group r.chan.pos q).filter (·.okI)).map fun x =>
      { v := (clamp x.i (2 ^ 15 - 1)).1, t := x.t, ovr := x.ovI, spare := !x.partner && u.currFast r.chan.pos x.t == 17 }
  else if q.n % 64 = 0 then
    (s.fe[r.chan.group].fastVal q (u.voltFast r.chan.pos q.t)).map fun x =>
      { v := (clamp x.1 (2 ^ 15 - 1)).1, t := q.t, ovr := x.2, spare := u.voltFast r.chan.pos q.t == 16 }
  else none
def State.capFine (s : State) (r : CaptureRun) (q : FineRow) : Option CapSample :=
  let u := s.groups[r.chan.group].under
  let m := if r.sel.getLsbD 0 then u.currFine r.chan.pos q.t else u.voltFine r.chan.pos q.t
  (s.fe[r.chan.group].fineVal q m).map fun x =>
    { v := (clamp x.1 (2 ^ 23 - 1)).1, t := q.t, ovr := x.2, spare := m.val == 16 || m.val == 17 }
/-- The samples of a capture in order of time, from PRE before the trigger sample on, with the index of the first; the trigger
sample is the first one not before the trigger, and has index PRE. Without a trigger those kept before it. -/
def CaptureRun.data (r : CaptureRun) : Nat × List CapSample :=
  let xs := r.buf.reverse
  match r.trigAt with
  | none => (0, (xs.drop (xs.length - r.pre)).take r.samples)
  | some t =>
    let before := xs.filter fun x => decide (x.t < t)
    let kept := before.drop (before.length - r.pre)
    let first := r.pre - kept.length
    (first, (kept ++ xs.filter fun x => decide (t ≤ x.t)).take (r.samples - first))
/-- The capture holds every sample it was asked for. -/
def CaptureRun.full (r : CaptureRun) : Bool := r.trigAt.isSome && decide (r.samples ≤ r.data.1 + r.data.2.length)
/-- A running capture takes the samples that the words up to word n added in the supplying lane (R362). -/
def State.capTake (s : State) (l : LaneId) (g : GroupId) (n : Nat) (t : Nat) : State :=
  match s.act.capture with
  | none => s
  | some r =>
    if r.cut ∨ r.lane ≠ l ∨ r.chan.group ≠ g ∨ r.full then s
    else
      let B := s.lanes[l].grp[g]
      let new : List CapSample := if r.sel.getLsbD 1 then (B.fine.filter fun q => decide (t < q.t)).filterMap (s.capFine r)
        else (B.fast.filter fun q => decide (n < q.n)).filterMap (s.capFast r l)
      let buf := new ++ r.buf
      { s with act := { s.act with capture := some { r with buf := if r.trigAt.isNone then buf.take r.pre else buf } } }
/-- A lane takes the modulator bits (R75, R79): they enter its filters while it computes samples of the group, and the streams
stop otherwise (R91, R92); a lane that computes none keeps the count of the words, by which every lane's samples lie on one grid. -/
def State.takeMods (s : State) (l : LaneId) (g : GroupId) (ms : List ModBits) : State :=
  let B := s.lanes[l].grp[g]
  let B1 := if s.decimates l g then B.intake s.now s.groups[g].under.coef (!s.blind l g) (!s.fe[g].refs) ms else { B.stopStream s.now with words := B.words + ms.length }
  let B2 := { B1 with vwOn := B.vwOn && (B1.since.isNone || s.blind l g) }
  (s.modLane l fun L => { L with grp := L.grp.set g B2 }).capTake l g B.words ((B.fine.head?.map (·.t)).getD 0)

/-- SIDE_FRAME (R75 to R77): the stream words that carry a side frame reach a lane. -/
def execSideFrame (l : LaneId) (g : GroupId) (rx : RxStream) (s : State) : Host.Outcome State Fault Refusal :=
  let ws := s.rxWords g rx
  .next ((if s.active l then s.sideCheck l g ws else s).takeMods l g (ws.map wordMods))

/-- MODULATOR_OVERLOAD (R78): the modulator's OVL bit is set. -/
def execModulatorOverload (g : GroupId) (m : Modulator) (s : State) : Host.Outcome State Fault Refusal :=
  .next (s.modFe g fun f => f.overload m s.now)

/-- MODULATOR_OVERLOAD_END (R78): 192 modulator clocks (at least 9.505 µs) after the last overload its OVL clears. -/
def execModulatorOverloadEnd (g : GroupId) (m : Modulator) (s : State) : Host.Outcome State Fault Refusal :=
  .next (if has s.fe[g].ovl m ∧ s.fe[g].ovlAt[m] + 1901 ≤ s.now then s.modFe g fun f => f.overloadEnds m s.now else s)

/-! ## Control writes (R97) -/

/-- The reference enable changes (R96): REFS clears at once when it falls, and is counted anew when it rises. -/
def FrontEnd.setRef (f : FrontEnd) (on : Bool) (now : Nat) : FrontEnd :=
  if on then (if f.refEn then f else { f with refEn := true, refEnAt := now, refs := false })
  else { f with refEn := false, refs := false }
/-- Reserved encodings of AUX_CTRL, whose write is refused (R9, R110); the cause that the port reports for them is the
model's choice (notes/assumptions/48.md). -/
def badAuxCtrl (w : FeWrite) : Bool :=
  match w with
  | .auxCtrl v => auxMode v == 3 || decide (4 < auxInjLen v) || decide (16 < auxRegLen v)
  | _ => false
/-- A control write takes effect in the front-end; one with a reserved encoding is refused whole (R9, R110). -/
def FrontEnd.apply (f : FrontEnd) (w : FeWrite) (now : Nat) : FrontEnd :=
  if badAuxCtrl w then f else
  match w with
  | .refEn on => f.setRef on now
  | .probe m => f.setProbe m now
  | .auxCtrl v =>
    let f1 := f.setRef (v.getLsbD 15) now
    { f1 with aux := f1.aux.write (v &&& 0x3FF0#16) now f1.refs }
  | .auxSel v => { f with aux := { f.aux with sel := v &&& 0xF#16 } }
  | .auxReq v =>
    let a1 := if v.getLsbD 1 then f.aux.request now f.refs else f.aux
    { f with aux := if v.getLsbD 0 then a1.trigger 3 now f.refs else a1 }
  | .auxRseq j v => { f with aux := { f.aux with rseq := f.aux.rseq.set j v } }
  | .auxIseq v => { f with aux := { f.aux with iseq := v } }
  | .modulators on => { f with modsRun := on }
  | .vwLimit k mv => { f with vwLimit := f.vwLimit.set k mv }
  | .modInput m x => { f with input := f.input.set m x }
/-- A control write issued by every lane in the vote, of which two must agree. -/
def State.feWrite (s : State) (g : GroupId) (w : FeWrite) : State :=
  if 2 ≤ s.activeLanes.length then s.modFe g fun f => f.apply w s.now else s

/-- FRONT_END_CONTROL_WRITE (R97): the write acts when a second lane has written the same value within 24 µs. -/
def execFrontEndControlWrite (l : LaneId) (g : GroupId) (w : FeWrite) (s : State) : Host.Outcome State Fault Refusal :=
  .next (s.modFe g fun f =>
    let fresh := f.waiting.filter fun x => decide (s.now ≤ x.at_ + 4800)
    if fresh.any fun x => x.w == w && x.lane != l then ({ f with waiting := fresh.filter fun x => x.w != w }).apply w s.now
    else { f with waiting := fresh ++ [{ lane := l, w := w, at_ := s.now }] })

/-- INJECTED_TRIGGER (R101); without a short-circuit trip in the group none of that source arises. -/
def execInjectedTrigger (g : GroupId) (src : InjSource) (s : State) : Host.Outcome State Fault Refusal :=
  let k : BitVec 2 := match src with
    | .contactor => 1
    | .trip => 2
    | .explicit => 3
  .next (if src = .trip ∧ s.fe[g].sc = 0 then s else s.modFe g fun f => { f with aux := f.aux.trigger k s.now f.refs })

/-- All twenty modulators of the group have passed or failed the in-place calibration of R128. -/
def Understorey.initial (u : Understorey) : Bool :=
  (List.finRange 20).all fun m => u.adoptedAt[m] != 0 || u.rejects[m] != 0 || has u.convicted m
/-- The calibration of all twenty modulators in place begins, where it has not been made since reset (R128). -/
def State.startInPlace (s : State) (g : GroupId) : State :=
  if s.groups[g].under.initial then s
  else (s.modGroup g fun G => { G with under := { G.under with runs := Vector.replicate 20 (some { since := s.now, zeroAt := s.now }) } }).modFe g
    fun f => { f with input := Vector.replicate 20 .zero }

/-- A spare whose self-calibration has begun before REFS is set begins it again, for R122 wants REFS throughout: the model's choice
(notes/assumptions/139.md). -/
def Loan.atRefs (x : Loan) (now : Nat) : Loan := if x.step = .selfCal then { x with since := now, zeroAt := now } else x
/-- REFS_SET (R96): 202,000 FIELD clocks, at least 10 ms, after REF_EN rose. A group back from P2 or P3 starts its
sequencer again at entry 0 (R98). Where the calibration of R128 has not been made since reset, all its modulators begin it. -/
def execRefsSet (g : GroupId) (s : State) : Host.Outcome State Fault Refusal :=
  .next (if s.fe[g].refEn ∧ !s.fe[g].refs ∧ s.fe[g].refEnAt + 2000000 ≤ s.now then
      ((State.startInPlace s g).modGroup g fun G => { G with
        under := { G.under with volt := G.under.volt.atRefs s.now, curr := G.under.curr.atRefs s.now } }).modFe g fun f => { f with
        refs := true
        refSetAt := s.now
        aux := if auxMode f.aux.ctrl = 0 ∧ s.mode.mode ≠ .commission ∧ (s.groups[g].level.val ≤ 1 ∨ (s.groups[g].pendLevel.any fun v => decide (v.val ≤ 1))) then
            poindAux f.aux s.now true else f.aux }
    else s)

/-- REF_FAULT_TIMEOUT (R96): REFS still clear 12 ms after REF_EN rose. -/
def execRefFaultTimeout (g : GroupId) (s : State) : Host.Outcome State Fault Refusal :=
  .next (if s.fe[g].refEn ∧ !s.fe[g].refs ∧ s.fe[g].refEnAt + 12 * Config.ms ≤ s.now then s.fault FaultCode.refFault [g.val] s.voteMask else s)

/-! ## The feed (R36, R38, R84, R85, R89) -/

/-- A FEED_V result lies below a voltage in 0.1 V (LSB 2.5 V / 2^17, divider 125). -/
def feedBelow (y : Int) (dv : Int) : Bool := decide (y * 3125 < dv * 131072)
/-- The next whole multiple of a duration in lane time, as an instant. -/
def State.nextMultiple (s : State) (d : Nat) : Nat := s.localOf (s.laneTime + (d - s.laneTime % d) % d)
/-- DC_WINDOW in ticks. -/
def ParamImage.dcTicks (p : ParamImage) (g : GroupId) : Nat := p.dcWindow g * Config.ms
/-- The tracker unlocks: the open window is discarded, and the next fixed window starts at a whole multiple of
DC_WINDOW (R84, R86). -/
def FeedState.unlock (f : FeedState) (now start : Nat) : FeedState :=
  { f with lock := false, fixed := true, periodLen := 0, unlockedSince := now, winStart := some start, prevPeriod := none, crosses := [] }
/-- A measured period in range: 15.0 ms to 22.5 ms (R84). -/
def periodOk (d : Nat) : Bool := decide (3000000 ≤ d) && decide (d ≤ 4500000)
/-- A counted positive-going crossing at tc in global time (R84), which is the instant `at_`. -/
def FeedState.cross (f : FeedState) (tc at_ now start : Nat) : FeedState :=
  let g := { f with lastCross := some tc, wentNeg := false }
  match f.lastCross with
  | none => g
  | some t0 =>
    let d := tc - t0
    if f.lock then (if periodOk d then { g with periodLen := d, prevPeriod := some d, crosses := f.crosses ++ [at_] } else g.unlock now start)
    else if periodOk d && f.prevPeriod.any fun e => periodOk e && decide (50 * (max d e - min d e) ≤ min d e) then
      { g with lock := true, fixed := false, periodLen := d, prevPeriod := some d, winStart := some at_, crosses := [] }
    else { g with prevPeriod := some d }
/-- A FEED_V result without NS enters the tracker at the midpoint of its conversion in global time (R84); a crossing is interpolated
to the nearest tick, half away from zero (notes/assumptions/29.md). -/
def FeedState.track (f : FeedState) (t : Nat) (y : Int) (localOf : Nat → Nat) (now start : Nat) : FeedState :=
  let f1 := if 0 ≤ y ∧ f.wentNeg then
      (match f.lastVal with
        | some (t1, y1) =>
          let tc := t1 + (roundDiv ((t - t1) * y1.natAbs : Nat) (y - y1).natAbs).toNat
          if y1 < 0 then f.cross tc (localOf tc) now start else f
        | none => f)
    else f
  { f1 with lastVal := some (t, y), wentNeg := f1.wentNeg || feedBelow y (-50) }
/-- The feed level is at or above FEED_MIN (R38, R89): on AC the largest magnitude of 12 ms over √2, on DC the result. -/
def feedUp (p : ParamImage) (g : GroupId) (hist : List (Nat × Int)) (t : Nat) (y : Int) : Bool :=
  if p.isAc g then
    let pk : Nat := ((hist.filter fun (e : Nat × Int) => decide (t ≤ e.1 + 2400000)).map fun e => e.2.natAbs).foldl max 0
    decide (2 * (p.feedMin g * 131072) ^ 2 ≤ (pk * 3125) ^ 2)
  else !feedBelow y (p.feedMin g)
/-- The level in mV that the lanes hold. -/
def feedLevel (p : ParamImage) (g : GroupId) (hist : List (Nat × Int)) (t : Nat) (y : Int) : Nat :=
  if p.isAc g then
    let pk : Nat := ((hist.filter fun (e : Nat × Int) => decide (t ≤ e.1 + 2400000)).map fun e => e.2.natAbs).foldl max 0
    roundSqrt ((pk * 312500) ^ 2) (2 * 131072 ^ 2)
  else (y.toNat * 312500) / 131072
/-- The feed does not match the sealed type (R36, notes/assumptions/7.md): over 25 ms an AC group's results never
change sign while the feed is up; a DC group's fall below −5 V. -/
def feedWrong (p : ParamImage) (g : GroupId) (hist : List (Nat × Int)) (up : Bool) : Bool :=
  if p.isAc g then up && decide (100 ≤ hist.length) && ((hist.all fun (e : Nat × Int) => decide (0 < e.2)) || hist.all fun (e : Nat × Int) => decide (e.2 < 0))
  else hist.any fun (e : Nat × Int) => feedBelow e.2 (-50)
/-- The feed conditions of R160 for a group. -/
def State.teachFeed (s : State) (g : GroupId) : Bool := !s.groups[g].feed.absent && (!s.working.isAc g || s.groups[g].feed.lock)
/-- A feed that fails R160 during a channel's teach-in is remembered until the channel ends (R163). -/
def State.teachLost (s : State) (g : GroupId) : State :=
  if s.teachFeed g then s else { s with act := { s.act with teach := s.act.teach.map fun t => { t with feedLost := t.feedLost ||| only g } } }
/-- A FEED_V result is evaluated (R84, R89); one with NS only ends a running condition. A feed that has contradicted its sealed
type through FEED_FILTER is a mismatch (R36, notes/assumptions/7.md). -/
def State.feedResult (s : State) (g : GroupId) (t : Nat) (y : Int) (ns : Bool) : State :=
  let p := s.params
  if s.groups[g].level.val ≥ 2 ∨ p.chUsed g = 0 then s
  else if ns then s.modGroup g fun G => { G with feed := { G.feed with belowSince := none, aboveSince := none, wrongSince := none } }
  else
    let f := s.groups[g].feed
    let hist := (t, y) :: f.hist.filter fun (e : Nat × Int) => decide (t ≤ e.1 + 5000000)
    let up := feedUp p g hist t y
    let f1 : FeedState := { f with
      hist := hist
      level := feedLevel p g hist t y
      belowSince := if up then none else some (f.belowSince.getD t)
      aboveSince := if up then some (f.aboveSince.getD t) else none }
    let f2 : FeedState := if p.isAc g then f1.track (s.globalAt t) y s.localOf s.now (s.nextMultiple (p.dcTicks g)) else f1
    let seen := feedWrong p g hist up
    let wrongAt := if seen then some (f.wrongSince.getD t) else none
    let wrong := if seen then f.mismatch || wrongAt.any fun a => decide (a + p.feedFilter g * Config.ms ≤ t) else false
    let s1 := (s.modGroup g fun G => { G with feed := { f2 with wrongSince := wrongAt, mismatch := wrong } }).teachLost g
    let s2 := if wrong ∧ !f.mismatch then s1.fault FaultCode.feedTypeMismatch [g.val] s.voteMask
              else if f.mismatch ∧ !wrong then s1.withdrawFault FaultCode.feedTypeMismatch [g.val] else s1
    let s3 := if f2.lock ∧ !f.lock then s2.withdrawFault FaultCode.feedFreqRange [g.val] else s2
    if wrong == f.mismatch then s3 else s3.each s.activeLanes fun s l => s.each (groupChans g) fun s c => s.noteChan l c

/-- TRACKER_UNLOCK_TIMEOUT (R84): 25 ms of global time without a counted crossing; none at P2 and P3, where no FEED_V result comes
(R479). -/
def execTrackerUnlockTimeout (g : GroupId) (s : State) : Host.Outcome State Fault Refusal :=
  let f := s.groups[g].feed
  .next (if f.lock ∧ (f.lastCross.all fun t => decide (t + 25 * Config.ms ≤ s.laneTime)) ∧ s.groups[g].level.val < 2 then
      (s.modGroup g fun G => { G with feed := G.feed.unlock s.now (s.nextMultiple (s.params.dcTicks g)) }).teachLost g
    else s)

/-- FEED_FREQ_RANGE (R85): unlocked for 1 s with the feed present. -/
def execFeedFreqRange (g : GroupId) (s : State) : Host.Outcome State Fault Refusal :=
  let f := s.groups[g].feed
  .next (if s.params.isAc g ∧ s.params.chUsed g ≠ 0 ∧ !f.lock ∧ !f.absent ∧ s.groups[g].level.val < 2 ∧ s.mode.mode.runs ∧ f.unlockedSince + Config.sec ≤ s.now then
      s.fault FaultCode.feedFreqRange [g.val] s.voteMask
    else s)

/-- The feed-absent decision is taken (R38): a group at stage 2 with contactors is safe-dark (R405), which also ends
REVERT_FAIL. -/
def State.feedGone (s : State) (g : GroupId) : State :=
  let s1 := s.modGroup g fun G => { G with feed := { G.feed with absent := true } }
  let dark : LaneMask := maskOf fun l => s1.active l && (s1.lanes[l].rev[g]).stage2At.isSome && s1.params.contactors g
  let s2 := s1.reachSafe dark g
  (s2.withdrawFault FaultCode.revertFail [g.val]).teachLost g

/-- FEED_ABSENT_DECISION (R38): the decision is taken or withdrawn when the level has stayed on one side of FEED_MIN
for FEED_FILTER; none at P2 and P3 (R479). While a stopped converter gives no evaluation the condition runs on: the model's choice
(notes/assumptions/136.md). -/
def execFeedAbsentDecision (g : GroupId) (s : State) : Host.Outcome State Fault Refusal :=
  let f := s.groups[g].feed
  let d := s.params.feedFilter g * Config.ms
  let note (s : State) : State := s.each s.activeLanes fun s l => s.each (groupChans g) fun s c => s.noteChan l c
  .next (if 2 ≤ s.groups[g].level.val then s
    else if !f.absent ∧ f.belowSince.any fun t => decide (t + d ≤ s.now) then note (s.feedGone g)
    else if f.absent ∧ f.aboveSince.any fun t => decide (t + d ≤ s.now) then
      note (s.modGroup g fun G => { G with feed := { G.feed with absent := false, unlockedSince := if G.feed.lock then G.feed.unlockedSince else s.now } })
    else s)

/-! ## Results of the converter (R94, R95, R102, R104, R105) -/

/-- An auxiliary result corrected (R95), in 18 bits; raw while no coefficients are loaded. -/
def correctAux (k : Coef) (x : Int) : Int := if k.gain = 0 then x else (clamp (roundDiv ((x - k.offset) * k.gain) (2 ^ 22)) (2 ^ 17 - 1)).1
/-- A result lies within limits in µV at the converter's input. -/
def auxWithin (y lo hi : Int) : Bool := decide (lo * 131072 ≤ y * 2500000) && decide (y * 2500000 ≤ hi * 131072)
/-- The limits of the supply inputs 6 to 11 (R94), in µV at the converter's input. -/
def supplyLimits : Nat → Option (Int × Int)
  | 6 => some (1187500, 1312500)
  | 7 => some (1425000, 1575000)
  | 8 => some (1375000, 1625000)
  | 9 => some (-1625000, -1375000)
  | 10 => some (1687500, 2062500)
  | 11 => some (1600000, 2000000)
  | _ => none
/-- The auxiliary coefficients derived from the last 16 ZERO and REF results (R95); none before there are 16 of each. -/
def auxDerive (zeros refs : List Int) : Option Coef :=
  if zeros.length < 16 ∨ refs.length < 16 then none else
  let off := roundDiv zeros.sum 16
  let den := refs.sum - 16 * off
  some { offset := off, gain := if den ≤ 0 then 0 else (roundDiv (104858 * 16 * 2 ^ 22) den.toNat).toNat }
/-- Auxiliary coefficients lie within their limits: OFFSET within ±8,192 and GAIN from 0.95 to 1.05 (R95). -/
def auxCoefOk (k : Coef) : Bool := decide (k.offset.natAbs ≤ 8192) && decide (3984589 ≤ k.gain) && decide (k.gain ≤ 4404019)
/-- A ZERO or REF result enters the auxiliary calibration (R95). -/
def State.auxCal (s : State) (g : GroupId) (isRef : Bool) (raw : Int) : State :=
  let w := s.groups[g].watch
  let w1 := if isRef then { w with refs := (raw :: w.refs).take 16 } else { w with zeros := (raw :: w.zeros).take 16 }
  match auxDerive w1.zeros w1.refs with
  | none => s.modGroup g fun G => { G with watch := w1 }
  | some k =>
    if auxCoefOk k then (s.modGroup g fun G => { G with watch := { w1 with coef := k } }).withdrawFault FaultCode.auxCalRange [g.val]
    else (s.modGroup g fun G => { G with watch := w1 }).fault FaultCode.auxCalRange [g.val] s.voteMask
/-- The limits Poind checks on a result without NS (R94). -/
def State.auxCheck (s : State) (g : GroupId) (input : Nat) (y : Int) : State :=
  if input = 2 then
    let good := auxWithin y 1194000 1206000
    let s1 := s.modGroup g fun G => { G with watch := { G.watch with
      cmpref := (s.now, good) :: G.watch.cmpref.filter fun e => decide (s.now ≤ e.1 + keepFor) } }
    if good then s1 else s1.fault FaultCode.refFault [g.val] s.voteMask
  else if input = 3 then
    (if 1125000 * 131072 < y * 2500000 then s.fault FaultCode.feOvertemp [g.val] s.voteMask
     else if y * 2500000 < 1075000 * 131072 then s.withdrawFault FaultCode.feOvertemp [g.val] else s)
  else if input = 5 then
    let over_ := decide ((s.params.earthLeakMax g : Int) * 10000 * 131072 < y.natAbs * 2500000)
    if over_ then
      let t := (s.groups[g].watch.leakSince).getD s.now
      let s1 := s.modGroup g fun G => { G with watch := { G.watch with leakSince := some t } }
      if t + s.params.earthFilter g * Config.ms ≤ s.now then s1.fault FaultCode.feedEarthLeak [g.val] s.voteMask else s1
    else (s.modGroup g fun G => { G with watch := { G.watch with leakSince := none } }).withdrawFault FaultCode.feedEarthLeak [g.val]
  else
    match supplyLimits input with
    | none => s
    | some (lo, hi) =>
      let n := if auxWithin y lo hi then 0 else (s.groups[g].watch.supplyBad[input]?).getD 0 + 1
      let s1 := s.modGroup g fun G => { G with watch := { G.watch with supplyBad := G.watch.supplyBad.setIfInBounds input n } }
      if 3 ≤ n then s1.fault FaultCode.feSupply [g.val, input] s.voteMask else s1
/-- The register that an entry's result goes to (R99, R100, R101): 0 to 15 regular, 16 to 19 injected; a requested pair
has none. -/
def auxReg (entry : Nat) : Option Nat := if entry < 20 then some entry else if entry = 20 then some 0 else none
/-- The conversion in progress has completed with a raw result (R102, R104, R109). At P2 and P3 none is checked (R479). -/
def State.auxDone (s : State) (g : GroupId) (raw : Int) : State :=
  let f := s.fe[g]
  let a := f.aux
  match a.entry with
  | none => s
  | some e =>
    let cal := a.input == 0 || a.input == 1
    let y := if cal then raw else correctAux s.groups[g].watch.coef raw
    let a1 := match auxReg e with
      | some r => { a.finished raw true with res := a.res.setIfInBounds r { seq := a.seq, input := a.input, ns := a.startNs, val := y, at_ := s.now }, seq := nextSeq a.seq }
      | none => { a.finished raw false with calZeroDone := e == 21, calPend := e != 22 && a.calPend }
    let a2 := a1.boundary s.now f.refs
    let s1 := s.modFe g fun f => { f with aux := a2 }
    let s2 := if a2.stalled s.now then s1 else s1.withdrawFault FaultCode.auxStall [g.val]
    let mid := (a.startAt + s.now) / 2
    if cal then s2.auxCal g (a.input == 1) raw
    else if a.input = 4 then s2.feedResult g mid y a.startNs
    else if a.startNs ∨ 2 ≤ s.groups[g].level.val then s2
    else s2.auxCheck g a.input.toNat y

/-- AUX_CONVERSION_DONE (R102). -/
def execAuxConversionDone (g : GroupId) (raw : Int) (s : State) : Host.Outcome State Fault Refusal :=
  .next (s.auxDone g raw)

/-- AUX_STALL (R105). -/
def execAuxStall (g : GroupId) (s : State) : Host.Outcome State Fault Refusal :=
  .next (if s.fe[g].aux.stalled s.now ∧ s.groups[g].level.val < 2 then s.fault FaultCode.auxStall [g.val] s.voteMask else s)

/-! ## Period results (R86, R87, R116) -/

/-- The sums of a window: the weights of the available voltage samples, current samples, and instants with both; v², i², i and v·i;
the marks. -/
structure WinSums where
  n : Nat := 0
  nv : Nat := 0
  ni : Nat := 0
  vv : Nat := 0
  ii : Nat := 0
  i : Int := 0
  vi : Int := 0
  ovrV : Bool := false
  ovrI : Bool := false
  refNs : Bool := false
  spV : Bool := false
  spI : Bool := false
  deriving DecidableEq, Repr
/-- A voltage, and a current, enters the sums with its weight in ticks and its OVR mark (R78, R87). -/
def WinSums.addV (a : WinSums) (w : Nat) (sp : Bool) : Option (Int × Bool) → WinSums
  | some v => { a with nv := a.nv + w, vv := a.vv + w * v.1.natAbs ^ 2, ovrV := a.ovrV || v.2, spV := a.spV || sp }
  | none => a
def WinSums.addI (a : WinSums) (w : Nat) (sp : Bool) : Option (Int × Bool) → WinSums
  | some i => { a with ni := a.ni + w, ii := a.ii + w * i.1.natAbs ^ 2, i := a.i + w * i.1, ovrI := a.ovrI || i.2, spI := a.spI || sp }
  | none => a
/-- The product of a voltage and a current of one instant enters the sums. -/
def WinSums.addVI (a : WinSums) (w : Nat) : Option (Int × Bool) → Option (Int × Bool) → WinSums
  | some v, some i => { a with n := a.n + w, vi := a.vi + w * v.1 * i.1 }
  | _, _ => a
/-- A signed result as its 24 bits hold it; full scale itself, which a window of positive OVR samples reaches, is held as the
largest value of the field: the model's choice (notes/assumptions/135.md). -/
def signed24 (v : Int) : Int := (clamp v (2 ^ 23 - 1)).1
/-- The record of a closed window (R87, R116). A result of which the window has no available sample, so that N is 0, keeps its last
value: the model's choice (notes/assumptions/138.md). -/
def WinSums.record (a : WinSums) (old : PeriodRec) (fixed : Bool) (pseq : Byte) : PeriodRec :=
  { vrms := if a.nv = 0 then old.vrms else roundSqrt a.vv a.nv
    irms := if a.ni = 0 then old.irms else roundSqrt a.ii a.ni
    imean := if a.ni = 0 then old.imean else signed24 (roundDiv a.i a.ni)
    power := if a.n = 0 then old.power else signed24 (roundDiv a.vi (a.n * 2 ^ 23))
    ovrV := a.ovrV, ovrI := a.ovrI, refNs := a.refNs, spV := a.spV, spI := a.spI, fixed := fixed, valid := true, pseq := pseq }
/-- Conductance against G_NOM (0.1 µS): the record's IRMS/VRMS lies within the drift band (R151). -/
def inBand (p : ParamImage) (c : Chan) (r : PeriodRec) : Bool :=
  let x := 1000 * r.irms * 400000000
  decide (p.bandLo c * p.gNom c * r.vrms * 250 ≤ x) && decide (x ≤ p.bandHi c * p.gNom c * r.vrms * 250)
/-- A form factor of a window in 1/10,000 lies within FORM_TOL of the learned one: a / b against f. -/
def formNear (a : Int) (b f tol : Nat) : Bool := decide ((10000 * a - f * b).natAbs ≤ tol * b)
/-- FORM1 of a window, with its sign, is within its band (R140, R151). -/
def form1Ok (p : ParamImage) (c : Chan) (r : PeriodRec) : Bool :=
  if p.isAc c.group then formNear (r.power * 2 ^ 23) (r.vrms * r.irms) (p.form1 c) (p.formTol c)
  else formNear r.imean r.irms (p.form1 c) (p.formTol c)
/-- FORM2 of a window is within its band. -/
def form2Ok (p : ParamImage) (c : Chan) (r : PeriodRec) : Bool := formNear r.imean.natAbs r.irms (p.form2 c) (p.formTol c)
/-- A window is out of band (R151). -/
def driftBad (p : ParamImage) (c : Chan) (r : PeriodRec) : Bool :=
  !inBand p c r || (decide (3 ≤ p.cls c) && !form1Ok p c r) || ((p.cls c == 3 || p.cls c == 5) && p.isAc c.group && !form2Ok p c r)
/-- A channel's derived state is steady on in a lane: no flash phase and no dimming overlay (R60, R151). -/
def State.steadyOn (s : State) (l : LaneId) (c : Chan) : Bool :=
  s.isOn l c && !has s.lanes[l].drive.img.flash c && !has s.lanes[l].drive.img.dim c
/-- A lane judges a window for drift, or skips it (R151). -/
def State.driftJudged (s : State) (l : LaneId) (c : Chan) (r : PeriodRec) (start len : Nat) : Bool :=
  let a := s.lanes[l].prov[c]
  s.steadyOn l c && s.lampParams.configured c && !(r.ovrV || r.ovrI || r.refNs) && decide (warmEnd s.lampParams c a ≤ start) &&
  !(a.otAt.any fun t => decide (t ≤ start + len) && decide (start ≤ t + 28000))
/-- N_d = ceil(DRIFT_TIME / P_w). -/
def driftCount (p : ParamImage) (c : Chan) (len : Nat) : Nat := (p.driftTime c * 20000000 + len - 1) / len
/-- DEGRADED is decided or withdrawn after N_d windows in a row (R151). -/
def State.drift (s : State) (l : LaneId) (c : Chan) (r : PeriodRec) (start len : Nat) : State :=
  if s.driftJudged l c r start len then
    let bad := driftBad s.lampParams c r
    let b := s.lanes[l].prob[c]
    let out := if bad then b.driftOut + 1 else 0
    let inn := if bad then 0 else b.driftIn + 1
    let n := driftCount s.lampParams c len
    let was := s.lanes[l].prov[c].degraded
    let now := if n ≤ out then true else if n ≤ inn then false else was
    let s1 := (s.modProb l c fun b => { b with driftOut := out, driftIn := inn }).modProv l c fun a => { a with degraded := now }
    if now == was then s1 else s1.noteChan l c
  else s
/-- A lane's wear totals of a closed window (R491, R493, R495): conductance in ppm of G_NOM over the included
windows, and the mean current of the lit interval. -/
def State.windowWear (s : State) (l : LaneId) (c : Chan) (r : PeriodRec) (start len : Nat) : State :=
  let d := s.lampParams.gNom c * r.vrms * 250
  let incl := s.driftJudged l c r start len && decide (0 < d)
  let s1 := if incl then s.modLamp l c fun w => { w with gSum := w.gSum + (r.irms * 400000000 * 1000000) / d, gN := w.gN + 1 } else s
  if s.isOn l c then s1.modLamp l c fun w => { w with iSum := w.iSum + r.irms, iN := w.iN + 1 } else s1
/-- The open window of a group, if it has ended (R86, R87): from one counted crossing to the next while the tracker is locked,
else a whole DC_WINDOW on the grid of global time. -/
def State.windowNow (s : State) (g : GroupId) : Option (Nat × Nat) :=
  let f := s.groups[g].feed
  let d := s.params.dcTicks g
  if s.params.isAc g && f.lock then
    (match f.winStart, f.crosses with
      | some a, b :: _ => some (a, b)
      | _, _ => none)
  else
    let a := f.winStart.getD (s.localOf ((s.laneTime / max d 1 - 1) * d))
    let b := s.localOf (((s.globalAt a + d / 2) / max d 1 + 1) * d)
    if 0 < d ∧ b ≤ s.now then some (a, b) else none
/-- A lane's sums of a position over a window. -/
def State.winSums (s : State) (l : LaneId) (g : GroupId) (k : Fin 8) (a b : Nat) : WinSums :=
  let u := s.groups[g].under
  (s.lanes[l].grp[g].fineIn a b).foldl (fun (x : WinSums) r =>
    let mv := u.voltFine k r.t
    let mi := u.currFine k r.t
    let w := overlap r.t a b
    let v := s.fe[g].fineVal r mv
    let i := s.fe[g].fineVal r mi
    { ((x.addV w (mv == 16) v).addI w (mi == 17) i).addVI w v i with refNs := x.refNs || r.ns }) {}
/-- A lane's record of a position for a window as it is judged; none where voltage and current are not available together
(R87, R96). -/
def State.winRecord (s : State) (l : LaneId) (g : GroupId) (k : Fin 8) (a b : Nat) (fixed : Bool) (pseq : Byte) : Option PeriodRec :=
  let x := s.winSums l g k a b
  if x.n = 0 then none else some (x.record {} fixed pseq)
/-- The lanes that give period results for a window: in the vote, computing samples since before it began (R91, R92). -/
def State.winLanes (s : State) (g : GroupId) (a : Nat) : List LaneId := s.activeLanes.filter fun l => (s.lanes[l].grp[g]).ranSince a
/-- The summed IRMS of a group in fine current LSBs (R40). -/
def GroupState.loadSum (G : GroupState) (used : BitVec 8) : Nat :=
  ((List.finRange 8).map fun (k : Fin 8) => if used.getLsbD k.val then (G.recs[k] : PeriodRec).irms else 0).sum
/-- The group limit in mA at an ambient in °C (R40): the lower of GROUP_LIMIT and the derated limit. -/
def loadLimit (p : ParamImage) (g : GroupId) (ambient : Int) : Nat :=
  min (p.groupLimit g * 100) (10000 - 250 * (ambient - 55).toNat)
/-- A summed current in fine LSBs lies above a limit in mA. -/
def overLoad (sum limit : Nat) : Bool := decide (limit * 2 ^ 23 < sum * 40000)

/-- A lane's own records of a group after a window (R116, R338). -/
def State.windowRecs (s : State) (l : LaneId) (g : GroupId) (a b : Nat) (fixed : Bool) (pseq : Byte) : Vector PeriodRec 8 :=
  Vector.ofFn fun k => (s.winSums l g k a b).record (s.lanes[l].grp[g]).recs[k] fixed pseq
/-- The next window begins where this one ended (R86, R87). -/
def FeedState.nextWindow (f : FeedState) (b : Nat) : FeedState := { f with winStart := some b, crosses := f.crosses.filter fun t => decide (b < t) }
/-- The group's summed currents against the limit at the measured board temperature: since when they have lain above it (R40). -/
def FeedState.load (f : FeedState) (over_ : Bool) (now : Nat) : FeedState :=
  { f with overSince := if over_ then some (f.overSince.getD now) else none, overSaid := f.overSaid && over_ }
/-- A lane judges the record of a channel's window: drift, and what a teach-in learns (R151, R161). -/
def State.laneWindow (s : State) (l : LaneId) (c : Chan) (r : PeriodRec) (a b : Nat) : State :=
  let s1 := if s.blind l c.group then s else s.drift l c r a (b - a)
  if s.taught c && s.isOn l c then
    s1.modLane l fun L => { L with teach := L.teach.set c.group { L.teach[c.group] with wins := (b, r) :: (L.teach[c.group]).wins } }
  else s1
/-- A group's window closes (R87): each lane in the vote forms its own results, the window shows the supplying lane's. From the
end of Thaw until a first fixed window closes FIXED shows its reset value: the model's choice (notes/assumptions/120.md). -/
def State.closeWindow (s : State) (g : GroupId) (a b : Nat) (ambient : Int) : State :=
  let p := s.params
  let f := s.groups[g].feed
  let fixed := !(p.isAc g && f.lock)
  let seq := nextSeq f.periodSeq
  match s.winLanes g a with
  | [] => s.modGroup g fun G => { G with feed := G.feed.nextWindow b }
  | l0 :: rest =>
    let mark := fixed && p.isAc g
    let recs := s.windowRecs l0 g a b mark (seq.setWidth 8)
    let s1 := s.modGroup g fun G =>
      let G1 := { G with recs := recs }
      { G1 with feed := { (G.feed.nextWindow b).load (overLoad (G1.loadSum (p.chUsed g)) (loadLimit p g ambient)) s.now with periodSeq := seq, fixed := fixed } }
    s1.each (l0 :: rest) fun t l =>
      (t.modLane l fun L => { L with grp := L.grp.set g { L.grp[g] with recs := s.windowRecs l g a b mark (seq.setWidth 8) } }).each (groupChans g)
        fun t c => match s.winRecord l g c.pos a b mark (seq.setWidth 8) with
          | some r => (t.laneWindow l c r a b).windowWear l c r a (b - a)
          | none => t

/-- PERIOD_WINDOW_CLOSE (R87), with the board temperature in °C as the lanes measured it last (R40). -/
def execPeriodWindowClose (g : GroupId) (ambient : Int) (s : State) : Host.Outcome State Fault Refusal :=
  .next (match s.windowNow g with
    | some (a, b) => if s.mode.mode.runs then s.closeWindow g a b ambient else s
    | none => s)

/-- GROUP_OVERLOAD (R40): the sum has stayed above the limit for 1 s; raised once for each stay. -/
def execGroupOverload (g : GroupId) (s : State) : Host.Outcome State Fault Refusal :=
  let f := s.groups[g].feed
  .next (if !f.overSaid && f.overSince.any fun t => decide (t + Config.sec ≤ s.now) then
      (s.modGroup g fun G => { G with feed := { G.feed with overSaid := true } }).note EventCode.groupOverload [g.val]
    else s)

end Sys2Proof.Machine
end

