-- ==== Sys2Proof/Machine/Probe.lean ====
section
/-!
DEFINITION. The cable probe: chip strobes and probe enables (R176, R177), the Gold codes (R178), correlation (R183),
verdicts and continuity (R184 to R188), the coupling matrix (R189 to R193) and the in-phase and quadrature rules (R197, R198).
-/

namespace Sys2Proof.Machine

/-! ## The codes (R178) -/

/-- A code period and a chip in ticks (R179). -/
def codePeriod : Nat := 25575000
def chipTicks : Nat := 25000
/-- The base sequence u[0] to u[1022], bit n of the value being u[n]: x^10 + x^3 + 1, all-ones start. -/
def goldU : Nat := (List.range 1013).foldl (fun u n => if u.testBit (n + 3) != u.testBit n then u + 2 ^ (n + 10) else u) 1023
/-- Bit n of code a of the family. -/
def goldBit (u a n : Nat) : Bool :=
  if a = 0 then u.testBit (n % 1023)
  else if a = 1 then u.testBit (5 * n % 1023)
  else u.testBit (n % 1023) != u.testBit (5 * ((n + a - 2) % 1023) % 1023)
/-- The correlation of codes a and b over n chips from chip n0 on: agreeing chips less differing ones. -/
def codeCorr (a b n0 n : Nat) : Int :=
  let u := goldU
  (List.range n).foldl (fun (x : Int) k => if goldBit u a (n0 + k) == goldBit u b (n0 + k) then x + 1 else x - 1) 0

/-! ## Chip strobes and enables -/

/-- The chip that a lane's strobe starts now, for a group (R177): bit k is the chip of channel k's code. -/
def State.chipValues (s : State) (g : GroupId) (n : Nat) : BitVec 8 :=
  maskOf fun k => goldBit goldU (s.lampParams.code (chanOf g k)) (n % 1023)
/-- A front-end holds a lane's strobe and applies its values, all eight at once, where another lane's agrees (R177). -/
def FrontEnd.strobed (f : FrontEnd) (l : LaneId) (x : Strobe) : FrontEnd :=
  let f1 := { f with strobe := f.strobe.set l (some x) }
  if allLanes.any fun y => y != l && f.strobe[y] == some x then { f1 with chips := x.values } else f1

/-- CHIP_STROBE (R177): a lane in the vote strobes a front-end at a chip boundary of global time, at most 2.5 µs after it. -/
def execChipStrobe (g : GroupId) (l : LaneId) (rx : RxChips) (s : State) : Host.Outcome State Fault Refusal :=
  let n := s.laneTime / chipTicks
  let v : BitVec 8 := match rx with
    | .asSent => s.chipValues g n
    | .values v => v
  .next (if s.active l ∧ s.laneTime % chipTicks ≤ 500 then s.modFe g fun f => f.strobed l { chip := n, values := v } else s)

/-- A channel can be probed: in CH_USED, with a code, and with a class or in teach-in, which learns R_COLD before there is a
fingerprint (R161, R179). -/
def State.hasProbe (s : State) (c : Chan) : Bool :=
  let p := s.lampParams
  (p.configured c || (p.used c && s.taught c)) && p.code c != 0xFFFF
/-- A group's level permits the probe in a code period (R179). -/
def State.probeLevel (s : State) (g : GroupId) (cpn : Nat) : Bool :=
  let lv := s.groups[g].level
  lv == 0 || (lv == 1 && cpn % 4 == 0)
/-- The probe runs on a channel in a lane in a code period (R179). -/
def State.probeOn (s : State) (l : LaneId) (c : Chan) (cpn : Nat) : Bool :=
  let cmd := s.lanes[l].inForce.cmd[c]
  s.hasProbe c && cmd != 2 && cmd != 3 && !s.isOn l c && s.probeLevel c.group cpn
/-- The code period that runs now. -/
def State.cpn (s : State) : Nat := s.laneTime / codePeriod
/-- PROBE_ENABLE is due (R176): DECAY has passed since the derived-off action point in every lane in the vote. -/
def State.probeDue (s : State) (c : Chan) : Bool :=
  s.mode.mode.runs && !s.fe[c.group].probeEn.getLsbD c.pos.val && !s.activeLanes.isEmpty &&
  s.activeLanes.all fun l => s.probeOn l c s.cpn && decide ((s.lanes[l].prov[c].offAt.getD 0) + s.lampParams.decayTicks c ≤ s.now)

/-- The sources of channels that can no longer be probed are disabled (R179), as where a parameter command or the end of a teach-in
takes CH_USED, CLASS or CODE from a channel. -/
def State.probeTrim (s : State) : State :=
  s.each (allGroups.filter fun g => s.fe[g].probeEn &&& ~~~(maskOf fun k => s.hasProbe (chanOf g k)) != 0) fun s g =>
    s.feWrite g (.probe (s.fe[g].probeEn &&& maskOf fun k => s.hasProbe (chanOf g k)))

/-- PROBE_ENABLE (R176). -/
def execProbeEnable (c : Chan) (s : State) : Host.Outcome State Fault Refusal :=
  .next (if s.probeDue c then s.feWrite c.group (.probe (s.fe[c.group].probeEn ||| only c.pos)) else s)

/-! ## Stretches of a code period -/

/-- A stretch over which a lane correlates: its start instant, its code period number, its first chip and its
chips, and the rate of lane time (R255). -/
structure CorrSpan where
  start : Nat
  cpn : Nat
  chip : Nat
  chips : Nat
  rate : Nat × Nat := (1, 1)
  deriving DecidableEq, Repr
/-- The first ticks of the stretch that n chips take. -/
def CorrSpan.span (k : CorrSpan) (n : Nat) : Nat := n * chipTicks * k.rate.2 / k.rate.1
/-- Where the stretch ends; and where the reference of R177 begins and ends, 2.5 µs later. -/
def CorrSpan.stop (k : CorrSpan) : Nat := k.start + k.span k.chips
def CorrSpan.refStart (k : CorrSpan) : Nat := k.start + 500
def CorrSpan.refStop (k : CorrSpan) : Nat := k.stop + 500
/-- The stretches in which a source has driven: those that have ended, and the one that lasts. -/
def FrontEnd.drives (f : FrontEnd) (k : Fin 8) (now : Nat) : List (Nat × Nat) :=
  (if f.probeActive.getLsbD k.val then [(f.probeSince[k], now)] else []) ++ (f.probePast.filter fun x => x.pos == k).map fun x => (x.start, x.stop)
/-- The source drove throughout from one instant to another. -/
def FrontEnd.droveAll (f : FrontEnd) (k : Fin 8) (now a b : Nat) : Bool :=
  decide (b ≤ a) || ((f.drives k now).map fun x => min x.2 b - max x.1 a).sum == b - a
/-- The source drove at any instant of a stretch. -/
def FrontEnd.droveIn (f : FrontEnd) (k : Fin 8) (now a b : Nat) : Bool := (f.drives k now).any fun x => decide (max x.1 a < min x.2 b)
/-- A channel was probed in a stretch. -/
def State.probedIn (s : State) (c : Chan) (k : CorrSpan) : Bool := s.hasProbe c && s.fe[c.group].droveIn c.pos s.now k.start k.stop
/-- The parts of a stretch that a run of majority tests, oldest first, leaves: from before each overlay to 200 µs after its end it is
interrupted (R67, R176). -/
def leftOf : List Nat → Nat → Nat → List (Nat × Nat)
  | [], a, b => [(a, b)]
  | m :: ms, a, b => (a, max a (min m b)) :: leftOf ms (max a (m + 46740)) b
/-- The source of a channel ran throughout a stretch; the majority tests in a lane's record interrupt it without a break (R183,
R184). -/
def State.ranThrough (s : State) (l : LaneId) (c : Chan) (k : CorrSpan) : Bool :=
  s.hasProbe c && (leftOf s.lanes[l].prov[c].majAt.reverse k.start k.stop).all fun x => s.fe[c.group].droveAll c.pos s.now x.1 x.2

/-! ## Correlation (R183) -/

/-- π/2 in units of 2^−40. -/
def halfPi : Nat := 1727108826179
/-- The sine of r / d of a quarter turn, in units of 2^−30, by ten terms of its series (notes/assumptions/121.md). -/
def sinQuarter (r d : Nat) : Int :=
  let x : Int := (halfPi * r / d : Nat)
  let q := x * x / 2 ^ 40
  ((List.range 10).foldl (fun (a : Int × Int) k =>
    let t := -(a.2 * q) / (2 ^ 40 * ((2 * k + 2) * (2 * k + 3) : Nat))
    (a.1 + t, t)) (x, x)).1 / 2 ^ 10
/-- The sine and cosine of n / d of a turn, in units of 2^−30. -/
def sinTurn (n d : Nat) : Int :=
  let r := 4 * (n % d) % d
  match 4 * (n % d) / d with
  | 0 => sinQuarter r d
  | 1 => sinQuarter (d - r) d
  | 2 => -sinQuarter r d
  | _ => -sinQuarter (d - r) d
def cosTurn (n d : Nat) : Int := sinTurn (4 * n + d) (4 * d)
/-- The group whose tracker gives the reference of R197: the group itself while its tracker is locked, else the lowest locked AC
group. -/
def State.iqRef (s : State) (g : GroupId) : Option GroupId :=
  let locked (x : GroupId) : Bool := s.params.isAc x && s.groups[x].feed.lock
  if locked g then some g else allGroups.find? locked
/-- The reference by its last counted crossing and its period, on the lanes' clock. -/
structure Mains where
  cross : Nat
  period : Nat
  deriving DecidableEq, Repr
def State.mains (s : State) (g : GroupId) : Option Mains :=
  (s.iqRef g).bind fun x => s.groups[x].feed.lastCross.map fun t => { cross := s.localOf t, period := s.localIn s.groups[x].feed.periodLen }
/-- How far into a mains period an instant lies. -/
def Mains.phase (m : Mains) (t : Nat) : Nat := (t + (m.period - m.cross % m.period)) % m.period
/-- A fine sample as a lane correlates it: its input instant, the ticks of its interval inside the stretch, and voltage and
current in 1/256 of their fine LSBs. -/
structure CorrSample where
  t : Nat
  w : Nat
  v : Int
  i : Int
  deriving DecidableEq, Repr
/-- The weight of a list of samples, and their weighted sum with a factor. -/
def weightOf (xs : List CorrSample) : Nat := (xs.map (·.w)).sum
def sumOf (xs : List CorrSample) (f : CorrSample → Int) : Int := (xs.map fun x => x.w * f x).sum
/-- The mean is removed. -/
def removeMean (xs : List CorrSample) : List CorrSample :=
  let n := weightOf xs
  let v := roundDiv (sumOf xs (·.v)) n
  let i := roundDiv (sumOf xs (·.i)) n
  xs.map fun x => { x with v := x.v - v, i := x.i - i }
/-- Harmonic h of the mains, estimated over the samples, is removed (notes/assumptions/121.md). -/
def removeHarmonic (m : Mains) (xs : List CorrSample) (h : Nat) : List CorrSample :=
  let sn (x : CorrSample) : Int := sinTurn (h * m.phase x.t) m.period
  let cs (x : CorrSample) : Int := cosTurn (h * m.phase x.t) m.period
  let est (f : CorrSample → Int) : Int := roundDiv (2 * sumOf xs f) (weightOf xs * 2 ^ 30)
  let vs := est fun x => x.v * sn x
  let vc := est fun x => x.v * cs x
  let is_ := est fun x => x.i * sn x
  let ic := est fun x => x.i * cs x
  xs.map fun x => { x with v := x.v - roundDiv (vs * sn x + vc * cs x) (2 ^ 30), i := x.i - roundDiv (is_ * sn x + ic * cs x) (2 ^ 30) }
/-- The removed components of R183: the mean, and with a reference the mains fundamental and harmonics 2 to 15. -/
def removed (m : Option Mains) (xs : List CorrSample) : List CorrSample :=
  match m with
  | some m => ((List.range 15).map (· + 1)).foldl (removeHarmonic m) (removeMean xs)
  | none => removeMean xs
/-- Ticks of a sample's interval under chips +1, less those under chips −1, of a code delayed as R177 states. -/
def CorrSpan.chipTicksOf (k : CorrSpan) (u code t : Nat) : Int :=
  let a := max (t - 1280) k.refStart
  let b := min (t + 1280) k.refStop
  let j := (a - k.refStart) * k.rate.1 / k.rate.2 / chipTicks
  let e := min b (max a (k.refStart + k.span (j + 1)))
  let sign (n : Nat) : Int := if goldBit u code ((k.chip + n) % 1023) then 1 else -1
  (e - a : Nat) * sign j + (b - e : Nat) * sign (j + 1)
/-- The weighted mean of a quantity against a code, times a scale. -/
def CorrSpan.corr (k : CorrSpan) (code : Nat) (xs : List CorrSample) (f : CorrSample → Int) (scale : Nat) : Int :=
  let u := goldU
  roundDiv ((xs.map fun x => k.chipTicksOf u code x.t * f x).sum * scale) (weightOf xs * 2 ^ 31)
/-- What a lane forms of one channel over a stretch: its samples with the mains components removed, all of them and those
of weight 0, the own-code correlations of voltage in µV and current in nA, the mains components in µV (R197), and whether a
spare stood in, a sample carried OVR, or was taken with REFS clear. -/
structure ChanCorr where
  ch : Chan
  xs : List CorrSample := []
  n : Nat := 0
  n0 : Nat := 0
  vcorr : Int := 0
  icorr : Int := 0
  vI : Int := 0
  vQ : Int := 0
  spare : Bool := false
  ovr : Bool := false
  refNs : Bool := false
  deriving DecidableEq, Repr
/-- A majority-test overlay excludes a sample, until 200 µs after its end (R183). -/
def majSkips (a : Proving) (t : Nat) : Bool := a.majAt.any fun t0 => decide (t0 ≤ t) && decide (t ≤ t0 + 6740 + 40000)
/-- √2 times the mean of a quantity over the whole mains periods of a stretch, the first starting with a crossing (R197). -/
def CorrSpan.mainsMean (k : CorrSpan) (m : Mains) (xs : List CorrSample) (f : CorrSample → Int) : Int :=
  let a := k.start + (m.period - m.phase k.start) % m.period
  let b := a + (k.stop - a) / m.period * m.period
  let ys := xs.filterMap fun x => if 0 < overlap x.t a b then some { x with w := overlap x.t a b } else none
  roundDiv (sumOf ys f * (250000000 * 1414213562)) (weightOf ys * (2 ^ 61 * 1000000000))
/-- A lane's correlation of a channel over a stretch (R183, R197). -/
def State.corrRow (s : State) (l : LaneId) (k : CorrSpan) (c : Chan) : ChanCorr :=
  let f := s.fe[c.group]
  let u := s.groups[c.group].under
  let rows := s.lanes[l].grp[c.group].fineIn k.refStart k.refStop
  let good := rows.filterMap fun r =>
    if majSkips s.lanes[l].prov[c] r.t then none
    else match f.fineVal r (u.voltFine c.pos r.t), f.fineVal r (u.currFine c.pos r.t) with
      | some v, some i => some (r, v, i)
      | _, _ => none
  let raw : List CorrSample := good.map fun e => { t := e.1.t, w := overlap e.1.t k.refStart k.refStop, v := 256 * e.2.1.1, i := 256 * e.2.2.1 }
  let m := s.mains c.group
  let xs := removed m raw
  let code := s.lampParams.code c
  { ch := c
    xs := xs
    n := rows.length
    n0 := rows.length - good.length
    vcorr := k.corr code xs (·.v) 250000000
    icorr := k.corr code xs (·.i) 40000000000
    vI := (m.map fun m => k.mainsMean m raw fun x => x.v * sinTurn (m.phase x.t) m.period).getD 0
    vQ := (m.map fun m => k.mainsMean m raw fun x => x.v * cosTurn (m.phase x.t) m.period).getD 0
    spare := rows.any fun r => u.voltFine c.pos r.t == 16 || u.currFine c.pos r.t == 17
    ovr := good.any fun e => e.2.1.2 || e.2.2.2
    refNs := rows.any (·.ns) }
/-- A fast voltage sample of a stretch reached V_T (R194). -/
def State.vtSeen (s : State) (l : LaneId) (c : Chan) (k : CorrSpan) : Bool :=
  let u := s.groups[c.group].under
  s.lanes[l].grp[c.group].fast.any fun r => r.n % 64 == 0 && decide (k.start ≤ r.t) && decide (r.t < k.stop) &&
    (s.fe[c.group].fastVal r (u.voltFast c.pos r.t)).any fun v => v.2 || decide ((s.lampParams.foreignV c * 2 ^ 15) ^ 2 ≤ 2 * (v.1.natAbs * 250) ^ 2)
/-- The fine samples that a stretch holds at the rate of a front-end's FIELD clock. -/
def LaneGroup.fineCount (B : LaneGroup) (k : CorrSpan) : Nat := (k.stop - k.start) * B.rate.2 / (256 * B.rate.1)
/-- A stretch is valid for a channel (R183): the source ran throughout, no sample reached V_T, and at most 1 % of its samples had
weight 0, those that the lane did not compute among them. -/
def State.corrValid (s : State) (l : LaneId) (r : ChanCorr) (k : CorrSpan) : Bool :=
  let n := max r.n ((s.lanes[l].grp[r.ch.group]).fineCount k)
  s.ranThrough l r.ch k && !s.vtSeen l r.ch k && decide (r.n0 < r.n) && decide (99 * n ≤ 100 * (r.n - r.n0))
/-- The voltage correlation of a row against the code of a channel, in µV. -/
def corrV (p : ParamImage) (k : CorrSpan) (r : ChanCorr) (j : Chan) : Int :=
  if j = r.ch then r.vcorr else k.corr (p.code j) r.xs (·.v) 250000000
/-- R_meas in 0.1 Ω, nearest (R184); µV over nA is kΩ. -/
def corrR (r : ChanCorr) : Int := if r.icorr ≤ 0 then 0 else roundDiv (r.vcorr * 10000) r.icorr.toNat
/-- The coupling entry C[i][j] in 0.1 Ω, with the leak of the victim's own probe removed (R184, R191); none while the
source's own current is not positive. -/
def couplingEntry (p : ParamImage) (k : CorrSpan) (ri rj : ChanCorr) : Option Int :=
  if rj.icorr ≤ 0 then none
  else some (roundDiv ((corrV p k ri rj.ch * k.chips - codeCorr (p.code ri.ch) (p.code rj.ch) k.chip k.chips * ri.vcorr) * 10000) (k.chips * rj.icorr.toNat))
/-- R_meas lies below, or above, the cold band: COLD_LO and COLD_HI in ‰ of R_COLD, R_COLD in 0.1 Ω (R186). -/
def coldLow (p : ParamImage) (r : ChanCorr) : Bool := decide (r.vcorr * 10000000 < (p.rCold r.ch * p.coldLo r.ch : Nat) * r.icorr)
def coldHigh (p : ParamImage) (r : ChanCorr) : Bool := decide ((p.rCold r.ch * p.coldHi r.ch : Nat) * r.icorr < r.vcorr * 10000000)
/-- The own-code verdict of a period before the rule of the probe source (R186). -/
def verdictOf (p : ParamImage) (r : ChanCorr) (valid : Bool) (offAt start : Nat) : Verdict :=
  if !valid then .unavailable
  else if r.icorr < 90000 * (p.probeI r.ch : Int) then .failedCompliance
  else if coldLow p r then .failedLow
  else if coldHigh p r then
    (if (p.cls r.ch = 1 ∨ p.cls r.ch = 2) ∧ start < offAt + p.coolTime r.ch * 20000000 ∧ r.vcorr * 10000 ≤ (12 * p.rCold r.ch : Nat) * r.icorr
     then .cooling else .failedHigh)
  else .intact
/-- A verdict is FAILED, with its cause. -/
def Verdict.failed : Verdict → Option Cause
  | .failedHigh => some .high
  | .failedLow => some .low
  | .failedCompliance => some .compliance
  | _ => none

/-! ## Continuity (R186 to R188) -/

/-- A verdict is entered: OPEN_CIRCUIT after OC_COUNT failures in a row, withdrawn after as many INTACT ones. Only verdicts of
the present dark interval count (R187). -/
def State.verdict (s : State) (l : LaneId) (c : Chan) (v : Verdict) (start stop : Nat) : State :=
  let n := s.lampParams.ocCount c
  let b := s.lanes[l].prob[c]
  let counts := !s.isOn l c && decide (s.lanes[l].prov[c].offAt.getD 0 ≤ start)
  let bad := counts && v.failed.isSome
  let good := counts && v == .intact
  let fr := if bad then b.failRun + 1 else if good then 0 else b.failRun
  let ir := if good then b.intactRun + 1 else if bad then 0 else b.intactRun
  let oc := if bad ∧ n ≤ fr then true else if good ∧ n ≤ ir then false else b.openCircuit
  let s1 := s.modProb l c fun b => { b with
    verdict := v, verdictStart := start, verdictEnd := stop, failRun := fr, intactRun := ir, openCircuit := oc
    ocCause := if oc then v.failed.getD b.ocCause else b.ocCause }
  let s2 := if v = .intact ∧ b.sourceFault then
      (s1.modProb l c fun b => { b with sourceFault := false }).withdrawFault FaultCode.probeSource [c.val] (only l) else s1
  s2.noteChan l c
/-- The verdict of one row, for every channel that was probed in the period (R186, R188), and what a teach-in takes from it
(R161). -/
def State.judgeRow (s : State) (l : LaneId) (r : ChanCorr) (k : CorrSpan) : State :=
  let c := r.ch
  if s.probedIn c k then
    let ok := s.corrValid l r k
    let v := verdictOf s.lampParams r ok (s.lanes[l].prov[c].offAt.getD 0) k.start
    let bad := v == .failedCompliance && decide (r.vcorr.natAbs < 8000000)
    let s1 := s.modProb l c fun b => { b with rMeas := (corrR r).toNat }
    let s2 := if bad then (s1.modProb l c fun b => { b with sourceFault := true }).fault FaultCode.probeSource [c.val] (only l) else s1
    let s3 := if ok && s.teachCold c k.start then
        s2.modLane l fun L => { L with teach := L.teach.set c.group { L.teach[c.group] with colds := (corrR r).toNat :: (L.teach[c.group]).colds } } else s2
    s3.verdict l c (if bad then .unavailable else v) k.start k.stop
  else s

/-! ## The coupling matrix (R189, R190) -/

/-- A lane's remembered entry is replaced by a newer available value, with its runs against the threshold. -/
def State.couple (s : State) (l : LaneId) (i j : Chan) (v : Int) (diag : Int) (cpn : Nat) : State :=
  let old := (s.lanes[l].coupling i j).getD {}
  let hit := i ≠ j ∧ crossAt s.lampParams i v diag
  let e : Coupling := { val := v, cpn := cpn, hits := if hit then old.hits + 1 else 0, misses := if hit then 0 else old.misses + 1, cross := old.cross }
  let cr := if 2 ≤ e.hits then true else if 2 ≤ e.misses then false else old.cross
  let s1 := s.modLane l fun L => { L with matrix := (96 * i.val + j.val, { e with cross := cr }) :: L.matrix.filter fun x => x.1 != 96 * i.val + j.val }
  if cr ∧ !old.cross then s1.fault FaultCode.cross [i.val, j.val] (only l)
  else if old.cross ∧ !cr then s1.withdrawFault FaultCode.cross [i.val, j.val] (only l)
  else s1
/-- The entries of one victim's row: available while the period is valid for the victim and the source's probe ran
throughout it (R184). -/
def State.coupleRow (s : State) (l : LaneId) (rows : List ChanCorr) (ri : ChanCorr) (k : CorrSpan) : State :=
  if s.corrValid l ri k then
    let s1 := s.couple l ri.ch ri.ch (corrR ri) (corrR ri) k.cpn
    s1.each rows fun t rj =>
      if rj.ch ≠ ri.ch ∧ s.ranThrough l rj.ch k then
        (match couplingEntry s.lampParams k ri rj with
          | some v => t.couple l ri.ch rj.ch v (corrR ri) k.cpn
          | none => t)
      else t
  else s

/-! ## In-phase and quadrature (R197, R198) -/

/-- Resistive and capacitive currents exceed their allowances: R as a fraction num / den in 0.1 Ω, voltages in µV. -/
def resOver (p : ParamImage) (c : Chan) (vI vQ : Int) (num den : Nat) : Bool :=
  decide ((p.resAllow c * 200 * num) ^ 2 < (10 * den) ^ 2 * (vI.natAbs ^ 2 + (min vQ 0).natAbs ^ 2))
def capOver (p : ParamImage) (c : Chan) (vQ : Int) (num den : Nat) : Bool :=
  decide (((max (p.capAllow c * 200) 500 * num : Nat) : Int) < 10 * (den : Int) * vQ)
/-- A channel was dark in a lane throughout a period that its group measures. -/
def State.darkThrough (s : State) (l : LaneId) (c : Chan) (k : CorrSpan) : Bool :=
  !s.isOn l c && decide (s.lanes[l].prov[c].offAt.getD 0 ≤ k.start) && s.probeLevel c.group k.cpn
/-- The mains rules on a dark channel's period. -/
def State.iqRow (s : State) (l : LaneId) (r : ChanCorr) (k : CorrSpan) : State :=
  let c := r.ch
  let p := s.lampParams
  if !s.darkThrough l c k || !p.configured c then s
  else
    match s.iqRef c.group with
    | none =>
      let s1 := s.modProb l c fun b => { b with iqRaised := true, resRun := 0, capRun := 0 }
      if s.lanes[l].prob[c].iqRaised then s1 else s1.note EventCode.iqUnref [c.val] [] l.val
    | some _ =>
      let b := s.lanes[l].prob[c]
      let intact := b.verdict == .intact && b.verdictStart == k.start && decide (0 < r.icorr) && decide (0 < r.vcorr)
      let num := if intact then r.vcorr.natAbs * 10000 else p.rCold c
      let den := if intact then r.icorr.natAbs else 1
      let res := if resOver p c r.vI r.vQ num den then b.resRun + 1 else 0
      let cap := if capOver p c r.vQ num den then b.capRun + 1 else 0
      let s1 := s.modProb l c fun b => { b with resRun := res, capRun := cap }
      if s.lanes[l].prov[c].foreign then s1
      else if 2 ≤ res then s1.decideForeign l c .resistive
      else if 2 ≤ cap then s1.decideForeign l c .capacitive
      else s1

/-! ## Period and partial ends -/

/-- FLAGS of a matrix row (R193). -/
def rowFlagsOf (valid : Bool) (r : ChanCorr) (noRef : Bool) : Nat := bit valid 0 + bit r.spare 1 + bit r.ovr 2 + bit r.refNs 3 + bit noRef 4
/-- A lane takes over the period's results of a lane that was in the vote throughout (R204). -/
def LaneState.adoptProbe (L src : LaneState) : LaneState :=
  { L with prob := Vector.ofFn fun c => { src.prob[c] with driftOut := L.prob[c].driftOut, driftIn := L.prob[c].driftIn }
           matrix := src.matrix
           prov := Vector.ofFn fun c => { L.prov[c] with foreign := src.prov[c].foreign, forCause := src.prov[c].forCause, source := src.prov[c].source } }
/-- A lane was in the vote throughout a stretch. -/
def State.inVoteThrough (s : State) (l : LaneId) (start : Nat) : Bool := s.active l && decide (s.lanes[l].inVoteSince ≤ start)
/-- What a lane's matrix row shows of a channel's period (R193): a channel that was not probed has verdict 6 and no current, one
that was not dark throughout, or has no reference, no mains voltage. -/
def Probing.row (b : Probing) (probed dark noRef : Bool) (flags : Nat) (r : ChanCorr) : Probing :=
  { b with rowFlags := flags, rowVerdict := if probed then b.verdict.code else 6, ipMeas := if probed then r.icorr else 0
           vI := if dark && !noRef then r.vI else 0, vQ := if dark && !noRef then r.vQ else 0 }
/-- A lane's own results of a code period. -/
def State.periodRows (s : State) (l : LaneId) (k : CorrSpan) : State :=
  let rows := allChans.map (s.corrRow l k)
  let s1 := s.each rows fun s r => s.judgeRow l r k
  let s2 := s1.each rows fun s r => s.coupleRow l rows r k
  let s3 := s2.each rows fun s r => s.iqRow l r k
  s3.each rows fun t r =>
    let noRef := (s.iqRef r.ch.group).isNone
    t.modProb l r.ch fun b => b.row (s.probedIn r.ch k) (s.darkThrough l r.ch k) noRef (rowFlagsOf (s.corrValid l r k) r noRef) r
/-- The matrix rows that a period makes due (R192). -/
def State.rowsDue (s : State) (cpn : Nat) : State :=
  if s.act.matrixDiv ≠ 0 ∧ cpn % s.act.matrixDiv = 0 then
    { s with act := { s.act with matrixDue := (members s.act.matrixMask).map fun c => (cpn, c) } } else s
/-- The code period of which a lane has not yet judged the end. -/
def State.endedPeriod (s : State) (l : LaneId) : Option CorrSpan :=
  let n := s.cpn
  if 1 ≤ n ∧ s.lanes[l].cpnDone ≠ some (n - 1) then
    some { start := s.localOf ((n - 1) * codePeriod), cpn := n - 1, chip := 0, chips := 1023, rate := s.clockRate }
  else none

/-- At P1 the sources of a group stop where a code period begins in which its probe does not run (R179). -/
def State.periodStops (s : State) : State :=
  s.each (allGroups.filter fun g => s.groups[g].level == 1 && s.cpn % 4 != 0 && s.fe[g].probeEn != 0) fun s g => s.feWrite g (.probe 0)
/-- A lane ends a code period (R186): in the vote throughout, with its own results; else with those of a lane that was, once
that lane has them (R204). -/
def State.periodEnd (s : State) (l : LaneId) (k : CorrSpan) : State :=
  let s1 := s.modLane l fun L => { L with cpnDone := some k.cpn }
  if s.inVoteThrough l k.start then s1.periodRows l k
  else match allLanes.find? fun x => s.inVoteThrough x k.start with
    | some x => if s.lanes[x].cpnDone = some k.cpn then s1.modLane l fun L => L.adoptProbe s1.lanes[x] else s
    | none => s1

/-- CODE_PERIOD_END (R186): once for each lane and period, in a mode with the probe (R371); the supplying lane sends what follows from the boundary. -/
def execCodePeriodEnd (l : LaneId) (s : State) : Host.Outcome State Fault Refusal :=
  .next (match s.endedPeriod l with
    | some k =>
      if s.active l ∧ s.mode.mode.runs then
        let s1 := s.periodEnd l k
        if s.supplier = some l ∧ s1.lanes[l].cpnDone = some k.cpn then (s1.rowsDue k.cpn).periodStops else s1
      else s
    | none => s)

/-- The partial window before the one that runs now: windows 0 to 6 hold 128 chips, window 7 holds 127 (R191). -/
def State.endedPartial (s : State) (l : LaneId) : Option CorrSpan :=
  let chip := s.laneTime % codePeriod / chipTicks
  let idx := 8 * s.cpn + min (chip / 128) 7
  if idx = 0 ∨ s.lanes[l].partDone = some (idx - 1) then none
  else
    let w := (idx - 1) % 8
    let n := if w = 7 then 127 else 128
    some { start := s.localOf ((idx - 1) / 8 * codePeriod + 128 * w * chipTicks), cpn := (idx - 1) / 8, chip := 128 * w, chips := n, rate := s.clockRate }
/-- A partial entry reaches four times the threshold of R189. -/
def crossEarlyAt (p : ParamImage) (i : Chan) (v diag : Int) : Bool := decide (80 ≤ v) && decide (4 * (p.crossFrac i : Int) * diag ≤ 100 * v)
/-- Early warnings of one row; a window in which the channel's probe did not run breaks the run of windows out of band. -/
def State.partialRow (s : State) (l : LaneId) (rows : List ChanCorr) (r : ChanCorr) (k : CorrSpan) : State :=
  if s.corrValid l r k then
    let p := s.lampParams
    let out := coldLow p r || coldHigh p r
    let n := if out then s.lanes[l].prob[r.ch].coldOut + 1 else 0
    let s1 := s.modProb l r.ch fun b => { b with coldOut := n }
    let s2 := if n = 2 then s1.note EventCode.coldEarly [r.ch.val] [] l.val else s1
    s2.each rows fun t rj =>
      if rj.ch ≠ r.ch ∧ s.ranThrough l rj.ch k then
        let hit := (couplingEntry p k r rj).any fun v => crossEarlyAt p r.ch v (corrR r)
        let key := 96 * r.ch.val + rj.ch.val
        let had := t.lanes[l].earlyCross.contains key
        if hit && !had then (t.modLane l fun L => { L with earlyCross := key :: L.earlyCross }).note EventCode.crossEarly [r.ch.val, rj.ch.val] [] l.val
        else if had && !hit then t.modLane l fun L => { L with earlyCross := L.earlyCross.filter (· != key) }
        else t
      else t
  else s.modProb l r.ch fun b => { b with coldOut := 0 }

/-- PARTIAL_WINDOW_END (R191): for a lane that was in the vote since the code period began (R204), in a mode with the probe (R371). -/
def execPartialWindowEnd (l : LaneId) (s : State) : Host.Outcome State Fault Refusal :=
  .next (match s.endedPartial l with
    | some k =>
      let s1 := s.modLane l fun L => { L with partDone := some (8 * k.cpn + k.chip / 128) }
      if s.inVoteThrough l (s.localOf (k.cpn * codePeriod)) ∧ s.mode.mode.runs then
        let rows := (allChans.filter fun c => s.probedIn c k).map (s.corrRow l k)
        (s1.each (allChans.filter fun c => !s.probedIn c k) fun s c => s.modProb l c fun b => { b with coldOut := 0 }).each rows fun s r => s.partialRow l rows r k
      else s1
    | none => s)

/-! ## Matrix rows (R192, R193) -/

/-- ENTRY j of a row: in 0.5 Ω, clamped, 0x8000 where not available in the period. -/
def rowEntry (L : LaneState) (i j : Chan) (cpn : Nat) : Nat :=
  match L.coupling i j with
  | some e => if e.cpn = cpn then tc 16 (clamp (roundDiv e.val 5) 0x7FFF).1 else 0x8000
  | none => 0x8000
/-- The 208 octets of a matrix row. -/
def State.matrixRow (s : State) (l : LaneId) (i : Chan) (cpn : Nat) : Bytes :=
  let L := s.lanes[l]
  let b := L.prob[i]
  toLe 4 cpn ++ toLe 1 i.val ++ toLe 1 l.val ++ toLe 1 b.rowFlags ++ toLe 1 b.rowVerdict ++
  toLe 2 s.act.matrixDropped.toNat ++ toLeInt 2 (roundDiv b.ipMeas 1000) ++ toLeInt 2 (roundDiv b.vI 10000) ++ toLeInt 2 (roundDiv b.vQ 10000) ++
  allChans.flatMap fun j => toLe 2 (rowEntry L i j cpn)

/-- MATRIX_ROW_SEND (R192): the next selected row of the period goes to Q15; a row that finds no room is discarded
and counted. -/
def execMatrixRowSend (s : State) : Host.Outcome State Fault Refusal :=
  .next (match s.act.matrixDue, s.supplier with
    | (cpn, i) :: rest, some l =>
      let row := s.matrixRow l i cpn
      let room := s.mail.rings[(15 : RingId)].room (8 + row.length) || (s.subscribers 15).isEmpty
      let s1 := s.post 15 0x0F05 row
      { s1 with act := { s1.act with matrixDue := rest, matrixDropped := if room then 0 else if s1.act.matrixDropped = 0xFFFF then 0xFFFF else s1.act.matrixDropped + 1 } }
    | _, _ => s)

end Sys2Proof.Machine
end

