-- ==== Sys2Proof/Machine/Understorey.lean ====
section
/-!
DEFINITION. Background calibration under load: loans and handoffs of the spares (R119 to R126), in-place calibration and direct
release (R127, R128), the six-second guarantee (R129), failed steps (R130 to R132), Coppice windows (R133) and the bringing home
of loans (R134).
-/

namespace Sys2Proof.Machine

/-! ## Coefficients (R122) -/

/-- E, 80 % of full scale. -/
def calE : Nat := 6710886
/-- The pair a lane derives from its sums of ZERO and REF outputs; none without outputs or with a REF mean at or below
OFFSET. -/
def calPair (m : CalMeas) : Option Coef :=
  if m.zeroN = 0 ∨ m.refN = 0 then none else
  let off := roundDiv m.zeroSum m.zeroN
  let den := m.refSum - off * m.refN
  if den ≤ 0 then none else some { offset := off, gain := (roundDiv (calE * 2 ^ 22 * m.refN : Nat) den.toNat).toNat }
/-- The pair on which at least two lanes in the vote agree bit for bit. -/
def agreedPair (ms : List CalMeas) (vote : LaneMask) : Option Coef :=
  let own : List (LaneId × Coef) := (ms.filter fun (m : CalMeas) => has vote m.lane).filterMap fun m => (calPair m).map fun k => (m.lane, k)
  (own.find? fun (x : LaneId × Coef) => own.any fun y => y.1 != x.1 && y.2 == x.2).map (·.2)
/-- The lanes in the vote whose pair differs from an agreed one. -/
def pairDissent (ms : List CalMeas) (vote : LaneMask) (k : Coef) : LaneMask :=
  maskOf fun l => has vote l && (ms.any fun m => m.lane == l && calPair m != some k)
/-- A lane's corrected means of ZERO and REF lie within the limits of the arbitration (R131). -/
def arbitrates (k : Coef) (m : CalMeas) : Bool :=
  if m.zeroN = 0 ∨ m.refN = 0 then false else
  let z := roundDiv ((m.zeroSum - k.offset * m.zeroN) * k.gain) (m.zeroN * 2 ^ 22)
  let r := roundDiv ((m.refSum - k.offset * m.refN) * k.gain) (m.refN * 2 ^ 22)
  decide (z.natAbs ≤ 839) && decide ((r - calE).natAbs ≤ 1678)
/-- CAL_LANE_DISAGREE stands for the lanes that differ from two others, and ends for those that agree (R132). -/
def State.laneDissent (s : State) (g : GroupId) (differ agree : LaneMask) : State :=
  s.each allLanes fun t l =>
    if has differ l then t.fault FaultCode.calLaneDisagree [g.val, l.val] s.voteMask
    else if has agree l then t.withdrawFault FaultCode.calLaneDisagree [g.val, l.val] else t
/-- The sums of a modulator whose REF step ends now, of the lanes that computed its outputs throughout. -/
def State.calSums (s : State) (g : GroupId) (m : Modulator) (zeroEnd : Nat) : List CalMeas :=
  (s.activeLanes.filter fun l => (s.lanes[l].grp[g]).ranSince (zeroEnd - 10000000)).map fun l => s.calMeas l g m zeroEnd s.now
/-- What the end of a REF step brings (R122, R133). -/
inductive CalVerdict where
  | wait | adopt (k : Coef) | reject | again
  deriving DecidableEq, Repr
/-- A pair on which two lanes agree may be adopted: in range, the reference held, and CMPREF results in the REF step, all within
their limit. -/
def adoptable (k : Coef) (held : Bool) (cmpref : List Bool) : Bool := calInRange k && held && !cmpref.isEmpty && cmpref.all (· == true)
/-- The end of a REF step: with no CMPREF result yet it is extended by up to 40 ms; a disagreement in a Coppice window repeats the
step, lanes that alike derive no pair reject it. -/
def State.calVerdict (s : State) (g : GroupId) (m : Modulator) (zeroAt zeroEnd refAt : Nat) : CalVerdict :=
  let res := (s.groups[g].watch.cmpref.filter fun e => decide (refAt ≤ e.1)).map (·.2)
  if res.isEmpty ∧ s.now < refAt + 100 * Config.ms then .wait
  else match agreedPair (s.calSums g m zeroEnd) s.voteMask with
    | some k => if adoptable k (s.fe[g].refs && decide (s.fe[g].refSetAt ≤ zeroAt)) res then .adopt k else .reject
    | none => if s.coppice.step ≠ 0 && (s.calSums g m zeroEnd).any (fun q => (calPair q).isSome) then .again else .reject
/-- The lanes that differ from the agreed pair of a REF step, and those that do not, are reported. -/
def State.calDissent (s : State) (g : GroupId) (m : Modulator) (zeroEnd : Nat) : State :=
  let ms := s.calSums g m zeroEnd
  match agreedPair ms s.voteMask with
  | some k => s.laneDissent g (pairDissent ms s.voteMask k) (s.voteMask &&& ~~~pairDissent ms s.voteMask k)
  | none => s

/-! ## Compares (R123) -/

/-- The outcome of a compare over the lanes in the vote. -/
structure CmpVerdict where
  out : CmpOutcome
  differ : LaneMask
  agree : LaneMask
  split : Bool
  deriving DecidableEq, Repr
/-- Two lanes agree on an outcome, or none do once each has one: then the compare is treated as failed (R132). -/
def cmpVerdict (xs : List (LaneId × CmpOutcome)) : CmpVerdict :=
  let n (o : CmpOutcome) : Nat := xs.countP fun x => x.2 == o
  let lanes (o : CmpOutcome) : LaneMask := maskOf fun l => xs.any fun x => x.1 == l && x.2 == o
  if 2 ≤ n .passes then { out := .passes, differ := lanes .fails, agree := lanes .passes, split := false }
  else if 2 ≤ n .fails then { out := .fails, differ := lanes .passes, agree := lanes .fails, split := false }
  else if n .running ≠ 0 ∨ xs.isEmpty then { out := .running, differ := 0, agree := 0, split := false }
  else { out := .fails, differ := 0, agree := 0, split := true }
/-- The verdict on a compare of two modulators, the outgoing or live one first. -/
def State.cmpNow (s : State) (g : GroupId) (out inc : Modulator) (since : Nat) (passed : Bool) : CmpVerdict :=
  cmpVerdict (s.activeLanes.map fun l => (l, s.cmpOutcome l g out inc since passed))

/-! ## Loans -/

/-- The loan of a spare. -/
def Understorey.loan (u : Understorey) : Spare → Loan
  | .volt => u.volt
  | .curr => u.curr
/-- An update of a group's Understorey state, and of a spare's loan. -/
def State.modUnder (s : State) (g : GroupId) (f : Understorey → Understorey) : State := s.modGroup g fun G => { G with under := f G.under }
def State.modLoan (s : State) (g : GroupId) (sp : Spare) (f : Loan → Loan) : State :=
  s.modUnder g fun u => match sp with
    | .volt => { u with volt := f u.volt }
    | .curr => { u with curr := f u.curr }
/-- The modulator index of a spare (R72). -/
def spareIdx : Spare → Modulator
  | .volt => 16
  | .curr => 17
/-- The spare of a live modulator's type. -/
def spareOf (m : Modulator) : Spare := if m.val < 8 then .volt else .curr
/-- A modulator's input connection is written (R120). -/
def State.connect (s : State) (g : GroupId) (m : Modulator) (x : ModInput) : State := s.feWrite g (.modInput m x)
/-- A loan's step begins. -/
def Loan.enter (x : Loan) (k : LoanStep) (now : Nat) : Loan := { x with step := k, since := now, passedAt := none, again := false }
def State.enterStep (s : State) (g : GroupId) (sp : Spare) (k : LoanStep) : State := s.modLoan g sp fun x => x.enter k s.now
/-- The modulators a spare serves (R119): its type, positions in CH_USED, not convicted. -/
def State.served (s : State) (g : GroupId) (sp : Spare) : List Modulator :=
  ((List.finRange 8).filter fun k => (s.params.chUsed g).getLsbD k.val).filterMap fun (k : Fin 8) =>
    let m : Modulator := match sp with
      | .volt => ⟨k.val, by omega⟩
      | .curr => ⟨8 + k.val, by omega⟩
    if has s.groups[g].under.convicted m then none else some m
/-- The modulators of a spare's round from now on (R129, R130): what is left of the present round, or a new round, with the
abandoned modulators at its head and the others in order of position. -/
def roundOf (ms queue retry : List Modulator) : List Modulator :=
  match queue.filter ms.contains with
  | [] => retry.filter ms.contains ++ ms.filter fun m => !retry.contains m
  | q => q
/-- A new round begins with the next loan. -/
def newRound (ms queue : List Modulator) : Bool := (queue.filter ms.contains).isEmpty
/-- The modulator whose last adoption is oldest (R134). -/
def State.oldest (s : State) (g : GroupId) (ms : List Modulator) : Option Modulator :=
  ms.foldl (fun b m => match b with
    | none => some m
    | some x => if s.groups[g].under.adoptedAt[m] < s.groups[g].under.adoptedAt[(x : Modulator)] then some m else some x) none
/-- The channel behind a live modulator. -/
def modChan (g : GroupId) (m : Modulator) : Chan := chanOf g ⟨m.val % 8, by omega⟩
/-- A channel of the loan is dark in the lanes. -/
def State.darkNow (s : State) (c : Chan) : Bool := !s.anyOn c
/-- A modulator is convicted (R131, R132). -/
def State.convict (s : State) (g : GroupId) (m : Modulator) : State :=
  (s.modUnder g fun u => { u with convicted := u.convicted ||| only m }).fault FaultCode.modFault [g.val, m.val] s.voteMask
/-- A spare that stays the source for a convicted modulator leaves the rotation (R131). -/
def State.spareStays (s : State) (g : GroupId) (sp : Spare) : State := s.modLoan g sp fun x => { x.enter .idle s.now with dead := true }
/-- RELEASE begins: the spare is disconnected. -/
def State.release (s : State) (g : GroupId) (sp : Spare) : State := (s.connect g (spareIdx sp) .off).enterStep g sp .release
/-- A loan abandoned before HANDOFF_OUT (R130): the spare goes through RELEASE, and the modulator to the head of the next
round. -/
def State.abandonLoan (s : State) (g : GroupId) (sp : Spare) : State :=
  (s.modLoan g sp fun x => { x with retry := x.retry ++ [x.target] }).release g sp
/-- A pair is adopted for a modulator (R117, R122): its age counts anew, and CAL_OVERDUE ends. -/
def State.adoptPair (s : State) (g : GroupId) (m : Modulator) (k : Coef) : State :=
  (s.modUnder g fun u => { u with
    coef := u.coef.set m k, adoptedAt := u.adoptedAt.set m s.now, rejects := u.rejects.set m 0, overdue := u.overdue &&& ~~~(only m) }).withdrawFault
      FaultCode.calOverdue [g.val, m.val]
/-- A derivation is rejected (R132): CAL_RANGE, and the second in a row convicts the modulator. -/
def State.rejectPair (s : State) (g : GroupId) (m : Modulator) : State :=
  let n := s.groups[g].under.rejects[m] + 1
  let s1 := (s.modUnder g fun u => { u with rejects := u.rejects.set m n }).note EventCode.calRange [g.val, m.val]
  if 2 ≤ n then s1.convict g m else s1
/-- CAL_SHADOW names group, modulator and spare (R131); the cause of the failure is kept, the event's table giving it no octet. -/
def State.calShadow (s : State) (g : GroupId) (m sp : Modulator) (why : CmpFail) : State :=
  (s.modUnder g fun u => { u with cmpFail := u.cmpFail.set m why }).note EventCode.calShadow [g.val, m.val, sp.val]
/-- ZERO begins for the released modulator, and RECONNECT. -/
def State.startZero (s : State) (g : GroupId) (sp : Spare) : State :=
  ((s.connect g (s.groups[g].under.loan sp).target .zero).enterStep g sp .zero).modLoan g sp fun x => { x with zeroAt := s.now }
def State.reconnect (s : State) (g : GroupId) (sp : Spare) : State :=
  (s.connect g (s.groups[g].under.loan sp).target .own).enterStep g sp .reconnect
/-- A step that measures with the spare itself begins (R126, R131): on ZERO. -/
def State.spareZero (s : State) (g : GroupId) (sp : Spare) (k : LoanStep) : State :=
  ((s.connect g (spareIdx sp) .zero).enterStep g sp k).modLoan g sp fun x => { x with zeroAt := s.now }
/-- A shadow compare fails (R131). -/
def State.compareFails (s : State) (g : GroupId) (sp : Spare) (why : CmpFail) : State :=
  let x := s.groups[g].under.loan sp
  let s1 := s.calShadow g x.target (spareIdx sp) why
  if x.step = .shadowIn then s1.spareZero g sp .arbitrate
  else if x.repeated then (s1.convict g x.target).spareStays g sp
  else (s1.modLoan g sp fun x => { x with repeated := true }).startZero g sp
/-- The compare of a loan's step now: at SHADOW_IN the spare comes in, at SHADOW_OUT the live modulator. -/
def State.loanCompare (s : State) (g : GroupId) (sp : Spare) : CmpVerdict :=
  let x := s.groups[g].under.loan sp
  if x.step = .shadowIn then s.cmpNow g x.target (spareIdx sp) x.since x.passedAt.isSome
  else s.cmpNow g (spareIdx sp) x.target x.since x.passedAt.isSome
/-- The compare of a step is judged. -/
def State.judgeCompare (s : State) (g : GroupId) (sp : Spare) : State :=
  let v := s.loanCompare g sp
  let s1 := s.laneDissent g v.differ v.agree
  match v.out with
  | .running => s
  | .passes => s1.modLoan g sp fun x => { x with passedAt := some (x.passedAt.getD s.now) }
  | .fails => if v.split ∧ s.coppice.step ≠ 0 then s1.modLoan g sp fun x => { x with again := true } else s1.compareFails g sp .limits
/-- CONNECT may start (R125, R126, R129): a spare at rest at P0, calibrated and not lent out; a current loan on a dark channel
starts 50 ms before a code-period boundary. -/
def State.mayConnect (s : State) (g : GroupId) (sp : Spare) (m : Modulator) : Bool :=
  let x := s.groups[g].under.loan sp
  let u := s.groups[g].under
  !x.dead && !x.rejected && !x.needCal && (u.runs[m]).isNone && (u.runs[spareIdx sp]).isNone && s.groups[g].level == 0 &&
  s.groups[g].pendLevel.isNone && s.groups[g].under.initial && s.mode.mode.runs &&
  (sp == .volt || !s.darkNow (modChan g m) || s.reaches codePeriod 10000000)
/-- A partner is named by FAST_A or FAST_B. -/
def State.partnerUsed (s : State) (g : GroupId) (m : Modulator) : Bool :=
  (m.val == 18 && s.params.fastA g != 0xFF) || (m.val == 19 && s.params.fastB g != 0xFF)
/-- A loan begins: CONNECT. The first loan of a round of the current spare makes the partners in use due for their release
(R127). -/
def State.startLoan (s : State) (g : GroupId) (sp : Spare) (m : Modulator) : State :=
  let x := s.groups[g].under.loan sp
  let ms := s.served g sp
  let fresh := newRound ms x.queue
  let due : BitVec 20 := maskOf fun p => s.partnerUsed g p && !has s.groups[g].under.convicted p
  let s1 := s.modLoan g sp fun y => { y with
    target := m, repeated := false, queue := (roundOf ms y.queue y.retry).drop 1, retry := if fresh then [] else y.retry }
  let s2 := if fresh && sp == .curr then s1.modUnder g fun u => { u with partnerDue := due } else s1
  (s2.connect g (spareIdx sp) (.chan ⟨m.val % 8, by omega⟩)).enterStep g sp .connect
/-- A convicted live modulator in use for which the spare of its type has not taken over (R131, R132). -/
def State.takeoverDue (s : State) (g : GroupId) (sp : Spare) : Option Modulator :=
  (List.finRange 20).find? fun m => decide (m.val < 16) && spareOf m == sp && has s.groups[g].under.convicted m && !has s.groups[g].under.onSpare m &&
    (s.params.chUsed g).getLsbD (m.val % 8)
/-- A spare at rest: it takes over for a convicted modulator, calibrates itself where that is due, or starts the next loan. -/
def State.fromIdle (s : State) (g : GroupId) (sp : Spare) : State :=
  let x := s.groups[g].under.loan sp
  if s.groups[g].level ≠ 0 ∨ !s.mode.mode.runs then s
  else match (if x.dead then none else s.takeoverDue g sp) with
    | some m => ((s.modLoan g sp fun y => { y with target := m }).connect g (spareIdx sp) (.chan ⟨m.val % 8, by omega⟩)).enterStep g sp .takeover
    | none =>
      if x.needCal && s.groups[g].pendLevel.isNone then s.spareZero g sp .selfCal
      else match roundOf (s.served g sp) x.queue x.retry with
        | m :: _ => if s.mayConnect g sp m then s.startLoan g sp m else s
        | [] => s
/-- The end of REF in a loan (R122, R130, R132): adoption, or rejection, after which the loan goes on to RECONNECT; a modulator
convicted here leaves the spare as its source. -/
def State.refEnds (s : State) (g : GroupId) (sp : Spare) (x : Loan) : State :=
  let s0 := s.calDissent g x.target x.zeroEnd
  match s.calVerdict g x.target x.zeroAt x.zeroEnd x.since with
  | .wait => s
  | .again => s.modLoan g sp fun y => { y with again := true }
  | .adopt k => (s0.adoptPair g x.target k).reconnect g sp
  | .reject =>
    let s1 := s0.rejectPair g x.target
    if has s1.groups[g].under.convicted x.target then s1.spareStays g sp
    else (s1.modLoan g sp fun y => { y with retry := y.retry ++ [x.target] }).reconnect g sp
/-- The arbitration of a failed SHADOW_IN (R131): the spare passes in two lanes, and the modulator is convicted; or it fails. Its means
are those of the last 50 ms of ZERO and of REF, as R122 has them for a pair: the model's choice (notes/assumptions/139.md). -/
def State.arbitrated (s : State) (g : GroupId) (sp : Spare) (x : Loan) : State :=
  let m := spareIdx sp
  let k := s.groups[g].under.coef[m]
  let v := cmpVerdict ((s.calSums g m x.zeroEnd).map fun q => (q.lane, if arbitrates k q then .passes else .fails))
  let s1 := s.laneDissent g v.differ v.agree
  match v.out with
  | .passes => ((s1.convict g x.target).connect g m (.chan ⟨x.target.val % 8, by omega⟩)).enterStep g sp .takeover
  | _ =>
    if v.split ∧ s.coppice.step ≠ 0 then s.modLoan g sp fun y => { y with again := true }
    else ((s1.fault FaultCode.spareFault [g.val, m.val] s.voteMask).modLoan g sp fun y => { y with dead := true }).abandonLoan g sp
/-- REF begins for a modulator that was on ZERO. -/
def State.startRef (s : State) (g : GroupId) (sp : Spare) (m : Modulator) (k : LoanStep) : State :=
  ((s.connect g m .ref).enterStep g sp k).modLoan g sp fun y => { y with zeroEnd := s.now }
/-- The step of a loan ends, if its time has come (R120); one that repeats after a Coppice window starts again with its end
(R133). -/
def State.loanStep (s : State) (g : GroupId) (sp : Spare) : State :=
  let x := s.groups[g].under.loan sp
  let due (ms : Nat) : Bool := s.since x.since (ms * Config.ms)
  if x.again then (if s.coppice.step = 0 then s.enterStep g sp x.step else s)
  else match x.step with
  | .idle => s.fromIdle g sp
  | .connect => if due 10 then s.enterStep g sp .shadowIn else s
  | .shadowIn => s.judgeCompare g sp
  | .shadowOut => s.judgeCompare g sp
  | .zero => if due 60 then s.startRef g sp x.target .ref else s
  | .ref => if due 60 then s.refEnds g sp x else s
  | .reconnect => if due 10 then s.enterStep g sp .shadowOut else s
  | .release => if due 20 then s.spareZero g sp .selfCal else s
  | .arbitrate => if due 60 then s.startRef g sp (spareIdx sp) .arbRef else s
  | .arbRef => if due 60 then s.arbitrated g sp x else s
  | .selfCal => if due 60 then s.startRef g sp (spareIdx sp) .selfRef else s
  | .takeover => s
  | .selfRef => s

/-- LOAN_STEP_END (R120). -/
def execLoanStepEnd (g : GroupId) (sp : Spare) (s : State) : Host.Outcome State Fault Refusal :=
  .next (s.loanStep g sp)

/-! ## Handoffs (R121, R124, R125) -/

/-- The fast samples of a group in a lane at which live modulators and spares sample together, newest first. -/
def LaneGroup.pairs (B : LaneGroup) : List FastRow := B.fast.filter fun r => r.n % 64 == 0 && B.since.any fun t => decide (t ≤ r.t)
/-- Eight pairs agree: each within 1 % of the outgoing sample plus 0.3 % of full scale, OVR samples at full scale (R78). -/
def FrontEnd.pairsAgree (f : FrontEnd) (ps : List FastRow) (out inc : Modulator) : Bool :=
  ps.length == 8 && ps.all fun r => match f.fastVal r out, f.fastVal r inc with
    | some a, some b => decide (1000 * (a.1 - b.1).natAbs ≤ 10 * a.1.natAbs + 3 * 2 ^ 15)
    | _, _ => false
/-- An instant lies in no settle interval of a channel (R124). -/
def State.settled (s : State) (c : Chan) (t : Nat) : Bool :=
  s.activeLanes.all fun l => s.lanes[l].prov[c].settle.all fun e => decide (t < e.1) || decide (e.2 < t)
/-- A candidate for H (R124): the word that completes its fast sample, its input instant, and that of the fast sample before it. -/
structure HandoffAt where
  n : Nat
  t : Nat
  prev : Nat
  deriving DecidableEq, Repr
/-- The candidates now, oldest first, as the supplying lane has them: the fast samples of the words that have come last, and the
next one. -/
def State.handoffsNow (s : State) (g : GroupId) : List HandoffAt :=
  match s.supplier with
  | none => []
  | some l =>
    let B := s.lanes[l].grp[g]
    match B.pairs.take 4 with
    | [] => []
    | r :: rest =>
      let here : List HandoffAt := ((r :: rest).zip rest).map fun (e : FastRow × FastRow) => { n := e.1.n, t := e.1.t, prev := e.2.t }
      (({ n := r.n + 64, t := r.t + 64 * B.rate.1 / B.rate.2, prev := r.t } : HandoffAt) :: here.filter fun h => decide (B.words < h.n + 192)).reverse
/-- The eight pairs before a candidate in every lane in the vote: settled, and agreeing (R124, R133). -/
def State.pairsFit (s : State) (g : GroupId) (c : Chan) (out inc : Modulator) (h : HandoffAt) : Bool :=
  s.activeLanes.all fun l => let ps := ((s.lanes[l].grp[g]).pairs.filter fun r => decide (r.n < h.n)).take 8
    s.fe[g].pairsAgree ps out inc && ps.all fun r => s.settled c r.t
/-- No lane in the vote has judged a channel's sample of a candidate yet, and it lies in no settle interval. -/
def State.openAt (s : State) (g : GroupId) (c : Chan) (h : HandoffAt) : Bool :=
  (s.activeLanes.all fun l => decide ((s.lanes[l].grp[g]).judged[c.pos] < h.n)) && s.settled c h.t
/-- The handoff of a candidate: the fast samples change over between the sample before it and its own, the fine ones at H. -/
def HandoffAt.switch (h : HandoffAt) (spare : Bool) : SourceSwitch := { spare := spare, fast := (h.prev + h.t + 1) / 2, fine := h.t }
/-- What a handoff at a candidate would switch: on a dark channel a current handoff needs a code-period boundary B after the fast
sample before, and the fine samples change over at B (R125). -/
def State.switchAt (s : State) (sp : Spare) (c : Chan) (spare : Bool) (h : HandoffAt) : Option SourceSwitch :=
  let b := s.localOf (s.laneTime / codePeriod * codePeriod)
  if sp = .volt ∨ !s.darkNow c then some (h.switch spare)
  else if h.prev < b ∧ b ≤ h.t then some { h.switch spare with fine := b } else none
/-- The sources of a position's samples change from H on: the spare serves a live modulator, or no longer. -/
def State.setSource (s : State) (g : GroupId) (m : Modulator) (x : SourceSwitch) : State :=
  s.modUnder g fun u => { u with
    onSpare := if x.spare then u.onSpare ||| only m else u.onSpare &&& ~~~(only m)
    switched := u.switched.setIfInBounds m.val (x :: ((u.switched[m.val]?).getD []).filter fun y => decide (s.now ≤ y.fine + keepFor)) }
/-- A handoff at a candidate is permitted (R124): the compare of the step still passes, the pairs fit, H is open. -/
def State.mayHandOff (s : State) (g : GroupId) (sp : Spare) (out inc : Modulator) (c : Chan) (h : HandoffAt) : Bool :=
  (s.groups[g].under.loan sp).passedAt.isSome && (s.loanCompare g sp).out == .passes && s.pairsFit g c out inc h && s.openAt g c h
/-- What the handoff of a loan's step switches now: at the first candidate that permits it (R124), none in a Coppice window
(R133). -/
def State.handoffNow (s : State) (g : GroupId) (sp : Spare) (out inc : Modulator) (c : Chan) : Option SourceSwitch :=
  if s.coppice.step ≠ 0 then none else
  ((s.handoffsNow g).filter (s.mayHandOff g sp out inc c)).findSome? (s.switchAt sp c (decide (16 ≤ inc.val)))
/-- A handoff at a permitted instant. A spare that takes over for a convicted modulator waits for an instant that lies in no settle
interval, also on a dark channel: R125 is held to bind the handoffs of a loan, the model's choice (notes/assumptions/122.md). -/
def State.handoff (s : State) (g : GroupId) (sp : Spare) : State :=
  let x := s.groups[g].under.loan sp
  let m := x.target
  let c := modChan g m
  match x.step with
  | .shadowIn =>
    (match s.handoffNow g sp m (spareIdx sp) c with
      | some h => (s.setSource g m h).startZero g sp
      | none => s)
  | .shadowOut =>
    (match s.handoffNow g sp (spareIdx sp) m c with
      | some h =>
        let s1 := s.setSource g m h
        if s.groups[g].pendLevel.isSome then
          ((s1.connect g (spareIdx sp) .off).enterStep g sp .idle).modLoan g sp fun y => { y with needCal := true }
        else s1.release g sp
      | none => s)
  | .takeover =>
    (match (s.handoffsNow g).find? (s.openAt g c) with
      | some h => if s.coppice.step = 0 && s.since x.since (10 * Config.ms) then (s.setSource g m (h.switch true)).spareStays g sp else s
      | none => s)
  | _ => s

/-- HANDOFF (R121). -/
def execHandoff (g : GroupId) (sp : Spare) (s : State) : Host.Outcome State Fault Refusal :=
  .next (s.handoff g sp)

/-! ## Self-calibration (R126) -/

/-- The end of a spare's own REF: adopted, it is at rest; rejected, it repeats at once, and is not lent meanwhile. -/
def State.selfEnds (s : State) (g : GroupId) (sp : Spare) (x : Loan) : State :=
  let m := spareIdx sp
  let s0 := s.calDissent g m x.zeroEnd
  match s.calVerdict g m x.zeroAt x.zeroEnd x.since with
  | .wait => s
  | .again => s.modLoan g sp fun y => { y with again := true }
  | .adopt k => (((s0.adoptPair g m k).connect g m .off).enterStep g sp .idle).modLoan g sp fun y => { y with rejected := false, needCal := false }
  | .reject =>
    let s1 := s0.rejectPair g m
    (s1.spareZero g sp .selfCal).modLoan g sp fun y => { y with rejected := true, dead := y.dead || has s1.groups[g].under.convicted m }

/-- SPARE_SELF_CALIBRATION (R126): 60 ms of REF after 60 ms of ZERO. -/
def execSpareSelfCalibration (g : GroupId) (sp : Spare) (s : State) : Host.Outcome State Fault Refusal :=
  let x := s.groups[g].under.loan sp
  .next (if x.step = .selfRef ∧ !x.again ∧ s.since x.since (60 * Config.ms) then s.selfEnds g sp x else s)

/-! ## In-place calibration and direct release (R127, R128) -/

/-- A modulator may be calibrated in place now (R119, R127): one of a position not in CH_USED or a partner not in use, or a
partner in use whose release of this round is due. -/
def State.inPlaceKind (s : State) (g : GroupId) (m : Modulator) : Option Bool :=
  if has s.groups[g].under.convicted m then none
  else if decide (m.val < 16) && !(s.params.chUsed g).getLsbD (m.val % 8) then some false
  else if 18 ≤ m.val then
    (if s.partnerUsed g m then (if has s.groups[g].under.partnerDue m then some true else none) else some false)
  else none
/-- An update of a modulator's run in place. -/
def State.setRun (s : State) (g : GroupId) (m : Modulator) (r : Option CalRun) : State := s.modUnder g fun u => { u with runs := u.runs.set m r }
/-- ZERO begins in place. -/
def State.startRun (s : State) (g : GroupId) (m : Modulator) (release : Bool) : State :=
  (s.connect g m .zero).modUnder g fun u => { u with
    runs := u.runs.set m (some { since := s.now, zeroAt := s.now, release := release }), partnerDue := u.partnerDue &&& ~~~(only m) }
/-- The channel of a partner in use. -/
def ParamImage.partnerChan (p : ParamImage) (g : GroupId) (m : Modulator) : Option Chan :=
  ((List.finRange 8).find? fun k => p.partnerOf g k == some m).map (chanOf g)
/-- The compare of a released partner against the live current modulator of its channel (R127). It fails as the compare of a
loan does, and the partner is convicted. CAL_SHADOW names the partner in the place of the spare too, which this compare does not
have: the model's choice (notes/assumptions/122.md); and so is that it compares with the live modulator also while that one is itself
out on loan (notes/assumptions/139.md). -/
def State.partnerStep (s : State) (g : GroupId) (m : Modulator) (r : CalRun) (c : Chan) : State :=
  let live := currMod c.pos
  let v := s.cmpNow g live m r.since r.passedAt.isSome
  let s1 := s.laneDissent g v.differ v.agree
  let fails (t : State) (why : CmpFail) : State := ((t.calShadow g m m why).convict g m).setRun g m none
  match v.out with
  | .running => if r.passedAt.isNone ∧ s.since r.since Config.sec then fails s .noSamples else s
  | .fails => if v.split ∧ s.coppice.step ≠ 0 then s.setRun g m (some { r with again := true }) else fails s1 .limits
  | .passes =>
    if s.coppice.step = 0 && (s.handoffsNow g).any (fun h => s.pairsFit g c live m h && s.openAt g c h) then s1.setRun g m none
    else s1.setRun g m (some { r with passedAt := some (r.passedAt.getD s.now) })
/-- A modulator out in place goes on (R127, R128): ZERO 60 ms, REF 60 ms, 10 ms to reconnect, and a partner released from its
channel its compare. -/
def State.runStep (s : State) (g : GroupId) (m : Modulator) (r : CalRun) : State :=
  let due (ms : Nat) : Bool := s.since r.since (ms * Config.ms)
  let on (t : State) (k : LoanStep) : State := t.setRun g m (some { r with step := k, since := s.now, passedAt := none, again := false })
  if r.again then (if s.coppice.step = 0 then on s r.step else s)
  else match r.step with
  | .zero => if due 60 then (s.connect g m .ref).setRun g m (some { r with step := .ref, since := s.now, zeroEnd := s.now }) else s
  | .ref =>
    if due 60 then
      let s0 := s.calDissent g m r.zeroEnd
      match s.calVerdict g m r.zeroAt r.zeroEnd r.since with
      | .wait => s
      | .again => s.setRun g m (some { r with again := true })
      | .adopt k => on ((s0.adoptPair g m k).connect g m .own) .reconnect
      | .reject => on ((s0.rejectPair g m).connect g m .own) .reconnect
    else s
  | .reconnect => if due 10 then
      (if r.release && !has s.groups[g].under.convicted m then on s .shadowOut
       else (if 16 ≤ m.val ∧ m.val < 18 then s.connect g m .off else s).setRun g m none) else s
  | .shadowOut => (match s.params.partnerChan g m with
      | some c => s.partnerStep g m r c
      | none => s.setRun g m none)
  | _ => s

/-- IN_PLACE_CALIBRATION (R127, R128): the next step of a modulator calibrated in place, or its first. -/
def execInPlaceCalibration (g : GroupId) (m : Modulator) (s : State) : Host.Outcome State Fault Refusal :=
  .next (if s.groups[g].level ≠ 0 ∨ !s.mode.mode.runs then s
    else match s.groups[g].under.runs[m] with
      | some r => s.runStep g m r
      | none => if s.fe[g].refs && s.groups[g].pendLevel.isNone then (match s.inPlaceKind g m with
          | some k => s.startRun g m k
          | none => s) else s)

/-! ## Time limits (R123, R129, R130) -/

/-- COMPARE_NO_SAMPLES (R123): a compare without 3,000 pairs 1 s after its start fails. -/
def execCompareNoSamples (g : GroupId) (sp : Spare) (s : State) : Host.Outcome State Fault Refusal :=
  let x := s.groups[g].under.loan sp
  .next (if (x.step = .shadowIn ∨ x.step = .shadowOut) ∧ !x.again ∧ x.passedAt.isNone ∧ s.since x.since Config.sec ∧
      (s.loanCompare g sp).out = .running then s.compareFails g sp .noSamples else s)

/-- CAL_HANDOFF (R130): no HANDOFF_OUT within 1 s of SHADOW_IN's pass. -/
def execCalHandoff (g : GroupId) (sp : Spare) (s : State) : Host.Outcome State Fault Refusal :=
  let x := s.groups[g].under.loan sp
  .next (if x.step = .shadowIn ∧ x.passedAt.any fun t => s.since t Config.sec then
      (s.abandonLoan g sp).note EventCode.calHandoff [g.val, x.target.val] else s)

/-- CAL_OVERDUE (R129): 6 s since the later of the last adoption and the group's last return to P0. -/
def execCalOverdue (g : GroupId) (m : Modulator) (s : State) : Host.Outcome State Fault Refusal :=
  let u := s.groups[g].under
  .next (if s.groups[g].level = 0 ∧ s.mode.mode.runs ∧ !has u.overdue m ∧ max u.adoptedAt[m] u.p0Since + 6 * Config.sec ≤ s.now then
      (s.modUnder g fun u => { u with overdue := u.overdue ||| only m }).fault FaultCode.calOverdue [g.val, m.val] s.voteMask
    else s)

/-! ## Lowering a level (R134) -/

/-- A loan is brought home: before HANDOFF_OUT it is abandoned at once, after it the step ends and the loan reconnects. Of an
arbitration and a takeover in progress the spec says nothing here: the arbitration is dropped, and the level waits for the
takeover, the model's choice (notes/assumptions/122.md). A spare disconnected on the way calibrates itself before its next loan. -/
def State.bringHome (s : State) (g : GroupId) (sp : Spare) : State :=
  let x := s.groups[g].under.loan sp
  let home (t : State) : State := ((t.connect g (spareIdx sp) .off).enterStep g sp .idle).modLoan g sp fun y => { y with needCal := true }
  let later (t : State) : State := t.modLoan g sp fun y => { y with retry := y.retry ++ [x.target] }
  match x.step with
  | .zero | .ref => later (s.reconnect g sp)
  | .reconnect | .shadowOut | .takeover | .idle => s
  | .connect | .shadowIn | .arbitrate | .arbRef => later (home s)
  | .release | .selfCal | .selfRef => home s
/-- Both loans of a group are brought home. -/
def State.bringHomeAll (s : State) (g : GroupId) : State := (s.bringHome g .volt).bringHome g .curr
/-- Every loan of a group is home. -/
def Understorey.allHome (u : Understorey) : Bool := u.volt.step == .idle && u.curr.step == .idle
/-- Below P0 no modulator is calibrated: those out in place go back to their inputs. -/
def State.stopRuns (s : State) (g : GroupId) : State :=
  let out := (List.finRange 20).filter fun (m : Modulator) => (s.groups[g].under.runs[m]).isSome
  (s.each out fun t m => t.connect g m (if 16 ≤ m.val ∧ m.val < 18 then .off else .own)).modUnder g fun u => { u with runs := Vector.replicate 20 none }
/-- A group returns to P0: each spare first calibrates itself, and the rotation resumes with the modulator whose pair is
oldest. After P2 and P3 the self-calibration starts again once REFS is set: the model's choice (notes/assumptions/139.md). -/
def State.resumeSpare (s : State) (g : GroupId) (sp : Spare) : State :=
  let ms := s.served g sp
  let from_ : Nat := ((s.oldest g ms).map (·.val)).getD 0
  let s1 := s.modLoan g sp fun y => { y with retry := [], queue := ms.filter fun m => decide (from_ ≤ m.val) }
  if (s.groups[g].under.loan sp).dead then s1 else s1.spareZero g sp .selfCal
def State.resumeLoans (s : State) (g : GroupId) : State :=
  ((s.resumeSpare g .volt).resumeSpare g .curr).modUnder g fun u => { u with p0Since := s.now }

end Sys2Proof.Machine
end

