-- ==== Sys2Proof/Machine/OutTest.lean ====
section
/-!
DEFINITION. Off-tests on lit lamps (R60 to R65), majority tests on dark channels (R65, R67, R68) and the proof timers
(R66, R461).
-/

namespace Sys2Proof.Machine

/-- A group can start a test: none runs in it and no Coppice window is open (R65). -/
def State.testFree (s : State) (g : GroupId) : Bool := s.groups[g].test.isNone && s.coppice.step == 0 && s.mode.mode.runs
/-- The instant lies on the 10 µs grid of lane time (R20). -/
def State.onGrid (s : State) : Bool := s.reaches 2000
/-- The instant is the grid instant nearest to 10 µs before a predicted feed peak of an AC group (R60, R90). -/
def State.nearPeak (s : State) (g : GroupId) : Bool :=
  let f := s.groups[g].feed
  if s.params.isAc g then
    f.lock && f.lastCross.any fun x =>
      let ph := (s.laneTime + 2000 + f.periodLen - (x + f.periodLen / 4) % max f.periodLen 1) % max f.periodLen 1
      decide (ph ≤ 1000) || decide (f.periodLen ≤ ph + 1000)
  else true
/-- The step-4 overlay of a taught channel is due (R161). -/
def State.teachTestDue (s : State) (c : Chan) : Bool :=
  s.act.teach.any fun t => t.current c.group == some c && !t.tested.contains c && (t.onAt[c.group]).any fun a => decide (a + 1200 * Config.ms ≤ s.now)
/-- An off-test of a channel is due: steady lit in every lane in the vote, its instant come or asked for. -/
def State.offDue (s : State) (c : Chan) : Bool :=
  let t := s.tests.chan[c]
  s.testFree c.group && s.onGrid && s.nearPeak c.group && !s.activeLanes.isEmpty && (s.activeLanes.all fun l => s.steadyOn l c) &&
  (if s.taught c then s.teachTestDue c else t.want || t.nextOff.any fun d => decide (d ≤ s.now))

/-- OFF_TEST_START (R61): every lane in the vote withdraws the channel's "on". -/
def execOffTestStart (c : Chan) (s : State) : Host.Outcome State Fault Refusal :=
  .next (if s.offDue c then
    let s1 := (s.settles c s.now (s.now + 68000)).modLanes fun _ L => if L.st == .active then
      { (L.modProv c fun a => { a with otAt := some s.now }) with drive := { L.drive with ov := { L.drive.ov with off := L.drive.ov.off ||| only c } } } else L
    let s1 : State := { s1 with act := { s1.act with teach := s1.act.teach.map fun t => if t.current c.group = some c then { t with tested := c :: t.tested } else t } }
    (s1.modGroup c.group fun G => { G with test := some { ch := c, majority := false, lane := (s.supplier).getD 0, t0 := s.now } }).modSched c fun t =>
      { t with want := false, nextOff := t.nextOff.map fun d => nextAfter d (s.params.offPeriod c.group * Config.sec) s.now }
  else s)

/-- OFF_TEST_GATE_CHECK (R61, R63): 40 µs after t0 gate sense has not fallen. -/
def execOffTestGateCheck (c : Chan) (s : State) : Host.Outcome State Fault Refusal :=
  let s1 := match s.groups[c.group].test with
    | some r => if r.ch = c ∧ !r.majority ∧ !r.failed ∧ r.tOpen.isNone ∧ r.t0 + 8000 ≤ s.now then s.testFails s.voteMask r .gateStuck else s
    | none => s
  .next (match s1.tests.chan[c].trans with
    | some r => if r.tOpen.isNone ∧ r.t0 + 8000 ≤ s.now then s1.transDone c s.voteMask (some .gateStuck) else s1
    | none => s1)

/-- The overlay of an off-test ends in every lane; the next overlay word carries the edge. -/
def State.endOff (s : State) (c : Chan) : State :=
  s.modLanes fun _ L => { L with drive := { L.drive with ov := { L.drive.ov with off := L.drive.ov.off &&& ~~~(only c) } } }
/-- An action point ends the overlay of an off-test at the apply strobe (R64). -/
def State.endOffNow (s : State) (c : Chan) : State :=
  let off (o : Overlay) : Overlay := { o with off := o.off &&& ~~~(only c) }
  s.modLanes fun _ L => { L with drive := { L.drive with ov := off L.drive.ov, sent := off L.drive.sent } }
/-- The group's test ends with a result code of R365; passed and failed tests complete. -/
def State.testEnds (s : State) (c : Chan) (code : Nat) : State :=
  let s1 := s.modGroup c.group fun G => { G with test := none }
  (if code = 3 then s1 else s1.chanProved c).testResult c code

/-- OFF_TEST_END (R62): the overlay ends 140 µs after t0 and the test has passed or failed. After a failure the "on" stays
withdrawn: the overlay stands until the latch has turned the channel off. -/
def execOffTestEnd (c : Chan) (s : State) : Host.Outcome State Fault Refusal :=
  .next (match s.groups[c.group].test with
    | some r => if r.ch = c ∧ !r.majority ∧ r.t0 + 28000 ≤ s.now then
        (if r.failed then s else s.endOff c).testEnds c (if r.failed then 2 else 1) else s
    | none => s)

/-- The next lane of a channel's rotation that is in the vote (R67). -/
def State.testLaneNow (s : State) (c : Chan) : Option LaneId :=
  let a := s.tests.chan[c].lane
  ([a, a + 1, a + 2] : List LaneId).find? s.active
/-- A majority test of a channel is due: commanded dark and derived off in every lane in the vote; DRIVE_LINK in the
group suspends majority tests (R419). -/
def State.majDue (s : State) (c : Chan) : Bool :=
  let t := s.tests.chan[c]
  s.testFree c.group && s.onGrid && s.params.used c && !s.taught c && !s.activeLanes.isEmpty &&
  (s.activeLanes.all fun l => !s.isOn l c && cmdDark (s.lanes[l].inForce.cmd[c])) &&
  (allLanes.all fun x => !s.stands FaultCode.driveLink [c.group.val, x.val]) &&
  (t.want || t.nextMaj.any fun d => decide (d ≤ s.now))

/-- MAJORITY_TEST_START (R67): the test lane alone adds "on" for four frames. -/
def execMajorityTestStart (c : Chan) (s : State) : Host.Outcome State Fault Refusal :=
  .next (match s.testLaneNow c with
    | some tl => if s.majDue c then
        let s1 := (s.settles c s.now (s.now + 46740)).modLanes fun _ L =>
          if L.st == .active then L.modProv c fun a => { a with majAt := s.now :: a.majAt.filter fun t => decide (s.now ≤ t + keepFor) } else L
        let s2 := s1.modLane tl fun L => { L with drive := { L.drive with
          ov := { L.drive.ov with add := L.drive.ov.add ||| only c, frames := (c.val, 4) :: L.drive.ov.frames } } }
        (s2.modGroup c.group fun G => { G with test := some { ch := c, majority := true, lane := tl, t0 := s.now } }).modSched c fun t =>
          { t with want := false, lane := tl + 1, nextMaj := t.nextMaj.map fun d => nextAfter d (s.params.majPeriod c.group * Config.sec) s.now }
      else s
    | none => s)

/-- MAJORITY_TEST_END (R68): 20 µs after the overlay, of at most 33.7 µs, the test has passed or failed. -/
def execMajorityTestEnd (c : Chan) (s : State) : Host.Outcome State Fault Refusal :=
  .next (match s.groups[c.group].test with
    | some r => if r.ch = c ∧ r.majority ∧ r.t0 + 10740 ≤ s.now then (s.endMajority r).testEnds c (if r.failed then 2 else 1) else s
    | none => s)

/-- 24 h in ticks. -/
def day24 : Nat := 86400 * Config.sec

/-- PROOF_OVERDUE (R66, R461): a proof timer has reached 24 h. -/
def execProofOverdue (i : ProofItem) (s : State) : Host.Outcome State Fault Refusal :=
  .next (match i with
    | .chan c =>
      let t := s.tests.chan[c]
      if s.params.used c ∧ !t.overdue ∧ day24 ≤ t.proofNow s.now then
        (s.modSched c fun t => { t with overdue := true }).fault FaultCode.proofOverdue [c.val] s.voteMask else s
    | .point p =>
      let t := s.tests.point[p]
      if s.params.isOut p ∧ s.params.otEn p ∧ !t.overdue ∧ day24 ≤ t.proofNow s.now then
        (s.modPtSched p fun t => { t with overdue := true }).fault FaultCode.proofOverdue [96 + p.val] s.voteMask else s)

end Sys2Proof.Machine
end

