-- ==== Sys2Proof/Machine/Mail.lean ====
section
/-!
DEFINITION. The mailbox path: storing commands and freeing entries (R305, R306, R309, R311, R315), the checks of R308
and R336, responses and their vote (R312 to R314), queue-memory errors (R321) and the switchover (R324).
-/

namespace Sys2Proof.Machine

/-! ## Transactions -/

/-- A transaction ends, and leaves the list once its entries are freed too (R309). -/
def State.prune (s : State) : State :=
  { s with mail := { s.mail with txns := s.mail.txns.filter fun t => !(t.freed && t.done && !t.inFlight) } }
def State.endTxn (s : State) (num : Nat) : State := (s.modTxn num fun t => { t with inFlight := false }).prune
/-- A response is placed in its outbound ring; one that Q10 holds ends its transaction when it is the last (R309). -/
def State.placeResp (s : State) (q : RingId) (m : OutMsg) : State :=
  let s1 := s.placeMsg q m
  match m.num with
  | some n => if q = 10 then s1.endTxn n else s1
  | none => s1
/-- A response is forwarded, and waits in the hub while its ring is full (R312, R314). -/
def State.forward (s : State) (t : Txn) (octets : Bytes) (last : Bool) : State :=
  let q := respRing t.src
  let s1 := if last then s.modTxn t.num fun t => { t with done := true } else s
  let m : OutMsg := { octets := octets, dests := [t.src], num := if last && t.inFlight then some t.num else none, stamp := s.now }
  let r := s1.mail.rings[q]
  if r.waiting.isEmpty && r.room octets.length then (s1.placeResp q m).prune
  else (s1.modRing q fun r => { r with waiting := r.waiting ++ [m] }).prune
/-- The response message of a reply (R307); FLAGS beyond RESP are given. -/
def Txn.message (t : Txn) (r : Reply) (flags : Nat := 0) : Bytes :=
  header (msgTag t.octets) (1 + flags) (msgOp t.octets) r.status r.payload.length ++ r.payload
/-- The check value a lane hands over with its response (R312). -/
def Txn.check (t : Txn) (l : LaneId) : Option DWord := (t.replies[l]).map fun r => crc32c (t.message r)
/-- The first lane whose check value equals that of another lane. -/
def Txn.agreed (t : Txn) : Option LaneId :=
  allLanes.find? fun l => (t.check l).isSome && allLanes.any fun k => k != l && t.check k == t.check l
/-- The opcode's responses are lane-specific. -/
def Txn.lspec (t : Txn) : Bool := (opInfo (msgOp t.octets)).any (·.lspec)

/-- The mailbox engine runs on a hub that serves it (R321): with the rings open, or in HALT, where the local port stays READY even
if Thaw led there (R376). -/
def State.mailUp (s : State) : Bool :=
  (s.mail.opened || s.mode.mode == .halt) && !s.mail.switching && !s.hubs[s.mail.active].outOfMail

/-- RESPONSE_VOTE (R312). -/
def execResponseVote (num : Nat) (s : State) : Host.Outcome State Fault Refusal :=
  .next (match s.txn num with
    | some t =>
      if t.done || t.lspec || !s.mailUp then s else
      match t.agreed with
      | some l => match t.replies[l] with
        | some r => s.forward t (t.message r) true
        | none => s
      | none => s
    | none => s)
/-- 20 ms have passed since the first lane's answer (R312, R313). -/
def Txn.late (t : Txn) (now : Nat) : Bool := t.firstAt.any fun a => decide (a + 20 * Config.ms ≤ now)
/-- No lane is in the vote to start a command that has waited 20 ms (R377). -/
def State.neverStarted (s : State) (t : Txn) : Bool := s.activeLanes.isEmpty && t.firstAt.isNone && decide (t.storedAt + 20 * Config.ms ≤ s.now)
/-- LANE_DISAGREE (R312). -/
def execLaneDisagree (num : Nat) (s : State) : Host.Outcome State Fault Refusal :=
  .next (match s.txn num with
    | some t =>
      if t.done || t.lspec || !s.mailUp || t.agreed.isSome || !(t.late s.now || s.neverStarted t) then s
      else
        let chk (l : LaneId) : Bytes := toLe 4 ((t.check l).map (·.toNat) |>.getD 0)
        (s.forward t (t.message (plain Status.laneDisagree)) true).note EventCode.laneDisagree [msgTag t.octets, s.ownerOctet t.src] (chk 0 ++ chk 1 ++ chk 2)
    | none => s)
/-- LSPEC_RESPONSE_TIMEOUT (R313). -/
def execLspecResponseTimeout (num : Nat) (s : State) : Host.Outcome State Fault Refusal :=
  .next (match s.txn num with
    | some t => if t.lspec && !t.done && t.late s.now then (s.modTxn num fun t => { t with done := true }).endTxn num else s
    | none => s)
/-- RESPONSE_RING_ROOM (R314): what waits enters the ring in order while there is room. Messages of Q14 wait so too
(R305). -/
def State.fillRing (s : State) (q : RingId) : List OutMsg → State
  | [] => s.modRing q fun r => { r with waiting := [] }
  | m :: t =>
    if (s.mail.rings[q]).room m.octets.length then (s.placeResp q m).fillRing q t
    else s.modRing q fun r => { r with waiting := m :: t }
def execResponseRingRoom (q : RingId) (s : State) : Host.Outcome State Fault Refusal :=
  .next (if !s.mailUp then s else s.fillRing q (s.mail.rings[q]).waiting)

/-! ## Inbound commands -/

/-- The conditions of R308, in their order, for a command as it is stored; the status of the first that holds. -/
def State.check308 (s : State) (t : Txn) : Option Nat :=
  let m := t.octets
  let len := msgLen m
  let mine := s.mail.txns.filter fun u => u.inFlight && decide (u.num < t.num)
  if 64 ≤ msgTag m then some Status.tagRange
  else if msgFlags m ≠ 0 ∨ msgStatus m ≠ 0 then some Status.format
  else if 1016 < len ∨ m.length ≠ 8 + len ∨ t.entries ≠ entriesOf (8 + len) then some Status.lengthRange
  else if len = 0 ∧ (opInfo (msgOp m)).any (fun i => i.lo != 0) then some Status.lengthZero
  else if mine.any (fun u => u.src == t.src && msgTag u.octets == msgTag m) then some Status.tagBusy
  else if 16 ≤ (mine.filter fun u => u.src == t.src).length ∨ 64 ≤ mine.length then some Status.busy
  else none
/-- A complete command is stored: it takes the next number (R337), and is in flight from now unless R308 refuses it, which the
transactions then in flight decide (R309). -/
def State.storeTxn (s : State) (src : Source) (q : RingId) (octets : Bytes) (entries : Nat) : State :=
  let t : Txn := { num := s.mail.nextNum, src := src, ring := q, octets := octets, entries := entries, storedAt := s.now }
  { s with mail := { s.mail with
      txns := s.mail.txns ++ [{ t with refused := s.check308 t, inFlight := (s.check308 t).isNone }]
      nextNum := s.mail.nextNum + 1
      rings := s.mail.rings.set q { s.mail.rings[q] with msgCnt := s.mail.rings[q].msgCnt + 1 } } }
/-- Entries are produced in an inbound ring. -/
def Ring.produce (r : Ring) (n : Nat) : Ring := { r with prod := r.prod + BitVec.ofNat 16 n }
/-- A message is discarded: it counts in DROP_CNT (R318). -/
def Ring.drop (r : Ring) : Ring := { r with dropCnt := r.dropCnt + 1 }
/-- A partial message is discarded and its entries are free again (R245). -/
def Ring.dropPart (r : Ring) : Ring := if r.part.isSome then { r with part := none }.drop else r
/-- Segments discarded, in the count of the channel they came on (R249). -/
def State.segDrop (s : State) (h : HubId) (n : Nat) : State :=
  s.modHub h fun H => { H with bus := { H.bus with cnt := { H.bus.cnt with segDropped := H.bus.cnt.segDropped + BitVec.ofNat 32 n } } }
/-- The rings that hold messages of a source: its own, and Q05 while it owns the session (R243). -/
def State.ringsOf (s : State) (x : Source) : List RingId := if s.upd.owner = some x then [cmdRing x, 5] else [cmdRing x]
/-- A source begins a message while an earlier one of its stream is incomplete: that one is discarded, and its segments count
(R245). -/
def State.dropOpen (s : State) (h : HubId) (x : Source) : State :=
  s.each (s.ringsOf x) fun t q => match (t.mail.rings[q]).part with
    | some (_, n) => (t.modRing q Ring.dropPart).segDrop h n
    | none => t
/-- The stream of a bus source has moved on by n segments (R243). -/
def State.advanceSeq (s : State) (x : Source) (n : Nat) : State :=
  match x with
  | .host => s
  | _ => s.modRing (cmdRing x) fun r => { r with expMseq := r.expMseq + BitVec.ofNat 8 n }
/-- The transactions of a ring that every lane in the vote has started free their entries in ring order (R311). -/
def State.freeRing (s : State) (q : RingId) : State :=
  let mine := s.mail.txns.filter fun t => t.ring == q && !t.freed
  let free := mine.takeWhile fun t => s.voteMask &&& ~~~t.started == 0
  let nums := free.map (·.num)
  let n := (free.map (·.entries)).sum
  (({ s with mail := { s.mail with txns := s.mail.txns.map fun (t : Txn) => if nums.contains t.num then { t with freed := true } else t } } : State).modRing q
    fun r => { r with cons := r.cons + BitVec.ofNat 16 n }).prune
/-- Every inbound ring frees what it can. -/
def State.freeRings (s : State) : State := s.each [0, 1, 2, 3, 4, 5] fun s q => s.freeRing q

/-! ## The checks -/

/-- The source, and the ring, that an opcode permits (R341). -/
def State.srcAllowed (s : State) (i : OpInfo) (src : Source) (q : RingId) : Bool :=
  match i.src with
  | .a => q == cmdRing src
  | .w => (src == .maint || src == .host) && q == cmdRing src
  | .l => src == .host && q == cmdRing src
  | .s => s.upd.owner == some src && q == 5
/-- The checks of R336 that every opcode shares, in their order. PARAM_WRITE's TYPE and INDEX come before its length,
which is that of the record (R353). -/
def State.check336 (s : State) (t : Txn) : Option Nat :=
  let op := msgOp t.octets
  let len := msgLen t.octets
  let p := t.octets.drop 8
  match opInfo op with
  | none => some Status.opcode
  | some i =>
    if !s.srcAllowed i t.src t.ring then some Status.source
    else if !i.modes.allows s.mode.mode then some Status.mode
    else if !i.life.allows s.mode.lifecycle then some Status.lifecycle
    else if len < i.lo ∨ i.hi < len then some Status.lengthRange
    else if op = 0x0101 then
      match recShape (leAt p 0 1) with
      | none => some Status.range
      | some (n, size) => if n ≤ leAt p 2 2 then some Status.range else if len ≠ 4 + size then some Status.lengthRange else none
    else if op = 0x0203 ∧ len ≠ 4 + 8 * leAt p 0 1 then some Status.lengthRange
    else none

/-! ## Queue-memory errors and the switchover -/

/-- A transaction not yet answered is answered ABORTED (R322, R324); one not started yet is discarded. -/
def State.abort (s : State) (t : Txn) : State :=
  let s1 := if t.done then s else s.forward t (t.message (plain Status.aborted)) true
  if t.judged then s1
  else (s1.modTxn t.num fun t => { t with judged := true, started := 7, outcome := some (plain Status.aborted) }).modRing t.ring Ring.drop
/-- HUB_SWITCHOVER (R324): hub Y takes the engine over. -/
def State.switchover (s : State) : State :=
  let s0 : State := { s with mail := { s.mail with switching := false, active := 1, rings := s.mail.rings.map Ring.dropPart } }
  let s1 := s0.each (s.mail.txns.filter fun t => t.inFlight && !t.done) State.abort
  s1.freeRings.note EventCode.hubSwitchover [0, 1]
def execHubSwitchover (s : State) : Host.Outcome State Fault Refusal :=
  .next (if s.mail.switching && s.mail.active == 0 && !s.hubs[(1 : HubId)].inReset && !s.hubs[(1 : HubId)].outOfMail then s.switchover else s)
/-- MIRROR_LINK_FAIL (R324). -/
def execMirrorLinkFail (s : State) : Host.Outcome State Fault Refusal :=
  .next { s with mail := { s.mail with mirrorOk := false, switching := s.mail.switching || s.mail.active == 0 } }
/-- What an uncorrectable error takes away (R321): an inbound message, answered FORMAT where its header is readable, or none
yet where it is still incomplete; or an outbound one, counted as dropped. -/
def State.qmemLoss (s : State) (a : QmemHit) : State :=
  let oldest (q : RingId) : Option Txn := s.mail.txns.find? fun t => t.ring == q && !t.judged
  match a with
  | .idle => s
  | .inHeader q => match oldest q with
    | some t => ((s.modTxn t.num fun t => { t with judged := true, started := 7, done := true, inFlight := false }).modRing q Ring.drop).freeRing q
    | none => s.modRing q Ring.dropPart
  | .inBody q => match oldest q with
    | some t =>
      let s1 := s.modTxn t.num fun t => { t with judged := true, started := 7, outcome := some (plain Status.format) }
      ((s1.modRing q Ring.drop).forward t (t.message (plain Status.format)) true).freeRing q
    | none => s.modRing q Ring.dropPart
  | .outMsg q => match (s.mail.rings[q]).msgs with
    | m :: rest =>
      let s1 := s.modRing q fun r => ({ r with msgs := { m with dests := [] } :: rest }).drop.settle
      match m.num with
      | some n => s1.endTxn n
      | none => s1
    | [] => s
/-- A hub leaves mailbox service until the next reset (R321): hub X's engine moves, hub Y's loss is STANDBY_LOST. The
message is lost where the active hub served it. -/
def State.qmemFault (s : State) (h : HubId) (a : QmemHit) : State :=
  let s1 := if s.mail.active = h then s.qmemLoss a else s
  let s2 := (s1.modHub h fun H => { H with outOfMail := true }).fault FaultCode.qmemFault [h.val] s1.voteMask
  if h = 0 then { s2 with mail := { s2.mail with switching := s2.mail.switching || s2.mail.active == 0 } }
  else s2.fault FaultCode.standbyLost [1] s2.voteMask
/-- QMEM_FAULT (R321). -/
def execQmemFault (h : HubId) (a : QmemHit) (s : State) : Host.Outcome State Fault Refusal := .next (s.qmemFault h a)

/-! ## Starting a command -/

/-- The lanes in the vote have all started a transaction. -/
def State.allStarted (s : State) (t : Txn) : Bool := s.voteMask &&& ~~~t.started == 0
/-- A lane's own response goes out, with MORE while a lane in the vote has yet to answer (R313). -/
def State.sendLspec (s : State) (num : Nat) (l : LaneId) (r : Reply) : State :=
  match s.txn num with
  | none => s
  | some t =>
    if t.done || !s.mailUp then s else
    let last := s.allStarted t
    let s1 := s.modTxn num fun t => { t with lspecSent := t.lspecSent ||| only l, firstAt := if t.firstAt.isNone then some s.now else t.firstAt }
    s1.forward t (t.message r (16 + 32 * l.val + if last then 0 else 8)) last

end Sys2Proof.Machine
end

