-- ==== Sys2Proof/Machine/PoindModule.lean ====
section
/-!
DEFINITION. The module family of Poind (R341, R343 to R351, R509): what each opcode checks, changes and answers once
the checks common to all have passed.
-/

namespace Sys2Proof.Machine

/-- What an opcode does: the state after it, and its answer; none where the answer comes later. -/
abbrev OpRes := State × Option Reply

/-- The first condition that holds refuses the command with its status; else the command runs. -/
def State.unless (s : State) (checks : List (Bool × Nat)) (run : State → OpRes) : OpRes :=
  match checks.find? (·.1) with
  | some c => (s, some (plain c.2))
  | none => run s
/-- A record of the log only, for what an opcode logs beside its events. The spec gives such a record no code, so its
CODE is a free value. -/
def State.logNote (s : State) (detail : Bytes) : State :=
  let (v, s1) := s.free
  s1.logRec (s1.eventOctets (v.toNat % 65536) 0 3 (scope []) detail)

/-! ## NOP, IDENT and STATUS -/

def opNop (_ : Cmd) (s : State) : OpRes := (s, some (okReply []))
/-- The active bank as IDENT shows it (R343). -/
def State.pbank (s : State) : Nat := if s.flash.bankActive then s.flash.lastBank.val else 0xFF
/-- The life-cycle state's code; 0 until it is read. -/
def State.lcCode (s : State) : Nat := (s.mode.lifecycle.map (·.code)).getD 0
/-- IDENT (R343). -/
def State.identOctets (s : State) : Bytes :=
  toLe 8 s.otp.unitId ++ toLe 2 0x0960 ++ toLe 4 s.fwVersion ++ toLe 1 s.upd.runSlot.val ++ toLe 1 (bit s.upd.trialRun 0) ++
  toLe 1 s.pbank ++ toLe 1 s.lcCode ++ s.sealOf ++ toLe 2 s.mode.bootShown.toNat ++ toLe 1 s.bus.nodeId ++ toLe 1 (bit s.otp.order96L 0) ++ toLe 2 0
def opIdent (_ : Cmd) (s : State) : OpRes := (s, some (okReply s.identOctets))
/-- HUBS of STATUS (R344). -/
def State.hubsOctet (s : State) : Nat :=
  bit (s.mail.active == 0 && s.mailUp) 0 + bit (s.mail.active == 1 && s.mailUp) 1 + bit s.hubs[(0 : HubId)].faulted 2 + bit s.hubs[(1 : HubId)].faulted 3 +
  bit s.hubs[(0 : HubId)].time.passive 4 + bit s.hubs[(1 : HubId)].time.passive 5 + bit (s.anyStands FaultCode.standbyLost) 6 + bit (s.anyStands FaultCode.timeSplit) 7
/-- STATUS as a lane answers it (R344). -/
def State.statusOctets (s : State) (l : LaneId) : Bytes :=
  toLe 1 s.mode.mode.code ++ toLe 1 s.lcCode ++
  toLe 1 (s.voteMask.toNat + 8 * (maskOf fun k => s.lanes[k].st == .resting : LaneMask).toNat + 64 * (s.supplier.map (·.val)).getD 3) ++
  toLe 1 s.hubsOctet ++ toLe 2 s.mode.bootShown.toNat ++ toLe 1 s.bus.sset ++ toLe 1 (s.lanes[l].voted.fresh.toNat) ++
  allGroups.map (fun g => BitVec.ofNat 8 (s.groupOctet l g)) ++ toLe 2 s.faults.length ++ toLe 4 s.uptime ++ toLe 2 0
/-- STATUS: answered at the freeze (R338). -/
def opStatus (_ : Cmd) (s : State) : OpRes := (s, none)
/-- FAULT_LIST from an index (R345). -/
def State.faultOctets (s : State) (first : Nat) : Bytes :=
  let es := (s.faults.drop first).take 84
  toLe 2 s.faults.length ++ toLe 2 es.length ++ es.flatMap fun f => toLe 2 f.code ++ f.scope ++ toLe 1 f.lanes.toNat ++ toLe 1 0 ++ toLe 4 f.ecn.toNat
def opFaultList (_ : Cmd) (s : State) : OpRes := (s, none)

/-! ## MODE_REQ (R346, R373, R374) -/

/-- The last vote commanded every channel 0 and every field output off, as the lanes in the vote hold it (R374). -/
def State.votedDark (s : State) : Bool :=
  s.activeLanes.all fun l => (s.lanes[l].voted.cmd.all (· == 0)) && (allPoints.all fun p => !(s.params.isOut p && has s.lanes[l].voted.pts p))
/-- The request is permitted in the mode in force (R373, R374, R522). -/
def State.reqPermitted (s : State) (m : Mode) : Bool :=
  match m with
  | .commission => s.mode.mode == .join || (s.mode.mode == .safe && !s.mode.dualDisagree) || (s.mode.mode.drives && s.votedDark)
  | .service => s.mode.mode == .commission && !s.upd.trialRun
  | _ => s.mode.mode.runs
/-- The mode a TARGET names. -/
def reqTarget : Nat → Option Mode
  | 2 => some .commission
  | 3 => some .service
  | 7 => some .halt
  | _ => none
/-- The log of a MODE_REQ: PREV, target, cause and PERSON. -/
def State.logReq (s : State) (m : Mode) (cause : Nat) (person : DWord) : State :=
  s.logNote (toLe 1 s.mode.mode.code ++ toLe 1 m.code ++ toLe 1 cause ++ toLe 4 person.toNat)
def opModeReq (c : Cmd) (s : State) : OpRes :=
  let person := leAt c.p 4 4
  s.unless [(!allZero c.p 1 3, Status.reserved), ((reqTarget (leAt c.p 0 1)).isNone || badPerson person, Status.range)] fun s =>
    match reqTarget (leAt c.p 0 1) with
    | none => (s, some (plain Status.range))
    | some m =>
      if m = s.mode.mode then (s, some (okReply []))
      else if !s.reqPermitted m then (s, some (plain Status.mode))
      else if m = .halt then ((s.logReq m 12 (BitVec.ofNat 32 person)).enterMode .halt 12, some (okReply []))
      else ({ s with mode := { s.mode with reqs := s.mode.reqs ++ [{ target := m, person := BitVec.ofNat 32 person, num := c.num }] } }, none)

/-! ## LIFECYCLE_REQ (R347, R388, R389) -/

/-- The state a TARGET names. -/
def lcTarget : Nat → Option LifeCycle
  | 1 => some .factory
  | 2 => some .commissioning
  | 4 => some .maintenance
  | 5 => some .retired
  | _ => none
/-- The transitions of R388, with true for those that wipe station data. -/
def lcStepOf : LifeCycle → LifeCycle → Option Bool
  | .factory, .commissioning => some false
  | .commissioning, .factory => some true
  | .sealed, .maintenance => some false
  | .maintenance, .commissioning => some false
  | .maintenance, .factory => some true
  | .factory, .retired => some true
  | .commissioning, .retired => some true
  | .sealed, .retired => some true
  | .maintenance, .retired => some true
  | .retired, .factory => some true
  | _, _ => none
/-- CONFIRM of a two-step command (R347). -/
def State.confirmOf (s : State) (target : Nat) (person : Nat) : Word :=
  crc16 (toLe 8 s.otp.unitId ++ toLe 1 target ++ toLe 4 person ++ toLe 2 s.mode.bootShown.toNat)
/-- The working copy at the defaults (R353). -/
def State.defaultImage (s : State) : ParamImage := ParamImage.defaults s.bus.nodeId
/-- A lamp's totals since its history began start anew; the switch's own never do (R495). -/
def LampRun.clearHistory (r : LampRun) (now : Nat) : LampRun :=
  { r with histAt := now, gSum := 0, gN := 0, peakSum := 0, peakN := 0, onAt := none, peakNow := none, dayOns := 0, inrushHigh := 0, litTicks := 0 }
/-- The histories of some lamps and contactors start anew in a lane's totals (R499). -/
def WearRun.clear (r : WearRun) (lamp : Chan → Bool) (cont : Fin 24 → Bool) (now : Nat) : WearRun :=
  { lamp := Vector.ofFn fun c => if lamp c then (r.lamp[c]).clearHistory now else r.lamp[c]
    cont := Vector.ofFn fun i => if cont i then {} else r.cont[i] }
/-- The wear records of lamps and contactors are erased (R389). -/
def Wear.wiped (w : Wear) (now : Nat) : Wear :=
  { w with lamp := Vector.replicate 96 {}, cont := Vector.replicate 24 {}, run := w.run.map fun r => r.clear (fun _ => true) (fun _ => true) now }
/-- The erase of station data (R389), and the mark cleared. -/
def State.wipeStation (s : State) : State :=
  { s with
    flash := { s.flash with banks := Vector.replicate 2 none, bankActive := false, log := [], logFirst := 0, wiping := false }
    working := s.defaultImage
    wear := s.wear.wiped s.now
    wearStore := { kept := s.wearStore.kept.wiped s.now } }
/-- A life-cycle transition (R388): the stored and the reported state change, with an event. -/
def State.setLifecycle (s : State) (k : LifeCycle) (person : Nat) : State :=
  let old := s.lcCode
  ({ s with flash := { s.flash with lifecycle := k }, mode := { s.mode with lifecycle := some k } } : State).note EventCode.lifecycleChange []
    (toLe 1 old ++ toLe 1 k.code ++ toLe 4 person)
/-- The working copy where MAINTENANCE is entered from SEALED: that of the active bank (R388). -/
def State.workFromBank (s : State) : State := { s with working := (s.activeBank.map (·.image)).getD s.defaultImage }
def opLifecycleReq (c : Cmd) (s : State) : OpRes :=
  let tgt := leAt c.p 0 1
  let step := leAt c.p 1 1
  let conf := leAt c.p 2 2
  let person := leAt c.p 4 4
  s.unless [(!allZero c.p 8 4, Status.reserved), ((lcTarget tgt).isNone || !(step == 1 || step == 2) || (step == 1 && conf != 0) || badPerson person, Status.range)] fun s =>
    match lcTarget tgt, s.mode.lifecycle with
    | some k, some old =>
      if step = 1 then
        match lcStepOf old k with
        | none => (s, some (plain Status.lifecycle))
        | some _ =>
          let w := s.confirmOf tgt person
          ({ s with mode := { s.mode with lcStep := some (c.src, tgt, BitVec.ofNat 32 person, w, s.now) } }, some (okReply (toLe 2 w.toNat ++ toLe 2 0)))
      else
        match s.mode.lcStep with
        | none => (s, some (plain Status.auth))
        | some (src, t1, p1, w, at1) =>
          if src = c.src ∧ t1 = tgt ∧ p1.toNat = person ∧ w.toNat = conf ∧ s.now ≤ at1 + 60 * Config.sec then
            let s1 : State := { s with mode := { s.mode with lcStep := none } }
            match lcStepOf old k with
            | none => (s1, some (plain Status.lifecycle))
            | some wipe =>
              let s2 := s1.setLifecycle k person
              if wipe then
                ({ s2 with flash := { s2.flash with wiping := true }, mode := { s2.mode with wipeNum := some c.num } }, none)
              else if k = .commissioning ∧ old = .factory then ({ s2 with working := s2.defaultImage }, some (okReply []))
              else if k = .maintenance then (s2.workFromBank, some (okReply []))
              else (s2, some (okReply []))
          else (s, some (plain Status.auth))
    | _, _ => (s, some (plain Status.lifecycle))

/-! ## RESET_ARM and RESET_EXEC (R348) -/

def opResetArm (c : Cmd) (s : State) : OpRes :=
  let person := leAt c.p 0 4
  s.unless [(badPerson person, Status.range)] fun s =>
    let w := s.confirmOf 0 person
    ({ s with mode := { s.mode with armed := some (BitVec.ofNat 32 person, w, s.now) } }, some (okReply (toLe 2 w.toNat ++ toLe 2 0)))
def opResetExec (c : Cmd) (s : State) : OpRes :=
  let conf := leAt c.p 0 2
  let person := leAt c.p 4 4
  s.unless [(!allZero c.p 2 2, Status.reserved), (badPerson person, Status.range)] fun s =>
    match s.mode.armed with
    | none => (s, some (plain Status.auth))
    | some (p1, w, at1) =>
      if p1.toNat = person ∧ w.toNat = conf ∧ s.now ≤ at1 + 10 * Config.sec then
        ({ s with mode := { s.mode with armed := none, resetDue := some s.now } }, some (okReply []))
      else (s, some (plain Status.auth))

/-! ## SUBSCRIBE (R349), COUNTS_READ (R350), LOG_READ (R351), CHIP_IDENT (R509) -/

/-- A source leaves the rings it no longer subscribes to; the local port enters the rings it newly subscribes to at
their PROD. -/
def State.resubscribe (s : State) (x : Source) (m : BitVec 5) : State :=
  let old := s.mail.subs[srcIdx x]
  let s1 : State := { s with mail := { s.mail with subs := s.mail.subs.set (srcIdx x) m } }
  s1.each (List.finRange 5) fun s i =>
    let q : RingId := ⟨11 + i.val, by omega⟩
    let drop (o : OutMsg) : OutMsg := { o with dests := o.dests.filter (· != x), begun := if o.begun = some x then none else o.begun, sent := if o.begun = some x then 0 else o.sent }
    if old.getLsbD i.val && !m.getLsbD i.val then s.modRing q fun r => ({ r with msgs := r.msgs.map drop, waiting := r.waiting.map drop } : Ring).settle
    else if x = .host ∧ m.getLsbD i.val ∧ !old.getLsbD i.val then s.modRing q fun r => { r with hcons := r.prod }
    else s
def opSubscribe (c : Cmd) (s : State) : OpRes :=
  let m := octet c.p 0
  s.unless [(m &&& 0xE0#8 != 0 || !allZero c.p 1 3, Status.reserved)] fun s =>
    (s.resubscribe c.src (m.setWidth 5), some (okReply (toLe 1 (s.mail.subs[srcIdx c.src]).toNat ++ toLe 3 0)))
/-- COUNTS_READ as a lane answers it. -/
def LaneState.countOctets (L : LaneState) : Bytes :=
  allMasters.flatMap fun m =>
    let k := L.counts[m]
    toLe 4 k.discrepancy.toNat ++ toLe 4 k.sealMismatch.toNat ++ toLe 4 k.ssetMismatch.toNat ++ toLe 4 k.formatError.toNat ++
    toLe 4 k.codeFailX.toNat ++ toLe 4 k.codeFailY.toNat
def opCountsRead (_ : Cmd) (l : LaneId) (s : State) : State × Reply := (s, okReply s.lanes[l].countOctets)
/-- Records in LOG_RECORDS messages of at most 31. -/
def State.sendLog (s : State) (first : Nat) (recs : List Bytes) : Nat → State
  | 0 => s
  | fuel + 1 =>
    if recs.isEmpty then s
    else
      let now := recs.take 31
      (s.post 14 0x0F04 (toLe 4 first ++ toLe 2 now.length ++ toLe 2 0 ++ now.flatten)).sendLog (first + now.length) (recs.drop 31) fuel
def opLogRead (c : Cmd) (s : State) : OpRes :=
  let fr := leAt c.p 0 4
  let cnt := leAt c.p 4 2
  s.unless [(!allZero c.p 6 2, Status.reserved), (cnt == 0 || decide (1000 < cnt), Status.range)] fun s =>
    let f := s.flash
    let first := if fr = 0xFFFFFFFF then f.logFirst else max fr f.logFirst
    let recs := (f.log.drop (first - f.logFirst)).take cnt
    (s.sendLog first recs 33, some (okReply (toLe 4 first ++ toLe 2 recs.length ++ toLe 2 0)))
/-- A chip's record. -/
def ChipId.octets (k : ChipId) (i : Nat) : Bytes :=
  toLe 1 k.design.toNat ++ toLe 1 i ++ toLe 1 k.rev.toNat ++ toLe 1 k.fab.toNat ++ toLe 3 k.lot.toNat ++ toLe 1 k.wafer.toNat ++
  toLe 1 k.dieX.toNat ++ toLe 1 k.dieY.toNat ++ toLe 1 (bit k.otpOk 0) ++ toLe 1 0
/-- CHIP_IDENT as a lane answers it: itself, the hubs, the front-ends, the banks. -/
def Otp.chipOctets (o : Otp) (l : LaneId) : Bytes :=
  ((l.val, l.val) :: (List.range 18).map fun k => (k + 3, if k < 2 then k else if k < 14 then k - 2 else k - 14)).flatMap
    fun x => ((o.chips[x.1]?).getD {}).octets x.2
def opChipIdent (_ : Cmd) (l : LaneId) (s : State) : State × Reply := (s, okReply (s.otp.chipOctets l))

end Sys2Proof.Machine
end

