-- ==== Sys2Proof/Machine/PoindParam.lean ====
section
/-!
DEFINITION. The parameter family of Poind (R352 to R354).
-/

namespace Sys2Proof.Machine

/-- The TYPE and INDEX name a record (R352). -/
def recNamed (t i : Nat) : Bool := (recShape t).any fun x => decide (i < x.1)

/-- PARAM_READ. -/
def opParamRead (c : Cmd) (s : State) : OpRes :=
  let bank := leAt c.p 0 1
  let t := leAt c.p 1 1
  let i := leAt c.p 2 2
  s.unless [(decide (1 < bank) || !recNamed t i, Status.range), (bank == 0 && s.activeBank.isNone, Status.notReady)] fun s =>
    let img := if bank = 1 then s.working else s.params
    (s, some (okReply (toLe 1 t ++ toLe 1 0 ++ toLe 2 i ++ img.getRec t i)))

/-- A running TEACH names the channel. -/
def State.teaching (s : State) (i : Nat) : Bool := s.act.teach.any fun t => t.entries.any fun e => e.1.val == i

/-- PARAM_WRITE: the record enters the working copy; probe sources that it takes from their channels stop (R179). -/
def opParamWrite (c : Cmd) (s : State) : OpRes :=
  let t := leAt c.p 0 1
  let i := leAt c.p 2 2
  let r := c.p.drop 4
  s.unless [(octet c.p 1 != 0 || !reservedClear t r, Status.reserved), ((t == 3 || t == 4) && s.teaching i, Status.state)] fun s =>
    (({ s with working := s.working.setRec t i r } : State).probeTrim, some (okReply []))

/-- PARAM_REVERT. -/
def opParamRevert (_ : Cmd) (s : State) : OpRes := (s.workFromBank.probeTrim, some (okReply []))

/-- PARAM_DEFAULTS. -/
def opParamDefaults (c : Cmd) (s : State) : OpRes :=
  let t := leAt c.p 0 1
  let i := leAt c.p 2 2
  s.unless [(octet c.p 1 != 0, Status.reserved),
    (if t == 0xFF then i != 0xFFFF else (recShape t).isNone || (i != 0xFFFF && !recNamed t i), Status.range)] fun s =>
    let p := if t = 0xFF then s.defaultImage
      else
        let is := if i = 0xFFFF then List.range (((recShape t).map (·.1)).getD 0) else [i]
        is.foldl (fun p j => p.setRec t j (p.defaultRec s.bus.nodeId t j)) s.working
    (({ s with working := p } : State).probeTrim, some (okReply []))

/-- A SEAL_REFUSED answer for a failure. -/
def sealRefusal (f : Nat × Nat × Nat) : Reply :=
  { status := Status.sealRefused, payload := toLe 1 (sealCause f.1) ++ toLe 1 f.1 ++ toLe 2 f.2.1 ++ toLe 2 f.2.2 ++ toLe 2 0 }
/-- The node ID that the working copy would give the module (R223). -/
def State.nodeOf (s : State) (p : ParamImage) : Nat := p.nodeInUse s.bus.pins

/-- SEAL_SHOW. -/
def opSealShow (_ : Cmd) (s : State) : OpRes :=
  match sealFailure s.working (s.nodeOf s.working) with
  | some f => (s, some (sealRefusal f))
  | none => (s, some (okReply (s.working.sealOctets ++ toLe 8 0)))

/-- The other of two. -/
def other (i : Fin 2) : Fin 2 := 1 - i
/-- An item's history is cleared (R499); what is answered of it stays that of the last close until the next (R491). -/
def WearItem.clearHistory (w : WearItem) : WearItem := { w with pts := [], offDays := 0, clearedNow := true }
/-- The histories of some lamps and contactors are cleared, in the closed items and in every lane's totals (R499). -/
def Wear.clear (w : Wear) (lamp : Chan → Bool) (cont : Fin 24 → Bool) (now : Nat) : Wear :=
  { w with lamp := Vector.ofFn fun c => if lamp c then (w.lamp[c]).clearHistory else w.lamp[c]
           cont := Vector.ofFn fun i => if cont i then (w.cont[i]).clearHistory else w.cont[i]
           run := w.run.map fun r => r.clear lamp cont now }
/-- The working copy is written into the bank that is not active, or that was not the last, and becomes active. -/
def State.sealBank (s : State) : State :=
  let b := other s.flash.lastBank
  let bank : ParamBank := {
    pfmt := slotField s.flash.slots[s.upd.runSlot] 24 2
    seq := (((s.flash.banks[b]).map (·.seq)).getD 0 + 1) % 2 ^ 32
    confirmed := true
    image := s.working
    sealCode := s.working.sealOctets }
  let old : ParamImage := s.params
  let differs (c : Chan) : Bool := s.flash.bankActive && old.finger[c] != s.working.finger[c]
  { s with flash := { s.flash with banks := s.flash.banks.set b (some bank), lastBank := b, bankActive := true },
           wear := s.wear.clear differs (fun _ => false) s.now,
           upd := { s.upd with sealedInTrial := s.upd.sealedInTrial || s.upd.trialRun } }
/-- SEAL_CONFIRM. -/
def opSealConfirm (c : Cmd) (s : State) : OpRes :=
  let person := leAt c.p 8 4
  s.unless [(badPerson person, Status.range)] fun s =>
    match sealFailure s.working (s.nodeOf s.working) with
    | some f => (s, some (sealRefusal f))
    | none =>
      if slice c.p 0 8 ≠ s.working.sealOctets then (s, some (plain Status.sealWrong))
      else if s.mode.lifecycle = some .sealed ∧ s.activeBank.isSome ∧ s.sealOf = s.working.sealOctets then
        (s, some (okReply (toLe 1 1 ++ toLe 1 s.pbank ++ toLe 2 0)))
      else
        let s1 := ((s.sealBank.setLifecycle .sealed person).logNote (toLe 4 person ++ s.working.sealOctets))
        let s2 := s1.each (s1.faults.filter fun f => f.code == FaultCode.paramCorrupt) fun t f =>
          t.withdrawFault FaultCode.paramCorrupt ((f.scope.take 3).map (·.toNat))
        (s2, some (okReply (toLe 1 0 ++ toLe 1 s2.pbank ++ toLe 2 0)))

end Sys2Proof.Machine
end

