-- ==== Sys2Proof/Machine/PoindLamp.lean ====
section
/-!
DEFINITION. The lamp family of Poind (R355, R357 to R360) and teach-in (R160 to R164).
-/

namespace Sys2Proof.Machine

/-! ## LAMP_READ (R355) -/

/-- The cause a status code carries in LAMP_READ: 0 for none. -/
def State.causeRead (s : State) (l : LaneId) (c : Chan) (code : Nat) : Nat := let k := s.causeOf l c code; if k = 0xFF then 0 else k
/-- HELD of a channel in one lane. -/
def State.heldOctet (s : State) (l : LaneId) (c : Chan) : Nat :=
  let a := s.lanes[l].prov[c]
  let k := s.lanes[l].latches
  bit a.failDark 0 + bit a.failLit 1 + bit a.foreign 2 + bit (has k.short c) 3 + bit (has k.overtemp c) 4 + bit (has k.switchFault c) 5 + bit (has k.react c) 6
/-- One entry as a lane answers it. -/
def State.lampEntry (s : State) (l : LaneId) (c : Chan) : Bytes :=
  let v := s.votedChan c
  let cmd := s.lanes[l].inForce.cmd[c]
  toLe 1 v ++ toLe 1 (s.causeRead l c v) ++ toLe 1 (s.heldOctet l c) ++ toLe 1 (((s.lanes[l].prov[c].source).map (·.val)).getD 0xFF) ++
  toLe 1 (if 6 ≤ cmd.toNat then 0 else cmd.toNat) ++ toLe 1 0 ++ toLe 2 (sat ((s.tests.chan[c].proofNow s.now) / (60 * Config.sec)) 0xFFFF)
/-- The answer of a lane. -/
def State.lampReadOctets (s : State) (l : LaneId) (first count : Nat) : Bytes :=
  (allChans.filter fun c => decide (first ≤ c.val) && decide (c.val < first + count)).flatMap (s.lampEntry l)
def opLampRead (c : Cmd) (s : State) : OpRes :=
  s.unless [(decide (96 < leAt c.p 0 1 + leAt c.p 1 1), Status.range)] fun s => (s, none)

/-! ## PROVE_CLEAR (R357) and LATCH_CLEAR (R358) -/

def opProveClear (c : Cmd) (s : State) : OpRes :=
  let m : ChanMask := maskAt 96 c.p 0
  s.unless [(m == 0, Status.range)] fun s =>
    ({ s with act := { s.act with clears := s.act.clears ++ [{ num := c.num, prove := m }] } }, none)
def opLatchClear (c : Cmd) (s : State) : OpRes :=
  let m : ChanMask := maskAt 96 c.p 0
  let g := leAt c.p 12 2
  let b := leAt c.p 14 1
  let k := octet c.p 15
  s.unless [(decide (4096 ≤ g) || decide (16 ≤ b) || k &&& 0xF0#8 != 0, Status.reserved), (k == 0 || (m == 0 && g == 0 && b == 0), Status.range)] fun s =>
    ({ s with act := { s.act with clears := s.act.clears ++
      [{ num := c.num, latchCh := m, groups := BitVec.ofNat 12 g, banks := BitVec.ofNat 4 b, kinds := k, isProve := false }] } }, none)

/-- The held decisions of a channel in one lane (R166, R200). -/
def Proving.held (a : Proving) : Bool := a.failDark || a.failLit || a.foreign
/-- The held decisions of a channel are cleared at a vote instant, with the samples they were taken from; its code stands until the
next action point, from which the rules restart (R200, R357). -/
def Proving.lapsed (a : Proving) : Proving :=
  { a with failDark := false, failLit := false, foreign := false, source := none
           litWin := [], goodRun := 0, darkWin := [], forHist := [], vwHist := [], onsetAt := none
           lapse := some { dark := a.shownDark, lit := a.shownLit, foreign := a.shownForeign } }
/-- PROVE_CLEAR takes effect at a vote instant. -/
def State.proveClear (s : State) (k : PendingClear) : State :=
  let was : ChanMask := maskOf fun c => has k.prove c && s.activeLanes.any fun l => (s.lanes[l].prov[c]).held
  let s1 := s.modLanes fun _ L => if L.st == .active then
    { L with prov := Vector.ofFn (fun c => if has k.prove c then (L.prov[c]).lapsed else L.prov[c])
             prob := Vector.ofFn fun c => if has k.prove c then { L.prob[c] with resRun := 0, capRun := 0 } else L.prob[c] } else L
  s1.answer k.num (okReply (maskBytes was))
/-- The vote commands a channel dark, a group's permissive channels dark, a bank's outputs off, in every lane in the
vote (R358). -/
def State.voteDark (s : State) (c : Chan) : Bool := s.activeLanes.all fun l => cmdDark (s.lanes[l].voted.cmd[c])
def State.voteGroupDark (s : State) (g : GroupId) : Bool := (groupChans g).all fun c => !s.params.permissive c || s.voteDark c
def State.voteBankOff (s : State) (b : BankId) : Bool :=
  (bankPoints b).all fun p => !s.params.isOut p || s.activeLanes.all fun l => !has s.lanes[l].voted.pts p
/-- LATCH_CLEAR takes effect at a vote instant; the answer names the latches that stood and were cleared. -/
def State.latchClear (s : State) (k : PendingClear) : State :=
  let sw := k.kinds.getLsbD 0
  let re := k.kinds.getLsbD 1
  let anyL (f : Latches → Bool) : Bool := s.activeLanes.any fun l => f s.lanes[l].latches
  let chans : ChanMask := maskOf fun c => has k.latchCh c && s.voteDark c && anyL fun L => (sw && has L.switchFault c) || (re && has L.react c)
  let gs : GroupMask := maskOf fun g => has k.groups g && k.kinds.getLsbD 2 && s.voteGroupDark g && anyL fun L => has L.revert g || has L.safeState g || has L.energy g
  let bs : BitVec 4 := maskOf fun b => has k.banks b && k.kinds.getLsbD 3 && s.voteBankOff b && s.supplyGood b && anyL fun L => has L.supplyLoss b
  let s1 := s.modLanes fun _ L => if L.st == .active then
    { L with latches := { L.latches with
        switchFault := if sw then L.latches.switchFault &&& ~~~chans else L.latches.switchFault
        react := if re then L.latches.react &&& ~~~chans else L.latches.react } } else L
  let s2 := s1.each (members gs) fun s g => s.clearGroup g
  let s3 := s2.each (members bs) fun s b => s.clearSupplyLoss b
  let kinds := bit (sw && s.activeLanes.any fun l => s.lanes[l].latches.switchFault &&& chans != 0) 0 +
    bit (re && s.activeLanes.any fun l => s.lanes[l].latches.react &&& chans != 0) 1 + bit (gs != 0) 2 + bit (bs != 0) 3
  s3.answer k.num (okReply (maskBytes chans ++ toLe 2 gs.toNat ++ toLe 1 bs.toNat ++ toLe 1 kinds))

/-! ## TEACH (R359) -/

/-- The entries of a TEACH payload; none where a channel does not exist. -/
def teachEntries (p : Bytes) : Option (List (Chan × Nat × Nat × Nat × Nat)) :=
  (List.range (leAt p 0 1)).mapM fun i =>
    let o := 4 + 8 * i
    (chanAt (leAt p o 1)).map fun c => (c, leAt p (o + 1) 1, leAt p (o + 2) 2, leAt p (o + 4) 2, leAt p (o + 6) 2)
/-- A CLASS matches the FEED_TYPE of the working copy (R137). -/
def classFits (p : ParamImage) (c : Chan) (k : Nat) : Bool :=
  if p.isAc c.group then k != 2 && k != 4 else k != 1 && k != 3
/-- An update activation is running. -/
def State.activating (s : State) : Bool := s.upd.resetDue.isSome
def opTeach (c : Cmd) (s : State) : OpRes :=
  match teachEntries c.p with
  | none => s.unless [(!allZero c.p 1 3, Status.reserved)] fun s => (s, some (plain Status.range))
  | some es =>
    s.unless [(!allZero c.p 1 3, Status.reserved),
      (es.isEmpty || decide (96 < es.length) || es.any (fun e => e.2.1 == 0 || decide (5 < e.2.1)) || !decide (es.map (·.1)).Nodup, Status.range),
      (es.any fun e => !s.working.used e.1, Status.notInUse),
      (allGroups.any fun g => auxMode s.fe[g].aux.ctrl != 2, Status.auxMode),
      (es.any fun e => !s.teachFeed e.1.group, Status.teachFeed),
      (es.any fun e => !classFits s.working e.1 e.2.1, Status.range),
      (s.act.teach.isSome || s.act.lamp.isSome || s.activating, Status.state)] fun s =>
      (({ s with act := { s.act with teach := some { num := c.num, entries := es, since := Vector.replicate 12 s.now } } } : State).modLanes fun _ L =>
        { L with teach := Vector.replicate 12 {} }, none)
/-- What a lane has learned of a channel (R161), in the units of the fingerprint: 0.1 Ω, mV, µA, 10 mA, 10 µs, ms, µs and
1/10,000; and what rejects it (R163): step-5 results spread too far, too much current for too long, a step-5 sample that fails
the lit rule. -/
structure TeachLearn where
  rCold : Nat
  vSteady : Nat
  iSteady : Nat
  inrushPk : Nat
  inrushTau : Nat
  warmup : Nat
  dead : Nat
  decay : Nat
  recover : Nat
  form1 : Int
  form2 : Nat
  spreadOver : Bool
  longOver : Bool
  unsuitable : Bool
  deriving DecidableEq, Repr
/-- G_NOM in 0.1 µS from mV and µA. -/
def gNomOf (v i : Nat) : Nat := if v = 0 then 0 else (i * 10000 + v / 2) / v
/-- A sample passes R144 against a learned conductance, currents and voltages in fast LSBs. -/
def passesLit (loFrac g i v : Nat) : Bool := decide (loFrac * g * 250 * v ≤ i * 40 * 10 ^ 10)
/-- Two values lie within ±2 % of a mean. -/
def nearMean (x m : Nat) : Bool := decide (50 * (max x m - min x m) ≤ m)
/-- A share of values in n-ths, rounded up. -/
def ceilDiv (a n : Nat) : Nat := (a + n - 1) / n
/-- INRUSH_TAU in 10 µs (R161): from the 100 µs interval of the peak to the first from which the peak of half a mains period, on DC
of the interval itself, is no more than the steady peak plus (peak − steady peak) / e. -/
def tauOf (ps : List (Nat × Nat × Nat)) (half pk steady : Nat) : Nat :=
  let k0 := ((ps.filter fun e => e.2.1 == pk).map (·.1)).foldl min 0xFFFF
  let top (k : Nat) : Nat := ((ps.filter fun e => decide (k ≤ e.1) && decide (e.1 < k + half)).map (·.2.1)).foldl max 0
  let low (k : Nat) : Bool := decide (top k * 10 ^ 9 ≤ steady * 10 ^ 9 + (pk - steady) * 367879441)
  match (ps.map (·.1)).reverse.find? fun k => decide (k0 ≤ k) && low k with
  | some k => max 1 (10 * (k - k0))
  | none => 0xFFFF
/-- RECOVER in µs (R161): from the end of the overlay to the eighth of the first eight of the judged samples in a row that pass R144, plus
20 %, rounded up; past its range where there are none. -/
def recoverOf (xs : List (Nat × Nat × Nat)) (loFrac g overlayEnd : Nat) : Nat :=
  let r := xs.reverse.foldl (fun (a : Nat × Option Nat) e =>
    if a.2.isSome then a
    else let n := if passesLit loFrac g e.2.1 e.2.2 then a.1 + 1 else 0
         (n, if n = 8 then some e.1 else none)) (0, none)
  match r.2 with
  | some t => max 200 (ceilDiv ((t - overlayEnd) * 12) 2000)
  | none => 0xFFFF
/-- What a lane's record of a taught channel says once its steps are over (R161, R163). The readings that the spec's words leave
open are the model's (notes/assumptions/123.md). -/
def TeachWatch.learn (w : TeachWatch) (a : Proving) (p : ParamImage) (c : Chan) (cls period : Nat) : TeachLearn :=
  let ac := p.isAc c.group
  let ap := a.onAt.getD 0
  let rs := w.steadyWins ap
  let n := rs.length
  let mean (f : PeriodRec → Nat) (num : Nat) : Nat := if n = 0 then 0 else (roundDiv ((rs.map f).sum * num : Nat) (n * 2 ^ 23)).toNat
  let cur (r : PeriodRec) : Nat := if ac then r.irms else r.imean.natAbs
  let v := mean (·.vrms) 250000
  let i := mean cur 40000000
  let g := gNomOf v i
  let mv := meanOf (rs.map (·.vrms))
  let mi := meanOf (rs.map (·.irms))
  let st := w.steadyPeak ap ac
  let lo := p.loFrac c
  let early := w.peaks.filter fun e => decide (e.1 < 400)
  let pk := (early.map (·.2.1)).foldl max 0
  let near (r : PeriodRec) : Bool := nearMean r.vrms mv && nearMean r.irms mi
  let lastBad := ((w.wins.filter fun e => decide (ap < e.1) && !near e.2).map (·.1)).foldl max ap
  let formOf (f : PeriodRec → Int) : Int := if n = 0 then 0 else roundDiv ((rs.map f).sum) n
  { rCold := (median ((w.colds.reverse.take 4).map Int.ofNat)).toNat
    vSteady := v
    iSteady := i
    inrushPk := (roundDiv (pk * 4000 : Nat) 32768).toNat
    inrushTau := tauOf w.peaks (if ac then max 1 (period / 40000) else 1) pk st
    warmup := max 1 (ceilDiv ((lastBad - ap) * 5) (4 * Config.ms))
    dead := match (w.peaks.reverse.find? fun e => passesLit lo g e.2.1 e.2.2) with
      | some e => 10 * e.1
      | none => 0xFFFF
    decay := if cls = 1 ∨ cls = 2 then 500 else max 1 (ceilDiv ((w.decayAt - w.offAt.getD 0) * 5) 8000)
    recover := recoverOf w.after lo g (a.otAt.getD 0 + 28000)
    form1 := formOf fun r => if ac then roundDiv (10000 * r.power * 2 ^ 23) (r.vrms * r.irms) else roundDiv (10000 * r.imean) r.irms
    form2 := if ac then (formOf fun r => roundDiv (10000 * r.imean.natAbs : Nat) r.irms).toNat else 0
    spreadOver := decide (n = 0) || rs.any fun r => !near r
    longOver := decide (400 < w.peaks.countP fun e => decide (2048 < e.2.1))
    unsuitable := w.least.any fun e => !passesLit lo g e.1 e.2 }
/-- The fingerprint record a lane learned (R140, R161); the conductance follows from the steady means (R151). A FORM1 below 0 lies
outside its range. -/
def teachRecord (x : TeachLearn) (e : Chan × Nat × Nat × Nat × Nat) : Bytes :=
  let dflt (v d : Nat) : Nat := if v = 0 then d else v
  let w2 (v : Nat) : Bytes := toLe 2 (min v 0xFFFF)
  toLe 1 e.2.1 ++ toLe 1 1 ++ w2 x.rCold ++ toLe 4 x.vSteady ++ toLe 4 x.iSteady ++ toLe 4 (gNomOf x.vSteady x.iSteady) ++ w2 (dflt e.2.2.1 900) ++
  w2 (dflt e.2.2.2.1 1100) ++ w2 x.inrushPk ++ w2 x.inrushTau ++ w2 x.warmup ++ w2 x.dead ++ w2 x.decay ++ w2 x.recover ++
  w2 (if x.form1 < 0 then 0xFFFF else x.form1.toNat) ++ w2 x.form2 ++ w2 (dflt e.2.2.2.2 500) ++ toLe 2 0
/-- The outcome of a learned fingerprint (R163), in the order of its table; 0 adopts it. -/
def State.teachOutcome (s : State) (e : Chan × Nat × Nat × Nat × Nat) (x : TeachLearn) (feedLost : Bool) : Nat :=
  let c := e.1
  let k := e.2.1
  let p := { s.working with finger := s.working.finger.set c (teachRecord x e) }
  let inRange := (chkFinger p c).all (·.2)
  if ((k = 1 ∨ k = 2) ∧ 5000 * x.vSteady < x.rCold * x.iSteady) ∨ (p.isAc c.group ∧ 2000 < x.form2) then 1
  else if x.spreadOver ∨ 1500 < x.warmup then 2
  else if !inRange ∨ 2500 < x.inrushPk ∨ x.longOver ∨ 500 < x.recover then 3
  else if x.unsuitable ∧ (k = 3 ∨ k = 5) ∧ p.isAc c.group then 4
  else if feedLost ∨ !s.teachFeed c.group then 5
  else 0
/-- What a lane learned of a channel. -/
def State.teachLearn (s : State) (l : LaneId) (e : Chan × Nat × Nat × Nat × Nat) : TeachLearn :=
  s.lanes[l].teach[e.1.group].learn s.lanes[l].prov[e.1] s.working e.1 e.2.1 s.groups[e.1.group].feed.periodLen
/-- Two lanes in the vote learned the same (R162). -/
def State.teachAgreed (s : State) (e : Chan × Nat × Nat × Nat × Nat) : Option TeachLearn :=
  let xs := s.activeLanes.map fun l => (l, s.teachLearn l e)
  (xs.find? fun x => xs.any fun y => y.1 != x.1 && y.2 == x.2).map (·.2)
/-- A taught channel is through its steps in a lane: off again, and its current has stayed below 5 % of the steady peak for 25 ms,
or the 2.7 s that a channel takes at most are over (notes/assumptions/123.md). -/
def TeachWatch.over (w : TeachWatch) (since now : Nat) : Bool :=
  w.offAt.any fun t => decide (max t w.decayAt + 25 * Config.ms ≤ now) || decide (since + 2700 * Config.ms ≤ now)
/-- TEACH answers once every entry has its outcome. -/
def State.teachEnds (s : State) : State :=
  if s.mode.mode ≠ .commission ∨ s.act.teach.any (fun t => t.entries.all fun e => t.done.any fun d => d.1 == e.1) then s.stopTeach else s
/-- TEACH_CHANNEL_DONE (R161 to R163): after its steps the fingerprint is adopted or rejected, and the group goes on to its next
channel. -/
def execTeachChannelDone (c : Chan) (s : State) : Host.Outcome State Fault Refusal :=
  .next (match s.act.teach with
    | none => s
    | some r =>
      match r.entries.find? fun e => e.1 == c with
      | none => s
      | some e =>
        if r.current c.group = some c ∧ !s.activeLanes.isEmpty ∧ s.activeLanes.all fun l => (s.lanes[l].teach[c.group]).over r.since[c.group] s.now then
          let out := match s.teachAgreed e with
            | some x => s.teachOutcome e x (has r.feedLost c.group)
            | none => 6
          let s1 : State := match s.teachAgreed e with
            | some x => if out = 0 then { s with working := { s.working with finger := s.working.finger.set c (teachRecord x e) } } else s
            | none => s
          let s2 := s1.modLanes fun _ L => { L with teach := L.teach.set c.group {} }
          ({ s2 with act := { s2.act with teach := some { r with
              done := r.done ++ [(c, out)]
              since := r.since.set c.group s.now
              onAt := r.onAt.set c.group none
              feedLost := r.feedLost &&& ~~~(only c.group) } } } : State).teachEnds.probeTrim
        else s)

/-! ## LAMP_TEST (R360) -/

/-- DURATION in seconds, rounded up to whole cycles. -/
def State.wholeCycles (s : State) (secs : Nat) : Nat := (secs * Config.sec + s.tCyc - 1) / s.tCyc * s.tCyc
def opLampTest (c : Cmd) (s : State) : OpRes :=
  let m : ChanMask := maskAt 96 c.p 0
  let cmd := leAt c.p 12 1
  let d := leAt c.p 14 2
  s.unless [(octet c.p 13 != 0, Status.reserved), (m == 0 || cmd == 0 || decide (5 < cmd) || d == 0 || decide (600 < d), Status.range),
    (allChans.any fun i => has m i && !s.working.configured i, Status.notInUse), (s.act.teach.isSome || s.act.lamp.isSome, Status.state)] fun s =>
    (({ s with act := { s.act with lamp := some { num := c.num, chans := m, cmd := BitVec.ofNat 4 cmd, duration := s.wholeCycles d, skip := s.pastHandOver } } } : State).overlayNow, none)
/-- LAMP_TEST_END (R360): the test has ended at an action point; the answer gives the statuses standing before it. -/
def execLampTestEnd (s : State) : Host.Outcome State Fault Refusal :=
  .next (match s.act.lamp with
    | some t =>
      match t.snap with
      | some x => ({ s with act := { s.act with lamp := none } } : State).answer t.num (okReply (x ++ toLe 1 (bit t.early 0) ++ toLe 3 0))
      | none => s
    | none => s)

end Sys2Proof.Machine
end

