-- ==== Sys2Proof/Machine/PoindMeas.lean ====
section
/-!
DEFINITION. The measurement, probe, bus, time, field and test families of Poind (R361 to R366).
-/

namespace Sys2Proof.Machine

/-- A run of words as octets, each low octet first. -/
def wordOctets (f : Nat → Nat) (a n : Nat) : Bytes := (List.range n).flatMap fun i => toLe 2 (f (a + i))

/-! ## Lane-specific reads (R361) -/

/-- MEAS_READ: the answering lane's own period records (R338). -/
def opMeasRead (c : Cmd) (l : LaneId) (s : State) : State × Reply :=
  let a := leAt c.p 0 1
  let n := leAt c.p 1 1
  (s, if n = 0 ∨ 63 < n ∨ 96 < a + n then plain Status.range
      else okReply ((allChans.filter fun i => decide (a ≤ i.val) && decide (i.val < a + n)).flatMap fun i => toLe 16 ((s.lanes[l].grp[i.group]).recs[i.pos]).value))
def opAuxRead (c : Cmd) (_ : LaneId) (s : State) : State × Reply :=
  (s, if octet c.p 1 ≠ 0 then plain Status.reserved else
    match groupAt (leAt c.p 0 1) with
    | none => plain Status.range
    | some g =>
      let f := s.fe[g]
      let d := s.groups[g].feed
      okReply (f.aux.res.toList.flatMap (fun r => toLe 6 r.value) ++ toLe 2 f.auxStat ++ toLe 2 f.auxCtrl ++ toLe 2 f.aux.sel.toNat ++
        toLe 4 d.periodLen ++ toLe 2 d.periodSeq.toNat ++ toLe 2 d.flagsWord))
/-- A lane's probe answer for a channel. -/
def State.probeOctets (s : State) (l : LaneId) (i : Chan) : Bytes :=
  let L := s.lanes[l]
  let b := L.prob[i]
  let a := L.prov[i]
  let k := s.causeOf l i (s.chanCode l i)
  let crosses : ChanMask := maskOf fun j => (L.coupling i j).any (·.cross)
  toLe 4 s.cpn ++ toLe 1 b.verdict.code ++ toLe 1 (sat b.failRun 255) ++
  toLe 1 (bit b.openCircuit 0 + bit a.foreign 1 + bit (s.fe[i.group].probeActive.getLsbD i.pos.val) 2) ++
  toLe 1 (if k = 0xFF then 0 else k) ++ toLe 1 ((a.source.map (·.val)).getD 0xFF) ++ toLe 3 0 ++ toLe 2 (sat ((b.rMeas + 2) / 5) 0x7FFF) ++
  toLeInt 2 (roundDiv b.ipMeas 1000) ++ toLeInt 2 (roundDiv b.vI 10000) ++ toLeInt 2 (roundDiv b.vQ 10000) ++ maskBytes crosses ++
  allChans.flatMap fun j => toLe 2 (match L.coupling i j with
    | some e => tc 16 (clamp (roundDiv e.val 5) 0x7FFF).1
    | none => 0x8000)
def opProbeRead (c : Cmd) (l : LaneId) (s : State) : State × Reply :=
  (s, if octet c.p 1 ≠ 0 then plain Status.reserved else
    match chanAt (leAt c.p 0 1) with
    | none => plain Status.range
    | some i => okReply (s.probeOctets l i))
/-- The hub a CH or HUB octet names. -/
def hubAt : Nat → Option HubId
  | 0 => some 0
  | 1 => some 1
  | _ => none
def opBusRead (c : Cmd) (_ : LaneId) (s : State) : State × Reply :=
  (s, if octet c.p 1 ≠ 0 then plain Status.reserved else
    match hubAt (leAt c.p 0 1) with
    | none => plain Status.range
    | some h => okReply (wordOctets (s.busWord h) 0x500 2 ++ wordOctets (s.busWord h) 0x510 28))
def opTimeRead (c : Cmd) (_ : LaneId) (s : State) : State × Reply :=
  (s, if octet c.p 1 ≠ 0 then plain Status.reserved else
    match hubAt (leAt c.p 0 1) with
    | none => plain Status.range
    | some h => okReply (wordOctets (s.timeWord h) 0x400 17 ++ wordOctets (s.timeWord h) 0x420 8))
/-- SELFTEST_READ: words 0x2000 to 0x205F (R366). -/
def opSelftestRead (_ : Cmd) (_ : LaneId) (s : State) : State × Reply := (s, okReply (wordOctets s.testWord 0x2000 96))

/-! ## CAPTURE (R362) -/

def opCapture (c : Cmd) (s : State) : OpRes :=
  let sel := octet c.p 1
  let trig := leAt c.p 2 1
  let n := leAt c.p 4 2
  let pre := leAt c.p 6 2
  let fine := sel.getLsbD 1
  s.unless [(sel &&& 0xFC#8 != 0 || octet c.p 3 != 0, Status.reserved),
    ((chanAt (leAt c.p 0 1)).isNone || decide (2 < trig) || n == 0 || decide ((if fine then 16384 else 32768) < n) || decide (n ≤ pre) || (trig != 2 && pre != 0), Status.range),
    (s.act.capture.isSome, Status.state)] fun s =>
    match chanAt (leAt c.p 0 1) with
    | none => (s, some (plain Status.range))
    | some i =>
      let id := s.act.capCount + 1
      let at_ : Option Nat := if trig = 0 then some s.now else none
      let r : CaptureRun := { id := id, chan := i, sel := sel, trig := trig, samples := n, pre := pre, since := s.now, lane := (s.supplier).getD 0, trigAt := at_ }
      ({ s with act := { s.act with
          capCount := id
          capture := some r } },
        some (okReply (toLe 2 id.toNat ++ toLe 2 0)))
/-- The sample time of a captured sample (R80): its input instant in global time plus the group delay of its path. -/
def State.sampleTime (s : State) (fine : Bool) (t : Nat) : Nat := s.globalAt t + (if fine then 3840 else 960)
/-- The data of a capture in CAPTURE_DATA messages: 496 fast or 248 fine samples each, the last with LAST; the marks of OVR and of a
spare are those of the message's samples. -/
def State.captureSend (s : State) (r : CaptureRun) (xs : List CapSample) (flags first : Nat) : Nat → State
  | 0 => s
  | fuel + 1 =>
    let fine := r.sel.getLsbD 1
    let per := if fine then 248 else 496
    let now := xs.take per
    let last := decide (xs.length ≤ per)
    let tm (x : Option CapSample) : Bytes := toLe 8 ((x.map fun y => s.sampleTime fine y.t).getD 0)
    let pl := toLe 2 r.id.toNat ++ toLe 1 ((if last then 1 else 0) + flags + bit (now.any (·.ovr)) 3 + bit (now.any (·.spare)) 4) ++ toLe 1 r.sel.toNat ++
      toLe 1 r.chan.val ++ toLe 1 r.lane.val ++ toLe 2 first ++ tm now.head? ++ tm now.getLast? ++ now.flatMap fun x => toLeInt (if fine then 4 else 2) x.v
    let s1 := s.post 12 0x0F02 pl
    if last then s1 else s1.captureSend r (xs.drop per) flags (first + per) fuel
/-- A capture ends and its data goes to Q12. -/
def State.captureEnds (s : State) (r : CaptureRun) (flags : Nat) : State :=
  ({ s with act := { s.act with capture := none } } : State).captureSend r r.data.2 flags r.data.1 140
def opCaptureStop (_ : Cmd) (s : State) : OpRes :=
  match s.act.capture with
  | none => (s, some (plain Status.state))
  | some r => (s.captureEnds r 32, some (okReply []))
/-- CAPTURE_TRIGGER (R362): the capture ends when its samples are complete; a change of the supplying lane truncates it. -/
def execCaptureTrigger (s : State) : Host.Outcome State Fault Refusal :=
  .next (match s.act.capture with
    | some r => if r.cut ∨ s.supplier ≠ some r.lane then s.captureEnds r 2 else if r.full then s.captureEnds r 0 else s
    | none => s)
/-- CAPTURE_TIMEOUT (R362): a TRIG 2 capture has seen no status change for 60 s. -/
def execCaptureTimeout (s : State) : Host.Outcome State Fault Refusal :=
  .next (match s.act.capture with
    | some r => if r.trig = 2 ∧ r.trigAt.isNone ∧ s.since r.since (60 * Config.sec) then s.captureEnds r 4 else s
    | none => s)

/-! ## MATRIX_STREAM (R363) -/

def opMatrixStream (c : Cmd) (s : State) : OpRes :=
  let m : ChanMask := maskAt 96 c.p 0
  let d := leAt c.p 12 1
  s.unless [(!allZero c.p 13 3, Status.reserved), (decide (64 < d) || (d != 0 && m == 0), Status.range)] fun s =>
    ({ s with act := { s.act with matrixMask := m, matrixDiv := d } }, some (okReply []))

/-! ## FIELD_READ and FIELD_TEST (R364) -/

/-- The 96 octets of the points as a lane answers them. -/
def State.pointOctets (s : State) (l : LaneId) : Bytes :=
  allPoints.flatMap fun p =>
    toLe 2 (s.pointCode l p + bit (s.inputState l p) 4 + bit (has s.lanes[l].inForce.pts p && s.lampParams.isOut p) 5 + bit (has (BankF.rb s.lanes[l].bank[p.bank].frame) p.pos) 6)
def State.fieldOctets (s : State) (l : LaneId) : Bytes :=
  s.pointOctets l ++ allBanks.flatMap fun b =>
    toLe 2 ((s.lanes[l].bank[b].supply + 5) / 10) ++ toLe 1 (bit s.banks[b].warn 0 + bit (has s.lanes[l].latches.supplyLoss b) 1 + bit s.banks[b].missing 2) ++ toLe 1 0
def opFieldRead (_ : Cmd) (s : State) : OpRes := (s, none)
def opFieldTest (c : Cmd) (s : State) : OpRes :=
  let m : PointMask := maskAt 48 c.p 0
  let d := leAt c.p 6 2
  s.unless [(m == 0 || d == 0 || decide (600 < d), Status.range), (allPoints.any fun p => has m p && !s.working.isOut p, Status.notInUse),
    (s.act.field.isSome, Status.state)] fun s =>
    (({ s with act := { s.act with field := some { num := c.num, pts := m, duration := d * Config.sec, skip := s.pastHandOver } } } : State).overlayNow, none)
/-- FIELD_TEST_END (R364): the response follows the action point that ended the test, or the end of COMMISSION, with the point part of
FIELD_READ. -/
def execFieldTestEnd (s : State) : Host.Outcome State Fault Refusal :=
  .next (match s.act.field with
    | some t =>
      if t.early ∨ t.endAt.any fun e => decide (e ≤ s.bus.apAt) then
        let s1 : State := { s with act := { s.act with field := none } }
        s1.modTxn t.num fun x => { (x.reply s.now fun l => okReply (s.pointOctets l)) with outcome := some (okReply (s.pointOctets ((s.supplier).getD 0))) }
      else s
    | none => s)

/-! ## PROOF_TEST and COPPICE_NOW (R365, R366) -/

def opProofTest (c : Cmd) (s : State) : OpRes :=
  let m : ChanMask := maskAt 96 c.p 0
  s.unless [(m == 0, Status.range), (s.act.proof.isSome, Status.state)] fun s =>
    let steady (i : Chan) : Bool := s.activeLanes.all fun l => s.steadyOn l i
    let dark (i : Chan) : Bool := s.activeLanes.all fun l => !s.isOn l i
    let mask : ChanMask := maskOf fun i => has m i && s.lampParams.used i && (steady i || dark i)
    if mask = 0 then (s, some (okReply (List.replicate 96 0)))
    else
      let s1 := s.each (members mask) fun s i => s.modSched i fun t => { t with want := true }
      ({ s1 with act := { s1.act with proof := some { num := c.num, mask := mask, deadline := s.now + 5 * Config.sec } } }, none)
/-- PROOF_TEST_TIMEOUT (R365): 5 s after execution the results so far answer. -/
def execProofTestTimeout (s : State) : Host.Outcome State Fault Refusal :=
  .next (match s.act.proof with
    | some r =>
      if r.deadline ≤ s.now then
        let s1 := s.each allChans fun s i => s.modSched i fun t => { t with want := false }
        ({ s1 with act := { s1.act with proof := none } } : State).answer r.num (okReply r.results.toList)
      else s
    | none => s)

/-- COPPICE_NOW: the next window is due at once, and the count runs from it; the answer names the lane and the time to
the action point at which it can first open, the one after the next vote (R428). The spec states no START while no window can open
yet: it is a free value. -/
def opCoppiceNow (_ : Cmd) (s : State) : OpRes :=
  let lane := (s.coppice.repeatLane).getD s.coppice.next
  let (v, s1) := s.free
  let opens := if s.mode.voted then s.nextAp + s.localIn s.tCyc else s.nextAp
  let blocked := s.coppice.step != 0 || !s.windowMay opens
  let start := if blocked then v.toNat % 65536 else (opens - s.now + Config.ms - 1) / Config.ms
  ({ s1 with coppice := { s.coppice with dueAt := some s.now, deferred := false } }, some (okReply (toLe 1 lane.val ++ toLe 1 0 ++ toLe 2 start)))

end Sys2Proof.Machine
end

