-- ==== Sys2Proof/Machine/Wear.lean ====
section
/-!
DEFINITION. The wear monitor: forecasts (R498), the daily close and the hourly write (R490 to R497, R502, R504), and the
wear opcodes of Poind (R367, R499, R503).
-/

namespace Sys2Proof.Machine

/-! ## Forecasts (R498), in exact integers -/

/-- The sums of a least-squares fit: n, Σx, Σy, Σx², Σxy, Σy². -/
structure FitSums where
  n : Int := 0
  x : Int := 0
  y : Int := 0
  xx : Int := 0
  xy : Int := 0
  yy : Int := 0
  deriving DecidableEq, Repr
def FitSums.of (pts : List (Nat × Int)) : FitSums :=
  pts.foldl (fun s p => { n := s.n + 1, x := s.x + p.1, y := s.y + p.2, xx := s.xx + p.1 * p.1, xy := s.xy + p.1 * p.2, yy := s.yy + p.2 * p.2 }) {}
/-- n·Σx² − (Σx)², the slope times this, and the residual sum times n·this. -/
def FitSums.d (f : FitSums) : Int := f.n * f.xx - f.x * f.x
def FitSums.slope (f : FitSums) : Int := f.n * f.xy - f.x * f.y
def FitSums.res (f : FitSums) : Int := (f.n * f.yy - f.y * f.y) * f.d - f.slope * f.slope
/-- DAYS, DAYS_LO and DAYS_HI of a fit towards an end point. -/
def forecast (pts : List (Nat × Int)) (day : Nat) (end_ : Int) : Nat × Nat × Nat :=
  let f := FitSums.of pts
  if pts.length < 14 then (0xFFFF, 0xFFFF, 0xFFFF)
  else
    let gap := (end_ * f.n - f.y) * f.d - f.slope * (f.n * day - f.x)
    if f.slope = 0 ∨ gap * f.slope < 0 then (0xFFFE, 0xFFFE, 0xFFFE)
    else if gap = 0 then (0, 0, 0)
    else
      let g := gap.natAbs
      let rate := f.n.natAbs * f.slope.natAbs
      let num := f.n.natAbs * f.d.natAbs * (1645 * 1645) * f.res.natAbs
      let den := (pts.length - 2) * 1000000
      let t := Nat.sqrt (num / den)
      let tUp := if t * t * den = num then t else t + 1
      (sat (g / rate) 65533, sat ((g - tUp) / rate) 65533, sat ((g + t) / rate) 65533)
/-- The slope's sign decides a lamp's end point (R492). -/
def slopeSign (pts : List (Nat × Int)) : Int := if pts.length < 14 then 0 else (FitSums.of pts).slope.sign

/-! ## The close of one item -/

/-- The day's value joins the fit, and the forecast is formed anew. `end_` is a function of the slope's sign, `used` of the
value. -/
def WearItem.close (w : WearItem) (day fitDays : Nat) (y : Option Int) (end_ : Int → Int) (used : Int → Int → Nat) : WearItem :=
  let pts := (y.toList.map fun v => (day, v)) ++ w.pts
  let pts := pts.take fitDays
  let sg := slopeSign pts
  let (d, lo, hi) := forecast pts day (end_ sg)
  { w with pts := pts, days := BitVec.ofNat 16 d, daysLo := BitVec.ofNat 16 lo, daysHi := BitVec.ofNat 16 hi,
           ndays := pts.length
           used := match pts.head? with
             | some p => BitVec.ofNat 16 (sat (used p.2 (if d = 0xFFFE then 0 else sg)) 0xFFFF)
             | none => if w.clearedNow then 0 else w.used
           day := BitVec.ofNat 32 day, cleared := w.clearedNow, clearedNow := false }
/-- A 32-bit register from a value. -/
def dw (v : Nat) : DWord := BitVec.ofNat 32 v
/-- The report record of an item (R503). -/
def WearItem.octets (w : WearItem) (kind index sub : Nat) : Bytes :=
  toLe 1 kind ++ toLe 1 index ++ toLe 1 sub ++ toLe 1 w.flags ++ toLe 2 w.days.toNat ++ toLe 2 w.daysLo.toNat ++ toLe 2 w.daysHi.toNat ++
  toLe 2 w.used.toNat ++ toLe 2 w.ndays ++ toLe 2 0 ++ toLe 4 w.v1.toNat ++ toLe 4 w.v2.toNat ++ toLe 4 w.v3.toNat ++ toLe 4 w.day.toNat
/-- The band edge of a lamp that its slope heads for, or the one nearer to its value while there is no trend. -/
def lampEnd (p : ParamImage) (c : Chan) (y sg : Int) : Int :=
  let lo : Int := p.bandLo c * 1000
  let hi : Int := p.bandHi c * 1000
  if sg < 0 then lo else if 0 < sg then hi else if (y - lo).natAbs ≤ (hi - y).natAbs then lo else hi
/-- A switch-on whose 40 ms are over, and their samples in, belongs to the day that closes (R493). -/
def LampRun.settled (r : LampRun) (now : Nat) : LampRun := if r.onAt.any fun t => decide (t + 41 * Config.ms ≤ now) then r.fold else r
/-- A mean of fast current samples in 10 mA. -/
def tenMa (sum n : Nat) : Nat := if n = 0 then 0 else (sum * 4000) / (32768 * n)
/-- The day's mean inrush peak lies outside 75 % to 125 % of INRUSH_PK, on a day of at least 10 switch-ons (R494). -/
def LampRun.inrushOff (r : LampRun) (pk : Nat) : Bool :=
  decide (10 ≤ r.dayOns) && decide (0 < r.peakN) && (decide (4 * 4000 * r.peakSum < 3 * pk * 32768 * r.peakN) || decide (5 * pk * 32768 * r.peakN < 4 * 4000 * r.peakSum))
/-- Lit time of the history up to now in ticks. -/
def LampRun.litNow (r : LampRun) (now : Nat) : Nat := r.litTicks + (r.litSince.map fun t => now - max t r.histAt).getD 0
/-- Life consumed of a switch in 0.01 % (R495). -/
def LampRun.life (r : LampRun) : Nat := (r.q * 25600 + r.nth * 1000000000 * 2 ^ 30) / (200 * 1000000000 * 2 ^ 30)
/-- The daily sums of a lamp start anew. -/
def LampRun.newDay (r : LampRun) (now : Nat) : LampRun := { r.settled now with gSum := 0, gN := 0, peakSum := 0, peakN := 0, dayOns := 0 }
/-- A close of a lamp from the supplying lane's totals (R491). -/
def State.closeLamp (s : State) (day : Nat) (run : WearRun) (c : Chan) : State :=
  let p := s.params
  if !p.configured c then s else
  let r := (run.lamp[c]).settled s.now
  let y : Option Int := if 100 ≤ r.gN then some (r.gSum / r.gN : Nat) else none
  let used (v sg : Int) : Nat :=
    let e := lampEnd p c v sg
    10000 * (v - 1000000).natAbs / max (e - 1000000).natAbs 1
  let w0 := s.wear.lamp[c]
  let last := ((y.toList ++ w0.pts.map (·.2)).head?).getD 0
  let w1 := w0.close day p.fitDays y (fun sg => lampEnd p c last sg) used
  let days := if r.inrushOff (p.inrushPk c) then (if w0.day.toNat + 1 = day then w0.offDays else 0) + 1 else 0
  let w2 := { w1 with offDays := days
                      v1 := dw last.natAbs
                      v2 := dw (sat (tenMa r.peakSum r.peakN) 65535 + 65536 * sat r.inrushHigh 65535)
                      v3 := dw (r.litNow s.now / (60 * Config.sec))
                      alarm := decide (w1.daysLo.toNat ≤ p.lampAlarmDays)
                      alarm2 := decide (3 ≤ days) }
  let s1 : State := { s with wear := { s.wear with lamp := s.wear.lamp.set c w2 } }
  let s2 := if w2.alarm && !w0.alarm then s1.note 0x0240 [c.val] else s1
  if w2.alarm2 && !w0.alarm2 then s2.note 0x0241 [c.val] else s2
/-- A close of a switch. -/
def State.closeSwitch (s : State) (day : Nat) (run : WearRun) (c : Chan) : State :=
  let p := s.params
  let r := run.lamp[c]
  let w0 := s.wear.switch[c]
  let w1 := w0.close day p.fitDays (some (r.life : Int)) (fun _ => 10000) (fun v _ => v.natAbs)
  let w2 := { w1 with v1 := dw (r.q * 256 / (100000 * 2 ^ 30))
                      v2 := dw r.nth
                      v3 := dw r.switchOns
                      alarm := decide (p.swAlarm ≤ w1.used.toNat) || decide (w1.daysLo.toNat ≤ p.lampAlarmDays) }
  let s1 : State := { s with wear := { s.wear with switch := s.wear.switch.set c w2 } }
  if w2.alarm && !w0.alarm then s1.note 0x0242 [c.val] else s1
/-- A close of a contactor, numbered 2·g + s; WEAR_CONT_SLOW was raised when it was decided (R502). -/
def State.closeContactor (s : State) (day : Nat) (run : WearRun) (i : Fin 24) : State :=
  let p := s.params
  let g : GroupId := ⟨i.val / 2, by omega⟩
  if !p.contactors g then s else
  let r := run.cont[i]
  let rating := p.contRating g
  let w0 := s.wear.cont[i]
  let w1 := w0.close day p.fitDays (some (r.ops : Int)) (fun _ => rating) (fun v _ => 10000 * v.natAbs / max rating 1)
  let w2 := { w1 with v1 := dw r.ops
                      v2 := dw (sat r.lastRelease 65535 + 65536 * sat r.maxRelease 65535)
                      v3 := dw rating
                      alarm := decide (p.contAlarm * 100 ≤ w1.used.toNat)
                      alarm2 := decide (3 ≤ r.slow) }
  let s1 : State := { s with wear := { s.wear with cont := s.wear.cont.set i w2 } }
  if w2.alarm && !w0.alarm then s1.note 0x0243 [g.val, p.outOf g (i.val % 2 == 0)] else s1
/-- A close of a silicon item. -/
def State.closeSilicon (s : State) (day : Nat) (i : Fin 5) : State :=
  let p := s.params
  let r := s.wear.osc[i]
  let y : Option Int := if r.n = 0 then none else some (roundDiv r.sum r.n)
  let w0 := s.wear.silicon[i]
  let lim := p.silAlarm * 100
  let w1 := w0.close day p.fitDays y (fun _ => -(lim : Int)) (fun v _ => 10000 * v.natAbs / max lim 1)
  let w2 := { w1 with v1 := match y with
                        | some v => dw (tc 32 v)
                        | none => w0.v1
                      v2 := dw r.temp
                      v3 := dw r.total
                      alarm := decide (10000 ≤ w1.used.toNat) }
  let s1 : State := { s with wear := { s.wear with silicon := s.wear.silicon.set i w2, osc := s.wear.osc.set i { r with sum := 0, n := 0 } } }
  if w2.alarm && !w0.alarm then s1.note 0x0245 [i.val] else s1
/-- The larger of two registers. -/
def maxDw (a b : DWord) : DWord := if a.toNat ≤ b.toNat then b else a
/-- The erase counts and retirements of the flash at a close: how its writes fall on sectors is nowhere stated, so they rise by free
values, and never fall (notes/assumptions/145.md). -/
def State.flashWorn (s : State) : State :=
  let (top, s1) := s.free
  let (mean, s2) := s1.free
  let (gone, s3) := s2.free
  { s3 with flash := { s3.flash with eraseTop := maxDw s3.flash.eraseTop top, eraseMean := maxDw s3.flash.eraseMean mean, retired := maxDw s3.flash.retired gone } }
/-- A close of the flash. -/
def State.closeFlash (s : State) (day : Nat) : State :=
  let p := s.params
  let s1 := s.flashWorn
  let fl := s1.flash
  let w0 := s.wear.flash
  let w1 := w0.close day p.fitDays (some (fl.eraseTop.toNat : Int)) (fun _ => 100000) (fun v _ => 10000 * v.natAbs / 100000)
  let w2 := { w1 with v1 := fl.eraseTop, v2 := fl.eraseMean, v3 := fl.retired, alarm := decide (p.flashAlarm * 100 ≤ w1.used.toNat) }
  let s4 : State := { s1 with wear := { s1.wear with flash := w2 } }
  if w2.alarm && !w0.alarm then s4.note 0x0246 [] else s4

/-! ## Reports (R503, R504) -/

/-- Every item's record in the order of its kinds. -/
def Wear.records (w : Wear) : List Bytes :=
  (List.finRange 96).map (fun c => (w.lamp[c]).octets 1 c.val 0) ++ (List.finRange 96).map (fun c => (w.switch[c]).octets 2 c.val 0) ++
  (List.finRange 24).map (fun i => (w.cont[i]).octets 3 (i.val / 2) (i.val % 2)) ++ (List.finRange 5).map (fun i => (w.silicon[i]).octets 4 i.val 0) ++
  [w.flash.octets 5 0 0]
/-- Records in WEAR_MSG messages of at most 31. -/
def State.sendWear (s : State) (rs : List Bytes) : Nat → State
  | 0 => s
  | fuel + 1 =>
    if rs.isEmpty then s
    else (s.post 13 0x0F03 (toLe 4 s.wear.day.toNat ++ toLe 2 (min rs.length 31) ++ toLe 2 0 ++ (rs.take 31).flatten)).sendWear (rs.drop 31) fuel

/-! ## The daily close and the hourly write -/

/-- The cycle's vote is the first after a day boundary (R490), be it that the boundary passed while no vote took place, and the day
is not closed yet. -/
def State.closes (s : State) : Bool := s.mode.voted && s.bus.everAcquired && s.wear.seen.any fun d => decide (d < s.wearDay)
/-- A boundary of global time of a given period lies within the last cycle. -/
def State.crossed (s : State) (period : Nat) : Bool := s.laneTime / period != (s.laneTime - s.tCyc) / period
/-- What a write of the wear area keeps (R490): the closed items, and the running totals of the supplying lane, with a lit interval
that runs taken as far as it has come. -/
def State.wearKept (s : State) : Wear :=
  let ended (r : WearRun) : WearRun := { r with lamp := r.lamp.map fun x => { x.endLit s.now with histAt := 0 } }
  { s.wear with
    storeFail := false
    run := match s.supplier with
      | some k => Vector.replicate 3 (ended s.wear.run[k])
      | none => s.wear.run.map ended }
/-- A write of the wear area succeeds, or fails with WEAR_STORE. -/
def State.storeWear (s : State) (ok : Bool) : State :=
  if ok then { s with wear := { s.wear with storeFail := false }, wearStore := { kept := s.wearKept } }
  else if s.wear.storeFail then s
  else ({ s with wear := { s.wear with storeFail := true } } : State).note 0x0247 []
/-- Every lane's daily sums start anew after a close, and a slow contactor that has recovered may be reported again (R491, R502). -/
def WearRun.newDay (r : WearRun) (now : Nat) : WearRun :=
  { lamp := r.lamp.map fun x => x.newDay now
    cont := r.cont.map fun x => { x with slowSaid := x.slowSaid && decide (3 ≤ x.slow) } }
/-- The daily close (R490, R491) from the totals of the supplying lane. -/
def State.closeDay (s : State) (run : WearRun) : State :=
  let d := s.wearDay
  let s1 := s.each allChans fun s c => s.closeLamp d run c
  let s2 := s1.each allChans fun s c => s.closeSwitch d run c
  let s3 := s2.each (List.finRange 24) fun s i => s.closeContactor d run i
  let s4 := (s3.each (List.finRange 5) fun s i => s.closeSilicon d i).closeFlash d
  { s4 with wear := { s4.wear with day := dw d, seen := some d, run := s4.wear.run.map fun r => r.newDay s.now } }
/-- WEAR_DAILY_CLOSE (R490): the record of every item that changed is reported (R504). -/
def execWearDailyClose (ok : Bool) (s : State) : Host.Outcome State Fault Refusal :=
  .next (match (if s.closes then s.supplier else none) with
    | some k =>
      let s1 := s.closeDay s.wear.run[k]
      let news := ((s1.wear.records.zip s.wear.records).filter fun x => x.1 != x.2).map (·.1)
      (s1.sendWear news 8).storeWear ok
    | none => s)
/-- WEAR_HOURLY_STORE (R490), once Thaw has read the stored totals back. -/
def execWearHourlyStore (ok : Bool) (s : State) : Host.Outcome State Fault Refusal :=
  .next (if s.mail.opened && s.crossed 720000000000 then s.storeWear ok else s)
/-- RING_OSC_MEASURE (R497): once at each hour of global time, of a lane not resting, restarting or lost, or a hub in
service. -/
def execRingOscMeasure (i : SiliconItem) (m : OscMeasure) (s : State) : Host.Outcome State Fault Refusal :=
  let r := s.wear.osc[i]
  let hr := s.laneTime / 720000000000
  let up := if h : i.val < 3 then s.active ⟨i.val, h⟩ else !s.hubs[(if i.val = 3 then 0 else 1 : HubId)].inReset
  .next (if up && s.crossed 720000000000 && r.hour != some hr then
      { s with wear := { s.wear with osc := s.wear.osc.set i { r with sum := r.sum + m.drift, n := r.n + 1, temp := m.temp, total := r.total + 1, hour := some hr } } }
    else s)

/-! ## WEAR_READ, WEAR_REPORT, WEAR_RESET (R367) -/

def opWearRead (c : Cmd) (s : State) : OpRes :=
  let k := leAt c.p 0 1
  let i := leAt c.p 1 1
  let w := s.wear
  let one (x : Option WearItem) : OpRes := match x with
    | some y => (s, some (okReply (y.octets k i 0)))
    | none => (s, some (plain Status.range))
  match k with
  | 1 => one w.lamp[i]?
  | 2 => one w.switch[i]?
  | 3 => match w.cont[2 * i]?, w.cont[2 * i + 1]? with
    | some a, some b => (s, some (okReply (a.octets 3 i 0 ++ b.octets 3 i 1)))
    | _, _ => (s, some (plain Status.range))
  | 4 => one w.silicon[i]?
  | 5 => if i = 0 then one (some w.flash) else (s, some (plain Status.range))
  | _ => (s, some (plain Status.range))
def opWearReport (_ : Cmd) (s : State) : OpRes := (s.sendWear s.wear.records 8, some (okReply []))
def opWearReset (c : Cmd) (s : State) : OpRes :=
  let k := leAt c.p 0 1
  let i := leAt c.p 1 1
  let person := leAt c.p 4 4
  s.unless [(!allZero c.p 2 2, Status.reserved), (!(k == 1 && decide (i < 96)) && !(k == 3 && decide (i < 12)) || badPerson person, Status.range)] fun s =>
    let wear := s.wear.clear (fun c => k == 1 && c.val == i) (fun n => k == 3 && n.val / 2 == i) s.now
    (({ s with wear := wear } : State).logNote (toLe 1 k ++ toLe 1 i ++ toLe 2 0 ++ toLe 4 person), some (okReply []))

end Sys2Proof.Machine
end

