-- ==== Sys2Proof/Machine/Update.lean ====
section
/-!
DEFINITION. Firmware slots, update sessions and trial boots (R507 to R526), the update opcodes of Poind (R368, R369), and
the reset of the module (R380).
-/

namespace Sys2Proof.Machine

/-! ## Images (R512 to R515) -/

/-- The fields of the header lie in their ranges and its reserved octets are zero (R512); `size` is the image's. -/
def headerOk (img : Bytes) (size : Nat) : Bool :=
  let f (off n : Nat) : Nat := leAt img off n
  let units := f 30 1
  decide (512 ≤ img.length) && slice img 0 4 == [0x49, 0x44, 0x56, 0x31] && f 4 2 == 1 && decide (f 16 4 ≤ f 12 4) &&
  within (f 20 4) 1 8388096 && 512 + f 20 4 == size && img.length == size && f 24 2 != 0 && f 26 2 != 0 && decide (f 26 2 ≤ f 24 2) &&
  decide (f 28 1 < 4) && !(octet img 29).getLsbD (f 28 1) && (octet img 29) &&& 0xF0#8 == 0 && decide (units ≤ 16) && octet img 31 == 0 &&
  allZero img (64 + 8 * units) (128 - 8 * units) && allZero img 192 256
/-- An image is authentic (R513). -/
def Otp.authentic (o : Otp) (img : Bytes) (size : Nat) : Bool :=
  headerOk img size &&
  (match o.keys[leAt img 28 1]? with
   | some k => !(o.revoked.getLsbD (leAt img 28 1)) && P256.verify k.1 k.2 (leAt img 448 32) (leAt img 480 32) (beNat (sha256 (slice img 0 448)))
   | none => false) &&
  slice img 32 32 == sha256 (img.drop 512)
/-- An image is bound to the module (R514). -/
def Otp.bound (o : Otp) (img : Bytes) : Bool :=
  leAt img 6 2 == 0x0960 &&
  o.chips.all (fun k => decide (1 ≤ k.design.toNat ∧ k.design.toNat ≤ 4) && (octet img (7 + k.design.toNat)).getLsbD k.rev.toNat) &&
  (leAt img 30 1 == 0 || (List.range (leAt img 30 1)).any fun i => leAt img (64 + 8 * i) 8 == o.unitId)
/-- The status of an image: OK, IMAGE_AUTH, IMAGE_BINDING or IMAGE_ROLLBACK. -/
def Otp.imageStatus (o : Otp) (img : Bytes) (size : Nat) : Nat :=
  if !o.authentic img size then Status.imageAuth
  else if !o.bound img then Status.imageBinding
  else if leAt img 12 4 < o.minimum then Status.imageRollback
  else Status.ok

/-- A slot that a lane can find good at Thaw (R516): its image passes R513 to R515, or it holds what it was delivered with. -/
def State.slotPasses (s : State) (k : Fin 2) : Bool :=
  has s.flash.delivered k || s.otp.imageStatus s.flash.slots[k] (s.flash.slots[k]).length == Status.ok

/-! ## The boot control record (R511) -/

/-- A new boot control record goes into the copy not in force. -/
def Flash.putBoot (f : Flash) (f1 : BootRec → BootRec) : Flash :=
  let b := f.bootRec
  let i : Fin 2 := if (f.boot[0]) = b then 1 else 0
  { f with boot := f.boot.set i { f1 b with seq := b.seq + 1, crcOk := true } }
def State.putBoot (s : State) (f : BootRec → BootRec) : State := { s with flash := s.flash.putBoot f }

/-! ## Sessions (R517 to R520) -/

/-- The slot that receives (R519). -/
def State.targetSlot (s : State) : Fin 2 := other s.flash.bootRec.activeSlot
/-- The session's state is one that R520 closes. -/
def UpdState.opened (u : UpdState) : Bool := u == .receiving || u == .received || u == .verified
/-- A session ends with a cause (R517, R520, R529); a partial download is discarded (R369). -/
def State.closeSession (s : State) (cause : Nat) : State :=
  let s1 : State := if s.upd.st = .receiving ∧ 0 < s.upd.received then { s with flash := { s.flash with slots := s.flash.slots.set s.targetSlot [] } } else s
  ({ s1 with upd := { s1.upd with st := .idle, owner := none, size := 0, version := 0, received := 0 } } : State).note 0x0261 [] (toLe 1 cause)
def opUpdOpen (c : Cmd) (s : State) : OpRes :=
  let size := leAt c.p 0 4
  s.unless [(size == 0 || decide (8388608 < size), Status.range), (s.upd.st == .trial, Status.updateState)] fun s =>
    ({ s with upd := { s.upd with claims := s.upd.claims ++ [(c.src, c.num, size, dw (leAt c.p 4 4))] } }, none)
/-- The claim that wins a tick: that of the maintenance node before that of the local port (R518). -/
def bestClaim (cs : List (Source × Nat × Nat × DWord)) : Option (Source × Nat × Nat × DWord) :=
  match cs.find? fun c => c.1 == .maint with
  | some c => some c
  | none => cs.head?
/-- UPDATE_TICK (R518): claims are resolved at a whole millisecond of lane time. -/
def State.resolveClaims (s : State) : State :=
  let s1 := match s.upd.owner, bestClaim s.upd.claims with
    | none, some (x, _, size, v) =>
      ({ s with upd := { s.upd with st := .receiving, owner := some x, ownerEcn := s.ecn, size := size, version := v, received := 0, lastCmd := s.now } } : State).note
        0x0260 [] (toLe 1 (s.ownerOctet x) ++ toLe 1 s.targetSlot.val)
    | _, _ => s
  let s2 := s1.each s.upd.claims fun s cl =>
    s.answer cl.2.1 (if s.upd.owner = some cl.1 then okReply (toLe 1 s.targetSlot.val ++ toLe 3 0)
      else { status := Status.updateOwned, payload := toLe 1 ((s.upd.owner.map s.ownerOctet).getD 0) ++ toLe 3 0 ++ toLe 4 s.upd.ownerEcn.toNat })
  { s2 with upd := { s2.upd with claims := [] } }
def execUpdateTick (s : State) : Host.Outcome State Fault Refusal :=
  .next (if s.reaches Config.ms ∧ !s.upd.claims.isEmpty then s.resolveClaims else s)
/-- UPD_SESSION_TIMEOUT (R520). -/
def execUpdSessionTimeout (s : State) : Host.Outcome State Fault Refusal :=
  .next (if s.upd.st.opened ∧ s.since s.upd.lastCmd (300 * Config.sec) then s.closeSession 2 else s)

/-! ## The download (R368) -/

def opUpdBlock (c : Cmd) (s : State) : OpRes :=
  let off := leAt c.p 0 4
  let d := c.p.drop 4
  s.unless [(decide (s.upd.size < off + d.length), Status.range), (!s.upd.st.opened, Status.updateState)] fun s =>
    if off ≠ s.upd.received then (s, some { status := Status.updateOffset, payload := toLe 4 s.upd.received })
    else
      let t := s.targetSlot
      let img := (s.flash.slots[t]).take s.upd.received ++ d
      let n := off + d.length
      ({ s with flash := { s.flash with slots := s.flash.slots.set t img, delivered := s.flash.delivered &&& ~~~(only t) },
                upd := { s.upd with received := n, st := if n = s.upd.size then .received else .receiving } }, some (okReply []))
def opUpdVerify (_ : Cmd) (s : State) : OpRes :=
  s.unless [(s.upd.st != .received && s.upd.st != .verified, Status.updateState)] fun s =>
    let img := s.flash.slots[s.targetSlot]
    let st := s.otp.imageStatus img s.upd.size
    ({ s with upd := { s.upd with st := if st = Status.ok then .verified else .received } },
      some { status := st, payload := toLe 4 (leAt img 12 4) ++ toLe 2 (leAt img 6 2) ++ toLe 2 0 })

/-! ## Activation, confirmation, fallback (R521 to R526) -/

/-- A trial boot of a slot begins (R521): the record is written, UPD_ACTIVATED raised, the reset due. -/
def State.activate (s : State) (slot : Fin 2) : State :=
  let fb := if s.flash.bankActive then some s.flash.lastBank else none
  let s1 := s.putBoot fun b => { b with trial := true, trialSlot := slot, fallbackBank := fb, trials := 0, trialTime := 0, preLc := s.flash.lifecycle, counted := true }
  ({ s1 with upd := { s1.upd with st := .trial, resetDue := some s.now } } : State).note 0x0262 [] (slice s.flash.slots[slot] 12 4)
def opUpdActivate (_ : Cmd) (s : State) : OpRes :=
  s.unless [(s.upd.st != .verified, Status.updateState), (s.act.teach.isSome || s.act.lamp.isSome || s.act.field.isSome, Status.state)] fun s =>
    (s.activate s.targetSlot, some (okReply []))
/-- The fallback (R524): the record, the bank and the life-cycle state of before the trial are restored; a bank sealed in the
trial is left with STATE 2, as a migrated one is from the start. -/
def State.fallback (s : State) (cause : Nat) : State :=
  let b := s.flash.bootRec
  let s1 := s.putBoot fun b => { b with trial := false, fell := cause }
  let f := s1.flash
  let demote (i : Fin 2) (x : Option ParamBank) : Option ParamBank :=
    if f.bankActive && i == f.lastBank && b.fallbackBank != some i then x.map fun y => { y with confirmed := false } else x
  { s1 with flash := { f with
      banks := Vector.ofFn fun i => demote i f.banks[i]
      lastBank := b.fallbackBank.getD f.lastBank
      bankActive := b.fallbackBank.isSome
      lifecycle := b.preLc } }
/-- Image keys are revoked for good (R513). -/
def State.revoke (s : State) (ks : BitVec 4) : State := { s with otp := { s.otp with revoked := s.otp.revoked ||| ks } }
/-- A minimum version is programmed into the next OTP cell (R515). -/
def State.addMinCell (s : State) (v : DWord) : State := { s with otp := { s.otp with minCells := s.otp.minCells ++ [v] } }
def opUpdConfirm (_ : Cmd) (s : State) : OpRes :=
  s.unless [(!s.upd.trialRun, Status.updateState), (s.upd.incompat && !s.upd.sealedInTrial, Status.settingsIncompatible),
    (s.flash.bootRec.fallbackBank.isSome && !s.upd.sealedInTrial, Status.updateState)] fun s =>
    let b := s.flash.bootRec
    let img := s.flash.slots[b.trialSlot]
    let raise := leAt img 16 4
    let s1 := s.putBoot fun b => { b with activeSlot := b.trialSlot, trial := false, trials := 0, trialTime := 0 }
    let s2 := s1.revoke ((octet img 29).setWidth 4)
    let s3 := if raise ≤ s2.otp.minimum then s2
      else if 8 ≤ s2.otp.minCells.length then s2.note 0x0267 [] (toLe 4 raise)
      else (s2.addMinCell (dw raise)).note 0x0266 [] (toLe 4 raise)
    (({ s3 with upd := { s3.upd with st := .idle, owner := none, trialRun := false, incompat := false, sealedInTrial := false, trialStart := none } } : State).note
      0x0265 [] (slice img 12 4), some (okReply []))
def opUpdRollback (_ : Cmd) (s : State) : OpRes :=
  if s.upd.trialRun then
    if s.flash.bootRec.counted then
      let s1 := s.fallback 3
      ({ s1 with upd := { s1.upd with resetDue := some s.now } }, some (okReply []))
    else (s, some (plain Status.updateState))
  else
    s.unless [(s.upd.owner.isSome, Status.updateState)] fun s =>
      let slot := other s.flash.bootRec.activeSlot
      let img := s.flash.slots[slot]
      if s.slotPasses slot then (s.activate slot, some (okReply [])) else (s, some (plain (s.otp.imageStatus img img.length)))
def opUpdClose (_ : Cmd) (s : State) : OpRes :=
  s.unless [(s.upd.st == .trial, Status.updateState)] fun s => (s.closeSession 1, some (okReply []))
/-- UPD_STATUS (R369). Who OWNER names while no session is owned is nowhere stated: a free value. -/
def opUpdStatus (_ : Cmd) (s : State) : OpRes :=
  let b := s.flash.bootRec
  let (v, s1) := s.free
  (s1, some (okReply (toLe 1 s.upd.st.code ++ toLe 1 (match s.upd.owner with
      | some x => s.ownerOctet x
      | none => v.toNat % 256) ++
    toLe 1 (bit s.upd.trialRun 0 + bit s.upd.incompat 1 + bit (s.upd.st == .verified) 2) ++ toLe 1 b.trials ++
    toLe 4 s.upd.received ++ toLe 4 s.upd.size ++ toLe 4 s.upd.version.toNat)))

/-! ## The reset -/

/-- A reset (R380): flash, OTP and the stored wear values stay; all else takes its reset value. It closes a session that is not
in a trial (R520). The change to THAW is in the log only (R373 cause 15). -/
def State.moduleReset (s : State) : State :=
  let s0 := if s.upd.st.opened then s.closeSession 3 else s
  let s1 := s0.logRec (s0.eventOctets EventCode.modeChange 0 3 (scope []) (toLe 1 s0.mode.mode.code ++ toLe 1 0 ++ toLe 1 15))
  { flash := s1.flash, otp := s1.otp, wearStore := s1.wearStore, pending := s1.pending, now := s1.now, fresh := s1.fresh,
    mode := { resetAt := s1.now } }

/-! ## The events -/

/-- TRIAL_BOOT_RESET (R521, R524): the reset that an activation or a rollback made due. -/
def execTrialBootReset (s : State) : Host.Outcome State Fault Refusal :=
  .next (if s.upd.resetDue.isSome then s.moduleReset else s)
/-- MODULE_RESET_AFTER_EXEC (R348): an open session ends with the reset (R520). With fewer than two lanes the command found no
agreement, and only a power cycle leaves HALT (R377). -/
def execModuleResetAfterExec (s : State) : Host.Outcome State Fault Refusal :=
  .next (if s.mode.resetDue.isSome && decide (2 ≤ s.activeLanes.length) then s.moduleReset else s)
/-- TRIAL_TIME in ticks: what is stored and what has run since (R524). -/
def State.trialTicks (s : State) : Nat := s.flash.bootRec.trialTime * Config.sec + (s.upd.trialStart.map fun t => s.now - t).getD 0
/-- TRIAL_TIME_EXPIRY (R524): 600 s without confirmation. -/
def execTrialTimeExpiry (s : State) : Host.Outcome State Fault Refusal :=
  .next (if s.upd.trialRun && s.flash.bootRec.counted && decide (600 * Config.sec ≤ s.trialTicks) then (s.fallback 2).moduleReset else s)
/-- TRIAL_TIME_STORE (R524): every 10 s of a trial boot. -/
def execTrialTimeStore (s : State) : Host.Outcome State Fault Refusal :=
  .next (match s.upd.trialStart with
    | some t =>
      if s.upd.trialRun && s.flash.bootRec.counted && s.since t (10 * Config.sec) then
        let s1 := s.putBoot fun b => { b with trialTime := b.trialTime + (s.now - t) / Config.sec }
        { s1 with upd := { s1.upd with trialStart := some (t + (s.now - t) / Config.sec * Config.sec) } }
      else s
    | none => s)

end Sys2Proof.Machine
end

