-- ==== Sys2Proof/Machine/Command.lean ====
section
/-!
DEFINITION. The execution of mailbox commands (R308, R311, R336 to R338): the judgement in command order, a lane's start
of a command, the answers at a sub-image freeze, and the rows that name one opcode each.
-/

namespace Sys2Proof.Machine

/-- The opcodes whose answer all lanes vote on, as they act on the state. -/
def votedOp : Nat → Option (Cmd → State → OpRes)
  | 0x0000 => some opNop
  | 0x0001 => some opIdent
  | 0x0002 => some opStatus
  | 0x0003 => some opFaultList
  | 0x0004 => some opModeReq
  | 0x0005 => some opLifecycleReq
  | 0x0006 => some opSubscribe
  | 0x0008 => some opLogRead
  | 0x000A => some opResetArm
  | 0x000B => some opResetExec
  | 0x0100 => some opParamRead
  | 0x0101 => some opParamWrite
  | 0x0102 => some opParamRevert
  | 0x0103 => some opParamDefaults
  | 0x0104 => some opSealShow
  | 0x0105 => some opSealConfirm
  | 0x0200 => some opLampRead
  | 0x0201 => some opProveClear
  | 0x0202 => some opLatchClear
  | 0x0203 => some opTeach
  | 0x0204 => some opLampTest
  | 0x0302 => some opCapture
  | 0x0303 => some opCaptureStop
  | 0x0401 => some opMatrixStream
  | 0x0600 => some opFieldRead
  | 0x0601 => some opFieldTest
  | 0x0701 => some opProofTest
  | 0x0702 => some opCoppiceNow
  | 0x0800 => some opWearRead
  | 0x0801 => some opWearReport
  | 0x0802 => some opWearReset
  | 0x0900 => some opUpdOpen
  | 0x0901 => some opUpdBlock
  | 0x0902 => some opUpdVerify
  | 0x0903 => some opUpdActivate
  | 0x0904 => some opUpdConfirm
  | 0x0905 => some opUpdRollback
  | 0x0906 => some opUpdClose
  | 0x0907 => some opUpdStatus
  | _ => none
/-- The opcodes that each lane answers for itself (R313). -/
def laneOp : Nat → Option (Cmd → LaneId → State → State × Reply)
  | 0x0007 => some opCountsRead
  | 0x0009 => some opChipIdent
  | 0x0300 => some opMeasRead
  | 0x0301 => some opAuxRead
  | 0x0400 => some opProbeRead
  | 0x0500 => some opBusRead
  | 0x0700 => some opSelftestRead
  | 0x0A00 => some opTimeRead
  | _ => none

/-- The command of a stored message. -/
def Txn.cmd (t : Txn) : Cmd :=
  { src := t.src, ring := t.ring, num := t.num, tag := octet t.octets 0, p := t.octets.drop 8 }

/-- A transaction is judged once: refused by R308; refused by R336; or executed, with its
answer or with none yet. A command of the session's owner restarts its idle time (R520). -/
def State.judge (s : State) (t : Txn) : State :=
  let s0 : State := if s.upd.owner = some t.src then { s with upd := { s.upd with lastCmd := s.now } } else s
  let s1 := s0.modTxn t.num fun t => { t with judged := true }
  match t.refused with
  | some st => (s1.modTxn t.num fun t => { t with outcome := some (plain st) }).modRing t.ring fun r => { r with refuseCnt := r.refuseCnt + 1 }
  | none =>
    match s1.check336 t with
    | some st => s1.modTxn t.num fun t => { t with outcome := some (plain st) }
    | none =>
      match votedOp (msgOp t.octets) with
      | some f => match f t.cmd s1 with
        | (s2, some r) => s2.modTxn t.num fun t => { t with outcome := some r }
        | (s2, none) => s2
      | none => s1
/-- Every transaction not yet judged, up to a number, is judged in the order of the numbers (R337). -/
def State.judgeUpTo (s : State) (num : Nat) : State :=
  s.each (s.mail.txns.filter fun t => !t.judged && decide (t.num ≤ num)) State.judge
/-- A lane marks a judged transaction as started, and hands its answer over where it is known. -/
def State.handOver (s : State) (l : LaneId) (num : Nat) : State :=
  let s1 := s.modTxn num fun t => { t with started := t.started ||| only l }
  match s1.txn num with
  | none => s1
  | some t =>
    if t.lspec then
      match t.outcome, laneOp (msgOp t.octets) with
      | some r, _ => s1.sendLspec num l r
      | none, some f => let x := f t.cmd l s1; x.1.sendLspec num l x.2
      | none, none => s1
    else
      match t.outcome with
      | some r => s1.modTxn num fun t => t.reply s.now fun _ => r
      | none => s1
/-- A lane starts a transaction: it is judged, and the lane hands its answer over. -/
def State.startTxn (s : State) (l : LaneId) (num : Nat) : State := (s.judgeUpTo num).handOver l num
/-- The transactions of a ring that a lane has still to start, in ring order. -/
def State.unstarted (s : State) (l : LaneId) (q : RingId) : List Txn :=
  s.mail.txns.filter fun t => t.ring == q && !t.freed && !has t.started l
/-- The ring from which a lane takes its next command: Q00 to Q05 in turn, one command a ring (R311). -/
def State.ringDue (s : State) (l : LaneId) : Option RingId :=
  let a := s.mail.turn[l]
  ((List.range 6).map fun (i : Nat) => (⟨(a.val + i) % 6, by omega⟩ : RingId)).find? fun q => !(s.unstarted l q).isEmpty
/-- The turn passes to the ring after one. -/
def State.passTurn (s : State) (l : LaneId) (q : RingId) : State :=
  { s with mail := { s.mail with turn := s.mail.turn.set l ⟨(q.val + 1) % 6, by omega⟩ } }
/-- COMMAND_START (R311). -/
def execCommandStart (l : LaneId) (q : RingId) (s : State) : Host.Outcome State Fault Refusal :=
  .next (if s.active l && s.mailUp && s.ringDue l == some q then
      match s.unstarted l q with
      | t :: _ => ((s.startTxn l t.num).passTurn l q).freeRing q
      | [] => s
    else s)

/-! ## Answers at the freeze (R338) -/

/-- A lane's answer to an opcode that answers at a freeze. -/
def State.freezeReply (s : State) (t : Txn) (l : LaneId) : Option Reply :=
  let p := t.octets.drop 8
  match msgOp t.octets with
  | 0x0002 => some (okReply (s.statusOctets l))
  | 0x0003 => some (okReply (s.faultOctets (leAt p 0 2)))
  | 0x0200 => some (okReply (s.lampReadOctets l (leAt p 0 1) (leAt p 1 1)))
  | 0x0600 => some (okReply (s.fieldOctets l))
  | _ => none
/-- At a freeze every such transaction that all lanes in the vote have executed is answered. -/
def State.answerFrozen (s : State) : State :=
  s.each (s.mail.txns.filter fun t => t.judged && t.outcome.isNone && s.allStarted t && (s.freezeReply t 0).isSome) fun u t =>
    u.modTxn t.num fun x => { (x.reply s.now fun l => (s.freezeReply t l).getD (plain 0)) with outcome := s.freezeReply t ((s.supplier).getD 0) }

/-! ## One row for each opcode: a complete command arrives, and every lane in the vote executes it -/

/-- The source may produce into the ring: its own, or Q05 while it owns the session (R305, R518). -/
def State.mayProduce (s : State) (x : Source) (q : RingId) : Bool := q == cmdRing x || (q == 5 && s.upd.owner == some x)
/-- The state once a complete command is stored in its ring: in both hubs' queue memories, as the youngest transaction. -/
def State.stored (s : State) (c : MailCmd) (op : Nat) : State :=
  let m := cmdOctets c op
  let n := entriesOf m.length
  (((s.advanceSeq c.src n).dropOpen s.mail.active c.src).putMsg c.ring m |>.modRing c.ring fun r => r.produce n).storeTxn c.src c.ring m n
/-- A complete command is stored in its ring and executed by every lane in the vote, after what stands before it in
the ring (R311). A closed ring takes nothing, one without room discards
(R305, R244); the local port does not write into one (R319). The command of a bus source comes in the
segments that its length gives (R242), in sequence, and ends a message still incomplete (R245). -/
def State.accept (s : State) (c : MailCmd) (op : Nat) : State :=
  let m := cmdOctets c op
  let n := entriesOf m.length
  if !s.mailUp || !s.mayProduce c.src c.ring then s
  else if 32 < (s.mail.rings[c.ring]).used + n then
    (if c.src = .host then s else (((s.dropOpen s.mail.active c.src).modRing c.ring Ring.drop).advanceSeq c.src n).segDrop s.mail.active n)
  else
    let num := s.mail.nextNum
    let s1 := s.stored c op
    let lanes := s1.activeLanes
    let s2 := s1.each lanes fun u l => u.each ((u.unstarted l c.ring).filter fun t => decide (t.num < num)) fun v t => v.startTxn l t.num
    let s3 := if lanes.isEmpty then s2 else s2.judgeUpTo num
    (s3.each lanes fun u l => (u.handOver l num).passTurn l c.ring).freeRing c.ring

/-- NOP arrives and is executed by opNop. -/
def execNop (c : MailCmd) (s : State) : Host.Outcome State Fault Refusal := .next (s.accept c 0x0000)
/-- IDENT arrives and is executed by opIdent. -/
def execIdent (c : MailCmd) (s : State) : Host.Outcome State Fault Refusal := .next (s.accept c 0x0001)
/-- STATUS arrives and is executed by opStatus. -/
def execStatus (c : MailCmd) (s : State) : Host.Outcome State Fault Refusal := .next (s.accept c 0x0002)
/-- FAULT_LIST arrives and is executed by opFaultList. -/
def execFaultList (c : MailCmd) (s : State) : Host.Outcome State Fault Refusal := .next (s.accept c 0x0003)
/-- MODE_REQ arrives and is executed by opModeReq. -/
def execModeReq (c : MailCmd) (s : State) : Host.Outcome State Fault Refusal := .next (s.accept c 0x0004)
/-- LIFECYCLE_REQ arrives and is executed by opLifecycleReq. -/
def execLifecycleReq (c : MailCmd) (s : State) : Host.Outcome State Fault Refusal := .next (s.accept c 0x0005)
/-- SUBSCRIBE arrives and is executed by opSubscribe. -/
def execSubscribe (c : MailCmd) (s : State) : Host.Outcome State Fault Refusal := .next (s.accept c 0x0006)
/-- COUNTS_READ arrives and is executed by opCountsRead. -/
def execCountsRead (c : MailCmd) (s : State) : Host.Outcome State Fault Refusal := .next (s.accept c 0x0007)
/-- LOG_READ arrives and is executed by opLogRead. -/
def execLogRead (c : MailCmd) (s : State) : Host.Outcome State Fault Refusal := .next (s.accept c 0x0008)
/-- CHIP_IDENT arrives and is executed by opChipIdent. -/
def execChipIdent (c : MailCmd) (s : State) : Host.Outcome State Fault Refusal := .next (s.accept c 0x0009)
/-- RESET_ARM arrives and is executed by opResetArm. -/
def execResetArm (c : MailCmd) (s : State) : Host.Outcome State Fault Refusal := .next (s.accept c 0x000A)
/-- RESET_EXEC arrives and is executed by opResetExec. -/
def execResetExec (c : MailCmd) (s : State) : Host.Outcome State Fault Refusal := .next (s.accept c 0x000B)
/-- PARAM_READ arrives and is executed by opParamRead. -/
def execParamRead (c : MailCmd) (s : State) : Host.Outcome State Fault Refusal := .next (s.accept c 0x0100)
/-- PARAM_WRITE arrives and is executed by opParamWrite. -/
def execParamWrite (c : MailCmd) (s : State) : Host.Outcome State Fault Refusal := .next (s.accept c 0x0101)
/-- PARAM_REVERT arrives and is executed by opParamRevert. -/
def execParamRevert (c : MailCmd) (s : State) : Host.Outcome State Fault Refusal := .next (s.accept c 0x0102)
/-- PARAM_DEFAULTS arrives and is executed by opParamDefaults. -/
def execParamDefaults (c : MailCmd) (s : State) : Host.Outcome State Fault Refusal := .next (s.accept c 0x0103)
/-- SEAL_SHOW arrives and is executed by opSealShow. -/
def execSealShow (c : MailCmd) (s : State) : Host.Outcome State Fault Refusal := .next (s.accept c 0x0104)
/-- SEAL_CONFIRM arrives and is executed by opSealConfirm. -/
def execSealConfirm (c : MailCmd) (s : State) : Host.Outcome State Fault Refusal := .next (s.accept c 0x0105)
/-- LAMP_READ arrives and is executed by opLampRead. -/
def execLampRead (c : MailCmd) (s : State) : Host.Outcome State Fault Refusal := .next (s.accept c 0x0200)
/-- PROVE_CLEAR arrives and is executed by opProveClear. -/
def execProveClear (c : MailCmd) (s : State) : Host.Outcome State Fault Refusal := .next (s.accept c 0x0201)
/-- LATCH_CLEAR arrives and is executed by opLatchClear. -/
def execLatchClear (c : MailCmd) (s : State) : Host.Outcome State Fault Refusal := .next (s.accept c 0x0202)
/-- TEACH arrives and is executed by opTeach. -/
def execTeach (c : MailCmd) (s : State) : Host.Outcome State Fault Refusal := .next (s.accept c 0x0203)
/-- LAMP_TEST arrives and is executed by opLampTest. -/
def execLampTest (c : MailCmd) (s : State) : Host.Outcome State Fault Refusal := .next (s.accept c 0x0204)
/-- MEAS_READ arrives and is executed by opMeasRead. -/
def execMeasRead (c : MailCmd) (s : State) : Host.Outcome State Fault Refusal := .next (s.accept c 0x0300)
/-- AUX_READ arrives and is executed by opAuxRead. -/
def execAuxRead (c : MailCmd) (s : State) : Host.Outcome State Fault Refusal := .next (s.accept c 0x0301)
/-- CAPTURE arrives and is executed by opCapture. -/
def execCapture (c : MailCmd) (s : State) : Host.Outcome State Fault Refusal := .next (s.accept c 0x0302)
/-- CAPTURE_STOP arrives and is executed by opCaptureStop. -/
def execCaptureStop (c : MailCmd) (s : State) : Host.Outcome State Fault Refusal := .next (s.accept c 0x0303)
/-- PROBE_READ arrives and is executed by opProbeRead. -/
def execProbeRead (c : MailCmd) (s : State) : Host.Outcome State Fault Refusal := .next (s.accept c 0x0400)
/-- MATRIX_STREAM arrives and is executed by opMatrixStream. -/
def execMatrixStream (c : MailCmd) (s : State) : Host.Outcome State Fault Refusal := .next (s.accept c 0x0401)
/-- BUS_READ arrives and is executed by opBusRead. -/
def execBusRead (c : MailCmd) (s : State) : Host.Outcome State Fault Refusal := .next (s.accept c 0x0500)
/-- FIELD_READ arrives and is executed by opFieldRead. -/
def execFieldRead (c : MailCmd) (s : State) : Host.Outcome State Fault Refusal := .next (s.accept c 0x0600)
/-- FIELD_TEST arrives and is executed by opFieldTest. -/
def execFieldTest (c : MailCmd) (s : State) : Host.Outcome State Fault Refusal := .next (s.accept c 0x0601)
/-- SELFTEST_READ arrives and is executed by opSelftestRead. -/
def execSelftestRead (c : MailCmd) (s : State) : Host.Outcome State Fault Refusal := .next (s.accept c 0x0700)
/-- PROOF_TEST arrives and is executed by opProofTest. -/
def execProofTest (c : MailCmd) (s : State) : Host.Outcome State Fault Refusal := .next (s.accept c 0x0701)
/-- COPPICE_NOW arrives and is executed by opCoppiceNow. -/
def execCoppiceNow (c : MailCmd) (s : State) : Host.Outcome State Fault Refusal := .next (s.accept c 0x0702)
/-- WEAR_READ arrives and is executed by opWearRead. -/
def execWearRead (c : MailCmd) (s : State) : Host.Outcome State Fault Refusal := .next (s.accept c 0x0800)
/-- WEAR_REPORT arrives and is executed by opWearReport. -/
def execWearReport (c : MailCmd) (s : State) : Host.Outcome State Fault Refusal := .next (s.accept c 0x0801)
/-- WEAR_RESET arrives and is executed by opWearReset. -/
def execWearReset (c : MailCmd) (s : State) : Host.Outcome State Fault Refusal := .next (s.accept c 0x0802)
/-- UPD_OPEN arrives and is executed by opUpdOpen. -/
def execUpdOpen (c : MailCmd) (s : State) : Host.Outcome State Fault Refusal := .next (s.accept c 0x0900)
/-- UPD_BLOCK arrives and is executed by opUpdBlock. -/
def execUpdBlock (c : MailCmd) (s : State) : Host.Outcome State Fault Refusal := .next (s.accept c 0x0901)
/-- UPD_VERIFY arrives and is executed by opUpdVerify. -/
def execUpdVerify (c : MailCmd) (s : State) : Host.Outcome State Fault Refusal := .next (s.accept c 0x0902)
/-- UPD_ACTIVATE arrives and is executed by opUpdActivate. -/
def execUpdActivate (c : MailCmd) (s : State) : Host.Outcome State Fault Refusal := .next (s.accept c 0x0903)
/-- UPD_CONFIRM arrives and is executed by opUpdConfirm. -/
def execUpdConfirm (c : MailCmd) (s : State) : Host.Outcome State Fault Refusal := .next (s.accept c 0x0904)
/-- UPD_ROLLBACK arrives and is executed by opUpdRollback. -/
def execUpdRollback (c : MailCmd) (s : State) : Host.Outcome State Fault Refusal := .next (s.accept c 0x0905)
/-- UPD_CLOSE arrives and is executed by opUpdClose. -/
def execUpdClose (c : MailCmd) (s : State) : Host.Outcome State Fault Refusal := .next (s.accept c 0x0906)
/-- UPD_STATUS arrives and is executed by opUpdStatus. -/
def execUpdStatus (c : MailCmd) (s : State) : Host.Outcome State Fault Refusal := .next (s.accept c 0x0907)
/-- TIME_READ arrives and is executed by opTimeRead. -/
def execTimeRead (c : MailCmd) (s : State) : Host.Outcome State Fault Refusal := .next (s.accept c 0x0A00)

end Sys2Proof.Machine
end

