-- ==== Sys2Proof/Machine/Window.lean ====
section
/-!
DEFINITION. The local SPI port and the register window (R8, R11, R33, R34, R319, R326 to R334, R376).
-/

namespace Sys2Proof.Machine

/-! ## The shape of the window -/

/-- The reserved bits of a ring descriptor word (R318). -/
def ringRsv : Nat → Nat
  | 0 => 0x03FF
  | 7 => 0xFFC0
  | 9 => 0xFFE0
  | 0xA => 0xFFE0
  | 0xB => 0xFFFF
  | w => if 0x12 ≤ w then 0xFFFF else 0
/-- The reserved bits of an assigned word; none for an unassigned word. The registers are those of R107 to R117, R247 to
R249, R269 to R275, R318, R390 to R393, R444 to R447, R475, R476, R505, R506 and R528. -/
def reservedBits (a : Nat) : Option Nat :=
  let inside (lo hi : Nat) : Bool := decide (lo ≤ a) && decide (a < hi)
  if inside 0 5 then some 0
  else if a = 5 then some 0xFFFE
  else if a = 8 then some 0x000F
  else if inside 6 0xF then some 0
  else if inside 0x10 0x25 then some 0x00FF
  else if a = 0x100 ∨ a = 0x103 then some 1
  else if a = 0x101 ∨ a = 0x104 ∨ inside 0x108 0x110 then some 0
  else if a = 0x102 then some 0x1F00
  else if inside 0x200 0x400 then some (ringRsv ((a - 0x200) % 0x20))
  else if a = 0x408 then some 0x003F
  else if inside 0x400 0x40B ∨ inside 0x40C 0x411 ∨ inside 0x420 0x428 then some 0
  else if a = 0x500 then some 7
  else if a = 0x501 then some 0xC040
  else if inside 0x510 0x52C then some 0
  else if inside 0x800 0xB00 then
    let o := (a - 0x800) % 0x40
    some (if o < 0x3C then (if o % 3 = 1 then 0x07FC else 0) else if o = 0x3C then 0x400F else if o = 0x3D then 0xFFF0 else if o = 0x3E then 0xFFFC else 0x03E0)
  else if inside 0xB00 0xE00 then some (if (a - 0xB00) % 8 = 3 then 0x8000 else 0)
  else if inside 0xE00 0xEC0 then
    let o := (a - 0xE00) % 0x10
    some (if o = 5 then 0x3FFF else if o = 0xA then 0xFFF0 else if 0xB ≤ o then 0xFFFF else 0)
  else if inside 0x1000 0x1600 then
    let o := (a - 0x1000) % 0x80
    some (if 0x54 ≤ o then 0xFFFF else if o % 4 = 3 then 0xFF00 else 0)
  else if inside 0x1800 0x1860 then some (if a % 2 = 0 then 0x000F else 0)
  else if inside 0x1860 0x1870 then some (if a % 4 = 0 then 0x1FFF else 0)
  else if a = 0x2000 then some 7
  else if inside 0x2001 0x2008 then some 0
  else if inside 0x2010 0x2040 then some (if (a - 0x2010) % 0x10 = 0 then 0x003F else 0)
  else if inside 0x2040 0x2060 then
    let o := (a - 0x2040) % 0x10
    some (if o = 0 then 0x1800 else if 9 ≤ o then 0xFFFF else 0)
  else if a = 0x2802 then some 0x00FE
  else if inside 0x2800 0x2802 then some 0
  else if inside 0x2840 0x2BA0 ∨ inside 0x2C00 0x2C18 then some (if a % 4 = 0 then 0xFF00 else 0)
  else if inside 0x8000 0x10000 then some 0
  else none
/-- The lowest word and the length of the multi-word value a word belongs to (R108, R333); none for a single word. -/
def multiOf (a : Nat) : Option (Nat × Nat) :=
  let inside (lo hi : Nat) : Bool := decide (lo ≤ a) && decide (a < hi)
  let group (lo n : Nat) : Option (Nat × Nat) := some (lo + (a - lo) / n * n, n)
  if inside 0 4 then some (0, 4)
  else if inside 6 8 then some (6, 2)
  else if inside 9 0xD then some (9, 4)
  else if inside 0xD 0xF then some (0xD, 2)
  else if inside 0x108 0x110 then group 0x108 2
  else if inside 0x200 0x400 then
    let o := (a - 0x200) % 0x20
    if 0xC ≤ o ∧ o < 0x12 then some (a - o % 2, 2) else none
  else if inside 0x400 0x408 then group 0x400 4
  else if inside 0x40C 0x410 then group 0x40C 2
  else if inside 0x510 0x52C then group 0x510 2
  else if inside 0x800 0xB00 then
    let o := (a - 0x800) % 0x40
    if o < 0x3C then some (a - o % 3, 3) else none
  else if inside 0xB00 0xE00 then group 0xB00 8
  else if inside 0xE00 0xEC0 then
    let o := (a - 0xE00) % 0x10
    if o = 6 ∨ o = 7 then some (a - (o - 6), 2) else if o = 9 ∨ o = 0xA then some (a - (o - 9), 2) else none
  else if inside 0x1000 0x1600 then
    let o := (a - 0x1000) % 0x80
    if o < 0x54 then some (a - o % 4, 4) else none
  else if inside 0x1860 0x1870 then if 2 ≤ a % 4 then some (a - a % 2, 2) else none
  else if inside 0x2002 0x2008 then group 0x2002 2
  else if inside 0x2010 0x2040 then
    let o := (a - 0x2010) % 0x10
    if o = 0 then none
    else if o < 5 then some (a - (o - 1), 4)
    else if o < 9 then some (a - (o - 5) % 2, 2)
    else if 0xC ≤ o then some (a - o % 2, 2) else none
  else if inside 0x2040 0x2060 then
    let o := (a - 0x2040) % 0x10
    if 1 ≤ o ∧ o < 9 then some (a - (o - 1) % 2, 2) else none
  else if inside 0x2800 0x2802 then some (0x2800, 2)
  else if inside 0x2840 0x2BA0 then group 0x2840 4
  else if inside 0x2C00 0x2C18 then group 0x2C00 4
  else none

/-! ## Reads -/

/-- The port serves the window (R329). -/
def State.ready (s : State) : Bool := s.mail.opened || s.mode.mode == .halt
/-- A read of one word (R333): the lowest word of a multi-word value captures the whole value, a higher word returns what
was captured. -/
def State.readWord (s : State) (h : HubId) (a : Nat) : Word × State :=
  if !s.ready then (0, s) else
  match multiOf a with
  | none => (s.liveWord h a, s)
  | some (lo, n) =>
    if a = lo then
      let ws := (List.range n).map fun i => s.liveWord h (lo + i)
      (ws.headD 0, s.modHub h fun H => { H with win := { H.win with shadows := (lo, ws) :: H.win.shadows.filter fun x => x.1 != lo } })
    else
      match s.hubs[h].win.shadows.find? fun x => x.1 == lo with
      | some x => (x.2.getD (a - lo) 0, s)
      | none => (s.liveWord h a, s)
/-- MULTIWORD_CAPTURE (R333): the read of a value's lowest word. -/
def execMultiwordCapture (h : HubId) (addr : Word) (s : State) : Host.Outcome State Fault Refusal :=
  .next (s.readWord h addr.toNat).2

/-! ## Writes -/

/-- What a write of one word comes to: the state after it, the cause of its refusal (0: none), and whether it set a
reserved bit. -/
structure Written where
  s : State
  refused : Nat := 0
  rsv : Bool := false
/-- REF_CAUSE codes (R330). -/
def refLifecycle : Nat := 1
def refUnassigned : Nat := 2
def refMode : Nat := 3
def refOverrun : Nat := 5
def refRing : Nat := 6
def refRsvd : Nat := 7
/-- The local port produces into a ring (R318). -/
def State.hostProduces (s : State) (q : RingId) : Bool := q == 4 || (q == 5 && s.upd.owner == some .host)
/-- The messages between two entry counts of a ring in a hub's queue memory, each as its octets and entries; none when
they do not end on a message boundary (R319, R320). -/
def HubState.messages (m : Memory) (q : RingId) (at_ n : Nat) : Nat → Option (List (Bytes × Nat))
  | 0 => if n = 0 then some [] else none
  | fuel + 1 =>
    if n = 0 then some []
    else
      let octetAt (i : Nat) : Byte := m.read (4096 * q.val + (128 * at_ + i) % 4096)
      let len := (octetAt 4).toNat + 256 * (octetAt 5).toNat
      let k := entriesOf (8 + len)
      if n < k then none
      else (HubState.messages m q (at_ + k) (n - k) fuel).map fun t => ((List.range (8 + len)).map octetAt, k) :: t
/-- A PROD write (R319). -/
def State.writeProd (s : State) (h : HubId) (q : RingId) (v : Word) : Written :=
  let r := s.mail.rings[q]
  let n := (v - r.prod).toNat
  if !s.mailUp ∨ 32 < r.used + n then { s := s, refused := refRing }
  else
    match HubState.messages s.hubs[h].qmem q (r.prod.toNat % 32) n 33 with
    | none => { s := s, refused := refRing }
    | some ms =>
      let s1 := s.each ms fun s m => s.storeTxn .host q m.1 m.2
      { s := s1.modRing q fun r => { r with prod := v } }
/-- An HCONS write (R319). -/
def State.writeHcons (s : State) (q : RingId) (v : Word) : Written :=
  let r := s.mail.rings[q]
  if !s.mailUp ∨ (r.prod - r.hcons).toNat < (v - r.hcons).toNat then { s := s, refused := refRing }
  else { s := s.modRing q fun r => ({ r with hcons := v } : Ring).settle }
/-- A write to queue memory: into a free entry of a ring the local port produces into (R319), in both hubs. -/
def State.writeQmem (s : State) (a : Nat) (v : Word) : Written :=
  let q : RingId := ⟨(a - 0x8000) / 0x800 % 16, by omega⟩
  let r := s.mail.rings[q]
  let e := (a - 0x8000) % 0x800 / 0x40
  let off := (e + 32 - r.prod.toNat % 32) % 32
  if !s.mailUp ∨ !s.hostProduces q ∨ 32 ≤ off + r.used then { s := s, refused := refRing }
  else { s := s.modHubs fun _ H => { H with qmem := Memory.writeRun H.qmem (2 * (a - 0x8000)) (toLe 2 v.toNat) } }
/-- The RWS and WO registers of the measurement block (R98, R110 to R114): the register a word names, without its
reserved bits. -/
def auxTarget (a : Nat) (v : Word) : Option (GroupId × FeWrite) :=
  if h : 0x800 ≤ a ∧ a < 0xB00 then
    let g : GroupId := ⟨(a - 0x800) / 0x40, by omega⟩
    match (a - 0x800) % 0x40 with
    | 0x3C => some (g, .auxCtrl (v &&& 0xBFF0#16))
    | 0x3D => some (g, .auxSel (v &&& 0xF#16))
    | 0x3E => some (g, .auxReq (v &&& 3#16))
    | _ => none
  else if h : 0xE00 ≤ a ∧ a < 0xEC0 then
    let g : GroupId := ⟨(a - 0xE00) / 0x10, by omega⟩
    match (a - 0xE00) % 0x10 with
    | 0 => some (g, .auxRseq 0 v)
    | 1 => some (g, .auxRseq 1 v)
    | 2 => some (g, .auxRseq 2 v)
    | 3 => some (g, .auxRseq 3 v)
    | 4 => some (g, .auxIseq v)
    | _ => none
  else none
/-- The register is write-only. -/
def writeOnly : FeWrite → Bool
  | .auxReq _ => true
  | _ => false
/-- The stored life-cycle state, or the one a trial reports, seals the RWS fields (R332). -/
def State.sealedNow (s : State) : Bool := s.mode.lifecycle == some .sealed || s.mode.lifecycle == some .retired
/-- A write of one word through a hub (R8, R331, R332, R376): a reserved bit is reported whether or not the word is refused,
and the block of AUX_REQ is not writable in SEALED (R32), nor, as this model takes it, in RETIRED (notes/assumptions/137.md). -/
def State.writeWord (s : State) (h : HubId) (a : Nat) (v : Word) : Written :=
  let rsv := decide (v.toNat &&& (reservedBits a).getD 0 ≠ 0)
  if s.mode.mode = .halt ∧ !hostRing a then { s := s, refused := refMode, rsv := rsv }
  else if (reservedBits a).isNone then { s := s, refused := refUnassigned }
  else
      let w : Written :=
        if 0x8000 ≤ a then s.writeQmem a v
        else if hq : 0x200 ≤ a ∧ a < 0x400 then
          let q : RingId := ⟨(a - 0x200) / 0x20, by omega⟩
          let o := (a - 0x200) % 0x20
          if o = 4 ∧ s.hostProduces q then s.writeProd h q v
          else if o = 6 ∧ s.hostReads q then s.writeHcons q v
          else { s := s }
        else
          match auxTarget a v with
          | none => { s := s }
          | some (g, fw) =>
            if !writeOnly fw && s.mode.mode != .commission then { s := s, refused := refMode }
            else if s.sealedNow then { s := s, refused := refLifecycle }
            else if badAuxCtrl fw then { s := s, refused := refRsvd }
            else { s := s.feWrite g fw }
      { w with rsv := rsv }

/-! ## Transactions (R326 to R330) -/

/-- PSTAT of a hub (R330). -/
def State.pstat (s : State) (h : HubId) : Word :=
  let w := s.hubs[h].win
  if !s.ready then 0 else
  BitVec.ofNat 16 (bit true 15 + bit (s.mail.active == h && !s.mail.switching && !s.hubs[h].outOfMail) 14 + bit w.ref 13 + 1024 * w.refCause.toNat + bit w.rsv 9 + bit w.abort 8)
/-- A transaction begins: what the last one reported gives way. -/
def State.portBegin (s : State) (h : HubId) : State :=
  s.modHub h fun H => { H with win := { H.win with ref := false, refCause := 0, refAddr := 0, rsv := false, abort := false } }
/-- A refusal is reported: the first one in PSTAT, each one to the supplying lane, which counts it (R330, R393). -/
def State.portRefuse (s : State) (h : HubId) (cause a : Nat) : State :=
  let s1 := s.modHub h fun H => if H.win.ref then H else { H with win := { H.win with ref := true, refCause := BitVec.ofNat 3 cause, refAddr := BitVec.ofNat 16 a } }
  { s1 with mode := if h = 0 then { s1.mode with refusedX := s1.mode.refusedX + 1 } else { s1.mode with refusedY := s1.mode.refusedY + 1 } }
/-- A reserved bit was written (R8). -/
def State.portRsv (s : State) (h : HubId) : State :=
  let s1 := s.modHub h fun H => { H with win := { H.win with rsv := true } }
  { s1 with mode := if h = 0 then { s1.mode with rsvX := s1.mode.rsvX + 1 } else { s1.mode with rsvY := s1.mode.rsvY + 1 } }
/-- One word of a write burst: an address beyond 0xFFFF is OVERRUN (R327). -/
def State.portWrite (s : State) (h : HubId) (a : Nat) (v : Word) : State :=
  if !s.ready then s
  else if 0x10000 ≤ a then s.portRefuse h refOverrun a
  else
    let w := s.writeWord h a v
    let s1 := if w.refused ≠ 0 then w.s.portRefuse h w.refused a else w.s
    if w.rsv then s1.portRsv h else s1
/-- The words of a write burst. -/
def State.portWrites (s : State) (h : HubId) (a : Nat) : List Word → State
  | [] => s
  | v :: t => (s.portWrite h a v).portWrites h (a + 1) t
/-- The words of a read burst, and what it returns. -/
def State.portReads (s : State) (h : HubId) (a : Nat) : Nat → State × List Word
  | 0 => (s, [])
  | n + 1 =>
    if 0x10000 ≤ a then
      let s1 := if s.ready then s.portRefuse h refOverrun a else s
      let x := s1.portReads h (a + 1) n
      (x.1, 0 :: x.2)
    else
      let r := s.readWord h a
      let x := r.2.portReads h (a + 1) n
      (x.1, r.1 :: x.2)
/-- The MISO words of a transaction are kept as what the port returned last. -/
def State.portMiso (s : State) (h : HubId) (ws : List Word) : State := s.modHub h fun H => { H with win := { H.win with miso := ws } }
/-- CMD names no operation, or has a reserved bit (R328). -/
def badCmd (cmd : Word) : Bool := field cmd 14 2 == 0 || field cmd 14 2 == 3 || field cmd 11 3 != 0
/-- A whole transaction. One that ends after CMD names no address (notes/assumptions/142.md). -/
def State.spi (s : State) (h : HubId) (mosi : List Word) (cut : Bool) : State :=
  let pst := s.pstat h
  let refAddr := if s.ready then s.hubs[h].win.refAddr else 0
  let s0 := s.portBegin h
  let s1 := if cut then s0.modHub h fun H => { H with win := { H.win with abort := true } } else s0
  match mosi with
  | [] => s1.portMiso h []
  | [cmd] => (if s.ready && badCmd cmd then s1.portRefuse h refRsvd 0 else s1).portMiso h [pst]
  | cmd :: addr :: data =>
    let op := field cmd 14 2
    let count := field cmd 0 11
    let out (s : State) (ws : List Word) : State := s.portMiso h (pst :: refAddr :: ws)
    if !s.ready then out s1 (data.map fun _ => 0)
    else if badCmd cmd then out (s1.portRefuse h refRsvd addr.toNat) (data.map fun _ => 0)
    else if count = 0 then out s1 (data.map fun _ => 0)
    else if op = 2 then out (s1.portWrites h addr.toNat (data.take count)) (data.map fun _ => 0)
    else
      let x := s1.portReads h addr.toNat (min count (data.length - 1))
      out x.1 ((data.take 1).map (fun _ => 0) ++ x.2)

/-- SPI_TRANSACTION (R327). A hub in reset does not answer. -/
def execSpiTransaction (h : HubId) (mosi : List Word) (cut : Bool) (s : State) : Host.Outcome State Fault Refusal :=
  .next (if s.hubs[h].inReset then s else s.spi h mosi cut)
/-- A write of one word as a transaction of its own. -/
def State.oneWrite (s : State) (h : HubId) (a : Nat) (v : Word) : State :=
  if s.hubs[h].inReset then s else (s.portBegin h).portWrite h a v
/-- PROD_WRITE (R319). -/
def execProdWrite (h : HubId) (q : RingId) (v : Word) (s : State) : Host.Outcome State Fault Refusal :=
  .next (s.oneWrite h (0x204 + 0x20 * q.val) v)
/-- HCONS_WRITE (R319). -/
def execHconsWrite (h : HubId) (q : RingId) (v : Word) (s : State) : Host.Outcome State Fault Refusal :=
  .next (s.oneWrite h (0x206 + 0x20 * q.val) v)
/-- AUX_CTRL_WRITE (R98, R110). -/
def execAuxCtrlWrite (h : HubId) (g : GroupId) (v : Word) (s : State) : Host.Outcome State Fault Refusal :=
  .next (s.oneWrite h (0x83C + 0x40 * g.val) v)
/-- AUX_REQ_CAL (R103, R112). -/
def execAuxReqCal (h : HubId) (g : GroupId) (s : State) : Host.Outcome State Fault Refusal :=
  .next (s.oneWrite h (0x83E + 0x40 * g.val) 2)
/-- AUX_REQ_INJ (R101, R112). -/
def execAuxReqInj (h : HubId) (g : GroupId) (s : State) : Host.Outcome State Fault Refusal :=
  .next (s.oneWrite h (0x83E + 0x40 * g.val) 1)
/-- WINDOW_REFRESH (R33): HALT holds the blocks as they were (R376). -/
def execWindowRefresh (s : State) : Host.Outcome State Fault Refusal :=
  .next (if s.supplier.isSome && s.mode.mode.runs then
      let ws := s.suppliedNow
      s.modHubs fun _ H => if H.inReset then H else { H with win := { H.win with supplied := ws, refreshed := true } }
    else s)

end Sys2Proof.Machine
end

