-- ==== Sys2Proof/Machine/Cvu.lean ====
section
/-!
DEFINITION. The check-value unit of a lane (R297 to R303), and the writes that have no row of their own (R331).
-/

namespace Sys2Proof.Machine

/-- The width of a context's register, and its polynomial (R297, R300, R301). -/
def Cvu.width (u : Cvu) (k : CvContext) : Nat := if k.poly = 3 then u.uwid.toNat else if k.poly = 2 then 16 else 32
def Cvu.polynomial (u : Cvu) (k : CvContext) : Nat :=
  if k.poly = 0 then 0x1EDC6F41 else if k.poly = 1 then 0x04C11DB7 else if k.poly = 2 then 0x1021 else u.upoly.toNat % 2 ^ u.width k
/-- The selected context. -/
def Cvu.cur (u : Cvu) : CvContext := u.ctx[u.sel]
def Cvu.modCur (u : Cvu) (f : CvContext → CvContext) : Cvu := { u with ctx := u.ctx.set u.sel (f u.cur) }
/-- Octets folded into the selected context's running value. -/
def Cvu.fold (u : Cvu) (bs : Bytes) : Cvu :=
  u.modCur fun k => { k with val := BitVec.ofNat 32 (crcFold (u.width k) (u.polynomial k) k.refin (k.val.toNat % 2 ^ u.width k) bs) }
/-- LOAD: the initial value, without the bits above the width. -/
def Cvu.load (u : Cvu) : Cvu := u.modCur fun k => { k with val := BitVec.ofNat 32 (k.init.toNat % 2 ^ u.width k) }
/-- FOLD_IMP: the implicit block. -/
def Cvu.foldImp (u : Cvu) : Cvu := u.fold (toLe 4 u.imp0.toNat ++ toLe 4 u.imp1.toNat)
/-- DMA begins; a length of 0 or above 4,096 is refused. -/
def Cvu.startDma (u : Cvu) : Cvu := if u.dlen = 0 ∨ 4096 < u.dlen.toNat then { u with err := true } else { u with busy := true }
/-- CV_RESULT (R303): the running value after REFOUT and XOROUT, masked to the width. -/
def Cvu.result (u : Cvu) : DWord :=
  let k := u.cur
  let w := u.width k
  let v := k.val.toNat % 2 ^ w
  BitVec.ofNat 32 (((if k.refout then reflect w v else v) ^^^ k.xorout.toNat) % 2 ^ w)
/-- CV_STAT. -/
def Cvu.stat (u : Cvu) : DWord := BitVec.ofNat 32 (bit u.ecc 2 + bit u.err 1 + bit u.busy 0)
/-- A write while BUSY is set is refused (R298). -/
def Cvu.unlessBusy (u : Cvu) (f : Cvu → Cvu) : Cvu := if u.busy then { u with err := true } else f u
/-- A write of CV_CMD: LOAD, then FOLD_IMP, then DMA (R302). -/
def Cvu.command (u : Cvu) (v : DWord) : Cvu :=
  let u1 := if v.getLsbD 0 then u.load else u
  let u2 := if v.getLsbD 1 then u1.foldImp else u1
  if v.getLsbD 2 then u2.startDma else u2
/-- A write of a register by byte offset (R299 to R303). -/
def Cvu.write (u : Cvu) (off : Nat) (v : DWord) : Cvu :=
  u.unlessBusy fun u =>
    match off with
    | 0x00 => { u with sel := ⟨v.toNat % 4, by omega⟩ }
    | 0x04 => u.modCur fun k => { k with poly := v.setWidth 2, refin := v.getLsbD 6, refout := v.getLsbD 7 }
    | 0x08 => u.modCur fun k => { k with init := v }
    | 0x0C => u.modCur fun k => { k with xorout := v }
    | 0x10 => u.modCur fun k => { k with val := v }
    | 0x14 => { u with upoly := v }
    | 0x18 => if field v 0 6 < 8 ∨ 32 < field v 0 6 then { u with err := true } else { u with uwid := v.setWidth 6 }
    | 0x20 => u.fold [v.setWidth 8]
    | 0x24 => u.fold (toLe 4 v.toNat)
    | 0x28 => { u with imp0 := v }
    | 0x2C => { u with imp1 := v }
    | 0x30 => u.command v
    | 0x34 => { u with daddr := v.setWidth 20 }
    | 0x38 => { u with dlen := v.setWidth 13 }
    | 0x40 => { u with ecc := u.ecc && !v.getLsbD 2, err := u.err && !v.getLsbD 1 }
    | _ => u
/-- A lane's core acts on its unit while it runs. -/
def State.modCvu (s : State) (l : LaneId) (f : Cvu → Cvu) : State :=
  s.modLane l fun L => if L.st == .lost || L.st == .resting then L else { L with cvu := f L.cvu }

/-- REGISTER_WRITE (R331). -/
def execRegisterWrite (t : RegTarget) (s : State) : Host.Outcome State Fault Refusal :=
  .next (match t with
    | .window h addr v => s.oneWrite h addr.toNat v
    | .cvu l off v => s.modCvu l fun u => u.write off v)
/-- CV_LOAD (R302). -/
def execCvLoad (l : LaneId) (s : State) : Host.Outcome State Fault Refusal := .next (s.modCvu l fun u => u.unlessBusy Cvu.load)
/-- CV_FOLD_IMP (R302). -/
def execCvFoldImp (l : LaneId) (s : State) : Host.Outcome State Fault Refusal := .next (s.modCvu l fun u => u.unlessBusy Cvu.foldImp)
/-- CV_DMA (R302). -/
def execCvDma (l : LaneId) (s : State) : Host.Outcome State Fault Refusal := .next (s.modCvu l fun u => u.unlessBusy Cvu.startDma)
/-- CV_DATA8 (R302). -/
def execCvData8 (l : LaneId) (d : Byte) (s : State) : Host.Outcome State Fault Refusal :=
  .next (s.modCvu l fun u => u.unlessBusy fun u => u.fold [d])
/-- CV_DATA32 (R302). -/
def execCvData32 (l : LaneId) (d : DWord) (s : State) : Host.Outcome State Fault Refusal :=
  .next (s.modCvu l fun u => u.unlessBusy fun u => u.fold (toLe 4 d.toNat))
/-- The octets a DMA folds. An octet beyond the SRAM's end is a free value: the spec states none. -/
def dmaOctets (L : LaneState) (fresh : Nat) : Bytes :=
  (List.range L.cvu.dlen.toNat).map fun i =>
    let a := L.cvu.daddr.toNat + i
    if a < 2 ^ 20 then Memory.read L.sram a else (Config.freeValue (fresh + i)).setWidth 8
/-- CV_DMA_DONE (R298): the fold ends; after an uncorrectable error the running value is undefined, a free value. -/
def execCvDmaDone (l : LaneId) (eccAt : Option Nat) (s : State) : Host.Outcome State Fault Refusal :=
  .next (if s.lanes[l].cvu.busy then
      match eccAt with
      | none =>
        let bs := dmaOctets s.lanes[l] s.fresh
        (s.modLane l fun L => { L with cvu := { L.cvu.fold bs with busy := false } }).useFree s.lanes[l].cvu.dlen.toNat
      | some _ =>
        let (v, s1) := s.free
        s1.modLane l fun L => { L with cvu := { (L.cvu.modCur fun k => { k with val := v }) with busy := false, err := true, ecc := true } }
    else s)

end Sys2Proof.Machine
end

