-- ==== Sys2Proof/Machine/Lanes.lean ====
section
/-!
DEFINITION. Lanes against each other: compare records (R24, R172, R436), the union of latched fault sets (R22), lane
restarts (R437), the lane that rejoins (R397, R432, R133, R169, R204), the watchdog (R383) and what a revert or a
lasting degradation brings (R398, R406, R410).
-/

namespace Sys2Proof.Machine

/-! ## The check value of a compare record -/

/-- The octets of a mask of n items, rounded up to whole octets. -/
def maskUp {n : Nat} (m : BitVec n) : Bytes := toLe ((n + 7) / 8) m.toNat
/-- What a check value covers of a latched fault set (R22), the mode with it. -/
def latchOctets (k : Latches) (m : Mode) : Bytes :=
  maskUp k.short ++ maskUp k.overtemp ++ maskUp k.switchFault ++ maskUp k.react ++ maskUp k.revert ++ maskUp k.energy ++ maskUp k.safeState ++
  maskUp k.safeDark ++ maskUp k.staged ++ maskUp k.keepA ++ maskUp k.keepB ++ maskUp k.supplyLoss ++ maskUp k.outFault ++ maskUp k.restart ++ toLe 1 (bit k.safe 0) ++ toLe 1 m.code
/-- What it covers of a drive image. -/
def imageOctets (d : DriveImage) : Bytes :=
  maskUp d.on ++ maskUp d.pts ++ maskUp d.dim ++ maskUp d.flash ++ maskUp d.revert ++ maskUp d.energy
/-- The proving decisions of one channel: its statuses and held failures, verdicts and CROSS decisions (R24, R204). -/
def LaneState.provOctets (L : LaneState) (c : Chan) : Bytes :=
  let a := L.prov[c]
  let b := L.prob[c]
  toLe 1 (bit a.litOk 0 + bit a.failDark 1 + bit a.failLit 2 + bit a.foreign 3 + bit a.degraded 4 + bit b.openCircuit 5 + bit b.sourceFault 6) ++
  toLe 1 a.darkCause.code ++ toLe 1 a.forCause.code ++ toLe 1 ((a.source.map (·.val)).getD 0xFF) ++ toLe 1 b.verdict.code ++
  (L.matrix.filter fun e => e.1 / 96 == c.val && e.2.cross).flatMap fun e => toLe 1 (e.1 % 96)
/-- The proving decisions of a set of groups. -/
def LaneState.groupOctets (L : LaneState) (m : GroupMask) : Bytes :=
  (members m).flatMap fun g => (groupChans g).flatMap L.provOctets
/-- The causes of a point latch, numbered for the check value. -/
def OutCause.code : OutCause → Nat
  | .none => 0
  | .overload => 1
  | .thermal => 2
  | .gateStuck => 3
  | .majorityTest => 4
/-- A running timer in whole milliseconds, 0xFF where it does not run. -/
def timerOctet (t : Option Nat) (now : Nat) : Bytes := toLe 1 ((t.map fun a => min ((now - a) / Config.ms) 0xFE).getD 0xFF)
/-- The decisions of a lane on a field point (R474): its debounced state and decisions, the timers of wire break and external feed,
the discrepancy count, the cause of its point latch, and the tests that withdraw or add its "on". -/
def State.pointDecisions (s : State) (l : LaneId) (p : Point) : Bytes :=
  let a := s.lanes[l].pts[p]
  toLe 2 (bit a.deb 0 + bit a.wireBreak 1 + bit a.extFeed 2 + bit a.crossConnect 3 + bit a.discrepancy 4 + bit a.runStart.isSome 5 + bit a.decided 6 +
    bit (s.tests.field.any fun t => t.p == p || t.partner == some p) 7 + bit (s.tests.fieldMaj.any fun t => t.p == p) 8) ++
  timerOctet a.wbLow s.now ++ timerOctet a.wbHigh s.now ++ timerOctet a.extHigh s.now ++ timerOctet a.extLow s.now ++
  toLe 2 a.discCount ++ toLe 1 a.outCause.code
/-- The groups for which a lane reports no LANE_INVALID (R172). -/
def State.validMask (s : State) (l : LaneId) : GroupMask := maskOf fun g => s.active l && !s.unavailable l g && has s.lanes[l].decided g
/-- What a lane evaluates for its compare records at an index. -/
def State.evalOf (s : State) (l : LaneId) (index : Nat) : CmpOwn :=
  let L := s.lanes[l]
  { index := index, base := imageOctets L.drive.img ++ latchOctets L.latches s.mode.mode ++ allPoints.flatMap (s.pointDecisions l)
    groups := Vector.ofFn fun g => L.groupOctets (only g), mask := s.validMask l }
/-- The check value of an evaluation over drive image, latched fault set and the proving decisions of a set of groups
(R24). -/
def CmpOwn.check (e : CmpOwn) (m : GroupMask) : DWord := Config.compareCheck (e.base ++ (members m).flatMap fun g => e.groups[g])
/-- The evaluation of a lane at an index, while it holds it. -/
def LaneState.evalAt (L : LaneState) (index : Nat) : Option CmpOwn := L.cmpOwn.find? fun e => e.index == index
/-- Every lane in the vote evaluates its state for the records of an index (R24). -/
def State.evaluate (s : State) : State :=
  s.modLanes fun l L => if s.active l then { L with cmpOwn := (s.evalOf l (s.laneTime / 20000) :: L.cmpOwn).take 4 } else L

/-! ## Leaving the vote, and rejoining it -/

/-- The volatile memory of a restarting lane is wiped (R437, R441). Its DRIVE block goes on with held frames; the grid of each
front-end's words is that of every lane (R79); its
result block, its counts since reset and its restart's watchdog limit of 1.5 s stay outside (notes/assumptions/12.md). -/
def LaneState.restart (L : LaneState) (now : Nat) : LaneState :=
  { st := .restarting
    drive := { L.drive with img := {}, next := {}, ov := {}, sent := {}, held := true }
    grp := L.grp.map fun B => { words := B.words }
    counts := L.counts
    faultSeq := L.faultSeq
    lbist := L.lbist
    lastRestart := some now
    wdService := now
    wdLimit := 1500 * Config.ms }
/-- A lane is withdrawn as a minority lane and restarts, or is lost when its last restart lies less than 24 h back
(R436, R437). -/
def State.withdrawLane (s : State) (l : LaneId) : State :=
  let s1 := s.raiseFault FaultCode.laneCompare [2 ^ l.val, 1] (s.voteMask &&& ~~~(only l))
  if s.lanes[l].lastRestart.any fun t => decide (s.now < t + day24) then s1.loseLane l
  else
    let s2 := s1.modLane l fun L => L.restart s.now
    ({ s2 with coppice := { s2.coppice with restarts := s2.coppice.restarts + 1 } } : State).cutCapture
/-- The union of two latched fault sets (R22). -/
def Latches.union (a b : Latches) : Latches :=
  { short := a.short ||| b.short, overtemp := a.overtemp ||| b.overtemp, switchFault := a.switchFault ||| b.switchFault
    react := a.react ||| b.react, revert := a.revert ||| b.revert, energy := a.energy ||| b.energy, safeState := a.safeState ||| b.safeState
    safeDark := a.safeDark ||| b.safeDark, staged := a.staged ||| b.staged, keepA := a.keepA ||| b.keepA, keepB := a.keepB ||| b.keepB
    supplyLoss := a.supplyLoss ||| b.supplyLoss, outFault := a.outFault ||| b.outFault, restart := a.restart ||| b.restart
    safe := a.safe || b.safe }
/-- The union over the lanes in the vote. -/
def State.mergedLatches (s : State) : Latches := s.activeLanes.foldl (fun k l => k.union s.lanes[l].latches) {}
/-- The groups whose proving decisions the lanes in the vote agree on. -/
def State.agreedGroups (s : State) : GroupMask :=
  maskOf fun g => s.activeLanes.all fun l => s.activeLanes.all fun k => s.lanes[l].groupOctets (only g) == s.lanes[k].groupOctets (only g)
/-- The voted image of this vote, where every lane in the vote holds the same one (R397). -/
def State.sharedVote (s : State) (l : LaneId) : Option Voted :=
  let v := s.lanes[l].voted
  if s.mode.voted && s.activeLanes.all (fun k => s.lanes[k].voted == v) then some v else none
/-- What a lane takes over when it rejoins (R397, R432, R133, R169, R204): the merged latches, the decision state of
every group the active lanes agree on, and the image in force; its frames stay held until its own image is in
force. Its decimators start anew (R91). -/
def LaneState.adopt (L src : LaneState) (k : Latches) (ok : GroupMask) (now : Nat) : LaneState :=
  { L with
    st := .active
    latches := k
    clr := src.clr
    voted := src.voted
    inForce := src.inForce
    noImage := true
    drive := { L.drive with img := src.drive.img, next := {}, ov := { src.drive.ov with add := 0, ptAdd := 0, frames := [] }, held := true }
    prov := Vector.ofFn fun (c : Chan) => if has ok c.group then src.prov[c] else { untaken := true }
    prob := Vector.ofFn fun (c : Chan) => if has ok c.group then src.prob[c] else {}
    matrix := src.matrix.filter fun e => (chanAt (e.1 / 96)).any fun c => has ok c.group
    earlyCross := src.earlyCross
    cpnDone := src.cpnDone
    partDone := src.partDone
    pts := src.pts
    decided := src.decided &&& ok
    codes := Vector.ofFn fun (c : Chan) => if has ok c.group then src.codes[c] else 15
    ptCodes := src.ptCodes
    subImage := none
    cmpOwn := []
    cmpSeen := []
    rev := src.rev
    grp := L.grp.map fun B => { B.stopStream now with judged := Vector.replicate 8 B.words }
    inVoteSince := now
    wdService := now
    wdLimit := 100 * Config.ms }
/-- The parameters in force agree with their seal (R432). -/
def State.paramsSealed (s : State) : Bool := s.activeBank.all fun b => b.sealCode == b.image.sealOctets
/-- The first image of a lane that rejoins between a vote and the next action point (R397): derived from that vote, handed over for
the action point, or applied at once with the lane's own strobe where it comes later than 2.2 µs before it. -/
def State.firstImage (s : State) (l : LaneId) (x : Voted) : State :=
  let t := s.modLane l fun L => { L with voted := x }
  let img := t.derive l
  t.modLane l fun L => { L with noImage := false, drive := if s.now + 440 ≤ s.nextAp then { L.drive with next := img } else { L.drive with img := img, next := img, held := false } }
/-- A lane rejoins the vote (R397, R429 step REJOIN); one whose parameters fail the seal check is lost as in a restart
(R432, R437, notes/assumptions/143.md). It goes on from the supplying lane's wear totals (R491, notes/assumptions/145.md). A
LANE_COMPARE of case 1 or 4 that names the lane ends (R436). -/
def State.rejoin (s : State) (l : LaneId) : State :=
  match s.supplier with
  | none => s
  | some k =>
    if !s.paramsSealed then s.loseLane l else
    let s1 := ((s.modLane l fun L => L.adopt s.lanes[k] s.mergedLatches s.agreedGroups s.now).cutCapture).modRun l fun _ => s.wear.run[k]
    let s2 := match s.sharedVote k with
      | some x => s1.firstImage l x
      | none => s1
    let s3 := s2.withdrawFault FaultCode.laneCompare [2 ^ l.val, 1]
    let four := s3.faults.filter fun f => f.code == FaultCode.laneCompare && octet f.scope 1 == 4 && (octet f.scope 0).getLsbD l.val
    (s3.each four fun u f => u.withdrawFault FaultCode.laneCompare [(octet f.scope 0).toNat, 4]).degrade

/-! ## Compare records (R24, R436) -/

/-- The reaction to records of one index (R436): the receiving lane, and of each partner whether its record matched
and its check value. -/
def State.judgeCompares (s : State) (l : LaneId) (seen : List CmpSeen) : State :=
  match seen with
  | [x] =>
    if x.same then s else
    let m := 2 ^ l.val + 2 ^ x.sender.val
    let both : LaneMask := only l ||| only x.sender
    if s.windowOpen then (s.raiseFault FaultCode.laneCompare [m, 4] both).abortWindow
    else
      let s1 := (s.raiseFault FaultCode.laneCompare [m, 3] both).setSafe
      if s1.mode.mode = .degraded then
        let s2 := s1.enterMode .safe 10
        { s2 with mode := { s2.mode with dualDisagree := true } }
      else s1
  | [x, y] =>
    if x.same && y.same then s
    else if x.same then s.withdrawLane y.sender
    else if y.same then s.withdrawLane x.sender
    else if x.check = y.check then s.withdrawLane l
    else (s.raiseFault FaultCode.laneCompare [7, 2] s.voteMask).setSafe
  | _ => s
/-- A compare record as it reaches the receiver: as the sender formed it over the groups both hold valid, or another. -/
def State.recordOf (s : State) (sender : LaneId) (own : CmpOwn) (rx : RxCompare) : Option CompareRec :=
  match rx with
  | .asSent => (s.lanes[sender].evalAt own.index).map fun e => { index := e.index, mask := e.mask, check := e.check (e.mask &&& own.mask) }
  | .record m k => some { index := own.index, mask := m, check := k }
/-- A lane holds a partner's record against its own of the same index; once the records of every partner of that index are
in, the lanes judge. -/
def State.compare (s : State) (receiver sender : LaneId) (own : CmpOwn) (r : CompareRec) : State :=
  let L := s.lanes[receiver]
  let before := L.cmpSeen.filter fun x => x.index == r.index && x.sender != sender && s.active x.sender
  let others := L.cmpSeen.filter fun x => x.index != r.index && decide (r.index < x.index + 4)
  let seen := before ++ [{ index := r.index, sender := sender, check := r.check, same := own.check (r.mask &&& own.mask) == r.check }]
  if seen.length + 1 = s.activeLanes.length then
    (s.modLane receiver fun L => { L with cmpSeen := others }).judgeCompares receiver seen
  else s.modLane receiver fun L => { L with cmpSeen := others ++ seen }
/-- COMPARE_RECORD (R24): a record of a partner in the vote, of an index the receiver has evaluated. -/
def execCompareRecord (receiver sender : LaneId) (index : Nat) (rx : RxCompare) (s : State) : Host.Outcome State Fault Refusal :=
  .next (
    if receiver = sender ∨ !s.active receiver ∨ !s.active sender ∨ !s.mode.mode.runs then s else
    match s.lanes[receiver].evalAt index with
    | none => s
    | some own =>
      match s.recordOf sender own rx with
      | some r => s.compare receiver sender own r
      | none => s)

/-- LATCH_MERGE (R22): the lanes in the vote take the union of their latched fault sets; a latch that one of them set after the
vote is cleared in none (R289). -/
def execLatchMerge (s : State) : Host.Outcome State Fault Refusal :=
  let k := s.mergedLatches
  let d := s.activeLanes.foldl (fun d l => d.union s.lanes[l].due) {}
  .next (s.modLanes fun _ L => if L.st == .active then { L with latches := k, clr := L.clr.less d } else L).noteAll

/-- LATCH_DRIVE_REDERIVE (R400): the lane derives the image for the next action point anew and hands it over; later than
2.2 µs before that action point it does not act there. -/
def execLatchDriveRederive (l : LaneId) (s : State) : Host.Outcome State Fault Refusal :=
  .next (if s.active l ∧ s.now + 440 ≤ s.nextAp then s.modLane l fun L => { L with drive := { L.drive with next := s.derive l } } else s)

/-! ## The watchdog (R383) -/

/-- WATCHDOG (R383, R431, R437): a lane whose channel expires is held in reset and lost. The channel of a resting or
restarting lane expires at its longer limit; in Thaw, at the earliest 100 ms after the reset (notes/assumptions/144.md). -/
def execWatchdog (l : LaneId) (s : State) : Host.Outcome State Fault Refusal :=
  let L := s.lanes[l]
  let due : Bool := match L.st with
    | .active => true
    | .resting | .restarting => decide (L.wdService + L.wdLimit ≤ s.now)
    | .thawing => s.mode.mode == .thaw && s.supply.good && decide (s.mode.resetAt + L.wdLimit ≤ s.now)
    | .lost => false
  .next (if due then s.fault FaultCode.watchdog [l.val] (only l ||| s.voteMask) else s)

/-! ## What lasts too long -/

/-- 72 h in ticks. -/
def hours72 : Nat := 72 * 3600 * Config.sec
/-- DEGRADED_LIMIT (R398): 72 h in DEGRADED, or with a DRIVE_LINK standing, since reset. -/
def execDegradedLimit (s : State) : Host.Outcome State Fault Refusal :=
  .next (if hours72 ≤ s.mode.degradedTime ∨ hours72 ≤ s.mode.driveLinkTime then s.fault FaultCode.degradedLimit [] s.voteMask else s)

/-- t_fa in ticks (R399): FEED_FILTER and 0.2 ms, on AC 12.2 ms. -/
def ParamImage.feedDecision (p : ParamImage) (g : GroupId) : Nat := p.feedFilter g * Config.ms + (if p.isAc g then 2440000 else 40000)
/-- A lane has waited FB_TIME + t_fa from the stage-2 action point of a group that is not safe-dark. -/
def State.revertLate (s : State) (l : LaneId) (g : GroupId) : Bool :=
  s.active l && !has s.lanes[l].latches.safeDark g &&
  (s.lanes[l].rev[g]).stage2At.any fun t => decide (t + s.params.fbTime g * Config.ms + s.params.feedDecision g ≤ s.now)
/-- REVERT_FAIL (R406): no feed-absent decision within FB_TIME + t_fa of the stage-2 action point. -/
def execRevertFail (g : GroupId) (s : State) : Host.Outcome State Fault Refusal :=
  let late : LaneMask := maskOf fun l => s.revertLate l g
  .next (if s.params.contactors g ∧ late ≠ 0 then s.fault FaultCode.revertFail [g.val] late else s)

/-- A lane finds GLADE unproven (R410): a Glade channel has failed or is not proven in time, or another channel of the
group is FAIL_LIT, or FOREIGN under PROT 2. A lane that cannot judge the group decides nothing. -/
def State.gladeBad (s : State) (l : LaneId) (g : GroupId) : Bool :=
  let p := s.params
  let from_ := (s.lanes[l].rev[g]).stage1At.getD s.now
  (groupChans g).any fun c =>
    let k := s.chanCode l c
    if p.inGlade c then [4, 10, 9, 12, 11].contains k || (decide (from_ + (p.warmup c + 100) * Config.ms ≤ s.now) && k != 1 && k != 7 && k != 15)
    else k == 5 || (k == 6 && p.prot c == 2)
/-- GLADE_UNPROVEN (R410): in the safe state from stage 1. -/
def execGladeUnproven (g : GroupId) (s : State) : Host.Outcome State Fault Refusal :=
  let bad : LaneMask := maskOf fun l => s.active l && s.lanes[l].latches.inSafe g && !has s.lanes[l].latches.energy g && s.gladeBad l g
  .next (if bad ≠ 0 then s.fault FaultCode.gladeUnproven [g.val] bad else s)

end Sys2Proof.Machine
end

