-- ==== Sys2Proof/Machine/SelfTest.lean ====
section
/-!
DEFINITION. The Coppice window (R427 to R435), the judgement of a logic BIST run (R423 to R425), the end of a lane
restart (R437), hub test slices (R28, R438) and the scrubber (R442).
-/

namespace Sys2Proof.Machine

/-! ## Judging a run -/

/-- The supply stayed within 0.816 V to 0.884 V (R424). -/
def RangeOk.supply (m : RangeMeas) : Bool := decide (816 ≤ m.vmin) && decide (m.vmax ≤ 884)
/-- The TEST clock stayed within 98 MHz to 102 MHz (R424). -/
def RangeOk.clock (m : RangeMeas) : Bool := decide (9800 ≤ m.fmin) && decide (m.fmax ≤ 10200)
/-- The readings make the result INVALID or not (R424). -/
def rangesOk (m : RangeMeas) : Bool := RangeOk.supply m && RangeOk.clock m
/-- The three values of a run against OTP (R423). -/
def Otp.sigOk (o : Otp) (l : LaneId) (r : LbistRun) : Bool := r.sig == o.lbSig[l]
def Otp.countOk (o : Otp) (r : LbistRun) : Bool := r.pcount == o.lbCount
def Otp.genOk (o : Otp) (l : LaneId) (r : LbistRun) : Bool := r.gen == o.lbGen[l]
/-- A run passes only when all three match. -/
def Otp.runOk (o : Otp) (l : LaneId) (r : LbistRun) : Bool := o.sigOk l r && o.countOk r && o.genOk l r
/-- A hub's full run, and one of its slices, against OTP (R423, R438). -/
def Otp.hubRunOk (o : Otp) (h : HubId) (r : LbistRun) : Bool := r.sig == o.hubSig[h] && o.countOk r && r.gen == o.hubGen[h]
def Otp.sliceOk (o : Otp) (h : HubId) (i : Nat) (r : SliceRun) : Bool := r.misr == (o.sliceSig[h]).getD i 0

/-- The results of a logic BIST in the codes of RES (R446): 1 PASS, 2 FAIL, 3 INVALID; the third INVALID in a row is
FAIL (R425). -/
def lbistResult (o : Otp) (l : LaneId) (r : LbistRun) (invc : Nat) : Nat :=
  if !rangesOk r.meas then (if 2 ≤ invc then 2 else 3) else if o.runOk l r then 1 else 2
/-- The result block after a run (R446). -/
def LbistRes.after (b : LbistRes) (o : Otp) (l : LaneId) (r : LbistRun) (now : Nat) : LbistRes :=
  let res := lbistResult o l r b.invc
  { b with
    res := res
    invc := if rangesOk r.meas then 0 else min (b.invc + 1) 2
    vok := RangeOk.supply r.meas
    fok := RangeOk.clock r.meas
    sigOk := o.sigOk l r
    cntOk := o.countOk r
    genOk := o.genOk l r
    sig := r.sig
    pcount := r.pcount
    gen := r.gen
    vmin := BitVec.ofNat 16 r.meas.vmin
    vmax := BitVec.ofNat 16 r.meas.vmax
    testf := BitVec.ofNat 16 r.meas.testf
    passAt := if res = 1 then some now else b.passAt }
/-- What follows from a result (R425): FAIL loses the lane, INVALID repeats its test at the next window, and a valid
result ends LBIST_INVALID. -/
def State.lbistFollows (s : State) (l : LaneId) (res : Nat) : State :=
  if res = 2 then (s.withdrawFault FaultCode.lbistInvalid [l.val]).fault FaultCode.lbistFail [l.val] s.voteMask
  else if res = 3 then
    ({ s with coppice := { s.coppice with repeatLane := some l } } : State).fault FaultCode.lbistInvalid [l.val] s.voteMask
  else s.withdrawFault FaultCode.lbistInvalid [l.val]
/-- A lane's run is judged, and what follows from it. -/
def State.judgeRun (s : State) (l : LaneId) (r : LbistRun) : State :=
  let s1 := s.modLane l fun L => { L with lbist := L.lbist.after s.otp l r s.now }
  s1.lbistFollows l s1.lanes[l].lbist.res

/-! ## The window -/

/-- The step of the open window changes. -/
def State.copStep (s : State) (k : Nat) : State := { s with coppice := { s.coppice with step := k, stepAt := s.now } }
/-- PRECHECK ends out of range (R429): the result is INVALID and the window goes to RESTORE. -/
def State.precheckInvalid (s : State) (l : LaneId) (m : RangeMeas) : State :=
  let b := s.lanes[l].lbist
  let res := if 2 ≤ b.invc then 2 else 3
  let s1 := s.modLane l fun L => { L with lbist := { L.lbist with
    res := res, invc := min (b.invc + 1) 2, vok := RangeOk.supply m, fok := RangeOk.clock m, vmin := BitVec.ofNat 16 m.vmin, vmax := BitVec.ofNat 16 m.vmax
    testf := BitVec.ofNat 16 m.testf } }
  (s1.copStep 5).lbistFollows l res
/-- COPPICE_STEP_END (R429, R435): a timed step of the open window ends. SAVE leads to PRECHECK, in an aborted window to
REJOIN; PRECHECK, after its 20 ms, to BIST or RESTORE; JUDGE to RESTORE; RESTORE to REJOIN; REJOIN to IN FORCE, with
the lane back in the vote. BIST ends at LBIST_DONE, IN FORCE at an action point. -/
def execCoppiceStepEnd (r : RangeMeas) (s : State) : Host.Outcome State Fault Refusal :=
  .next (match s.coppice.rest with
    | none => s
    | some l =>
      match s.coppice.step with
      | 1 => if s.coppice.aborted then s.copStep 6 else s.copStep 2
      | 2 => if !s.since s.coppice.stepAt (20 * Config.ms) then s else if rangesOk r then s.copStep 3 else s.precheckInvalid l r
      | 4 => s.copStep 5
      | 5 => s.copStep 6
      | 6 => (s.copStep 7).rejoin l
      | _ => s)

/-- LBIST_DONE (R425): the run of the resting lane ends and is judged. -/
def execLbistDone (l : LaneId) (r : LbistRun) (s : State) : Host.Outcome State Fault Refusal :=
  .next (if s.coppice.rest = some l ∧ s.coppice.step = 3 then (s.copStep 4).judgeRun l r else s)

/-- COPPICE_DUE (R428): a window that is due waits, with DEFER set, until it opens at an action point. -/
def execCoppiceDue (s : State) : Host.Outcome State Fault Refusal :=
  .next (if s.coppice.step = 0 ∧ s.coppice.dueAt.any fun t => decide (t ≤ s.now) then
    { s with coppice := { s.coppice with deferred := true } } else s)

/-- The window opens at an action point (R427, R429, R431): its lane leaves the vote with held frames and a watchdog limit of
700 ms, and the next window is due a period from now. -/
def State.openWindow (s : State) : State :=
  let c := s.coppice
  let l := c.repeatLane.getD c.next
  let s1 : State := { s with coppice := { c with
    next := if c.repeatLane.isSome then c.next else c.next + 1
    repeatLane := none
    rest := some l
    step := 1
    stepAt := s.now
    aborted := false
    agreed := false
    deferred := false
    dueAt := some (s.now + s.params.coppicePeriod * Config.sec)
    faultSeqAt := s.lanes[l].faultSeq
    modeAt := s.mode.mode
    windows := c.windows + 1 } }
  (s1.modLane l fun L => { L with st := .resting, drive := { L.drive with held := true }, cmpSeen := [], wdService := s.now, wdLimit := 700 * Config.ms }).cutCapture
/-- What an action point does to the rotation: a window agreed at the last vote opens if its conditions still hold; a
window IN FORCE closes, and DEGRADED follows a lane lost in it. -/
def State.copActionPoint (s : State) : State :=
  if s.coppice.step = 7 then ({ s with coppice := { s.coppice with step := 0, rest := none, aborted := false } } : State).degrade
  else if s.coppice.agreed then
    if s.windowMay s.now then s.openWindow
    else { s with coppice := { s.coppice with agreed := false, deferred := true } }
  else s
/-- What a vote does to it: a window that is due is agreed when its conditions hold, and else waits. -/
def State.copVote (s : State) : State :=
  if s.coppice.step = 0 ∧ s.coppice.dueAt.any (fun t => decide (t ≤ s.now)) then
    { s with coppice := { s.coppice with agreed := s.windowMay s.nextAp, deferred := s.coppice.deferred || !s.windowMay s.nextAp } }
  else s

/-! ## Restarts, slices and the scrubber -/

/-- LANE_RESTART_DONE (R437): the steps of a restart have ended; the lane rejoins, or is lost where one failed. -/
def execLaneRestartDone (l : LaneId) (r : RestartResult) (s : State) : Host.Outcome State Fault Refusal :=
  .next (if s.lanes[l].st = .restarting then
    if !r.mbist then s.loseLane l else
    let s1 := s.judgeRun l r.lbist
    if s1.lanes[l].st ≠ .restarting then s1 else if r.image && r.param then s1.rejoin l else s1.loseLane l
  else s)

/-- The index of the slice that runs next: after an INVALID one the same again (R438). -/
def HubSlice.nextIndex (x : HubSlice) : Nat := if !x.started then 0 else if x.res = 3 then x.slice else (x.slice + 1) % 2048
/-- What is left of the network idle time by a hub's own count, in ticks; none outside it (R28). -/
def State.idleLeft (s : State) (h : HubId) : Option Nat :=
  let H := s.hubs[h]
  let p := s.params
  let t := H.time.gt.toNat - H.time.apGt.toNat
  if 2 * p.slotStart H.bus.sset (p.nSlots H.bus.sset) ≤ t ∧ t ≤ p.cycTicks H.bus.sset then some (p.cycTicks H.bus.sset - t) else none
/-- HUB_TEST_SLICE (R28, R438): in the network idle time, once the lanes' copies are complete, a hub runs one slice a cycle; with
less than 40 µs left it skips it. -/
def execHubTestSlice (h : HubId) (r : SliceRun) (s : State) : Host.Outcome State Fault Refusal :=
  let x := s.hubs[h].slice
  .next (
    let c := s.hubs[h].bus.cycle
    if s.hubs[h].inReset ∨ !s.mode.mode.runs ∨ !s.mode.voted ∨ (s.idleLeft h).isNone ∨ x.cycle = some c then s
    else if (s.idleLeft h).any (fun n => decide (n < 8000)) then s.modHub h fun H => { H with slice := { x with skip := true, skips := x.skips + 1, cycle := some c } }
    else
      let i := x.nextIndex
      let res := if !rangesOk r.meas then 3 else if s.otp.sliceOk h i r then 1 else 2
      let full := res = 1 ∧ i = 2047
      let s1 := s.modHub h fun H => { H with slice := { x with
        res := res, skip := false, slice := i, cycle := some c, started := true, passes := if full then x.passes + 1 else x.passes, passAt := if full then some s.now else x.passAt } }
      if res = 2 then s1.fault FaultCode.hubSliceFail [h.val] s1.voteMask else s1)

/-- SRAM_SCRUB_ERROR (R442): a single-bit error is corrected and counted; an uncorrectable one restarts the lane, from a
Coppice window without RESTORE, or takes the hub out of mailbox service (R321). -/
def execSramScrubError (u : MemUnit) (correctable : Bool) (s : State) : Host.Outcome State Fault Refusal :=
  .next (match u with
    | .hub h =>
      if s.hubs[h].inReset then s
      else if correctable then s.modHub h fun H => { H with slice := { H.slice with qmemCe := H.slice.qmemCe + 1 } }
      else s.qmemFault h .idle
    | .lane l =>
      if correctable then
        (if s.lanes[l].st = .lost ∨ s.lanes[l].st = .thawing then s else
          s.modLane l fun L => { L with lbist := { L.lbist with sramCe := L.lbist.sramCe + 1 } })
      else match s.lanes[l].st with
        | .active => (if s.windowOpen then s.abortWindow else s).withdrawLane l
        | .resting =>
          let s1 := s.abortWindow
          ({ s1 with coppice := { s1.coppice with rest := none, step := 0, aborted := false } } : State).withdrawLane l
        | _ => s)

end Sys2Proof.Machine
end

