-- ==== Sys2Proof/Machine/Vote.lean ====
section
/-!
DEFINITION. The vote instant (R25): candidates from the two hubs (R283, R284), eligibility and freshness (R287), the vote
(R288, R289), quorum (R291), the supervision level of each group (R477, R481 to R484) and the mode changes decided at a
vote (R372 to R378, R386).
-/

namespace Sys2Proof.Machine

/-! ## Candidates (R283, R284) -/

/-- A candidate image: payload, cycle, and whether a HOLD renewed it. -/
structure Candidate where
  payload : Bytes
  cycle : Word
  held : Bool
  deriving DecidableEq, Repr

/-- What a lane found in one hub for one master: its candidate, the copies whose code failed, and an image that carries a
reserved bit (R282), with its cycle. -/
structure HubCopy where
  cand : Option Candidate := none
  bad : Nat := 0
  unclean : Option (Bytes × Word) := none
  deriving DecidableEq, Repr

/-- The lanes act on a hub's action points and take images from it: in SEND, not faulted, and no TIME_SPLIT stands (R16, R263,
R283). -/
def State.hubUsable (s : State) (h : HubId) : Bool := s.hubs[h].sends && !s.bus.timeSplit
/-- The nominal start of a cycle among the last 17 of lane time. -/
def State.startOf (s : State) (cycle : Word) : Option (BitVec 64) := (s.bus.starts.find? fun e => e.cycle == cycle).map (·.gt)
/-- One cycle lies later than another, modulo 65,536. -/
def laterCycle (a b : Word) : Bool := a != b && decide ((a - b).toNat < 32768)
/-- A record's code checks for this module (R277, R278). -/
def State.masterCode (s : State) (kind : Nat) (m : MasterId) (cycle : Word) (ta : BitVec 64) (payload code : Bytes) : Bool :=
  scode (implicit kind (s.params.masterNode m) s.bus.nodeId 0xFF (ecnOf cycle ta)) payload == code
/-- The copy of one master's image in one hub. -/
def State.hubCopy (s : State) (h : HubId) (m : MasterId) : HubCopy :=
  if !s.hubUsable h then {} else
  let st := s.hubs[h].bus.store[m]
  match st.image with
  | none => {}
  | some (r, cycle) =>
    match s.startOf cycle with
    | none => {}
    | some ta =>
      let p := slice r 2 106
      if !s.masterCode 1 m cycle ta p (slice r 108 4) then { bad := 1 }
      else if !imgClean p then { unclean := some (p, cycle) }
      else
        let own : Candidate := { payload := p, cycle := cycle, held := false }
        match st.hold with
        | none => { cand := some own }
        | some (code, hc) =>
          match s.startOf hc with
          | none => { cand := some own }
          | some th =>
            if !laterCycle hc cycle then { cand := some own }
            else if s.masterCode 2 m hc th p code then { cand := some { own with cycle := hc, held := true } }
            else { cand := some own, bad := 1 }
/-- The two candidates of one master combined (R284): none where they differ in one cycle. -/
def combine (x y : Option Candidate) : Option Candidate × Bool :=
  match x, y with
  | none, none => (none, false)
  | some a, none => (some a, false)
  | none, some b => (some b, false)
  | some a, some b =>
    if a.cycle = b.cycle then
      (if a.payload = b.payload then (some { a with held := a.held && b.held }, false) else (none, true))
    else if laterCycle a.cycle b.cycle then (some a, false) else (some b, false)

/-! ## One master's image at a vote (R282, R287) -/

/-- What a vote finds of one master. -/
structure MasterView where
  image : Option Candidate := none
  badX : Nat := 0
  badY : Nat := 0
  differ : Bool := false
  format : Nat := 0
  sealOk : Bool := false
  ssetOk : Bool := false
  age : Nat := 0
  deriving DecidableEq, Repr

/-- A master as the lanes see it at the vote: one view of the two hubs' copies for every lane (R292, notes/assumptions/140.md). -/
def State.masterView (s : State) (m : MasterId) : MasterView :=
  let x := s.hubCopy 0 m
  let y := s.hubCopy 1 m
  let c := combine x.cand y.cand
  let img := c.1
  { image := img
    badX := x.bad
    badY := y.bad
    differ := c.2
    format := (x.unclean.toList ++ y.unclean.toList).eraseDups.length
    sealOk := img.any fun k => s.activeBank.any fun b => b.sealCode == imgSeal k.payload
    ssetOk := img.any fun k => imgSset k.payload == s.bus.sset
    age := (img.map fun k => (s.bus.apCycle - k.cycle).toNat).getD 0 }
/-- The image is eligible. -/
def MasterView.eligible (v : MasterView) : Bool := v.image.isSome && v.sealOk && v.ssetOk
/-- It is fresh, no older than a number of cycles. -/
def MasterView.freshAt (v : MasterView) (maxAge : Nat) : Bool := v.eligible && decide (v.age ≤ maxAge)
/-- The counts of one master after the vote of a cycle (R304). -/
def MasterCounts.after (k : MasterCounts) (v : MasterView) (maxAge : Nat) (cycle : Word) : MasterCounts :=
  let one (b : Bool) : DWord := if b then 1 else 0
  { discrepancy := k.discrepancy + one v.differ
    formatError := k.formatError + BitVec.ofNat 32 v.format
    codeFailX := k.codeFailX + BitVec.ofNat 32 v.badX
    codeFailY := k.codeFailY + BitVec.ofNat 32 v.badY
    sealMismatch := k.sealMismatch + one (v.image.isSome && !v.sealOk)
    ssetMismatch := k.ssetMismatch + one (v.image.isSome && !v.ssetOk)
    sealRun := if v.image.isSome then !v.sealOk else k.sealRun
    ssetRun := if v.image.isSome then !v.ssetOk else k.ssetRun
    stale := if v.eligible then decide (maxAge < v.age) else k.stale || k.latest.any fun c => decide (maxAge < (cycle - c).toNat)
    latest := if v.eligible then v.image.map (·.cycle) else k.latest }
/-- The counts and events of one master in every lane in the vote. -/
def State.noteMaster (s : State) (m : MasterId) (v : MasterView) : State :=
  let n := s.params.maxAge
  let was : MasterCounts := (s.supplier.map fun l => s.lanes[l].counts[m]).getD {}
  let now := was.after v n s.bus.apCycle
  let s1 := s.modLanes fun _ L => if L.st == .active then { L with counts := L.counts.set m (L.counts[m].after v n s.bus.apCycle) } else L
  let say (s : State) (b : Bool) (code : Nat) : State := if b then s.note code [m.val + 1] else s
  let s2 := say s1 v.differ EventCode.channelDiscrepancy
  let s3 := say s2 (now.sealRun && !was.sealRun) EventCode.sealMismatch
  let s4 := say s3 (now.ssetRun && !was.ssetRun) EventCode.ssetMismatch
  say s4 (now.stale && !was.stale) EventCode.masterStale

/-! ## The vote (R288, R289) -/

/-- The value that at least two of some values agree on; 0 for none. -/
def agreedValue (xs : List Nat) : Nat := (xs.find? fun v => decide (2 ≤ xs.count v)).getD 0
/-- At least two of some flags are set. -/
def twoOf (xs : List Bool) : Bool := decide (2 ≤ xs.count true)
/-- The command image voted from the views of the three masters. -/
def voteImage (vs : Vector MasterView 3) (maxAge : Nat) : Voted :=
  let fresh : List Bytes := allMasters.filterMap fun m => if vs[m].freshAt maxAge then vs[m].image.map (·.payload) else none
  let newest : List Bytes := allMasters.filterMap fun m =>
    if vs[m].freshAt 0 then (vs[m].image.filter fun k => !k.held).map (·.payload) else none
  { cmd := Vector.ofFn fun c => let v := agreedValue (fresh.map fun p => (imgLamp p c).toNat); if 6 ≤ v then 0 else BitVec.ofNat 4 v
    pts := maskOf fun p => twoOf (fresh.map fun b => has (imgPoints b) p)
    budget := Vector.ofFn fun i => BitVec.ofNat 8 (agreedValue (fresh.map fun p => (imgBudget p i.val).toNat))
    clr := maskOf fun (i : Fin 16) => twoOf (newest.map fun p => has (imgClr p) i)
    fresh := maskOf fun m => vs[m].freshAt maxAge }
/-- The latches that a vote's CLR field names are cleared at the next action point (R289): REACT and the revert latches of groups,
the supply-loss latches of banks. -/
def Latches.named (c : Latches) (chans : ChanMask) (gs : GroupMask) (bs : BitVec 4) : Latches :=
  { c with
    react := c.react ||| chans, revert := c.revert ||| gs, energy := c.energy ||| gs, safeState := c.safeState ||| gs, safeDark := c.safeDark ||| gs
    staged := c.staged ||| gs, supplyLoss := c.supplyLoss ||| bs }
/-- The voted CLR bits name the latches that stand now (R289, R411, R468), and end GLADE_UNPROVEN (R420). The outputs of a bank whose supply-loss latch they name
gain restart latches, SUPPLY_LOSS is withdrawn, its hardware latch is sent CLR from the next apply strobe, and a restart latch ends
at the first vote that commands its point off (R467, R468). -/
def State.voteClears (s : State) (v : Voted) : State :=
  let gs := allGroups.filter fun g => v.clr.getLsbD g.val
  let bs := allBanks.filter fun b => v.clr.getLsbD (12 + b.val) && s.supplyGood b && s.activeLanes.any fun l => has s.lanes[l].latches.supplyLoss b
  let chans : ChanMask := maskOf fun (c : Chan) => gs.contains c.group
  let outs : PointMask := maskOf fun (p : Point) => bs.contains p.bank && s.params.isOut p
  let s1 := s.modLanes fun _ L => if L.st == .active then
    { L with latches := { L.latches with restart := (L.latches.restart ||| outs) &&& v.pts }
             clr := L.clr.named chans (maskOf gs.contains) (maskOf bs.contains) } else L
  let s2 := s1.each gs fun s g => s.withdrawFault FaultCode.gladeUnproven [g.val]
  s2.each bs fun s b => (s.modBank b fun x => { x with clrNext := true }).withdrawFault FaultCode.supplyLoss [b.val]

/-! ## Supervision levels (R477, R481 to R484) -/

/-- G(0.10) and G(0.5) at 45 Hz in ns (R156). -/
def gTenth : Nat := 708540
def gHalf : Nat := 3703704
/-- The fast sample period of a channel in ns (R156). -/
def ParamImage.fastPeriod (p : ParamImage) (c : Chan) : Nat := if p.fastA c.group == c.pos.val || p.fastB c.group == c.pos.val then 1620 else 3240
/-- L_ok in ns: the bound of LIT_OK from the action point (R157). -/
def ParamImage.litOkBound (p : ParamImage) (c : Chan) : Nat :=
  let τ := p.filtLit c * p.fastPeriod c
  let j := 11111111 - gTenth
  p.warmup c * 1000000 + (if p.isAc c.group then gTenth * ((τ + j - 1) / j) else 0) + τ + 4800 + 556 + 500
/-- F_vw in ns (R482). -/
def ParamImage.watchBound (p : ParamImage) (c : Chan) : Nat :=
  9700 + (if p.isAc c.group then gHalf else 0) + (p.filtFor c - 1) * 9700 + 556 + 500
/-- F_0 in ns (R195, R481): T_s of 3.24 µs, and 45 Hz on an AC group. -/
def ParamImage.fastBound (p : ParamImage) (c : Chan) : Nat :=
  9700 + (if p.isAc c.group then gHalf else 0) + (p.filtFor c - 1) * 3240 + 556 + 500
/-- The largest value over the channels of a group in CH_USED. -/
def ParamImage.groupMax (p : ParamImage) (g : GroupId) (f : Chan → Nat) : Nat := (((groupChans g).filter p.used).map f).foldl max 0
/-- A and F of a level in ns (R481); P3 has no F. -/
def State.approachBound (s : State) (g : GroupId) (k : Fin 4) : Nat :=
  5 * s.tCyc + s.params.groupMax g s.params.litOkBound + (match k with | 0 => 0 | 1 => 100000 | _ => 10300000)
def State.foreignBound (s : State) (g : GroupId) (k : Fin 4) : Option Nat :=
  if k = 3 then none else some (s.params.groupMax g (if k = 0 then s.params.fastBound else s.params.watchBound))
/-- A bound keeps a voted budget octet (R477). -/
def budgetFits (v : Byte) (bound : Option Nat) : Bool :=
  if v = 255 then true
  else if v = 0 ∨ 250 < v.toNat then false
  else bound.any fun b => decide (b ≤ v.toNat * 10000000)
/-- The level a vote chooses for a group (R483). -/
def State.chosenLevel (s : State) (v : Voted) (g : GroupId) : Fin 4 :=
  let dark := s.activeLanes.all fun l => (groupChans g).all fun c => !s.chanOnNext l c
  let ok (k : Fin 4) : Bool := decide (k.val ≤ s.params.maxLevel g) &&
    budgetFits (v.budget[2 * g.val]'(by omega)) (some (s.approachBound g k)) && budgetFits (v.budget[2 * g.val + 1]'(by omega)) (s.foreignBound g k)
  if !s.mode.mode.supervised || !s.targetMode.supervised || !dark then 0
  else if !ok 1 then 0 else if !ok 2 then 1 else if !ok 3 then 2 else 3
/-- The level a group goes to (R484, R134): less depth at the next action point, more depth once every vote of LOWER_HOLD chose
that level or a deeper one, and from P0 after the loans are home. A rise to P0 or P1 switches the reference and the modulators on
at once (R478). -/
def State.setLevel (s : State) (g : GroupId) (k : Fin 4) : State :=
  let G := s.groups[g]
  let votes : List (Nat × Fin 4) := ([1, 2, 3] : List (Fin 4)).filterMap fun j =>
    if j ≤ k then some ((((G.lowVotes.find? fun e => e.2 == j).map (·.1)).getD s.now), j) else none
  let held := (votes.find? fun e => e.2 == k).any fun e => decide (e.1 + s.params.lowerHold * Config.sec ≤ s.now)
  let s1 := s.modGroup g fun G => { G with lowVotes := votes }
  let lowering := decide (G.level < k) && held
  if k < G.level then
    let s2 := s1.modGroup g fun G => { G with pendLevel := some k }
    if k.val < 2 then (s2.feWrite g (.refEn true)).feWrite g (.modulators true) else s2
  else if lowering then
    (if G.level = 0 then s1.bringHomeAll g else s1).modGroup g fun G => { G with pendLevel := some k }
  else s1.modGroup g fun G => { G with pendLevel := none }

/-! ## Mode changes (R372 to R378, R386) -/

/-- The conditions of R386 that fail, bit k − 1 for condition k. -/
def State.exitFailed (s : State) (v : Voted) : Nat :=
  let fresh := (allMasters.filter fun m => has v.fresh m).length
  bit (!s.integrated) 0 +
  bit (!(s.mode.lifecycle == some .sealed && s.activeBank.any (·.confirmed) && !s.upd.trialRun)) 1 + bit (decide (fresh < 2)) 2 + bit (decide (s.activeLanes.length < 2)) 3
/-- A fault that forces SAFE still stands (R378, R375). -/
def State.safeForced (s : State) : Bool :=
  s.anyStands FaultCode.timeSplit || s.anyStands FaultCode.degradedLimit || s.anyStands FaultCode.revertFail || s.mode.dualDisagree ||
  s.faults.any fun f => f.code == FaultCode.laneCompare && (octet f.scope 1 == 2 || octet f.scope 1 == 3)
/-- A change is decided for the next action point. -/
def State.decideMode (s : State) (m : Mode) (cause : Nat) : State := { s with mode := { s.mode with next := some { target := m, cause := cause } } }
/-- The vote clears the SAFE latch of every lane, and NO_QUORUM with it (R378). -/
def State.clearSafe (s : State) : State :=
  (s.modLanes fun _ L => { L with clr := { L.clr with safe := true } }).withdrawFault FaultCode.noQuorum []
/-- The changes that the vote itself triggers, but DORMANT (R373 causes 2, 3, 9, 11). -/
def State.voteModes (s : State) (v : Voted) : State :=
  let f := s.exitFailed v
  if s.mode.mode.drives ∧ s.activeLanes.any (fun l => s.lanes[l].latches.safe) then s.decideMode .safe 9
  else if s.mode.mode = .join then
    (if f.testBit 0 then s else if f.testBit 1 then s.decideMode .commission 3 else if f = 0 then s.decideMode s.serviceMode 2 else s)
  else if s.mode.mode = .safe ∧ !f.testBit 0 ∧ !f.testBit 2 ∧ !f.testBit 3 ∧ v.clr &&& 0xFFF = 0xFFF then
    (if s.safeForced then s.setSafe else s.clearSafe.decideMode s.serviceMode 11)
  else s
/-- DORMANT is entered when every group may rest and no channel is derived on, and left when a group needs P0 (causes 7,
8). -/
def State.dormantModes (s : State) (levels : Vector (Fin 4) 12) : State :=
  if s.mode.next.isSome then s
  else if s.mode.mode = .service ∧ (levels.all (· != 0)) ∧ (s.activeLanes.all fun l => allChans.all fun c => !s.chanOnNext l c) then s.decideMode .dormant 7
  else if s.mode.mode = .dormant ∧ levels.any (· == 0) then s.decideMode .service 8
  else s
/-- Requests are judged in order until one is taken; those after it are judged at the next vote (R372, R374). -/
def State.judgeReqs (s : State) (v : Voted) : List ModeReq → State
  | [] => { s with mode := { s.mode with reqs := [] } }
  | r :: rest =>
    if s.mode.next.isSome then { s with mode := { s.mode with reqs := r :: rest } }
    else if r.target = s.mode.mode then (s.answer r.num (okReply [])).judgeReqs v rest
    else if !s.reqPermitted r.target then (s.answer r.num (plain Status.mode)).judgeReqs v rest
    else if r.target = .service then
      (if s.exitFailed v = 0 then
        let s1 := (s.logReq s.serviceMode 5 r.person).decideMode s.serviceMode 5
        ({ s1 with mode := { s1.mode with answer := some r } } : State).judgeReqs v rest
      else (s.answer r.num { status := Status.exitCond, payload := toLe 1 (s.exitFailed v) ++ toLe 3 0 }).judgeReqs v rest)
    else
      let s1 := (s.logReq r.target 4 r.person).decideMode r.target 4
      ({ s1 with mode := { s1.mode with answer := some r } } : State).judgeReqs v rest

/-! ## The vote instant -/

/-- The vote instant of this cycle has come. -/
def State.voteDue (s : State) : Bool := s.mode.mode.runs && !s.mode.voted && decide (s.bus.apGt.toNat + s.voteOffset ≤ s.laneTime)
/-- Clears that every lane in the vote has executed take effect (R357, R358). -/
def State.dueClears (s : State) : State :=
  let due := s.act.clears.filter fun k => (s.txn k.num).all s.allStarted
  let s1 : State := { s with act := { s.act with clears := s.act.clears.filter fun k => !due.contains k } }
  s1.each due fun s k => if k.isProve then s.proveClear k else s.latchClear k
/-- Fewer than two masters have an eligible image of age at most 2 × MAX_AGE (R291). -/
def State.noQuorum (s : State) (vs : Vector MasterView 3) : Bool :=
  s.mode.mode.drives && decide ((allMasters.filter fun m => vs[m].freshAt (2 * s.params.maxAge)).length < 2)
/-- Every lane in the vote takes the voted image. -/
def State.takeVote (s : State) (v : Voted) : State := s.modLanes fun _ L => if L.st == .active then { L with voted := v } else L
/-- The image data that came too late for a vote stand as the latest after it (R26). -/
def HubBus.takeLate (b : HubBus) : HubBus :=
  { b with store := Vector.ofFn fun (m : MasterId) => (b.late[m]).getD b.store[m], late := Vector.replicate 3 none }
/-- From the first vote in global time on the wear monitor knows the day (R490). -/
def State.seeDay (s : State) : State :=
  if s.bus.everAcquired then { s with wear := { s.wear with seen := some (s.wear.seen.getD s.wearDay) } } else s
/-- The vote. -/
def State.vote (s : State) : State :=
  let vs : Vector MasterView 3 := Vector.ofFn s.masterView
  let v := voteImage vs s.params.maxAge
  let s1 := (s.each allMasters fun s m => s.noteMaster m vs[m]).takeVote v
  let s2 := (s1.voteClears v).dueClears
  let s3 := if s.noQuorum vs then s2.fault FaultCode.noQuorum [] s2.voteMask else s2
  let s4 := s3.voteModes v
  let levels : Vector (Fin 4) 12 := Vector.ofFn (s4.chosenLevel v)
  let s5 := (s4.dormantModes levels).judgeReqs v s4.mode.reqs
  let s6 := (s5.each allGroups fun t g => t.setLevel g (s5.chosenLevel v g)).copVote.freeRings
  let s7 := s6.modLanes fun l L => if L.st == .active then { L with noImage := false, drive := { L.drive with next := s6.derive l } } else L
  (({ s7 with mode := { s7.mode with voted := true } } : State).modHubs fun _ H => { H with bus := H.bus.takeLate }).seeDay

/-- VOTE_INSTANT (R25). -/
def execVoteInstant (s : State) : Host.Outcome State Fault Refusal := .next (if s.voteDue then s.vote else s)

end Sys2Proof.Machine
end

