-- ==== Sys2Proof/Machine/Stream.lean ====
section
/-!
DEFINITION. Mailbox messages on the bus: credit limits (R244), inbound segments (R243 to R245), the choice of the outbound
segment (R246, R316), and what an integration of the module does to rings, streams and transactions (R230, R322).
-/

namespace Sys2Proof.Machine

/-- The sources on the bus. -/
def busSources : List Source := [.master 0, .master 1, .master 2, .maint]
/-- The node ID of a bus source; none for the local port, or where the record names no maintenance node. -/
def ParamImage.nodeOf (p : ParamImage) (x : Source) : Option Nat :=
  match x with
  | .master m => some (p.masterNode m)
  | .maint => if p.maintNode = 0xFF then none else some p.maintNode
  | .host => none
/-- The bus source that a node is. -/
def ParamImage.sourceOf (p : ParamImage) (n : Nat) : Option Source := busSources.find? fun x => p.nodeOf x == some n
/-- The place of a bus source among the four streams. -/
def streamIdx (x : Source) : Fin 4 :=
  match x with
  | .master m => ⟨m.val, by omega⟩
  | _ => 3

/-! ## Credits (R244) -/

/-- The rings that take segments. -/
def segRings : List RingId := [0, 1, 2, 3, 5]
/-- The credit limits are taken at the freeze. -/
def State.freezeLimits (s : State) : State :=
  s.each segRings fun s q => s.modRing q fun r => { r with limit := s.expMseq q + BitVec.ofNat 8 r.free }

/-! ## Inbound segments (R243 to R245) -/

/-- A segment as a frame carries it (R212). -/
structure Segment where
  src : Source
  ring : RingId
  mseq : Byte
  first : Bool
  last : Bool
  octets : Bytes
  deriving DecidableEq, Repr

/-- A segment is stored behind its message's earlier ones; without room it takes them with it (R244). The last one
completes the command, which is in flight from now (R309); fewer than 8 octets are no command (R308). -/
def State.storeSegment (s : State) (h : HubId) (x : Segment) : State :=
  let r := s.mail.rings[x.ring]
  let had := r.part.getD ([], 0)
  if 32 ≤ r.used + had.2 then
    (s.modRing x.ring fun r => { r with part := none }.drop).segDrop h (had.2 + 1)
  else
    let all := had.1 ++ x.octets
    let n := had.2 + 1
    let s1 := s.modHubs fun _ H => { H with qmem := Memory.putMsg H.qmem x.ring (r.prod.toNat + had.2) x.octets }
    if !x.last then s1.modRing x.ring fun r => { r with part := some (all, n) }
    else if all.length < 8 then s1.modRing x.ring fun r => { r with part := none }.drop
    else (s1.modRing x.ring fun r => { (r.produce n) with part := none }).storeTxn x.src x.ring all n
/-- A segment in sequence (R245): with FIRST it starts a message, and the stream's incomplete one is discarded; without FIRST it
goes on with the message open in its ring, or is discarded and counted. -/
def State.takeInSequence (s : State) (h : HubId) (x : Segment) : State :=
  if x.first then (s.dropOpen h x.src).storeSegment h x
  else if (s.mail.rings[x.ring]).part.isSome then s.storeSegment h x else s.segDrop h 1
/-- A segment out of sequence: SEG_LOSS, and what the source had begun is discarded (R245). -/
def State.takeOutOfSequence (s : State) (h : HubId) (x : Segment) : State :=
  let s1 := (s.each (s.ringsOf x.src) fun s q => s.modRing q Ring.dropPart).modHub h fun H =>
    { H with bus := { H.bus with cnt := { H.bus.cnt with segLoss := H.bus.cnt.segLoss + 1 } } }
  let s2 := s1.note EventCode.segLoss [(s.params.nodeOf x.src).getD 0]
  if x.first then s2.storeSegment h x else s2
/-- A segment of a source that may send it, in a cycle; the second copy of the same MSEQ is ignored (R227). -/
def State.takeSegment (s : State) (h : HubId) (cycle : Word) (x : Segment) : State :=
  let i := streamIdx x.src
  if s.bus.lastSeg[i] = some (cycle, x.mseq) then s else
  let want := s.mail.rings[cmdRing x.src].expMseq
  let s1 : State := { s with bus := { s.bus with lastSeg := s.bus.lastSeg.set i (some (cycle, x.mseq)) } }
  let s2 := s1.modRing (cmdRing x.src) fun r => { r with expMseq := x.mseq + 1 }
  if x.mseq = want then s2.takeInSequence h x else s2.takeOutOfSequence h x
/-- The ring that a bus source may send to by MRING (R243). -/
def State.segRing (s : State) (x : Source) (mring : Nat) : Option RingId :=
  (s.ringsOf x).find? fun q => q.val == mring

/-! ## The outbound segment of a frame (R246, R316) -/

/-- A segment that may be sent: its ring, the place of its message in the ring, its destination, the message. -/
structure OutSeg where
  ring : RingId
  idx : Nat
  dest : Source
  msg : OutMsg
  deriving DecidableEq, Repr

def OutSeg.octets (x : OutSeg) : Bytes := (x.msg.octets.drop x.msg.sent).take 128
def OutSeg.first (x : OutSeg) : Bool := x.msg.sent == 0
def OutSeg.last (x : OutSeg) : Bool := decide (x.msg.octets.length ≤ x.msg.sent + 128)
/-- The order of two bus sources by node ID. -/
def ParamImage.before (p : ParamImage) (x y : Source) : Bool := decide ((p.nodeOf x).getD 64 ≤ (p.nodeOf y).getD 64)
/-- The destination that a message goes to next: the one begun, else the first on the bus by node ID. -/
def ParamImage.nextDest (p : ParamImage) (m : OutMsg) : Option Source :=
  match m.begun with
  | some d => some d
  | none =>
    let ds := m.dests.filter (· != .host)
    ds.find? fun x => ds.all fun y => p.before x y
/-- A message begun to a destination, somewhere in the rings. -/
def State.begunTo (s : State) (d : Source) : Bool := s.mail.rings.any fun r => r.msgs.any fun m => m.begun == some d
/-- The first message of a ring that a bus destination still needs. -/
def State.headFor (s : State) (q : RingId) : Option (Nat × OutMsg) :=
  let ms := s.mail.rings[q].msgs
  (((List.range ms.length).zip ms).find? fun e => e.2.dests.any (· != .host))
/-- The segment a ring has ready for a slot that starts at an instant. -/
def State.segReady (s : State) (slotAt : Nat) (q : RingId) : Option OutSeg :=
  match s.headFor q with
  | none => none
  | some (i, m) =>
    match s.params.nextDest m with
    | none => none
    | some d =>
      if m.begun.isNone && (s.begunTo d || (decide (q.val < 10) && decide (slotAt < m.stamp + 2400))) then none
      else some { ring := q, idx := i, dest := d, msg := m }
/-- The segment of the frame: of Q06 to Q09 the one that has waited longest, then Q11, Q14, Q13, Q12, Q15. -/
def State.chooseSegment (s : State) (slotAt : Nat) : Option OutSeg :=
  if !s.mailUp then none else
  let resp := ([6, 7, 8, 9] : List RingId).filterMap (s.segReady slotAt)
  match resp.find? fun x => resp.all fun y => decide (x.msg.stamp ≤ y.msg.stamp) with
  | some x => some x
  | none => ([11, 14, 13, 12, 15] : List RingId).findSome? (s.segReady slotAt)
/-- A segment has been sent: its message goes on, or is complete at its destination; a transaction ends with its last
response (R309), and entries that every destination has are freed (R315). -/
def State.segSent (s : State) (x : OutSeg) : State :=
  let m := x.msg
  let m1 : OutMsg := if x.last then { m with dests := m.dests.filter (· != x.dest), begun := none, sent := 0 } else { m with begun := some x.dest, sent := m.sent + 128 }
  let s1 : State := { s with bus := { s.bus with outMseq := s.bus.outMseq.set (streamIdx x.dest) (s.bus.outMseq[streamIdx x.dest] + 1) } }
  let s2 := s1.modRing x.ring fun r => ({ r with msgs := r.msgs.set x.idx m1 } : Ring).settle
  match m.num with
  | some n => if x.last then s2.endTxn n else s2
  | none => s2

/-! ## Integration of the module (R230, R322) -/

/-- The inbound rings whose contents an integration discards: Q00 to Q03, and Q05 while a bus source owns it. -/
def State.busRings (s : State) : List RingId := if s.upd.owner.any (· != .host) then [0, 1, 2, 3, 5] else [0, 1, 2, 3]
/-- The inbound contents, the outbound segments and the streams of the bus start afresh. -/
def State.restartStreams (s : State) : State :=
  let s1 := s.each s.busRings fun s q => s.modRing q fun r => { r.dropPart with cons := r.prod }
  let s2 := s1.each segRings fun s q => s.modRing q fun r => { r with expMseq := 0, limit := 32 }
  let s3 := s2.each ([6, 7, 8, 9] : List RingId) fun s q => s.modRing q fun r =>
    { r with cons := r.prod, msgs := [], waiting := [], dropCnt := r.dropCnt + BitVec.ofNat 32 (r.msgs.length + r.waiting.length) }
  let cut (m : OutMsg) : OutMsg := { m with dests := m.dests.filter (· == .host), begun := none, sent := 0 }
  let s4 := s3.each ([11, 12, 13, 14, 15] : List RingId) fun s q =>
    s.modRing q fun r =>
      let gone := ((r.msgs ++ r.waiting).filter fun m => !m.dests.contains .host).length
      ({ r with msgs := r.msgs.map cut, waiting := (r.waiting.map cut).filter fun m => !m.dests.isEmpty, dropCnt := r.dropCnt + BitVec.ofNat 32 gone } : Ring).settle
  { s4 with bus := { s4.bus with outMseq := Vector.replicate 4 0, lastSeg := Vector.replicate 4 none } }
/-- Every transaction in flight from a bus source is answered ABORTED. The entries of every command in the discarded rings are gone,
and a command refused but not yet answered is gone with them. -/
def State.abortBus (s : State) : State :=
  let gone (t : Txn) : Bool := s.busRings.contains t.ring
  let mine (t : Txn) : Bool := t.src != .host && t.inFlight
  let s1 : State := { s with mail := { s.mail with
    txns := s.mail.txns.map fun (t : Txn) =>
      { t with done := !mine t && (t.done || gone t), judged := t.judged || (gone t && !mine t), freed := t.freed || gone t } } }
  (s1.each (s1.mail.txns.filter mine) fun s t => s.abort t).prune
/-- The module integrates (R230): its frames count from 1 again, its claim ends, a differing decision is reported (R239), and
lane time goes on from the cycles of the hub that begins to send (R283). -/
def State.integrate (s : State) (set : Nat) (starts : List CycleStart) : State :=
  let b := s.bus
  let s1 : State := { s with bus := { b with
    sset := set, int := 0, claimed := none, claimWait := none, emptyOnce := [], emptyTwice := [], change := none, answers := [], diverged := false, starts := starts
    coldStart := false, csHeard := 0, csLost := false } }
  let s2 := if b.diverged then s1.note EventCode.schedDiverge [set] else s1
  if s2.mail.opened then s2.restartStreams.abortBus else s2

end Sys2Proof.Machine
end

