-- ==== Sys2Proof/Machine/Cycle.lean ====
section
/-!
DEFINITION. The action point (R252): the cycle that starts (R16, R255, R263), the hubs held against each other (R262), the
drive images in force (R25, R44, R166, R403 to R409, R455), what a change of a channel or point does to proving and tests
(R63, R64, R69, R143 to R152, R176, R187, R460), the levels and modes agreed at the vote, and the sub-image freeze (R29).
-/

namespace Sys2Proof.Machine

/-! ## The start of a cycle -/

/-- T_CYC of the set a hub holds in force. -/
def State.hubCyc (s : State) (h : HubId) : Nat := s.params.cycTicks s.hubs[h].bus.sset
/-- A hub's count has reached its next nominal start. -/
def State.hubAtAp (s : State) (h : HubId) : Bool := decide (s.hubs[h].time.apGt.toNat + s.hubCyc h ≤ s.hubs[h].time.gt.toNat)
/-- The hub whose strobe the lanes act on: the first to reach its next start (R16). The later strobe of the other hub for the
same cycle is not acted on. -/
def State.leader (s : State) : Option HubId := allHubs.find? fun h => s.hubUsable h && s.hubAtAp h && !s.hubs[h].bus.lags
/-- The action point has come: by a hub's strobe, or by lane time where no hub supplies one (R263). -/
def State.apDue (s : State) : Bool :=
  s.mode.mode.runs && (if allHubs.any s.hubUsable then s.leader.isSome else decide (s.nextAp ≤ s.now))
/-- What a hub notes during a cycle starts afresh; its deviations are those of the last cycle from now on (R275), and a cycle
without a correction leaves none (R272). -/
def HubState.newCycle (H : HubState) : HubState :=
  { H with
    time := { H.time with prevDevs := H.time.devs, devs := [], c := if H.time.corrected then H.time.c else none, corrected := false }
    bus := { H.bus with syncNodes := [], timingFail := false, csHeard := false, syncUsable := false, validThis := false, ssetFails := 0, begun := [] } }
/-- PREC_NG is set in the cycle after one whose correction gave none (R259); then what the hub notes starts afresh. -/
def State.hubNewCycle (s : State) (h : HubId) : State :=
  let t := s.hubs[h].time
  let ng := t.corrected && t.c.isNone
  let s1 := s.modHub h fun H => ({ H with time := { H.time with precNg := H.time.precNg || ng } } : HubState).newCycle
  if ng && !t.precNg then s1.note EventCode.precNg [h.val] else s1
/-- A hub's own count advances by a cycle (R252). -/
def HubState.advance (H : HubState) (cyc : Nat) : HubState :=
  { H with
    time := { H.time with apGt := H.time.apGt + BitVec.ofNat 64 cyc }
    bus := { H.bus with cycle := H.bus.cycle + 1, lags := false } }
/-- A cycle of a hub's channel has ended (R228): cycles without a valid frame are counted, and two cycles in a row with one
withdraw CHANNEL_DOWN. -/
def State.countCycle (s : State) (h : HubId) : State :=
  let b := s.hubs[h].bus
  let run := if b.validThis then min 2 (b.heardRun + 1) else 0
  let s1 := s.modHub h fun H => { H with bus := { b with silent := if b.validThis then 0 else b.silent + 1, heardRun := run, chDown := b.chDown && decide (run < 2) } }
  if b.chDown && 2 ≤ run then s1.withdrawFault FaultCode.channelDown [h.val] else s1
/-- A hub's count has reached the nominal start of its next cycle: the cycle starts (R252). -/
def State.hubStart (s : State) (h : HubId) : State :=
  let s1 := if s.bus.everAcquired then s.countCycle h else s
  (s1.hubNewCycle h).modHub h fun H => H.advance (s1.hubCyc h)
/-- The module's action point for a hub: one that keeps the module's cycle starts its own where its count has reached it, and else
lags if its strobe for this cycle is still to come, within half a cycle (notes/assumptions/141.md). The cycles of a hub without
cycle timing are counted by the module's action points, once a hub has acquired the bus since the reset (R228). -/
def State.hubAtAction (s : State) (h : HubId) : State :=
  let H := s.hubs[h]
  if H.inPhase s.bus.coldStart then
    if s.hubAtAp h then s.hubStart h
    else s.modHub h fun H => { H with bus := { H.bus with lags := decide (H.time.apGt.toNat + s.hubCyc h ≤ H.time.gt.toNat + s.hubCyc h / 2) } }
  else if H.bus.acquired then s
  else (if !H.inReset && s.bus.everAcquired then s.countCycle h else s).hubNewCycle h
/-- A hub starts a cycle by its own count with no action point of the lanes: its strobe is the later of the two, or they do not act
on it. -/
def State.hubOwnDue (s : State) (h : HubId) : Bool :=
  s.hubs[h].inPhase s.bus.coldStart && s.hubAtAp h && (s.hubs[h].bus.lags || !s.hubUsable h)
/-- The passing of a tick: a hub starts a cycle that the lanes do not start with it, and at every whole 100 µs of lane time the
lanes evaluate; the index counts them (notes/assumptions/114.md). -/
def State.pass (s : State) : State :=
  let s1 := s.tick
  if s1.mode.mode.runs then
    let s2 := s1.each allHubs fun s h => if s.hubOwnDue h then s.hubStart h else s
    if s1.reaches 20000 then s2.evaluate else s2
  else s1
/-- The module may claim a spare slot (R240). -/
def State.mayClaim (s : State) : Bool :=
  s.integrated && s.params.claim && (s.params.slotOf s.bus.sset s.bus.nodeId).isNone && s.bus.claimed.isNone
/-- The spare slots long enough in which no frame began on either channel in the cycle that ends (R240). -/
def State.emptySpares (s : State) : List Nat :=
  (List.range (s.params.nSlots s.bus.sset)).filter fun j =>
    s.params.isSpare s.bus.sset j && decide (438 ≤ s.params.slotLen s.bus.sset j) && allHubs.all fun h => !s.hubs[h].bus.begun.contains j
/-- The search for a spare slot observes the cycle that ends. -/
def State.observeSpares (s : State) : State :=
  if s.mayClaim && s.bus.claimWait.isNone then
    let e := s.emptySpares
    { s with bus := { s.bus with emptyTwice := s.bus.emptyOnce.filter e.contains, emptyOnce := e } }
  else { s with bus := { s.bus with emptyOnce := [], emptyTwice := [] } }
/-- A sync node other than this one was heard in the cycle that ends. -/
def State.heardSync (s : State) : Bool :=
  s.bus.heardNow.any fun e => e.1 != s.bus.nodeId && (s.params.slotOf s.bus.sset e.1).any (s.params.isSync s.bus.sset)
/-- The cold-start phase ends after two cycles in a row with another sync node (R232 step 3): the hubs go to SEND, and the
module integrates. -/
def State.endColdStart (s : State) : State :=
  let s1 := s.modHubs fun _ H => if H.inPhase true then { H with bus := { H.bus with integ := .send, acquired := true } } else H
  ({ s1 with bus := { s1.bus with everAcquired := true } } : State).integrate s.bus.sset s.bus.starts
/-- What the module heard and sent in the cycle that ends. -/
def State.turnBus (s : State) : State :=
  let b := s.bus
  let cs := if b.coldStart then (if s.heardSync then b.csHeard + 1 else 0) else 0
  { s with bus := { b with heardPrev := b.heardNow, heardNow := [], sentPrev := b.sent, sent := false, csHeard := cs } }
/-- The module's own slot starts less than 12 µs after its action point, so that its freeze lies in the cycle before (R29). -/
def State.earlySlot (s : State) : Bool := s.slotInUse.any fun j => decide (2 * s.params.slotStart s.bus.sset j < 2400)
/-- The lanes' cycle advances. The sub-images frozen in the last cycle give way, but for a slot whose freeze lay there. -/
def State.startCycle (s : State) : State :=
  let x : BitVec 64 × Word := match s.leader with
    | some h => (s.hubs[h].time.apGt + BitVec.ofNat 64 (s.hubCyc h), s.hubs[h].bus.cycle + 1)
    | none => (s.bus.apGt + BitVec.ofNat 64 s.tCyc, s.bus.apCycle + 1)
  let s1 := s.observeSpares.turnBus.each allHubs State.hubAtAction
  let s2 := if s.earlySlot then s1 else s1.modHubs fun _ H => { H with bus := { H.bus with sub := Vector.replicate 3 none } }
  let s3 : State := { s2 with bus := { s2.bus with apAt := s2.now, apGt := x.1, apCycle := x.2, starts := ({ cycle := x.2, gt := x.1, struck := s2.now } :: s2.bus.starts).take 17 } }
  if s3.bus.coldStart && decide (2 ≤ s3.bus.csHeard) then s3.endColdStart else s3

/-! ## The hubs held against each other (R262, R263) -/

/-- HUB_TIME is raised. -/
def State.hubTime (s : State) (h : HubId) : State := s.fault FaultCode.hubTime [h.val] s.voteMask
/-- The decision at the second action point in a row beyond 2Π. -/
def State.hubVerdict (s : State) : State :=
  let X := s.hubs[(0 : HubId)].time
  let Y := s.hubs[(1 : HubId)].time
  let a (t : HubTime) : Nat := (t.c.map (·.natAbs)).getD 0
  if X.nval < Y.nval then s.hubTime 0
  else if Y.nval < X.nval then s.hubTime 1
  else if a Y + 50 ≤ a X then s.hubTime 0
  else if a X + 50 ≤ a Y then s.hubTime 1
  else ({ s with bus := { s.bus with timeSplit := true } } : State).fault FaultCode.timeSplit [] s.voteMask
/-- A faulted hub's strobes lay within Π, or did not; after 64 action points in a row HUB_TIME ends. HUB_SLICE_FAIL keeps the hub
faulted (R438). -/
def State.hubWithin (s : State) (h : HubId) (ok : Bool) : State :=
  let n := if ok then s.hubs[h].within + 1 else 0
  let s1 := s.modHub h fun H => { H with within := n }
  if 64 ≤ n ∧ s.stands FaultCode.hubTime [h.val] then
    (s1.modHub h fun H => { H with faulted := s.stands FaultCode.hubSliceFail [h.val], within := 0 }).withdrawFault FaultCode.hubTime [h.val]
  else s1
/-- What is left to a hub's next strobe by its own count, in ns. -/
def State.strobeIn (s : State) (h : HubId) : Int :=
  let t := s.hubs[h].time
  (((t.apGt.toNat : Int) + s.hubCyc h - t.gt.toNat) * 20000000 - t.phase) / 4000000
/-- The interval between the strobes of the two hubs, hub Y less hub X in ns: every lane measures the same (R255,
notes/assumptions/125.md). -/
def State.strobeDiff (s : State) : Int := s.strobeIn 1 - s.strobeIn 0
/-- The strobes of the two hubs held against each other, by the lanes in the vote. -/
def State.compareHubs (s : State) : State :=
  let X := s.hubs[(0 : HubId)]
  let Y := s.hubs[(1 : HubId)]
  let sends (H : HubState) : Bool := H.bus.integ == .send && !H.inReset
  if !(sends X && sends Y) || s.activeLanes.isEmpty || s.bus.timeSplit then
    let s1 := s.modHubs fun _ H => { H with within := 0 }
    { s1 with bus := { s1.bus with diff := 0, diffRun := 0 } }
  else
    let m := s.strobeDiff
    if X.faulted || Y.faulted then
      ({ s with bus := { s.bus with diff := 0, diffRun := 0 } } : State).each allHubs fun u h =>
        if s.hubs[h].faulted then u.hubWithin h (decide (m.natAbs ≤ 100)) else u
    else
      let run := if 200 < m.natAbs then s.bus.diffRun + 1 else 0
      let s1 : State := { s with bus := { s.bus with diff := max (-8191) (min 8191 m), diffRun := if 2 ≤ run then 0 else run } }
      if 2 ≤ run then s1.hubVerdict else s1

/-! ## A channel at an action point -/

/-- What an action point does to one channel in one lane: derived state, the command that acts on it, and the command that proving
judges as voted, before and after. -/
structure Turn where
  wasOn : Bool
  isOn : Bool
  cmdWas : BitVec 4
  cmdNow : BitVec 4
  ruleWas : BitVec 4
  ruleNow : BitVec 4
  deriving DecidableEq, Repr

/-- The voted command changed its value (R166). -/
def Turn.changed (t : Turn) : Bool := t.ruleWas != t.ruleNow
/-- The command that acts on the channel changed its value. -/
def Turn.recmd (t : Turn) : Bool := t.cmdWas != t.cmdNow
/-- A command is a flash. -/
def isFlash (c : BitVec 4) : Bool := c == 2 || c == 3
/-- The channel goes on flashing (R152): under command 2 or 3, and 2 or 3 before. A change between the two is no other command
to the warm-up rule (notes/assumptions/130.md). -/
def Turn.flashes (t : Turn) : Bool := isFlash t.cmdWas && isFlash t.cmdNow
/-- The held decisions end where the voted command changes, and the rules start afresh (R166, R200). -/
def Proving.release (a : Proving) (lit : Bool) (ap : Nat) : Proving :=
  { a with failDark := false, darkCause := .none, failLit := false, foreign := false, forCause := .none, source := none, warmEnds := 0
           litWin := if a.failDark then [] else a.litWin
           goodRun := if a.failDark then 0 else a.goodRun
           warming := a.warming || (a.failDark && lit)
           onAt := if a.failDark && lit then some ap else a.onAt
           inrushMax := if a.failDark && lit then 0 else a.inrushMax
           inrushRaised := a.inrushRaised && !(a.failDark && lit)
           darkWin := if a.failLit then [] else a.darkWin
           forHist := if a.foreign then [] else a.forHist
           vwHist := if a.foreign then [] else a.vwHist
           onsetAt := if a.foreign then none else a.onsetAt }
/-- The settle interval that an action point brings a channel (R124): for the warm-up and 2 ms after a lighting, 10 ms after a
darkening or a change to another lit command. -/
def Turn.settleEnd (t : Turn) (warm ap : Nat) : Option Nat :=
  if t.isOn && !t.wasOn then some (ap + warm + 2 * Config.ms)
  else if t.isOn != t.wasOn || (t.recmd && t.isOn) then some (ap + 10 * Config.ms) else none
/-- A flash begins under a channel that stays on: its first on-phase is a warm-up (R152). -/
def Turn.flashStarts (t : Turn) : Bool := t.isOn && t.wasOn && isFlash t.cmdNow && !isFlash t.cmdWas
/-- One lane's proving state of a channel after an action point (R143, R146, R149, R152, R166), with the windows and the duty that
late samples are judged by (R553), and the channel's settle interval (R124). -/
def Proving.turn (a : Proving) (t : Turn) (ap warm : Nat) (duty : Option Nat) : Proving :=
  let b := if t.changed then { a.release t.isOn ap with cmdAt := ap } else a
  let a1 := match t.settleEnd warm ap with
    | some e => b.settles ap e
    | none => b
  if t.isOn && !t.wasOn then
    { a1 with onAt := some ap, warming := true, untaken := false, litOk := t.flashes && a.litOk, goodRun := 0, litWin := [], vHist := [], inrushMax := 0, inrushRaised := false,
              forHist := [], vwHist := [], onsetAt := none, litAts := (ap :: a.litAts).take 4
              changeAt := ap, lateWin := a.darkWin, lateFor := a.forHist, lateOnset := a.onsetAt, lateDuty := none, lateCleared := t.changed }
  else if t.wasOn && !t.isOn then
    { a1 with offAt := some ap, warming := false, litOk := t.flashes && a.litOk, darkWin := [], forHist := [], vwHist := [], onsetAt := none,
              changeAt := ap, lateWin := a.litWin, lateFor := [], lateDuty := duty, lateWarm := a.warming, lateOn := a.onAt, lateCleared := t.changed
              warmEnds := if t.flashes && !a.litOk && !a.failDark then a.warmEnds + 1 else 0 }
  else
    let a2 := if t.isOn && (t.recmd || t.changed) then { a1 with recmdAt := ap, lateDuty := duty, lateWarm := a.warming, lateOn := if t.changed && a.failDark then some ap else a.onAt } else a1
    if t.flashStarts then { a2 with onAt := some ap, warming := true, untaken := false, litOk := false, goodRun := 0, inrushMax := 0, inrushRaised := false } else a2
/-- One lane's probe state of a channel (R151, R187, R198, R200). -/
def Probing.turn (b : Probing) (t : Turn) (wasForeign : Bool) : Probing :=
  let b1 := if t.changed && wasForeign then { b with resRun := 0, capRun := 0 } else b
  if t.isOn && !t.wasOn then { b1 with openCircuit := false, ocCause := .none, driftOut := 0, driftIn := 0, coldOut := 0 }
  else if t.wasOn && !t.isOn then { b1 with failRun := 0, intactRun := 0, iqRaised := false, resRun := 0, capRun := 0, coldOut := 0 }
  else b1
/-- The rules of a channel restart at an action point, as though its derived state became then what it is (R357). -/
def Proving.restart (a : Proving) (lit : Bool) (ap : Nat) : Proving :=
  { a with failDark := false, darkCause := .none, failLit := false, foreign := false, forCause := .none, source := none, lapse := none,
           litOk := false, goodRun := 0, litWin := [], darkWin := [], forHist := [], vwHist := [], onsetAt := none, warmEnds := 0,
           warming := lit, onAt := if lit then some ap else a.onAt, offAt := if lit then a.offAt else some ap,
           inrushMax := if lit then 0 else a.inrushMax, inrushRaised := a.inrushRaised && !lit }
def Probing.restart (b : Probing) : Probing := { b with failRun := 0, intactRun := 0, iqRaised := false, resRun := 0, capRun := 0 }
/-- The first instant of a channel's majority tests in a dark interval (R67). -/
def ParamImage.firstMaj (p : ParamImage) (c : Chan) (ap : Nat) : Nat := ap + p.decayTicks c + 100 * Config.ms
/-- A channel's test schedule after an action point (R60, R66, R67). The first majority test of a channel that a command turns dark in
the off-phase of a flash counts from that command's action point: the model's choice (notes/assumptions/115.md). -/
def TestSched.atAction (x : TestSched) (p : ParamImage) (c : Chan) (t : Turn) (ap : Nat) : TestSched :=
  let lit := !cmdDark t.cmdNow
  let y := x.turn lit ap
  let begins := t.isOn && !t.wasOn && !t.flashes
  { y with
    firstOk := y.firstOk && lit && !begins
    nextOff := if lit && !begins then y.nextOff else none
    dimSaid := y.dimSaid && lit
    nextMaj := if lit || t.isOn then none
      else if t.wasOn || !cmdDark t.cmdWas || y.nextMaj.isNone then some (p.firstMaj c ap) else y.nextMaj }

/-! ## A lane at an action point -/

/-- The command that acts on a channel under the next image: command 1 on a Glade channel of a reverting group, whatever is voted
(R403, R409), else the voted one, or that of a test overlay. -/
def LaneState.actCmd (L : LaneState) (p : ParamImage) (cmds : Vector (BitVec 4) 96) (c : Chan) : BitVec 4 :=
  if has L.drive.next.revert c.group && p.inGlade c then 1 else cmds[c]
/-- What the lane turns for a channel. -/
def LaneState.turnOf (L : LaneState) (p : ParamImage) (cmds : Vector (BitVec 4) 96) (c : Chan) : Turn :=
  { wasOn := has L.drive.img.on c, isOn := has L.drive.next.on c, cmdWas := L.inForce.cmd[c], cmdNow := L.actCmd p cmds c
    ruleWas := L.cmdRule[c], ruleNow := cmds[c] }
/-- The voted command of a channel changes to dark from any other value (R44); no test overlay and no change of mode does that. -/
def LaneState.votedDark (L : LaneState) (c : Chan) : Bool := cmdDark L.voted.cmd[c] && !cmdDark L.cmdVoted[c]
/-- A field point after an action point (R458, R469). -/
def LanePoint.turn (a : LanePoint) (was on cleared : Bool) (ap : Nat) : LanePoint :=
  let b := if cleared then { a with outCause := .none } else a
  if was && !on then { b with offAt := some ap, onReadBack := none } else if on && !was then { b with onReadBack := none, extHigh := none } else b
/-- One lane in the vote takes its next drive image into force (R25, R44, R62, R289, R451, R455, R468): the latches that the vote
cleared end, and CLR goes to every group with
a channel that is voted dark. The overlay state of a channel dimmed from now on is that of the present millisecond, `offPh` holding
those whose phase is off (R59); DRIVE has it from the next overlay word on (R20). The off overlay of a channel that is derived off
ends. `lp` is the image that the lamp records are read from. -/
def LaneState.apply (L : LaneState) (p lp : ParamImage) (cmds : Vector (BitVec 4) 96) (clrBanks : BitVec 4) (ap : Nat) (offPh : ChanMask) : LaneState :=
  let dark : ChanMask := maskOf L.votedDark
  let ptsOff : PointMask := L.inForce.pts &&& ~~~L.voted.pts
  let clrG (g : GroupId) : Bool := (groupChans g).any fun c => has dark c
  let clrB (b : BankId) : Bool := has clrBanks b || (bankPoints b).any fun q => has ptsOff q && has L.latches.outFault q
  let d := L.drive
  let keep : ChanMask := d.img.dim &&& maskOf fun (c : Chan) => L.inForce.cmd[c] == L.actCmd p cmds c
  { L with
    latches := { L.due with
      short := L.latches.short &&& ~~~dark, overtemp := L.latches.overtemp &&& ~~~dark, switchFault := L.latches.switchFault &&& ~~~dark
      outFault := L.latches.outFault &&& ~~~ptsOff }
    clr := {}
    rev := Vector.ofFn fun g => if has L.clr.staged g then {} else L.rev[g]
    inForce := { L.voted with cmd := Vector.ofFn (L.actCmd p cmds) }
    cmdVoted := L.voted.cmd
    cmdRule := cmds
    drive := { d with
      img := d.next
      held := false
      grp := Vector.ofFn fun g => if clrG g then { d.grp[g] with clrLeft := 4 } else d.grp[g]
      bank := Vector.ofFn fun b => { d.bank[b] with half := false, clrLeft := if clrB b then 8 else d.bank[b].clrLeft }
      ov := { d.ov with off := d.ov.off &&& d.next.on, dimOff := d.next.dim &&& ((d.ov.dimOff &&& keep) ||| (offPh &&& ~~~keep)) }
      sent := { d.sent with off := d.sent.off &&& d.next.on } }
    prov := Vector.ofFn fun c =>
      let duty := if has d.img.dim c then some (lp.dimDuty c L.inForce.cmd[c]) else none
      let b := (L.prov[c]).turn (L.turnOf p cmds c) ap (lp.warmup c * Config.ms) duty
      let a := if b.lapse.isSome then b.restart (L.turnOf p cmds c).isOn ap else b
      if has dark c then { a with swCause := .none } else a
    prob := Vector.ofFn fun c =>
      let b := (L.prob[c]).turn (L.turnOf p cmds c) (L.prov[c]).shownForeign
      if (L.prov[c]).lapse.isSome then b.restart else b
    pts := Vector.ofFn fun q =>
      if p.isOut q then (L.pts[q]).turn (has d.img.pts q) (has d.next.pts q) (has ptsOff q) ap else L.pts[q] }

/-- A group's revert in one lane after an action point: its stage-1 and stage-2 action points, and the permissive channels
that were on before stage 1 (R403 to R405). -/
def Revert.atAction (r : Revert) (begins ends : Bool) (was : BitVec 8) (ap : Nat) : Revert :=
  { stage1At := if begins then some ap else if ends then some (r.stage1At.getD ap) else r.stage1At
    stage2At := if ends then some ap else r.stage2At
    wasOn := if begins then was else r.wasOn }
/-- The contactor outputs of reverting groups that are on in an image. -/
def ParamImage.contactorsOn (p : ParamImage) (pts : PointMask) (a : Bool) : GroupMask :=
  maskOf fun g => (pointAt (p.outOf g a)).any fun q => has pts q
/-- What its reverts do in one lane at an action point (R403 to R409). At stage 1 the contactor outputs keep the state of the
new image, and with no Glade pattern, or the feed already absent, stage 2 follows at once; at stage 2 a group without
contactors, or whose feed is absent already, is safe-dark. -/
def LaneState.stages (L : LaneState) (p : ParamImage) (was : ChanMask) (absent : GroupMask) (ap : Nat) : LaneState :=
  let begins (g : GroupId) : Bool := has L.drive.img.revert g && has L.latches.revert g && (L.rev[g]).stage1At.isNone
  let ends (g : GroupId) : Bool := has L.drive.img.energy g && (L.rev[g]).stage2At.isNone
  let k := L.latches
  let staged := k.staged ||| maskOf begins
  let dark : GroupMask := maskOf fun g => ends g && (!p.contactors g || has absent g)
  { L with
    latches := { k with
      staged := staged
      keepA := (k.keepA ||| ~~~k.staged) &&& p.contactorsOn L.drive.img.pts true
      keepB := (k.keepB ||| ~~~k.staged) &&& p.contactorsOn L.drive.img.pts false
      energy := k.energy ||| maskOf fun g => begins g && (p.glade g == 0 || has absent g)
      safeState := k.safeState ||| dark
      safeDark := k.safeDark ||| dark }
    rev := Vector.ofFn fun g => (L.rev[g]).atAction (begins g) (ends g) (groupBits was g &&& p.chPermissive g) ap }

/-! ## Tests and wear of one channel (R63, R64, R69, R152, R493, R495) -/

/-- A group's running test on a channel that the action point changes (R64): an off-test passes, fails or is abandoned, a
majority test is abandoned when the channel is lit. An off-test that has failed after the vote is abandoned too where the action
point brings another lit command: R64's row before R62's withdrawal (notes/assumptions/131.md). -/
def State.testAtAction (s : State) (c : Chan) (t : Turn) : State :=
  match s.groups[c.group].test with
  | none => s
  | some r =>
    if r.ch ≠ c then s
    else if r.majority then
      (if t.isOn then ((s.endMajority r).testEnds c 3) else s)
    else if t.isOn then
      (if t.recmd then ((s.endOffNow c).testEnds c 3).modSched c fun x => { x with nextOff := some (s.now + 100 * Config.ms) } else s)
    else (s.endOffNow c).testEnds c (if r.failed then 2 else if 3 ≤ r.judged then 1 else 3)
/-- A transition under judgement at an action point that changes the channel, and the transition that a flash phase begins
(R63); an action point that leaves the channel as it is does not disturb it (R64). -/
def State.transAtAction (s : State) (c : Chan) (t : Turn) : State :=
  let s1 := match s.tests.chan[c].trans with
    | some r => if t.isOn != t.wasOn || t.recmd then
        (if 3 ≤ r.judged then s.transDone c s.voteMask none else s.modSched c fun x => { x with trans := none }) else s
    | none => s
  if t.wasOn && !t.isOn && t.flashes then s1.modSched c fun x => { x with trans := some { t0 := s.now } } else s1
/-- The running totals of the lamp and its switch in every lane in the vote (R491, R493, R495): a switch-on, and the end of a lit
interval. -/
def State.wearAtAction (s : State) (c : Chan) (t : Turn) : State :=
  s.each s.activeLanes fun s l => s.modLamp l c fun r =>
    if t.isOn && !t.wasOn then r.turnOn s.now else if !t.isOn && !t.flashes then r.endLit s.now else r
/-- What the lanes do together for one channel; its probe source is disabled where it becomes on or its command a flash (R176,
R179). -/
def State.chanAtAction (s : State) (c : Chan) (t : Turn) : State :=
  let p := s.params
  let s1 := ((s.testAtAction c t).transAtAction c t).modSched c fun x => x.atAction p c t s.now
  let s2 := if t.isOn && p.isAc c.group && (t.cmdNow == 4 || t.cmdNow == 5) && !s1.tests.chan[c].dimSaid then
      (s1.modSched c fun x => { x with dimSaid := true }).note EventCode.dimUnsupported [c.val] else s1
  let s3 := if t.isOn = t.wasOn && !(t.recmd && !t.isOn) then s2 else s2.wearAtAction c t
  if (t.isOn || isFlash t.cmdNow) && has s3.fe[c.group].probeEn c.pos then
    s3.feWrite c.group (.probe (s3.fe[c.group].probeEn &&& ~~~(only c.pos))) else s3
/-- Two on-phases in a row that ended in LIT_WARMING decide NOT_PROVEN (R152). -/
def State.flashNotProven (s : State) (l : LaneId) : State :=
  s.each (allChans.filter fun c => decide (2 ≤ s.lanes[l].prov[c].warmEnds) && !s.lanes[l].prov[c].failDark) fun s c =>
    (s.modProv l c fun a => { a with warmEnds := 0 }).failDark l c .notProven

/-! ## Points and contactors (R413, R455, R460, R496) -/

/-- A field majority test is abandoned when its point becomes on (R69, R461). -/
def State.fieldMajAtAction (s : State) (on : PointMask) : State :=
  match s.tests.fieldMaj with
  | some t => if has on t.p then s.fieldMajStop t else s
  | none => s
/-- A field off-test in progress whose point the action point turns off (R460); a waiting pulse starts (R459). -/
def State.fieldAtAction (s0 : State) (on : PointMask) : State :=
  let s := s0.fieldMajAtAction on
  match s.tests.field with
  | none => s
  | some t =>
    if t.waits then s.pulsePair t on
    else if has on t.p then s
    else if s.fieldDecided t then s.fieldJudge t
    else
      let s1 := s.ptOverlay (t.p :: t.partner.toList) false
      { s1 with tests := { s1.tests with field := none } }
/-- What the lanes do together for one point: its fault ends with the command, its schedule follows its state. -/
def State.pointAtAction (s : State) (p : Point) (was on voted cleared : Bool) : State :=
  let s1 := if cleared then s.withdrawFault FaultCode.outputFault [p.val] else s
  if !s.params.isOut p then s1 else
  s1.modPtSched p fun x =>
    let y := x.turn voted s.now
    { y with nextOff := if on then y.nextOff else none
             nextMaj := if on then none else if was then some (s.now + s.params.ptPeriod p * Config.sec) else y.nextMaj }
/-- The edge of a contactor's output starts its judgement, and the injected sequence (R101, R413). -/
def State.contactorEdge (s : State) (g : GroupId) (a was on : Bool) : State :=
  if was = on then s else
  let s1 := s.each s.activeLanes fun s l => s.modCont l (contIdx g a) fun r => { r with relAt := if on then none else some s.now }
  (s1.modGroup g fun G => if a then { G with edgeA := some (s.now, on) } else { G with edgeB := some (s.now, on) }).modFe g
    fun f => { f with aux := f.aux.trigger 1 s.now f.refs }
/-- The edges of both contactors of a group between two drive images. -/
def State.contactorEdges (s : State) (g : GroupId) (was on : PointMask) : State :=
  if !s.params.contactors g then s else
  let at_ (m : PointMask) (a : Bool) : Bool := (pointAt (s.params.outOf g a)).any fun p => has m p
  (s.contactorEdge g true (at_ was true) (at_ on true)).contactorEdge g false (at_ was false) (at_ on false)

/-- Where stage 2 takes effect the injected sequence runs (R405, R407); an edge of a contactor output at this action point has
started it already (R101). -/
def State.revertAux (s : State) (g : GroupId) (was now : Revert) : State :=
  let edge (e : Option (Nat × Bool)) : Bool := e.any fun x => x.1 == s.now
  if was.stage2At.isNone && now.stage2At.isSome && !(s.params.contactors g && (edge s.groups[g].edgeA || edge s.groups[g].edgeB)) then
    s.modFe g fun f => { f with aux := f.aux.trigger 3 s.now f.refs } else s

/-! ## Levels (R134, R478, R484) -/

/-- V_T of a channel in mV (R194). -/
def ParamImage.watchLimit (p : ParamImage) (c : Chan) : Nat := roundSqrt ((1000 * p.foreignV c) ^ 2) 2
/-- The feed supervision of a group at a new level (R479): at P2 and P3 no condition runs; back from them an unlocked tracker counts
its 1 s anew (R85). -/
def FeedState.atLevel (f : FeedState) (was now_ : Bool) (now : Nat) : FeedState :=
  if !now_ then { f with belowSince := none, aboveSince := none, wrongSince := none }
  else if was || f.lock then f else { f with unlockedSince := now }
/-- A group's level changes: below P0 nothing is calibrated; at P1 the sources stop unless the code period is a probed one; at P2
and P3 modulators, converter, reference and sources stop, and the runs of R198 end (R479); a group that comes to P0 or P1 has its
reference on (R478), and one that rises to P0 is watched until it has samples (R482). -/
def State.enterLevel (s : State) (g : GroupId) (k : Fin 4) : State :=
  let s1 := (s.modGroup g fun G => { G with level := k, pendLevel := none, feed := G.feed.atLevel (G.level.val < 2) (k.val < 2) s.now }).modLanes
    fun _ L => if 2 ≤ k.val then { L with prob := Vector.ofFn fun (c : Chan) => if c.group = g then { L.prob[c] with resRun := 0, capRun := 0 } else L.prob[c] }
               else { L with grp := L.grp.set g { L.grp[g] with vwOn := k.val = 0 } }
  if k = 0 then ((s1.feWrite g (.refEn true)).feWrite g (.modulators true)).resumeLoans g
  else
    let s2 := (s1.stopRuns g).each (List.finRange 8) fun s i => s.feWrite g (.vwLimit i (s.params.watchLimit (chanOf g i)))
    if k = 1 then
      let s3 := (s2.feWrite g (.refEn true)).feWrite g (.modulators true)
      if s.cpn % 4 = 0 then s3 else s3.feWrite g (.probe 0)
    else ((s2.feWrite g (.modulators false)).feWrite g (.auxCtrl poindStop)).feWrite g (.probe 0)
/-- A channel of a group is on in the drive images that take effect now. -/
def State.groupLit (s : State) (g : GroupId) : Bool :=
  s.activeLanes.any fun l => (groupChans g).any fun c => has s.lanes[l].drive.next.on c
/-- The level that waits takes effect; lowering from P0 waits until the loans are home. A group is at P0 whatever was voted where
one of its channels is on in the images that take effect now, as by a revert after the vote (R168), and in every other mode
than SERVICE and DORMANT (R483). -/
def State.levelAtAction (s : State) (g : GroupId) : State :=
  if s.groupLit g || !s.mode.mode.supervised then
    (if s.groups[g].level = 0 then s.modGroup g fun G => { G with pendLevel := none } else s.enterLevel g 0)
  else
  match s.groups[g].pendLevel with
  | none => s
  | some k =>
    if k = s.groups[g].level then s.modGroup g fun G => { G with pendLevel := none }
    else if s.groups[g].level = 0 ∧ !s.groups[g].under.allHome then s
    else s.enterLevel g k

/-! ## Modes and activities -/

/-- The mode agreed at the vote takes effect, SERVICE as DEGRADED where a lane was lost since, and the request for it is
answered (R372, R346). -/
def State.modeAtAction (s : State) : State :=
  match s.mode.next with
  | none => s
  | some m =>
    let s0 : State := { s with mode := { s.mode with next := none, answer := none } }
    let s1 := s0.enterMode (if m.target = .service then s.serviceMode else m.target) m.cause
    match s.mode.answer with
    | some r => s1.answer r.num (okReply [])
    | none => s1
/-- Poind's sequences run again in every group at P0 or P1 once COMMISSION is left (R98). -/
def State.auxAtAction (s : State) (was : Mode) : State :=
  if was = .commission ∧ s.mode.mode ≠ .commission ∧ s.mode.mode.runs then
    s.each (allGroups.filter fun g => decide (s.groups[g].level.val ≤ 1)) fun s g => s.modFe g fun f => { f with aux := poindAux f.aux s.now f.refs }
  else s
/-- A timed test of COMMISSION starts, or ends, at an action point, the first that its overlay reaches; a lamp test keeps the statuses that stood before
(R360, R364). -/
def TimedTest.atAction (t : TimedTest) (now : Nat) (before : Bytes) : TimedTest :=
  match t.endAt with
  | none => if t.skip then { t with skip := false } else { t with endAt := some (now + t.duration) }
  | some e => if e ≤ now ∧ t.snap.isNone then { t with snap := some before } else t
def State.testsAtAction (s : State) (before : Bytes) : State :=
  if s.mode.mode ≠ .commission then s else
  { s with act := { s.act with lamp := s.act.lamp.map fun t => t.atAction s.now before, field := s.act.field.map fun t => t.atAction s.now [] } }
/-- A taught channel that closes: step 2 of R161 begins; one that opens: step 6 has begun. -/
def State.teachAtAction (s0 : State) (on was : ChanMask) : State :=
  match s0.act.teach with
  | none => s0
  | some t =>
    let closes (g : GroupId) : Bool := (t.current g).any fun c => has on c && !has was c
    let opens (g : GroupId) : Bool := (t.current g).any fun c => has was c && !has on c
    let s := s0.modLanes fun _ L => { L with teach := Vector.ofFn fun g => if opens g then { L.teach[g] with offAt := some s0.now } else L.teach[g] }
    ({ s with act := { s.act with teach := some { t with onAt := Vector.ofFn fun g => if closes g then some s.now else t.onAt[g] } } } : State).teachEnds
/-- The next action point triggers a TRIG 1 capture (R362). -/
def State.captureAtAction (s : State) : State :=
  { s with act := { s.act with capture := s.act.capture.map fun r => if r.trig = 1 ∧ r.trigAt.isNone then { r with trigAt := some s.now } else r } }
/-- Every lane counts the stream words of each front-end since the last action point (R80). -/
def State.wordsAtAction (s : State) (was : Nat) : State :=
  s.modLanes fun _ L => if L.st == .active then { L with grp := L.grp.map fun B => B.atAction s.now was } else L
/-- A wipe of station data is complete, and its request answered (R389). -/
def State.wipeAtAction (s : State) : State :=
  match s.mode.wipeNum with
  | some n => ({ s.wipeStation with mode := { s.mode with wipeNum := none } } : State).answer n (okReply [])
  | none => s
/-- The time in DEGRADED, and under DRIVE_LINK, grows by the cycle that has passed (R398). -/
def State.limitsAtAction (s : State) (span : Nat) : State :=
  { s with mode := { s.mode with
      degradedTime := if s.mode.mode = .degraded then s.mode.degradedTime + span else s.mode.degradedTime
      driveLinkTime := if s.anyStands FaultCode.driveLink then s.mode.driveLinkTime + span else s.mode.driveLinkTime } }

/-! ## Validity of a lane's decisions (R169, R432) -/

/-- A channel's own decision window has filled, or its warm-up has begun. -/
def State.windowFull (s : State) (l : LaneId) (c : Chan) : Bool :=
  let p := s.lampParams
  let a := s.lanes[l].prov[c]
  if s.isOn l c then a.warming || decide (p.filtDark c + p.filtTol c ≤ a.litWin.length)
  else decide (p.filtFlit c + p.filtTol c ≤ a.darkWin.length)
/-- The groups a lane decides from now on: in-place calibration complete and every window full. -/
def State.decideGroups (s : State) : State :=
  s.modLanes fun l L => if L.st == .active then
    { L with decided := L.decided ||| maskOf fun g => s.groups[g].under.initial && (groupChans g).all fun c => !s.lampParams.configured c || s.windowFull l c } else L

/-! ## The action point -/

/-- The drive images take effect in every lane in the vote that has derived one. -/
def State.applyImages (s : State) (cmds : Vector (Vector (BitVec 4) 96) 3) : State :=
  let clr : BitVec 4 := maskOf fun (b : BankId) => s.banks[b].clrNext
  let off (l : LaneId) : ChanMask := maskOf fun (c : Chan) => !inOnPhase (s.lampParams.dimDuty c (cmds[l])[c]) s.laneTime
  let absent : GroupMask := maskOf fun (g : GroupId) => s.groups[g].feed.absent
  let s1 := s.modLanes fun l L => if L.st == .active && !L.noImage then (L.apply s.params s.lampParams cmds[l] clr s.now (off l)).stages s.params L.drive.img.on absent s.now else L
  s1.modBanks fun b => { b with clrNext := false }
/-- What follows from the images in force, as the first lane with an image saw them before and after. -/
def State.afterImages (s : State) (old : LaneState) (l : LaneId) (cmds : Vector (BitVec 4) 96) : State :=
  let L := s.lanes[l]
  let ptsOff := old.inForce.pts &&& ~~~old.voted.pts
  let s1 := s.each allChans fun s c => s.chanAtAction c (old.turnOf s.params cmds c)
  let s2 := s1.fieldAtAction L.drive.img.pts
  let s3 := s2.each allPoints fun s p =>
    s.pointAtAction p (has old.drive.img.pts p) (has L.drive.img.pts p) (has L.inForce.pts p) (has ptsOff p && has old.latches.outFault p)
  let s4 := s3.each allGroups fun s g => (s.contactorEdges g old.drive.img.pts L.drive.img.pts).revertAux g old.rev[g] L.rev[g]
  s4.teachAtAction L.drive.img.on old.drive.img.on
/-- An action point. -/
def State.actionPoint (s : State) : State :=
  let cmds : Vector (Vector (BitVec 4) 96) 3 := Vector.ofFn fun l => Vector.ofFn fun c => s.cmdNext l c
  let before := s.votedLamps
  let was := s.mode.mode
  let s1 := (s.limitsAtAction (s.now - s.bus.apAt)).compareHubs
  let s2 := ((s1.startCycle).wordsAtAction s.bus.apAt).captureAtAction.modeAtAction
  let s3 := { s2 with mode := { s2.mode with voted := false, frozen := false } }
  let s4 := (s3.each allGroups fun s g => s.levelAtAction g).applyImages cmds
  let s5 := match s3.activeLanes.find? fun l => !s3.lanes[l].noImage with
    | some l => s4.afterImages s3.lanes[l] l cmds[l]
    | none => s4
  let s6 := (s5.each s5.activeLanes fun s l => s.flashNotProven l)
  (((s6.auxAtAction was).testsAtAction before).wipeAtAction.copActionPoint).decideGroups.noteAll

/-- ACTION_POINT (R252). -/
def execActionPoint (s : State) : Host.Outcome State Fault Refusal := .next (if s.apDue then s.actionPoint else s)

/-! ## The sub-image freeze (R29, R170, R171, R430) -/

/-- The slot the module sends in: its own, or the spare it claimed (R240). -/
def State.ownSlot (s : State) : Option Nat := s.slotInUse
/-- Start of a slot in ticks after the action point. -/
def State.slotTicks (s : State) (j : Nat) : Nat := 2 * s.params.slotStart s.bus.sset j
/-- Octets 0 to 91 of a lane's sub-image. -/
def State.subOctets (s : State) (l : LaneId) : Bytes :=
  let L := s.lanes[l]
  if L.st = .resting then
    List.replicate 72 0xFF ++ List.replicate 12 0 ++ toLe 1 s.coppice.modeAt.code ++ toLe 1 2 ++ toLe 2 s.coppice.faultSeqAt.toNat ++ toLe 4 0
  else
    s.lampOctets l ++ nibbles (allPoints.map (s.pointCode l)) ++ (allGroups.map fun g => BitVec.ofNat 8 (s.groupOctet l g)) ++ toLe 1 s.mode.mode.code ++
    toLe 1 1 ++ toLe 2 L.faultSeq.toNat ++ toLe 4 0
/-- The extended cycle number of the cycle whose slot carries the sub-images (R278). -/
def State.slotEcn (s : State) : DWord :=
  if s.earlySlot then ecnOf (s.bus.apCycle + 1) (s.bus.apGt + BitVec.ofNat 64 s.tCyc) else s.ecn
/-- A lane's coded sub-image. -/
def State.subImage (s : State) (l : LaneId) : Bytes :=
  let p := s.subOctets l
  p ++ scode (implicit 3 s.bus.nodeId 0xFE l.val s.slotEcn) p
/-- Each lane in the vote, or resting, writes its sub-image to both hubs; a lane that does neither leaves its place unfilled. -/
def State.freezeImages (s : State) : State :=
  let img (l : LaneId) : Option Bytes := if s.active l || s.lanes[l].st == .resting then some (s.subImage l) else none
  let s1 := s.modLanes fun l L => { L with subImage := img l }
  s1.modHubs fun _ H => if H.inReset then H else { H with bus := { H.bus with sub := Vector.ofFn img } }
/-- The freeze has come: 12 µs before the module's slot, that of the next cycle where the slot starts less than 12 µs after
its action point. -/
def State.freezeDue (s : State) : Bool :=
  s.mode.mode.runs && !s.mode.frozen &&
  s.ownSlot.any fun j => decide (s.bus.apGt.toNat + s.slotTicks j + (if s.earlySlot then s.tCyc else 0) ≤ s.laneTime + 2400)
/-- SUB_IMAGE_FREEZE (R29): the sub-images, and the answers that wait for a freeze (R338). -/
def execSubImageFreeze (s : State) : Host.Outcome State Fault Refusal :=
  .next (if s.freezeDue then
    let s1 := s.decideGroups.noteAll
    let s2 := s1.freezeImages.answerFrozen.freezeLimits
    { s2 with mode := { s2.mode with frozen := true } }
  else s)

end Sys2Proof.Machine
end

