-- ==== Sys2Proof/Machine/Bus.lean ====
section
/-!
DEFINITION. The cycle bus: the frame (R212 to R221), reception (R226 to R228), links (R208), integration (R229, R230), cold
start (R231 to R234), schedule changes (R235 to R239), spare slots (R240, R241), clock correction (R256 to R260, R264) and
the module's own slot (R215, R222).
-/

namespace Sys2Proof.Machine

/-! ## The frame (R212, R213, R217, R235) -/

namespace Frame
def ver (o : Bytes) : Nat := leAt o 0 1 / 16
def sset (o : Bytes) : Nat := leAt o 0 1 % 8
def cycle (o : Bytes) : Word := BitVec.ofNat 16 (leAt o 1 2)
def sender (o : Bytes) : Nat := leAt o 3 1 % 64
def type (o : Bytes) : Nat := leAt o 4 1 % 8
def nnd (o : Bytes) : Bool := (octet o 5).getLsbD 0
def claim (o : Bytes) : Bool := (octet o 5).getLsbD 2
def plen (o : Bytes) : Nat := leAt o 6 2
def mseg (o : Bytes) : Nat := leAt o 8 1
def mdst (o : Bytes) : Nat := leAt o 9 1 % 64
def mseq (o : Bytes) : Byte := octet o 10
def first (o : Bytes) : Bool := (octet o 11).getLsbD 0
def last (o : Bytes) : Bool := (octet o 11).getLsbD 1
def mring (o : Bytes) : Nat := leAt o 12 1 % 16
def payload (o : Bytes) : Bytes := slice o 16 (plen o)
/-- Octets before the cyclic part: the schedule-change block of a TYPE 3 frame. -/
def lead (o : Bytes) : Nat := if type o = 3 then 8 else 0
/-- The cyclic part (R216). -/
def cyclic (o : Bytes) : Bytes := slice o (16 + lead o) (plen o - mseg o - lead o)
/-- The mailbox segment. -/
def segment (o : Bytes) : Bytes := slice o (16 + plen o - mseg o) (mseg o)
/-- The frame check sequence checks (R211). -/
def fcsOk (o : Bytes) : Bool := slice o (16 + plen o) 4 == toLe 4 (crc32 (o.take (16 + plen o))).toNat
/-- A cold-start frame: a null frame is none, whatever TYPE says (R213). -/
def isCold (o : Bytes) : Bool := type o == 1 && plen o != 0
/-- Check 3 of R226. -/
def headerOk (o : Bytes) : Bool :=
  ver o == 1 && !(octet o 0).getLsbD 3 && decide (leAt o 3 1 < 64) && decide (leAt o 4 1 < 4) && decide (leAt o 5 1 < 8) && decide (leAt o 9 1 < 64) &&
  decide (leAt o 11 1 < 4) && decide (leAt o 12 1 < 16) && allZero o 13 3 && decide (plen o ≤ 496) && decide (mseg o ≤ min (plen o) 128) &&
  (mseg o != 0 || allZero o 9 4)
end Frame

/-- A master's records: type, destination and octets of each; none where the list carries anything reserved or does not end
exactly (R217). -/
def parseRecords : Nat → Bytes → Option (List (Nat × Nat × Bytes))
  | 0, bs => if bs.isEmpty then some [] else none
  | n + 1, bs =>
    if bs.isEmpty then some [] else
    let t := leAt bs 0 1
    let d := leAt bs 1 1
    let len := if t = 1 then 112 else if t = 2 then 6 else 10
    if t = 0 ∨ 3 < t ∨ bs.length < len ∨ bs.length < 2 ∨ (if t = 3 then d ≠ 0xFF else 64 ≤ d) then none
    else (parseRecords n (bs.drop len)).map fun rs => (t, d, bs.take len) :: rs
/-- The records of a frame's cyclic part. -/
def Frame.records (o : Bytes) : Option (List (Nat × Nat × Bytes)) := parseRecords 84 (Frame.cyclic o)
/-- The schedule-change block keeps its table (R235). -/
def blockOk (b : Bytes) : Bool :=
  within (leAt b 0 1) 1 3 && decide (leAt b 1 1 < 8) && decide (leAt b 2 1 < 64) &&
  (if leAt b 0 1 = 3 then within (leAt b 4 1) 1 6 else leAt b 4 1 == 0) && allZero b 5 3
/-- A node is a master. -/
def ParamImage.isMaster (p : ParamImage) (n : Nat) : Bool := allMasters.any fun m => p.masterNode m == n
/-- The cyclic part has the length and content of the sender's role (R217, R218, R220, R221). -/
def ParamImage.cyclicOk (p : ParamImage) (n : Nat) (o : Bytes) : Bool :=
  if p.isMaster n then (match Frame.records o with
    | some ((t, _) :: _) => t == 3
    | _ => false)
  else if p.maintNode = n then (Frame.cyclic o).isEmpty
  else (Frame.cyclic o).length == 0 || (Frame.cyclic o).length == 304
/-- Check 8 of R226. -/
def ParamImage.payloadOk (p : ParamImage) (o : Bytes) : Bool :=
  if Frame.plen o = 0 then true
  else if Frame.nnd o || Frame.type o = 0 then false
  else if Frame.type o = 1 then Frame.plen o == 16 && Frame.mseg o == 0 && allZero o 25 7
  else if Frame.type o = 3 ∧ (Frame.plen o < 8 + Frame.mseg o ∨ !blockOk (Frame.payload o)) then false
  else p.cyclicOk (Frame.sender o) o
/-- The global times that a frame carries (R264, R229): cold-start GT, TIME records, a module's trailer GT. -/
def ParamImage.timesIn (p : ParamImage) (o : Bytes) : List (BitVec 64) :=
  let t (b : Bytes) (off : Nat) : BitVec 64 := BitVec.ofNat 64 (leAt b off 8)
  if Frame.plen o = 0 then []
  else if Frame.type o = 1 then [t o 16]
  else if p.isMaster (Frame.sender o) then ((Frame.records o).getD []).filterMap fun r => if r.1 = 3 then some (t r.2.2 2) else none
  else if (Frame.cyclic o).length = 304 then [t (Frame.cyclic o) 296] else []

/-! ## Counters and links -/

/-- An update of a hub's bus part, or of its time unit. -/
def State.modBus (s : State) (h : HubId) (f : HubBus → HubBus) : State := s.modHub h fun H => { H with bus := f H.bus }
def State.modTime (s : State) (h : HubId) (f : HubTime → HubTime) : State := s.modHub h fun H => { H with time := f H.time }
/-- The counter of the check that failed first; 0 counts a valid copy (R226, R249). -/
def BusCounters.judged (c : BusCounters) (k : Nat) : BusCounters :=
  match k with
  | 0 => { c with valid := c.valid + 1 }
  | 1 => { c with code := c.code + 1 }
  | 2 => { c with fcs := c.fcs + 1 }
  | 3 => { c with header := c.header + 1 }
  | 4 => { c with timing := c.timing + 1 }
  | 5 => { c with sender := c.sender + 1 }
  | 6 => { c with sset := c.sset + 1 }
  | 7 => { c with cycle := c.cycle + 1 }
  | _ => { c with payload := c.payload + 1 }
def State.countRx (s : State) (h : HubId) (k : Nat) : State := s.modBus h fun b => { b with cnt := b.cnt.judged k }
/-- LINK_UP, LINK_DOWN (R208). -/
def execLinkUp (h : HubId) (s : State) : Host.Outcome State Fault Refusal := .next (s.modBus h fun b => { b with link := true })
def execLinkDown (h : HubId) (s : State) : Host.Outcome State Fault Refusal := .next (s.modBus h fun b => { b with link := false })
/-- CHANNEL_DOWN (R228): CHDOWN cycles in a row without a valid frame. -/
def execChannelDown (h : HubId) (s : State) : Host.Outcome State Fault Refusal :=
  let b := s.hubs[h].bus
  .next (if s.mode.mode.runs && !s.hubs[h].inReset && !b.chDown && decide (s.params.chDown ≤ b.silent) then
    (s.modBus h fun b => { b with chDown := true, heardRun := 0 }).fault FaultCode.channelDown [h.val] s.voteMask
  else s)

/-! ## Reception (R226, R227, R256) -/

/-- What a frame takes on the line in ns, from its first code-group to its last (R210). -/
def rxLine (f : RxFrame) : Nat := 8 * (f.octets.length + 12)
/-- The arrival of a frame's first code-group by a hub's own count, in ns (R256). -/
def HubTime.arrival (t : HubTime) (f : RxFrame) : Int :=
  ((t.gt.toNat : Int) * 20000000 + t.phase - (rxLine f + f.late) * (20000000 + t.rate) / 5) / 4000000
/-- The slot of a set in which a frame arrives, t ns after the hub's start of the cycle: that of the nearest expected arrival; and its
deviation d (R256). -/
def ParamImage.slotAt (p : ParamImage) (k : Nat) (h : HubId) (t : Int) : Nat × Int :=
  let n := (List.range (p.nSlots k)).foldl (fun (a : Int × Nat × Int) j =>
    let d := t - (a.1 + 250 + p.delay k j h)
    (a.1 + 10 * p.slotLen k j, if j = 0 ∨ d.natAbs < a.2.2.natAbs then (j, d) else a.2)) (0, 0, t)
  n.2
/-- The slot and the deviation of a frame at a hub with cycle timing (R256). -/
def State.placeOf (s : State) (h : HubId) (f : RxFrame) : Nat × Int :=
  let H := s.hubs[h]
  s.params.slotAt H.bus.sset h (H.time.arrival f - 5 * H.time.apGt.toNat)
/-- Checks 1 to 3. -/
def rxEarly (f : RxFrame) : Nat :=
  if !(f.codeOk && f.octets.length == 20 + Frame.plen f.octets) then 1
  else if !Frame.fcsOk f.octets then 2
  else if !Frame.headerOk f.octets then 3 else 0
/-- Check 4: the frame start lies in the acceptance window (R257). -/
def rxInWindow (d : Int) : Bool := decide (d.natAbs ≤ 100)
/-- Check 5: the sender owns the slot, or claims a spare one (R226). -/
def ParamImage.senderOk (p : ParamImage) (k j n : Nat) (claim : Bool) : Bool :=
  decide (j < p.nSlots k) && (p.owner k j == n || (p.isSpare k j && claim && (p.slotOf k n).isNone))
/-- The first of checks 4 to 7 that fails at a hub; 0 when all pass. -/
def State.judgeFrame (s : State) (h : HubId) (f : RxFrame) : Nat :=
  let p := s.params
  let b := s.hubs[h].bus
  let o := f.octets
  let x := s.placeOf h f
  if !rxInWindow x.2 then 4
  else if !p.senderOk b.sset x.1 (Frame.sender o) (Frame.claim o) then 5
  else if Frame.sset o ≠ b.sset then 6
  else if Frame.cycle o ≠ b.cycle then 7 else 0
/-- Checks 5 to 7, whatever check 4 says. -/
def State.judgeLate (s : State) (h : HubId) (f : RxFrame) : Bool :=
  let p := s.params
  let b := s.hubs[h].bus
  let o := f.octets
  p.senderOk b.sset (s.placeOf h f).1 (Frame.sender o) (Frame.claim o) && Frame.sset o == b.sset && Frame.cycle o == b.cycle
/-- A sync slot's deviation is measured, over ±2 µs (R256). -/
def State.measureDev (s : State) (h : HubId) (f : RxFrame) : State :=
  let b := s.hubs[h].bus
  let x := s.placeOf h f
  if s.params.isSync b.sset x.1 && s.judgeLate h f && !(s.hubs[h].time.devs.any fun d => d.slot == x.1) then
    s.modTime h fun t => { t with devs := t.devs ++ [{ slot := x.1, node := Frame.sender f.octets, dev := max (-2000) (min 2000 x.2) }] }
  else s
/-- The sender is a sync node of the hub's set. -/
def State.fromSync (s : State) (h : HubId) (n : Nat) : Bool :=
  let k := s.hubs[h].bus.sset
  (s.params.slotOf k n).any (s.params.isSync k)
/-- A frame valid for liveness, integration and clock synchronisation (R226, R227). -/
def State.noteValid (s : State) (h : HubId) (f : RxFrame) (slot : Nat) : State :=
  let o := f.octets
  let n := Frame.sender o
  let sync := s.fromSync h n
  let s1 := s.modBus h fun b => { b with
    validThis := true
    syncNodes := if sync && !b.syncNodes.contains n then b.syncNodes ++ [n] else b.syncNodes
    syncUsable := b.syncUsable || s.params.isSync b.sset slot
    csHeard := b.csHeard || Frame.isCold o
    cnt := if Frame.plen o = 0 ∧ !Frame.nnd o then { b.cnt with nnd := b.cnt.nnd + 1 } else b.cnt }
  { s1 with bus := { s1.bus with
      lastValid := s1.now
      heardNow := if s1.bus.heardNow.contains (n, slot) then s1.bus.heardNow else s1.bus.heardNow ++ [(n, slot)] } }

/-! ## What a payload brings -/

/-- Carried times more than 2Π off the hub's own start of the cycle are counted (R264). -/
def State.noteTimes (s : State) (h : HubId) (o : Bytes) : State :=
  s.modTime h fun t =>
    let off := (s.params.timesIn o).filter fun x => decide (40 < ((x.toNat : Int) - t.apGt.toNat).natAbs)
    { t with gtMismatch := t.gtMismatch + BitVec.ofNat 32 off.length }
/-- A frame in a slot is complete more than 1.0 µs after the slot's end, before this cycle's vote (R26,
notes/assumptions/64.md). -/
def State.pastSlot (s : State) (h : HubId) (slot : Nat) : Bool :=
  let H := s.hubs[h]
  !s.mode.voted && decide (H.time.apGt.toNat + 2 * (s.params.slotStart H.bus.sset slot + s.params.slotLen H.bus.sset slot) + 200 < H.time.gt.toNat)
/-- The first IMAGE and the first HOLD record for this node are kept with the frame's CYCLE; others for it are counted
(R219). Those of a late frame become the latest image when the vote has passed (R26). -/
def State.storeRecords (s : State) (h : HubId) (m : MasterId) (slot : Nat) (o : Bytes) : State :=
  let mine (t : Nat) : List Bytes := ((Frame.records o).getD []).filterMap fun r => if r.1 = t ∧ r.2.1 = s.bus.nodeId then some r.2.2 else none
  let c := Frame.cycle o
  let dup := ((mine 1).length - 1) + ((mine 2).length - 1)
  s.modBus h fun b =>
    let st := (b.late[m]).getD b.store[m]
    let new : MasterStore := { image := ((mine 1).head?.map fun r => (r, c)).or st.image, hold := ((mine 2).head?.map fun r => (slice r 2 4, c)).or st.hold }
    { b with
      store := if s.pastSlot h slot then b.store else b.store.set m new
      late := b.late.set m (if s.pastSlot h slot then some new else none)
      cnt := { b.cnt with recordDup := b.cnt.recordDup + BitVec.ofNat 32 dup } }
/-- A mailbox segment of a valid frame: taken from a source that may send it to its ring, else discarded and counted (R243). The
streams run on while the engine moves (R324). -/
def State.rxSegment (s : State) (h : HubId) (o : Bytes) : State :=
  if Frame.mseg o = 0 then s else
  let src := if Frame.mdst o = s.bus.nodeId ∧ s.mail.opened then s.params.sourceOf (Frame.sender o) else none
  match src with
  | none => s.segDrop h 1
  | some x =>
    match s.segRing x (Frame.mring o) with
    | none => s.segDrop h 1
    | some q => s.takeSegment h (Frame.cycle o)
        { src := x, ring := q, mseq := Frame.mseq o, first := Frame.first o, last := Frame.last o, octets := Frame.segment o }

/-! ## Schedule changes (R235 to R239) -/

/-- REASON of a rejection; 0 accepts (R237). -/
def State.changeReason (s : State) (target requester : Nat) : Nat :=
  let p := s.params
  if !p.loaded target then 1
  else if !setValid p s.bus.nodeId target then 2
  else if (p.slotOf target s.bus.nodeId).isNone && !(s.bus.claimed.any (p.isSpare target)) then 3
  else if s.bus.change.isSome then 4
  else if !p.mayChange requester then 5
  else if target = s.bus.sset then 6 else 0
/-- The nodes that were active in the last cycle, each with its slot, this one among them if it sent (R236). -/
def State.activeNodes (s : State) : List (Nat × Nat) :=
  s.bus.heardPrev ++ (if s.bus.sentPrev then s.slotInUse.toList.map fun j => (s.bus.nodeId, j) else [])
/-- A REQUEST: this node owes its answer if it was active, and the request is pending unless another is. -/
def State.changeRequest (s : State) (slot : Nat) (cycle : Word) (b : Bytes) : State :=
  let target := leAt b 1 1
  let who := leAt b 2 1
  let rc := octet b 3
  let known := s.bus.change.any (fun c => c.requester == who && c.rcyc == rc) || s.bus.answers.any fun a => leAt a 2 1 == who && octet a 3 == rc
  if known then s else
  let reason := s.changeReason target who
  let answer := toLe 1 (if reason = 0 then 2 else 3) ++ toLe 1 target ++ toLe 1 who ++ [rc] ++ toLe 1 reason ++ toLe 3 0
  let need := s.activeNodes.filter fun e => e.1 != who
  let late := (need.filter fun e => decide (e.2 ≤ slot)).map (·.2)
  let soon := (need.filter fun e => decide (slot < e.2)).map (·.2)
  let c : SchedChange := { target := target, requester := who, rcyc := rc, needed := need.map (·.1),
                           lastCycle := if late.isEmpty then cycle else cycle + 1
                           lastSlot := (if late.isEmpty then soon else late).foldl max (if late.isEmpty then slot else 0) }
  { s with bus := { s.bus with
      answers := if s.bus.sentPrev then s.bus.answers ++ [answer] else s.bus.answers
      change := if s.bus.change.isSome then s.bus.change else some c } }
/-- The pending change is cancelled by a node with a REASON (R238). -/
def State.cancelChange (s : State) (items : List Nat) : State :=
  ({ s with bus := { s.bus with change := none } } : State).note EventCode.schedReject items
/-- An answer of a node: an ACCEPT is noted, a REJECT cancels; one that belongs to no pending request is ignored. -/
def State.changeAnswer (s : State) (node : Nat) (b : Bytes) : State :=
  match s.bus.change with
  | none => s
  | some c =>
    if c.requester ≠ leAt b 2 1 ∨ c.rcyc ≠ octet b 3 then s
    else if leAt b 0 1 = 3 then s.cancelChange [node, leAt b 4 1]
    else { s with bus := { s.bus with change := some { c with answered := if c.answered.contains node then c.answered else c.answered ++ [node] } } }
/-- The schedule-change block of a received frame. -/
def State.rxBlock (s : State) (f : RxFrame) (slot : Nat) : State :=
  let o := f.octets
  if Frame.type o ≠ 3 ∨ Frame.plen o = 0 ∨ !s.integrated then s
  else if leAt o 16 1 = 1 then s.changeRequest slot (Frame.cycle o) (slice o 16 8)
  else s.changeAnswer (Frame.sender o) (slice o 16 8)
/-- The cycle and slot of the last answer have passed. -/
def State.answersOver (s : State) (c : SchedChange) : Bool :=
  laterCycle s.bus.apCycle c.lastCycle || (s.bus.apCycle == c.lastCycle && decide (s.bus.apAt + s.slotTicks (c.lastSlot + 1) ≤ s.now))
/-- The new set is in force from the present cycle on: slots are counted anew, a claim stands where its slot is SPARE there
(R238, R240). -/
def State.changeSet (s : State) (k : Nat) : State :=
  let old := s.bus.sset
  let s1 := s.modHubs fun _ H => if H.bus.acquired then { H with bus := { H.bus with sset := k } } else H
  ({ s1 with bus := { s1.bus with
      sset := k, change := none, claimed := s1.bus.claimed.filter (s1.params.isSpare k), emptyOnce := [], emptyTwice := [] } } : State).note
    EventCode.schedChanged [old, k]
/-- SCHED_CHANGED (R238). -/
def execSchedChanged (s : State) : Host.Outcome State Fault Refusal :=
  .next (match s.bus.change with
    | none => s
    | some c =>
      if !s.integrated then { s with bus := { s.bus with change := none, answers := [] } }
      else if !s.answersOver c then s
      else match c.needed.find? fun n => !c.answered.contains n with
        | some n => s.cancelChange [n]
        | none => if laterCycle s.bus.apCycle c.lastCycle then s.changeSet c.target else s)

/-! ## Acquisition (R229 step 1) -/

/-- A hub takes set, cycle and time from a frame of a sync node, and discards the images it holds (R384). Its time is set as at the
arrival of the frame's first code-group; RATE stays, and the runs of R259 begin afresh. -/
def State.acquire (s : State) (h : HubId) (f : RxFrame) (slot : Nat) (gt : BitVec 64) : State :=
  let o := f.octets
  let k := Frame.sset o
  let d := s.params.delay k slot h + rxLine f + f.late
  let s1 := s.modHub h fun H => { H with
    time := { H.time with
      gt := gt + BitVec.ofNat 64 (2 * s.params.slotStart k slot + 50 + d / 5), phase := d % 5 * 4000000, apGt := gt, slewLeft := 0, slewWait := 0
      c := none, overRun := 0, precGood := 0, rlimGood := 0, devs := [], corrected := false }
    bus := { H.bus with
      store := Vector.replicate 3 {}, late := Vector.replicate 3 none, acquired := true, sset := k, cycle := Frame.cycle o, repeats := 0
      syncNodes := [], timingFail := false, ssetFails := 0, begun := [] } }
  (({ s1 with bus := { s1.bus with everAcquired := true } } : State).countRx h 0).noteValid h f slot
/-- A frame that passed checks 1 to 3 at a hub without cycle timing. -/
def State.tryAcquire (s : State) (h : HubId) (f : RxFrame) : State :=
  let o := f.octets
  let k := Frame.sset o
  let p := s.params
  if s.hubs[h].bus.integ ≠ .acquire ∨ !setValid p s.bus.nodeId k ∨ !p.payloadOk o then s else
  match p.slotOf k (Frame.sender o), (p.timesIn o).head? with
  | some j, some gt => if p.isSync k j then s.acquire h f j gt else s
  | _, _ => s

/-! ## FRAME_RECEIVED -/

/-- A frame heard in the claimed slot while this node sends there loses the claim (R241). -/
def State.claimHeard (s : State) (slot : Nat) : State :=
  if s.claimInUse = some slot && s.bus.sent then
    let k := s.bus.sset
    let n := ((List.range (s.params.nSlots k)).filter (s.params.isSpare k)).length
    ({ s with bus := { s.bus with claimed := none, claimWait := some (s.bus.apCycle + 1 + BitVec.ofNat 16 (s.bus.nodeId % n)), emptyOnce := [], emptyTwice := [] } } : State).note
      EventCode.claimLost [slot]
  else s
/-- The payload of a valid frame is used if check 8 passes too. -/
def State.usePayload (s : State) (h : HubId) (f : RxFrame) (slot : Nat) : State :=
  let o := f.octets
  let s1 := s.noteTimes h o
  let s2 := match s.params.sourceOf (Frame.sender o) with
    | some (.master m) => if s.hubs[h].bus.integ = Integ.acquire ∨ Frame.plen o = 0 ∨ Frame.type o = 1 then s1 else s1.storeRecords h m slot o
    | _ => s1
  (s2.rxBlock f slot).rxSegment h o
/-- A frame at a hub with cycle timing: checks 4 to 8 (R226). -/
def State.receiveTimed (s : State) (h : HubId) (f : RxFrame) : State :=
  let o := f.octets
  let k := s.judgeFrame h f
  let slot := (s.placeOf h f).1
  let s1 := (s.measureDev h f).modBus h fun b => { b with
    timingFail := b.timingFail || (k == 4 && s.fromSync h (Frame.sender o))
    ssetFails := if Frame.sset o = b.sset then b.ssetFails else b.ssetFails + 1 }
  if k ≠ 0 then s1.countRx h k
  else
    let s2 := s1.noteValid h f slot
    if s.params.payloadOk o then (s2.countRx h 0).usePayload h f slot else s2.countRx h 8
/-- A frame as a hub hears it. -/
def State.rxFrame (s : State) (h : HubId) (f : RxFrame) : State :=
  let o := f.octets
  let timed := s.timed h
  let slot := (s.placeOf h f).1
  let s1 := if timed then (s.modBus h fun b => { b with begun := if b.begun.contains slot then b.begun else b.begun ++ [slot] }).claimHeard slot else s
  if rxEarly f ≠ 0 then s1.countRx h (rxEarly f)
  else
    let own := s.params.slotOf s.params.startSet s.bus.nodeId
    let s2 : State := if timed && s.bus.coldStart && Frame.isCold o && Frame.sender o != s.bus.nodeId && s.bus.sent && own == some slot then
      { s1 with bus := { s1.bus with csLost := true } } else s1
    if timed then s2.receiveTimed h f else s2.tryAcquire h f
/-- FRAME_RECEIVED (R226): while its link is down, or in Thaw and HALT, a hub receives nothing (R208, R376, R381). The command
stands at the frame's complete reception, `late` ns after its last code-group (notes/assumptions/64.md). -/
def execFrameReceived (h : HubId) (f : RxFrame) (s : State) : Host.Outcome State Fault Refusal :=
  .next (if s.mode.mode.runs && !s.hubs[h].inReset && s.hubs[h].bus.link then s.rxFrame h f else s)

/-! ## Clock correction (R258 to R260) -/

/-- A quotient rounded half away from zero. -/
def roundAway (a : Int) (n : Nat) : Int := a.sign * ((2 * a.natAbs + n) / (2 * n) : Nat)
/-- The offset correction from the usable deviations: none below three, the median of three, else the mean without the
first and the last. -/
def offsetOf (vals : List Int) : Option Int :=
  let ys := sortInts vals
  let n := ys.length
  if 4 ≤ n then some (roundAway (((ys.drop 1).take (n - 2)).sum) (n - 2))
  else if n = 3 then some (ys.getD 1 0) else none
/-- RATE after a correction, in 0.05 ppm, before its bound; the cycle in 10 ns. -/
def rateAfter (rate c cPrev : Int) (cyc : Nat) : Int := roundAway (rate * cyc - 500000 * (c + cPrev)) cyc
/-- A hub's unit after a correction c (R258, R259). -/
def HubTime.correct (t : HubTime) (nval : Nat) (c : Option Int) (cyc : Nat) : HubTime :=
  let raw : Int := match c, t.c with
    | some a, some b => rateAfter t.rate a b cyc
    | _, _ => t.rate
  let limited := decide (4000 ≤ raw.natAbs)
  let good := if limited then 0 else t.rlimGood + 1
  let fine := if 3 ≤ nval then t.precGood + 1 else 0
  { t with
    corrected := true, nval := nval, median := nval == 3, c := c
    slew := c.getD t.slew, slewLeft := if c.isSome then 4000 else t.slewLeft, slewWait := if c.isSome then 400 else t.slewWait
    rate := max (-4000) (min 4000 raw), rateLimit := limited || (t.rateLimit && decide (good < 16)), rlimGood := min good 16
    overRun := match c with
      | some a => if 50 < a.natAbs then t.overRun + 1 else 0
      | none => t.overRun
    precGood := min fine 2, precNg := t.precNg && decide (fine < 2) }
/-- A hub stops sending and integrates afresh. -/
def State.reintegrate (s : State) (h : HubId) : State :=
  s.modHub h fun H => { H with within := 0, time := { H.time with passive := true }, bus := { H.bus with integ := .acquire, acquired := false, tx := [] } }
/-- HUB_PASSIVE (R260). -/
def State.goPassive (s : State) (h : HubId) (cause : Nat) : State :=
  ((s.reintegrate h).modTime h fun t => { t with passiveCnt := t.passiveCnt + 1 }).note EventCode.hubPassive [h.val] (toLe 1 cause)
/-- The correction of one cycle (R258, R260). -/
def State.correctHub (s : State) (h : HubId) : State :=
  let H := s.hubs[h]
  let vals := (H.time.devs.filter fun d => decide (d.dev.natAbs ≤ 100)).map (·.dev)
  if 3 ≤ H.time.devs.length ∧ 2 * vals.length < H.time.devs.length then
    (s.modTime h fun t => { t with corrected := true, nval := vals.length, median := false, c := none }).goPassive h 2
  else
    let s1 := s.modTime h fun t => t.correct vals.length (offsetOf vals) (s.params.tCyc H.bus.sset)
    let t := s1.hubs[h].time
    let s2 := if t.rateLimit && !H.time.rateLimit then s1.note EventCode.rateLimit [h.val] else s1
    if (offsetOf vals).isSome && t.overRun == 3 then s2.goPassive h 1 else s2
/-- A hub that heard no valid frame in a cycle but frames of another set has decided a schedule change differently from the
others, and integrates afresh (R239). -/
def State.correctCycle (s : State) (h : HubId) : State :=
  let b := s.hubs[h].bus
  let s1 := s.correctHub h
  if !b.validThis && decide (0 < b.ssetFails) then
    let s2 := s1.reintegrate h
    { s2 with bus := { s2.bus with diverged := true } }
  else s1
/-- A hub's idle time has begun, and it has not corrected in this cycle. -/
def State.correctionDue (s : State) (h : HubId) : Bool :=
  let H := s.hubs[h]
  let k := H.bus.sset
  s.mode.mode.runs && !H.inReset && (H.bus.integ == .synchronise || H.bus.integ == .send) && !H.time.corrected &&
  decide (H.time.apGt.toNat + s.params.cycTicks k - 2 * s.params.nit k ≤ H.time.gt.toNat)
/-- CLOCK_CORRECTION (R258). -/
def execClockCorrection (h : HubId) (s : State) : Host.Outcome State Fault Refusal := .next (if s.correctionDue h then s.correctCycle h else s)

/-! ## Integration (R229, R230) -/

/-- The step that follows at the end of a cycle, with the failed repeats of SYNCHRONISE; ACQUIRE for a step that failed. -/
def HubState.nextStep (H : HubState) : Integ × Nat :=
  match H.bus.integ with
  | .acquire => (.observe, 0)
  | .observe => if (decide (2 ≤ H.bus.syncNodes.length) || H.bus.csHeard) && !H.bus.timingFail then (.synchronise, 0) else (.acquire, 0)
  | .synchronise =>
    let pass := H.time.corrected && (match H.time.c with
      | some c => decide (c.natAbs ≤ 50)
      | none => H.bus.syncUsable)
    if pass then (.send, 0) else if 3 ≤ H.bus.repeats then (.acquire, 0) else (.synchronise, H.bus.repeats + 1)
  | x => (x, 0)
/-- The last 17 cycles of a hub's own count, the newest begun a cycle before an instant (R283). -/
def HubState.cycles (H : HubState) (cyc now : Nat) : List CycleStart :=
  (List.range 17).map fun i => { cycle := H.bus.cycle - BitVec.ofNat 16 i, gt := H.time.apGt - BitVec.ofNat 64 (i * cyc), struck := now - (i + 1) * cyc }
/-- A hub enters SEND. The module integrates where none of its hubs was sending; beside one that was, the hub joins the
lanes' cycle if that has begun within the last half cycle, or with the action point that its strobe makes due; a hub that the lanes
do not act on starts its own. -/
def State.enterSend (s : State) (h : HubId) : State :=
  let was := s.integrated
  let H := s.hubs[h]
  let cyc := s.hubCyc h
  let s1 := s.modHub h fun H => { H with
    time := { H.time with passive := false }, bus := { H.bus with integ := .send, repeats := 0, lags := false } }
  if !was && s1.integrated then s1.integrate H.bus.sset (H.cycles cyc s.now)
  else if s1.hubUsable h && decide (s.bus.apAt + s.localIn (cyc / 2) ≤ s.now) then s1
  else (s1.hubNewCycle h).modHub h fun H => H.advance cyc
/-- The end of a cycle of an integrating hub. -/
def State.integrationEnd (s : State) (h : HubId) : State :=
  let s0 := s.countCycle h
  let x := s0.hubs[h].nextStep
  match x.1 with
  | .send => s0.enterSend h
  | .acquire => (s0.hubNewCycle h).modBus h fun b => { b with integ := .acquire, acquired := false }
  | i => ((s0.hubNewCycle h).modHub h fun H => H.advance (s.hubCyc h)).modBus h fun b => { b with integ := i, repeats := x.2 }
/-- The hub integrates, and its cycle has ended. -/
def State.integrationDue (s : State) (h : HubId) : Bool :=
  let H := s.hubs[h]
  s.mode.mode.runs && !H.inReset && H.bus.acquired && (H.bus.integ == .acquire || H.bus.integ == .observe || H.bus.integ == .synchronise) && s.hubAtAp h
/-- INTEGRATION_CYCLE_END (R229). -/
def execIntegrationCycleEnd (h : HubId) (s : State) : Host.Outcome State Fault Refusal := .next (if s.integrationDue h then s.integrationEnd h else s)

/-! ## Cold start (R231 to R233) -/

/-- The slot in which this node may cold-start. -/
def State.coldSlot (s : State) : Option Nat :=
  let p := s.params
  let k := p.startSet
  if p.csEnable && setValid p s.bus.nodeId k then (p.slotOf k s.bus.nodeId).filter (p.isCold k) else none
/-- A hub that can take part. -/
def HubState.alive (H : HubState) : Bool := !H.inReset && !H.faulted
/-- No valid frame has come on either channel for LISTEN cycles. -/
def State.silent (s : State) : Bool :=
  s.mode.mode.runs && !s.bus.coldStart && s.bus.csWaitUntil.isNone && !s.integrated &&
  s.since s.bus.lastValid (s.params.listen * s.params.cycTicks s.params.startSet)
/-- The cold-start phase begins: the cycle starts so that the own slot begins now, by the later of the hubs' counts. -/
def State.coldStart (s : State) (j : Nat) : State :=
  let k := s.params.startSet
  let off := 2 * s.params.slotStart k j
  let g : BitVec 64 := BitVec.ofNat 64 ((allHubs.map fun h => s.hubs[h].time.gt.toNat).foldl max 0)
  let start := g - BitVec.ofNat 64 off
  let c := s.bus.apCycle + 1
  let s1 := s.modHubs fun _ H => if H.alive then ({ H with
    time := { H.time with gt := g, apGt := start, slewLeft := 0, slewWait := 0, c := none, overRun := 0, precGood := 0, rlimGood := 0, passive := false }
    bus := { H.bus with integ := .none, acquired := false, sset := k, cycle := c } } : HubState).newCycle else H
  { s1 with
    bus := { s1.bus with
      sset := k, coldStart := true, csAttempt := 0, csHeard := 0, csLost := false, sent := false, apAt := s1.now - off, apGt := start, apCycle := c
      starts := [{ cycle := c, gt := start, struck := s1.now - off }] }
    mode := { s1.mode with voted := false, frozen := false } }
/-- COLD_START_LISTEN_TIMEOUT (R232). -/
def execColdStartListenTimeout (s : State) : Host.Outcome State Fault Refusal :=
  .next (match s.coldSlot with
    | some j => if s.silent && allHubs.any (fun h => s.hubs[h].alive) then s.coldStart j else s
    | none => s)
/-- T_CS in ticks (R231). -/
def State.tCs (s : State) : Nat := 2 * s.params.cycTicks s.params.startSet
/-- The cold-starter gives up: another was heard while it sent, or no sync node has followed after 16 cycles. -/
def State.backoffDue (s : State) : Bool :=
  s.bus.coldStart && (s.bus.csLost || (decide (16 ≤ s.bus.csAttempt) && !s.bus.sent && s.bus.csHeard == 0))
/-- CS_BACKOFF (R232 step 4, R233). -/
def execCsBackoff (s : State) : Host.Outcome State Fault Refusal :=
  .next (if s.backoffDue then
    let s1 := s.modHubs fun _ H => if H.alive then { H with bus := { H.bus with tx := [] } } else H
    ({ s1 with bus := { s1.bus with
        coldStart := false, csAttempt := 0, csHeard := 0, csLost := false, csWaitUntil := some (s1.now + (1 + s1.bus.nodeId) * s1.tCs) } } : State).note
      EventCode.csBackoff [s.bus.nodeId]
  else s)
/-- CS_BACKOFF_EXPIRY (R232, R233): the hubs wait for the bus, and the silence is counted anew. -/
def execCsBackoffExpiry (s : State) : Host.Outcome State Fault Refusal :=
  .next (if s.bus.csWaitUntil.any fun t => decide (t ≤ s.now) then
    let s1 := s.modHubs fun _ H => if H.alive then { H with bus := { H.bus with integ := .acquire, acquired := false } } else H
    { s1 with bus := { s1.bus with csWaitUntil := none, lastValid := s1.now } }
  else s)

/-! ## Spare slots (R240, R241) -/

/-- SPARE_SLOT_CLAIM (R240): the lowest spare slot found empty twice. -/
def execSpareSlotClaim (s : State) : Host.Outcome State Fault Refusal :=
  .next (if s.mayClaim && s.bus.claimWait.isNone then
    (match s.bus.emptyTwice.find? fun j => s.bus.emptyTwice.all fun i => decide (j ≤ i) with
    | some j => { s with bus := { s.bus with claimed := some j, emptyOnce := [], emptyTwice := [] } }
    | none => s)
  else s)
/-- CLAIM_WAIT_EXPIRY (R241): the search starts afresh. -/
def execClaimWaitExpiry (s : State) : Host.Outcome State Fault Refusal :=
  .next (if s.bus.claimWait.any fun c => s.bus.apCycle == c || laterCycle s.bus.apCycle c then
    { s with bus := { s.bus with claimWait := none, emptyOnce := [], emptyTwice := [] } } else s)

/-! ## The module's slot (R215, R220, R222) -/

/-- The header of a frame of the module (R212). -/
def State.txHeader (s : State) (type plen mseg : Nat) (seg : Bytes) (j : Nat) : Bytes :=
  let k := s.bus.sset
  toLe 1 (16 + k % 8) ++ toLe 2 s.bus.apCycle.toNat ++ toLe 1 (s.bus.nodeId % 64) ++ toLe 1 type ++
  toLe 1 (bit (plen == 0) 0 + bit (s.params.isSync k j) 1 + bit (s.claimInUse == some j) 2) ++ toLe 2 plen ++ toLe 1 mseg ++ seg ++ toLe 3 0
/-- A frame from its header and payload, with its frame check sequence. -/
def frameOf (hdr payload : Bytes) : Bytes := hdr ++ payload ++ toLe 4 (crc32 (hdr ++ payload)).toNat
/-- MDST, MSEQ, MCTL and MRING of a frame with a segment, or none. -/
def State.segFields (s : State) (x : Option OutSeg) : Bytes :=
  match x with
  | none => toLe 4 0
  | some x => toLe 1 ((s.params.nodeOf x.dest).getD 0) ++ [s.bus.outMseq[streamIdx x.dest]] ++ toLe 1 (bit x.first 0 + bit x.last 1) ++ toLe 1 x.ring.val
/-- The hub whose start of the cycle the trailer states: X, or Y while X is faulted (R220) or lost in Thaw. -/
def State.gtHub (s : State) : HubId := if s.hubs[(0 : HubId)].alive then 0 else 1
/-- The cyclic part of the module (R220); INT counts the cycle being sent. -/
def State.cyclicPart (s : State) (subs : Vector (Option Bytes) 3) : Bytes :=
  (allLanes.flatMap fun l => (subs[l]).getD (List.replicate 96 0xFF)) ++ (segRings.map fun q => s.mail.rings[q].limit) ++
  toLe 1 (min 255 (s.bus.int + 1)) ++ toLe 2 s.mode.bootShown.toNat ++ toLe 8 s.hubs[s.gtHub].time.apGt.toNat
/-- A payload fits in slot j (R222). -/
def State.fitsSlot (s : State) (j plen : Nat) : Bool := decide ((32 + plen) * 8 + 600 ≤ 10 * s.params.slotLen s.bus.sset j)
/-- A frame leaves on the channels whose hubs send and whose links are up. -/
def State.transmit (s : State) (who : HubState → Bool) (frame : Bytes) : State :=
  let s1 := s.modHubs fun _ H => if who H && H.bus.link then
    { H with bus := { H.bus with tx := frame, cnt := { H.bus.cnt with txFrames := H.bus.cnt.txFrames + 1 } } } else H
  { s1 with bus := { s1.bus with sent := true } }
/-- The module's data frame, or its null frame where no lane has written a sub-image (R215). -/
def State.sendData (s : State) (j : Nat) : State :=
  let subs := s.hubs[s.gtHub].bus.sub
  let s0 : State := { s with bus := { s.bus with int := min 255 (s.bus.int + 1), answers := s.bus.answers.drop 1 } }
  if subs.all (·.isNone) then s0.transmit HubState.sends (frameOf (s.txHeader 0 0 0 (toLe 4 0) j) [])
  else
    let blk := (s.bus.answers.head?).getD []
    let cyc := s.cyclicPart subs
    let base := blk.length + cyc.length
    let seg := (s.chooseSegment (s.bus.apAt + s.slotTicks j)).filter fun x => s.fitsSlot j (base + x.octets.length)
    let sb := (seg.map (·.octets)).getD []
    let hdr := s.txHeader (if blk.isEmpty then 2 else 3) (base + sb.length) sb.length (s.segFields seg) j
    let s1 := s0.transmit HubState.sends (frameOf hdr (blk ++ cyc ++ sb))
    let s2 := match seg with
      | some x => s1.segSent x
      | none => s1
    if blk.isEmpty then s2 else s2.changeAnswer s.bus.nodeId blk
/-- A cold-start frame (R234). -/
def State.sendCold (s : State) (j : Nat) : State :=
  let n := min 255 (s.bus.csAttempt + 1)
  let pay := toLe 8 s.bus.apGt.toNat ++ toLe 1 n ++ toLe 7 0
  ({ s with bus := { s.bus with csAttempt := n } } : State).transmit HubState.alive (frameOf (s.txHeader 1 16 0 (toLe 4 0) j) pay)
/-- A channel on which the module can send now. -/
def State.canSendOn (s : State) (h : HubId) : Bool := s.hubs[h].bus.link && (if s.bus.coldStart then s.hubs[h].alive else s.hubs[h].sends)
/-- A hub's count has reached, with this tick, the instant 0.25 µs into a slot (R222). -/
def State.atSlot (s : State) (h : HubId) (j : Nat) : Bool :=
  let H := s.hubs[h]
  let t := H.time.apGt.toNat + 2 * s.params.slotStart H.bus.sset j + 50
  decide (t ≤ H.time.gt.toNat) && decide (H.time.gt.toNat ≤ t + 1)
/-- MODULE_SLOT_SEND (R215): once a cycle, 0.25 µs into the module's slot by the count of the hub that sends first (R222). -/
def execModuleSlotSend (s : State) : Host.Outcome State Fault Refusal :=
  .next (match s.ownSlot with
    | some j =>
      if s.mode.mode.runs && !s.bus.sent && (allHubs.any fun h => s.canSendOn h && s.atSlot h j) then
        (if s.bus.coldStart then s.sendCold j else s.sendData j)
      else s
    | none => s)

end Sys2Proof.Machine
end

