-- ==== Sys2Proof/Machine/Start.lean ====
section
/-!
DEFINITION. Power and Thaw (R379 to R383, R389, R516, R522, R524, R526, R536, R537): power-good, the loss of the logic supply,
the end of Thaw with its outcomes, and its watchdog.
-/

namespace Sys2Proof.Machine

/-! ## The logic supply (R537) -/

/-- POWER_GOOD: every volatile memory is wiped and Thaw begins. -/
def execPowerGood (s : State) : Host.Outcome State Fault Refusal := .next s.moduleReset
/-- SUPPLY_DROP_RESET: the module resets and stays without supply until power-good. -/
def execSupplyDropReset (s : State) : Host.Outcome State Fault Refusal :=
  .next (if s.supply.good then { s.moduleReset with supply := { good := false } } else s)

/-! ## A Thaw that fails (R382, R383, R524, R526) -/

/-- Items of a THAW_FAIL record: lanes A to C, hubs X and Y, the image, the watchdog (the model's numbering). -/
def thawItemHub (h : HubId) : Nat := 3 + h.val
def thawItemImage : Nat := 5
def thawItemWatchdog : Nat := 6
/-- A THAW_FAIL record in the log. -/
def State.thawFailRec (s : State) (item : Nat) : State := s.logRec (s.eventOctets EventCode.thawFail 0 3 (scope [item]) [])
/-- A trial Thaw did not reach JOIN: TRIALS and UPD_TRIAL_FAILED; the third leads to the fallback, or to HALT in a trial that
a bad slot started; else the next trial Thaw begins. -/
def State.trialFailed (s : State) : State :=
  let b := s.flash.bootRec
  let n := b.trials + 1
  let s1 := (s.putBoot fun b => { b with trials := n }).note 0x0263 [] (toLe 1 n)
  if n < 3 then s1.moduleReset
  else if b.counted then (s1.fallback 1).moduleReset
  else s1.enterMode .halt 14
/-- Thaw ends in HALT with cause 14, but a trial Thaw ends as a failed trial boot. -/
def State.thawHalts (s : State) (item : Nat) : State :=
  let s1 := s.thawFailRec item
  if s.flash.bootRec.trial then s1.trialFailed else s1.enterMode .halt 14
/-- The duration of a wipe that Thaw resumes: at most 5 s, a free value within that (R389, notes/assumptions/144.md). -/
def State.wipeTicks (s : State) : Nat := if s.flash.wiping then (Config.freeValue s.fresh).toNat % (5 * Config.sec + 1) else 0
/-- The bound of R383: 2.0 s after power-good, and the duration of a wipe that Thaw resumes. -/
def State.thawLimit (s : State) : Nat := s.mode.resetAt + 2 * Config.sec + s.wipeTicks
/-- THAW_WATCHDOG_HALT (R383). -/
def execThawWatchdogHalt (s : State) : Host.Outcome State Fault Refusal :=
  .next (if s.mode.mode = .thaw ∧ s.supply.good ∧ s.thawLimit ≤ s.now then s.thawHalts thawItemWatchdog else s)

/-! ## The steps (R381) -/

/-- Lanes, and hubs, whose logic BIST of step 3 passes: its readings in range, and its three values those of OTP (R423, R424). -/
def State.thawBistL (s : State) (r : ThawResult) : LaneMask := maskOf fun (l : LaneId) => rangesOk (r.lbist[l]).meas && s.otp.runOk l r.lbist[l]
def State.thawBistH (s : State) (r : ThawResult) : BitVec 2 := maskOf fun (h : HubId) => rangesOk (r.lbistHub[h]).meas && s.otp.hubRunOk h r.lbistHub[h]
/-- Hubs that passed steps 2 and 3. -/
def State.thawHubs (s : State) (r : ThawResult) : BitVec 2 := r.mbistH &&& s.thawBistH r
/-- Lanes that passed steps 2 and 3, and that their watchdog has not lost since (R383). -/
def State.thawLanes (s : State) (r : ThawResult) : LaneMask := r.mbistL &&& s.thawBistL r &&& maskOf fun l => s.lanes[l].st == .thawing
/-- Lanes that found a slot good (R516): none finds a bad image good; a lane may fail to find a good one so. -/
def State.slotLanes (s : State) (r : ThawResult) (k : Fin 2) : LaneMask :=
  if !s.slotPasses k then 0 else if k = 0 then r.slotA else r.slotB
/-- At least two of the lanes of a mask. -/
def twoLanes (m : LaneMask) : Bool := decide (2 ≤ (members m).length)
/-- The slot that Thaw starts: that of the boot record, or, where two lanes do not find it good and it is no trial's, the
other one (R516, R526). -/
def State.thawSlot (s : State) (r : ThawResult) : Option (Fin 2) :=
  let b := s.flash.bootRec
  let k := if b.trial then b.trialSlot else b.activeSlot
  if twoLanes (s.thawLanes r &&& s.slotLanes r k) then some k
  else if !b.trial && twoLanes (s.thawLanes r &&& s.slotLanes r (other k)) then some (other k) else none
/-- Step 4: a slot that fails is marked, and the other one starts as a trial boot with TRIAL_TIME not counted. -/
def State.thawBoot (s : State) (r : ThawResult) : State :=
  let b := s.flash.bootRec
  let k := if b.trial then b.trialSlot else b.activeSlot
  if twoLanes (s.thawLanes r &&& s.slotLanes r k) then s
  else
    let s1 := s.putBoot fun b => { b with slotBad := b.slotBad ||| only k }
    if !b.trial && twoLanes (s.thawLanes r &&& s.slotLanes r (other k)) then
      s1.putBoot fun b => { b with
        trial := true, trialSlot := other k, fallbackBank := if s.flash.bankActive then some s.flash.lastBank else none, trials := 0, trialTime := 0
        preLc := s.flash.lifecycle, counted := false }
    else s1
/-- The boot counter, from 1, with 0xFFFF followed by 1 (R220, R391). -/
def nextBoot (w : Word) : Word := if w = 0xFFFF then 1 else w + 1
/-- The bank whose seal Thaw checks: the active one, or one that failed its check before (R382). -/
def Flash.bankToCheck (f : Flash) : Option ParamBank :=
  (f.banks[f.lastBank]).filter fun b => f.bankActive || b.sealCode != b.image.sealOctets
/-- Step 7: node ID, boot counter, life-cycle state, wipe, parameters (R382, R389, R511, R536). -/
def State.thawLoad (s : State) (r : ThawResult) : State :=
  let s1 := if s.flash.wiping then s.wipeStation else s
  let f := s1.flash
  let good := (f.bankToCheck).any fun b => b.sealCode == b.image.sealOctets
  let img := if good then (f.bankToCheck.map (·.image)) else none
  let node := ((img.getD (ParamImage.defaults r.pins.val)).nodeInUse r.pins.val)
  { s1 with
    flash := { f with bankActive := good, bootCount := nextBoot f.bootCount }
    working := img.getD (ParamImage.defaults node)
    bus := { s1.bus with pins := r.pins.val, nodeId := node }
    mode := { s1.mode with lifecycle := some f.lifecycle, bootShown := nextBoot f.bootCount } }
/-- Step 7 of a trial Thaw (R522): parameters the new firmware can read are migrated into the other bank; else, its
defaults. -/
def State.thawTrial (s : State) (slot : Fin 2) : State :=
  let b := s.flash.bootRec
  if !b.trial then s else
  let img := s.flash.slots[slot]
  let fmt := slotField img 24 2
  let sealed_ := s.flash.bankActive && b.fallbackBank != some s.flash.lastBank
  let reads (x : ParamBank) : Bool := within x.pfmt (slotField img 26 2) fmt
  let s1 : State := { s with
    upd := { s.upd with trialRun := true, st := .trial, sealedInTrial := sealed_, incompat := !sealed_ && s.activeBank.any fun x => !reads x }
    mode := { s.mode with lifecycle := if b.preLc = .sealed ∧ !sealed_ then some .maintenance else s.mode.lifecycle } }
  match s.activeBank with
  | none => s1
  | some x =>
    if sealed_ then s1
    else if reads x then
      { s1 with flash := { s1.flash with
          banks := s1.flash.banks.set (other s1.flash.lastBank)
            (some { pfmt := fmt, seq := x.seq + 1, confirmed := false, image := x.image, sealCode := x.image.sealOctets }) } }
    else { s1 with working := s1.defaultImage }
/-- THAW_RES (R392). -/
def State.thawWord (s : State) (r : ThawResult) (slot : Fin 2) (wiped : Bool) : Word :=
  BitVec.ofNat 16 (8192 * (s.thawBistL r).toNat + 2048 * (s.thawBistH r).toNat + 256 * r.mbistL.toNat + 64 * r.mbistH.toNat + bit true 5 + bit s.flash.bankActive 4 +
    bit (slot == 1) 3 + bit s.flash.bootRec.trial 2 + bit wiped 1)
/-- THAW_RES of a Thaw that fails: the slot that passed the image check, if that was reached (R392). -/
def State.thawWordBad (s : State) (r : ThawResult) (slot : Option (Fin 2)) : Word :=
  BitVec.ofNat 16 (8192 * (s.thawBistL r).toNat + 2048 * (s.thawBistH r).toNat + 256 * r.mbistL.toNat + 64 * r.mbistH.toNat + bit slot.isSome 5 +
    bit (slot == some 1) 3 + bit (slot.isSome && s.flash.bootRec.trial) 2)
/-- A lane that passed runs Poind: in the vote, its drive streams running, its watchdog armed. -/
def LaneState.thawed (L : LaneState) (now : Nat) : LaneState :=
  { L with st := .active, inVoteSince := now, wdService := now, drive := { L.drive with running := true } }
/-- A lane that failed is held in reset and lost (R382). -/
def LaneState.failed (L : LaneState) : LaneState := { L with st := .lost }
/-- Steps 5 and 6 for a group: reference on and settled, but where REF_FAULT stands; the factory coefficients that lie within their
limits; Poind's sequences (R82, R95, R96, R106). -/
def State.thawGroup (s : State) (bad : Bool) (g : GroupId) : State :=
  let s1 := s.modFe g fun f => { f with refEn := true, refEnAt := s.now, refs := !bad, refSetAt := s.now, aux := poindAux f.aux s.now (!bad) }
  s1.modGroup g fun G => { G with
    feed := { G.feed with unlockedSince := s.now }
    under := { G.under with coef := s.otp.factory[g].map fun k => if calInRange k then k else {}, p0Since := s.now }
    watch := { G.watch with coef := if auxCoefOk s.otp.factoryAux[g] then s.otp.factoryAux[g] else {} } }
/-- Step 8 for one modulator: its pair is adopted or rejected by the rules of R122. -/
def State.thawCal (s : State) (x : ThawCal) : State :=
  match agreedPair x.meas s.voteMask with
  | some k =>
    let d := pairDissent x.meas s.voteMask k
    let s1 := s.laneDissent x.group d (s.voteMask &&& ~~~d)
    let cmp : List Bool := if x.cmprefBad ≠ 0 then [false] else if x.cmprefGood ≠ 0 then [true] else []
    if adoptable k x.refsHeld cmp then s1.adoptPair x.group x.mod k else s1.rejectPair x.group x.mod
  | none => s.rejectPair x.group x.mod
/-- Step 8 (R128): the calibrations made in Thaw; a group with its reference set in which they are not complete makes them from
JOIN on. -/
def State.thawCals (s : State) (cs : List ThawCal) : State :=
  (s.each cs State.thawCal).each allGroups fun s g => if s.fe[g].refs then s.startInPlace g else s
/-- Step 9: rings open, receivers on, lane time runs, JOIN. -/
def State.thawJoin (s : State) : State :=
  let p := s.params
  let h : HubId := if s.hubs[(0 : HubId)].inReset then 1 else 0
  let s1 := s.modHubs fun _ H => if H.inReset then H else { H with bus := { H.bus with integ := .acquire } }
  let s2 : State := { s1 with
    mail := { s1.mail with opened := true, active := h }
    bus := { s1.bus with sset := p.startSet, lastValid := s1.now, apAt := s1.now, apGt := s1.hubs[h].time.gt }
    wear := { s1.wearStore.kept with
      day := 0, storeFail := false
      osc := s1.wearStore.kept.osc.map fun (o : OscRun) => { o with hour := none } }
    upd := { s1.upd with trialStart := if s1.upd.trialRun then some s1.now else none }
    mode := { s1.mode with thawMs := BitVec.ofNat 16 ((s1.now - s1.mode.resetAt) / Config.ms) } }
  s2.enterMode .join 1
/-- A group or bank fault that Thaw found, raised by the lanes it concerns: MEAS_LINK by the lane whose frames are missing, which
then stands in it until they return (R77, R382, R457). -/
def State.thawFault (s : State) (code : Nat) (items : List Nat) : State :=
  let n := items.getD 1 99
  if h : items.getD 0 9 < 3 then
    let l : LaneId := ⟨items.getD 0 9, h⟩
    if code = FaultCode.measLink then
      (s.modLane l fun L =>
        if hg : n < 12 then { L with grp := L.grp.set n { L.grp[n] with measLink := true, good := 0 } }
        else if hb : n - 12 < 4 then { L with bank := L.bank.set (n - 12) { L.bank[n - 12] with measLink := true, good := 0 } } else L).measLinkFault l n false true
    else s.fault code items s.voteMask
  else s.fault code items s.voteMask
/-- The faults, events and calibrations of a Thaw, once the rings are open (R128, R382, R529). -/
def State.thawReports (s : State) (r : ThawResult) (good : LaneMask) (corrupt : Bool) (badSlot : Option (Fin 2)) : State :=
  let lost := allLanes.filter fun l => !has good l
  let s1 := s.each lost fun s l => ((if has (s.thawBistL r) l then s else s.raiseFault FaultCode.lbistFail [l.val] s.voteMask).raiseFault
    FaultCode.laneLost [l.val] s.voteMask).thawFailRec l.val
  let s2 := s1.each lost fun s l => if has r.cvu l then s else s.raiseFault FaultCode.cvuSelftest [l.val] s.voteMask
  let s3 := s2.each (allHubs.filter fun h => !has (s.thawHubs r) h) fun s h => s.thawFailRec (thawItemHub h)
  let s4 := if has (s.thawHubs r) (1 : HubId) then s3 else s3.raiseFault FaultCode.standbyLost [1] s3.voteMask
  let s5 := if corrupt then s4.raiseFault FaultCode.paramCorrupt [s4.flash.lastBank.val] s4.voteMask else s4
  let s6 := match badSlot with
    | some k => s5.note 0x0268 [] (toLe 1 k.val)
    | none => s5
  let fell := s6.flash.bootRec.fell
  let s7 := if fell = 0 then s6 else
    let t := s6.putBoot fun b => { b with fell := 0 }
    ({ t with upd := { t.upd with st := if t.upd.trialRun then t.upd.st else .fallback } } : State).note 0x0264 [] (toLe 1 fell)
  (s7.each r.groupFaults fun s x => s.thawFault x.1 x.2).thawCals r.cals
/-- Thaw with at least one hub, two lanes and a slot to start. -/
def State.thawEnds (s : State) (r : ThawResult) (slot : Fin 2) : State :=
  let good := s.thawLanes r &&& s.slotLanes r slot &&& r.cvu
  let b := s.flash.bootRec
  let badSlot := if !b.trial && slot != b.activeSlot then some b.activeSlot else none
  let corrupt := s.flash.bankToCheck.any fun x => x.sealCode != x.image.sealOctets
  let s1 := s.thawBoot r
  let s2 := s1.modLanes fun l L => if has good l then L.thawed s.now else L.failed
  let s3 := s2.modHubs fun h H => { H with inReset := !has (s.thawHubs r) h }
  let s4 := ((s3.thawLoad r).thawTrial slot)
  let s5 : State := { s4 with upd := { s4.upd with runSlot := slot }, mode := { s4.mode with thawRes := s4.thawWord r slot s.flash.wiping } }
  let s6 := s5.each allGroups fun s g => s.thawGroup (r.groupFaults.contains (FaultCode.refFault, [g.val])) g
  s6.thawJoin.thawReports r good (corrupt && !s.flash.wiping) badSlot
/-- THAW_DONE (R381, R382), before the watchdog's limit (R383). -/
def execThawDone (r : ThawResult) (s : State) : Host.Outcome State Fault Refusal :=
  .next (if s.mode.mode ≠ .thaw ∨ !s.supply.good ∨ s.thawLimit < s.now then s
  else
    let s0 := s.modLanes fun l L => { L with lbist := L.lbist.after s.otp l r.lbist[l] s.now }
    let s1 := s0.modLanes fun l L => if has (s.thawLanes r) l then L else L.failed
    let bad (k : Option (Fin 2)) : State := { s1 with mode := { s1.mode with thawRes := s.thawWordBad r k } }
    if s.thawHubs r = 0 then (bad none).thawHalts (thawItemHub 0)
    else if !twoLanes (s.thawLanes r) then (bad none).thawHalts ((allLanes.find? fun l => !has (s.thawLanes r) l).map (·.val) |>.getD 0)
    else match s.thawSlot r with
      | none => (bad none).thawBoot r |>.thawHalts thawItemImage
      | some k =>
        if twoLanes (s.thawLanes r &&& s.slotLanes r k &&& r.cvu) then s0.thawEnds r k
        else (bad (some k)).thawBoot r |>.thawHalts ((allLanes.find? fun l => !has r.cvu l).map (·.val) |>.getD 0))

end Sys2Proof.Machine
end

