-- ==== Sys2Proof/Machine/Dispatch.lean ====
section
/-!
DEFINITION. The dispatch of the commands: one arm per row of the table of operations and events.
-/

namespace Sys2Proof.Machine

/-- What a command does to everything but the queue. -/
def exec (i : Instr) (s : State) : Host.Outcome State Fault Refusal :=
  match i with
  | .powerGood => Sys2Proof.Machine.execPowerGood s
  | .supplyDropReset => Sys2Proof.Machine.execSupplyDropReset s
  | .thawDone r => Sys2Proof.Machine.execThawDone r s
  | .watchdog l => Sys2Proof.Machine.execWatchdog l s
  | .thawWatchdogHalt => Sys2Proof.Machine.execThawWatchdogHalt s
  | .actionPoint => Sys2Proof.Machine.execActionPoint s
  | .voteInstant => Sys2Proof.Machine.execVoteInstant s
  | .latchDriveRederive l => Sys2Proof.Machine.execLatchDriveRederive l s
  | .subImageFreeze => Sys2Proof.Machine.execSubImageFreeze s
  | .moduleSlotSend => Sys2Proof.Machine.execModuleSlotSend s
  | .clockCorrection h => Sys2Proof.Machine.execClockCorrection h s
  | .frameReceived h f => Sys2Proof.Machine.execFrameReceived h f s
  | .schedChanged => Sys2Proof.Machine.execSchedChanged s
  | .linkUp h => Sys2Proof.Machine.execLinkUp h s
  | .linkDown h => Sys2Proof.Machine.execLinkDown h s
  | .channelDown h => Sys2Proof.Machine.execChannelDown h s
  | .integrationCycleEnd h => Sys2Proof.Machine.execIntegrationCycleEnd h s
  | .coldStartListenTimeout => Sys2Proof.Machine.execColdStartListenTimeout s
  | .csBackoff => Sys2Proof.Machine.execCsBackoff s
  | .csBackoffExpiry => Sys2Proof.Machine.execCsBackoffExpiry s
  | .spareSlotClaim => Sys2Proof.Machine.execSpareSlotClaim s
  | .claimWaitExpiry => Sys2Proof.Machine.execClaimWaitExpiry s
  | .compareRecord receiver sender index rx => Sys2Proof.Machine.execCompareRecord receiver sender index rx s
  | .latchMerge => Sys2Proof.Machine.execLatchMerge s
  | .driveFrame d l rx hot => Sys2Proof.Machine.execDriveFrame d l rx hot s
  | .driveLossTimer d l => Sys2Proof.Machine.execDriveLossTimer d l s
  | .overlayWord => Sys2Proof.Machine.execOverlayWord s
  | .shortCircuitTrip c => Sys2Proof.Machine.execShortCircuitTrip c s
  | .overtempTrip c => Sys2Proof.Machine.execOvertempTrip c s
  | .sideFrame l g rx => Sys2Proof.Machine.execSideFrame l g rx s
  | .modulatorOverload g m => Sys2Proof.Machine.execModulatorOverload g m s
  | .fastSample l c => Sys2Proof.Machine.execFastSample l c s
  | .notProven l c => Sys2Proof.Machine.execNotProven l c s
  | .periodWindowClose g ambient => Sys2Proof.Machine.execPeriodWindowClose g ambient s
  | .auxConversionDone g raw => Sys2Proof.Machine.execAuxConversionDone g raw s
  | .trackerUnlockTimeout g => Sys2Proof.Machine.execTrackerUnlockTimeout g s
  | .feedAbsentDecision g => Sys2Proof.Machine.execFeedAbsentDecision g s
  | .feedFreqRange g => Sys2Proof.Machine.execFeedFreqRange g s
  | .auxStall g => Sys2Proof.Machine.execAuxStall g s
  | .groupOverload g => Sys2Proof.Machine.execGroupOverload g s
  | .injectedTrigger g src => Sys2Proof.Machine.execInjectedTrigger g src s
  | .refsSet g => Sys2Proof.Machine.execRefsSet g s
  | .refFaultTimeout g => Sys2Proof.Machine.execRefFaultTimeout g s
  | .frontEndControlWrite l g w => Sys2Proof.Machine.execFrontEndControlWrite l g w s
  | .chipStrobe g l rx => Sys2Proof.Machine.execChipStrobe g l rx s
  | .probeEnable c => Sys2Proof.Machine.execProbeEnable c s
  | .codePeriodEnd l => Sys2Proof.Machine.execCodePeriodEnd l s
  | .partialWindowEnd l => Sys2Proof.Machine.execPartialWindowEnd l s
  | .matrixRowSend => Sys2Proof.Machine.execMatrixRowSend s
  | .offTestStart c => Sys2Proof.Machine.execOffTestStart c s
  | .offTestGateCheck c => Sys2Proof.Machine.execOffTestGateCheck c s
  | .offTestEnd c => Sys2Proof.Machine.execOffTestEnd c s
  | .majorityTestStart c => Sys2Proof.Machine.execMajorityTestStart c s
  | .majorityTestEnd c => Sys2Proof.Machine.execMajorityTestEnd c s
  | .dimmingEdge c onPhase => Sys2Proof.Machine.execDimmingEdge c onPhase s
  | .proofOverdue item => Sys2Proof.Machine.execProofOverdue item s
  | .loanStepEnd g sp => Sys2Proof.Machine.execLoanStepEnd g sp s
  | .handoff g sp => Sys2Proof.Machine.execHandoff g sp s
  | .spareSelfCalibration g sp => Sys2Proof.Machine.execSpareSelfCalibration g sp s
  | .inPlaceCalibration g m => Sys2Proof.Machine.execInPlaceCalibration g m s
  | .compareNoSamples g sp => Sys2Proof.Machine.execCompareNoSamples g sp s
  | .calHandoff g sp => Sys2Proof.Machine.execCalHandoff g sp s
  | .calOverdue g m => Sys2Proof.Machine.execCalOverdue g m s
  | .teachChannelDone c => Sys2Proof.Machine.execTeachChannelDone c s
  | .commandStart l q => Sys2Proof.Machine.execCommandStart l q s
  | .responseVote num => Sys2Proof.Machine.execResponseVote num s
  | .laneDisagree num => Sys2Proof.Machine.execLaneDisagree num s
  | .responseRingRoom q => Sys2Proof.Machine.execResponseRingRoom q s
  | .spiTransaction h mosi cut => Sys2Proof.Machine.execSpiTransaction h mosi cut s
  | .registerWrite t => Sys2Proof.Machine.execRegisterWrite t s
  | .multiwordCapture h addr => Sys2Proof.Machine.execMultiwordCapture h addr s
  | .prodWrite h q v => Sys2Proof.Machine.execProdWrite h q v s
  | .hconsWrite h q v => Sys2Proof.Machine.execHconsWrite h q v s
  | .auxCtrlWrite h g v => Sys2Proof.Machine.execAuxCtrlWrite h g v s
  | .auxReqCal h g => Sys2Proof.Machine.execAuxReqCal h g s
  | .auxReqInj h g => Sys2Proof.Machine.execAuxReqInj h g s
  | .windowRefresh => Sys2Proof.Machine.execWindowRefresh s
  | .cvLoad l => Sys2Proof.Machine.execCvLoad l s
  | .cvFoldImp l => Sys2Proof.Machine.execCvFoldImp l s
  | .cvDma l => Sys2Proof.Machine.execCvDma l s
  | .cvDmaDone l eccAt => Sys2Proof.Machine.execCvDmaDone l eccAt s
  | .cvData8 l d => Sys2Proof.Machine.execCvData8 l d s
  | .cvData32 l d => Sys2Proof.Machine.execCvData32 l d s
  | .hubSwitchover => Sys2Proof.Machine.execHubSwitchover s
  | .qmemFault h a => Sys2Proof.Machine.execQmemFault h a s
  | .sramScrubError u correctable => Sys2Proof.Machine.execSramScrubError u correctable s
  | .coppiceDue => Sys2Proof.Machine.execCoppiceDue s
  | .coppiceStepEnd r => Sys2Proof.Machine.execCoppiceStepEnd r s
  | .lbistDone l r => Sys2Proof.Machine.execLbistDone l r s
  | .laneRestartDone l r => Sys2Proof.Machine.execLaneRestartDone l r s
  | .hubTestSlice h r => Sys2Proof.Machine.execHubTestSlice h r s
  | .degradedLimit => Sys2Proof.Machine.execDegradedLimit s
  | .revertEnvelopeJudge g => Sys2Proof.Machine.execRevertEnvelopeJudge g s
  | .revertFail g => Sys2Proof.Machine.execRevertFail g s
  | .gladeUnproven g => Sys2Proof.Machine.execGladeUnproven g s
  | .contactorJudge g k => Sys2Proof.Machine.execContactorJudge g k s
  | .bankSampleFrame l b rx => Sys2Proof.Machine.execBankSampleFrame l b rx s
  | .outputOverload p => Sys2Proof.Machine.execOutputOverload p s
  | .bankSupplyCondition b k => Sys2Proof.Machine.execBankSupplyCondition b k s
  | .fieldOffTestStart p => Sys2Proof.Machine.execFieldOffTestStart p s
  | .fieldOffTestEnd p => Sys2Proof.Machine.execFieldOffTestEnd p s
  | .fieldMajorityTest p => Sys2Proof.Machine.execFieldMajorityTest p s
  | .discrepancySample l p => Sys2Proof.Machine.execDiscrepancySample l p s
  | .wearDailyClose ok => Sys2Proof.Machine.execWearDailyClose ok s
  | .wearHourlyStore ok => Sys2Proof.Machine.execWearHourlyStore ok s
  | .ringOscMeasure ring m => Sys2Proof.Machine.execRingOscMeasure ring m s
  | .updateTick => Sys2Proof.Machine.execUpdateTick s
  | .updSessionTimeout => Sys2Proof.Machine.execUpdSessionTimeout s
  | .trialBootReset => Sys2Proof.Machine.execTrialBootReset s
  | .trialTimeExpiry => Sys2Proof.Machine.execTrialTimeExpiry s
  | .moduleResetAfterExec => Sys2Proof.Machine.execModuleResetAfterExec s
  | .captureTrigger => Sys2Proof.Machine.execCaptureTrigger s
  | .captureTimeout => Sys2Proof.Machine.execCaptureTimeout s
  | .lampTestEnd => Sys2Proof.Machine.execLampTestEnd s
  | .fieldTestEnd => Sys2Proof.Machine.execFieldTestEnd s
  | .proofTestTimeout => Sys2Proof.Machine.execProofTestTimeout s
  | .nop c => Sys2Proof.Machine.execNop c s
  | .ident c => Sys2Proof.Machine.execIdent c s
  | .status c => Sys2Proof.Machine.execStatus c s
  | .faultList c => Sys2Proof.Machine.execFaultList c s
  | .modeReq c => Sys2Proof.Machine.execModeReq c s
  | .lifecycleReq c => Sys2Proof.Machine.execLifecycleReq c s
  | .subscribe c => Sys2Proof.Machine.execSubscribe c s
  | .countsRead c => Sys2Proof.Machine.execCountsRead c s
  | .logRead c => Sys2Proof.Machine.execLogRead c s
  | .chipIdent c => Sys2Proof.Machine.execChipIdent c s
  | .resetArm c => Sys2Proof.Machine.execResetArm c s
  | .resetExec c => Sys2Proof.Machine.execResetExec c s
  | .paramRead c => Sys2Proof.Machine.execParamRead c s
  | .paramWrite c => Sys2Proof.Machine.execParamWrite c s
  | .paramRevert c => Sys2Proof.Machine.execParamRevert c s
  | .paramDefaults c => Sys2Proof.Machine.execParamDefaults c s
  | .sealShow c => Sys2Proof.Machine.execSealShow c s
  | .sealConfirm c => Sys2Proof.Machine.execSealConfirm c s
  | .lampRead c => Sys2Proof.Machine.execLampRead c s
  | .proveClear c => Sys2Proof.Machine.execProveClear c s
  | .latchClear c => Sys2Proof.Machine.execLatchClear c s
  | .teach c => Sys2Proof.Machine.execTeach c s
  | .lampTest c => Sys2Proof.Machine.execLampTest c s
  | .measRead c => Sys2Proof.Machine.execMeasRead c s
  | .auxRead c => Sys2Proof.Machine.execAuxRead c s
  | .capture c => Sys2Proof.Machine.execCapture c s
  | .captureStop c => Sys2Proof.Machine.execCaptureStop c s
  | .probeRead c => Sys2Proof.Machine.execProbeRead c s
  | .matrixStream c => Sys2Proof.Machine.execMatrixStream c s
  | .busRead c => Sys2Proof.Machine.execBusRead c s
  | .timeRead c => Sys2Proof.Machine.execTimeRead c s
  | .fieldRead c => Sys2Proof.Machine.execFieldRead c s
  | .fieldTest c => Sys2Proof.Machine.execFieldTest c s
  | .selftestRead c => Sys2Proof.Machine.execSelftestRead c s
  | .proofTest c => Sys2Proof.Machine.execProofTest c s
  | .coppiceNow c => Sys2Proof.Machine.execCoppiceNow c s
  | .wearRead c => Sys2Proof.Machine.execWearRead c s
  | .wearReport c => Sys2Proof.Machine.execWearReport c s
  | .wearReset c => Sys2Proof.Machine.execWearReset c s
  | .updOpen c => Sys2Proof.Machine.execUpdOpen c s
  | .updBlock c => Sys2Proof.Machine.execUpdBlock c s
  | .updVerify c => Sys2Proof.Machine.execUpdVerify c s
  | .updActivate c => Sys2Proof.Machine.execUpdActivate c s
  | .updConfirm c => Sys2Proof.Machine.execUpdConfirm c s
  | .updRollback c => Sys2Proof.Machine.execUpdRollback c s
  | .updClose c => Sys2Proof.Machine.execUpdClose c s
  | .updStatus c => Sys2Proof.Machine.execUpdStatus c s
  | .mirrorLinkFail => Sys2Proof.Machine.execMirrorLinkFail s
  | .outputThermalShutdown p => Sys2Proof.Machine.execOutputThermalShutdown p s
  | .lspecResponseTimeout num => Sys2Proof.Machine.execLspecResponseTimeout num s
  | .trialTimeStore => Sys2Proof.Machine.execTrialTimeStore s
  | .pumpStarvation d k => Sys2Proof.Machine.execPumpStarvation d k s
  | .modulatorOverloadEnd g m => Sys2Proof.Machine.execModulatorOverloadEnd g m s
  | .gateDriveSupply g ok => Sys2Proof.Machine.execGateDriveSupply g ok s

end Sys2Proof.Machine
end

