-- ==== Sys2Proof/Safety.lean ====
section
/-!
DEFINITION. What the statements mean by a sound state and by a run that goes well: the memories of the block in their
canonical form, cells of the one-time-programmable memory only ever programmed, and a command that ends in a next state.
-/

namespace Sys2Proof.Machine

/-- The queue memories of both hubs (R305) and the SRAM of every lane are in their canonical form. -/
def State.memOk (s : State) : Prop :=
  (∀ h : HubId, Memory.wf s.hubs[h].qmem = true) ∧ ∀ l : LaneId, Memory.wf s.lanes[l].sram = true

/-- One one-time-programmable memory comes from another by programming cells (R507, R513, R515): identities, keys,
coefficients and references stay, a revocation bit once set stays set, and minimum-version cells are only added. -/
def Otp.programmedFrom (new old : Otp) : Prop :=
  new.chips = old.chips ∧ new.order96L = old.order96L ∧ new.keys = old.keys ∧ new.factory = old.factory ∧
  new.factoryAux = old.factoryAux ∧ new.lbSig = old.lbSig ∧ new.lbCount = old.lbCount ∧ new.lbGen = old.lbGen ∧
  new.lbSeed = old.lbSeed ∧ new.hubSig = old.hubSig ∧ new.hubGen = old.hubGen ∧ new.sliceSig = old.sliceSig ∧
  old.revoked &&& ~~~new.revoked = 0 ∧ old.minCells <+: new.minCells

/-- The gates of a front-end are as the hardware holds them: no switch conducts whose trip latch stands (R42, R43), and none
does while the gate-drive supply is out of its limits (R56). -/
def FrontEnd.gatesOk (f : FrontEnd) : Prop := f.conducting &&& (f.sc ||| f.ot) = 0 ∧ (f.gds = false → f.conducting = 0)

/-- The outputs of a bank are as the hardware holds them: none conducts whose overload latch stands (R455), and none does
while the hardware supply-loss latch stands (R467). -/
def BankState.gatesOk (b : BankState) : Prop := b.conducting &&& b.ol = 0 ∧ (b.hwLoss = true → b.conducting = 0)

/-- No switch and no output conducts that the hardware holds off. -/
def State.gatesOk (s : State) : Prop := (∀ g : GroupId, s.fe[g].gatesOk) ∧ ∀ b : BankId, s.banks[b].gatesOk

/-- A command ends in a next state, and does not stop the block. -/
def goesOn (o : Host.Outcome State Fault Refusal) : Prop := ∃ t, o = .next t

/-! ## Frames: what a command leaves as it was -/

/-- Two states agree in all but one front-end. -/
def agreeButFe (s t : State) (g : GroupId) : Prop := t = { s with fe := t.fe } ∧ ∀ k, k ≠ g → t.fe[k] = s.fe[k]
/-- Two states agree in all but what the lanes hold of one group. -/
def agreeButGroup (s t : State) (g : GroupId) : Prop := t = { s with groups := t.groups } ∧ ∀ k, k ≠ g → t.groups[k] = s.groups[k]
/-- Two states agree in all but one bank. -/
def agreeButBank (s t : State) (b : BankId) : Prop := t = { s with banks := t.banks } ∧ ∀ k, k ≠ b → t.banks[k] = s.banks[k]
/-- Two states agree in all but one lane. -/
def agreeButLane (s t : State) (l : LaneId) : Prop := t = { s with lanes := t.lanes } ∧ ∀ k, k ≠ l → t.lanes[k] = s.lanes[k]
/-- Two states agree in all but one hub. -/
def agreeButHub (s t : State) (h : HubId) : Prop := t = { s with hubs := t.hubs } ∧ ∀ k, k ≠ h → t.hubs[k] = s.hubs[k]
/-- Two states agree in all but the lanes. -/
def agreeButLanes (s t : State) : Prop := t = { s with lanes := t.lanes }
/-- Two states agree in all but the mailbox path and the log: the rings and transactions, the queue memories, the event
log in flash. -/
def agreeButReports (s t : State) : Prop :=
  t = { s with mail := t.mail, hubs := t.hubs, flash := t.flash } ∧ t.flash = { s.flash with log := t.flash.log } ∧
  ∀ h : HubId, t.hubs[h] = { s.hubs[h] with qmem := t.hubs[h].qmem }

/-! ## Commands of the mailbox path -/

/-- A complete command that an opcode's row in R341 admits: the rings are open and no other transaction stands; a lane is in
the vote; the command has room, and passes the checks of R308 and R336. -/
structure State.Admits (s : State) (c : MailCmd) (op : Nat) : Prop where
  up : s.mailUp = true
  alone : s.mail.txns = []
  vote : s.activeLanes ≠ []
  room : s.mail.rings[c.ring].used + entriesOf (8 + c.payload.length) ≤ 32
  tag : c.tag.toNat < 64
  row : ∃ i, opInfo op = some i ∧ s.srcAllowed i c.src c.ring = true ∧ i.modes.allows s.mode.mode = true ∧
    i.life.allows s.mode.lifecycle = true ∧ i.lo ≤ c.payload.length ∧ c.payload.length ≤ i.hi
  /-- The two opcodes whose length rests on their payload: PARAM_WRITE (R353) and TEACH (R359). -/
  size : (op = 0x0101 → ∃ n k, recShape (leAt c.payload 0 1) = some (n, k) ∧ leAt c.payload 2 2 < n ∧ c.payload.length = 4 + k) ∧
    (op = 0x0203 → c.payload.length = 4 + 8 * leAt c.payload 0 1)

/-- A hub differs from what it was in its queue memory alone, and in the count of segments dropped (R249). -/
def HubState.mailPart (H : HubState) (m : List Host.Cell) (n : DWord) : HubState :=
  { H with qmem := m, bus := { H.bus with cnt := { H.bus.cnt with segDropped := n } } }
/-- Two states agree in all but the mailbox path: rings, transactions and turns, the queue memories and counts of dropped segments
of the hubs, and the instant of the last command of an update session's owner (R520). -/
def agreeButMail (s t : State) : Prop :=
  t = { s with
    mail := { s.mail with rings := t.mail.rings, txns := t.mail.txns, nextNum := t.mail.nextNum, turn := t.mail.turn }
    hubs := t.hubs
    upd := { s.upd with lastCmd := t.upd.lastCmd } } ∧
  ∀ h : HubId, t.hubs[h] = s.hubs[h].mailPart t.hubs[h].qmem t.hubs[h].bus.cnt.segDropped

/-- A command stands as the one transaction, started by every lane that was in the vote; where its answer is known, each of
them has handed it over (R311, R312). -/
def State.Executed (s t : State) (c : MailCmd) (op : Nat) (o : Option Reply) : Prop :=
  ∃ x, t.mail.txns = [x] ∧ x.num = s.mail.nextNum ∧ x.src = c.src ∧ x.octets = cmdOctets c op ∧ x.outcome = o ∧ x.done = false ∧
    ∀ l ∈ s.activeLanes, has x.started l = true ∧ x.replies[l] = o
/-- A message stands in a ring, or waits for its room. -/
def Holds (s : State) (q : RingId) (bs : Bytes) : Prop := ∃ m, (m ∈ s.mail.rings[q].msgs ∨ m ∈ s.mail.rings[q].waiting) ∧ m.octets = bs
/-- The response of a lane to a stored message: RESP, LSPEC and the lane's number, with MORE while another lane is to answer
(R307, R313). -/
def laneResponse (bs : Bytes) (r : Reply) (l : LaneId) (more : Bool) : Bytes :=
  header (msgTag bs) (1 + (16 + 32 * l.val + if more then 8 else 0)) (msgOp bs) r.status r.payload.length ++ r.payload
/-- Every lane in the vote has put its own response to a command into the response ring of the source, or behind it, with MORE
in all but the last of them (R313). -/
def State.LanesAnswer (s t : State) (c : MailCmd) (op : Nat) (r : LaneId → Reply) : Prop :=
  ∀ l ∈ s.activeLanes, Holds t (respRing c.src) (laneResponse (cmdOctets c op) (r l) l (decide (s.activeLanes.getLast? ≠ some l)))

/-- Of the front-ends nothing has changed but that a group holds no source enabled whose channel has no code to drive (R179). -/
def State.trimmed (s t : State) : Prop :=
  ∀ g : GroupId, t.fe[g] = s.fe[g] ∨
    t.fe[g] = s.fe[g].setProbe (s.fe[g].probeEn &&& maskOf fun (k : Fin 8) => t.hasProbe (chanOf g k)) s.now
/-- A lane is as it was, but that where the images of the next action point are handed over and it is not too late for others,
a lane in the vote that has its images hands over what it now derives (R360, R364, R400). -/
def State.handsOverAnew (s t : State) : Prop :=
  ∀ l : LaneId, t.lanes[l] =
    if s.mode.voted = true ∧ s.pastHandOver = false ∧ s.active l = true ∧ s.lanes[l].noImage = false then
      { s.lanes[l] with drive := { s.lanes[l].drive with next := t.derive l } } else s.lanes[l]

/-! ## Answers that come later, the register window, and resets -/

/-- A transaction has its answer, and each lane that had started it and not replied has handed the answer over; every other
transaction is as it was. -/
def State.Answered (s t : State) (n : Nat) (r : LaneId → Reply) : Prop :=
  ∀ x ∈ s.mail.txns, (x.num ≠ n → x ∈ t.mail.txns) ∧
    (x.num = n → ∃ y ∈ t.mail.txns, y.num = n ∧ y.src = x.src ∧ y.octets = x.octets ∧ y.outcome.isSome = true ∧
      ∀ l : LaneId, has x.started l = true → x.replies[l] = none → y.replies[l] = some (r l))
/-- A state in which nothing but what a hub's port reports of a transaction of one word has changed (R8, R330, R393): accepted
(cause 0) or refused with a cause at an address, and whether a reserved bit was written as 1; each is counted. -/
def State.reported (s : State) (h : HubId) (cause a : Nat) (rsv : Bool) : State :=
  { s with
    hubs := s.hubs.set h { s.hubs[h] with win := { s.hubs[h].win with
      ref := decide (cause ≠ 0), refCause := BitVec.ofNat 3 cause, refAddr := if cause = 0 then 0 else BitVec.ofNat 16 a, rsv := rsv, abort := false } }
    mode := { s.mode with
      refusedX := if h = 0 ∧ cause ≠ 0 then s.mode.refusedX + 1 else s.mode.refusedX
      refusedY := if h = 1 ∧ cause ≠ 0 then s.mode.refusedY + 1 else s.mode.refusedY
      rsvX := if h = 0 ∧ rsv = true then s.mode.rsvX + 1 else s.mode.rsvX
      rsvY := if h = 1 ∧ rsv = true then s.mode.rsvY + 1 else s.mode.rsvY } }
/-- The module has been reset (R380): all is at its reset value but time, the commands still waiting, the one-time-programmable
memory, the stored wear values, and the flash stores, whose log holds more. -/
def State.restarted (s t : State) : Prop :=
  t = { State.reset with now := s.now, fresh := s.fresh, pending := s.pending, otp := s.otp, wearStore := s.wearStore, flash := t.flash,
                         mode := { State.reset.mode with resetAt := s.now } } ∧
  t.flash = { s.flash with log := t.flash.log, slots := t.flash.slots } ∧ s.flash.log <+: t.flash.log ∧
  (s.upd.st ≠ .receiving → t.flash.slots = s.flash.slots)

end Sys2Proof.Machine
end

