-- ==== Sys2Proof/Certificates/Slice0/Obligations.lean ====
section
/-!
DEFINITION. The statements about the block: what each command does, what it leaves as it was, and what no step ever
breaks. Each names the numbered rules of the spec that it formalises.
-/

open Sys2Proof Sys2Proof.Machine

/-- For every command c and state s with c at the front of its queue, step at s is exec c at s with the rest of the queue;
with an empty queue one tick of time passes: step answers the state one tick later, the queue still empty, after
which, in a running module, each hub whose own count begins a cycle that the lanes do not begin with it has begun it,
and the lanes evaluate where a whole 100 us of lane time is reached (the model's choice, notes/assumptions/3.md,
114.md). -/
def Obligations.StepRunsTheFrontCommand : Prop :=
  (∀ (c : Instr) (rest : List Instr) (s : State), s.pending = c :: rest → step s = exec c { s with pending := rest }) ∧
  ∀ s : State, s.pending = [] → ∃ t, step s = .next t ∧ t.now = s.now + 1 ∧ t.pending = [] ∧
    let u := s.tick
    let v := u.each allHubs fun x h => if x.hubOwnDue h then x.hubStart h else x
    t = if u.mode.mode.runs = true then (if u.reaches 20000 = true then v.evaluate else v) else u

/-- For every command c and state s: exec c at s answers a next state, whose queue of waiting commands and whose time are
those of s. (The block as the model cuts it: the queue and the tick are the model's own, notes/assumptions/3.md.) -/
def Obligations.CommandsKeepQueueAndTime : Prop :=
  ∀ (c : Instr) (s : State), ∃ t, exec c s = .next t ∧ t.pending = s.pending ∧ t.now = s.now

/-- For every state s whose memories are in their canonical form (addresses strictly rising, no entry that holds what an
unlisted octet reads as), if step at s answers next t, the memories of t are in that form. (The form is the model's,
notes/assumptions/5.md; the memories are those of R305 and R299.) -/
def Obligations.MemoriesStayCanonical : Prop :=
  ∀ s t : State, s.memOk → step s = .next t → t.memOk

/-- At State.reset the mode is THAW, the memories are in their canonical form and read zero everywhere, no gate conducts
that the hardware holds off, the queue of waiting commands is empty, no transaction stands and no lane is in the vote. -/
def Obligations.ResetStartsInThaw : Prop :=
  State.reset.mode.mode = .thaw ∧ State.reset.memOk ∧ State.reset.gatesOk ∧ State.reset.pending = [] ∧ State.reset.mail.txns = [] ∧
  State.reset.faults = [] ∧ State.reset.activeLanes = [] ∧
  (∀ (h : HubId) (a : Nat), Memory.read State.reset.hubs[h].qmem a = 0) ∧
  ∀ (l : LaneId) (a : Nat), Memory.read State.reset.lanes[l].sram a = 0

/-- For every state s, if step at s answers next t, the one-time-programmable memory of t comes from that of s by
programming cells: the chip identities, the order variant, the image keys, the factory coefficients and the logic BIST
references are the same, every revocation bit set in s is set in t, and the minimum-version cells of s stand first
among those of t. -/
def Obligations.OtpIsOnlyProgrammed : Prop :=
  ∀ s t : State, step s = .next t → t.otp.programmedFrom s.otp

/-- For every state s in which no channel conducts whose SHORT or OVERTEMP hardware latch stands, none conducts in a group
whose GDS is false, no field output conducts whose overload latch stands and none on a bank whose hardware supply-loss
latch stands: if step at s answers next t, the same holds of t. It holds in every state, whatever frames arrive, not
only on runs from reset. -/
def Obligations.HeldGatesNeverConduct : Prop :=
  ∀ s t : State, s.gatesOk → step s = .next t → t.gatesOk

/-- For every group g, lane input l with a reference frame v, received frame w of which n bits arrived, and channel
position k: DRIVE_FRAME answers a next state in which (a) if bit k arrived equal to that of v, the vote of k at that
input is cleared, TG is low and OFF is high, valid frame or not; (b) if the frame is valid (R49) and bit k is the
complement of that of v, the vote is set, TG is inverted and OFF is low; (c) if the frame is not valid and bit k did
not arrive equal, vote, TG and OFF are as before. The other inputs of the group and the other groups are as before. -/
def Obligations.DriveFrameSetsAndClearsVotes : Prop :=
  ∀ (g : GroupId) (l : LaneId) (w v : BitVec 16) (n : Nat) (fs : Bool) (hot : PosMask) (s : State) (k : Position),
    k.val < 8 → n ≤ 16 → s.fe[g].inp[l].last = some v →
    ∃ t, exec (.driveFrame (.grp g) l (.bits w n fs) hot) s = .next t ∧
      ((k.val < n ∧ w.getLsbD k.val = v.getLsbD k.val →
          has t.fe[g].inp[l].vote k = false ∧ has t.fe[g].inp[l].tg k = false ∧ has t.fe[g].inp[l].off k = true) ∧
       (frameValid s.fe[g].inp[l] l w n fs false = true ∧ w.getLsbD k.val ≠ v.getLsbD k.val →
          has t.fe[g].inp[l].vote k = true ∧ has t.fe[g].inp[l].tg k = !has s.fe[g].inp[l].tg k ∧ has t.fe[g].inp[l].off k = false) ∧
       (frameValid s.fe[g].inp[l] l w n fs false = false ∧ ¬(k.val < n ∧ w.getLsbD k.val = v.getLsbD k.val) →
          has t.fe[g].inp[l].vote k = has s.fe[g].inp[l].vote k ∧ has t.fe[g].inp[l].tg k = has s.fe[g].inp[l].tg k ∧
          has t.fe[g].inp[l].off k = has s.fe[g].inp[l].off k)) ∧
      (∀ j, j ≠ l → t.fe[g].inp[j] = s.fe[g].inp[j]) ∧ ∀ h, h ≠ g → t.fe[h] = s.fe[h]

/-- For every group g and lane input l on which no valid frame has completed for 24 us (4,800 ticks), or none at all,
DRIVE_LOSS_TIMER answers a next state in which the input holds no on-vote and no reference frame; on a bank the time
is 40 us. Nothing but that front-end or bank changes, and in it no other lane input. PUMP_STARVATION answers a next
state in which a switch without a majority of on-votes does not conduct, and a switch with one is as before; nothing
else changes. -/
def Obligations.DriveLossClearsEveryVote : Prop :=
  (∀ (g : GroupId) (l : LaneId) (s : State), (∀ a, s.fe[g].inp[l].lastAt = some a → a + 4800 ≤ s.now) →
    ∃ t, exec (.driveLossTimer (.grp g) l) s = .next t ∧ t.fe[g].inp[l].vote = 0 ∧ t.fe[g].inp[l].last = none ∧
      (∀ j, j ≠ l → t.fe[g].inp[j] = s.fe[g].inp[j]) ∧ agreeButFe s t g) ∧
  (∀ (b : BankId) (l : LaneId) (s : State), (∀ a, s.banks[b].inp[l].lastAt = some a → a + 8000 ≤ s.now) →
    ∃ t, exec (.driveLossTimer (.bank b) l) s = .next t ∧ t.banks[b].inp[l].vote = 0 ∧ t.banks[b].inp[l].last = none ∧
      (∀ j, j ≠ l → t.banks[b].inp[j] = s.banks[b].inp[j]) ∧ agreeButBank s t b) ∧
  (∀ (g : GroupId) (k : Position) (s : State), k.val < 8 →
    ∃ t, exec (.pumpStarvation (.grp g) k) s = .next t ∧
      (has (voteMaj s.fe[g].inp) k = false → t.fe[g].conducting.getLsbD k.val = false) ∧
      (∀ j : Fin 8, j.val ≠ k.val ∨ has (voteMaj s.fe[g].inp) k = true → has t.fe[g].conducting j = has s.fe[g].conducting j) ∧ agreeButFe s t g) ∧
  ∀ (b : BankId) (k : Position) (s : State),
    ∃ t, exec (.pumpStarvation (.bank b) k) s = .next t ∧
      (has (voteMaj s.banks[b].inp) k = false → has t.banks[b].conducting k = false) ∧
      (∀ j, j ≠ k ∨ has (voteMaj s.banks[b].inp) k = true → has t.banks[b].conducting j = has s.banks[b].conducting j) ∧ agreeButBank s t b

/-- For every channel, SHORT_CIRCUIT_TRIP answers a next state in which the SHORT hardware latch of the channel is set and
its switch does not conduct, OVERTEMP_TRIP the same with its own latch; every other channel is as before. A short
circuit also triggers the injected sequence of the converter (R101), and either trip begins a settle interval of 10 ms
of the channel (R124). GATE_DRIVE_SUPPLY answers a next state in which GDS is as given and, where false, no switch of
the group conducts. Nothing else changes. -/
def Obligations.TripsOpenAndLatch : Prop :=
  (∀ (c : Chan) (s : State), ∃ t, exec (.shortCircuitTrip c) s = .next t ∧ has t.fe[c.group].sc c.pos = true ∧
    has t.fe[c.group].conducting c.pos = false ∧ t.fe[c.group].ot = s.fe[c.group].ot ∧
    (∀ k, k ≠ c.pos → has t.fe[c.group].sc k = has s.fe[c.group].sc k ∧ has t.fe[c.group].conducting k = has s.fe[c.group].conducting k) ∧
    t.fe[c.group].aux = s.fe[c.group].aux.trigger 2 s.now s.fe[c.group].refs ∧
    ∃ u, agreeButFe s u c.group ∧ t = u.settles c s.now (s.now + 10 * Config.ms)) ∧
  (∀ (c : Chan) (s : State), ∃ t, exec (.overtempTrip c) s = .next t ∧ has t.fe[c.group].ot c.pos = true ∧
    has t.fe[c.group].conducting c.pos = false ∧ t.fe[c.group].sc = s.fe[c.group].sc ∧
    (∀ k, k ≠ c.pos → has t.fe[c.group].ot k = has s.fe[c.group].ot k ∧ has t.fe[c.group].conducting k = has s.fe[c.group].conducting k) ∧
    t.fe[c.group].aux = s.fe[c.group].aux ∧ ∃ u, agreeButFe s u c.group ∧ t = u.settles c s.now (s.now + 10 * Config.ms)) ∧
  ∀ (g : GroupId) (ok : Bool) (s : State), ∃ t, exec (.gateDriveSupply g ok) s = .next t ∧ t.fe[g].gds = ok ∧
    (ok = false → t.fe[g].conducting = 0) ∧ (ok = true → t.fe[g].conducting = s.fe[g].conducting) ∧
    t.fe[g].sc = s.fe[g].sc ∧ t.fe[g].ot = s.fe[g].ot ∧ agreeButFe s t g

/-- With the tick in which lane time reaches a whole multiple of 10 us, OVERLAY_WORD answers a next state in which every
lane's DRIVE domain holds the overlay state of that lane, and an added on that it still counts runs on beside it (the
count is the DRIVE block's, notes/assumptions/127.md); at any other instant it changes nothing; nothing but the lanes
changes. DIMMING_EDGE answers a next state in which, in every lane in the vote that dims the channel while the present
millisecond of global time is in the phase of the edge, by the duty of the channel's command, the dimming overlay
withdraws the channel's on in the off-phase and not in the on-phase; what every other lane drives, and every image,
stays. -/
def Obligations.OverlaysReachTheDriveDomain : Prop :=
  (∀ s : State, s.reaches 2000 = true → ∃ t, exec .overlayWord s = .next t ∧
    (∀ l : LaneId, t.lanes[l].drive.sent = s.lanes[l].drive.ov.word s.lanes[l].drive.sent ∧ t.lanes[l].drive.sent.off = s.lanes[l].drive.ov.off ∧
      t.lanes[l].drive.sent.dimOff = s.lanes[l].drive.ov.dimOff ∧ t.lanes[l].drive.sent.ptOff = s.lanes[l].drive.ov.ptOff ∧
      t.lanes[l].drive.img = s.lanes[l].drive.img) ∧ agreeButLanes s t) ∧
  (∀ s : State, s.reaches 2000 = false → exec .overlayWord s = .next s) ∧
  ∀ (c : Chan) (on : Bool) (s : State), ∃ t, exec (.dimmingEdge c on) s = .next t ∧
    ∀ l : LaneId, t.lanes[l].drive.img = s.lanes[l].drive.img ∧
      (s.active l = true → has s.lanes[l].drive.img.dim c = true →
        inOnPhase (s.lampParams.dimDuty c s.lanes[l].inForce.cmd[c]) s.laneTime = on → has t.lanes[l].drive.ov.dimOff c = !on) ∧
      (s.active l = false ∨ has s.lanes[l].drive.img.dim c = false ∨
        inOnPhase (s.lampParams.dimDuty c s.lanes[l].inForce.cmd[c]) s.laneTime ≠ on → t.lanes[l].drive = s.lanes[l].drive)

/-- For every point, OUTPUT_OVERLOAD and OUTPUT_THERMAL_SHUTDOWN answer a next state in which the overload latch of the
point stands in its bank and its output does not conduct, with every other point of the bank as before and nothing
else of the state changed; the latch is marked as a thermal one by the second command alone. -/
def Obligations.BankOutputsLatchOff : Prop :=
  ∀ (p : Point) (s : State),
    (∃ t, exec (.outputOverload p) s = .next t ∧ has t.banks[p.bank].ol p.pos = true ∧ has t.banks[p.bank].conducting p.pos = false ∧
      t.banks[p.bank].thermal = s.banks[p.bank].thermal ∧ agreeButBank s t p.bank ∧
      ∀ k, k ≠ p.pos → has t.banks[p.bank].ol k = has s.banks[p.bank].ol k ∧ has t.banks[p.bank].conducting k = has s.banks[p.bank].conducting k) ∧
    ∃ t, exec (.outputThermalShutdown p) s = .next t ∧ has t.banks[p.bank].ol p.pos = true ∧ has t.banks[p.bank].conducting p.pos = false ∧
      has t.banks[p.bank].thermal p.pos = true ∧ agreeButBank s t p.bank ∧
      ∀ k, k ≠ p.pos → has t.banks[p.bank].ol k = has s.banks[p.bank].ol k ∧ has t.banks[p.bank].conducting k = has s.banks[p.bank].conducting k ∧
        has t.banks[p.bank].thermal k = has s.banks[p.bank].thermal k

/-- BANK_SUPPLY_CONDITION answers a next state in which: on loss, unless the bank has it in hardware and in every lane in
the vote already, the hardware supply-loss latch of the bank stands, no output of it conducts, its loss count is one
higher, every lane in the vote holds its supply-loss latch for the bank, and the fault SUPPLY_LOSS of the bank stands;
on a warning, or its end, the warning is held, or not; on missing where it was not, the bank is missing and
SUPPLY_MISSING of it stands; on the end of missing the bank is not missing and that fault does not stand. The gates
and inputs of the bank are as before in all but the loss, and so is every other bank. -/
def Obligations.BankSupplyConditions : Prop :=
  ∀ (b : BankId) (s : State),
    ((s.banks[b].hwLoss = false ∨ ∃ l : LaneId, s.active l = true ∧ has s.lanes[l].due.supplyLoss b = false) →
      ∃ t, exec (.bankSupplyCondition b .lossOn) s = .next t ∧ t.banks[b].hwLoss = true ∧ t.banks[b].conducting = 0 ∧
      t.banks[b].lossCnt = s.banks[b].lossCnt + 1 ∧ (∀ l : LaneId, s.active l = true → has t.lanes[l].latches.supplyLoss b = true) ∧
      t.stands FaultCode.supplyLoss [b.val] = true ∧ ∀ k, k ≠ b → t.banks[k] = s.banks[k]) ∧
    (∃ t, exec (.bankSupplyCondition b .warnOn) s = .next t ∧ t.banks[b] = { s.banks[b] with warn := true } ∧ ∀ k, k ≠ b → t.banks[k] = s.banks[k]) ∧
    (∃ t, exec (.bankSupplyCondition b .warnOff) s = .next t ∧ t.banks[b] = { s.banks[b] with warn := false } ∧ agreeButBank { s with tests := t.tests } t b) ∧
    (s.banks[b].missing = false → ∃ t, exec (.bankSupplyCondition b .missOn) s = .next t ∧ t.banks[b] = { s.banks[b] with missing := true } ∧
      t.stands FaultCode.supplyMissing [b.val] = true ∧ ∀ k, k ≠ b → t.banks[k] = s.banks[k]) ∧
    ∃ t, exec (.bankSupplyCondition b .missOff) s = .next t ∧ t.banks[b] = { s.banks[b] with missing := false } ∧
      t.stands FaultCode.supplyMissing [b.val] = false ∧ ∀ k, k ≠ b → t.banks[k] = s.banks[k]

/-- For a lane in the vote, BANK_SAMPLE_FRAME answers a next state in which (a) if the CRC of the frame is good and its
MIDX none of the reserved values 14 and 15, the lane holds the frame as its last good one with no bad frame counted;
(b) if not, the lane holds its last good frame as before with the bad frame counted, and from the third bad frame in a
row on it holds MEAS_LINK. In both, the other banks of the lane, and the banks of the other lanes, are as before, and
the bank's next frame to the lane carries the next quantity of MIDX. A frame that arrives as it was sent is the one
that the bank forms from its inputs and switches. -/
def Obligations.BankSampleFramesAreTakenOrDiscarded : Prop :=
  ∀ (l : LaneId) (b : BankId) (w : BankBits) (s : State), s.active l = true →
    ∃ t, exec (.bankSampleFrame l b (.bits w)) s = .next t ∧
      (BankF.crcOk w = true ∧ BankF.midx w < 14 → t.lanes[l].bank[b].frame = w ∧ t.lanes[l].bank[b].bad = 0) ∧
      (BankF.crcOk w = false ∨ 14 ≤ BankF.midx w → t.lanes[l].bank[b].frame = s.lanes[l].bank[b].frame ∧ t.lanes[l].bank[b].bad = s.lanes[l].bank[b].bad + 1 ∧
        (2 ≤ s.lanes[l].bank[b].bad → t.lanes[l].bank[b].measLink = true)) ∧
      (∀ k, k ≠ b → t.lanes[l].bank[k] = s.lanes[l].bank[k]) ∧ (∀ k, k ≠ l → t.lanes[k].bank = s.lanes[k].bank) ∧ t.banks[b].midx[l] = (s.banks[b].midx[l] + 1) % 14 ∧
      (∀ k, k ≠ l → t.banks[b].midx[k] = s.banks[b].midx[k]) ∧
      ∀ (raw rb cl : PosMask) (sup : BitVec 3) (mval : Word), s.banks[b].frame l s.now raw rb cl sup mval = w →
        exec (.bankSampleFrame l b (.asSent raw rb cl sup mval)) s = .next t

/-- For every output at which no field test runs, no Coppice window is open and the supply allows it, whose off-test is
enabled, at a 10 us grid instant: where its off-test is due and it is derived on in every lane in the vote,
FIELD_OFF_TEST_START answers a next state with the test in progress from now, with the other outputs then on as its
partners, and the output withdrawn in every lane in the vote; where it is derived off in every lane in the vote, its
majority test is due and no DRIVE_LINK stands for its bank, FIELD_MAJORITY_TEST answers one in which the lane whose
turn it is adds the output for eight frames and the next lane follows in turn. 200 us after its start a test that
waits for no pulse, with judged samples that show neither gate sense nor read-back, is over at FIELD_OFF_TEST_END,
withdraws nothing, and has restarted the proof timer; a majority test without a bad reading is over 40 us after its
overlay at the latest, adds nothing and has restarted it too. -/
def Obligations.FieldOutputTests : Prop :=
  (∀ (p : Point) (s : State), s.fieldTestFree p = true → s.params.isOut p = true → s.params.otEn p = true → s.reaches 2000 = true → s.mode.mode.runs = true →
    (∃ d, s.tests.point[p].nextOff = some d ∧ d ≤ s.now) → (∀ l : LaneId, s.active l = true → has s.lanes[l].drive.img.pts p = true) →
    ∃ t, exec (.fieldOffTestStart p) s = .next t ∧ t.tests.field = some { p := p, t0 := s.now, partners := s.otherOn p } ∧
      (∀ l : LaneId, s.active l = true → has t.lanes[l].drive.ov.ptOff p = true) ∧ (∀ l : LaneId, t.lanes[l].drive.img = s.lanes[l].drive.img) ∧
      t = { s with lanes := t.lanes, tests := t.tests }) ∧
  (∀ (p : Point) (l : LaneId) (s : State), s.fieldLaneNow p = some l → s.fieldTestFree p = true → s.params.isOut p = true → s.params.otEn p = true → s.reaches 2000 = true →
    s.mode.mode.runs = true → (∀ d, s.tests.point[p].nextMaj = some d → d ≤ s.now) →
    (∀ x : LaneId, s.stands FaultCode.driveLink [12 + p.bank.val, x.val] = false) → (∀ l : LaneId, s.active l = true → has s.lanes[l].drive.img.pts p = false) →
    ∃ t, exec (.fieldMajorityTest p) s = .next t ∧ has t.lanes[l].drive.ov.ptAdd p = true ∧ (96 + p.val, 8) ∈ t.lanes[l].drive.ov.frames ∧
      t.tests.fieldMaj = some { p := p, lane := l, t0 := s.now } ∧ t.tests.point[p].lane = l + 1 ∧ (∀ k, k ≠ l → t.lanes[k] = s.lanes[k]) ∧
      t = { s with lanes := t.lanes, tests := t.tests }) ∧
  (∀ (r : FieldMajRun) (s : State), s.tests.fieldMaj = some r → r.t0 + 21480 ≤ s.now →
    ∃ t, exec (.fieldMajorityTest r.p) s = .next t ∧ t.tests.fieldMaj = none ∧ t.tests.point[r.p].proofNow t.now = 0 ∧
      has t.lanes[r.lane].drive.ov.ptAdd r.p = false ∧ has t.lanes[r.lane].drive.sent.ptAdd r.p = false ∧ ∀ k, k ≠ r.lane → t.lanes[k] = s.lanes[k]) ∧
  ∀ (r : FieldTestRun) (s : State), s.tests.field = some r → r.partner = none → r.waits = false → r.t0 + 40000 ≤ s.now → r.samples ≠ [] →
    (∀ x ∈ r.samples, x.gs = false ∧ x.rb = false) →
    ∃ t, exec (.fieldOffTestEnd r.p) s = .next t ∧ t.tests.field = none ∧ t.tests.point[r.p].proofNow t.now = 0 ∧ ∀ l : LaneId, s.active l = true → has t.lanes[l].drive.ov.ptOff r.p = false

/-- With the tick in which lane time reaches a whole millisecond, for a point p whose input pair is r in a lane in the
vote that has not sampled the pair there, DISCREPANCY_SAMPLE answers a next state in which, if the two debounced
states differ, the count of the pair is one higher and DISCREPANCY is held once the count reaches DISC_TIME, and if
they agree the count is 0 and DISCREPANCY is not held. FB_TIME after an edge of a contactor's output CONTACTOR_JUDGE
answers a next state in which the edge has been judged, and in which the fault CONTACTOR_WELDED stands if a lane in
the vote holds the output off and reads the feedback 0, and CONTACTOR_NO_CLOSE if one holds it on and reads 1. -/
def Obligations.PairsAndContactorsAreJudged : Prop :=
  (∀ (l : LaneId) (p r : Point) (s : State), pointAt (s.params.pair p) = some r → p ≠ r → s.params.isIn p = true → s.params.isIn r = true →
    s.active l = true → s.reaches 200000 = true → s.lanes[l].pts[p].discAt ≠ some s.now →
    ∃ t, exec (.discrepancySample l p) s = .next t ∧
      (s.inputState l p ≠ s.inputState l r → t.lanes[l].pts[p].discCount = s.lanes[l].pts[p].discCount + 1 ∧
        (s.params.discTime p ≤ s.lanes[l].pts[p].discCount + 1 → t.lanes[l].pts[p].discrepancy = true ∧ t.lanes[l].pts[r].discrepancy = true)) ∧
      (s.inputState l p = s.inputState l r → t.lanes[l].pts[p].discCount = 0 ∧ t.lanes[l].pts[p].discrepancy = false ∧ t.lanes[l].pts[r].discrepancy = false)) ∧
  ∀ (g : GroupId) (k : Contactor) (s : State) (a : Nat) (e : Bool), s.groups[g].edgeOf (k == .a) = some (a, e) → a + s.params.fbTime g * 200000 ≤ s.now →
    ∃ t, exec (.contactorJudge g k) s = .next t ∧ t.groups[g].edgeOf (k == .a) = none ∧
      ((∃ l : LaneId, s.active l = true ∧ s.contactorOn l g (k == .a) = false ∧ s.feedback l g (k == .a) = false) →
        t.stands FaultCode.contactorWelded [g.val, s.params.outOf g (k == .a)] = true) ∧
      ((∃ l : LaneId, s.active l = true ∧ s.contactorOn l g (k == .a) = true ∧ s.feedback l g (k == .a) = true) →
        t.stands FaultCode.contactorNoClose [g.val, s.params.outOf g (k == .a)] = true)

/-- For a lane that decimates a group whose samples it can judge, and a channel in use that is derived on, with no test of
its group or transition of its own in progress, whose next sample has a voltage and a current, lies after the last
change, is not below a tenth of the largest voltage, and lies in no excluded interval: FAST_SAMPLE answers a next
state in which the row has been judged for the channel and the sample, good or bad by R144, stands first in its lit
window; if FAIL_DARK was not held and FILT_DARK samples of the window are bad, FAIL_DARK is held with the cause of the
lit rule and LIT_OK is not; if neither is so, LIT_OK was not held and FILT_LIT good samples have come in a row from
the end of WARMUP on, LIT_OK is held and the channel is not warming. No other channel's proving state changes. -/
def Obligations.LitSamplesDecideFailDark : Prop :=
  ∀ (l : LaneId) (c : Chan) (r : FastRow) (x : Judged) (s : State),
    s.nextRow l c.group c.pos = some r → s.sampleOf l c.group c.pos r = some x → s.decimates l c.group = true → s.blind l c.group = false →
    s.lampParams.configured c = true → s.groups[c.group].test = none → s.tests.chan[c].trans = none →
    x.both = true → s.lanes[l].prov[c].changeAt ≤ x.t → s.lanes[l].prov[c].recmdAt ≤ x.t → s.lanes[l].prov[c].cmdAt ≤ x.t → s.isOn l c = true →
    peakOf (if s.lanes[l].prov[c].litAts.headD 0 ≤ x.tv then pushPeak s.lanes[l].prov[c].vHist x.tv x.v.natAbs else s.lanes[l].prov[c].vHist)
      ≤ 10 * x.v.natAbs →
    otExcludes s.lampParams c s.lanes[l].prov[c] x.t = false → litFrom s.lampParams c s.lanes[l].prov[c].onAt ≤ x.t →
    has s.lanes[l].drive.img.dim c = false →
    ∃ t, exec (.fastSample l c) s = .next t ∧ (t.lanes[l].grp[c.group]).judged[c.pos] = r.n ∧
      (let w := pushWin s.lanes[l].prov[c].litWin (badLit s.lampParams c x) (s.lampParams.filtDark c + s.lampParams.filtTol c)
       let run := if badLit s.lampParams c x then 0 else if warmEnd s.lampParams c s.lanes[l].prov[c] ≤ x.t then s.lanes[l].prov[c].goodRun + 1 else 0
       t.lanes[l].prov[c].litWin = w ∧ t.lanes[l].prov[c].goodRun = run ∧
       (s.lanes[l].prov[c].failDark = false → s.lampParams.filtDark c ≤ w.countP (· == true) →
          t.lanes[l].prov[c].failDark = true ∧ t.lanes[l].prov[c].darkCause = .litRule ∧ t.lanes[l].prov[c].litOk = false) ∧
       (s.lanes[l].prov[c].failDark = false → w.countP (· == true) < s.lampParams.filtDark c → s.lanes[l].prov[c].litOk = false →
          s.lampParams.filtLit c ≤ run → t.lanes[l].prov[c].litOk = true ∧ t.lanes[l].prov[c].warming = false)) ∧
      ∀ d, d ≠ c → t.lanes[l].prov[d] = s.lanes[l].prov[d]

/-- For a lane that decimates a group whose samples it can judge, and a channel of a class other than 0, inside CH_USED
and derived off with no test of its group or transition of its own in progress, or outside CH_USED, whose next sample
has a current and lies after its DECAY and after the last changes: FAST_SAMPLE answers a next state in which the
sample stands first in the dark window as one at or above DARK_I, or below; FAIL_LIT is held if it was, or if
FILT_FLIT samples of the window are at or above DARK_I. No other channel's proving state changes. -/
def Obligations.DarkSamplesDecideFailLit : Prop :=
  ∀ (l : LaneId) (c : Chan) (r : FastRow) (x : Judged) (s : State),
    s.nextRow l c.group c.pos = some r → s.sampleOf l c.group c.pos r = some x → s.decimates l c.group = true → s.blind l c.group = false →
    (s.lampParams.used c = true → s.groups[c.group].test = none ∧ s.tests.chan[c].trans = none ∧ s.lanes[l].prov[c].changeAt ≤ x.t ∧ s.isOn l c = false) →
    s.lampParams.cls c ≠ 0 → x.okI = true → s.lanes[l].prov[c].cmdAt ≤ x.t → s.lanes[l].prov[c].offAt.getD 0 + s.lampParams.decayTicks c ≤ x.t →
    ∃ t, exec (.fastSample l c) s = .next t ∧
      (let w := pushWin s.lanes[l].prov[c].darkWin (atLeastMa x (s.lampParams.darkI c)) (s.lampParams.filtFlit c + s.lampParams.filtTol c)
       t.lanes[l].prov[c].darkWin = w ∧
       t.lanes[l].prov[c].failLit = (s.lanes[l].prov[c].failLit || decide (s.lampParams.filtFlit c ≤ w.countP (· == true)))) ∧
      ∀ d, d ≠ c → t.lanes[l].prov[d] = s.lanes[l].prov[d]

/-- In a lane in the vote of a running module, for a configured channel that is derived on, still warming with neither
LIT_OK nor FAIL_DARK, 100 ms or more after the end of its WARMUP, NOT_PROVEN answers a next state in which the lane
holds FAIL_DARK with the cause NOT_PROVEN and no other channel's proving state has changed. In a lane in the vote that
reverts a group at stage 1, once 16 samples of every watched channel from the end of its envelope on are judged,
REVERT_ENVELOPE_JUDGE answers a next state in which, if none of them reaches the envelope, the lane latches the safe
state of the group and removes no energy, and if one does, it latches energy removal, and the safe-state latches stay
as they were. -/
def Obligations.NotProvenHoldsFailDark : Prop :=
  (∀ (l : LaneId) (c : Chan) (s : State), s.active l = true → s.mode.mode.runs = true → s.isOn l c = true → s.lampParams.configured c = true →
    s.lanes[l].prov[c].warming = true → s.lanes[l].prov[c].litOk = false → s.lanes[l].prov[c].failDark = false →
    warmEnd s.lampParams c s.lanes[l].prov[c] + 20000000 ≤ s.now →
    ∃ t, exec (.notProven l c) s = .next t ∧ t.lanes[l].prov[c].failDark = true ∧ t.lanes[l].prov[c].darkCause = .notProven ∧
      ∀ d, d ≠ c → t.lanes[l].prov[d] = s.lanes[l].prov[d]) ∧
  ∀ (l : LaneId) (g : GroupId) (s : State) (a : Nat), s.active l = true → s.lanes[l].latches.reverting g = true → has s.lanes[l].latches.energy g = false →
    (s.lanes[l].rev[g]).stage1At = some a →
    (∀ c ∈ (s.lanes[l].rev[g]).watched s.params g, a + s.params.decayTicks c ≤ s.now ∧ 16 ≤ (s.envJudged l c (a + s.params.decayTicks c)).length) →
    ∃ t, exec (.revertEnvelopeJudge g) s = .next t ∧
      ((∀ c ∈ (s.lanes[l].rev[g]).watched s.params g, ∀ x ∈ s.envJudged l c (a + s.params.decayTicks c),
          x.ovI = false ∧ overEnvelope s.params c x.i = false) →
        t.lanes[l].latches.inSafe g = true ∧ has t.lanes[l].latches.energy g = false) ∧
      ((∃ c ∈ (s.lanes[l].rev[g]).watched s.params g, ∃ x ∈ s.envJudged l c (a + s.params.decayTicks c),
          x.ovI = true ∨ overEnvelope s.params c x.i = true) →
        has t.lanes[l].latches.energy g = true ∧ t.lanes[l].latches.safeState = s.lanes[l].latches.safeState ∧
          t.lanes[l].latches.safeDark = s.lanes[l].latches.safeDark)

/-- Where an off-test of a channel is due, OFF_TEST_START answers a next state in which the test runs from now in its
group and the off overlay of the channel stands in every lane in the vote. 40 us after t0, with no fall of gate sense
seen, OFF_TEST_GATE_CHECK answers a next state in which SWITCH_FAULT of the channel is latched with the cause
GATE_STUCK in every lane in the vote, and the test has failed. 140 us after t0 OFF_TEST_END answers a next state in
which no test runs in the group and the proof timer of the channel reads 0; after a test that passed no lane withdraws
the channel, after one that failed every lane withdraws it as before. The drive images stay in the first and the last. -/
def Obligations.OffTestsWithdrawAndJudge : Prop :=
  (∀ (c : Chan) (s : State), s.offDue c = true → ∃ t, exec (.offTestStart c) s = .next t ∧
    (∃ r, t.groups[c.group].test = some r ∧ r.ch = c ∧ r.majority = false ∧ r.t0 = s.now ∧ r.failed = false) ∧
    (∀ l : LaneId, t.lanes[l].drive.img = s.lanes[l].drive.img ∧ (s.active l = true → has t.lanes[l].drive.ov.off c = true)) ∧
    ∀ h, h ≠ c.group → t.groups[h] = s.groups[h]) ∧
  (∀ (r : RunningTest) (s : State), s.groups[r.ch.group].test = some r → r.majority = false → r.failed = false → r.tOpen = none →
    r.t0 + 8000 ≤ s.now → s.tests.chan[r.ch].trans = none →
    ∃ t, exec (.offTestGateCheck r.ch) s = .next t ∧ t.groups[r.ch.group].test = some { r with failed := true } ∧
      ∀ l : LaneId, s.active l = true → has t.lanes[l].latches.switchFault r.ch = true ∧ t.lanes[l].prov[r.ch].swCause = .gateStuck) ∧
  ∀ (r : RunningTest) (s : State), s.groups[r.ch.group].test = some r → r.majority = false → r.t0 + 28000 ≤ s.now →
    ∃ t, exec (.offTestEnd r.ch) s = .next t ∧ t.groups[r.ch.group].test = none ∧ t.tests.chan[r.ch].proofNow t.now = 0 ∧
      ∀ l : LaneId, has t.lanes[l].drive.ov.off r.ch = (r.failed && has s.lanes[l].drive.ov.off r.ch) ∧ t.lanes[l].drive.img = s.lanes[l].drive.img

/-- Where a majority test of a channel is due, MAJORITY_TEST_START answers a next state in which the test runs in its
group, the test lane adds the channel for four frames, no other lane adds anything to what it held, and the next test
lane follows in the channel's own rotation. From 20 us after the overlay MAJORITY_TEST_END answers a next state in
which no test runs in the group, the test lane adds the channel no more and the proof timer reads 0. At a proof timer
of 24 h, PROOF_OVERDUE answers a next state in which the fault stands: for a channel in use under its number, for a
tested output under 96 plus its number (the model's choice, notes/assumptions/8.md). -/
def Obligations.MajorityTestsAddOneLane : Prop :=
  (∀ (c : Chan) (tl : LaneId) (s : State), s.majDue c = true → s.testLaneNow c = some tl → ∃ t, exec (.majorityTestStart c) s = .next t ∧
    (∃ r, t.groups[c.group].test = some r ∧ r.ch = c ∧ r.majority = true ∧ r.lane = tl ∧ r.t0 = s.now) ∧
    has t.lanes[tl].drive.ov.add c = true ∧ (c.val, 4) ∈ t.lanes[tl].drive.ov.frames ∧ t.tests.chan[c].lane = tl + 1 ∧
    (∀ l, l ≠ tl → t.lanes[l].drive = s.lanes[l].drive) ∧ ∀ h, h ≠ c.group → t.groups[h] = s.groups[h]) ∧
  (∀ (r : RunningTest) (s : State), s.groups[r.ch.group].test = some r → r.majority = true → r.t0 + 10740 ≤ s.now →
    ∃ t, exec (.majorityTestEnd r.ch) s = .next t ∧ t.groups[r.ch.group].test = none ∧ t.tests.chan[r.ch].proofNow t.now = 0 ∧
      has t.lanes[r.lane].drive.ov.add r.ch = false ∧ has t.lanes[r.lane].drive.sent.add r.ch = false ∧
      ∀ l, l ≠ r.lane → t.lanes[l].drive = s.lanes[l].drive) ∧
  (∀ (c : Chan) (s : State), s.params.used c = true → s.tests.chan[c].overdue = false → 17280000000000 ≤ s.tests.chan[c].proofNow s.now →
    ∃ t, exec (.proofOverdue (.chan c)) s = .next t ∧ t.stands FaultCode.proofOverdue [c.val] = true ∧ t.tests.chan[c].overdue = true ∧
      ∀ d, d ≠ c → t.tests.chan[d] = s.tests.chan[d]) ∧
  ∀ (p : Point) (s : State), s.params.isOut p = true → s.params.otEn p = true → s.tests.point[p].overdue = false →
    17280000000000 ≤ s.tests.point[p].proofNow s.now →
    ∃ t, exec (.proofOverdue (.point p)) s = .next t ∧ t.stands FaultCode.proofOverdue [96 + p.val] = true ∧ t.tests.point[p].overdue = true ∧
      ∀ d, d ≠ p → t.tests.point[d] = s.tests.point[d]

/-- For a lane in the vote, SIDE_FRAME on a run of stream words answers a next state in which (a) if the marker stands in
the first of 192 words alone and the CRC of the frame in them is good, the lane holds the frame as its last good one
with no bad frame counted, and its SHORT and OVERTEMP latches stand where they stood or where the front-end shows a
trip; (b) else the lane holds its last good frame as before with the bad frame counted, and from the third bad frame
in a row on it holds MEAS_LINK. What the lane holds of the other groups' frames and streams is as before. A stream
that arrives as it was sent is the one that the front-end forms from its own state. -/
def Obligations.SideFramesAreTakenOrDiscarded : Prop :=
  ∀ (l : LaneId) (g : GroupId) (ws : List StreamWord) (s : State), s.active l = true →
    ∃ t, exec (.sideFrame l g (.words ws)) s = .next t ∧
      (∀ w, sideOf ws = some w → Side.crcOk w = true → t.lanes[l].grp[g].side = w ∧ t.lanes[l].grp[g].bad = 0 ∧
        t.lanes[l].latches.short = s.lanes[l].latches.short ||| groupMask g (Side.sc w) ∧
        t.lanes[l].latches.overtemp = s.lanes[l].latches.overtemp ||| groupMask g (Side.ot w)) ∧
      ((∀ w, sideOf ws = some w → Side.crcOk w = false) → t.lanes[l].grp[g].side = s.lanes[l].grp[g].side ∧ t.lanes[l].grp[g].bad = s.lanes[l].grp[g].bad + 1 ∧
        (2 ≤ s.lanes[l].grp[g].bad → t.lanes[l].grp[g].measLink = true)) ∧
      (∀ h, h ≠ g → t.lanes[l].grp[h] = s.lanes[l].grp[h]) ∧
      ∀ (mods : List ModBits) (vw : BitVec 8), streamWords (s.idleMods g) (s.fe[g].sideFrame s.now vw) mods = ws →
        exec (.sideFrame l g (.asSent mods vw)) s = .next t

/-- MODULATOR_OVERLOAD answers a next state in which the modulator's OVL bit is set from now; MODULATOR_OVERLOAD_END, 192
modulator clocks (1,901 ticks of 5 ns) after the last overload, one in which it is clear; every other OVL bit is as
before and nothing but the front-end changes. With REF_EN set and REFS clear, REFS_SET answers, from 10 ms after
REF_EN rose on, a next state in which REFS is set, with nothing but the group and its front-end changed, and
REF_FAULT_TIMEOUT, from 12 ms on, one in which the fault REF_FAULT of the group stands. -/
def Obligations.OverloadBitsAndReference : Prop :=
  (∀ (g : GroupId) (m : Modulator) (s : State), ∃ t, exec (.modulatorOverload g m) s = .next t ∧ has t.fe[g].ovl m = true ∧ t.fe[g].ovlAt[m] = s.now ∧
    (∀ k, k ≠ m → has t.fe[g].ovl k = has s.fe[g].ovl k) ∧ agreeButFe s t g) ∧
  (∀ (g : GroupId) (m : Modulator) (s : State), s.fe[g].ovlAt[m] + 1901 ≤ s.now → ∃ t, exec (.modulatorOverloadEnd g m) s = .next t ∧
    has t.fe[g].ovl m = false ∧ (∀ k, k ≠ m → has t.fe[g].ovl k = has s.fe[g].ovl k) ∧ agreeButFe s t g) ∧
  (∀ (g : GroupId) (s : State), s.fe[g].refEn = true → s.fe[g].refs = false → s.fe[g].refEnAt + 2000000 ≤ s.now →
    ∃ t, exec (.refsSet g) s = .next t ∧ t.fe[g].refs = true ∧ t.fe[g].inp = s.fe[g].inp ∧ t.fe[g].conducting = s.fe[g].conducting ∧
      agreeButFe { s with groups := t.groups } t g ∧ agreeButGroup { s with fe := t.fe } t g) ∧
  ∀ (g : GroupId) (s : State), s.fe[g].refEn = true → s.fe[g].refs = false → s.fe[g].refEnAt + 2400000 ≤ s.now →
    ∃ t, exec (.refFaultTimeout g) s = .next t ∧ t.stands FaultCode.refFault [g.val] = true

/-- FRONT_END_CONTROL_WRITE of a lane answers a next state in which, where another lane's write of the same value waits
that is no older than 24 us (4,800 ticks), the register holds the value written: the reference enable, the probe
enables (none while fewer than two lane inputs are fresh), the enable bit of AUX_CTRL, AUX_SEL, AUX_RSEQ, AUX_ISEQ,
the modulator run bit, a voltage-watch limit or a modulator's input; an AUX_CTRL value of a reserved encoding is
refused whole and changes nothing; where none waits, the front-end is as before but for the write that now waits. The
lane inputs, the gates and the trip latches are as before in both, and nothing but the front-end changes. -/
def Obligations.ControlWritesNeedTwoLanes : Prop :=
  ∀ (l : LaneId) (g : GroupId) (w : FeWrite) (s : State), ∃ t, exec (.frontEndControlWrite l g w) s = .next t ∧ agreeButFe s t g ∧
    t.fe[g].inp = s.fe[g].inp ∧ t.fe[g].conducting = s.fe[g].conducting ∧ t.fe[g].sc = s.fe[g].sc ∧ t.fe[g].ot = s.fe[g].ot ∧
    ((∃ x ∈ s.fe[g].waiting, x.w = w ∧ x.lane ≠ l ∧ s.now ≤ x.at_ + 4800) →
      match w with
      | .refEn on => t.fe[g].refEn = on
      | .probe m => t.fe[g].probeEn = (if 2 ≤ freshInputs s.fe[g].inp s.now 4800 then m else 0)
      | .auxCtrl v => if badAuxCtrl (.auxCtrl v) then t.fe[g] = { s.fe[g] with waiting := t.fe[g].waiting } else t.fe[g].refEn = v.getLsbD 15
      | .auxSel v => t.fe[g].aux.sel = v &&& 0xF#16
      | .auxReq v => v.getLsbD 0 = true → t.fe[g].aux.trigLast = 3
      | .auxRseq j v => t.fe[g].aux.rseq[j] = v
      | .auxIseq v => t.fe[g].aux.iseq = v
      | .modulators on => t.fe[g].modsRun = on
      | .vwLimit k mv => t.fe[g].vwLimit[k] = mv
      | .modInput m x => t.fe[g].input[m] = x) ∧
    ((∀ x ∈ s.fe[g].waiting, x.w = w → x.lane ≠ l → x.at_ + 4800 < s.now) →
      t.fe[g] = { s.fe[g] with waiting := t.fe[g].waiting } ∧ { lane := l, w := w, at_ := s.now } ∈ t.fe[g].waiting)

/-- In sequencer mode with INJ_LEN not 0 and no mode change waiting, INJECTED_TRIGGER (a trip's only where a trip latch of
the group is set) answers a next state in which, (a) during a regular conversion that is no calibration entry, that
conversion goes on and the injected sequence is pending; (b) during a regular calibration entry, it is discarded, uses
no sequence number and becomes the entry next due, and the injected sequence converts its entry 0; (c) during a
requested pair, the pair stays pending and entry 0 converts; (d) with the converter idle entry 0 converts. In any
other mode, or with INJ_LEN 0, nothing but the trigger's number is kept. Nothing but the front-end changes. -/
def Obligations.TriggersStartTheInjectedSequence : Prop :=
  ∀ (g : GroupId) (x : InjSource) (s : State), (x = .trip → s.fe[g].sc ≠ 0) → ∃ t, exec (.injectedTrigger g x) s = .next t ∧ agreeButFe s t g ∧
    t.fe[g].aux.trigLast = (match x with | .contactor => 1 | .trip => 2 | .explicit => 3) ∧ t.fe[g].aux.seq = s.fe[g].aux.seq ∧
    (auxMode s.fe[g].aux.ctrl = 2 → auxInjLen s.fe[g].aux.ctrl ≠ 0 → s.fe[g].aux.nextMode = none →
      (∀ e, s.fe[g].aux.entry = some e → e < 16 → s.fe[g].aux.input ≠ 0 → s.fe[g].aux.input ≠ 1 → t.fe[g].aux.entry = some e ∧ t.fe[g].aux.injPend = true) ∧
      (∀ e, s.fe[g].aux.entry = some e → e < 16 → s.fe[g].aux.input = 0 ∨ s.fe[g].aux.input = 1 →
        t.fe[g].aux.entry = some 16 ∧ t.fe[g].aux.nextReg = e ∧ t.fe[g].aux.res = s.fe[g].aux.res) ∧
      (∀ e, s.fe[g].aux.entry = some e → e = 21 ∨ e = 22 → t.fe[g].aux.entry = some 16 ∧ t.fe[g].aux.calPend = s.fe[g].aux.calPend) ∧
      (s.fe[g].aux.entry = none → t.fe[g].aux.entry = some 16)) ∧
    (auxMode s.fe[g].aux.ctrl ≠ 2 ∨ auxInjLen s.fe[g].aux.ctrl = 0 → t.fe[g].aux = { s.fe[g].aux with trigLast := t.fe[g].aux.trigLast })

/-- For a conversion in progress whose entry has a result register, AUX_CONVERSION_DONE answers a next state in which that
register holds the sequence number, the input, the NS mark and the value (raw for ZERO and REF, corrected for the
rest), the sequence number has advanced by one, after 0xFFFF to 1, and every other result register shows the number,
input and value it did. For a requested ZERO or REF conversion no register and no number changes, and the pair is no
longer pending after its REF. -/
def Obligations.ConversionsAreNumbered : Prop :=
  ∀ (g : GroupId) (raw : Int) (s : State) (e : Nat), s.fe[g].aux.entry = some e →
    ∃ t, exec (.auxConversionDone g raw) s = .next t ∧
      (∀ r : Fin 20, auxReg e = some r.val →
        t.fe[g].aux.res[r].seq = s.fe[g].aux.seq ∧ t.fe[g].aux.res[r].input = s.fe[g].aux.input ∧ t.fe[g].aux.res[r].ns = s.fe[g].aux.startNs ∧
        t.fe[g].aux.res[r].val = (if s.fe[g].aux.input = 0 ∨ s.fe[g].aux.input = 1 then raw else correctAux s.groups[g].watch.coef raw) ∧
        t.fe[g].aux.seq = (if s.fe[g].aux.seq = 0xFFFF then 1 else s.fe[g].aux.seq + 1) ∧
        ∀ k, k ≠ r → t.fe[g].aux.res[k].seq = s.fe[g].aux.res[k].seq ∧ t.fe[g].aux.res[k].input = s.fe[g].aux.res[k].input ∧
          t.fe[g].aux.res[k].val = s.fe[g].aux.res[k].val) ∧
      (e = 21 ∨ e = 22 → t.fe[g].aux.seq = s.fe[g].aux.seq ∧ (∀ k : Fin 20, t.fe[g].aux.res[k].seq = s.fe[g].aux.res[k].seq ∧ t.fe[g].aux.res[k].val = s.fe[g].aux.res[k].val) ∧
        (e = 22 → t.fe[g].aux.calPend = false)) ∧
      ∀ h, h ≠ g → t.fe[h].aux = s.fe[h].aux

/-- TRACKER_UNLOCK_TIMEOUT, at P0 or P1 on a locked tracker whose last counted crossing is 25 ms or more of global time
past, answers a next state in which the tracker is unlocked from now with fixed windows and nothing but the group and
a running teach-in changes. FEED_ABSENT_DECISION, at P0 or P1, answers one in which the feed is absent once its level
has stayed below FEED_MIN for FEED_FILTER, and present once it has stayed above for as long. FEED_FREQ_RANGE, on an AC
group in use unlocked for 1 s at P0 or P1 with its feed present in a running mode, and AUX_STALL, with a regular
result older than 10 ms, answer one in which the fault of the group stands. -/
def Obligations.FeedDecisions : Prop :=
  (∀ (g : GroupId) (s : State), s.groups[g].feed.lock = true → (∀ a, s.groups[g].feed.lastCross = some a → a + 5000000 ≤ s.laneTime) → s.groups[g].level.val < 2 →
    ∃ t, exec (.trackerUnlockTimeout g) s = .next t ∧ t.groups[g].feed.lock = false ∧ t.groups[g].feed.fixed = true ∧ t.groups[g].feed.periodLen = 0 ∧
      t.groups[g].feed.unlockedSince = s.now ∧ agreeButGroup { s with act := t.act } t g) ∧
  (∀ (g : GroupId) (s : State) (a : Nat), s.groups[g].feed.absent = false → s.groups[g].feed.belowSince = some a → a + s.params.feedFilter g * 200000 ≤ s.now → s.groups[g].level.val < 2 →
    ∃ t, exec (.feedAbsentDecision g) s = .next t ∧ t.groups[g].feed.absent = true ∧ ∀ h, h ≠ g → t.groups[h] = s.groups[h]) ∧
  (∀ (g : GroupId) (s : State) (a : Nat), s.groups[g].feed.absent = true → s.groups[g].feed.aboveSince = some a → a + s.params.feedFilter g * 200000 ≤ s.now → s.groups[g].level.val < 2 →
    ∃ t, exec (.feedAbsentDecision g) s = .next t ∧ t.groups[g].feed.absent = false ∧ ∀ h, h ≠ g → t.groups[h] = s.groups[h]) ∧
  (∀ (g : GroupId) (s : State), s.params.isAc g = true → s.params.chUsed g ≠ 0 → s.groups[g].feed.lock = false → s.groups[g].feed.absent = false →
    s.groups[g].level.val < 2 → s.mode.mode.runs = true → s.groups[g].feed.unlockedSince + 200000000 ≤ s.now →
    ∃ t, exec (.feedFreqRange g) s = .next t ∧ t.stands FaultCode.feedFreqRange [g.val] = true ∧ t.groups = s.groups) ∧
  ∀ (g : GroupId) (s : State) (r : Fin 20), auxMode s.fe[g].aux.ctrl = 2 → r.val < auxRegLen s.fe[g].aux.ctrl →
    s.fe[g].aux.res[r].at_ + 2000000 < s.now → s.groups[g].level.val < 2 →
    ∃ t, exec (.auxStall g) s = .next t ∧ t.stands FaultCode.auxStall [g.val] = true ∧ t.groups = s.groups

/-- For an ended window of a group in a running mode, PERIOD_WINDOW_CLOSE answers a next state in which the next window
starts where this one ended; if a lane in the vote has computed samples of the group since the window began, the
period sequence has advanced by one, every position shows the record of the first such lane's sums (R87) under the new
sequence number, and each such lane holds the record of its own sums; a quantity of which a window had no sample keeps
its value (the model's choice, notes/assumptions/138.md); if no lane has, the sequence and the records stay.
GROUP_OVERLOAD, where the summed current has stood above the limit for 1 s and has not been reported in this stay,
answers one in which the event log is longer by one record, the stay is marked as reported, and nothing but the group,
the mailbox path and the log changes. -/
def Obligations.WindowsYieldPeriodRecords : Prop :=
  (∀ (g : GroupId) (a b : Nat) (amb : Int) (s : State), s.windowNow g = some (a, b) → s.mode.mode.runs = true →
    ∃ t, exec (.periodWindowClose g amb) s = .next t ∧ t.groups[g].feed.winStart = some b ∧ (∀ h, h ≠ g → t.groups[h] = s.groups[h]) ∧
      (s.winLanes g a = [] → t.groups[g].feed.periodSeq = s.groups[g].feed.periodSeq ∧ t.groups[g].recs = s.groups[g].recs) ∧
      ∀ l, (s.winLanes g a).head? = some l → t.groups[g].feed.periodSeq = nextSeq s.groups[g].feed.periodSeq ∧
        (∀ k : Fin 8, t.groups[g].recs[k] = (s.winSums l g k a b).record (s.lanes[l].grp[g]).recs[k]
            (s.params.isAc g && !s.groups[g].feed.lock) ((nextSeq s.groups[g].feed.periodSeq).setWidth 8)) ∧
        ∀ m ∈ s.winLanes g a, ∀ k : Fin 8, (t.lanes[m].grp[g]).recs[k] = (s.winSums m g k a b).record (s.lanes[m].grp[g]).recs[k]
            (s.params.isAc g && !s.groups[g].feed.lock) ((nextSeq s.groups[g].feed.periodSeq).setWidth 8)) ∧
  ∀ (g : GroupId) (s : State) (a : Nat), s.groups[g].feed.overSaid = false → s.groups[g].feed.overSince = some a → a + 200000000 ≤ s.now →
    ∃ t, exec (.groupOverload g) s = .next t ∧ t.flash.log.length = s.flash.log.length + 1 ∧ t.groups[g].feed.overSaid = true ∧
      (∀ h, h ≠ g → t.groups[h] = s.groups[h]) ∧ agreeButReports { s with groups := t.groups } t

/-- From a lane in the vote, at most 2.5 us after a chip boundary, CHIP_STROBE answers a next state in which the front-end
holds the lane's strobe and, where another lane's strobe of that chip has the same values, its chips are those values,
else they are as before; nothing but the front-end changes. A strobe as the lane forms it has the chip of each
channel's Gold code; at any other instant, and from any other lane, the state is as before. Where the enable of a dark
channel is due, at least two lanes are in the vote and two lane inputs are fresh, PROBE_ENABLE answers one in which
the source of the channel is enabled beside those that were, and nothing but the front-end changes. -/
def Obligations.ProbeSourcesFollowTwoLanes : Prop :=
  (∀ (g : GroupId) (l : LaneId) (v : BitVec 8) (s : State), s.active l = true → s.laneTime % 25000 ≤ 500 →
    ∃ t, exec (.chipStrobe g l (.values v)) s = .next t ∧ agreeButFe s t g ∧ t.fe[g].strobe[l] = some { chip := s.laneTime / 25000, values := v } ∧
      ((∃ y : LaneId, y ≠ l ∧ s.fe[g].strobe[y] = some { chip := s.laneTime / 25000, values := v }) → t.fe[g].chips = v) ∧
      ((∀ y : LaneId, y ≠ l → s.fe[g].strobe[y] ≠ some { chip := s.laneTime / 25000, values := v }) → t.fe[g].chips = s.fe[g].chips)) ∧
  (∀ (g : GroupId) (l : LaneId) (s : State), exec (.chipStrobe g l .asSent) s = exec (.chipStrobe g l (.values (s.chipValues g (s.laneTime / 25000)))) s) ∧
  (∀ (g : GroupId) (l : LaneId) (x : RxChips) (s : State), s.active l = false ∨ 500 < s.laneTime % 25000 → exec (.chipStrobe g l x) s = .next s) ∧
  ∀ (c : Chan) (s : State), s.probeDue c = true → 2 ≤ s.activeLanes.length → 2 ≤ freshInputs s.fe[c.group].inp s.now 4800 →
    ∃ t, exec (.probeEnable c) s = .next t ∧ has t.fe[c.group].probeEn c.pos = true ∧
      (∀ k, k ≠ c.pos → has t.fe[c.group].probeEn k = has s.fe[c.group].probeEn k) ∧ agreeButFe s t c.group

/-- For a lane that was in the vote throughout a code period whose end it has not judged, in a running mode,
CODE_PERIOD_END answers a next state in which the lane has judged the period and every channel whose source drove in
it has the verdict of R186 on the lane's own correlation (unavailable where the source itself did not deliver), dated
by the period; for a channel dark since before the period OPEN_CIRCUIT is held where this is the OC_COUNT-th failure
in a row, not held where it is the OC_COUNT-th INTACT in a row, and else as before; for one that was lit in between it
is as before. -/
def Obligations.CodePeriodsGiveVerdicts : Prop :=
  ∀ (l : LaneId) (k : CorrSpan) (s : State), s.endedPeriod l = some k → s.inVoteThrough l k.start = true → s.mode.mode.runs = true →
    ∃ t, exec (.codePeriodEnd l) s = .next t ∧ t.lanes[l].cpnDone = some k.cpn ∧
      ∀ c, s.probedIn c k = true →
        (let r := s.corrRow l k c
         let w := verdictOf s.lampParams r (s.corrValid l r k) (s.lanes[l].prov[c].offAt.getD 0) k.start
         let v : Verdict := if w = .failedCompliance ∧ r.vcorr.natAbs < 8000000 then .unavailable else w
         let dark := s.isOn l c = false ∧ s.lanes[l].prov[c].offAt.getD 0 ≤ k.start
         t.lanes[l].prob[c].verdict = v ∧ t.lanes[l].prob[c].verdictStart = k.start ∧ t.lanes[l].prob[c].verdictEnd = k.stop ∧
         t.lanes[l].prob[c].openCircuit =
           (if dark ∧ v.failed.isSome = true ∧ s.lampParams.ocCount c ≤ s.lanes[l].prob[c].failRun + 1 then true
            else if dark ∧ v = .intact ∧ s.lampParams.ocCount c ≤ s.lanes[l].prob[c].intactRun + 1 then false
            else s.lanes[l].prob[c].openCircuit))

/-- For a lane that has been in the vote since the start of the code period of a partial window that it has not judged, in
a running mode, PARTIAL_WINDOW_END answers a next state in which the lane has judged the window, a channel whose
source drove in it with a valid correlation has its count of partial windows out of the cold band one higher, or 0,
and every other channel has it 0. With a matrix row due and a lane supplying, MATRIX_ROW_SEND answers one in which
that row is due no longer and the count of dropped rows is 0 if Q15 had room or no subscriber, else one higher up to
65,535; nothing but that, the mailbox path and the lists of Q15 changes. -/
def Obligations.PartialWindowsAndMatrixRows : Prop :=
  (∀ (l : LaneId) (k : CorrSpan) (s : State), s.endedPartial l = some k → s.inVoteThrough l (s.localOf (k.cpn * codePeriod)) = true → s.mode.mode.runs = true →
    ∃ t, exec (.partialWindowEnd l) s = .next t ∧ t.lanes[l].partDone = some (8 * k.cpn + k.chip / 128) ∧
      ∀ c, t.lanes[l].prob[c].coldOut =
        (if s.probedIn c k = true ∧ s.corrValid l (s.corrRow l k c) k = true ∧ (coldLow s.lampParams (s.corrRow l k c) || coldHigh s.lampParams (s.corrRow l k c)) = true
         then s.lanes[l].prob[c].coldOut + 1 else 0)) ∧
  ∀ (n : Nat) (i : Chan) (rest : List (Nat × Chan)) (l : LaneId) (s : State), s.act.matrixDue = (n, i) :: rest → s.supplier = some l →
    ∃ t, exec .matrixRowSend s = .next t ∧ t.act.matrixDue = rest ∧
      (s.mail.rings[(15 : RingId)].room 216 = true ∨ s.subscribers 15 = [] → t.act.matrixDropped = 0) ∧
      (s.mail.rings[(15 : RingId)].room 216 = false → s.subscribers 15 ≠ [] →
        t.act.matrixDropped.toNat = min (s.act.matrixDropped.toNat + 1) 65535) ∧
      agreeButReports { s with act := t.act } t ∧ t.flash = s.flash

/-- For a spare's loan whose step has lasted its time, and is not to be repeated, LOAN_STEP_END answers a next state in
which CONNECT has passed to SHADOW_IN, ZERO to REF, RECONNECT to SHADOW_OUT, and RELEASE to the ZERO of the self-
calibration, each from now; a compare that two lanes find passed marks the step as passed; and after REF, where at
least two lanes in the vote derive one pair, and that pair may be adopted by its range, the reference and the CMPREF
results of the step, the pair is the modulator's from now on, its rejections count 0, and the loan is in RECONNECT.
The other groups are as before. -/
def Obligations.LoanStepsFollowEachOther : Prop :=
  ∀ (g : GroupId) (sp : Spare) (s : State), (s.groups[g].under.loan sp).again = false →
    ((s.groups[g].under.loan sp).step = .connect → (s.groups[g].under.loan sp).since + 2000000 ≤ s.now →
      ∃ t, exec (.loanStepEnd g sp) s = .next t ∧ (t.groups[g].under.loan sp).step = .shadowIn ∧ (t.groups[g].under.loan sp).since = s.now ∧ agreeButGroup s t g) ∧
    ((s.groups[g].under.loan sp).step = .zero → (s.groups[g].under.loan sp).since + 12000000 ≤ s.now →
      ∃ t, exec (.loanStepEnd g sp) s = .next t ∧ (t.groups[g].under.loan sp).step = .ref ∧ (t.groups[g].under.loan sp).since = s.now ∧
        (t.groups[g].under.loan sp).zeroEnd = s.now ∧ agreeButGroup { s with fe := t.fe } t g) ∧
    ((s.groups[g].under.loan sp).step = .reconnect → (s.groups[g].under.loan sp).since + 2000000 ≤ s.now →
      ∃ t, exec (.loanStepEnd g sp) s = .next t ∧ (t.groups[g].under.loan sp).step = .shadowOut ∧ (t.groups[g].under.loan sp).since = s.now ∧ agreeButGroup s t g) ∧
    ((s.groups[g].under.loan sp).step = .release → (s.groups[g].under.loan sp).since + 4000000 ≤ s.now →
      ∃ t, exec (.loanStepEnd g sp) s = .next t ∧ (t.groups[g].under.loan sp).step = .selfCal ∧ (t.groups[g].under.loan sp).since = s.now ∧
        (t.groups[g].under.loan sp).zeroAt = s.now ∧ agreeButGroup { s with fe := t.fe } t g) ∧
    ((s.groups[g].under.loan sp).step = .shadowIn ∨ (s.groups[g].under.loan sp).step = .shadowOut → (s.loanCompare g sp).out = .passes →
      ∃ t, exec (.loanStepEnd g sp) s = .next t ∧ (t.groups[g].under.loan sp).passedAt.isSome = true ∧
        (t.groups[g].under.loan sp).step = (s.groups[g].under.loan sp).step ∧ ∀ h, h ≠ g → t.groups[h] = s.groups[h]) ∧
    ∀ k, (s.groups[g].under.loan sp).step = .ref → (s.groups[g].under.loan sp).since + 12000000 ≤ s.now →
      agreedPair (s.calSums g (s.groups[g].under.loan sp).target (s.groups[g].under.loan sp).zeroEnd) s.voteMask = some k →
      adoptable k (s.fe[g].refs && decide (s.fe[g].refSetAt ≤ (s.groups[g].under.loan sp).zeroAt))
        ((s.groups[g].watch.cmpref.filter fun e => decide ((s.groups[g].under.loan sp).since ≤ e.1)).map (·.2)) = true →
      ∃ t, exec (.loanStepEnd g sp) s = .next t ∧ t.groups[g].under.coef[(s.groups[g].under.loan sp).target] = k ∧
        t.groups[g].under.rejects[(s.groups[g].under.loan sp).target] = 0 ∧ t.groups[g].under.adoptedAt[(s.groups[g].under.loan sp).target] = s.now ∧
        (t.groups[g].under.loan sp).step = .reconnect ∧ ∀ h, h ≠ g → t.groups[h] = s.groups[h]

/-- Outside a Coppice window, where an instant at hand permits a handoff of the loan of a live modulator (the compare
still passes, the eight pairs before the instant agree and are settled, the instant lies in the settled stretch and,
for the current of a dark channel, at a chip boundary at which the correlation may change over), HANDOFF answers a
next state in which, from a passed SHADOW_IN, the spare serves the modulator and the loan is in ZERO, and from a
passed SHADOW_OUT of a group with no level change waiting the modulator serves its channel again and the loan is in
RELEASE; the change-over is noted for the samples of the channel; in both no other source and no other group changes,
and of the rest only the front-end. 1 s after SHADOW_IN passed without one CAL_HANDOFF answers one in which the loan
is in RELEASE with its modulator kept for another try; a compare still undecided 1 s after its start fails at
COMPARE_NO_SAMPLES: from SHADOW_IN it is arbitrated, from a first SHADOW_OUT the calibration is repeated from ZERO. -/
def Obligations.HandoffsSwitchTheSource : Prop :=
  (∀ (g : GroupId) (sp : Spare) (m : Modulator) (x : HandoffAt) (s : State), s.coppice.step = 0 → (s.groups[g].under.loan sp).target = m → m.val < 16 →
    x ∈ s.handoffsNow g →
    ((s.groups[g].under.loan sp).step = .shadowIn → s.mayHandOff g sp m (spareIdx sp) (modChan g m) x = true →
      (s.switchAt sp (modChan g m) true x).isSome = true →
      ∃ t, exec (.handoff g sp) s = .next t ∧ has t.groups[g].under.onSpare m = true ∧ (t.groups[g].under.loan sp).step = .zero ∧
        (∃ h, (((t.groups[g].under.switched)[m.val]?).getD []).head? = some h ∧ h.spare = true) ∧
        (∀ k, k ≠ m → has t.groups[g].under.onSpare k = has s.groups[g].under.onSpare k) ∧ agreeButGroup { s with fe := t.fe } t g) ∧
    ((s.groups[g].under.loan sp).step = .shadowOut → s.groups[g].pendLevel = none → s.mayHandOff g sp (spareIdx sp) m (modChan g m) x = true →
      (s.switchAt sp (modChan g m) false x).isSome = true →
      ∃ t, exec (.handoff g sp) s = .next t ∧ has t.groups[g].under.onSpare m = false ∧ (t.groups[g].under.loan sp).step = .release ∧
        (∃ h, (((t.groups[g].under.switched)[m.val]?).getD []).head? = some h ∧ h.spare = false) ∧
        (∀ k, k ≠ m → has t.groups[g].under.onSpare k = has s.groups[g].under.onSpare k) ∧ agreeButGroup { s with fe := t.fe } t g)) ∧
  (∀ (g : GroupId) (sp : Spare) (a : Nat) (s : State), (s.groups[g].under.loan sp).step = .shadowIn → (s.groups[g].under.loan sp).passedAt = some a →
    a + 200000000 ≤ s.now → ∃ t, exec (.calHandoff g sp) s = .next t ∧ (t.groups[g].under.loan sp).step = .release ∧
      (t.groups[g].under.loan sp).retry = (s.groups[g].under.loan sp).retry ++ [(s.groups[g].under.loan sp).target] ∧
      t.flash.log.length = s.flash.log.length + 1) ∧
  ∀ (g : GroupId) (sp : Spare) (s : State), (s.groups[g].under.loan sp).again = false → (s.groups[g].under.loan sp).passedAt = none →
    (s.loanCompare g sp).out = .running → (s.groups[g].under.loan sp).since + 200000000 ≤ s.now →
    ((s.groups[g].under.loan sp).step = .shadowIn → ∃ t, exec (.compareNoSamples g sp) s = .next t ∧ (t.groups[g].under.loan sp).step = .arbitrate) ∧
    ((s.groups[g].under.loan sp).step = .shadowOut → (s.groups[g].under.loan sp).repeated = false →
      ∃ t, exec (.compareNoSamples g sp) s = .next t ∧ (t.groups[g].under.loan sp).step = .zero ∧ (t.groups[g].under.loan sp).repeated = true)

/-- A modulator that may be calibrated in place at P0 goes to ZERO with IN_PLACE_CALIBRATION. Where at least two lanes in
the vote derive one pair from a ZERO and a REF, and it may be adopted: 60 ms after the start of a spare's own REF,
SPARE_SELF_CALIBRATION answers a next state in which the pair is the spare's and the spare rests; 60 ms after the
start of the REF of a modulator calibrated in place, IN_PLACE_CALIBRATION one in which the pair is the modulator's and
it reconnects; in both it was adopted now and its rejections count 0. At P0 in a running mode, 6 s after the later of
the last adoption and the return to P0, CAL_OVERDUE answers one in which the fault of the modulator stands and no
other group changes. -/
def Obligations.CalibrationsAdoptAgreedPairs : Prop :=
  (∀ (g : GroupId) (sp : Spare) (k : Coef) (s : State), (s.groups[g].under.loan sp).step = .selfRef → (s.groups[g].under.loan sp).again = false →
    (s.groups[g].under.loan sp).since + 12000000 ≤ s.now →
    agreedPair (s.calSums g (spareIdx sp) (s.groups[g].under.loan sp).zeroEnd) s.voteMask = some k →
    adoptable k (s.fe[g].refs && decide (s.fe[g].refSetAt ≤ (s.groups[g].under.loan sp).zeroAt))
      ((s.groups[g].watch.cmpref.filter fun e => decide ((s.groups[g].under.loan sp).since ≤ e.1)).map (·.2)) = true →
    ∃ t, exec (.spareSelfCalibration g sp) s = .next t ∧ t.groups[g].under.coef[spareIdx sp] = k ∧ t.groups[g].under.adoptedAt[spareIdx sp] = s.now ∧
      t.groups[g].under.rejects[spareIdx sp] = 0 ∧ (t.groups[g].under.loan sp).step = .idle ∧ (t.groups[g].under.loan sp).rejected = false) ∧
  (∀ (g : GroupId) (m : Modulator) (r : Bool) (s : State), s.groups[g].level = 0 → s.mode.mode.runs = true → s.groups[g].under.runs[m] = none →
    s.fe[g].refs = true → s.groups[g].pendLevel = none → s.inPlaceKind g m = some r →
    ∃ t, exec (.inPlaceCalibration g m) s = .next t ∧ t.groups[g].under.runs[m] = some { since := s.now, zeroAt := s.now, release := r } ∧
      agreeButGroup { s with fe := t.fe } t g) ∧
  (∀ (g : GroupId) (m : Modulator) (r : CalRun) (k : Coef) (s : State), s.groups[g].level = 0 → s.mode.mode.runs = true →
    s.groups[g].under.runs[m] = some r → r.again = false → r.step = .ref → r.since + 12000000 ≤ s.now →
    agreedPair (s.calSums g m r.zeroEnd) s.voteMask = some k →
    adoptable k (s.fe[g].refs && decide (s.fe[g].refSetAt ≤ r.zeroAt)) ((s.groups[g].watch.cmpref.filter fun e => decide (r.since ≤ e.1)).map (·.2)) = true →
    ∃ t, exec (.inPlaceCalibration g m) s = .next t ∧ t.groups[g].under.coef[m] = k ∧ t.groups[g].under.adoptedAt[m] = s.now ∧
      t.groups[g].under.rejects[m] = 0 ∧ t.groups[g].under.runs[m] = some { r with step := .reconnect, since := s.now, passedAt := none, again := false }) ∧
  ∀ (g : GroupId) (m : Modulator) (s : State), s.groups[g].level = 0 → s.mode.mode.runs = true → has s.groups[g].under.overdue m = false →
    max s.groups[g].under.adoptedAt[m] s.groups[g].under.p0Since + 1200000000 ≤ s.now →
    ∃ t, exec (.calOverdue g m) s = .next t ∧ t.stands FaultCode.calOverdue [g.val, m.val] = true ∧ has t.groups[g].under.overdue m = true ∧
      ∀ h, h ≠ g → t.groups[h] = s.groups[h]

/-- For a running TEACH whose present channel in a group is through its steps in every lane in the vote,
TEACH_CHANNEL_DONE answers a next state in which, where two lanes in the vote learned the same and no rejection of
R163 holds, the channel's fingerprint in the working copy is the record learned, and where no two lanes agree or a
rejection holds it is as before; every other fingerprint is as before; and TEACH has ended or holds the outcome of the
channel. -/
def Obligations.TeachAdoptsWhatTwoLanesLearned : Prop :=
  ∀ (c : Chan) (r : TeachRun) (e : Chan × Nat × Nat × Nat × Nat) (s : State), s.act.teach = some r →
    r.entries.find? (fun y => y.1 == c) = some e → r.current c.group = some c → s.activeLanes ≠ [] →
    (∀ l : LaneId, s.active l = true → (s.lanes[l].teach[c.group]).over r.since[c.group] s.now = true) →
    ∃ t, exec (.teachChannelDone c) s = .next t ∧
      (∀ y, s.teachAgreed e = some y → s.teachOutcome e y (has r.feedLost c.group) = 0 →
        t.working = { s.working with finger := s.working.finger.set c (teachRecord y e) }) ∧
      (s.teachAgreed e = none ∨ (∃ y, s.teachAgreed e = some y ∧ s.teachOutcome e y (has r.feedLost c.group) ≠ 0) → t.working = s.working) ∧
      (t.act.teach = none ∨ ∃ q out, t.act.teach = some q ∧ q.done = r.done ++ [(c, out)] ∧
        (out = match s.teachAgreed e with | some y => s.teachOutcome e y (has r.feedLost c.group) | none => 6))

/-- An admitted NOP is answered OK with LEN 0; IDENT with the identity octets; PARAM_READ of BANK 0 or 1 and a record that
exists with its octets, from the working copy for BANK 1 and the active bank for BANK 0, NOT_READY while none is
active; UPD_STATUS with the session, trial and download state. Every lane in the vote has executed the command and
handed its answer over; no register, parameter, store or output changes. Model choice (log entry 2): OWNER of
UPD_STATUS is a free octet while no session is owned. -/
def Obligations.ReadsAnswerAtOnce : Prop :=
  (∀ (c : MailCmd) (s : State), s.Admits c 0x0000 →
    ∃ t, exec (.nop c) s = .next t ∧ s.Executed t c 0x0000 (some (okReply [])) ∧ agreeButMail s t) ∧
  (∀ (c : MailCmd) (s : State), s.Admits c 0x0001 →
    ∃ t, exec (.ident c) s = .next t ∧ s.Executed t c 0x0001 (some (okReply s.identOctets)) ∧ agreeButMail s t) ∧
  (∀ (c : MailCmd) (s : State), s.Admits c 0x0100 → leAt c.payload 0 1 ≤ 1 → recNamed (leAt c.payload 1 1) (leAt c.payload 2 2) = true →
    ∃ t, exec (.paramRead c) s = .next t ∧ agreeButMail s t ∧
      s.Executed t c 0x0100 (some (if leAt c.payload 0 1 = 0 ∧ s.activeBank = none then plain Status.notReady
        else okReply (toLe 1 (leAt c.payload 1 1) ++ toLe 1 0 ++ toLe 2 (leAt c.payload 2 2) ++
          (if leAt c.payload 0 1 = 1 then s.working else s.params).getRec (leAt c.payload 1 1) (leAt c.payload 2 2))))) ∧
  ∀ (c : MailCmd) (s : State), s.Admits c 0x0907 →
    ∃ t w, exec (.updStatus c) s = .next t ∧ (∀ x, s.upd.owner = some x → w = s.ownerOctet x) ∧ agreeButMail { s with fresh := s.fresh + 1 } t ∧
      s.Executed t c 0x0907 (some (okReply (toLe 1 s.upd.st.code ++ toLe 1 w ++
        toLe 1 (bit s.upd.trialRun 0 + bit s.upd.incompat 1 + bit (s.upd.st == .verified) 2) ++ toLe 1 s.flash.bootRec.trials ++
        toLe 4 s.upd.received ++ toLe 4 s.upd.size ++ toLe 4 s.upd.version.toNat)))

/-- After an admitted COUNTS_READ, CHIP_IDENT, MEAS_READ, AUX_READ, PROBE_READ, BUS_READ, SELFTEST_READ or TIME_READ,
every lane in the vote has put its own response into the ring of the source, or behind it while the ring is full: with
LSPEC and its lane number, MORE set while another lane is to answer, and its own data: its counts, the chip
identities, its own records of COUNT channels from FIRST (RANGE where they leave 1 to 63 or pass channel 95), and so
for a group, a channel and a hub that exist, with the reserved octet zero; BUS_READ counts in what the arrival of the
command itself discarded. Nothing beyond the mailbox path changes. -/
def Obligations.LaneReadsAnswerForEachLane : Prop :=
  (∀ (c : MailCmd) (s : State), s.Admits c 0x0007 →
    ∃ t, exec (.countsRead c) s = .next t ∧ s.LanesAnswer t c 0x0007 (fun l => okReply s.lanes[l].countOctets) ∧ agreeButMail s t) ∧
  (∀ (c : MailCmd) (s : State), s.Admits c 0x0009 →
    ∃ t, exec (.chipIdent c) s = .next t ∧ s.LanesAnswer t c 0x0009 (fun l => okReply (s.otp.chipOctets l)) ∧ agreeButMail s t) ∧
  (∀ (c : MailCmd) (s : State), s.Admits c 0x0300 →
    ∃ t, exec (.measRead c) s = .next t ∧ agreeButMail s t ∧ s.LanesAnswer t c 0x0300 (fun l =>
      if leAt c.payload 1 1 = 0 ∨ 63 < leAt c.payload 1 1 ∨ 96 < leAt c.payload 0 1 + leAt c.payload 1 1 then plain Status.range
      else okReply ((allChans.filter fun i => decide (leAt c.payload 0 1 ≤ i.val) && decide (i.val < leAt c.payload 0 1 + leAt c.payload 1 1)).flatMap
        fun i => toLe 16 ((s.lanes[l].grp[i.group]).recs[i.pos]).value))) ∧
  (∀ (c : MailCmd) (g : GroupId) (s : State), s.Admits c 0x0301 → leAt c.payload 0 1 = g.val → octet c.payload 1 = 0 →
    ∃ t, exec (.auxRead c) s = .next t ∧ agreeButMail s t ∧ s.LanesAnswer t c 0x0301 (fun _ =>
      okReply (s.fe[g].aux.res.toList.flatMap (fun r => toLe 6 r.value) ++ toLe 2 s.fe[g].auxStat ++ toLe 2 s.fe[g].auxCtrl ++ toLe 2 s.fe[g].aux.sel.toNat ++
        toLe 4 s.groups[g].feed.periodLen ++ toLe 2 s.groups[g].feed.periodSeq.toNat ++ toLe 2 s.groups[g].feed.flagsWord))) ∧
  (∀ (c : MailCmd) (i : Chan) (s : State), s.Admits c 0x0400 → leAt c.payload 0 1 = i.val → octet c.payload 1 = 0 →
    ∃ t, exec (.probeRead c) s = .next t ∧ s.LanesAnswer t c 0x0400 (fun l => okReply (s.probeOctets l i)) ∧ agreeButMail s t) ∧
  (∀ (c : MailCmd) (h : HubId) (s : State), s.Admits c 0x0500 → leAt c.payload 0 1 = h.val → octet c.payload 1 = 0 →
    ∃ t, exec (.busRead c) s = .next t ∧ agreeButMail s t ∧
      s.LanesAnswer t c 0x0500 (fun _ => okReply (wordOctets (t.busWord h) 0x500 2 ++ wordOctets (t.busWord h) 0x510 28))) ∧
  (∀ (c : MailCmd) (s : State), s.Admits c 0x0700 →
    ∃ t, exec (.selftestRead c) s = .next t ∧ s.LanesAnswer t c 0x0700 (fun _ => okReply (wordOctets s.testWord 0x2000 96)) ∧ agreeButMail s t) ∧
  ∀ (c : MailCmd) (h : HubId) (s : State), s.Admits c 0x0A00 → leAt c.payload 0 1 = h.val → octet c.payload 1 = 0 →
    ∃ t, exec (.timeRead c) s = .next t ∧ agreeButMail s t ∧
      s.LanesAnswer t c 0x0A00 (fun _ => okReply (wordOctets (s.timeWord h) 0x400 17 ++ wordOctets (s.timeWord h) 0x420 8))

/-- An admitted MODE_REQ with zero reserved octets, a TARGET that exists and a valid PERSON is answered OK without effect
where the target is the mode in force, and MODE where the request is not permitted in the mode in force. HALT answers
OK and enters HALT at once with cause 12: PREV is the mode before, a change that waited is dropped and its request
kept, no lane sends a drive stream, no probe source is enabled. Any other request joins the requests that the next
vote instant judges, and its answer waits; nothing else changes. -/
def Obligations.ModeRequestsAreLoggedOrKept : Prop :=
  ∀ (c : MailCmd) (m : Mode) (s : State), s.Admits c 0x0004 → allZero c.payload 1 3 = true → reqTarget (leAt c.payload 0 1) = some m →
    badPerson (leAt c.payload 4 4) = false →
    (m = s.mode.mode → ∃ t, exec (.modeReq c) s = .next t ∧ s.Executed t c 0x0004 (some (okReply [])) ∧ agreeButMail s t) ∧
    (m ≠ s.mode.mode → s.reqPermitted m = false →
      ∃ t, exec (.modeReq c) s = .next t ∧ s.Executed t c 0x0004 (some (plain Status.mode)) ∧ agreeButMail s t) ∧
    (m ≠ s.mode.mode → s.reqPermitted m = true → m = .halt → (∀ r, s.act.teach = some r → r.num ≠ s.mail.nextNum) →
      ∃ t, exec (.modeReq c) s = .next t ∧ s.Executed t c 0x0004 (some (okReply [])) ∧
        t.mode = { s.mode with mode := .halt, prev := s.mode.mode, cause := 12, next := none, reqs := s.mode.answer.toList ++ s.mode.reqs, answer := none } ∧
        (∀ l : LaneId, t.lanes[l] = { s.lanes[l] with drive := { s.lanes[l].drive with running := false } }) ∧
        (∀ g : GroupId, t.fe[g] = { s.fe[g] with probeEn := 0, chips := 0 }) ∧
        t.working = s.working ∧ t.flash = { s.flash with log := t.flash.log } ∧ s.flash.log <+: t.flash.log ∧ t.groups = s.groups ∧ t.banks = s.banks ∧
        t.faults = s.faults ∧ t.otp = s.otp ∧ t.wear = s.wear) ∧
    (m ≠ s.mode.mode → s.reqPermitted m = true → m ≠ .halt →
      ∃ t, exec (.modeReq c) s = .next t ∧ s.Executed t c 0x0004 none ∧
        agreeButMail { s with mode := { s.mode with reqs :=
          s.mode.reqs ++ [{ target := m, person := BitVec.ofNat 32 (leAt c.payload 4 4), num := s.mail.nextNum }] } } t)

/-- With zero reserved octets, a TARGET that exists, STEP 1 with CONFIRM 0 and a valid PERSON: where the life-cycle state
has a transition to the target, the answer is OK with CONFIRM, the CRC-16 over unit identity, TARGET, PERSON and boot
counter, kept with its sender and instant; else LIFECYCLE. Step 2 by the same sender with the same TARGET, PERSON and
CONFIRM within 60 s takes a transition that keeps station data: the life-cycle state is the target in flash and in the
register, LIFECYCLE_CHANGE is in the log, the answer OK, and the step is spent; a transition that wipes marks flash
first and answers once the erase is done. Where no step 1 stands, step 2 answers AUTH and changes nothing. -/
def Obligations.LifecycleTakesTwoSteps : Prop :=
  ∀ (c : MailCmd) (k old : LifeCycle) (s : State), s.Admits c 0x0005 → allZero c.payload 8 4 = true → lcTarget (leAt c.payload 0 1) = some k →
    badPerson (leAt c.payload 4 4) = false → s.mode.lifecycle = some old →
    (leAt c.payload 1 1 = 1 → leAt c.payload 2 2 = 0 → lcStepOf old k = none →
      ∃ t, exec (.lifecycleReq c) s = .next t ∧ s.Executed t c 0x0005 (some (plain Status.lifecycle)) ∧ agreeButMail s t) ∧
    (leAt c.payload 1 1 = 1 → leAt c.payload 2 2 = 0 → lcStepOf old k ≠ none →
      let w := crc16 (toLe 8 s.otp.unitId ++ toLe 1 (leAt c.payload 0 1) ++ toLe 4 (leAt c.payload 4 4) ++ toLe 2 s.mode.bootShown.toNat)
      ∃ t, exec (.lifecycleReq c) s = .next t ∧ s.Executed t c 0x0005 (some (okReply (toLe 2 w.toNat ++ toLe 2 0))) ∧
        agreeButMail { s with mode := { s.mode with
          lcStep := some (c.src, leAt c.payload 0 1, BitVec.ofNat 32 (leAt c.payload 4 4), w, s.now) } } t) ∧
    (leAt c.payload 1 1 = 2 → s.mode.lcStep = none →
      ∃ t, exec (.lifecycleReq c) s = .next t ∧ s.Executed t c 0x0005 (some (plain Status.auth)) ∧ agreeButMail s t) ∧
    ∀ (w : Word) (at1 : Nat) (wipe : Bool), leAt c.payload 1 1 = 2 → leAt c.payload 2 2 = w.toNat → s.now ≤ at1 + 60 * Config.sec →
      s.mode.lcStep = some (c.src, leAt c.payload 0 1, BitVec.ofNat 32 (leAt c.payload 4 4), w, at1) → lcStepOf old k = some wipe →
      ∃ t, exec (.lifecycleReq c) s = .next t ∧ s.Executed t c 0x0005 (if wipe then none else some (okReply [])) ∧
        t.flash = { s.flash with lifecycle := k, wiping := wipe || s.flash.wiping, log := s.flash.log ++
          [s.eventOctets EventCode.lifecycleChange 0 3 (scope []) (toLe 1 old.code ++ toLe 1 k.code ++ toLe 4 (leAt c.payload 4 4))] } ∧
        t.mode = { s.mode with lifecycle := some k, lcStep := none, wipeNum := if wipe then some s.mail.nextNum else s.mode.wipeNum } ∧
        t.working = (if k = .maintenance then (s.activeBank.map (·.image)).getD s.defaultImage
          else if k = .commissioning ∧ old = .factory then s.defaultImage else s.working) ∧
        agreeButMail { s with flash := t.flash, mode := t.mode, working := t.working } t

/-- A RESET_ARM with a valid PERSON answers OK with CONFIRM and is kept. RESET_EXEC with zero reserved octets and the same
PERSON and CONFIRM within 10 s answers OK, spends the arming and makes the reset due; where none is armed it answers
AUTH without effect. With the reset due and at least two lanes in the vote (R377), MODULE_RESET_AFTER_EXEC answers a
next state in which every register, queue, latch, transaction and trial takes its reset value, the mode is THAW, and
the flash stores (the log record aside), OTP, stored wear values and the commands still waiting are kept. Otherwise it
changes nothing. -/
def Obligations.ResetsTakeTwoSteps : Prop :=
  (∀ (c : MailCmd) (s : State), s.Admits c 0x000A → badPerson (leAt c.payload 0 4) = false →
    let w := crc16 (toLe 8 s.otp.unitId ++ toLe 1 0 ++ toLe 4 (leAt c.payload 0 4) ++ toLe 2 s.mode.bootShown.toNat)
    ∃ t, exec (.resetArm c) s = .next t ∧ s.Executed t c 0x000A (some (okReply (toLe 2 w.toNat ++ toLe 2 0))) ∧
      agreeButMail { s with mode := { s.mode with armed := some (BitVec.ofNat 32 (leAt c.payload 0 4), w, s.now) } } t) ∧
  (∀ (c : MailCmd) (s : State), s.Admits c 0x000B → allZero c.payload 2 2 = true → badPerson (leAt c.payload 4 4) = false →
    (∀ (w : Word) (at1 : Nat), s.mode.armed = some (BitVec.ofNat 32 (leAt c.payload 4 4), w, at1) → leAt c.payload 0 2 = w.toNat →
      s.now ≤ at1 + 10 * Config.sec →
      ∃ t, exec (.resetExec c) s = .next t ∧ s.Executed t c 0x000B (some (okReply [])) ∧
        agreeButMail { s with mode := { s.mode with armed := none, resetDue := some s.now } } t) ∧
    (s.mode.armed = none → ∃ t, exec (.resetExec c) s = .next t ∧ s.Executed t c 0x000B (some (plain Status.auth)) ∧ agreeButMail s t)) ∧
  ∀ s : State, (s.mode.resetDue = none ∨ s.activeLanes.length < 2 → exec .moduleResetAfterExec s = .next s) ∧
    (s.mode.resetDue ≠ none → 2 ≤ s.activeLanes.length → ∃ t, exec .moduleResetAfterExec s = .next t ∧ s.restarted t)

/-- SUBSCRIBE with zero reserved bits sets the subscriptions of its source and answers with those before; a ring newly
subscribed by the local port starts at its PROD. LOG_READ of 1 to 1,000 records answers with the first index and the
count of the records held, and their messages enter Q14. MATRIX_STREAM with a valid divider sets channels and divider.
CAPTURE with valid fields and none running answers with the next capture number and starts; with one running it
answers STATE. CAPTURE_STOP ends the running capture and sends what it holds; with none running it answers STATE. -/
def Obligations.StreamsAndCapturesStart : Prop :=
  (∀ (c : MailCmd) (s : State), s.Admits c 0x0006 → octet c.payload 0 &&& 0xE0#8 = 0 → allZero c.payload 1 3 = true →
    let m : BitVec 5 := (octet c.payload 0).setWidth 5
    ∃ t, exec (.subscribe c) s = .next t ∧ s.Executed t c 0x0006 (some (okReply (toLe 1 (s.mail.subs[srcIdx c.src]).toNat ++ toLe 3 0))) ∧
      agreeButMail { s with mail := { s.mail with subs := s.mail.subs.set (srcIdx c.src) m } } t ∧
      ∀ i : Fin 5, c.src = .host → m.getLsbD i.val = true → (s.mail.subs[srcIdx c.src]).getLsbD i.val = false →
        t.mail.rings[(⟨11 + i.val, by omega⟩ : RingId)].hcons = s.mail.rings[(⟨11 + i.val, by omega⟩ : RingId)].prod) ∧
  (∀ (c : MailCmd) (s : State), s.Admits c 0x0008 → allZero c.payload 6 2 = true → 1 ≤ leAt c.payload 4 2 → leAt c.payload 4 2 ≤ 1000 →
    let first := if leAt c.payload 0 4 = 0xFFFFFFFF then s.flash.logFirst else max (leAt c.payload 0 4) s.flash.logFirst
    let recs := (s.flash.log.drop (first - s.flash.logFirst)).take (leAt c.payload 4 2)
    ∃ t, exec (.logRead c) s = .next t ∧ s.Executed t c 0x0008 (some (okReply (toLe 4 first ++ toLe 2 recs.length ++ toLe 2 0))) ∧
      t.mail.rings[(14 : RingId)] = (s.sendLog first recs 33).mail.rings[(14 : RingId)] ∧ agreeButMail s t) ∧
  (∀ (c : MailCmd) (s : State), s.Admits c 0x0401 → allZero c.payload 13 3 = true → leAt c.payload 12 1 ≤ 64 →
    (leAt c.payload 12 1 = 0 ∨ maskAt 96 c.payload 0 ≠ 0) →
    ∃ t, exec (.matrixStream c) s = .next t ∧ s.Executed t c 0x0401 (some (okReply [])) ∧
      agreeButMail { s with act := { s.act with matrixMask := maskAt 96 c.payload 0, matrixDiv := leAt c.payload 12 1 } } t) ∧
  (∀ (c : MailCmd) (i : Chan) (s : State), s.Admits c 0x0302 → octet c.payload 1 &&& 0xFC#8 = 0 → octet c.payload 3 = 0 → leAt c.payload 0 1 = i.val →
    leAt c.payload 2 1 ≤ 2 → 1 ≤ leAt c.payload 4 2 → leAt c.payload 4 2 ≤ (if (octet c.payload 1).getLsbD 1 = true then 16384 else 32768) →
    leAt c.payload 6 2 < leAt c.payload 4 2 → (leAt c.payload 2 1 = 2 ∨ leAt c.payload 6 2 = 0) →
    ∃ t, exec (.capture c) s = .next t ∧
      (s.act.capture ≠ none → s.Executed t c 0x0302 (some (plain Status.state)) ∧ agreeButMail s t) ∧
      (s.act.capture = none → s.Executed t c 0x0302 (some (okReply (toLe 2 (s.act.capCount + 1).toNat ++ toLe 2 0))) ∧
        agreeButMail { s with act := { s.act with capCount := s.act.capCount + 1, capture := some {
          id := s.act.capCount + 1, chan := i, sel := octet c.payload 1, trig := leAt c.payload 2 1, samples := leAt c.payload 4 2, pre := leAt c.payload 6 2, since := s.now,
          lane := (s.supplier).getD 0, trigAt := if leAt c.payload 2 1 = 0 then some s.now else none } } } t)) ∧
  ∀ (c : MailCmd) (s : State), s.Admits c 0x0303 →
    ∃ t, exec (.captureStop c) s = .next t ∧
      (s.act.capture = none → s.Executed t c 0x0303 (some (plain Status.state)) ∧ agreeButMail s t) ∧
      (s.act.capture ≠ none → s.Executed t c 0x0303 (some (okReply [])) ∧
        agreeButMail { s with act := { s.act with capture := none } } t)

/-- An admitted PARAM_WRITE with clear reserved fields, of a record that no running TEACH names, answers OK and the
working copy holds the record. PARAM_REVERT answers OK and the working copy is that of the active bank, the defaults
while none is active. PARAM_DEFAULTS with reserved 0 answers OK: TYPE 0xFF with INDEX 0xFFFF puts the whole working
copy at its defaults; a TYPE with INDEX 0xFFFF, or one record, those records, and no other. A probe source whose
channel has no code in it any more is disabled. Beyond that, the working copy and the mailbox path nothing changes: no
parameter bank, and no parameter in force while a bank is active. -/
def Obligations.ParameterCommandsChangeTheWorkingCopy : Prop :=
  (∀ (c : MailCmd) (s : State), s.Admits c 0x0101 → octet c.payload 1 = 0 → reservedClear (leAt c.payload 0 1) (c.payload.drop 4) = true →
    ¬((leAt c.payload 0 1 = 3 ∨ leAt c.payload 0 1 = 4) ∧ s.teaching (leAt c.payload 2 2) = true) →
    ∃ t, exec (.paramWrite c) s = .next t ∧ s.Executed t c 0x0101 (some (okReply [])) ∧
      agreeButMail { s with working := s.working.setRec (leAt c.payload 0 1) (leAt c.payload 2 2) (c.payload.drop 4), fe := t.fe } t ∧ s.trimmed t ∧
      (s.activeBank ≠ none → t.params = s.params)) ∧
  (∀ (c : MailCmd) (s : State), s.Admits c 0x0102 →
    ∃ t, exec (.paramRevert c) s = .next t ∧ s.Executed t c 0x0102 (some (okReply [])) ∧
      agreeButMail { s with working := (s.activeBank.map (·.image)).getD s.defaultImage, fe := t.fe } t ∧ s.trimmed t) ∧
  ∀ (c : MailCmd) (s : State), s.Admits c 0x0103 → octet c.payload 1 = 0 →
    (leAt c.payload 0 1 = 0xFF → leAt c.payload 2 2 = 0xFFFF →
      ∃ t, exec (.paramDefaults c) s = .next t ∧ s.Executed t c 0x0103 (some (okReply [])) ∧ agreeButMail { s with working := s.defaultImage, fe := t.fe } t ∧ s.trimmed t) ∧
    ∀ n k : Nat, leAt c.payload 0 1 ≠ 0xFF → recShape (leAt c.payload 0 1) = some (n, k) → (leAt c.payload 2 2 = 0xFFFF ∨ leAt c.payload 2 2 < n) →
      ∃ t, exec (.paramDefaults c) s = .next t ∧ s.Executed t c 0x0103 (some (okReply [])) ∧ agreeButMail { s with working := t.working, fe := t.fe } t ∧ s.trimmed t ∧
        (∀ i, i < n → (leAt c.payload 2 2 = 0xFFFF ∨ leAt c.payload 2 2 = i) →
          t.working.getRec (leAt c.payload 0 1) i = s.working.defaultRec s.bus.nodeId (leAt c.payload 0 1) i) ∧
        ∀ ty i, recNamed ty i = true → (ty ≠ leAt c.payload 0 1 ∨ (leAt c.payload 2 2 ≠ 0xFFFF ∧ leAt c.payload 2 2 ≠ i)) → t.working.getRec ty i = s.working.getRec ty i

/-- Where a check of the working copy fails, both answer SEAL_REFUSED with the cause, the TYPE, INDEX and field, and
change nothing. Else SEAL_SHOW answers OK with the seal code. SEAL_CONFIRM with a valid PERSON answers SEAL_WRONG to
another code; to that code, where the state is SEALED and the active bank has it already, OK with RESULT 1 and no
effect; else OK with RESULT 0, and then the bank not last used holds the working copy with its code, confirmed, with
the next sequence number, and is active; the life-cycle state is SEALED in flash and in the register; no PARAM_CORRUPT
stands; the working copy, other bank, images, outputs and lanes are as before. -/
def Obligations.SealsPutTheWorkingCopyInForce : Prop :=
  (∀ (c : MailCmd) (s : State), s.Admits c 0x0104 →
    ∃ t, exec (.sealShow c) s = .next t ∧ agreeButMail s t ∧
      s.Executed t c 0x0104 (some (match sealFailure s.working (s.nodeOf s.working) with
        | some f => sealRefusal f
        | none => okReply (s.working.sealOctets ++ toLe 8 0)))) ∧
  ∀ (c : MailCmd) (s : State), s.Admits c 0x0105 → badPerson (leAt c.payload 8 4) = false → (∀ f ∈ s.faults, f.scope.length = 4) →
    ∃ t, exec (.sealConfirm c) s = .next t ∧
      (∀ f, sealFailure s.working (s.nodeOf s.working) = some f → s.Executed t c 0x0105 (some (sealRefusal f)) ∧ agreeButMail s t) ∧
      (sealFailure s.working (s.nodeOf s.working) = none → slice c.payload 0 8 ≠ s.working.sealOctets →
        s.Executed t c 0x0105 (some (plain Status.sealWrong)) ∧ agreeButMail s t) ∧
      (sealFailure s.working (s.nodeOf s.working) = none → slice c.payload 0 8 = s.working.sealOctets →
        s.Executed t c 0x0105 (some (okReply (toLe 1 0 ++ toLe 1 (other s.flash.lastBank).val ++ toLe 2 0))) ∧
        t.flash = { s.flash with
          banks := s.flash.banks.set (other s.flash.lastBank) (some {
            pfmt := leAt s.flash.slots[s.upd.runSlot] 24 2
            seq := (((s.flash.banks[other s.flash.lastBank]).map (·.seq)).getD 0 + 1) % 2 ^ 32
            confirmed := true
            image := s.working
            sealCode := s.working.sealOctets })
          lastBank := other s.flash.lastBank
          bankActive := true
          lifecycle := .sealed
          log := t.flash.log } ∧
        t.mode = { s.mode with lifecycle := some .sealed } ∧ (∀ f ∈ t.faults, f.code ≠ FaultCode.paramCorrupt) ∧
        (∀ f, f.code ≠ FaultCode.paramCorrupt → (f ∈ t.faults ↔ f ∈ s.faults)) ∧ t.params = s.working ∧ t.working = s.working ∧
        t.lanes = s.lanes ∧ t.groups = s.groups ∧ t.fe = s.fe ∧ t.banks = s.banks ∧ t.otp = s.otp)

/-- With a set that is not empty and valid fields, PROVE_CLEAR and LATCH_CLEAR join the clears of the next vote instant,
which, once every lane has started the transaction, leaves no held decision of a named channel, and no SWITCH_FAULT or
REACT latch, as KINDS names, of a named channel that the vote commands dark. LAMP_TEST and FIELD_TEST of channels or
outputs configured in the working copy start where no activity of R337 forbids it: the image derived in COMMISSION is
on exactly where the test names the channel or output, no latch keeps it off and, for a channel, the command is lit
now. TEACH of used channels whose feeds and classes fit, with every converter in sequencer mode, teaches the first
named channel of each group. PROOF_TEST wants the tests of the channels that all lanes hold steady on or dark, which
are then due at a permitted instant. LAMP_TEST rounds its duration up to whole cycles, PROOF_TEST has 5 s. The answer
waits. After the vote the lanes hand over images derived anew, unless it is too late for the next action point: the
test then starts one cycle later. Nothing else changes. With one of the same kind running, FIELD_TEST and PROOF_TEST
answer STATE. -/
def Obligations.ClearsAndTestsAwaitTheirEffect : Prop :=
  let votes (u : State) (k : PendingClear) : Prop :=
    u.voteDue = true ∧ u.act.clears = [k] ∧ ∀ x, u.txn k.num = some x → u.allStarted x = true
  (∀ (c : MailCmd) (s : State), s.Admits c 0x0201 → maskAt 96 c.payload 0 ≠ 0 →
    let k : PendingClear := { num := s.mail.nextNum, prove := maskAt 96 c.payload 0 }
    ∃ t, exec (.proveClear c) s = .next t ∧ s.Executed t c 0x0201 none ∧
      agreeButMail { s with act := { s.act with clears := s.act.clears ++ [k] } } t ∧
      ∀ u : State, votes u k → ∃ v, exec .voteInstant u = .next v ∧ ∀ (l : LaneId) (i : Chan), u.active l = true → has (maskAt 96 c.payload 0) i = true →
        v.lanes[l].prov[i].failDark = false ∧ v.lanes[l].prov[i].failLit = false ∧ v.lanes[l].prov[i].foreign = false) ∧
  (∀ (c : MailCmd) (s : State), s.Admits c 0x0202 → leAt c.payload 12 2 < 4096 → leAt c.payload 14 1 < 16 → octet c.payload 15 &&& 0xF0#8 = 0 →
    octet c.payload 15 ≠ 0 → (maskAt 96 c.payload 0 ≠ 0 ∨ leAt c.payload 12 2 ≠ 0 ∨ leAt c.payload 14 1 ≠ 0) →
    let k : PendingClear := {
      num := s.mail.nextNum, latchCh := maskAt 96 c.payload 0, groups := BitVec.ofNat 12 (leAt c.payload 12 2), banks := BitVec.ofNat 4 (leAt c.payload 14 1)
      kinds := octet c.payload 15, isProve := false }
    ∃ t, exec (.latchClear c) s = .next t ∧ s.Executed t c 0x0202 none ∧
      agreeButMail { s with act := { s.act with clears := s.act.clears ++ [k] } } t ∧
      ∀ u : State, votes u k → ∃ v, exec .voteInstant u = .next v ∧ ∀ (l : LaneId) (i : Chan), u.active l = true → has (maskAt 96 c.payload 0) i = true →
        (∀ x : LaneId, u.active x = true → cmdDark v.lanes[x].voted.cmd[i] = true) →
        ((octet c.payload 15).getLsbD 0 = true → has v.lanes[l].latches.switchFault i = false) ∧
        ((octet c.payload 15).getLsbD 1 = true → has v.lanes[l].latches.react i = false)) ∧
  (∀ (c : MailCmd) (es : List (Chan × Nat × Nat × Nat × Nat)) (s : State), s.Admits c 0x0203 → allZero c.payload 1 3 = true →
    teachEntries c.payload = some es → es ≠ [] → es.length ≤ 96 → (es.map (·.1)).Nodup →
    (∀ e ∈ es, 1 ≤ e.2.1 ∧ e.2.1 ≤ 5 ∧ s.working.used e.1 = true ∧ s.teachFeed e.1.group = true ∧ classFits s.working e.1 e.2.1 = true) →
    (∀ g : GroupId, auxMode s.fe[g].aux.ctrl = 2) → s.act.teach = none → s.act.lamp = none → s.activating = false →
    ∃ t, exec (.teach c) s = .next t ∧ s.Executed t c 0x0203 none ∧
      agreeButMail { s with act := { s.act with teach := some { num := s.mail.nextNum, entries := es, since := Vector.replicate 12 s.now } }, lanes := t.lanes } t ∧
      (∀ l : LaneId, t.lanes[l] = { s.lanes[l] with teach := Vector.replicate 12 {} }) ∧
      ∀ i : Chan, t.taught i = true ↔ (es.map (·.1)).find? (fun j => j.group == i.group) = some i) ∧
  (∀ (c : MailCmd) (s : State), s.Admits c 0x0204 → octet c.payload 13 = 0 → maskAt 96 c.payload 0 ≠ 0 → 1 ≤ leAt c.payload 12 1 → leAt c.payload 12 1 ≤ 5 →
    1 ≤ leAt c.payload 14 2 → leAt c.payload 14 2 ≤ 600 → (∀ i : Chan, has (maskAt 96 c.payload 0) i = true → s.working.configured i = true) →
    s.act.teach = none → s.act.lamp = none →
    ∃ t, exec (.lampTest c) s = .next t ∧ s.Executed t c 0x0204 none ∧
      agreeButMail { s with act := { s.act with lamp := some {
        num := s.mail.nextNum, chans := maskAt 96 c.payload 0, cmd := BitVec.ofNat 4 (leAt c.payload 12 1), duration := s.wholeCycles (leAt c.payload 14 2), skip := s.pastHandOver } }, lanes := t.lanes } t ∧ s.handsOverAnew t ∧
      (s.targetMode = .commission → ∀ (l : LaneId) (i : Chan), has (t.derive l).on i = (has (maskAt 96 c.payload 0) i &&
        !has s.lanes[l].due.chanOff i && !has s.lanes[l].due.energy i.group && cmdLit (BitVec.ofNat 4 (leAt c.payload 12 1)) s.nextPhaseB))) ∧
  (∀ (c : MailCmd) (s : State), s.Admits c 0x0601 → maskAt 48 c.payload 0 ≠ 0 → 1 ≤ leAt c.payload 6 2 → leAt c.payload 6 2 ≤ 600 →
    (∀ p : Point, has (maskAt 48 c.payload 0) p = true → s.working.isOut p = true) →
    ∃ t, exec (.fieldTest c) s = .next t ∧
      (s.act.field ≠ none → s.Executed t c 0x0601 (some (plain Status.state)) ∧ agreeButMail s t) ∧
      (s.act.field = none → s.Executed t c 0x0601 none ∧ agreeButMail { s with act := { s.act with field := some {
        num := s.mail.nextNum, pts := maskAt 48 c.payload 0, duration := leAt c.payload 6 2 * Config.sec, skip := s.pastHandOver } }, lanes := t.lanes } t ∧ s.handsOverAnew t ∧
        (s.targetMode = .commission → ∀ (l : LaneId) (p : Point), has (t.derive l).pts p = (has (maskAt 48 c.payload 0) p && !s.lanes[l].due.pointOff p)))) ∧
  ∀ (c : MailCmd) (s : State), s.Admits c 0x0701 → maskAt 96 c.payload 0 ≠ 0 →
    let mask : ChanMask := maskOf fun i => has (maskAt 96 c.payload 0) i && s.lampParams.used i &&
      ((s.activeLanes.all fun l => s.steadyOn l i) || s.activeLanes.all fun l => !s.isOn l i)
    ∃ t, exec (.proofTest c) s = .next t ∧
      (s.act.proof ≠ none → s.Executed t c 0x0701 (some (plain Status.state)) ∧ agreeButMail s t) ∧
      (s.act.proof = none → mask = 0 → s.Executed t c 0x0701 (some (okReply (List.replicate 96 0))) ∧ agreeButMail s t) ∧
      (s.act.proof = none → mask ≠ 0 → s.Executed t c 0x0701 none ∧
        (∀ i : Chan, t.tests.chan[i] = if has mask i = true then { s.tests.chan[i] with want := true } else s.tests.chan[i]) ∧
        agreeButMail { s with tests := { s.tests with chan := t.tests.chan }, act := { s.act with
          proof := some { num := s.mail.nextNum, mask := mask, deadline := s.now + 5 * Config.sec } } } t ∧
        ∀ i : Chan, has mask i = true → s.testFree i.group = true → s.onGrid = true → s.nearPeak i.group = true → s.taught i = false → s.activeLanes ≠ [] →
          ((∀ l : LaneId, s.active l = true → s.steadyOn l i = true) → t.offDue i = true) ∧
          (s.params.used i = true → (∀ l : LaneId, s.active l = true → s.isOn l i = false ∧ cmdDark s.lanes[l].inForce.cmd[i] = true) →
            (∀ x : LaneId, s.stands FaultCode.driveLink [i.group.val, x.val] = false) → t.majDue i = true))

/-- WEAR_READ of an item that exists answers OK with its record, of a contactor pair with both. WEAR_REPORT answers OK and
the records of every item enter Q13. WEAR_RESET of a lamp or contactor pair that exists, with reserved 0 and a valid
PERSON, answers OK: the item has no points left and is marked as cleared, every lane's running totals of it start
anew, its figures stay till the next close, and no other item changes; the log gains one record. COPPICE_NOW answers
OK with the lane and the whole milliseconds, rounded up, to the action point at which the window opens: the next one,
or after this cycle's vote the one that follows it; and the window is due now; where no window can open there the time
is a free value (log entry 2), and so is the CODE of the log record. -/
def Obligations.WearCommandsReadAndClear : Prop :=
  (∀ (c : MailCmd) (i : Chan) (s : State), s.Admits c 0x0800 → leAt c.payload 1 1 = i.val →
    (leAt c.payload 0 1 = 1 → ∃ t, exec (.wearRead c) s = .next t ∧ s.Executed t c 0x0800 (some (okReply ((s.wear.lamp[i]).octets 1 i.val 0))) ∧ agreeButMail s t) ∧
    (leAt c.payload 0 1 = 2 → ∃ t, exec (.wearRead c) s = .next t ∧ s.Executed t c 0x0800 (some (okReply ((s.wear.switch[i]).octets 2 i.val 0))) ∧ agreeButMail s t)) ∧
  (∀ (c : MailCmd) (g : GroupId) (s : State), s.Admits c 0x0800 → leAt c.payload 1 1 = g.val → leAt c.payload 0 1 = 3 →
    ∃ t, exec (.wearRead c) s = .next t ∧ agreeButMail s t ∧ s.Executed t c 0x0800 (some (okReply
      ((s.wear.cont[(⟨2 * g.val, by omega⟩ : Fin 24)]).octets 3 g.val 0 ++ (s.wear.cont[(⟨2 * g.val + 1, by omega⟩ : Fin 24)]).octets 3 g.val 1)))) ∧
  (∀ (c : MailCmd) (s : State), s.Admits c 0x0801 →
    ∃ t, exec (.wearReport c) s = .next t ∧ s.Executed t c 0x0801 (some (okReply [])) ∧ agreeButMail s t ∧
      t.mail.rings[(13 : RingId)] = (s.sendWear s.wear.records 8).mail.rings[(13 : RingId)]) ∧
  (∀ (c : MailCmd) (s : State), s.Admits c 0x0802 → allZero c.payload 2 2 = true → badPerson (leAt c.payload 4 4) = false →
    (∀ i : Chan, leAt c.payload 0 1 = 1 → leAt c.payload 1 1 = i.val →
      ∃ t, exec (.wearReset c) s = .next t ∧ s.Executed t c 0x0802 (some (okReply [])) ∧
        t.wear.lamp = s.wear.lamp.set i { s.wear.lamp[i] with pts := [], offDays := 0, clearedNow := true } ∧
        (∀ l : LaneId, (t.wear.run[l]).lamp = (s.wear.run[l]).lamp.set i (((s.wear.run[l]).lamp[i]).clearHistory s.now) ∧ (t.wear.run[l]).cont = (s.wear.run[l]).cont) ∧
        t.flash = { s.flash with log := t.flash.log } ∧ t.flash.log.length = s.flash.log.length + 1 ∧
        agreeButMail { s with wear := { s.wear with lamp := t.wear.lamp, run := t.wear.run }, flash := t.flash, fresh := s.fresh + 1 } t) ∧
    (∀ g : GroupId, leAt c.payload 0 1 = 3 → leAt c.payload 1 1 = g.val →
      ∃ t, exec (.wearReset c) s = .next t ∧ s.Executed t c 0x0802 (some (okReply [])) ∧
        (∀ j : Fin 24, t.wear.cont[j] = if j.val / 2 = g.val then (s.wear.cont[j]).clearHistory else s.wear.cont[j]) ∧
        (∀ (l : LaneId) (j : Fin 24), (t.wear.run[l]).cont[j] = if j.val / 2 = g.val then {} else (s.wear.run[l]).cont[j]) ∧
        (∀ l : LaneId, (t.wear.run[l]).lamp = (s.wear.run[l]).lamp) ∧
        t.flash = { s.flash with log := t.flash.log } ∧ t.flash.log.length = s.flash.log.length + 1 ∧
        agreeButMail { s with wear := { s.wear with cont := t.wear.cont, run := t.wear.run }, flash := t.flash, fresh := s.fresh + 1 } t)) ∧
  ∀ (c : MailCmd) (s : State), s.Admits c 0x0702 →
    ∃ t w, exec (.coppiceNow c) s = .next t ∧
      (let opens := if s.mode.voted = true then s.nextAp + s.localIn s.tCyc else s.nextAp
       s.coppice.step = 0 → s.windowMay opens = true → w = (opens - s.now + Config.ms - 1) / Config.ms) ∧
      s.Executed t c 0x0702 (some (okReply (toLe 1 ((s.coppice.repeatLane).getD s.coppice.next).val ++ toLe 1 0 ++ toLe 2 w))) ∧
      agreeButMail { s with coppice := { s.coppice with dueAt := some s.now, deferred := false }, fresh := s.fresh + 1 } t

/-- UPD_OPEN of 1 to 8,388,608 octets outside a trial joins the claims that the next tick resolves. UPD_BLOCK of the
owner, in a session open and no trial, of a block that ends within the size: at the offset received so far it is
appended in the slot that is not active, counted, and completes the download at the size; at another it is answered
UPDATE_OFFSET with that count. UPD_VERIFY once received answers with the image status (authenticity before binding
before version), the version and the product, and the session is VERIFIED where it is OK. UPD_CLOSE outside a trial
ends the session, with UPD_CLOSED in the log, and erases a slot partly received. The boot control record, the running
slot and OTP stay. -/
def Obligations.DownloadsFillTheOtherSlot : Prop :=
  (∀ (c : MailCmd) (s : State), s.Admits c 0x0900 → 1 ≤ leAt c.payload 0 4 → leAt c.payload 0 4 ≤ 8388608 → s.upd.st ≠ .trial →
    ∃ t, exec (.updOpen c) s = .next t ∧ s.Executed t c 0x0900 none ∧
      agreeButMail { s with upd := { s.upd with claims := s.upd.claims ++ [(c.src, s.mail.nextNum, leAt c.payload 0 4, dw (leAt c.payload 4 4))] } } t) ∧
  (∀ (c : MailCmd) (s : State), s.Admits c 0x0901 → s.upd.st.opened = true → leAt c.payload 0 4 + (c.payload.drop 4).length ≤ s.upd.size →
    let k := other s.flash.bootRec.activeSlot
    let n := s.upd.received + (c.payload.drop 4).length
    ∃ t, exec (.updBlock c) s = .next t ∧
      (leAt c.payload 0 4 ≠ s.upd.received → agreeButMail s t ∧
        s.Executed t c 0x0901 (some { status := Status.updateOffset, payload := toLe 4 s.upd.received })) ∧
      (leAt c.payload 0 4 = s.upd.received → s.Executed t c 0x0901 (some (okReply [])) ∧
        agreeButMail { s with
          flash := { s.flash with slots := s.flash.slots.set k ((s.flash.slots[k]).take s.upd.received ++ c.payload.drop 4), delivered := s.flash.delivered &&& ~~~(only k) }
          upd := { s.upd with received := n, st := if n = s.upd.size then .received else .receiving } } t)) ∧
  (∀ (c : MailCmd) (s : State), s.Admits c 0x0902 → (s.upd.st = .received ∨ s.upd.st = .verified) →
    let img := s.flash.slots[other s.flash.bootRec.activeSlot]
    let st := if s.otp.authentic img s.upd.size = false then Status.imageAuth else if s.otp.bound img = false then Status.imageBinding
      else if leAt img 12 4 < s.otp.minimum then Status.imageRollback else Status.ok
    ∃ t, exec (.updVerify c) s = .next t ∧
      s.Executed t c 0x0902 (some { status := st, payload := toLe 4 (leAt img 12 4) ++ toLe 2 (leAt img 6 2) ++ toLe 2 0 }) ∧
      agreeButMail { s with upd := { s.upd with st := if st = Status.ok then .verified else .received } } t) ∧
  ∀ (c : MailCmd) (s : State), s.Admits c 0x0906 → s.upd.st ≠ .trial →
    ∃ t, exec (.updClose c) s = .next t ∧ s.Executed t c 0x0906 (some (okReply [])) ∧
      t.flash = { s.flash with
        slots := if s.upd.st = .receiving ∧ 0 < s.upd.received then s.flash.slots.set (other s.flash.bootRec.activeSlot) [] else s.flash.slots
        log := s.flash.log ++ [s.eventOctets 0x0261 0 3 (scope []) (toLe 1 1)] } ∧
      agreeButMail { s with flash := t.flash, upd := { s.upd with st := .idle, owner := none, size := 0, version := 0, received := 0 } } t

/-- With the session VERIFIED and no TEACH, LAMP_TEST or FIELD_TEST, UPD_ACTIVATE answers OK: the boot control record in
force is a trial of the slot not active, with the bank and life-cycle state to fall back to, and the reset is due.
UPD_CONFIRM of the image on trial, with settings compatible and sealed anew where a bank was active, answers OK: its
slot is active, the trial over, its keys to revoke are revoked, and a higher minimum version it names takes the next
cell while one is free. UPD_ROLLBACK in a counted trial restores bank and life-cycle state, ends the trial and makes
the reset due; outside one, with no session, it starts the other slot on trial where its image passes or is one
delivered with the module, else answers with the image status and changes nothing. -/
def Obligations.TrialsStartAndEnd : Prop :=
  (∀ (c : MailCmd) (s : State), s.Admits c 0x0903 → s.upd.st = .verified → s.act.teach = none → s.act.lamp = none → s.act.field = none →
    ∃ t, exec (.updActivate c) s = .next t ∧ s.Executed t c 0x0903 (some (okReply [])) ∧
      t.flash.bootRec = { s.flash.bootRec with
        seq := s.flash.bootRec.seq + 1, crcOk := true, trial := true, trialSlot := other s.flash.bootRec.activeSlot
        fallbackBank := if s.flash.bankActive then some s.flash.lastBank else none, trials := 0, trialTime := 0, preLc := s.flash.lifecycle, counted := true } ∧
      t.flash = { s.flash with boot := t.flash.boot, log := t.flash.log } ∧
      agreeButMail { s with flash := t.flash, upd := { s.upd with st := .trial, resetDue := some s.now } } t) ∧
  (∀ (c : MailCmd) (s : State), s.Admits c 0x0904 → s.upd.trialRun = true → (s.upd.incompat = false ∨ s.upd.sealedInTrial = true) →
    (s.flash.bootRec.fallbackBank = none ∨ s.upd.sealedInTrial = true) →
    let img := s.flash.slots[s.flash.bootRec.trialSlot]
    ∃ t, exec (.updConfirm c) s = .next t ∧ s.Executed t c 0x0904 (some (okReply [])) ∧
      t.flash.bootRec = { s.flash.bootRec with
        seq := s.flash.bootRec.seq + 1, crcOk := true, activeSlot := s.flash.bootRec.trialSlot, trial := false, trials := 0, trialTime := 0 } ∧
      t.flash = { s.flash with boot := t.flash.boot, log := t.flash.log } ∧
      t.otp = { s.otp with
        revoked := s.otp.revoked ||| (octet img 29).setWidth 4
        minCells := if leAt img 16 4 ≤ s.otp.minimum ∨ 8 ≤ s.otp.minCells.length then s.otp.minCells else s.otp.minCells ++ [dw (leAt img 16 4)] } ∧
      agreeButMail { s with flash := t.flash, otp := t.otp, upd := { s.upd with
        st := .idle, owner := none, trialRun := false, incompat := false, sealedInTrial := false, trialStart := none } } t) ∧
  (∀ (c : MailCmd) (s : State), s.Admits c 0x0905 → s.upd.trialRun = true → s.flash.bootRec.counted = true →
    ∃ t, exec (.updRollback c) s = .next t ∧ s.Executed t c 0x0905 (some (okReply [])) ∧
      t.flash.bootRec = { s.flash.bootRec with seq := s.flash.bootRec.seq + 1, crcOk := true, trial := false, fell := 3 } ∧
      t.flash.lifecycle = s.flash.bootRec.preLc ∧ t.flash.bankActive = s.flash.bootRec.fallbackBank.isSome ∧
      (∀ b, s.flash.bootRec.fallbackBank = some b → t.flash.lastBank = b ∧ t.flash.banks[b] = s.flash.banks[b]) ∧
      t.flash = { s.flash with
        boot := t.flash.boot, lifecycle := t.flash.lifecycle, bankActive := t.flash.bankActive, lastBank := t.flash.lastBank, banks := t.flash.banks } ∧
      agreeButMail { s with flash := t.flash, upd := { s.upd with resetDue := some s.now } } t) ∧
  ∀ (c : MailCmd) (s : State), s.Admits c 0x0905 → s.upd.trialRun = false → s.upd.owner = none →
    let img := s.flash.slots[other s.flash.bootRec.activeSlot]
    ∃ t, exec (.updRollback c) s = .next t ∧
      (s.slotPasses (other s.flash.bootRec.activeSlot) = false → s.Executed t c 0x0905 (some (plain (s.otp.imageStatus img img.length))) ∧ agreeButMail s t) ∧
      (s.otp.imageStatus img img.length = Status.ok ∨ has s.flash.delivered (other s.flash.bootRec.activeSlot) = true → s.Executed t c 0x0905 (some (okReply [])) ∧ t.flash.bootRec.trial = true ∧
        t.flash.bootRec.trialSlot = other s.flash.bootRec.activeSlot ∧ t.upd.resetDue = some s.now)

/-- For a transaction not done, of an opcode the lanes vote on, while the mailbox engine runs: RESPONSE_VOTE sends the
response of the first lane whose check value equals another’s to the ring of the source, or behind it, and the
transaction is done; with no two equal it changes nothing. 20 ms after the first answer without two equal,
LANE_DISAGREE sends a response of that status and writes one log record. LSPEC_RESPONSE_TIMEOUT ends a lane-specific
transaction 20 ms after its first answer. RESPONSE_RING_ROOM moves the waiting messages in order until one has no
room. COMMAND_START of a lane with a ring due has it start the oldest command of that ring it has not started, hand
over an answer that is known, and pass on to the next ring. No register, parameter, store or output changes. -/
def Obligations.AnswersNeedTwoLanes : Prop :=
  (∀ (n : Nat) (x : Txn) (s : State), s.txn n = some x → x.done = false → x.lspec = false → s.mailUp = true →
    (x.agreed = none → exec (.responseVote n) s = .next s) ∧
    (∀ (l : LaneId) (r : Reply), x.agreed = some l → x.replies[l] = some r →
      ∃ t, exec (.responseVote n) s = .next t ∧ Holds t (respRing x.src) (x.message r) ∧ (∀ y ∈ t.mail.txns, y.num = n → y.done = true) ∧ agreeButMail s t) ∧
    (x.agreed = none → x.late s.now = true →
      ∃ t m, exec (.laneDisagree n) s = .next t ∧ m = x.message (plain Status.laneDisagree) ∧ Holds t (respRing x.src) m ∧
        (∀ y ∈ t.mail.txns, y.num = n → y.done = true) ∧ t.flash.log.length = s.flash.log.length + 1 ∧ agreeButReports s t)) ∧
  (∀ (n : Nat) (x : Txn) (s : State), s.txn n = some x → x.done = false → x.lspec = true → x.late s.now = true →
    ∃ t, exec (.lspecResponseTimeout n) s = .next t ∧ (∀ y ∈ t.mail.txns, y.num = n → y.done = true ∧ y.inFlight = false) ∧ agreeButMail s t) ∧
  (∀ (q : RingId) (s : State), s.mailUp = true →
    ∃ t k, exec (.responseRingRoom q) s = .next t ∧ t.mail.rings[q].msgs = s.mail.rings[q].msgs ++ (s.mail.rings[q].waiting.take k) ∧
      t.mail.rings[q].waiting = s.mail.rings[q].waiting.drop k ∧ (∀ m ∈ t.mail.rings[q].waiting.head?, t.mail.rings[q].room m.octets.length = false) ∧
      (∀ q', q' ≠ q → t.mail.rings[q'] = s.mail.rings[q']) ∧ agreeButMail s t) ∧
  ∀ (l : LaneId) (q : RingId) (x : Txn) (rest : List Txn) (r : Reply) (s : State), s.active l = true → s.mailUp = true → s.ringDue l = some q →
    s.unstarted l q = x :: rest → (s.mail.txns.map (·.num)).Nodup → (∀ y ∈ s.mail.txns, y.judged = true) → x.lspec = false → x.outcome = some r →
    x.replies[l] = none → x.done = false →
    ∃ t y, exec (.commandStart l q) s = .next t ∧ y ∈ t.mail.txns ∧ y.num = x.num ∧ has y.started l = true ∧ y.replies[l] = some r ∧ y.outcome = some r ∧
      (t.mail.turn[l]).val = (q.val + 1) % 6 ∧ agreeButMail s t

/-- When a vote instant has come, VOTE_INSTANT answers a next state in which every lane in the vote holds the voted image:
a channel has a command v other than 0 exactly where v is at most 5 and two masters carry v in fresh images (eligible
by SEAL and SSET, age at most MAX_AGE); a point is on, and a budget octet v other than 0, exactly where two carry it;
and the drive image for the next action point is derived from it. Where voted drive is in force, a lane is in the
vote, no NO_QUORUM stands and fewer than two masters have an eligible image of age at most 2 times MAX_AGE, NO_QUORUM
stands, every lane in the vote holds the SAFE latch and SAFE is decided. Before the vote instant nothing changes. -/
def Obligations.VotedOutputsNeedTwoMasters : Prop :=
  ∀ s : State, (s.voteDue = false → exec .voteInstant s = .next s) ∧
    (s.voteDue = true → ∃ t, exec .voteInstant s = .next t ∧ t.mode.voted = true ∧
      (∀ l : LaneId, s.active l = true →
        let fresh (m : MasterId) (p : Bytes) : Prop := (s.masterView m).freshAt s.params.maxAge = true ∧ (s.masterView m).image.map (·.payload) = some p
        (∀ (c : Chan) (v : BitVec 4), v ≠ 0 → (t.lanes[l].voted.cmd[c] = v ↔
          v.toNat ≤ 5 ∧ ∃ m n p q, m ≠ n ∧ fresh m p ∧ fresh n q ∧ imgLamp p c = v ∧ imgLamp q c = v)) ∧
        (∀ i : Point, has t.lanes[l].voted.pts i = true ↔
          ∃ m n p q, m ≠ n ∧ fresh m p ∧ fresh n q ∧ has (imgPoints p) i = true ∧ has (imgPoints q) i = true) ∧
        (∀ (i : Fin 24) (v : Byte), v ≠ 0 → (t.lanes[l].voted.budget[i] = v ↔
          ∃ m n p q, m ≠ n ∧ fresh m p ∧ fresh n q ∧ imgBudget p i.val = v ∧ imgBudget q i.val = v)) ∧
        t.lanes[l].drive.next = t.derive l) ∧
      (s.mode.mode.drives = true → s.activeLanes ≠ [] → s.anyStands FaultCode.noQuorum = false →
        (∀ m n : MasterId, m ≠ n → (s.masterView m).freshAt (2 * s.params.maxAge) = false ∨ (s.masterView n).freshAt (2 * s.params.maxAge) = false) →
        t.anyStands FaultCode.noQuorum = true ∧ (∀ l : LaneId, s.active l = true → t.lanes[l].latches.safe = true) ∧
        t.mode.next = some { target := .safe, cause := 9 }))

/-- When it has come, outside cold start, ACTION_POINT answers a next state whose cycle starts now, with count and global
time of the hub the lanes follow, or of their own where none leads, one T_CYC on; every lane in the vote that has its
images has the image derived for it in force and the voted points; a vote and a freeze are to come. Else it changes
nothing. LATCH_DRIVE_REDERIVE of a lane in the vote at least 2.2 µs before the next action point derives its next
image anew, and later changes nothing. After LATCH_MERGE every lane in the vote holds a latch exactly where one of
them held it; the other lanes, and all else but status codes, their events and the trigger of a capture, are as
before. -/
def Obligations.ActionPointsPutImagesInForce : Prop :=
  (∀ s : State, (s.apDue = false → exec .actionPoint s = .next s) ∧
    (s.apDue = true → s.bus.coldStart = false →
      let u := (s.limitsAtAction (s.now - s.bus.apAt)).compareHubs
      ∃ t, exec .actionPoint s = .next t ∧ t.bus.apAt = s.now ∧ t.mode.voted = false ∧ t.mode.frozen = false ∧
        (u.leader = none → t.bus.apGt = s.bus.apGt + BitVec.ofNat 64 s.tCyc ∧ t.bus.apCycle = s.bus.apCycle + 1) ∧
        (∀ h, u.leader = some h → t.bus.apGt = u.hubs[h].time.apGt + BitVec.ofNat 64 (u.hubCyc h) ∧ t.bus.apCycle = u.hubs[h].bus.cycle + 1) ∧
        ∀ l : LaneId, s.active l = true → s.lanes[l].noImage = false → t.lanes[l].drive.img = s.lanes[l].drive.next ∧ t.lanes[l].inForce.pts = s.lanes[l].voted.pts)) ∧
  (∀ (l : LaneId) (s : State), s.active l = true →
    (s.now + 440 ≤ s.nextAp → ∃ t, exec (.latchDriveRederive l) s = .next t ∧ agreeButLane s t l ∧
      t.lanes[l] = { s.lanes[l] with drive := { s.lanes[l].drive with next := s.derive l } }) ∧
    (s.nextAp < s.now + 440 → exec (.latchDriveRederive l) s = .next s)) ∧
  ∀ s : State, ∃ t, exec .latchMerge s = .next t ∧ agreeButReports { s with lanes := t.lanes, act := t.act } t ∧
    t.act = { s.act with capture := s.act.capture.map fun r => { r with trigAt := t.act.capture.bind (·.trigAt) } } ∧
    ∀ l : LaneId, (s.active l = false → t.lanes[l] = s.lanes[l]) ∧
      (s.active l = true →
        t.lanes[l] = { s.lanes[l] with latches := t.lanes[l].latches, clr := t.lanes[l].clr, codes := t.lanes[l].codes, ptCodes := t.lanes[l].ptCodes } ∧
        (t.lanes[l].latches.safe = true ↔ ∃ k : LaneId, s.active k = true ∧ s.lanes[k].latches.safe = true) ∧
        (∀ c : Chan, (has t.lanes[l].latches.short c = true ↔ ∃ k : LaneId, s.active k = true ∧ has s.lanes[k].latches.short c = true) ∧
          (has t.lanes[l].latches.overtemp c = true ↔ ∃ k : LaneId, s.active k = true ∧ has s.lanes[k].latches.overtemp c = true) ∧
          (has t.lanes[l].latches.switchFault c = true ↔ ∃ k : LaneId, s.active k = true ∧ has s.lanes[k].latches.switchFault c = true) ∧
          (has t.lanes[l].latches.react c = true ↔ ∃ k : LaneId, s.active k = true ∧ has s.lanes[k].latches.react c = true)) ∧
        (∀ g : GroupId, (has t.lanes[l].latches.revert g = true ↔ ∃ k : LaneId, s.active k = true ∧ has s.lanes[k].latches.revert g = true) ∧
          (has t.lanes[l].latches.energy g = true ↔ ∃ k : LaneId, s.active k = true ∧ has s.lanes[k].latches.energy g = true) ∧
          (has t.lanes[l].latches.safeState g = true ↔ ∃ k : LaneId, s.active k = true ∧ has s.lanes[k].latches.safeState g = true)) ∧
        (∀ b : BankId, has t.lanes[l].latches.supplyLoss b = true ↔ ∃ k : LaneId, s.active k = true ∧ has s.lanes[k].latches.supplyLoss b = true) ∧
        ∀ i : Point, (has t.lanes[l].latches.outFault i = true ↔ ∃ k : LaneId, s.active k = true ∧ has s.lanes[k].latches.outFault i = true) ∧
          (has t.lanes[l].latches.restart i = true ↔ ∃ k : LaneId, s.active k = true ∧ has s.lanes[k].latches.restart i = true))

/-- When the freeze has come, SUB_IMAGE_FREEZE answers a next state in which every hub that runs holds, for each lane in
the vote or resting, its sub-image and the safety code over it, and none for another lane; the credit limits are anew;
and each STATUS, FAULT_LIST, LAMP_READ or FIELD_READ that every lane in the vote has executed and no one has answered
is answered with the values that stand. In the module’s slot, once a cycle, MODULE_SLOT_SEND sends on every channel
that can send one frame with a correct check sequence, the set, the cycle and this node, whose payload holds the
frozen sub-images (0xFF where a lane has none) and the start of the cycle; a null frame where no lane has one; in cold
start a frame of TYPE 1 with the start of the cycle and the attempt. -/
def Obligations.FreezesAndSlotsReport : Prop :=
  (∀ s : State, (s.freezeDue = false → exec .subImageFreeze s = .next s) ∧
    (s.freezeDue = true → (s.mail.txns.map (·.num)).Nodup →
      let u := s.decideGroups.noteAll
      ∃ t, exec .subImageFreeze s = .next t ∧ t.mode = { s.mode with frozen := true } ∧
        (∀ (h : HubId) (l : LaneId), s.hubs[h].inReset = false → t.hubs[h].bus.sub[l] =
          if s.active l = true ∨ s.lanes[l].st = .resting then
            some (u.subOctets l ++ scode (implicit 3 s.bus.nodeId 0xFE l.val s.slotEcn) (u.subOctets l)) else none) ∧
        (∀ q ∈ segRings, t.mail.rings[q].limit = s.expMseq q + BitVec.ofNat 8 s.mail.rings[q].free) ∧
        ∀ x ∈ s.mail.txns, x.judged = true → x.outcome = none → s.allStarted x = true → (s.freezeReply x 0).isSome = true →
          ∃ y ∈ t.mail.txns, y.num = x.num ∧ y.octets = x.octets ∧ y.outcome.isSome = true ∧
            ∀ l : LaneId, has x.started l = true → x.replies[l] = none → y.replies[l] = u.freezeReply x l)) ∧
  ∀ (j : Nat) (s : State), s.ownSlot = some j → s.mode.mode.runs = true → s.bus.sent = false → (∃ h : HubId, s.canSendOn h = true ∧ s.atSlot h j = true) →
    (∀ b ∈ s.bus.answers, b.length = 8) → (∀ (l : LaneId) (b : Bytes), s.hubs[s.gtHub].bus.sub[l] = some b → b.length = 96) →
    ∃ t fr, exec .moduleSlotSend s = .next t ∧ t.bus.sent = true ∧ Frame.fcsOk fr = true ∧ Frame.sset fr = s.bus.sset % 8 ∧ Frame.cycle fr = s.bus.apCycle ∧
      Frame.sender fr = s.bus.nodeId % 64 ∧
      (∀ h : HubId, s.hubs[h].bus.link = true → (if s.bus.coldStart = true then s.hubs[h].alive = true else s.hubs[h].sends = true) →
        t.hubs[h].bus.tx = fr ∧ t.hubs[h].bus.cnt.txFrames = s.hubs[h].bus.cnt.txFrames + 1) ∧
      (s.bus.coldStart = false → (∀ l : LaneId, s.hubs[s.gtHub].bus.sub[l] = none) → Frame.plen fr = 0) ∧
      (s.bus.coldStart = false → (∃ l : LaneId, s.hubs[s.gtHub].bus.sub[l] ≠ none) →
        (∀ l : LaneId, slice (Frame.cyclic fr) (96 * l.val) 96 = (s.hubs[s.gtHub].bus.sub[l]).getD (List.replicate 96 0xFF)) ∧
        leAt (Frame.cyclic fr) 296 8 = s.hubs[s.gtHub].time.apGt.toNat) ∧
      (s.bus.coldStart = true → Frame.type fr = 1 ∧ leAt fr 16 8 = s.bus.apGt.toNat ∧ leAt fr 24 1 = min 255 (s.bus.csAttempt + 1))

/-- When the last partner’s record of an index that a lane in the vote has evaluated arrives at it, in a mode in which the
lanes run, COMPARE_RECORD holds it against the check value of the lane’s own evaluation of that index over the groups
both hold valid; the records of that index are dropped, and those four indices old. With two partners: where both
match, nothing else changes; where one differs, LANE_COMPARE names it with case 1 and it restarts, unless its last
restart lies less than 24 h back; where both differ and agree, so does the receiving lane; where all differ, case 2
stands and every lane in the vote holds the SAFE latch. With one partner: outside a window a difference raises case 3
and sets SAFE, and DEGRADED gives way to SAFE with cause 10; in a window it raises case 4 and aborts it. A record as
its sender formed it carries the sender’s evaluation of the same index. -/
def Obligations.ComparesWithdrawTheMinority : Prop :=
  (∀ (k : LaneId) (own e : CmpOwn) (s : State), s.lanes[k].evalAt own.index = some e →
    s.recordOf k own .asSent = some { index := own.index, mask := e.mask, check := e.check (e.mask &&& own.mask) }) ∧
  ∀ (l k : LaneId) (i : Nat) (rx : RxCompare) (own : CmpOwn) (r : CompareRec) (s : State), l ≠ k → s.active l = true → s.active k = true →
    s.mode.mode.runs = true → s.lanes[l].evalAt i = some own → s.recordOf k own rx = some r →
    let same : Prop := own.check (r.mask &&& own.mask) = r.check
    let before := s.lanes[l].cmpSeen.filter fun y => y.index == i && y.sender != k && s.active y.sender
    let kept := s.lanes[l].cmpSeen.filter fun y => y.index != i && decide (i < y.index + 4)
    (∀ x : CmpSeen, s.activeLanes.length = 3 → before = [x] → x.sender ≠ l →
      ∃ t, exec (.compareRecord l k i rx) s = .next t ∧
        (x.same = true → same → agreeButLane s t l ∧ t.lanes[l] = { s.lanes[l] with cmpSeen := kept }) ∧
        (x.same = true → ¬same → t.stands FaultCode.laneCompare [2 ^ k.val, 1] = true ∨ t.lanes[k].st = .lost) ∧
        (x.same = true → ¬same → (∀ a, s.lanes[k].lastRestart = some a → a + day24 ≤ s.now) →
          t.lanes[k].st = .restarting ∧ t.coppice.restarts = s.coppice.restarts + 1 ∧ t.active l = true ∧ t.active x.sender = true) ∧
        (x.same = false → same → (∀ a, s.lanes[x.sender].lastRestart = some a → a + day24 ≤ s.now) →
          t.lanes[x.sender].st = .restarting ∧ t.coppice.restarts = s.coppice.restarts + 1 ∧ t.active l = true ∧ t.active k = true) ∧
        (x.same = false → ¬same → x.check = r.check → (∀ a, s.lanes[l].lastRestart = some a → a + day24 ≤ s.now) →
          t.lanes[l].st = .restarting ∧ t.coppice.restarts = s.coppice.restarts + 1 ∧ t.active k = true ∧ t.active x.sender = true) ∧
        (x.same = false → ¬same → x.check ≠ r.check → t.stands FaultCode.laneCompare [7, 2] = true ∧
          ∀ a : LaneId, s.active a = true → t.active a = true ∧ t.lanes[a].latches.safe = true)) ∧
    (s.activeLanes.length = 2 → before = [] →
      ∃ t, exec (.compareRecord l k i rx) s = .next t ∧
        (same → agreeButLane s t l ∧ t.lanes[l] = { s.lanes[l] with cmpSeen := kept }) ∧
        (¬same → s.windowOpen = false → t.stands FaultCode.laneCompare [2 ^ l.val + 2 ^ k.val, 3] = true ∧
          (∀ a : LaneId, s.active a = true → t.lanes[a].latches.safe = true) ∧
          (s.mode.mode = .degraded → t.mode.mode = .safe ∧ t.mode.cause = 10 ∧ t.mode.dualDisagree = true)) ∧
        (¬same → s.windowOpen = true → t.stands FaultCode.laneCompare [2 ^ l.val + 2 ^ k.val, 4] = true ∧
          (s.coppice.aborted = false → s.coppice.step < 7 → t.coppice.aborted = true ∧ t.coppice.aborts = s.coppice.aborts + 1 ∧
            t.coppice.repeatLane = s.coppice.rest)))

/-- While the link of a running hub is up, FRAME_RECEIVED at a hub with cycle timing answers a next state in which the one
counter of the first failed check of R226, or of valid frames, is one higher; a frame that fails any check leaves
images, transactions, schedule change and time counters alone, and a valid cyclic frame of a master leaves the first
image for this node with its cycle, held back to the vote where it comes too long after its slot (R26,
notes/assumptions/64.md). At a hub that acquires, a sync node’s frame that carries a time sets the hub’s set, cycle
and start of cycle. LINK_UP and LINK_DOWN set the link. CHANNEL_DOWN after CHDOWN silent cycles raises its fault.
SPARE_SLOT_CLAIM takes the lowest slot found empty twice; CLAIM_WAIT_EXPIRY ends the wait. Where its condition does
not hold, each command changes nothing. -/
def Obligations.FramesAreJudgedInOrder : Prop :=
  (∀ (h : HubId) (s : State), (∃ t, exec (.linkUp h) s = .next t ∧ agreeButHub s t h ∧ t.hubs[h] = { s.hubs[h] with bus := { s.hubs[h].bus with link := true } }) ∧
    (∃ t, exec (.linkDown h) s = .next t ∧ agreeButHub s t h ∧ t.hubs[h] = { s.hubs[h] with bus := { s.hubs[h].bus with link := false } }) ∧
    (s.mode.mode.runs = true → s.hubs[h].inReset = false → s.hubs[h].bus.chDown = false → s.params.chDown ≤ s.hubs[h].bus.silent →
      ∃ t, exec (.channelDown h) s = .next t ∧ t.hubs[h].bus.chDown = true ∧
        (s.stands FaultCode.channelDown [h.val] = false → t.stands FaultCode.channelDown [h.val] = true) ∧ t.fe = s.fe ∧ t.banks = s.banks) ∧
    (s.hubs[h].bus.chDown = true ∨ s.hubs[h].bus.silent < s.params.chDown → exec (.channelDown h) s = .next s)) ∧
  (∀ (h : HubId) (f : RxFrame) (s : State),
    (s.mode.mode.runs = false ∨ s.hubs[h].inReset = true ∨ s.hubs[h].bus.link = false → exec (.frameReceived h f) s = .next s) ∧
    (s.mode.mode.runs = true → s.hubs[h].inReset = false → s.hubs[h].bus.link = true → s.timed h = true →
      let k := if rxEarly f ≠ 0 then rxEarly f else if s.judgeFrame h f ≠ 0 then s.judgeFrame h f else if s.params.payloadOk f.octets = true then 0 else 8
      let c := s.hubs[h].bus.cnt.judged k
      ∃ t, exec (.frameReceived h f) s = .next t ∧
        (t.hubs[h].bus.cnt.valid = c.valid ∧ t.hubs[h].bus.cnt.code = c.code ∧ t.hubs[h].bus.cnt.fcs = c.fcs ∧ t.hubs[h].bus.cnt.header = c.header ∧
          t.hubs[h].bus.cnt.timing = c.timing ∧ t.hubs[h].bus.cnt.sender = c.sender ∧ t.hubs[h].bus.cnt.sset = c.sset ∧ t.hubs[h].bus.cnt.cycle = c.cycle ∧
          t.hubs[h].bus.cnt.payload = c.payload) ∧
        (k ≠ 0 → t.hubs[h].bus.store = s.hubs[h].bus.store ∧ t.mail.txns = s.mail.txns ∧ t.bus.change = s.bus.change ∧
          t.hubs[h].time.gtMismatch = s.hubs[h].time.gtMismatch) ∧
        ∀ m : MasterId, k = 0 → s.params.sourceOf (Frame.sender f.octets) = some (.master m) → s.hubs[h].bus.integ ≠ .acquire → Frame.plen f.octets ≠ 0 →
          Frame.type f.octets ≠ 1 →
          let held := ((s.hubs[h].bus.late[m]).getD s.hubs[h].bus.store[m]).image
          let img := ((((Frame.records f.octets).getD []).filterMap fun r =>
            if r.1 = 1 ∧ r.2.1 = s.bus.nodeId then some r.2.2 else none).head?.map fun r => (r, Frame.cycle f.octets)).or held
          (s.pastSlot h (s.placeOf h f).1 = false → t.hubs[h].bus.store[m].image = img ∧ t.hubs[h].bus.late[m] = none) ∧
          (s.pastSlot h (s.placeOf h f).1 = true → t.hubs[h].bus.store[m] = s.hubs[h].bus.store[m] ∧ (t.hubs[h].bus.late[m]).map (·.image) = some img)) ∧
    (∀ (j : Nat) (gt : BitVec 64), s.mode.mode.runs = true → s.hubs[h].inReset = false → s.hubs[h].bus.link = true → s.timed h = false → rxEarly f = 0 →
      s.hubs[h].bus.integ = .acquire → setValid s.params s.bus.nodeId (Frame.sset f.octets) = true → s.params.payloadOk f.octets = true →
      s.params.slotOf (Frame.sset f.octets) (Frame.sender f.octets) = some j → s.params.isSync (Frame.sset f.octets) j = true →
      (s.params.timesIn f.octets).head? = some gt →
      ∃ t, exec (.frameReceived h f) s = .next t ∧ t.hubs[h].bus.acquired = true ∧ t.hubs[h].bus.sset = Frame.sset f.octets ∧
        t.hubs[h].bus.cycle = Frame.cycle f.octets ∧ t.hubs[h].time.apGt = gt ∧ (∀ m : MasterId, t.hubs[h].bus.store[m] = {}))) ∧
  (∀ s : State, (s.mayClaim = false ∨ s.bus.claimWait ≠ none ∨ s.bus.emptyTwice = [] → exec .spareSlotClaim s = .next s) ∧
    (∀ j, s.mayClaim = true → s.bus.claimWait = none → j ∈ s.bus.emptyTwice → (∀ i ∈ s.bus.emptyTwice, j ≤ i) →
      exec .spareSlotClaim s = .next { s with bus := { s.bus with claimed := some j, emptyOnce := [], emptyTwice := [] } })) ∧
  ∀ s : State, (s.bus.claimWait = none → exec .claimWaitExpiry s = .next s) ∧
    ∀ c, s.bus.claimWait = some c → (s.bus.apCycle = c ∨ laterCycle s.bus.apCycle c = true) →
      exec .claimWaitExpiry s = .next { s with bus := { s.bus with claimWait := none, emptyOnce := [], emptyTwice := [] } }

/-- When its idle time has begun, CLOCK_CORRECTION takes the offset of the deviations within 100 ns (the median of three,
the rounded mean of more without the first and the last, none of fewer), slews by it, and takes RATE from it and the
one before, bounded to 4,000 steps; without an offset RATE and the run of large offsets stay. With three deviations or
more, fewer than half of them usable, or with a third offset above 50 ns in a row, the hub goes PASSIVE and acquires,
as does one that heard no valid frame but frames of another set. INTEGRATION_CYCLE_END takes a hub through ACQUIRE,
OBSERVE (two sync nodes, or a cold-starter, and no timing failure), SYNCHRONISE (an offset within 50 ns, or none with
a sync frame usable; at most three repeats) to SEND. SCHED_CHANGED puts the target in force once every node needed has
accepted, and cancels the change where one has not, or drops it where the module no longer integrates. After LISTEN
silent cycles a cold-start node starts with its own slot now; CS_BACKOFF ends that, and CS_BACKOFF_EXPIRY lets the
hubs acquire again. Where its condition does not hold, each changes nothing. -/
def Obligations.HubsCorrectIntegrateAndColdStart : Prop :=
  (∀ (h : HubId) (s : State), (s.correctionDue h = false → exec (.clockCorrection h) s = .next s) ∧
    (s.correctionDue h = true →
      let H := s.hubs[h]
      let vals := (H.time.devs.filter fun d => decide (d.dev.natAbs ≤ 100)).map (·.dev)
      ∃ t, exec (.clockCorrection h) s = .next t ∧ t.hubs[h].time.corrected = true ∧ t.hubs[h].time.nval = vals.length ∧
        (H.bus.validThis = false → 0 < H.bus.ssetFails → t.hubs[h].time.passive = true ∧ t.hubs[h].bus.integ = .acquire ∧ t.bus.diverged = true) ∧
        (3 ≤ H.time.devs.length → 2 * vals.length < H.time.devs.length →
          t.hubs[h].time.c = none ∧ t.hubs[h].time.passive = true ∧ t.hubs[h].time.passiveCnt = H.time.passiveCnt + 1 ∧ t.hubs[h].bus.integ = .acquire) ∧
        ((H.time.devs.length < 3 ∨ H.time.devs.length ≤ 2 * vals.length) →
          (vals.length < 3 → t.hubs[h].time.c = none ∧ t.hubs[h].time.overRun = H.time.overRun ∧ t.hubs[h].time.rate = max (-4000) (min 4000 H.time.rate)) ∧
          (∀ x y z, sortInts vals = [x, y, z] → t.hubs[h].time.c = some y) ∧
          (4 ≤ vals.length → t.hubs[h].time.c = some (roundAway ((((sortInts vals).drop 1).take (vals.length - 2)).sum) (vals.length - 2))) ∧
          (∀ v w, t.hubs[h].time.c = some v → H.time.c = some w →
            t.hubs[h].time.rate = max (-4000) (min 4000 (rateAfter H.time.rate v w (s.params.tCyc H.bus.sset)))) ∧
          ∀ v, t.hubs[h].time.c = some v → t.hubs[h].time.slew = v ∧ t.hubs[h].time.overRun = (if 50 < v.natAbs then H.time.overRun + 1 else 0) ∧
            (50 < v.natAbs → H.time.overRun = 2 → t.hubs[h].time.passive = true ∧ t.hubs[h].bus.integ = .acquire)))) ∧
  (∀ (h : HubId) (s : State), (s.integrationDue h = false → exec (.integrationCycleEnd h) s = .next s) ∧
    (s.integrationDue h = true → ∃ t, exec (.integrationCycleEnd h) s = .next t ∧
      (s.hubs[h].bus.integ = .acquire → t.hubs[h].bus.integ = .observe) ∧
      (s.hubs[h].bus.integ = .observe → t.hubs[h].bus.integ =
        if (2 ≤ s.hubs[h].bus.syncNodes.length ∨ s.hubs[h].bus.csHeard = true) ∧ s.hubs[h].bus.timingFail = false then .synchronise else .acquire) ∧
      (s.hubs[h].bus.integ = .synchronise →
        let pass : Prop := s.hubs[h].time.corrected = true ∧
          ((∃ v, s.hubs[h].time.c = some v ∧ v.natAbs ≤ 50) ∨ (s.hubs[h].time.c = none ∧ s.hubs[h].bus.syncUsable = true))
        (pass → t.hubs[h].bus.integ = .send) ∧ (¬pass → 3 ≤ s.hubs[h].bus.repeats → t.hubs[h].bus.integ = .acquire) ∧
        (¬pass → s.hubs[h].bus.repeats < 3 → t.hubs[h].bus.integ = .synchronise ∧ t.hubs[h].bus.repeats = s.hubs[h].bus.repeats + 1)))) ∧
  (∀ s : State, (s.bus.change = none → exec .schedChanged s = .next s) ∧
    (∀ c : SchedChange, s.bus.change = some c → s.integrated = false →
      exec .schedChanged s = .next { s with bus := { s.bus with change := none, answers := [] } }) ∧
    ∀ c : SchedChange, s.bus.change = some c → s.integrated = true →
      (s.answersOver c = false ∨ ((∀ n ∈ c.needed, n ∈ c.answered) ∧ laterCycle s.bus.apCycle c.lastCycle = false) → exec .schedChanged s = .next s) ∧
      (s.answersOver c = true → (∃ n ∈ c.needed, n ∉ c.answered) →
        ∃ t, exec .schedChanged s = .next t ∧ t.bus = { s.bus with change := none } ∧ agreeButReports { s with bus := t.bus } t) ∧
      (s.answersOver c = true → (∀ n ∈ c.needed, n ∈ c.answered) → laterCycle s.bus.apCycle c.lastCycle = true →
        ∃ t, exec .schedChanged s = .next t ∧ t.bus.sset = c.target ∧ t.bus.change = none ∧
          (∀ h : HubId, t.hubs[h].bus.sset = if s.hubs[h].bus.acquired = true then c.target else s.hubs[h].bus.sset) ∧ t.lanes = s.lanes ∧ t.flash.banks = s.flash.banks)) ∧
  (∀ s : State, ((∀ j, s.coldSlot ≠ some j) ∨ s.silent = false ∨ (∀ h : HubId, s.hubs[h].alive = false) → exec .coldStartListenTimeout s = .next s) ∧
    ∀ j, s.coldSlot = some j → s.silent = true → (∃ h : HubId, s.hubs[h].alive = true) →
      ∃ t, exec .coldStartListenTimeout s = .next t ∧ t.bus.coldStart = true ∧ t.bus.sset = s.params.startSet ∧ t.bus.csAttempt = 0 ∧
        t.bus.apAt = s.now - 2 * s.params.slotStart s.params.startSet j ∧ t.bus.apCycle = s.bus.apCycle + 1 ∧
        ∀ h : HubId, s.hubs[h].alive = true → t.hubs[h].bus.sset = s.params.startSet ∧ t.hubs[h].bus.cycle = s.bus.apCycle + 1 ∧
          t.hubs[h].time.apGt = t.bus.apGt ∧ t.hubs[h].bus.integ = .none) ∧
  ∀ s : State, (s.backoffDue = false → exec .csBackoff s = .next s) ∧
    (s.backoffDue = true → ∃ t, exec .csBackoff s = .next t ∧ t.bus.coldStart = false ∧ t.bus.csWaitUntil = some (s.now + (1 + s.bus.nodeId) * s.tCs) ∧
      (∀ h : HubId, s.hubs[h].alive = true → t.hubs[h].bus.tx = [])) ∧
    ((∀ a, s.bus.csWaitUntil = some a → s.now < a) → exec .csBackoffExpiry s = .next s) ∧
    ∀ a, s.bus.csWaitUntil = some a → a ≤ s.now →
      ∃ t, exec .csBackoffExpiry s = .next t ∧ t.bus = { s.bus with csWaitUntil := none, lastValid := s.now } ∧
        t = { s with hubs := t.hubs, bus := t.bus } ∧ ∀ h : HubId, t.hubs[h] = if s.hubs[h].alive = true then
          { s.hubs[h] with bus := { s.hubs[h].bus with integ := .acquire, acquired := false } } else s.hubs[h]

/-- Once the port is ready, PROD_WRITE to a ring the host produces into takes the messages between PROD and the new value
as transactions in order and moves PROD; with no room, off a message boundary or with the rings not open it is refused
with cause RING. HCONS_WRITE within PROD moves HCONS, else RING. In HALT only Q04 and Q10 take them, else MODE.
AUX_CTRL_WRITE is refused outside COMMISSION (MODE), SEALED or RETIRED (LIFECYCLE) or with a reserved encoding (model
choice, its log entry: RSVD); else, with two lanes in the vote, REF_EN acts at once and the rest with it or at the end
of the conversion. AUX_REQ_CAL leaves a pair requested and AUX_REQ_INJ an explicit trigger, but in SEALED and RETIRED
both are refused (LIFECYCLE). REGISTER_WRITE: AUX_SEL likewise, a free entry of queue memory in both hubs, an
unassigned word UNASSIGNED; a word of RO fields changes nothing. Reserved bits written count, in refused words too.
Before the port is ready, only the report of the last transaction goes. -/
def Obligations.WindowWritesAreJudged : Prop :=
  ∀ (h : HubId) (s : State), s.hubs[h].inReset = false →
    (s.ready = false → ∀ (q : RingId) (a v : Word), exec (.prodWrite h q v) s = .next (s.reported h 0 0 false) ∧
      exec (.hconsWrite h q v) s = .next (s.reported h 0 0 false) ∧ exec (.registerWrite (.window h a v)) s = .next (s.reported h 0 0 false)) ∧
    (s.ready = true → ∀ (q : RingId) (v : Word),
      (s.mode.mode = .halt → q ≠ 4 → exec (.prodWrite h q v) s = .next (s.reported h 3 (0x204 + 0x20 * q.val) false)) ∧
      (s.mode.mode = .halt → q ≠ 10 → exec (.hconsWrite h q v) s = .next (s.reported h 3 (0x206 + 0x20 * q.val) false)) ∧
      (s.mode.mode ≠ .halt ∨ q = 4 →
        let r := s.mail.rings[q]
        let n := (v - r.prod).toNat
        let found := HubState.messages s.hubs[h].qmem q (r.prod.toNat % 32) n 33
        (s.hostProduces q = false → exec (.prodWrite h q v) s = .next (s.reported h 0 0 false)) ∧
        (s.hostProduces q = true → (s.mailUp = false ∨ 32 < r.used + n ∨ found = none) →
          exec (.prodWrite h q v) s = .next (s.reported h 6 (0x204 + 0x20 * q.val) false)) ∧
        ∀ ms, s.hostProduces q = true → s.mailUp = true → r.used + n ≤ 32 → found = some ms →
          ∃ t, exec (.prodWrite h q v) s = .next t ∧ t = { s.reported h 0 0 false with
              mail := { s.mail with rings := t.mail.rings, txns := t.mail.txns, nextNum := s.mail.nextNum + ms.length } } ∧
            t.mail.txns.map (fun x => (x.num, x.src, x.ring, x.octets)) =
              s.mail.txns.map (fun x => (x.num, x.src, x.ring, x.octets)) ++
              ((List.range ms.length).zip ms).map (fun e => (s.mail.nextNum + e.1, Source.host, q, e.2.1)) ∧
            t.mail.rings[q] = { r with prod := v, msgCnt := r.msgCnt + BitVec.ofNat 32 ms.length } ∧ ∀ k : RingId, k ≠ q → t.mail.rings[k] = s.mail.rings[k]) ∧
      (s.mode.mode ≠ .halt ∨ q = 10 →
        let r := s.mail.rings[q]
        (s.hostReads q = false → exec (.hconsWrite h q v) s = .next (s.reported h 0 0 false)) ∧
        (s.hostReads q = true → (s.mailUp = false ∨ (r.prod - r.hcons).toNat < (v - r.hcons).toNat) →
          exec (.hconsWrite h q v) s = .next (s.reported h 6 (0x206 + 0x20 * q.val) false)) ∧
        (s.hostReads q = true → s.mailUp = true → (v - r.hcons).toNat ≤ (r.prod - r.hcons).toNat →
          ∃ t, exec (.hconsWrite h q v) s = .next t ∧ t = { s.reported h 0 0 false with mail := { s.mail with rings := t.mail.rings } } ∧
            t.mail.rings[q] = { r with hcons := v, cons := t.mail.rings[q].cons, msgs := t.mail.rings[q].msgs } ∧ t.mail.rings[q].msgs <:+ r.msgs ∧
            ∀ k : RingId, k ≠ q → t.mail.rings[k] = s.mail.rings[k]))) ∧
    (s.ready = true → ∀ (g : GroupId) (v : Word),
      let closed := s.mode.lifecycle = some .sealed ∨ s.mode.lifecycle = some .retired
      let bad := auxMode v = 3 ∨ 4 < auxInjLen v ∨ 16 < auxRegLen v
      (s.mode.mode ≠ .commission → exec (.auxCtrlWrite h g v) s = .next (s.reported h 3 (0x83C + 0x40 * g.val) (v &&& 0x400F#16 != 0))) ∧
      (s.mode.mode = .commission → closed → exec (.auxCtrlWrite h g v) s = .next (s.reported h 1 (0x83C + 0x40 * g.val) (v &&& 0x400F#16 != 0))) ∧
      (s.mode.mode = .commission → ¬closed → bad → exec (.auxCtrlWrite h g v) s = .next (s.reported h 7 (0x83C + 0x40 * g.val) (v &&& 0x400F#16 != 0))) ∧
      (s.mode.mode = .commission → ¬closed → ¬bad → 2 ≤ s.activeLanes.length →
        ∃ t, exec (.auxCtrlWrite h g v) s = .next t ∧ agreeButFe (s.reported h 0 0 (v &&& 0x400F#16 != 0)) t g ∧
          t.fe[g] = { s.fe[g] with refEn := v.getLsbD 15, refEnAt := t.fe[g].refEnAt, refs := t.fe[g].refs, aux := t.fe[g].aux } ∧
          (v.getLsbD 15 = false → t.fe[g].refs = false) ∧ (v.getLsbD 15 = true → s.fe[g].refEn = true → t.fe[g].refs = s.fe[g].refs) ∧
          (v.getLsbD 15 = true → s.fe[g].refEn = false → t.fe[g].refs = false ∧ t.fe[g].refEnAt = s.now) ∧
          (auxMode v = auxMode s.fe[g].aux.ctrl ∨ s.fe[g].aux.entry = none → t.fe[g].aux.ctrl = v &&& 0x3FF0#16) ∧
          (auxMode v ≠ auxMode s.fe[g].aux.ctrl → s.fe[g].aux.entry ≠ none → t.fe[g].aux = { s.fe[g].aux with nextMode := some (v &&& 0x3FF0#16) })) ∧
      (s.mode.mode = .commission → ¬closed → 2 ≤ s.activeLanes.length →
        exec (.registerWrite (.window h (BitVec.ofNat 16 (0x83D + 0x40 * g.val)) v)) s =
          .next { s.reported h 0 0 (v &&& 0xFFF0#16 != 0) with
            fe := s.fe.set g { s.fe[g] with aux := { s.fe[g].aux with sel := v &&& 0xF#16 } } }) ∧
      (s.mode.mode ≠ .halt → ¬closed → 2 ≤ s.activeLanes.length →
        (∃ t, exec (.auxReqCal h g) s = .next t ∧ agreeButFe (s.reported h 0 0 false) t g ∧ t.fe[g] = { s.fe[g] with aux := t.fe[g].aux } ∧
          t.fe[g].aux.calPend = true) ∧
        ∃ t, exec (.auxReqInj h g) s = .next t ∧ agreeButFe (s.reported h 0 0 false) t g ∧ t.fe[g] = { s.fe[g] with aux := t.fe[g].aux } ∧
          t.fe[g].aux.trigLast = 3 ∧
          (auxMode s.fe[g].aux.ctrl = 2 → auxInjLen s.fe[g].aux.ctrl ≠ 0 → s.fe[g].aux.nextMode = none →
            t.fe[g].aux.injPend = true ∨ t.fe[g].aux.injAct = true)) ∧
      (s.mode.mode ≠ .halt → closed → exec (.auxReqCal h g) s = .next (s.reported h 1 (0x83E + 0x40 * g.val) false) ∧
        exec (.auxReqInj h g) s = .next (s.reported h 1 (0x83E + 0x40 * g.val) false)) ∧
      (s.mode.mode = .halt → exec (.auxReqCal h g) s = .next (s.reported h 3 (0x83E + 0x40 * g.val) false) ∧
        exec (.auxReqInj h g) s = .next (s.reported h 3 (0x83E + 0x40 * g.val) false))) ∧
    (s.ready = true → s.mode.mode ≠ .halt → ∀ (a v : Word),
      (reservedBits a.toNat = none → exec (.registerWrite (.window h a v)) s = .next (s.reported h 2 a.toNat false)) ∧
      (∀ m, a.toNat < 0x200 → reservedBits a.toNat = some m →
        exec (.registerWrite (.window h a v)) s = .next (s.reported h 0 0 (v &&& BitVec.ofNat 16 m != 0)))) ∧
    (s.ready = true → s.mode.mode ≠ .halt → s.mailUp = true → s.memOk → ∀ (q : RingId) (e : Fin 32) (w : Fin 64) (v : Word),
      let a := 0x8000 + 0x800 * q.val + 0x40 * e.val + w.val
      let off := (e.val + 32 - s.mail.rings[q].prod.toNat % 32) % 32
      (s.hostProduces q = true → off + s.mail.rings[q].used < 32 →
        ∃ t, exec (.registerWrite (.window h (BitVec.ofNat 16 a) v)) s = .next t ∧ t = { s.reported h 0 0 false with hubs := t.hubs } ∧
          ∀ k : HubId, t.hubs[k] = { (s.reported h 0 0 false).hubs[k] with qmem := t.hubs[k].qmem } ∧ qWord t.hubs[k].qmem a = v ∧
            ∀ x, x ≠ 2 * (a - 0x8000) → x ≠ 2 * (a - 0x8000) + 1 → Memory.read t.hubs[k].qmem x = Memory.read s.hubs[k].qmem x) ∧
      (s.hostProduces q = false ∨ 32 ≤ off + s.mail.rings[q].used →
        exec (.registerWrite (.window h (BitVec.ofNat 16 a) v)) s = .next (s.reported h 6 a false)))

/-- SPI_TRANSACTION at a hub out of reset whose port is ready: a read burst answers PSTAT and the refused address of the
last transaction, a zero word, and COUNT words: a single word live, a word of a multi-word value whose lowest word
lies in the burst from the instant of its capture, one below whose start the burst begins from the shadow, or live
without one. A write burst of one word is REGISTER_WRITE of it; reserved OP or CMD bits refuse all with cause RSVD,
also in a transaction that ends after CMD (REF_ADDR then 0: model choice, notes/assumptions/142.md); COUNT 0 reads and
writes nothing. While not ready every word is zero. MULTIWORD_CAPTURE stores the whole value: the higher words then
read as captured whatever changes, until the next capture. WINDOW_REFRESH with a supplying lane, in a mode in which
the lanes run, makes every assigned word of a lane-supplied block the supplying lane’s value at both hubs, and
unassigned words zero. -/
def Obligations.WindowReadsAreCoherent : Prop :=
  (∀ (h : HubId) (cut : Bool) (s : State), s.hubs[h].inReset = false → s.ready = false →
    ∀ (cmd addr : Word) (data : List Word), ∃ t, exec (.spiTransaction h (cmd :: addr :: data) cut) s = .next t ∧ agreeButHub s t h ∧
      t.hubs[h] = { s.hubs[h] with win := t.hubs[h].win } ∧ t.hubs[h].win.miso = 0 :: 0 :: data.map (fun _ => 0)) ∧
  (∀ (h : HubId) (cut : Bool) (s : State), s.hubs[h].inReset = false → s.ready = true → ∀ (cmd addr : Word) (data : List Word),
    (field cmd 14 2 = 1 → field cmd 11 3 = 0 → 0 < field cmd 0 11 → data.length = field cmd 0 11 + 1 → addr.toNat + field cmd 0 11 ≤ 0x10000 →
      ∃ t ws, exec (.spiTransaction h (cmd :: addr :: data) cut) s = .next t ∧ agreeButHub s t h ∧ t.hubs[h] = { s.hubs[h] with win := t.hubs[h].win } ∧
        t.hubs[h].win.abort = cut ∧ t.hubs[h].win.ref = false ∧ t.hubs[h].win.miso = s.pstat h :: s.hubs[h].win.refAddr :: 0 :: ws ∧
        ws.length = field cmd 0 11 ∧
        ∀ i, i < field cmd 0 11 → let a := addr.toNat + i
          (multiOf a = none → ws[i]? = some (s.liveWord h a)) ∧
          ∀ lo n, multiOf a = some (lo, n) →
            (addr.toNat ≤ lo → ws[i]? = some (s.liveWord h a)) ∧
            (lo < addr.toNat → ws[i]? = some (match s.hubs[h].win.shadows.find? (fun x => x.1 == lo) with
              | some x => x.2.getD (a - lo) 0
              | none => s.liveWord h a))) ∧
    (∀ v : Word, ∃ u t, exec (.registerWrite (.window h addr v)) s = .next u ∧ exec (.spiTransaction h [0x8001, addr, v] false) s = .next t ∧
      t = { u with hubs := u.hubs.set h { u.hubs[h] with win := { u.hubs[h].win with miso := [s.pstat h, s.hubs[h].win.refAddr, 0] } } }) ∧
    (∀ w, w = addr :: data ∨ w = [] → (field cmd 14 2 = 0 ∨ field cmd 14 2 = 3 ∨ field cmd 11 3 ≠ 0) →
      ∃ t, exec (.spiTransaction h (cmd :: w) cut) s = .next t ∧ t = { s with hubs := t.hubs, mode := t.mode } ∧
        t.mode = { s.mode with refusedX := t.mode.refusedX, refusedY := t.mode.refusedY } ∧ (∀ k, k ≠ h → t.hubs[k] = s.hubs[k]) ∧
        t.hubs[h] = { s.hubs[h] with win := t.hubs[h].win } ∧ t.hubs[h].win.ref = true ∧ t.hubs[h].win.refCause = 7 ∧
        t.hubs[h].win.refAddr = w.headD 0) ∧
    ((field cmd 14 2 = 1 ∨ field cmd 14 2 = 2) → field cmd 11 3 = 0 → field cmd 0 11 = 0 →
      ∃ t, exec (.spiTransaction h [cmd, addr] false) s = .next t ∧ agreeButHub s t h ∧
        t.hubs[h] = { s.hubs[h] with win := { (s.reported h 0 0 false).hubs[h].win with miso := [s.pstat h, s.hubs[h].win.refAddr] } })) ∧
  (∀ (h : HubId) (a : Word) (n : Nat) (s : State), s.ready = true → multiOf a.toNat = some (a.toNat, n) →
    ∃ t, exec (.multiwordCapture h a) s = .next t ∧ agreeButHub s t h ∧
      t.hubs[h] = { s.hubs[h] with win := { s.hubs[h].win with shadows := t.hubs[h].win.shadows } } ∧
      ∀ (u : State) (i : Nat), u.ready = true → u.hubs[h].win.shadows = t.hubs[h].win.shadows → 0 < i → i < n →
        (u.readWord h (a.toNat + i)).1 = s.liveWord h (a.toNat + i)) ∧
  ∀ s : State, (s.supplier = none ∨ s.mode.mode.runs = false → exec .windowRefresh s = .next s) ∧
    (s.supplier ≠ none → s.mode.mode.runs = true →
      ∃ t, exec .windowRefresh s = .next t ∧ t = { s with hubs := t.hubs } ∧
        ∀ h : HubId, (s.hubs[h].inReset = true → t.hubs[h] = s.hubs[h]) ∧
          (s.hubs[h].inReset = false →
            t.hubs[h] = { s.hubs[h] with win := { s.hubs[h].win with supplied := t.hubs[h].win.supplied, refreshed := true } } ∧
            ∀ a, laneBlock a = true → t.liveWord h a = if (reservedBits a).isSome = true then s.laneWord a else 0))

/-- At a lane that runs and whose unit is idle, CV_LOAD loads the initial value, CV_DATA8 folds an octet, CV_DATA32 four,
lowest first, CV_FOLD_IMP the eight of the implicit words; CV_DMA sets BUSY for lengths 1 to 4,096 and else only ERR;
REGISTER_WRITE stores context, implicit words, address and length, clears flags where 1 is written, and refuses a
width outside 8 to 32 with ERR. CV_DMA_DONE folds the octets of the lane’s SRAM and ends BUSY; with an uncorrectable
error it sets ERR and ECC (the running value is free, log entry 2). While BUSY, each write only sets ERR. From the
reset configuration, LOAD and any octets leave in RESULT the CRC-32C of context 0, the CRC-32 of context 1, the
CRC-16/CCITT of context 2. Nothing outside the lane’s unit changes. -/
def Obligations.CheckValuesAreCrcs : Prop :=
  ∀ (l : LaneId) (s : State), s.lanes[l].st ≠ .lost → s.lanes[l].st ≠ .resting →
    let u := s.lanes[l].cvu
    let k := u.ctx[u.sel]
    let put (v : Cvu) : State := { s with lanes := s.lanes.set l { s.lanes[l] with cvu := v } }
    let val (n : Nat) : Cvu := { u with ctx := u.ctx.set u.sel { k with val := BitVec.ofNat 32 n } }
    (u.busy = true →
      exec (.cvLoad l) s = .next (put { u with err := true }) ∧ exec (.cvFoldImp l) s = .next (put { u with err := true }) ∧
      exec (.cvDma l) s = .next (put { u with err := true }) ∧ (∀ d, exec (.cvData8 l d) s = .next (put { u with err := true })) ∧
      (∀ d, exec (.cvData32 l d) s = .next (put { u with err := true })) ∧
      ∀ off v, exec (.registerWrite (.cvu l off v)) s = .next (put { u with err := true })) ∧
    (u.busy = false →
      exec (.cvLoad l) s = .next (put (val (k.init.toNat % 2 ^ u.width k))) ∧
      (∀ d, exec (.cvData8 l d) s = .next (put (val (crcFold (u.width k) (u.polynomial k) k.refin (k.val.toNat % 2 ^ u.width k) [d])))) ∧
      (∀ d : DWord, exec (.cvData32 l d) s = .next (put (val (crcFold (u.width k) (u.polynomial k) k.refin (k.val.toNat % 2 ^ u.width k)
        [d.setWidth 8, (d >>> 8).setWidth 8, (d >>> 16).setWidth 8, (d >>> 24).setWidth 8])))) ∧
      exec (.cvFoldImp l) s = .next (put (val (crcFold (u.width k) (u.polynomial k) k.refin (k.val.toNat % 2 ^ u.width k)
        [u.imp0.setWidth 8, (u.imp0 >>> 8).setWidth 8, (u.imp0 >>> 16).setWidth 8, (u.imp0 >>> 24).setWidth 8,
         u.imp1.setWidth 8, (u.imp1 >>> 8).setWidth 8, (u.imp1 >>> 16).setWidth 8, (u.imp1 >>> 24).setWidth 8]))) ∧
      exec (.cvDma l) s = .next (put (if 1 ≤ u.dlen.toNat ∧ u.dlen.toNat ≤ 4096 then { u with busy := true } else { u with err := true })) ∧
      (∀ e, exec (.cvDmaDone l e) s = .next s) ∧
      (∀ v : DWord, exec (.registerWrite (.cvu l 0x00 v)) s = .next (put { u with sel := ⟨v.toNat % 4, by omega⟩ }) ∧
        exec (.registerWrite (.cvu l 0x28 v)) s = .next (put { u with imp0 := v }) ∧
        exec (.registerWrite (.cvu l 0x34 v)) s = .next (put { u with daddr := v.setWidth 20 }) ∧
        exec (.registerWrite (.cvu l 0x38 v)) s = .next (put { u with dlen := v.setWidth 13 }) ∧
        exec (.registerWrite (.cvu l 0x40 v)) s = .next (put { u with ecc := u.ecc && !v.getLsbD 2, err := u.err && !v.getLsbD 1 }) ∧
        (v.toNat % 64 < 8 ∨ 32 < v.toNat % 64 → exec (.registerWrite (.cvu l 0x18 v)) s = .next (put { u with err := true })) ∧
        (8 ≤ v.toNat % 64 → v.toNat % 64 ≤ 32 → exec (.registerWrite (.cvu l 0x18 v)) s = .next (put { u with uwid := v.setWidth 6 }))) ∧
      ∀ (i : Fin 4) (bs : Bytes) (a t : State), u.sel = i → k = CvContext.atReset[i] → exec (.cvLoad l) s = .next a →
        bs.foldl (fun o d => o.bind fun x => match exec (.cvData8 l d) x with
          | .next y => some y
          | _ => none) (some a) = some t →
        (i = 0 → t.lanes[l].cvu.result = crc32c bs) ∧ (i = 1 → t.lanes[l].cvu.result = crc32 bs) ∧
        (i = 2 → t.lanes[l].cvu.result = (crc16 bs).setWidth 32)) ∧
    (u.busy = true →
      (∃ t, exec (.cvDmaDone l none) s = .next t ∧ t = { s with lanes := t.lanes, fresh := t.fresh } ∧ (∀ j, j ≠ l → t.lanes[j] = s.lanes[j]) ∧
        t.lanes[l] = { s.lanes[l] with cvu := { u with ctx := t.lanes[l].cvu.ctx, busy := false } } ∧
        (u.daddr.toNat + u.dlen.toNat ≤ 2 ^ 20 → t.lanes[l].cvu = { val (crcFold (u.width k) (u.polynomial k) k.refin (k.val.toNat % 2 ^ u.width k)
          (Memory.readRun s.lanes[l].sram u.daddr.toNat u.dlen.toNat)) with busy := false })) ∧
      ∀ e, ∃ t, exec (.cvDmaDone l (some e)) s = .next t ∧ t = { s with lanes := t.lanes, fresh := t.fresh } ∧ (∀ j, j ≠ l → t.lanes[j] = s.lanes[j]) ∧
        t.lanes[l] = { s.lanes[l] with cvu := { u with ctx := t.lanes[l].cvu.ctx, busy := false, err := true, ecc := true } } ∧
        ∀ j : Fin 4, j ≠ u.sel → t.lanes[l].cvu.ctx[j] = u.ctx[j])

/-- A due window waits. COPPICE_STEP_END takes an open window from SAVE to PRECHECK (aborted: REJOIN), after 20 ms in
range to BIST, out of range INVALID to RESTORE, and on through RESTORE and REJOIN, which brings the lane back into the
vote with the merged latches, or loses it where the parameters fail their seal. LBIST_DONE judges by signature,
pattern count and generator state: PASS; FAIL loses the lane; readings out of range are INVALID, to be repeated.
LANE_RESTART_DONE lets the lane rejoin when its steps passed, else it is lost. HUB_TEST_SLICE, once a cycle in the
network idle time, counts a skip below 40 µs, else runs the next slice; a MISR other than the OTP’s raises
HUB_SLICE_FAIL and faults the hub. SRAM_SCRUB_ERROR counts a corrected error; else a lane restarts, or is lost within
24 h of its last restart. QMEM_FAULT takes a hub out of mailbox service: hub X’s engine moves, hub Y’s loss is
STANDBY_LOST, an unjudged command whose body is hit is answered FORMAT. HUB_SWITCHOVER makes hub Y the engine and
answers what was in flight ABORTED. -/
def Obligations.SelfTestsAreJudged : Prop :=
  (∀ s : State, s.coppice.step = 0 → (∀ a, s.coppice.dueAt = some a → a ≤ s.now →
      exec .coppiceDue s = .next { s with coppice := { s.coppice with deferred := true } }) ∧
    ((∀ a, s.coppice.dueAt = some a → s.now < a) → exec .coppiceDue s = .next s)) ∧
  (∀ (r : RangeMeas) (l : LaneId) (s : State), s.coppice.rest = some l →
    let go (k : Nat) : State := { s with coppice := { s.coppice with step := k, stepAt := s.now } }
    let inRange := 816 ≤ r.vmin ∧ r.vmax ≤ 884 ∧ 9800 ≤ r.fmin ∧ r.fmax ≤ 10200
    (s.coppice.step = 1 → exec (.coppiceStepEnd r) s = .next (go (if s.coppice.aborted = true then 6 else 2))) ∧
    (s.coppice.step = 2 → s.now < s.coppice.stepAt + 20 * Config.ms → exec (.coppiceStepEnd r) s = .next s) ∧
    (s.coppice.step = 2 → s.coppice.stepAt + 20 * Config.ms ≤ s.now → inRange → exec (.coppiceStepEnd r) s = .next (go 3)) ∧
    (s.coppice.step = 2 → s.coppice.stepAt + 20 * Config.ms ≤ s.now → ¬inRange → s.lanes[l].lbist.invc < 2 →
      ∃ t, exec (.coppiceStepEnd r) s = .next t ∧ t.coppice = { s.coppice with step := 5, stepAt := s.now, repeatLane := some l } ∧
        t.lanes[l].lbist.res = 3 ∧ t.lanes[l].lbist.invc = s.lanes[l].lbist.invc + 1 ∧ t.lanes[l].st = s.lanes[l].st ∧
        t.stands FaultCode.lbistInvalid [l.val] = true) ∧
    (s.coppice.step = 4 → exec (.coppiceStepEnd r) s = .next (go 5)) ∧ (s.coppice.step = 5 → exec (.coppiceStepEnd r) s = .next (go 6)) ∧
    (s.coppice.step = 6 → s.activeLanes ≠ [] → s.mode.mode ≠ .halt → s.paramsSealed = true →
      ∃ t, exec (.coppiceStepEnd r) s = .next t ∧ t.coppice.step = 7 ∧ t.active l = true ∧ t.lanes[l].latches = s.mergedLatches ∧
        (s.mode.voted = false ∨ s.now + 440 ≤ s.nextAp → t.lanes[l].drive.held = true)) ∧
    (s.coppice.step = 6 → s.activeLanes ≠ [] → s.paramsSealed = false →
      ∃ t, exec (.coppiceStepEnd r) s = .next t ∧ t.lanes[l].st = .lost)) ∧
  (∀ (l : LaneId) (r : LbistRun) (s : State),
    let inRange := 816 ≤ r.meas.vmin ∧ r.meas.vmax ≤ 884 ∧ 9800 ≤ r.meas.fmin ∧ r.meas.fmax ≤ 10200
    let match3 := r.sig = s.otp.lbSig[l] ∧ r.pcount = s.otp.lbCount ∧ r.gen = s.otp.lbGen[l]
    (s.coppice.rest ≠ some l ∨ s.coppice.step ≠ 3 → exec (.lbistDone l r) s = .next s) ∧
    (s.coppice.rest = some l → s.coppice.step = 3 →
      ∃ t, exec (.lbistDone l r) s = .next t ∧ t.lanes[l].lbist.sig = r.sig ∧ t.lanes[l].lbist.pcount = r.pcount ∧ t.lanes[l].lbist.gen = r.gen ∧
        (inRange → match3 → t.lanes[l].lbist.res = 1 ∧ t.lanes[l].lbist.invc = 0 ∧ t.lanes[l].lbist.passAt = some s.now ∧
          t.coppice = { s.coppice with step := 4, stepAt := s.now } ∧ t.lanes[l].st = s.lanes[l].st) ∧
        (inRange → ¬match3 → s.stands FaultCode.lbistFail [l.val] = false → s.lanes[l].st ≠ .lost →
          t.lanes[l].lbist.res = 2 ∧ t.lanes[l].st = .lost ∧ t.stands FaultCode.lbistFail [l.val] = true ∧ t.stands FaultCode.laneLost [l.val] = true) ∧
        (¬inRange → s.lanes[l].lbist.invc < 2 → t.lanes[l].lbist.res = 3 ∧ t.lanes[l].lbist.invc = s.lanes[l].lbist.invc + 1 ∧
          t.coppice = { s.coppice with step := 4, stepAt := s.now, repeatLane := some l } ∧ t.lanes[l].st = s.lanes[l].st ∧
          t.stands FaultCode.lbistInvalid [l.val] = true))) ∧
  (∀ (l : LaneId) (r : RestartResult) (s : State),
    let inRange := 816 ≤ r.lbist.meas.vmin ∧ r.lbist.meas.vmax ≤ 884 ∧ 9800 ≤ r.lbist.meas.fmin ∧ r.lbist.meas.fmax ≤ 10200
    let match3 := r.lbist.sig = s.otp.lbSig[l] ∧ r.lbist.pcount = s.otp.lbCount ∧ r.lbist.gen = s.otp.lbGen[l]
    (s.lanes[l].st ≠ .restarting → exec (.laneRestartDone l r) s = .next s) ∧
    (s.lanes[l].st = .restarting → s.activeLanes ≠ [] → s.mode.mode ≠ .halt → s.paramsSealed = true → r.mbist = true → r.image = true → r.param = true →
      ((inRange ∧ match3) ∨ (¬inRange ∧ s.lanes[l].lbist.invc < 2)) →
      ∃ t, exec (.laneRestartDone l r) s = .next t ∧ t.active l = true ∧ t.lanes[l].latches = s.mergedLatches ∧
        (s.mode.voted = false ∨ s.now + 440 ≤ s.nextAp → t.lanes[l].drive.held = true)) ∧
    (s.lanes[l].st = .restarting → s.stands FaultCode.lbistFail [l.val] = false →
      ((inRange ∧ ¬match3) ∨ (¬inRange ∧ 2 ≤ s.lanes[l].lbist.invc) ∨ r.mbist = false ∨ r.image = false ∨ r.param = false ∨
        (s.activeLanes ≠ [] ∧ s.paramsSealed = false)) →
      ∃ t, exec (.laneRestartDone l r) s = .next t ∧ t.lanes[l].st = .lost ∧ t.stands FaultCode.laneLost [l.val] = true)) ∧
  (∀ (h : HubId) (r : SliceRun) (s : State),
    let x := s.hubs[h].slice
    let i := if x.started = false then 0 else if x.res = 3 then x.slice else (x.slice + 1) % 2048
    let inRange := 816 ≤ r.meas.vmin ∧ r.meas.vmax ≤ 884 ∧ 9800 ≤ r.meas.fmin ∧ r.meas.fmax ≤ 10200
    let put (y : HubSlice) : State := { s with hubs := s.hubs.set h { s.hubs[h] with slice := y } }
    let c := s.hubs[h].bus.cycle
    let want := s.otp.sliceSig[h].getD i 0
    (s.hubs[h].inReset = true ∨ s.mode.mode.runs = false ∨ s.mode.voted = false ∨ s.idleLeft h = none ∨ x.cycle = some c →
      exec (.hubTestSlice h r) s = .next s) ∧
    ∀ n, s.hubs[h].inReset = false → s.mode.mode.runs = true → s.mode.voted = true → s.idleLeft h = some n → x.cycle ≠ some c →
      (n < 8000 → exec (.hubTestSlice h r) s = .next (put { x with skip := true, skips := x.skips + 1, cycle := some c })) ∧
      (8000 ≤ n → inRange → r.misr = want → exec (.hubTestSlice h r) s = .next (put { x with
        res := 1, skip := false, slice := i, cycle := some c, started := true
        passes := if i = 2047 then x.passes + 1 else x.passes, passAt := if i = 2047 then some s.now else x.passAt })) ∧
      (8000 ≤ n → ¬inRange → exec (.hubTestSlice h r) s = .next (put { x with res := 3, skip := false, slice := i, cycle := some c, started := true })) ∧
      (8000 ≤ n → inRange → r.misr ≠ want → s.stands FaultCode.hubSliceFail [h.val] = false →
        ∃ t, exec (.hubTestSlice h r) s = .next t ∧ t.hubs[h].faulted = true ∧ t.stands FaultCode.hubSliceFail [h.val] = true ∧
          t.hubs[h].slice = { x with res := 2, skip := false, slice := i, cycle := some c, started := true })) ∧
  (∀ (l : LaneId) (s : State), (s.lanes[l].st ≠ .lost → s.lanes[l].st ≠ .thawing →
      ∃ t, exec (.sramScrubError (.lane l) true) s = .next t ∧ agreeButLane s t l ∧
        t.lanes[l] = { s.lanes[l] with lbist := { s.lanes[l].lbist with sramCe := s.lanes[l].lbist.sramCe + 1 } }) ∧
    (s.lanes[l].st = .active ∨ s.lanes[l].st = .resting → ∃ t, exec (.sramScrubError (.lane l) false) s = .next t ∧
      ((∀ a, s.lanes[l].lastRestart = some a → a + day24 ≤ s.now) →
        t.lanes[l].st = .restarting ∧ t.lanes[l].lastRestart = some s.now ∧ t.coppice.restarts = s.coppice.restarts + 1) ∧
      (∀ a, s.lanes[l].lastRestart = some a → s.now < a + day24 → t.lanes[l].st = .lost))) ∧
  (∀ (h : HubId) (a : QmemHit) (s : State), (s.hubs[h].inReset = false →
      (∃ t, exec (.sramScrubError (.hub h) true) s = .next t ∧ agreeButHub s t h ∧
        t.hubs[h] = { s.hubs[h] with slice := { s.hubs[h].slice with qmemCe := s.hubs[h].slice.qmemCe + 1 } }) ∧
      ∃ t, exec (.qmemFault h .idle) s = .next t ∧ exec (.sramScrubError (.hub h) false) s = .next t) ∧
    ∃ t, exec (.qmemFault h a) s = .next t ∧ t.hubs[h].outOfMail = true ∧ t.stands FaultCode.qmemFault [h.val] = true ∧
      (∀ l : LaneId, t.lanes[l] = { s.lanes[l] with faultSeq := t.lanes[l].faultSeq }) ∧
      t.mail.active = s.mail.active ∧ t.mail.switching = (s.mail.switching || (h == 0 && s.mail.active == 0)) ∧
      (h = 1 → t.stands FaultCode.standbyLost [1] = true) ∧ (a = .idle ∨ s.mail.active ≠ h → t.mail.txns = s.mail.txns) ∧
      ∀ (q : RingId) (x : Txn), a = .inBody q → s.mail.active = h → s.mail.txns.find? (fun y => y.ring == q && !y.judged) = some x →
        Holds t (respRing x.src) (x.message (plain Status.format))) ∧
  ∀ s : State, exec .mirrorLinkFail s = .next { s with mail := { s.mail with mirrorOk := false, switching := s.mail.switching || s.mail.active == 0 } } ∧
    (s.mail.switching = false ∨ s.mail.active ≠ 0 ∨ s.hubs[(1 : HubId)].inReset = true ∨ s.hubs[(1 : HubId)].outOfMail = true →
      exec .hubSwitchover s = .next s) ∧
    (s.mail.switching = true → s.mail.active = 0 → s.hubs[(1 : HubId)].inReset = false → s.hubs[(1 : HubId)].outOfMail = false →
      ∃ t, exec .hubSwitchover s = .next t ∧ t.mail.active = 1 ∧ t.mail.switching = false ∧
        (∀ x ∈ s.mail.txns, x.inFlight = true → x.done = false → Holds t (respRing x.src) (x.message (plain Status.aborted))) ∧
        s.flash.log <+: t.flash.log ∧ t.lanes = s.lanes ∧ t.fe = s.fe ∧ t.banks = s.banks)

/-- POWER_GOOD resets the module; so does the loss of its supply, which then waits for power-good. The watchdog’s limit
lies 2 s after power-good, and up to 5 s later while a wipe is resumed (a free value, log entry 144). THAW_DONE within
it, with a hub, a slot and two lanes that passed, enters JOIN with cause 1: those lanes in the vote and the others
lost with LANE_LOST, hubs that failed in reset, rings open at the first good hub, the boot counter one on, references
on where no REF_FAULT was found, factory coefficients that lie within their limits loaded, which calibrations made in
Thaw replace; an active bank that fails its seal is PARAM_CORRUPT, no bank is active and the working copy holds the
defaults. Without a hub, two lanes or a slot, and at the Thaw watchdog’s limit, HALT with cause 14, in a trial the
next trial Thaw, its third failure the fallback. WATCHDOG loses a lane that is due: in Thaw from 100 ms after reset.
DEGRADED_LIMIT after 72 h and REVERT_FAIL after FB_TIME and t_fa set the SAFE latch; GLADE_UNPROVEN brings stage 2 in
the lanes that find it. Where its condition does not hold, each changes nothing. -/
def Obligations.StartsAndLimitsOfTheModule : Prop :=
  (∀ s : State, (∃ t, exec .powerGood s = .next t ∧ s.restarted t) ∧
    (s.supply.good = true → ∃ u, s.restarted u ∧ exec .supplyDropReset s = .next { u with supply := { good := false } }) ∧
    (s.supply.good = false → exec .supplyDropReset s = .next s)) ∧
  (∀ s : State, s.mode.resetAt + 2 * Config.sec ≤ s.thawLimit ∧
    s.thawLimit ≤ s.mode.resetAt + 2 * Config.sec + (if s.flash.wiping = true then 5 * Config.sec else 0)) ∧
  (∀ (r : ThawResult) (s : State),
    let b := s.flash.bootRec
    let ends (t : State) : Prop :=
      (b.trial = false ∨ (2 ≤ b.trials ∧ b.counted = false) → t.mode.mode = .halt ∧ t.mode.prev = .thaw ∧ t.mode.cause = 14 ∧
        t.mail.opened = s.mail.opened ∧ ∀ l : LaneId, t.lanes[l].drive.running = false) ∧
      (b.trial = true → b.trials < 2 → t.mode = { State.reset.mode with resetAt := s.now } ∧ t.flash.bootRec.trial = true ∧ t.flash.bootRec.trials = b.trials + 1) ∧
      (b.trial = true → 2 ≤ b.trials → b.counted = true → t.mode = { State.reset.mode with resetAt := s.now } ∧ t.flash.bootRec.trial = false ∧
        t.flash.lifecycle = b.preLc ∧ t.flash.bankActive = b.fallbackBank.isSome)
    let good (k : Fin 2) := s.thawLanes r &&& s.slotLanes r k &&& r.cvu
    (s.mode.mode ≠ .thaw ∨ s.supply.good = false → exec (.thawDone r) s = .next s ∧ exec .thawWatchdogHalt s = .next s) ∧
    (s.thawLimit < s.now → exec (.thawDone r) s = .next s) ∧
    (s.mode.mode = .thaw → s.supply.good = true → (s.now < s.thawLimit → exec .thawWatchdogHalt s = .next s) ∧
      (s.thawLimit ≤ s.now → ∃ t, exec .thawWatchdogHalt s = .next t ∧ ends t)) ∧
    (s.mode.mode = .thaw → s.supply.good = true → s.now ≤ s.thawLimit →
      s.thawHubs r = 0 ∨ twoLanes (s.thawLanes r) = false ∨ s.thawSlot r = none ∨
        (∃ k, s.thawSlot r = some k ∧ (b.trial = true ∨ k = b.activeSlot) ∧ twoLanes (good k) = false) →
      ∃ t, exec (.thawDone r) s = .next t ∧ ends t) ∧
    ∀ k, s.mode.mode = .thaw → s.supply.good = true → s.now ≤ s.thawLimit → s.thawHubs r ≠ 0 → s.thawSlot r = some k →
      (∀ x ∈ r.groupFaults, x.1 = FaultCode.refFault) → twoLanes (good k) = true →
      ∃ t, exec (.thawDone r) s = .next t ∧ t.mode.mode = .join ∧ t.mode.prev = .thaw ∧ t.mode.cause = 1 ∧ t.mail.opened = true ∧
        t.mail.active = (if has (s.thawHubs r) (0 : HubId) = true then 0 else 1) ∧
        (∀ h : HubId, t.hubs[h].inReset = !has (s.thawHubs r) h) ∧ (∀ h : HubId, has (s.thawHubs r) h = true → t.hubs[h].bus.integ = .acquire) ∧
        (∀ l : LaneId, t.lanes[l].st = (if has (good k) l = true then .active else .lost) ∧ (has (good k) l = false → t.stands FaultCode.laneLost [l.val] = true)) ∧
        (∀ g : GroupId, t.fe[g].refEn = true ∧ (t.fe[g].refs = true ↔ (FaultCode.refFault, [g.val]) ∉ r.groupFaults) ∧
          (r.cals = [] → t.groups[g].under.coef = s.otp.factory[g].map fun k => if calInRange k = true then k else {})) ∧
        t.upd.runSlot = k ∧ t.bus.pins = r.pins.val ∧ t.mode.bootShown = t.flash.bootCount ∧
        t.flash.bootCount = (if s.flash.bootCount = 0xFFFF then 1 else s.flash.bootCount + 1) ∧
        ∀ b, s.flash.wiping = false → s.activeBank = some b → b.sealCode ≠ b.image.sealOctets →
          t.stands FaultCode.paramCorrupt [s.flash.lastBank.val] = true ∧ t.activeBank = none ∧ t.working = ParamImage.defaults t.bus.nodeId) ∧
  (∀ (l : LaneId) (s : State),
    let due := s.lanes[l].st = .active ∨
      ((s.lanes[l].st = .resting ∨ s.lanes[l].st = .restarting) ∧ s.lanes[l].wdService + s.lanes[l].wdLimit ≤ s.now) ∨
      (s.lanes[l].st = .thawing ∧ s.mode.mode = .thaw ∧ s.supply.good = true ∧ s.mode.resetAt + s.lanes[l].wdLimit ≤ s.now)
    (¬due → exec (.watchdog l) s = .next s) ∧
    (due → s.stands FaultCode.watchdog [l.val] = false → ∃ t, exec (.watchdog l) s = .next t ∧ t.lanes[l].st = .lost ∧ t.lanes[l].drive.running = false ∧
      t.stands FaultCode.watchdog [l.val] = true ∧ t.stands FaultCode.laneLost [l.val] = true)) ∧
  (∀ s : State, (s.mode.degradedTime < hours72 → s.mode.driveLinkTime < hours72 → exec .degradedLimit s = .next s) ∧
    (hours72 ≤ s.mode.degradedTime ∨ hours72 ≤ s.mode.driveLinkTime → s.stands FaultCode.degradedLimit [] = false →
      ∃ t, exec .degradedLimit s = .next t ∧ t.stands FaultCode.degradedLimit [] = true ∧ t.mode = s.mode ∧
        ∀ l : LaneId, s.active l = true → t.active l = true ∧ t.lanes[l].latches.safe = true)) ∧
  ∀ (g : GroupId) (s : State),
    let late (l : LaneId) : Prop := s.active l = true ∧ has s.lanes[l].latches.safeDark g = false ∧
      ∃ a, (s.lanes[l].rev[g]).stage2At = some a ∧ a + s.params.fbTime g * Config.ms + s.params.feedDecision g ≤ s.now
    (s.params.contactors g = false ∨ (∀ l, ¬late l) → exec (.revertFail g) s = .next s) ∧
    (s.params.contactors g = true → (∃ l, late l) → s.stands FaultCode.revertFail [g.val] = false →
      ∃ t, exec (.revertFail g) s = .next t ∧ t.stands FaultCode.revertFail [g.val] = true ∧ t.groups = s.groups ∧
        ∀ l : LaneId, s.active l = true → t.active l = true ∧ t.lanes[l].latches.safe = true) ∧
    let bad (l : LaneId) : Prop := s.active l = true ∧ has s.lanes[l].latches.safeState g = true ∧ has s.lanes[l].latches.energy g = false ∧ s.gladeBad l g = true
    ((∀ l, ¬bad l) → exec (.gladeUnproven g) s = .next s) ∧
    ((∃ l, bad l) → s.stands FaultCode.gladeUnproven [g.val] = false →
      ∃ t, exec (.gladeUnproven g) s = .next t ∧ t.stands FaultCode.gladeUnproven [g.val] = true ∧ t.groups = s.groups ∧
        ∀ l, (bad l → has t.lanes[l].latches.revert g = true ∧ has t.lanes[l].latches.energy g = true) ∧
          (¬bad l → t.lanes[l].latches = s.lanes[l].latches))

/-- WEAR_DAILY_CLOSE at the first vote after a day’s end adds to each fit the day’s value from the supplying lane’s totals
(a lamp with at least 100 samples its mean, a switch its life, a contactor its operations, the flash its highest erase
count, which a free value raises: the model’s choice, log entry 145; a ring oscillator its mean), forecasts none under
14 points, starts every lane’s day sums anew, and stores the items with the supplying lane’s totals for every lane, or
marks a failed store. WEAR_HOURLY_STORE stores likewise, once the rings are open. RING_OSC_MEASURE counts one reading
an hour. UPDATE_TICK on a whole ms gives a free session to the maintenance node’s claim, else the first, answers it OK
with the slot, the others UPDATE_OWNED. UPD_SESSION_TIMEOUT closes an open session 300 s idle and discards a partial
download. TRIAL_BOOT_RESET resets. TRIAL_TIME_EXPIRY at 600 s restores bank and life-cycle state and resets.
TRIAL_TIME_STORE moves whole seconds into the boot record. Else each changes nothing. -/
def Obligations.WearDaysAndUpdateTimersRun : Prop :=
  (∀ (ok : Bool) (s : State),
    let stored (a : Wear) (k : LaneId) (w : Wear) : Prop := w = { a with storeFail := false, run := w.run } ∧
      ∀ j : LaneId, w.run[j].cont = a.run[k].cont ∧ ∀ c : Chan, w.run[j].lamp[c] =
        { a.run[k].lamp[c] with litSince := none, histAt := 0, litTicks := a.run[k].lamp[c].litNow s.now, nth := w.run[j].lamp[c].nth }
    (s.closes = false ∨ s.activeLanes = [] → exec (.wearDailyClose ok) s = .next s) ∧
    (s.mail.opened = false ∨ s.crossed 720000000000 = false → exec (.wearHourlyStore ok) s = .next s) ∧
    (s.mail.opened = true → s.crossed 720000000000 = true → ∃ t, exec (.wearHourlyStore ok) s = .next t ∧ t.wear = { s.wear with storeFail := !ok } ∧
      (ok = true → ∀ k, s.supplier = some k → stored s.wear k t.wearStore.kept) ∧ (ok = false → t.wearStore = s.wearStore) ∧
      agreeButReports { s with wear := t.wear, wearStore := t.wearStore } t) ∧
    ∀ k, s.supplier = some k → s.closes = true →
      let d := s.wearDay
      let n := s.params.fitDays
      let r := s.wear.run[k]
      ∃ t, exec (.wearDailyClose ok) s = .next t ∧ t.wear.day = BitVec.ofNat 32 d ∧ t.wear.seen = some d ∧ t.closes = false ∧
        agreeButReports { s with
          wear := t.wear, wearStore := t.wearStore, fresh := t.fresh
          flash := { s.flash with eraseTop := t.flash.eraseTop, eraseMean := t.flash.eraseMean, retired := t.flash.retired } } t ∧
        s.flash.eraseTop.toNat ≤ t.flash.eraseTop.toNat ∧ s.flash.eraseMean.toNat ≤ t.flash.eraseMean.toNat ∧
        s.flash.retired.toNat ≤ t.flash.retired.toNat ∧
        (ok = true → stored t.wear k t.wearStore.kept ∧ t.wear.storeFail = false) ∧ (ok = false → t.wearStore = s.wearStore ∧ t.wear.storeFail = true) ∧
        (∀ c : Chan, (s.params.configured c = false → t.wear.lamp[c] = s.wear.lamp[c]) ∧
          (s.params.configured c = true →
            t.wear.lamp[c].pts = ((if 100 ≤ r.lamp[c].gN then [(d, ((r.lamp[c].gSum / r.lamp[c].gN : Nat) : Int))] else []) ++ s.wear.lamp[c].pts).take n ∧
            (t.wear.lamp[c].pts.length < 14 → t.wear.lamp[c].days = 0xFFFF)) ∧
          t.wear.switch[c].pts = ((d, (r.lamp[c].life : Int)) :: s.wear.switch[c].pts).take n ∧
          ∀ j : LaneId, t.wear.run[j].lamp[c].gSum = 0 ∧ t.wear.run[j].lamp[c].gN = 0 ∧ t.wear.run[j].lamp[c].peakSum = 0 ∧ t.wear.run[j].lamp[c].dayOns = 0 ∧
            t.wear.run[j].lamp[c].q = s.wear.run[j].lamp[c].q ∧ t.wear.run[j].lamp[c].switchOns = s.wear.run[j].lamp[c].switchOns) ∧
        (∀ i : Fin 24, t.wear.cont[i].pts = if s.params.contactors (⟨i.val / 2, by omega⟩ : GroupId) = true then
          ((d, (r.cont[i].ops : Int)) :: s.wear.cont[i].pts).take n else s.wear.cont[i].pts) ∧
        t.wear.flash.pts = ((d, (t.flash.eraseTop.toNat : Int)) :: s.wear.flash.pts).take n ∧
        ∀ i : Fin 5, t.wear.osc[i] = { s.wear.osc[i] with sum := 0, n := 0 } ∧ t.wear.silicon[i].pts =
          ((if s.wear.osc[i].n = 0 then [] else [(d, roundDiv s.wear.osc[i].sum s.wear.osc[i].n)]) ++ s.wear.silicon[i].pts).take n) ∧
  (∀ (i : SiliconItem) (m : OscMeasure) (s : State),
    let hr := s.laneTime / 720000000000
    let up := (∃ l : LaneId, l.val = i.val ∧ s.active l = true) ∨ ∃ h : HubId, h.val + 3 = i.val ∧ s.hubs[h].inReset = false
    (¬up ∨ s.crossed 720000000000 = false ∨ s.wear.osc[i].hour = some hr → exec (.ringOscMeasure i m) s = .next s) ∧
    (up → s.crossed 720000000000 = true → s.wear.osc[i].hour ≠ some hr →
      let o : OscRun := { sum := s.wear.osc[i].sum + m.drift, n := s.wear.osc[i].n + 1, temp := m.temp, total := s.wear.osc[i].total + 1, hour := some hr }
      exec (.ringOscMeasure i m) s = .next { s with wear := { s.wear with osc := s.wear.osc.set i o } })) ∧
  (∀ s : State, (s.reaches Config.ms = false ∨ s.upd.claims = [] → exec .updateTick s = .next s) ∧
    (s.reaches Config.ms = true → s.upd.claims ≠ [] → (s.upd.claims.map (·.2.1)).Nodup →
      ∃ t o, exec .updateTick s = .next t ∧ t.upd.owner = some o ∧ t.upd.claims = [] ∧
        (∀ x, s.upd.owner = some x → t.upd = { s.upd with claims := [] }) ∧
        (s.upd.owner = none → t.upd.st = .receiving ∧ t.upd.received = 0 ∧ t.upd.ownerEcn = s.ecn ∧ t.upd.lastCmd = s.now ∧
          ((∃ c ∈ s.upd.claims, c.1 = .maint) → o = .maint) ∧
          ((∀ c ∈ s.upd.claims, c.1 ≠ .maint) → ∀ c cs, s.upd.claims = c :: cs → o = c.1 ∧ t.upd.size = c.2.2.1 ∧ t.upd.version = c.2.2.2)) ∧
        (∀ c ∈ s.upd.claims, ∀ x ∈ s.mail.txns, x.num = c.2.1 → ∃ y ∈ t.mail.txns, y.num = x.num ∧ y.src = x.src ∧ y.octets = x.octets ∧
          y.outcome = some (if c.1 = o then okReply (toLe 1 s.targetSlot.val ++ [0, 0, 0])
            else { status := Status.updateOwned, payload := toLe 1 (s.ownerOctet o) ++ [0, 0, 0] ++ toLe 4 t.upd.ownerEcn.toNat })))) ∧
  ∀ s : State,
    ((s.upd.st ≠ .receiving ∧ s.upd.st ≠ .received ∧ s.upd.st ≠ .verified) ∨ s.now < s.upd.lastCmd + 300 * Config.sec → exec .updSessionTimeout s = .next s) ∧
    ((s.upd.st = .receiving ∨ s.upd.st = .received ∨ s.upd.st = .verified) → s.upd.lastCmd + 300 * Config.sec ≤ s.now →
      ∃ t, exec .updSessionTimeout s = .next t ∧ t.upd = { s.upd with st := .idle, owner := none, size := 0, version := 0, received := 0 } ∧
        t.flash.slots = (if s.upd.st = .receiving ∧ 0 < s.upd.received then s.flash.slots.set s.targetSlot [] else s.flash.slots) ∧
        t.flash = { s.flash with slots := t.flash.slots, log := t.flash.log } ∧ t.lanes = s.lanes ∧ t.otp = s.otp) ∧
    (s.upd.resetDue = none → exec .trialBootReset s = .next s) ∧ (s.upd.resetDue ≠ none → ∃ t, exec .trialBootReset s = .next t ∧ s.restarted t) ∧
    (s.upd.trialRun = false ∨ s.flash.bootRec.counted = false ∨ s.trialTicks < 600 * Config.sec → exec .trialTimeExpiry s = .next s) ∧
    (s.upd.trialRun = true → s.flash.bootRec.counted = true → 600 * Config.sec ≤ s.trialTicks →
      ∃ t, exec .trialTimeExpiry s = .next t ∧ t.mode = { State.reset.mode with resetAt := s.now } ∧ t.flash.bootRec.trial = false ∧ t.flash.bootRec.fell = 2 ∧
        t.flash.bootRec.activeSlot = s.flash.bootRec.activeSlot ∧ t.flash.lifecycle = s.flash.bootRec.preLc ∧
        t.flash.bankActive = s.flash.bootRec.fallbackBank.isSome ∧ (∀ i, s.flash.bootRec.fallbackBank = some i → t.flash.lastBank = i ∧ t.flash.banks[i] = s.flash.banks[i]) ∧
        t.otp = s.otp ∧ t.wearStore = s.wearStore) ∧
    ((∀ a, s.upd.trialStart = some a → s.now < a + 10 * Config.sec) ∨ s.upd.trialRun = false ∨ s.flash.bootRec.counted = false →
      exec .trialTimeStore s = .next s) ∧
    ∀ a, s.upd.trialStart = some a → s.upd.trialRun = true → s.flash.bootRec.counted = true → a + 10 * Config.sec ≤ s.now →
      ∃ t, exec .trialTimeStore s = .next t ∧ t.trialTicks = s.trialTicks ∧
        t.flash.bootRec.trialTime = s.flash.bootRec.trialTime + (s.now - a) / Config.sec ∧ t = { s with flash := t.flash, upd := t.upd } ∧
        t.upd = { s.upd with trialStart := t.upd.trialStart } ∧ t.flash = { s.flash with boot := t.flash.boot }

/-- An admitted STATUS, FAULT_LIST or FIELD_READ, and LAMP_READ of at most channel 95 (else RANGE), is executed by every
lane in the vote and waits for its answer; nothing beyond the mailbox path changes. CAPTURE_TRIGGER ends the running
capture when its samples are complete or the supplying lane has changed, CAPTURE_TIMEOUT one of TRIG 2 that saw no
status change for 60 s; samples that fit one message go to Q12, where a subscriber has room, with LAST, the truncation
flag where the lane has changed, or the timeout flag. LAMP_TEST_END answers with the statuses standing before the end,
FIELD_TEST_END at the action point that ended it with each lane’s points, PROOF_TEST_TIMEOUT 5 s after its execution
with the results so far; each ends its activity, hands the answer over for every lane that started the command, and
leaves the other transactions. Not due, each changes nothing. -/
def Obligations.LateAnswersCome : Prop :=
  (∀ (c : MailCmd) (s : State),
    (s.Admits c 0x0002 → ∃ t, exec (.status c) s = .next t ∧ s.Executed t c 0x0002 none ∧ agreeButMail s t) ∧
    (s.Admits c 0x0003 → ∃ t, exec (.faultList c) s = .next t ∧ s.Executed t c 0x0003 none ∧ agreeButMail s t) ∧
    (s.Admits c 0x0200 → ∃ t, exec (.lampRead c) s = .next t ∧ agreeButMail s t ∧
      s.Executed t c 0x0200 (if leAt c.payload 0 1 + leAt c.payload 1 1 ≤ 96 then none else some (plain Status.range))) ∧
    (s.Admits c 0x0600 → ∃ t, exec (.fieldRead c) s = .next t ∧ s.Executed t c 0x0600 none ∧ agreeButMail s t)) ∧
  (∀ s : State,
    let sent (r : CaptureRun) (t : State) (flags : Nat) : Prop :=
      let fine := r.sel.getLsbD 1
      let first := r.data.1
      let xs := r.data.2
      let stamp (x : Option CapSample) : Bytes := toLe 8 ((x.map fun y => s.globalAt y.t + (if fine = true then 3840 else 960)).getD 0)
      t.act = { s.act with capture := none } ∧ agreeButReports { s with act := t.act } t ∧ t.flash = s.flash ∧
      (xs.length ≤ (if fine = true then 248 else 496) → s.subscribers 12 ≠ [] → s.mail.rings[(12 : RingId)].waiting = [] →
        s.mail.rings[(12 : RingId)].loss = false →
        let p := toLe 2 r.id.toNat ++ toLe 1 (1 + flags + bit (xs.any (·.ovr)) 3 + bit (xs.any (·.spare)) 4) ++ [r.sel] ++ toLe 1 r.chan.val ++ toLe 1 r.lane.val ++
          toLe 2 first ++ stamp xs.head? ++ stamp xs.getLast? ++ xs.flatMap fun x => toLeInt (if fine = true then 4 else 2) x.v
        s.mail.rings[(12 : RingId)].room (8 + p.length) = true → Holds t 12 (header 0xFF 2 0x0F02 0 p.length ++ p))
    (s.act.capture = none → exec .captureTrigger s = .next s ∧ exec .captureTimeout s = .next s) ∧
    ∀ r, s.act.capture = some r →
      (r.cut = true ∨ s.supplier ≠ some r.lane → ∃ t, exec .captureTrigger s = .next t ∧ sent r t 2) ∧
      (r.cut = false → s.supplier = some r.lane → r.full = true → ∃ t, exec .captureTrigger s = .next t ∧ sent r t 0) ∧
      (r.cut = false → s.supplier = some r.lane → r.full = false → exec .captureTrigger s = .next s) ∧
      (r.trig ≠ 2 ∨ r.trigAt ≠ none ∨ s.now < r.since + 60 * Config.sec → exec .captureTimeout s = .next s) ∧
      (r.trig = 2 → r.trigAt = none → r.since + 60 * Config.sec ≤ s.now → ∃ t, exec .captureTimeout s = .next t ∧ sent r t 4)) ∧
  (∀ s : State, ((∀ x, s.act.lamp = some x → x.snap = none) → exec .lampTestEnd s = .next s) ∧
    ∀ x v, s.act.lamp = some x → x.snap = some v → ∃ t, exec .lampTestEnd s = .next t ∧
      t = { s with act := { s.act with lamp := none }, mail := { s.mail with txns := t.mail.txns } } ∧
      s.Answered t x.num (fun _ => okReply (v ++ [if x.early = true then 1 else 0, 0, 0, 0]))) ∧
  (∀ s : State, ((∀ x, s.act.field = some x → x.early = false ∧ ∀ e, x.endAt = some e → s.bus.apAt < e) → exec .fieldTestEnd s = .next s) ∧
    ∀ x, s.act.field = some x → (x.early = true ∨ ∃ e, x.endAt = some e ∧ e ≤ s.bus.apAt) → ∃ t, exec .fieldTestEnd s = .next t ∧
      t = { s with act := { s.act with field := none }, mail := { s.mail with txns := t.mail.txns } } ∧
      s.Answered t x.num (fun l => okReply (s.pointOctets l))) ∧
  ∀ s : State, ((∀ r, s.act.proof = some r → s.now < r.deadline) → exec .proofTestTimeout s = .next s) ∧
    ∀ r, s.act.proof = some r → r.deadline ≤ s.now → ∃ t, exec .proofTestTimeout s = .next t ∧
      t = { s with act := { s.act with proof := none }, tests := t.tests, mail := { s.mail with txns := t.mail.txns } } ∧
      t.tests = { s.tests with chan := t.tests.chan } ∧ (∀ c : Chan, t.tests.chan[c] = { s.tests.chan[c] with want := false }) ∧ s.Answered t r.num (fun _ => okReply r.results.toList)
end

