-- ==== Sys2Proof/Laws/State.lean ====
section
/-!
SUPPORT. One lemma for each field under each update of the state, so that no proof unfolds a record update.
-/

namespace Sys2Proof.Machine

@[simp] theorem State.modLane_now (s : State) (l : LaneId) (f : LaneState → LaneState) : (s.modLane l f).now = s.now := rfl
@[simp] theorem State.modLane_fresh (s : State) (l : LaneId) (f : LaneState → LaneState) : (s.modLane l f).fresh = s.fresh := rfl
@[simp] theorem State.modLane_supply (s : State) (l : LaneId) (f : LaneState → LaneState) : (s.modLane l f).supply = s.supply := rfl
@[simp] theorem State.modLane_mode (s : State) (l : LaneId) (f : LaneState → LaneState) : (s.modLane l f).mode = s.mode := rfl
@[simp] theorem State.modLane_hubs (s : State) (l : LaneId) (f : LaneState → LaneState) : (s.modLane l f).hubs = s.hubs := rfl
@[simp] theorem State.modLane_fe (s : State) (l : LaneId) (f : LaneState → LaneState) : (s.modLane l f).fe = s.fe := rfl
@[simp] theorem State.modLane_groups (s : State) (l : LaneId) (f : LaneState → LaneState) : (s.modLane l f).groups = s.groups := rfl
@[simp] theorem State.modLane_banks (s : State) (l : LaneId) (f : LaneState → LaneState) : (s.modLane l f).banks = s.banks := rfl
@[simp] theorem State.modLane_bus (s : State) (l : LaneId) (f : LaneState → LaneState) : (s.modLane l f).bus = s.bus := rfl
@[simp] theorem State.modLane_mail (s : State) (l : LaneId) (f : LaneState → LaneState) : (s.modLane l f).mail = s.mail := rfl
@[simp] theorem State.modLane_flash (s : State) (l : LaneId) (f : LaneState → LaneState) : (s.modLane l f).flash = s.flash := rfl
@[simp] theorem State.modLane_otp (s : State) (l : LaneId) (f : LaneState → LaneState) : (s.modLane l f).otp = s.otp := rfl
@[simp] theorem State.modLane_working (s : State) (l : LaneId) (f : LaneState → LaneState) : (s.modLane l f).working = s.working := rfl
@[simp] theorem State.modLane_faults (s : State) (l : LaneId) (f : LaneState → LaneState) : (s.modLane l f).faults = s.faults := rfl
@[simp] theorem State.modLane_tests (s : State) (l : LaneId) (f : LaneState → LaneState) : (s.modLane l f).tests = s.tests := rfl
@[simp] theorem State.modLane_act (s : State) (l : LaneId) (f : LaneState → LaneState) : (s.modLane l f).act = s.act := rfl
@[simp] theorem State.modLane_coppice (s : State) (l : LaneId) (f : LaneState → LaneState) : (s.modLane l f).coppice = s.coppice := rfl
@[simp] theorem State.modLane_upd (s : State) (l : LaneId) (f : LaneState → LaneState) : (s.modLane l f).upd = s.upd := rfl
@[simp] theorem State.modLane_wear (s : State) (l : LaneId) (f : LaneState → LaneState) : (s.modLane l f).wear = s.wear := rfl
@[simp] theorem State.modLane_wearStore (s : State) (l : LaneId) (f : LaneState → LaneState) : (s.modLane l f).wearStore = s.wearStore := rfl
@[simp] theorem State.modLane_panel (s : State) (l : LaneId) (f : LaneState → LaneState) : (s.modLane l f).panel = s.panel := rfl
@[simp] theorem State.modLane_pending (s : State) (l : LaneId) (f : LaneState → LaneState) : (s.modLane l f).pending = s.pending := rfl
@[simp] theorem State.modLane_same (s : State) (l : LaneId) (f : LaneState → LaneState) : (s.modLane l f).lanes[l] = f s.lanes[l] := by
  simp [State.modLane]
theorem State.modLane_other (s : State) (l : LaneId) (f : LaneState → LaneState) (k : LaneId) (h : k ≠ l) : (s.modLane l f).lanes[k] = s.lanes[k] := by
  have e : l.val ≠ k.val := fun x => h (Fin.ext x.symm)
  simp [State.modLane, e]

@[simp] theorem State.modHub_now (s : State) (l : HubId) (f : HubState → HubState) : (s.modHub l f).now = s.now := rfl
@[simp] theorem State.modHub_fresh (s : State) (l : HubId) (f : HubState → HubState) : (s.modHub l f).fresh = s.fresh := rfl
@[simp] theorem State.modHub_supply (s : State) (l : HubId) (f : HubState → HubState) : (s.modHub l f).supply = s.supply := rfl
@[simp] theorem State.modHub_mode (s : State) (l : HubId) (f : HubState → HubState) : (s.modHub l f).mode = s.mode := rfl
@[simp] theorem State.modHub_lanes (s : State) (l : HubId) (f : HubState → HubState) : (s.modHub l f).lanes = s.lanes := rfl
@[simp] theorem State.modHub_fe (s : State) (l : HubId) (f : HubState → HubState) : (s.modHub l f).fe = s.fe := rfl
@[simp] theorem State.modHub_groups (s : State) (l : HubId) (f : HubState → HubState) : (s.modHub l f).groups = s.groups := rfl
@[simp] theorem State.modHub_banks (s : State) (l : HubId) (f : HubState → HubState) : (s.modHub l f).banks = s.banks := rfl
@[simp] theorem State.modHub_bus (s : State) (l : HubId) (f : HubState → HubState) : (s.modHub l f).bus = s.bus := rfl
@[simp] theorem State.modHub_mail (s : State) (l : HubId) (f : HubState → HubState) : (s.modHub l f).mail = s.mail := rfl
@[simp] theorem State.modHub_flash (s : State) (l : HubId) (f : HubState → HubState) : (s.modHub l f).flash = s.flash := rfl
@[simp] theorem State.modHub_otp (s : State) (l : HubId) (f : HubState → HubState) : (s.modHub l f).otp = s.otp := rfl
@[simp] theorem State.modHub_working (s : State) (l : HubId) (f : HubState → HubState) : (s.modHub l f).working = s.working := rfl
@[simp] theorem State.modHub_faults (s : State) (l : HubId) (f : HubState → HubState) : (s.modHub l f).faults = s.faults := rfl
@[simp] theorem State.modHub_tests (s : State) (l : HubId) (f : HubState → HubState) : (s.modHub l f).tests = s.tests := rfl
@[simp] theorem State.modHub_act (s : State) (l : HubId) (f : HubState → HubState) : (s.modHub l f).act = s.act := rfl
@[simp] theorem State.modHub_coppice (s : State) (l : HubId) (f : HubState → HubState) : (s.modHub l f).coppice = s.coppice := rfl
@[simp] theorem State.modHub_upd (s : State) (l : HubId) (f : HubState → HubState) : (s.modHub l f).upd = s.upd := rfl
@[simp] theorem State.modHub_wear (s : State) (l : HubId) (f : HubState → HubState) : (s.modHub l f).wear = s.wear := rfl
@[simp] theorem State.modHub_wearStore (s : State) (l : HubId) (f : HubState → HubState) : (s.modHub l f).wearStore = s.wearStore := rfl
@[simp] theorem State.modHub_panel (s : State) (l : HubId) (f : HubState → HubState) : (s.modHub l f).panel = s.panel := rfl
@[simp] theorem State.modHub_pending (s : State) (l : HubId) (f : HubState → HubState) : (s.modHub l f).pending = s.pending := rfl
@[simp] theorem State.modHub_same (s : State) (l : HubId) (f : HubState → HubState) : (s.modHub l f).hubs[l] = f s.hubs[l] := by
  simp [State.modHub]
theorem State.modHub_other (s : State) (l : HubId) (f : HubState → HubState) (k : HubId) (h : k ≠ l) : (s.modHub l f).hubs[k] = s.hubs[k] := by
  have e : l.val ≠ k.val := fun x => h (Fin.ext x.symm)
  simp [State.modHub, e]

@[simp] theorem State.modFe_now (s : State) (l : GroupId) (f : FrontEnd → FrontEnd) : (s.modFe l f).now = s.now := rfl
@[simp] theorem State.modFe_fresh (s : State) (l : GroupId) (f : FrontEnd → FrontEnd) : (s.modFe l f).fresh = s.fresh := rfl
@[simp] theorem State.modFe_supply (s : State) (l : GroupId) (f : FrontEnd → FrontEnd) : (s.modFe l f).supply = s.supply := rfl
@[simp] theorem State.modFe_mode (s : State) (l : GroupId) (f : FrontEnd → FrontEnd) : (s.modFe l f).mode = s.mode := rfl
@[simp] theorem State.modFe_lanes (s : State) (l : GroupId) (f : FrontEnd → FrontEnd) : (s.modFe l f).lanes = s.lanes := rfl
@[simp] theorem State.modFe_hubs (s : State) (l : GroupId) (f : FrontEnd → FrontEnd) : (s.modFe l f).hubs = s.hubs := rfl
@[simp] theorem State.modFe_groups (s : State) (l : GroupId) (f : FrontEnd → FrontEnd) : (s.modFe l f).groups = s.groups := rfl
@[simp] theorem State.modFe_banks (s : State) (l : GroupId) (f : FrontEnd → FrontEnd) : (s.modFe l f).banks = s.banks := rfl
@[simp] theorem State.modFe_bus (s : State) (l : GroupId) (f : FrontEnd → FrontEnd) : (s.modFe l f).bus = s.bus := rfl
@[simp] theorem State.modFe_mail (s : State) (l : GroupId) (f : FrontEnd → FrontEnd) : (s.modFe l f).mail = s.mail := rfl
@[simp] theorem State.modFe_flash (s : State) (l : GroupId) (f : FrontEnd → FrontEnd) : (s.modFe l f).flash = s.flash := rfl
@[simp] theorem State.modFe_otp (s : State) (l : GroupId) (f : FrontEnd → FrontEnd) : (s.modFe l f).otp = s.otp := rfl
@[simp] theorem State.modFe_working (s : State) (l : GroupId) (f : FrontEnd → FrontEnd) : (s.modFe l f).working = s.working := rfl
@[simp] theorem State.modFe_faults (s : State) (l : GroupId) (f : FrontEnd → FrontEnd) : (s.modFe l f).faults = s.faults := rfl
@[simp] theorem State.modFe_tests (s : State) (l : GroupId) (f : FrontEnd → FrontEnd) : (s.modFe l f).tests = s.tests := rfl
@[simp] theorem State.modFe_act (s : State) (l : GroupId) (f : FrontEnd → FrontEnd) : (s.modFe l f).act = s.act := rfl
@[simp] theorem State.modFe_coppice (s : State) (l : GroupId) (f : FrontEnd → FrontEnd) : (s.modFe l f).coppice = s.coppice := rfl
@[simp] theorem State.modFe_upd (s : State) (l : GroupId) (f : FrontEnd → FrontEnd) : (s.modFe l f).upd = s.upd := rfl
@[simp] theorem State.modFe_wear (s : State) (l : GroupId) (f : FrontEnd → FrontEnd) : (s.modFe l f).wear = s.wear := rfl
@[simp] theorem State.modFe_wearStore (s : State) (l : GroupId) (f : FrontEnd → FrontEnd) : (s.modFe l f).wearStore = s.wearStore := rfl
@[simp] theorem State.modFe_panel (s : State) (l : GroupId) (f : FrontEnd → FrontEnd) : (s.modFe l f).panel = s.panel := rfl
@[simp] theorem State.modFe_pending (s : State) (l : GroupId) (f : FrontEnd → FrontEnd) : (s.modFe l f).pending = s.pending := rfl
@[simp] theorem State.modFe_same (s : State) (l : GroupId) (f : FrontEnd → FrontEnd) : (s.modFe l f).fe[l] = f s.fe[l] := by
  simp [State.modFe]
theorem State.modFe_other (s : State) (l : GroupId) (f : FrontEnd → FrontEnd) (k : GroupId) (h : k ≠ l) : (s.modFe l f).fe[k] = s.fe[k] := by
  have e : l.val ≠ k.val := fun x => h (Fin.ext x.symm)
  simp [State.modFe, e]

@[simp] theorem State.modGroup_now (s : State) (l : GroupId) (f : GroupState → GroupState) : (s.modGroup l f).now = s.now := rfl
@[simp] theorem State.modGroup_fresh (s : State) (l : GroupId) (f : GroupState → GroupState) : (s.modGroup l f).fresh = s.fresh := rfl
@[simp] theorem State.modGroup_supply (s : State) (l : GroupId) (f : GroupState → GroupState) : (s.modGroup l f).supply = s.supply := rfl
@[simp] theorem State.modGroup_mode (s : State) (l : GroupId) (f : GroupState → GroupState) : (s.modGroup l f).mode = s.mode := rfl
@[simp] theorem State.modGroup_lanes (s : State) (l : GroupId) (f : GroupState → GroupState) : (s.modGroup l f).lanes = s.lanes := rfl
@[simp] theorem State.modGroup_hubs (s : State) (l : GroupId) (f : GroupState → GroupState) : (s.modGroup l f).hubs = s.hubs := rfl
@[simp] theorem State.modGroup_fe (s : State) (l : GroupId) (f : GroupState → GroupState) : (s.modGroup l f).fe = s.fe := rfl
@[simp] theorem State.modGroup_banks (s : State) (l : GroupId) (f : GroupState → GroupState) : (s.modGroup l f).banks = s.banks := rfl
@[simp] theorem State.modGroup_bus (s : State) (l : GroupId) (f : GroupState → GroupState) : (s.modGroup l f).bus = s.bus := rfl
@[simp] theorem State.modGroup_mail (s : State) (l : GroupId) (f : GroupState → GroupState) : (s.modGroup l f).mail = s.mail := rfl
@[simp] theorem State.modGroup_flash (s : State) (l : GroupId) (f : GroupState → GroupState) : (s.modGroup l f).flash = s.flash := rfl
@[simp] theorem State.modGroup_otp (s : State) (l : GroupId) (f : GroupState → GroupState) : (s.modGroup l f).otp = s.otp := rfl
@[simp] theorem State.modGroup_working (s : State) (l : GroupId) (f : GroupState → GroupState) : (s.modGroup l f).working = s.working := rfl
@[simp] theorem State.modGroup_faults (s : State) (l : GroupId) (f : GroupState → GroupState) : (s.modGroup l f).faults = s.faults := rfl
@[simp] theorem State.modGroup_tests (s : State) (l : GroupId) (f : GroupState → GroupState) : (s.modGroup l f).tests = s.tests := rfl
@[simp] theorem State.modGroup_act (s : State) (l : GroupId) (f : GroupState → GroupState) : (s.modGroup l f).act = s.act := rfl
@[simp] theorem State.modGroup_coppice (s : State) (l : GroupId) (f : GroupState → GroupState) : (s.modGroup l f).coppice = s.coppice := rfl
@[simp] theorem State.modGroup_upd (s : State) (l : GroupId) (f : GroupState → GroupState) : (s.modGroup l f).upd = s.upd := rfl
@[simp] theorem State.modGroup_wear (s : State) (l : GroupId) (f : GroupState → GroupState) : (s.modGroup l f).wear = s.wear := rfl
@[simp] theorem State.modGroup_wearStore (s : State) (l : GroupId) (f : GroupState → GroupState) : (s.modGroup l f).wearStore = s.wearStore := rfl
@[simp] theorem State.modGroup_panel (s : State) (l : GroupId) (f : GroupState → GroupState) : (s.modGroup l f).panel = s.panel := rfl
@[simp] theorem State.modGroup_pending (s : State) (l : GroupId) (f : GroupState → GroupState) : (s.modGroup l f).pending = s.pending := rfl
@[simp] theorem State.modGroup_same (s : State) (l : GroupId) (f : GroupState → GroupState) : (s.modGroup l f).groups[l] = f s.groups[l] := by
  simp [State.modGroup]
theorem State.modGroup_other (s : State) (l : GroupId) (f : GroupState → GroupState) (k : GroupId) (h : k ≠ l) : (s.modGroup l f).groups[k] = s.groups[k] := by
  have e : l.val ≠ k.val := fun x => h (Fin.ext x.symm)
  simp [State.modGroup, e]

@[simp] theorem State.modBank_now (s : State) (l : BankId) (f : BankState → BankState) : (s.modBank l f).now = s.now := rfl
@[simp] theorem State.modBank_fresh (s : State) (l : BankId) (f : BankState → BankState) : (s.modBank l f).fresh = s.fresh := rfl
@[simp] theorem State.modBank_supply (s : State) (l : BankId) (f : BankState → BankState) : (s.modBank l f).supply = s.supply := rfl
@[simp] theorem State.modBank_mode (s : State) (l : BankId) (f : BankState → BankState) : (s.modBank l f).mode = s.mode := rfl
@[simp] theorem State.modBank_lanes (s : State) (l : BankId) (f : BankState → BankState) : (s.modBank l f).lanes = s.lanes := rfl
@[simp] theorem State.modBank_hubs (s : State) (l : BankId) (f : BankState → BankState) : (s.modBank l f).hubs = s.hubs := rfl
@[simp] theorem State.modBank_fe (s : State) (l : BankId) (f : BankState → BankState) : (s.modBank l f).fe = s.fe := rfl
@[simp] theorem State.modBank_groups (s : State) (l : BankId) (f : BankState → BankState) : (s.modBank l f).groups = s.groups := rfl
@[simp] theorem State.modBank_bus (s : State) (l : BankId) (f : BankState → BankState) : (s.modBank l f).bus = s.bus := rfl
@[simp] theorem State.modBank_mail (s : State) (l : BankId) (f : BankState → BankState) : (s.modBank l f).mail = s.mail := rfl
@[simp] theorem State.modBank_flash (s : State) (l : BankId) (f : BankState → BankState) : (s.modBank l f).flash = s.flash := rfl
@[simp] theorem State.modBank_otp (s : State) (l : BankId) (f : BankState → BankState) : (s.modBank l f).otp = s.otp := rfl
@[simp] theorem State.modBank_working (s : State) (l : BankId) (f : BankState → BankState) : (s.modBank l f).working = s.working := rfl
@[simp] theorem State.modBank_faults (s : State) (l : BankId) (f : BankState → BankState) : (s.modBank l f).faults = s.faults := rfl
@[simp] theorem State.modBank_tests (s : State) (l : BankId) (f : BankState → BankState) : (s.modBank l f).tests = s.tests := rfl
@[simp] theorem State.modBank_act (s : State) (l : BankId) (f : BankState → BankState) : (s.modBank l f).act = s.act := rfl
@[simp] theorem State.modBank_coppice (s : State) (l : BankId) (f : BankState → BankState) : (s.modBank l f).coppice = s.coppice := rfl
@[simp] theorem State.modBank_upd (s : State) (l : BankId) (f : BankState → BankState) : (s.modBank l f).upd = s.upd := rfl
@[simp] theorem State.modBank_wear (s : State) (l : BankId) (f : BankState → BankState) : (s.modBank l f).wear = s.wear := rfl
@[simp] theorem State.modBank_wearStore (s : State) (l : BankId) (f : BankState → BankState) : (s.modBank l f).wearStore = s.wearStore := rfl
@[simp] theorem State.modBank_panel (s : State) (l : BankId) (f : BankState → BankState) : (s.modBank l f).panel = s.panel := rfl
@[simp] theorem State.modBank_pending (s : State) (l : BankId) (f : BankState → BankState) : (s.modBank l f).pending = s.pending := rfl
@[simp] theorem State.modBank_same (s : State) (l : BankId) (f : BankState → BankState) : (s.modBank l f).banks[l] = f s.banks[l] := by
  simp [State.modBank]
theorem State.modBank_other (s : State) (l : BankId) (f : BankState → BankState) (k : BankId) (h : k ≠ l) : (s.modBank l f).banks[k] = s.banks[k] := by
  have e : l.val ≠ k.val := fun x => h (Fin.ext x.symm)
  simp [State.modBank, e]

@[simp] theorem State.modLanes_now (s : State) (f : LaneId → LaneState → LaneState) : (s.modLanes f).now = s.now := rfl
@[simp] theorem State.modLanes_fresh (s : State) (f : LaneId → LaneState → LaneState) : (s.modLanes f).fresh = s.fresh := rfl
@[simp] theorem State.modLanes_supply (s : State) (f : LaneId → LaneState → LaneState) : (s.modLanes f).supply = s.supply := rfl
@[simp] theorem State.modLanes_mode (s : State) (f : LaneId → LaneState → LaneState) : (s.modLanes f).mode = s.mode := rfl
@[simp] theorem State.modLanes_hubs (s : State) (f : LaneId → LaneState → LaneState) : (s.modLanes f).hubs = s.hubs := rfl
@[simp] theorem State.modLanes_fe (s : State) (f : LaneId → LaneState → LaneState) : (s.modLanes f).fe = s.fe := rfl
@[simp] theorem State.modLanes_groups (s : State) (f : LaneId → LaneState → LaneState) : (s.modLanes f).groups = s.groups := rfl
@[simp] theorem State.modLanes_banks (s : State) (f : LaneId → LaneState → LaneState) : (s.modLanes f).banks = s.banks := rfl
@[simp] theorem State.modLanes_bus (s : State) (f : LaneId → LaneState → LaneState) : (s.modLanes f).bus = s.bus := rfl
@[simp] theorem State.modLanes_mail (s : State) (f : LaneId → LaneState → LaneState) : (s.modLanes f).mail = s.mail := rfl
@[simp] theorem State.modLanes_flash (s : State) (f : LaneId → LaneState → LaneState) : (s.modLanes f).flash = s.flash := rfl
@[simp] theorem State.modLanes_otp (s : State) (f : LaneId → LaneState → LaneState) : (s.modLanes f).otp = s.otp := rfl
@[simp] theorem State.modLanes_working (s : State) (f : LaneId → LaneState → LaneState) : (s.modLanes f).working = s.working := rfl
@[simp] theorem State.modLanes_faults (s : State) (f : LaneId → LaneState → LaneState) : (s.modLanes f).faults = s.faults := rfl
@[simp] theorem State.modLanes_tests (s : State) (f : LaneId → LaneState → LaneState) : (s.modLanes f).tests = s.tests := rfl
@[simp] theorem State.modLanes_act (s : State) (f : LaneId → LaneState → LaneState) : (s.modLanes f).act = s.act := rfl
@[simp] theorem State.modLanes_coppice (s : State) (f : LaneId → LaneState → LaneState) : (s.modLanes f).coppice = s.coppice := rfl
@[simp] theorem State.modLanes_upd (s : State) (f : LaneId → LaneState → LaneState) : (s.modLanes f).upd = s.upd := rfl
@[simp] theorem State.modLanes_wear (s : State) (f : LaneId → LaneState → LaneState) : (s.modLanes f).wear = s.wear := rfl
@[simp] theorem State.modLanes_wearStore (s : State) (f : LaneId → LaneState → LaneState) : (s.modLanes f).wearStore = s.wearStore := rfl
@[simp] theorem State.modLanes_panel (s : State) (f : LaneId → LaneState → LaneState) : (s.modLanes f).panel = s.panel := rfl
@[simp] theorem State.modLanes_pending (s : State) (f : LaneId → LaneState → LaneState) : (s.modLanes f).pending = s.pending := rfl
@[simp] theorem State.modLanes_at (s : State) (f : LaneId → LaneState → LaneState) (k : LaneId) : (s.modLanes f).lanes[k] = f k s.lanes[k] := by
  simp [State.modLanes]

@[simp] theorem State.modHubs_now (s : State) (f : HubId → HubState → HubState) : (s.modHubs f).now = s.now := rfl
@[simp] theorem State.modHubs_fresh (s : State) (f : HubId → HubState → HubState) : (s.modHubs f).fresh = s.fresh := rfl
@[simp] theorem State.modHubs_supply (s : State) (f : HubId → HubState → HubState) : (s.modHubs f).supply = s.supply := rfl
@[simp] theorem State.modHubs_mode (s : State) (f : HubId → HubState → HubState) : (s.modHubs f).mode = s.mode := rfl
@[simp] theorem State.modHubs_lanes (s : State) (f : HubId → HubState → HubState) : (s.modHubs f).lanes = s.lanes := rfl
@[simp] theorem State.modHubs_fe (s : State) (f : HubId → HubState → HubState) : (s.modHubs f).fe = s.fe := rfl
@[simp] theorem State.modHubs_groups (s : State) (f : HubId → HubState → HubState) : (s.modHubs f).groups = s.groups := rfl
@[simp] theorem State.modHubs_banks (s : State) (f : HubId → HubState → HubState) : (s.modHubs f).banks = s.banks := rfl
@[simp] theorem State.modHubs_bus (s : State) (f : HubId → HubState → HubState) : (s.modHubs f).bus = s.bus := rfl
@[simp] theorem State.modHubs_mail (s : State) (f : HubId → HubState → HubState) : (s.modHubs f).mail = s.mail := rfl
@[simp] theorem State.modHubs_flash (s : State) (f : HubId → HubState → HubState) : (s.modHubs f).flash = s.flash := rfl
@[simp] theorem State.modHubs_otp (s : State) (f : HubId → HubState → HubState) : (s.modHubs f).otp = s.otp := rfl
@[simp] theorem State.modHubs_working (s : State) (f : HubId → HubState → HubState) : (s.modHubs f).working = s.working := rfl
@[simp] theorem State.modHubs_faults (s : State) (f : HubId → HubState → HubState) : (s.modHubs f).faults = s.faults := rfl
@[simp] theorem State.modHubs_tests (s : State) (f : HubId → HubState → HubState) : (s.modHubs f).tests = s.tests := rfl
@[simp] theorem State.modHubs_act (s : State) (f : HubId → HubState → HubState) : (s.modHubs f).act = s.act := rfl
@[simp] theorem State.modHubs_coppice (s : State) (f : HubId → HubState → HubState) : (s.modHubs f).coppice = s.coppice := rfl
@[simp] theorem State.modHubs_upd (s : State) (f : HubId → HubState → HubState) : (s.modHubs f).upd = s.upd := rfl
@[simp] theorem State.modHubs_wear (s : State) (f : HubId → HubState → HubState) : (s.modHubs f).wear = s.wear := rfl
@[simp] theorem State.modHubs_wearStore (s : State) (f : HubId → HubState → HubState) : (s.modHubs f).wearStore = s.wearStore := rfl
@[simp] theorem State.modHubs_panel (s : State) (f : HubId → HubState → HubState) : (s.modHubs f).panel = s.panel := rfl
@[simp] theorem State.modHubs_pending (s : State) (f : HubId → HubState → HubState) : (s.modHubs f).pending = s.pending := rfl
@[simp] theorem State.modHubs_at (s : State) (f : HubId → HubState → HubState) (k : HubId) : (s.modHubs f).hubs[k] = f k s.hubs[k] := by
  simp [State.modHubs]

@[simp] theorem State.modGroups_now (s : State) (f : GroupId → GroupState → GroupState) : (s.modGroups f).now = s.now := rfl
@[simp] theorem State.modGroups_fresh (s : State) (f : GroupId → GroupState → GroupState) : (s.modGroups f).fresh = s.fresh := rfl
@[simp] theorem State.modGroups_supply (s : State) (f : GroupId → GroupState → GroupState) : (s.modGroups f).supply = s.supply := rfl
@[simp] theorem State.modGroups_mode (s : State) (f : GroupId → GroupState → GroupState) : (s.modGroups f).mode = s.mode := rfl
@[simp] theorem State.modGroups_lanes (s : State) (f : GroupId → GroupState → GroupState) : (s.modGroups f).lanes = s.lanes := rfl
@[simp] theorem State.modGroups_hubs (s : State) (f : GroupId → GroupState → GroupState) : (s.modGroups f).hubs = s.hubs := rfl
@[simp] theorem State.modGroups_fe (s : State) (f : GroupId → GroupState → GroupState) : (s.modGroups f).fe = s.fe := rfl
@[simp] theorem State.modGroups_banks (s : State) (f : GroupId → GroupState → GroupState) : (s.modGroups f).banks = s.banks := rfl
@[simp] theorem State.modGroups_bus (s : State) (f : GroupId → GroupState → GroupState) : (s.modGroups f).bus = s.bus := rfl
@[simp] theorem State.modGroups_mail (s : State) (f : GroupId → GroupState → GroupState) : (s.modGroups f).mail = s.mail := rfl
@[simp] theorem State.modGroups_flash (s : State) (f : GroupId → GroupState → GroupState) : (s.modGroups f).flash = s.flash := rfl
@[simp] theorem State.modGroups_otp (s : State) (f : GroupId → GroupState → GroupState) : (s.modGroups f).otp = s.otp := rfl
@[simp] theorem State.modGroups_working (s : State) (f : GroupId → GroupState → GroupState) : (s.modGroups f).working = s.working := rfl
@[simp] theorem State.modGroups_faults (s : State) (f : GroupId → GroupState → GroupState) : (s.modGroups f).faults = s.faults := rfl
@[simp] theorem State.modGroups_tests (s : State) (f : GroupId → GroupState → GroupState) : (s.modGroups f).tests = s.tests := rfl
@[simp] theorem State.modGroups_act (s : State) (f : GroupId → GroupState → GroupState) : (s.modGroups f).act = s.act := rfl
@[simp] theorem State.modGroups_coppice (s : State) (f : GroupId → GroupState → GroupState) : (s.modGroups f).coppice = s.coppice := rfl
@[simp] theorem State.modGroups_upd (s : State) (f : GroupId → GroupState → GroupState) : (s.modGroups f).upd = s.upd := rfl
@[simp] theorem State.modGroups_wear (s : State) (f : GroupId → GroupState → GroupState) : (s.modGroups f).wear = s.wear := rfl
@[simp] theorem State.modGroups_wearStore (s : State) (f : GroupId → GroupState → GroupState) : (s.modGroups f).wearStore = s.wearStore := rfl
@[simp] theorem State.modGroups_panel (s : State) (f : GroupId → GroupState → GroupState) : (s.modGroups f).panel = s.panel := rfl
@[simp] theorem State.modGroups_pending (s : State) (f : GroupId → GroupState → GroupState) : (s.modGroups f).pending = s.pending := rfl
@[simp] theorem State.modGroups_at (s : State) (f : GroupId → GroupState → GroupState) (k : GroupId) : (s.modGroups f).groups[k] = f k s.groups[k] := by
  simp [State.modGroups]

@[simp] theorem State.modRing_now (s : State) (q : RingId) (f : Ring → Ring) : (s.modRing q f).now = s.now := rfl
@[simp] theorem State.modRing_fresh (s : State) (q : RingId) (f : Ring → Ring) : (s.modRing q f).fresh = s.fresh := rfl
@[simp] theorem State.modRing_supply (s : State) (q : RingId) (f : Ring → Ring) : (s.modRing q f).supply = s.supply := rfl
@[simp] theorem State.modRing_mode (s : State) (q : RingId) (f : Ring → Ring) : (s.modRing q f).mode = s.mode := rfl
@[simp] theorem State.modRing_lanes (s : State) (q : RingId) (f : Ring → Ring) : (s.modRing q f).lanes = s.lanes := rfl
@[simp] theorem State.modRing_hubs (s : State) (q : RingId) (f : Ring → Ring) : (s.modRing q f).hubs = s.hubs := rfl
@[simp] theorem State.modRing_fe (s : State) (q : RingId) (f : Ring → Ring) : (s.modRing q f).fe = s.fe := rfl
@[simp] theorem State.modRing_groups (s : State) (q : RingId) (f : Ring → Ring) : (s.modRing q f).groups = s.groups := rfl
@[simp] theorem State.modRing_banks (s : State) (q : RingId) (f : Ring → Ring) : (s.modRing q f).banks = s.banks := rfl
@[simp] theorem State.modRing_bus (s : State) (q : RingId) (f : Ring → Ring) : (s.modRing q f).bus = s.bus := rfl
@[simp] theorem State.modRing_flash (s : State) (q : RingId) (f : Ring → Ring) : (s.modRing q f).flash = s.flash := rfl
@[simp] theorem State.modRing_otp (s : State) (q : RingId) (f : Ring → Ring) : (s.modRing q f).otp = s.otp := rfl
@[simp] theorem State.modRing_working (s : State) (q : RingId) (f : Ring → Ring) : (s.modRing q f).working = s.working := rfl
@[simp] theorem State.modRing_faults (s : State) (q : RingId) (f : Ring → Ring) : (s.modRing q f).faults = s.faults := rfl
@[simp] theorem State.modRing_tests (s : State) (q : RingId) (f : Ring → Ring) : (s.modRing q f).tests = s.tests := rfl
@[simp] theorem State.modRing_act (s : State) (q : RingId) (f : Ring → Ring) : (s.modRing q f).act = s.act := rfl
@[simp] theorem State.modRing_coppice (s : State) (q : RingId) (f : Ring → Ring) : (s.modRing q f).coppice = s.coppice := rfl
@[simp] theorem State.modRing_upd (s : State) (q : RingId) (f : Ring → Ring) : (s.modRing q f).upd = s.upd := rfl
@[simp] theorem State.modRing_wear (s : State) (q : RingId) (f : Ring → Ring) : (s.modRing q f).wear = s.wear := rfl
@[simp] theorem State.modRing_wearStore (s : State) (q : RingId) (f : Ring → Ring) : (s.modRing q f).wearStore = s.wearStore := rfl
@[simp] theorem State.modRing_panel (s : State) (q : RingId) (f : Ring → Ring) : (s.modRing q f).panel = s.panel := rfl
@[simp] theorem State.modRing_pending (s : State) (q : RingId) (f : Ring → Ring) : (s.modRing q f).pending = s.pending := rfl
@[simp] theorem State.modRing_same (s : State) (q : RingId) (f : Ring → Ring) : (s.modRing q f).mail.rings[q] = f s.mail.rings[q] := by
  simp [State.modRing]
theorem State.modRing_other (s : State) (q : RingId) (f : Ring → Ring) (k : RingId) (h : k ≠ q) : (s.modRing q f).mail.rings[k] = s.mail.rings[k] := by
  have e : q.val ≠ k.val := fun x => h (Fin.ext x.symm)
  simp [State.modRing, e]

@[simp] theorem State.modProv_now (s : State) (l : LaneId) (c : Chan) (f : Proving → Proving) : (s.modProv l c f).now = s.now := rfl
@[simp] theorem State.modProv_fresh (s : State) (l : LaneId) (c : Chan) (f : Proving → Proving) : (s.modProv l c f).fresh = s.fresh := rfl
@[simp] theorem State.modProv_supply (s : State) (l : LaneId) (c : Chan) (f : Proving → Proving) : (s.modProv l c f).supply = s.supply := rfl
@[simp] theorem State.modProv_mode (s : State) (l : LaneId) (c : Chan) (f : Proving → Proving) : (s.modProv l c f).mode = s.mode := rfl
@[simp] theorem State.modProv_hubs (s : State) (l : LaneId) (c : Chan) (f : Proving → Proving) : (s.modProv l c f).hubs = s.hubs := rfl
@[simp] theorem State.modProv_fe (s : State) (l : LaneId) (c : Chan) (f : Proving → Proving) : (s.modProv l c f).fe = s.fe := rfl
@[simp] theorem State.modProv_groups (s : State) (l : LaneId) (c : Chan) (f : Proving → Proving) : (s.modProv l c f).groups = s.groups := rfl
@[simp] theorem State.modProv_banks (s : State) (l : LaneId) (c : Chan) (f : Proving → Proving) : (s.modProv l c f).banks = s.banks := rfl
@[simp] theorem State.modProv_bus (s : State) (l : LaneId) (c : Chan) (f : Proving → Proving) : (s.modProv l c f).bus = s.bus := rfl
@[simp] theorem State.modProv_mail (s : State) (l : LaneId) (c : Chan) (f : Proving → Proving) : (s.modProv l c f).mail = s.mail := rfl
@[simp] theorem State.modProv_flash (s : State) (l : LaneId) (c : Chan) (f : Proving → Proving) : (s.modProv l c f).flash = s.flash := rfl
@[simp] theorem State.modProv_otp (s : State) (l : LaneId) (c : Chan) (f : Proving → Proving) : (s.modProv l c f).otp = s.otp := rfl
@[simp] theorem State.modProv_working (s : State) (l : LaneId) (c : Chan) (f : Proving → Proving) : (s.modProv l c f).working = s.working := rfl
@[simp] theorem State.modProv_faults (s : State) (l : LaneId) (c : Chan) (f : Proving → Proving) : (s.modProv l c f).faults = s.faults := rfl
@[simp] theorem State.modProv_tests (s : State) (l : LaneId) (c : Chan) (f : Proving → Proving) : (s.modProv l c f).tests = s.tests := rfl
@[simp] theorem State.modProv_act (s : State) (l : LaneId) (c : Chan) (f : Proving → Proving) : (s.modProv l c f).act = s.act := rfl
@[simp] theorem State.modProv_coppice (s : State) (l : LaneId) (c : Chan) (f : Proving → Proving) : (s.modProv l c f).coppice = s.coppice := rfl
@[simp] theorem State.modProv_upd (s : State) (l : LaneId) (c : Chan) (f : Proving → Proving) : (s.modProv l c f).upd = s.upd := rfl
@[simp] theorem State.modProv_wear (s : State) (l : LaneId) (c : Chan) (f : Proving → Proving) : (s.modProv l c f).wear = s.wear := rfl
@[simp] theorem State.modProv_wearStore (s : State) (l : LaneId) (c : Chan) (f : Proving → Proving) : (s.modProv l c f).wearStore = s.wearStore := rfl
@[simp] theorem State.modProv_panel (s : State) (l : LaneId) (c : Chan) (f : Proving → Proving) : (s.modProv l c f).panel = s.panel := rfl
@[simp] theorem State.modProv_pending (s : State) (l : LaneId) (c : Chan) (f : Proving → Proving) : (s.modProv l c f).pending = s.pending := rfl
@[simp] theorem State.modProb_now (s : State) (l : LaneId) (c : Chan) (f : Probing → Probing) : (s.modProb l c f).now = s.now := rfl
@[simp] theorem State.modProb_fresh (s : State) (l : LaneId) (c : Chan) (f : Probing → Probing) : (s.modProb l c f).fresh = s.fresh := rfl
@[simp] theorem State.modProb_supply (s : State) (l : LaneId) (c : Chan) (f : Probing → Probing) : (s.modProb l c f).supply = s.supply := rfl
@[simp] theorem State.modProb_mode (s : State) (l : LaneId) (c : Chan) (f : Probing → Probing) : (s.modProb l c f).mode = s.mode := rfl
@[simp] theorem State.modProb_hubs (s : State) (l : LaneId) (c : Chan) (f : Probing → Probing) : (s.modProb l c f).hubs = s.hubs := rfl
@[simp] theorem State.modProb_fe (s : State) (l : LaneId) (c : Chan) (f : Probing → Probing) : (s.modProb l c f).fe = s.fe := rfl
@[simp] theorem State.modProb_groups (s : State) (l : LaneId) (c : Chan) (f : Probing → Probing) : (s.modProb l c f).groups = s.groups := rfl
@[simp] theorem State.modProb_banks (s : State) (l : LaneId) (c : Chan) (f : Probing → Probing) : (s.modProb l c f).banks = s.banks := rfl
@[simp] theorem State.modProb_bus (s : State) (l : LaneId) (c : Chan) (f : Probing → Probing) : (s.modProb l c f).bus = s.bus := rfl
@[simp] theorem State.modProb_mail (s : State) (l : LaneId) (c : Chan) (f : Probing → Probing) : (s.modProb l c f).mail = s.mail := rfl
@[simp] theorem State.modProb_flash (s : State) (l : LaneId) (c : Chan) (f : Probing → Probing) : (s.modProb l c f).flash = s.flash := rfl
@[simp] theorem State.modProb_otp (s : State) (l : LaneId) (c : Chan) (f : Probing → Probing) : (s.modProb l c f).otp = s.otp := rfl
@[simp] theorem State.modProb_working (s : State) (l : LaneId) (c : Chan) (f : Probing → Probing) : (s.modProb l c f).working = s.working := rfl
@[simp] theorem State.modProb_faults (s : State) (l : LaneId) (c : Chan) (f : Probing → Probing) : (s.modProb l c f).faults = s.faults := rfl
@[simp] theorem State.modProb_tests (s : State) (l : LaneId) (c : Chan) (f : Probing → Probing) : (s.modProb l c f).tests = s.tests := rfl
@[simp] theorem State.modProb_act (s : State) (l : LaneId) (c : Chan) (f : Probing → Probing) : (s.modProb l c f).act = s.act := rfl
@[simp] theorem State.modProb_coppice (s : State) (l : LaneId) (c : Chan) (f : Probing → Probing) : (s.modProb l c f).coppice = s.coppice := rfl
@[simp] theorem State.modProb_upd (s : State) (l : LaneId) (c : Chan) (f : Probing → Probing) : (s.modProb l c f).upd = s.upd := rfl
@[simp] theorem State.modProb_wear (s : State) (l : LaneId) (c : Chan) (f : Probing → Probing) : (s.modProb l c f).wear = s.wear := rfl
@[simp] theorem State.modProb_wearStore (s : State) (l : LaneId) (c : Chan) (f : Probing → Probing) : (s.modProb l c f).wearStore = s.wearStore := rfl
@[simp] theorem State.modProb_panel (s : State) (l : LaneId) (c : Chan) (f : Probing → Probing) : (s.modProb l c f).panel = s.panel := rfl
@[simp] theorem State.modProb_pending (s : State) (l : LaneId) (c : Chan) (f : Probing → Probing) : (s.modProb l c f).pending = s.pending := rfl
@[simp] theorem State.modPoint_now (s : State) (l : LaneId) (c : Point) (f : LanePoint → LanePoint) : (s.modPoint l c f).now = s.now := rfl
@[simp] theorem State.modPoint_fresh (s : State) (l : LaneId) (c : Point) (f : LanePoint → LanePoint) : (s.modPoint l c f).fresh = s.fresh := rfl
@[simp] theorem State.modPoint_supply (s : State) (l : LaneId) (c : Point) (f : LanePoint → LanePoint) : (s.modPoint l c f).supply = s.supply := rfl
@[simp] theorem State.modPoint_mode (s : State) (l : LaneId) (c : Point) (f : LanePoint → LanePoint) : (s.modPoint l c f).mode = s.mode := rfl
@[simp] theorem State.modPoint_hubs (s : State) (l : LaneId) (c : Point) (f : LanePoint → LanePoint) : (s.modPoint l c f).hubs = s.hubs := rfl
@[simp] theorem State.modPoint_fe (s : State) (l : LaneId) (c : Point) (f : LanePoint → LanePoint) : (s.modPoint l c f).fe = s.fe := rfl
@[simp] theorem State.modPoint_groups (s : State) (l : LaneId) (c : Point) (f : LanePoint → LanePoint) : (s.modPoint l c f).groups = s.groups := rfl
@[simp] theorem State.modPoint_banks (s : State) (l : LaneId) (c : Point) (f : LanePoint → LanePoint) : (s.modPoint l c f).banks = s.banks := rfl
@[simp] theorem State.modPoint_bus (s : State) (l : LaneId) (c : Point) (f : LanePoint → LanePoint) : (s.modPoint l c f).bus = s.bus := rfl
@[simp] theorem State.modPoint_mail (s : State) (l : LaneId) (c : Point) (f : LanePoint → LanePoint) : (s.modPoint l c f).mail = s.mail := rfl
@[simp] theorem State.modPoint_flash (s : State) (l : LaneId) (c : Point) (f : LanePoint → LanePoint) : (s.modPoint l c f).flash = s.flash := rfl
@[simp] theorem State.modPoint_otp (s : State) (l : LaneId) (c : Point) (f : LanePoint → LanePoint) : (s.modPoint l c f).otp = s.otp := rfl
@[simp] theorem State.modPoint_working (s : State) (l : LaneId) (c : Point) (f : LanePoint → LanePoint) : (s.modPoint l c f).working = s.working := rfl
@[simp] theorem State.modPoint_faults (s : State) (l : LaneId) (c : Point) (f : LanePoint → LanePoint) : (s.modPoint l c f).faults = s.faults := rfl
@[simp] theorem State.modPoint_tests (s : State) (l : LaneId) (c : Point) (f : LanePoint → LanePoint) : (s.modPoint l c f).tests = s.tests := rfl
@[simp] theorem State.modPoint_act (s : State) (l : LaneId) (c : Point) (f : LanePoint → LanePoint) : (s.modPoint l c f).act = s.act := rfl
@[simp] theorem State.modPoint_coppice (s : State) (l : LaneId) (c : Point) (f : LanePoint → LanePoint) : (s.modPoint l c f).coppice = s.coppice := rfl
@[simp] theorem State.modPoint_upd (s : State) (l : LaneId) (c : Point) (f : LanePoint → LanePoint) : (s.modPoint l c f).upd = s.upd := rfl
@[simp] theorem State.modPoint_wear (s : State) (l : LaneId) (c : Point) (f : LanePoint → LanePoint) : (s.modPoint l c f).wear = s.wear := rfl
@[simp] theorem State.modPoint_wearStore (s : State) (l : LaneId) (c : Point) (f : LanePoint → LanePoint) : (s.modPoint l c f).wearStore = s.wearStore := rfl
@[simp] theorem State.modPoint_panel (s : State) (l : LaneId) (c : Point) (f : LanePoint → LanePoint) : (s.modPoint l c f).panel = s.panel := rfl
@[simp] theorem State.modPoint_pending (s : State) (l : LaneId) (c : Point) (f : LanePoint → LanePoint) : (s.modPoint l c f).pending = s.pending := rfl
@[simp] theorem State.modLatches_now (s : State) (l : LaneId) (f : Latches → Latches) : (s.modLatches l f).now = s.now := rfl
@[simp] theorem State.modLatches_fresh (s : State) (l : LaneId) (f : Latches → Latches) : (s.modLatches l f).fresh = s.fresh := rfl
@[simp] theorem State.modLatches_supply (s : State) (l : LaneId) (f : Latches → Latches) : (s.modLatches l f).supply = s.supply := rfl
@[simp] theorem State.modLatches_mode (s : State) (l : LaneId) (f : Latches → Latches) : (s.modLatches l f).mode = s.mode := rfl
@[simp] theorem State.modLatches_hubs (s : State) (l : LaneId) (f : Latches → Latches) : (s.modLatches l f).hubs = s.hubs := rfl
@[simp] theorem State.modLatches_fe (s : State) (l : LaneId) (f : Latches → Latches) : (s.modLatches l f).fe = s.fe := rfl
@[simp] theorem State.modLatches_groups (s : State) (l : LaneId) (f : Latches → Latches) : (s.modLatches l f).groups = s.groups := rfl
@[simp] theorem State.modLatches_banks (s : State) (l : LaneId) (f : Latches → Latches) : (s.modLatches l f).banks = s.banks := rfl
@[simp] theorem State.modLatches_bus (s : State) (l : LaneId) (f : Latches → Latches) : (s.modLatches l f).bus = s.bus := rfl
@[simp] theorem State.modLatches_mail (s : State) (l : LaneId) (f : Latches → Latches) : (s.modLatches l f).mail = s.mail := rfl
@[simp] theorem State.modLatches_flash (s : State) (l : LaneId) (f : Latches → Latches) : (s.modLatches l f).flash = s.flash := rfl
@[simp] theorem State.modLatches_otp (s : State) (l : LaneId) (f : Latches → Latches) : (s.modLatches l f).otp = s.otp := rfl
@[simp] theorem State.modLatches_working (s : State) (l : LaneId) (f : Latches → Latches) : (s.modLatches l f).working = s.working := rfl
@[simp] theorem State.modLatches_faults (s : State) (l : LaneId) (f : Latches → Latches) : (s.modLatches l f).faults = s.faults := rfl
@[simp] theorem State.modLatches_tests (s : State) (l : LaneId) (f : Latches → Latches) : (s.modLatches l f).tests = s.tests := rfl
@[simp] theorem State.modLatches_act (s : State) (l : LaneId) (f : Latches → Latches) : (s.modLatches l f).act = s.act := rfl
@[simp] theorem State.modLatches_coppice (s : State) (l : LaneId) (f : Latches → Latches) : (s.modLatches l f).coppice = s.coppice := rfl
@[simp] theorem State.modLatches_upd (s : State) (l : LaneId) (f : Latches → Latches) : (s.modLatches l f).upd = s.upd := rfl
@[simp] theorem State.modLatches_wear (s : State) (l : LaneId) (f : Latches → Latches) : (s.modLatches l f).wear = s.wear := rfl
@[simp] theorem State.modLatches_wearStore (s : State) (l : LaneId) (f : Latches → Latches) : (s.modLatches l f).wearStore = s.wearStore := rfl
@[simp] theorem State.modLatches_panel (s : State) (l : LaneId) (f : Latches → Latches) : (s.modLatches l f).panel = s.panel := rfl
@[simp] theorem State.modLatches_pending (s : State) (l : LaneId) (f : Latches → Latches) : (s.modLatches l f).pending = s.pending := rfl
@[simp] theorem State.modRun_now (s : State) (l : LaneId) (f : WearRun → WearRun) : (s.modRun l f).now = s.now := rfl
@[simp] theorem State.modRun_fresh (s : State) (l : LaneId) (f : WearRun → WearRun) : (s.modRun l f).fresh = s.fresh := rfl
@[simp] theorem State.modRun_supply (s : State) (l : LaneId) (f : WearRun → WearRun) : (s.modRun l f).supply = s.supply := rfl
@[simp] theorem State.modRun_mode (s : State) (l : LaneId) (f : WearRun → WearRun) : (s.modRun l f).mode = s.mode := rfl
@[simp] theorem State.modRun_lanes (s : State) (l : LaneId) (f : WearRun → WearRun) : (s.modRun l f).lanes = s.lanes := rfl
@[simp] theorem State.modRun_hubs (s : State) (l : LaneId) (f : WearRun → WearRun) : (s.modRun l f).hubs = s.hubs := rfl
@[simp] theorem State.modRun_fe (s : State) (l : LaneId) (f : WearRun → WearRun) : (s.modRun l f).fe = s.fe := rfl
@[simp] theorem State.modRun_groups (s : State) (l : LaneId) (f : WearRun → WearRun) : (s.modRun l f).groups = s.groups := rfl
@[simp] theorem State.modRun_banks (s : State) (l : LaneId) (f : WearRun → WearRun) : (s.modRun l f).banks = s.banks := rfl
@[simp] theorem State.modRun_bus (s : State) (l : LaneId) (f : WearRun → WearRun) : (s.modRun l f).bus = s.bus := rfl
@[simp] theorem State.modRun_mail (s : State) (l : LaneId) (f : WearRun → WearRun) : (s.modRun l f).mail = s.mail := rfl
@[simp] theorem State.modRun_flash (s : State) (l : LaneId) (f : WearRun → WearRun) : (s.modRun l f).flash = s.flash := rfl
@[simp] theorem State.modRun_otp (s : State) (l : LaneId) (f : WearRun → WearRun) : (s.modRun l f).otp = s.otp := rfl
@[simp] theorem State.modRun_working (s : State) (l : LaneId) (f : WearRun → WearRun) : (s.modRun l f).working = s.working := rfl
@[simp] theorem State.modRun_faults (s : State) (l : LaneId) (f : WearRun → WearRun) : (s.modRun l f).faults = s.faults := rfl
@[simp] theorem State.modRun_tests (s : State) (l : LaneId) (f : WearRun → WearRun) : (s.modRun l f).tests = s.tests := rfl
@[simp] theorem State.modRun_act (s : State) (l : LaneId) (f : WearRun → WearRun) : (s.modRun l f).act = s.act := rfl
@[simp] theorem State.modRun_coppice (s : State) (l : LaneId) (f : WearRun → WearRun) : (s.modRun l f).coppice = s.coppice := rfl
@[simp] theorem State.modRun_upd (s : State) (l : LaneId) (f : WearRun → WearRun) : (s.modRun l f).upd = s.upd := rfl
@[simp] theorem State.modRun_wearStore (s : State) (l : LaneId) (f : WearRun → WearRun) : (s.modRun l f).wearStore = s.wearStore := rfl
@[simp] theorem State.modRun_panel (s : State) (l : LaneId) (f : WearRun → WearRun) : (s.modRun l f).panel = s.panel := rfl
@[simp] theorem State.modRun_pending (s : State) (l : LaneId) (f : WearRun → WearRun) : (s.modRun l f).pending = s.pending := rfl
@[simp] theorem State.modLamp_now (s : State) (l : LaneId) (c : Chan) (f : LampRun → LampRun) : (s.modLamp l c f).now = s.now := rfl
@[simp] theorem State.modLamp_fresh (s : State) (l : LaneId) (c : Chan) (f : LampRun → LampRun) : (s.modLamp l c f).fresh = s.fresh := rfl
@[simp] theorem State.modLamp_supply (s : State) (l : LaneId) (c : Chan) (f : LampRun → LampRun) : (s.modLamp l c f).supply = s.supply := rfl
@[simp] theorem State.modLamp_mode (s : State) (l : LaneId) (c : Chan) (f : LampRun → LampRun) : (s.modLamp l c f).mode = s.mode := rfl
@[simp] theorem State.modLamp_lanes (s : State) (l : LaneId) (c : Chan) (f : LampRun → LampRun) : (s.modLamp l c f).lanes = s.lanes := rfl
@[simp] theorem State.modLamp_hubs (s : State) (l : LaneId) (c : Chan) (f : LampRun → LampRun) : (s.modLamp l c f).hubs = s.hubs := rfl
@[simp] theorem State.modLamp_fe (s : State) (l : LaneId) (c : Chan) (f : LampRun → LampRun) : (s.modLamp l c f).fe = s.fe := rfl
@[simp] theorem State.modLamp_groups (s : State) (l : LaneId) (c : Chan) (f : LampRun → LampRun) : (s.modLamp l c f).groups = s.groups := rfl
@[simp] theorem State.modLamp_banks (s : State) (l : LaneId) (c : Chan) (f : LampRun → LampRun) : (s.modLamp l c f).banks = s.banks := rfl
@[simp] theorem State.modLamp_bus (s : State) (l : LaneId) (c : Chan) (f : LampRun → LampRun) : (s.modLamp l c f).bus = s.bus := rfl
@[simp] theorem State.modLamp_mail (s : State) (l : LaneId) (c : Chan) (f : LampRun → LampRun) : (s.modLamp l c f).mail = s.mail := rfl
@[simp] theorem State.modLamp_flash (s : State) (l : LaneId) (c : Chan) (f : LampRun → LampRun) : (s.modLamp l c f).flash = s.flash := rfl
@[simp] theorem State.modLamp_otp (s : State) (l : LaneId) (c : Chan) (f : LampRun → LampRun) : (s.modLamp l c f).otp = s.otp := rfl
@[simp] theorem State.modLamp_working (s : State) (l : LaneId) (c : Chan) (f : LampRun → LampRun) : (s.modLamp l c f).working = s.working := rfl
@[simp] theorem State.modLamp_faults (s : State) (l : LaneId) (c : Chan) (f : LampRun → LampRun) : (s.modLamp l c f).faults = s.faults := rfl
@[simp] theorem State.modLamp_tests (s : State) (l : LaneId) (c : Chan) (f : LampRun → LampRun) : (s.modLamp l c f).tests = s.tests := rfl
@[simp] theorem State.modLamp_act (s : State) (l : LaneId) (c : Chan) (f : LampRun → LampRun) : (s.modLamp l c f).act = s.act := rfl
@[simp] theorem State.modLamp_coppice (s : State) (l : LaneId) (c : Chan) (f : LampRun → LampRun) : (s.modLamp l c f).coppice = s.coppice := rfl
@[simp] theorem State.modLamp_upd (s : State) (l : LaneId) (c : Chan) (f : LampRun → LampRun) : (s.modLamp l c f).upd = s.upd := rfl
@[simp] theorem State.modLamp_wearStore (s : State) (l : LaneId) (c : Chan) (f : LampRun → LampRun) : (s.modLamp l c f).wearStore = s.wearStore := rfl
@[simp] theorem State.modLamp_panel (s : State) (l : LaneId) (c : Chan) (f : LampRun → LampRun) : (s.modLamp l c f).panel = s.panel := rfl
@[simp] theorem State.modLamp_pending (s : State) (l : LaneId) (c : Chan) (f : LampRun → LampRun) : (s.modLamp l c f).pending = s.pending := rfl
@[simp] theorem State.modCont_now (s : State) (l : LaneId) (c : Fin 24) (f : ContRun → ContRun) : (s.modCont l c f).now = s.now := rfl
@[simp] theorem State.modCont_fresh (s : State) (l : LaneId) (c : Fin 24) (f : ContRun → ContRun) : (s.modCont l c f).fresh = s.fresh := rfl
@[simp] theorem State.modCont_supply (s : State) (l : LaneId) (c : Fin 24) (f : ContRun → ContRun) : (s.modCont l c f).supply = s.supply := rfl
@[simp] theorem State.modCont_mode (s : State) (l : LaneId) (c : Fin 24) (f : ContRun → ContRun) : (s.modCont l c f).mode = s.mode := rfl
@[simp] theorem State.modCont_lanes (s : State) (l : LaneId) (c : Fin 24) (f : ContRun → ContRun) : (s.modCont l c f).lanes = s.lanes := rfl
@[simp] theorem State.modCont_hubs (s : State) (l : LaneId) (c : Fin 24) (f : ContRun → ContRun) : (s.modCont l c f).hubs = s.hubs := rfl
@[simp] theorem State.modCont_fe (s : State) (l : LaneId) (c : Fin 24) (f : ContRun → ContRun) : (s.modCont l c f).fe = s.fe := rfl
@[simp] theorem State.modCont_groups (s : State) (l : LaneId) (c : Fin 24) (f : ContRun → ContRun) : (s.modCont l c f).groups = s.groups := rfl
@[simp] theorem State.modCont_banks (s : State) (l : LaneId) (c : Fin 24) (f : ContRun → ContRun) : (s.modCont l c f).banks = s.banks := rfl
@[simp] theorem State.modCont_bus (s : State) (l : LaneId) (c : Fin 24) (f : ContRun → ContRun) : (s.modCont l c f).bus = s.bus := rfl
@[simp] theorem State.modCont_mail (s : State) (l : LaneId) (c : Fin 24) (f : ContRun → ContRun) : (s.modCont l c f).mail = s.mail := rfl
@[simp] theorem State.modCont_flash (s : State) (l : LaneId) (c : Fin 24) (f : ContRun → ContRun) : (s.modCont l c f).flash = s.flash := rfl
@[simp] theorem State.modCont_otp (s : State) (l : LaneId) (c : Fin 24) (f : ContRun → ContRun) : (s.modCont l c f).otp = s.otp := rfl
@[simp] theorem State.modCont_working (s : State) (l : LaneId) (c : Fin 24) (f : ContRun → ContRun) : (s.modCont l c f).working = s.working := rfl
@[simp] theorem State.modCont_faults (s : State) (l : LaneId) (c : Fin 24) (f : ContRun → ContRun) : (s.modCont l c f).faults = s.faults := rfl
@[simp] theorem State.modCont_tests (s : State) (l : LaneId) (c : Fin 24) (f : ContRun → ContRun) : (s.modCont l c f).tests = s.tests := rfl
@[simp] theorem State.modCont_act (s : State) (l : LaneId) (c : Fin 24) (f : ContRun → ContRun) : (s.modCont l c f).act = s.act := rfl
@[simp] theorem State.modCont_coppice (s : State) (l : LaneId) (c : Fin 24) (f : ContRun → ContRun) : (s.modCont l c f).coppice = s.coppice := rfl
@[simp] theorem State.modCont_upd (s : State) (l : LaneId) (c : Fin 24) (f : ContRun → ContRun) : (s.modCont l c f).upd = s.upd := rfl
@[simp] theorem State.modCont_wearStore (s : State) (l : LaneId) (c : Fin 24) (f : ContRun → ContRun) : (s.modCont l c f).wearStore = s.wearStore := rfl
@[simp] theorem State.modCont_panel (s : State) (l : LaneId) (c : Fin 24) (f : ContRun → ContRun) : (s.modCont l c f).panel = s.panel := rfl
@[simp] theorem State.modCont_pending (s : State) (l : LaneId) (c : Fin 24) (f : ContRun → ContRun) : (s.modCont l c f).pending = s.pending := rfl
@[simp] theorem State.modRun_same (s : State) (l : LaneId) (f : WearRun → WearRun) : (s.modRun l f).wear.run[l] = f s.wear.run[l] := by
  simp [State.modRun]
theorem State.modRun_other (s : State) (l : LaneId) (f : WearRun → WearRun) (k : LaneId) (h : k ≠ l) : (s.modRun l f).wear.run[k] = s.wear.run[k] := by
  have e : l.val ≠ k.val := fun x => h (Fin.ext x.symm)
  simp [State.modRun, e]

@[simp] theorem State.logRec_now (s : State) (r : Bytes) : (s.logRec r).now = s.now := rfl
@[simp] theorem State.logRec_fresh (s : State) (r : Bytes) : (s.logRec r).fresh = s.fresh := rfl
@[simp] theorem State.logRec_supply (s : State) (r : Bytes) : (s.logRec r).supply = s.supply := rfl
@[simp] theorem State.logRec_mode (s : State) (r : Bytes) : (s.logRec r).mode = s.mode := rfl
@[simp] theorem State.logRec_lanes (s : State) (r : Bytes) : (s.logRec r).lanes = s.lanes := rfl
@[simp] theorem State.logRec_hubs (s : State) (r : Bytes) : (s.logRec r).hubs = s.hubs := rfl
@[simp] theorem State.logRec_fe (s : State) (r : Bytes) : (s.logRec r).fe = s.fe := rfl
@[simp] theorem State.logRec_groups (s : State) (r : Bytes) : (s.logRec r).groups = s.groups := rfl
@[simp] theorem State.logRec_banks (s : State) (r : Bytes) : (s.logRec r).banks = s.banks := rfl
@[simp] theorem State.logRec_bus (s : State) (r : Bytes) : (s.logRec r).bus = s.bus := rfl
@[simp] theorem State.logRec_mail (s : State) (r : Bytes) : (s.logRec r).mail = s.mail := rfl
@[simp] theorem State.logRec_otp (s : State) (r : Bytes) : (s.logRec r).otp = s.otp := rfl
@[simp] theorem State.logRec_working (s : State) (r : Bytes) : (s.logRec r).working = s.working := rfl
@[simp] theorem State.logRec_faults (s : State) (r : Bytes) : (s.logRec r).faults = s.faults := rfl
@[simp] theorem State.logRec_tests (s : State) (r : Bytes) : (s.logRec r).tests = s.tests := rfl
@[simp] theorem State.logRec_act (s : State) (r : Bytes) : (s.logRec r).act = s.act := rfl
@[simp] theorem State.logRec_coppice (s : State) (r : Bytes) : (s.logRec r).coppice = s.coppice := rfl
@[simp] theorem State.logRec_upd (s : State) (r : Bytes) : (s.logRec r).upd = s.upd := rfl
@[simp] theorem State.logRec_wear (s : State) (r : Bytes) : (s.logRec r).wear = s.wear := rfl
@[simp] theorem State.logRec_wearStore (s : State) (r : Bytes) : (s.logRec r).wearStore = s.wearStore := rfl
@[simp] theorem State.logRec_panel (s : State) (r : Bytes) : (s.logRec r).panel = s.panel := rfl
@[simp] theorem State.logRec_pending (s : State) (r : Bytes) : (s.logRec r).pending = s.pending := rfl
@[simp] theorem State.tick_fresh (s : State) : s.tick.fresh = s.fresh := rfl
@[simp] theorem State.tick_supply (s : State) : s.tick.supply = s.supply := rfl
@[simp] theorem State.tick_mode (s : State) : s.tick.mode = s.mode := rfl
@[simp] theorem State.tick_lanes (s : State) : s.tick.lanes = s.lanes := rfl
@[simp] theorem State.tick_fe (s : State) : s.tick.fe = s.fe := rfl
@[simp] theorem State.tick_groups (s : State) : s.tick.groups = s.groups := rfl
@[simp] theorem State.tick_banks (s : State) : s.tick.banks = s.banks := rfl
@[simp] theorem State.tick_bus (s : State) : s.tick.bus = s.bus := rfl
@[simp] theorem State.tick_mail (s : State) : s.tick.mail = s.mail := rfl
@[simp] theorem State.tick_flash (s : State) : s.tick.flash = s.flash := rfl
@[simp] theorem State.tick_otp (s : State) : s.tick.otp = s.otp := rfl
@[simp] theorem State.tick_working (s : State) : s.tick.working = s.working := rfl
@[simp] theorem State.tick_faults (s : State) : s.tick.faults = s.faults := rfl
@[simp] theorem State.tick_tests (s : State) : s.tick.tests = s.tests := rfl
@[simp] theorem State.tick_act (s : State) : s.tick.act = s.act := rfl
@[simp] theorem State.tick_coppice (s : State) : s.tick.coppice = s.coppice := rfl
@[simp] theorem State.tick_upd (s : State) : s.tick.upd = s.upd := rfl
@[simp] theorem State.tick_wear (s : State) : s.tick.wear = s.wear := rfl
@[simp] theorem State.tick_wearStore (s : State) : s.tick.wearStore = s.wearStore := rfl
@[simp] theorem State.tick_panel (s : State) : s.tick.panel = s.panel := rfl
@[simp] theorem State.tick_pending (s : State) : s.tick.pending = s.pending := rfl
@[simp] theorem State.free_now (s : State) : s.free.2.now = s.now := rfl
@[simp] theorem State.free_supply (s : State) : s.free.2.supply = s.supply := rfl
@[simp] theorem State.free_mode (s : State) : s.free.2.mode = s.mode := rfl
@[simp] theorem State.free_lanes (s : State) : s.free.2.lanes = s.lanes := rfl
@[simp] theorem State.free_hubs (s : State) : s.free.2.hubs = s.hubs := rfl
@[simp] theorem State.free_fe (s : State) : s.free.2.fe = s.fe := rfl
@[simp] theorem State.free_groups (s : State) : s.free.2.groups = s.groups := rfl
@[simp] theorem State.free_banks (s : State) : s.free.2.banks = s.banks := rfl
@[simp] theorem State.free_bus (s : State) : s.free.2.bus = s.bus := rfl
@[simp] theorem State.free_mail (s : State) : s.free.2.mail = s.mail := rfl
@[simp] theorem State.free_flash (s : State) : s.free.2.flash = s.flash := rfl
@[simp] theorem State.free_otp (s : State) : s.free.2.otp = s.otp := rfl
@[simp] theorem State.free_working (s : State) : s.free.2.working = s.working := rfl
@[simp] theorem State.free_faults (s : State) : s.free.2.faults = s.faults := rfl
@[simp] theorem State.free_tests (s : State) : s.free.2.tests = s.tests := rfl
@[simp] theorem State.free_act (s : State) : s.free.2.act = s.act := rfl
@[simp] theorem State.free_coppice (s : State) : s.free.2.coppice = s.coppice := rfl
@[simp] theorem State.free_upd (s : State) : s.free.2.upd = s.upd := rfl
@[simp] theorem State.free_wear (s : State) : s.free.2.wear = s.wear := rfl
@[simp] theorem State.free_wearStore (s : State) : s.free.2.wearStore = s.wearStore := rfl
@[simp] theorem State.free_panel (s : State) : s.free.2.panel = s.panel := rfl
@[simp] theorem State.free_pending (s : State) : s.free.2.pending = s.pending := rfl

end Sys2Proof.Machine
end

