-- ==== Sys2Proof/Laws/Accept.lean ====
section
/-!
SUPPORT. What the arrival of an admitted command does, said once for every opcode: its operation runs once, on the state
that holds the command, and all that follows touches the mailbox path alone.
-/

namespace Sys2Proof.Machine

/-! ## The octets of a command -/

theorem cmdOctets_length (c : MailCmd) (op : Nat) : (cmdOctets c op).length = 8 + c.payload.length := by
  simp [cmdOctets, header, toLe]; omega
theorem cmdOctets_drop (c : MailCmd) (op : Nat) : (cmdOctets c op).drop 8 = c.payload := by
  simp [cmdOctets, header, toLe]
theorem cmdOctets_tag (c : MailCmd) (op : Nat) : octet (cmdOctets c op) 0 = c.tag := by
  simp [cmdOctets, header, toLe, octet]
theorem cmdOctets_msgTag (c : MailCmd) (op : Nat) : msgTag (cmdOctets c op) = c.tag.toNat := by
  simp [msgTag, leAt, cmdOctets_tag]
theorem cmdOctets_msgFlags (c : MailCmd) (op : Nat) : msgFlags (cmdOctets c op) = 0 := by
  simp [msgFlags, leAt, cmdOctets, header, toLe, octet]
theorem cmdOctets_msgStatus (c : MailCmd) (op : Nat) : msgStatus (cmdOctets c op) = 0 := by
  simp [msgStatus, leAt, cmdOctets, header, toLe, octet]
theorem cmdOctets_msgOp (c : MailCmd) {op : Nat} (h : op < 65536) : msgOp (cmdOctets c op) = op := by
  simp [msgOp, leAt, cmdOctets, header, toLe, octet]; omega
theorem cmdOctets_msgLen (c : MailCmd) (op : Nat) (h : c.payload.length < 65536) : msgLen (cmdOctets c op) = c.payload.length := by
  simp [msgLen, leAt, cmdOctets, header, toLe, octet]; omega

/-! ## What touches the mailbox path alone -/

/-- One state differs from another in the mailbox path alone: the rings, transactions and turns, and the hubs' queue memory and
count of dropped segments. -/
structure MailOnly (s t : State) : Prop where
  rest : t = { s with mail := t.mail, hubs := t.hubs }
  path : t.mail = { s.mail with rings := t.mail.rings, txns := t.mail.txns, nextNum := t.mail.nextNum, turn := t.mail.turn }
  hub : ∀ h : HubId, t.hubs[h] = s.hubs[h].mailPart t.hubs[h].qmem t.hubs[h].bus.cnt.segDropped

theorem MailOnly.refl (s : State) : MailOnly s s := ⟨rfl, rfl, fun _ => rfl⟩
theorem MailOnly.trans {s t u : State} (a : MailOnly s t) (b : MailOnly t u) : MailOnly s u := by
  refine ⟨?_, ?_, fun h => ?_⟩
  · have e := b.rest; rw [a.rest] at e; exact e
  · have e := b.path; rw [a.path] at e; exact e
  · have e := b.hub h; rw [a.hub h] at e; exact e
theorem MailOnly.mail {s t : State} (a : MailOnly s t) (m : Mail)
    (h : m = { t.mail with rings := m.rings, txns := m.txns, nextNum := m.nextNum, turn := m.turn }) : MailOnly s { t with mail := m } :=
  a.trans ⟨rfl, h, fun _ => rfl⟩
theorem MailOnly.ite {s t u : State} {p : Prop} [Decidable p] (a : MailOnly s t) (b : MailOnly s u) : MailOnly s (if p then t else u) := by
  split <;> assumption
theorem MailOnly.each {α : Type} {s t : State} {xs : List α} {f : State → α → State} (hf : ∀ u x, MailOnly u (f u x)) (h : MailOnly s t) :
    MailOnly s (t.each xs f) := by
  unfold State.each
  induction xs generalizing t with
  | nil => exact h
  | cons x r ih => exact ih (h.trans (hf t x))

theorem MailOnly.modRing {s t : State} (h : MailOnly s t) (q : RingId) (f : Ring → Ring) : MailOnly s (t.modRing q f) := h.mail _ rfl
theorem MailOnly.modTxn {s t : State} (h : MailOnly s t) (n : Nat) (f : Txn → Txn) : MailOnly s (t.modTxn n f) := h.mail _ rfl
theorem MailOnly.prune {s t : State} (h : MailOnly s t) : MailOnly s t.prune := h.mail _ rfl
theorem MailOnly.endTxn {s t : State} (h : MailOnly s t) (n : Nat) : MailOnly s (t.endTxn n) := (h.modTxn n _).prune
theorem MailOnly.passTurn {s t : State} (h : MailOnly s t) (l : LaneId) (q : RingId) : MailOnly s (t.passTurn l q) := h.mail _ rfl
theorem MailOnly.freeRing {s t : State} (h : MailOnly s t) (q : RingId) : MailOnly s (t.freeRing q) := ((h.mail _ rfl).modRing q _).prune
theorem MailOnly.putMsg {s t : State} (h : MailOnly s t) (q : RingId) (bs : Bytes) : MailOnly s (t.putMsg q bs) :=
  h.trans ⟨rfl, rfl, fun k => by simp [State.putMsg, State.modHubs, HubState.mailPart]⟩
theorem MailOnly.placeMsg {s t : State} (h : MailOnly s t) (q : RingId) (m : OutMsg) : MailOnly s (t.placeMsg q m) := (h.putMsg q _).modRing q _
theorem MailOnly.storeTxn {s t : State} (h : MailOnly s t) (x : Source) (q : RingId) (bs : Bytes) (n : Nat) : MailOnly s (t.storeTxn x q bs n) := h.mail _ rfl
theorem MailOnly.advanceSeq {s t : State} (h : MailOnly s t) (x : Source) (n : Nat) : MailOnly s (t.advanceSeq x n) := by
  unfold State.advanceSeq
  split
  · exact h
  · exact h.modRing _ _
theorem MailOnly.segDrop {s t : State} (h : MailOnly s t) (k : HubId) (n : Nat) : MailOnly s (t.segDrop k n) := by
  refine h.trans ⟨rfl, rfl, fun j => ?_⟩
  by_cases e : j = k
  · subst e; rw [show (t.segDrop j n).hubs[j] = _ from State.modHub_same t j _]; rfl
  · rw [show (t.segDrop k n).hubs[j] = t.hubs[j] from State.modHub_other t k _ j e]; rfl
theorem MailOnly.dropOpen {s t : State} (h : MailOnly s t) (k : HubId) (x : Source) : MailOnly s (t.dropOpen k x) := by
  refine MailOnly.each (fun u q => ?_) h
  split
  · exact ((MailOnly.refl u).modRing _ _).segDrop _ _
  · exact MailOnly.refl u
/-- A fold of operations that keep a field keeps it. -/
theorem each_field {α β : Type} (g : State → β) {f : State → α → State} (xs : List α) (h : ∀ t, ∀ x ∈ xs, g (f t x) = g t) (s : State) :
    g (s.each xs f) = g s := by
  unfold State.each
  induction xs generalizing s with
  | nil => rfl
  | cons x r ih =>
    exact (ih (fun t y hy => h t y (List.mem_cons_of_mem _ hy)) _).trans (h s x (List.mem_cons_self ..))
/-- A discarded part touches neither transactions, numbers, subscriptions nor what a ring but its own holds. -/
theorem dropOpen_field {β : Type} (g : State → β) (h : ∀ t q n k, g ((State.modRing t q Ring.dropPart).segDrop k n) = g t) (s : State) (k : HubId)
    (x : Source) : g (s.dropOpen k x) = g s := by
  refine each_field g _ (fun t q _ => ?_) s
  split
  · exact h t q _ k
  · rfl
@[simp] theorem dropOpen_txns (s : State) (k : HubId) (x : Source) : (s.dropOpen k x).mail.txns = s.mail.txns := dropOpen_field (·.mail.txns) (fun _ _ _ _ => rfl) s k x
@[simp] theorem dropOpen_nextNum (s : State) (k : HubId) (x : Source) : (s.dropOpen k x).mail.nextNum = s.mail.nextNum :=
  dropOpen_field (·.mail.nextNum) (fun _ _ _ _ => rfl) s k x
@[simp] theorem dropOpen_switching (s : State) (k : HubId) (x : Source) : (s.dropOpen k x).mail.switching = s.mail.switching :=
  dropOpen_field (·.mail.switching) (fun _ _ _ _ => rfl) s k x
@[simp] theorem dropOpen_subs (s : State) (k : HubId) (x : Source) : (s.dropOpen k x).mail.subs = s.mail.subs := dropOpen_field (·.mail.subs) (fun _ _ _ _ => rfl) s k x
@[simp] theorem dropOpen_now (s : State) (k : HubId) (x : Source) : (s.dropOpen k x).now = s.now := dropOpen_field (·.now) (fun _ _ _ _ => rfl) s k x
theorem dropOpen_outRing (s : State) (k : HubId) (x : Source) (q : RingId) (h : 6 ≤ q.val) : (s.dropOpen k x).mail.rings[q] = s.mail.rings[q] := by
  refine each_field (·.mail.rings[q]) _ (fun t r hr => ?_) s
  have h5 : r.val ≤ 5 := by
    have := (srcIdx x).isLt
    unfold State.ringsOf at hr
    split at hr <;> simp only [List.mem_cons, List.not_mem_nil, or_false] at hr
    · rcases hr with e | e <;> subst e
      · simp only [cmdRing]; omega
      · decide
    · subst hr; simp only [cmdRing]; omega
  have e : q ≠ r := fun e => by subst e; omega
  split
  · show (t.modRing r Ring.dropPart).mail.rings[q] = _
    exact State.modRing_other _ _ _ _ e
  · rfl
theorem MailOnly.placeResp {s t : State} (h : MailOnly s t) (q : RingId) (m : OutMsg) : MailOnly s (t.placeResp q m) := by
  unfold State.placeResp
  dsimp only
  split
  · exact MailOnly.ite ((h.placeMsg q m).endTxn _) (h.placeMsg q m)
  · exact h.placeMsg q m
theorem MailOnly.forward {s t : State} (h : MailOnly s t) (x : Txn) (bs : Bytes) (b : Bool) : MailOnly s (t.forward x bs b) := by
  unfold State.forward
  extract_lets q s1 m r
  have k : MailOnly s s1 := MailOnly.ite (h.modTxn _ _) h
  exact MailOnly.ite (k.placeResp q m).prune (k.modRing q _).prune
theorem MailOnly.sendLspec {s t : State} (h : MailOnly s t) (n : Nat) (l : LaneId) (r : Reply) : MailOnly s (t.sendLspec n l r) := by
  unfold State.sendLspec
  split
  · exact h
  · exact MailOnly.ite h ((h.modTxn n _).forward _ _ _)
theorem laneOp_state {n : Nat} {f : Cmd → LaneId → State → State × Reply} (h : laneOp n = some f) (c : Cmd) (l : LaneId) (s : State) :
    (f c l s).1 = s := by
  unfold laneOp at h
  split at h
  all_goals first
    | (rw [← Option.some.inj h]; rfl)
    | simp at h
theorem MailOnly.handOver {s t : State} (h : MailOnly s t) (l : LaneId) (n : Nat) : MailOnly s (t.handOver l n) := by
  unfold State.handOver
  extract_lets s1
  have k : MailOnly s s1 := h.modTxn n _
  split
  · exact k
  · split
    · split
      · exact k.sendLspec _ _ _
      · rename_i f _ hf
        dsimp only
        rw [laneOp_state hf]
        exact k.sendLspec _ _ _
      · exact k
    · split
      · exact k.modTxn _ _
      · exact k
theorem MailOnly.stored (s : State) (c : MailCmd) (op : Nat) : MailOnly s (s.stored c op) :=
  (((((MailOnly.refl s).advanceSeq c.src _).dropOpen _ c.src).putMsg c.ring _).modRing c.ring _).storeTxn c.src c.ring _ _

theorem each_same {α : Type} {s : State} {xs : List α} {f : State → α → State} (h : ∀ x, f s x = s) : s.each xs f = s := by
  unfold State.each
  induction xs with
  | nil => rfl
  | cons x r ih => simp only [List.foldl_cons, h x, ih]

/-! ## The state on which the operation runs -/

/-- The command as its operation sees it. -/
def cmdAs (c : MailCmd) (s : State) : Cmd := { src := c.src, ring := c.ring, num := s.mail.nextNum, tag := c.tag, p := c.payload }
/-- The transaction of a command just stored. -/
def State.newTxn (s : State) (c : MailCmd) (op : Nat) : Txn :=
  { num := s.mail.nextNum, src := c.src, ring := c.ring, octets := cmdOctets c op, entries := entriesOf (8 + c.payload.length), storedAt := s.now }
/-- The state that holds a stored command, with its transaction being judged; a command of the session's owner restarts the
session's idle time (R520). -/
def State.taken (s : State) (c : MailCmd) (op : Nat) : State :=
  let s1 := s.stored c op
  { s1 with
    mail := { s1.mail with txns := [{ s.newTxn c op with judged := true }] }
    upd := if s.upd.owner = some c.src then { s.upd with lastCmd := s.now } else s.upd }

theorem opInfo_bound {op : Nat} {i : OpInfo} (h : opInfo op = some i) : op < 65536 ∧ i.hi ≤ 1016 := by
  unfold opInfo at h
  split at h
  all_goals first
    | (rw [← Option.some.inj h]; decide)
    | simp at h
/-- Nothing refuses an admitted command where no transaction stands (R308). -/
theorem check308_none {s u : State} {c : MailCmd} {op : Nat} (h : s.Admits c op) (hu : u.mail.txns = []) : u.check308 (s.newTxn c op) = none := by
  obtain ⟨i, hi, _, _, _, lo, hi2⟩ := h.row
  obtain ⟨b1, b2⟩ := opInfo_bound hi
  have htag := h.tag
  have hlen : c.payload.length < 65536 := by omega
  unfold State.check308
  simp only [State.newTxn, cmdOctets_msgTag, cmdOctets_msgFlags, cmdOctets_msgStatus, cmdOctets_msgLen c op hlen, cmdOctets_msgOp c b1, cmdOctets_length,
    hu, List.filter_nil, hi, Option.any_some, List.any_nil, List.length_nil]
  rw [if_neg (by omega), if_neg (by simp), if_neg (by omega), if_neg (by rintro ⟨x, y⟩; simp at y; omega), if_neg (by simp), if_neg (by omega)]
theorem stored_txns {s : State} {c : MailCmd} {op : Nat} (h : s.Admits c op) : (s.stored c op).mail.txns = [s.newTxn c op] := by
  have key (u : State) (hu : u.mail.txns = [] ∧ u.mail.nextNum = s.mail.nextNum ∧ u.now = s.now) :
      (u.storeTxn c.src c.ring (cmdOctets c op) (entriesOf (cmdOctets c op).length)).mail.txns = [s.newTxn c op] := by
    have hc := check308_none h hu.1
    unfold State.storeTxn
    simp only [State.newTxn] at hc
    simp only [hu, cmdOctets_length, hc, List.nil_append, State.newTxn]
    rfl
  unfold State.stored
  apply key
  unfold State.advanceSeq
  cases hs : c.src <;> simp [State.modRing, State.putMsg, State.modHubs, h.alone]
theorem stored_nextNum (s : State) (c : MailCmd) (op : Nat) : (s.stored c op).mail.nextNum = s.mail.nextNum + 1 := by
  unfold State.stored State.storeTxn State.advanceSeq
  cases c.src <;> simp [State.modRing, State.putMsg, State.modHubs]
theorem stored_switching (s : State) (c : MailCmd) (op : Nat) : (s.stored c op).mail.switching = s.mail.switching := by
  unfold State.stored State.storeTxn State.advanceSeq
  cases c.src <;> simp [State.modRing, State.putMsg, State.modHubs]
theorem stored_subs (s : State) (c : MailCmd) (op : Nat) : (s.stored c op).mail.subs = s.mail.subs := by
  unfold State.stored State.storeTxn State.advanceSeq
  cases c.src <;> simp [State.modRing, State.putMsg, State.modHubs]
theorem stored_rest (s : State) (c : MailCmd) (op : Nat) :
    s.stored c op = { s with mail := (s.stored c op).mail, hubs := (s.stored c op).hubs } := (MailOnly.stored s c op).rest
/-- An outbound ring is as it was. -/
theorem stored_outRing (s : State) (c : MailCmd) (op : Nat) (q : RingId) (h1 : q ≠ c.ring) (h2 : 6 ≤ q.val) :
    (s.stored c op).mail.rings[q] = s.mail.rings[q] := by
  have e1 : c.ring.val ≠ q.val := fun x => h1 (Fin.ext x.symm)
  have e2 : q ≠ cmdRing c.src := by
    intro e
    have := (srcIdx c.src).isLt
    subst e
    simp only [cmdRing] at h2; omega
  have a1 : ((s.advanceSeq c.src (entriesOf (cmdOctets c op).length)).mail.rings[q]) = s.mail.rings[q] := by
    unfold State.advanceSeq
    split
    · rfl
    · exact State.modRing_other _ _ _ _ e2
  have a2 := (dropOpen_outRing (s.advanceSeq c.src (entriesOf (cmdOctets c op).length)) s.mail.active c.src q h2).trans a1
  unfold State.stored State.storeTxn
  simp only [Fin.getElem_fin, Vector.getElem_set_ne _ _ e1]
  exact (State.modRing_other _ c.ring _ q h1).trans a2
@[simp] theorem taken_now (s : State) (c : MailCmd) (op : Nat) : (s.taken c op).now = s.now := by
  simp only [State.taken]; rw [stored_rest]
@[simp] theorem taken_fresh (s : State) (c : MailCmd) (op : Nat) : (s.taken c op).fresh = s.fresh := by
  simp only [State.taken]; rw [stored_rest]
@[simp] theorem taken_supply (s : State) (c : MailCmd) (op : Nat) : (s.taken c op).supply = s.supply := by
  simp only [State.taken]; rw [stored_rest]
@[simp] theorem taken_mode (s : State) (c : MailCmd) (op : Nat) : (s.taken c op).mode = s.mode := by
  simp only [State.taken]; rw [stored_rest]
@[simp] theorem taken_lanes (s : State) (c : MailCmd) (op : Nat) : (s.taken c op).lanes = s.lanes := by
  simp only [State.taken]; rw [stored_rest]
@[simp] theorem taken_fe (s : State) (c : MailCmd) (op : Nat) : (s.taken c op).fe = s.fe := by
  simp only [State.taken]; rw [stored_rest]
@[simp] theorem taken_groups (s : State) (c : MailCmd) (op : Nat) : (s.taken c op).groups = s.groups := by
  simp only [State.taken]; rw [stored_rest]
@[simp] theorem taken_banks (s : State) (c : MailCmd) (op : Nat) : (s.taken c op).banks = s.banks := by
  simp only [State.taken]; rw [stored_rest]
@[simp] theorem taken_bus (s : State) (c : MailCmd) (op : Nat) : (s.taken c op).bus = s.bus := by
  simp only [State.taken]; rw [stored_rest]
@[simp] theorem taken_flash (s : State) (c : MailCmd) (op : Nat) : (s.taken c op).flash = s.flash := by
  simp only [State.taken]; rw [stored_rest]
@[simp] theorem taken_otp (s : State) (c : MailCmd) (op : Nat) : (s.taken c op).otp = s.otp := by
  simp only [State.taken]; rw [stored_rest]
@[simp] theorem taken_working (s : State) (c : MailCmd) (op : Nat) : (s.taken c op).working = s.working := by
  simp only [State.taken]; rw [stored_rest]
@[simp] theorem taken_faults (s : State) (c : MailCmd) (op : Nat) : (s.taken c op).faults = s.faults := by
  simp only [State.taken]; rw [stored_rest]
@[simp] theorem taken_tests (s : State) (c : MailCmd) (op : Nat) : (s.taken c op).tests = s.tests := by
  simp only [State.taken]; rw [stored_rest]
@[simp] theorem taken_act (s : State) (c : MailCmd) (op : Nat) : (s.taken c op).act = s.act := by
  simp only [State.taken]; rw [stored_rest]
@[simp] theorem taken_coppice (s : State) (c : MailCmd) (op : Nat) : (s.taken c op).coppice = s.coppice := by
  simp only [State.taken]; rw [stored_rest]
@[simp] theorem taken_wear (s : State) (c : MailCmd) (op : Nat) : (s.taken c op).wear = s.wear := by
  simp only [State.taken]; rw [stored_rest]
@[simp] theorem taken_wearStore (s : State) (c : MailCmd) (op : Nat) : (s.taken c op).wearStore = s.wearStore := by
  simp only [State.taken]; rw [stored_rest]
@[simp] theorem taken_panel (s : State) (c : MailCmd) (op : Nat) : (s.taken c op).panel = s.panel := by
  simp only [State.taken]; rw [stored_rest]
@[simp] theorem taken_pending (s : State) (c : MailCmd) (op : Nat) : (s.taken c op).pending = s.pending := by
  simp only [State.taken]; rw [stored_rest]
@[simp] theorem taken_subs (s : State) (c : MailCmd) (op : Nat) : (s.taken c op).mail.subs = s.mail.subs := stored_subs s c op
@[simp] theorem taken_txns (s : State) (c : MailCmd) (op : Nat) : (s.taken c op).mail.txns = [{ s.newTxn c op with judged := true }] := rfl
theorem taken_upd (s : State) (c : MailCmd) (op : Nat) :
    (s.taken c op).upd = if s.upd.owner = some c.src then { s.upd with lastCmd := s.now } else s.upd := rfl
@[simp] theorem taken_owner (s : State) (c : MailCmd) (op : Nat) : (s.taken c op).upd.owner = s.upd.owner := by
  rw [taken_upd]; split <;> rfl
theorem taken_hub (s : State) (c : MailCmd) (op : Nat) (h : HubId) :
    (s.taken c op).hubs[h] = s.hubs[h].mailPart (s.taken c op).hubs[h].qmem (s.taken c op).hubs[h].bus.cnt.segDropped :=
  (MailOnly.stored s c op).hub h

/-! ## The judgement -/

theorem newTxn_cmd (s : State) (c : MailCmd) (op : Nat) : (s.newTxn c op).cmd = cmdAs c s := by
  simp [Txn.cmd, State.newTxn, cmdAs, cmdOctets_tag, cmdOctets_drop]
theorem check336_none {s : State} {c : MailCmd} {op : Nat} (h : s.Admits c op) : (s.taken c op).check336 (s.newTxn c op) = none := by
  obtain ⟨i, hi, hs, hm, hl, lo, hi2⟩ := h.row
  obtain ⟨b1, b2⟩ := opInfo_bound hi
  have hlen : c.payload.length < 65536 := by omega
  have hs' : (s.taken c op).srcAllowed i c.src c.ring = true := by
    rw [← hs]; unfold State.srcAllowed; cases i.src <;> simp
  unfold State.check336
  simp only [State.newTxn, cmdOctets_msgOp c b1, cmdOctets_msgLen c op hlen, cmdOctets_drop, hi, hs', hm, hl, taken_mode, Bool.not_true, Bool.false_eq_true, if_false]
  rw [if_neg (by omega)]
  split
  · rename_i e
    obtain ⟨n, k, h1, h2, h3⟩ := h.size.1 e
    simp only [h1]
    rw [if_neg (by omega), if_neg (by omega)]
  · split
    · rename_i e
      exact absurd (h.size.2 e.1) e.2
    · rfl
theorem stored_upd (s : State) (c : MailCmd) (op : Nat) : (s.stored c op).upd = s.upd := by rw [stored_rest]
theorem stored_now (s : State) (c : MailCmd) (op : Nat) : (s.stored c op).now = s.now := by rw [stored_rest]
/-- The state on which an admitted command is judged. -/
theorem judge_admitted {s : State} {c : MailCmd} {op : Nat} (h : s.Admits c op) :
    (s.stored c op).judge (s.newTxn c op) = match votedOp op with
      | some f => match f (cmdAs c s) (s.taken c op) with
        | (s2, some r) => s2.modTxn s.mail.nextNum fun t => { t with outcome := some r }
        | (s2, none) => s2
      | none => s.taken c op := by
  obtain ⟨i, hi, _⟩ := h.row
  have b1 := (opInfo_bound hi).1
  have e : ((if (s.stored c op).upd.owner = some (s.newTxn c op).src then
      { s.stored c op with upd := { (s.stored c op).upd with lastCmd := (s.stored c op).now } } else s.stored c op).modTxn (s.newTxn c op).num
        fun t => { t with judged := true }) = s.taken c op := by
    have a := stored_txns h
    rw [stored_upd, stored_now]
    unfold State.taken State.modTxn
    simp only [State.newTxn] at a ⊢
    by_cases ho : s.upd.owner = some c.src
    · simp [a, ho]
    · simp only [a, ho, if_false, List.map_cons, List.map_nil, beq_self_eq_true, if_true, stored_upd]
  have hop : msgOp (s.newTxn c op).octets = op := cmdOctets_msgOp c b1
  unfold State.judge
  have hr : (s.newTxn c op).refused = none := rfl
  simp only [e, hr, check336_none h, hop, newTxn_cmd]
  rfl

/-- An opcode that all lanes vote on: its operation runs on the state that holds the command, and its answer is kept. -/
theorem judge_voted {s : State} {c : MailCmd} {op : Nat} (h : s.Admits c op) {f : Cmd → State → OpRes} (hf : votedOp op = some f) :
    (s.stored c op).judge (s.newTxn c op) = match f (cmdAs c s) (s.taken c op) with
      | (s2, some r) => s2.modTxn s.mail.nextNum fun t => { t with outcome := some r }
      | (s2, none) => s2 := by
  rw [judge_admitted h, hf]
theorem judge_lane {s : State} {c : MailCmd} {op : Nat} (h : s.Admits c op) (hf : votedOp op = none) :
    (s.stored c op).judge (s.newTxn c op) = s.taken c op := by
  rw [judge_admitted h, hf]

/-! ## Arrival -/

theorem admits_produce {s : State} {c : MailCmd} {op : Nat} (h : s.Admits c op) : s.mayProduce c.src c.ring = true := by
  obtain ⟨i, _, hs, _⟩ := h.row
  unfold State.srcAllowed at hs
  unfold State.mayProduce
  cases e : i.src <;> simp only [e] at hs <;> simp_all
/-- What an admitted command leaves to the hand-over: nothing stood before it, so it alone is judged. -/
theorem accept_admitted {s : State} {c : MailCmd} {op : Nat} (h : s.Admits c op) :
    s.accept c op = ((((s.stored c op).judge (s.newTxn c op)).each s.activeLanes fun u l => (u.handOver l s.mail.nextNum).passTurn l c.ring)).freeRing c.ring := by
  have hl : (s.stored c op).activeLanes = s.activeLanes := by
    simp only [State.activeLanes]; rw [stored_rest]; rfl
  have a := stored_txns h
  have hn : (s.newTxn c op).num = s.mail.nextNum := rfl
  have hj : (s.newTxn c op).judged = false := rfl
  have hv : s.activeLanes.isEmpty = false := by simpa using h.vote
  have h1 : ((s.stored c op).each s.activeLanes fun u l =>
      u.each ((u.unstarted l c.ring).filter fun t => decide (t.num < s.mail.nextNum)) fun v t => v.startTxn l t.num) = s.stored c op := by
    apply each_same
    intro l
    have e : ((s.stored c op).unstarted l c.ring).filter (fun t => decide (t.num < s.mail.nextNum)) = [] := by
      unfold State.unstarted
      rw [a, List.filter_eq_nil_iff]
      intro t ht
      have := List.mem_of_mem_filter ht
      simp only [List.mem_singleton] at this
      subst this
      simp [hn]
    rw [e]; rfl
  have h2 : (s.stored c op).judgeUpTo s.mail.nextNum = (s.stored c op).judge (s.newTxn c op) := by
    unfold State.judgeUpTo
    rw [a]
    simp [hn, hj, State.each]
  unfold State.accept
  have hr := h.room
  simp only [h.up, admits_produce h, cmdOctets_length, Bool.not_true, Bool.or_self, Bool.false_eq_true, if_false]
  rw [if_neg (by omega), hl]
  simp only [h1, h2, hv, Bool.false_eq_true, if_false]
theorem votedOp_not_lspec {op : Nat} {f : Cmd → State → OpRes} (h : votedOp op = some f) : (opInfo op).any (·.lspec) = false := by
  unfold votedOp at h
  split at h
  all_goals first
    | decide
    | simp at h
/-- The one transaction that stands, with its outcome, handed over by the lanes that have started it. -/
def Alone (s : State) (n : Nat) (src : Source) (bs : Bytes) (o : Option Reply) (ls : List LaneId) : Prop :=
  ∃ t, s.mail.txns = [t] ∧ t.num = n ∧ t.src = src ∧ t.octets = bs ∧ t.outcome = o ∧ t.done = false ∧
    (∀ l ∈ ls, has t.started l = true ∧ t.replies[l] = o) ∧ ∀ l : LaneId, t.replies[l] = none ∨ t.replies[l] = o
theorem has_or_only (m : LaneMask) (l k : LaneId) : has (m ||| only l) k = (has m k || decide (l = k)) := by
  revert m; revert l k; decide
theorem Alone.handOver {s : State} {n : Nat} {src : Source} {bs : Bytes} {o : Option Reply} {ls : List LaneId} (h : Alone s n src bs o ls)
    (hb : (opInfo (msgOp bs)).any (·.lspec) = false) (l : LaneId) : Alone (s.handOver l n) n src bs o (l :: ls) := by
  obtain ⟨t, ht, h1, h2, h3, h4, h5, h6, h7⟩ := h
  unfold State.handOver
  have e : (s.modTxn n fun t => { t with started := t.started ||| only l }).txn n = some { t with started := t.started ||| only l } := by
    simp [State.txn, State.modTxn, ht, h1]
  have hl : Txn.lspec { t with started := t.started ||| only l } = false := by
    unfold Txn.lspec; rw [h3]; exact hb
  simp only [e, hl, Bool.false_eq_true, if_false]
  rw [h4]
  have hst : ∀ k ∈ l :: ls, has (t.started ||| only l) k = true := by
    intro k hk
    rw [has_or_only]
    rcases List.mem_cons.mp hk with e | e
    · simp [e]
    · simp [(h6 k e).1]
  cases o with
  | none =>
    refine ⟨{ t with started := t.started ||| only l }, by simp [State.modTxn, ht, h1], h1, h2, h3, h4, h5, fun k hk => ⟨hst k hk, ?_⟩, h7⟩
    rcases h7 k with e | e <;> exact e
  | some r =>
    refine ⟨Txn.reply { t with started := t.started ||| only l } s.now fun _ => r, by simp [State.modTxn, ht, h1, Txn.reply], h1, h2, h3, h4, h5,
      fun k hk => ⟨hst k hk, ?_⟩, fun k => ?_⟩
    · simp only [Txn.reply, Fin.getElem_fin, Vector.getElem_ofFn]
      rcases h7 k with e | e <;> rw [Fin.getElem_fin] at e <;> simp [e, hst k hk]
    · simp only [Txn.reply, Fin.getElem_fin, Vector.getElem_ofFn]
      rcases h7 k with e | e <;> rw [Fin.getElem_fin] at e <;> simp [e]
theorem Alone.each {s : State} {n : Nat} {src : Source} {bs : Bytes} {o : Option Reply} {js : List LaneId} (h : Alone s n src bs o js)
    (hb : (opInfo (msgOp bs)).any (·.lspec) = false) (q : RingId) (ls : List LaneId) :
    Alone (s.each ls fun u l => (u.handOver l n).passTurn l q) n src bs o (ls.reverse ++ js) := by
  unfold State.each
  induction ls generalizing s js with
  | nil => exact h
  | cons l r ih => simpa using ih (s := (s.handOver l n).passTurn l q) (h.handOver hb l)
theorem Alone.freeRing {s : State} {n : Nat} {src : Source} {bs : Bytes} {o : Option Reply} {ls : List LaneId} (h : Alone s n src bs o ls) (q : RingId) :
    Alone (s.freeRing q) n src bs o ls := by
  obtain ⟨t, ht, h1, h2, h3, h4, h5, h6, h7⟩ := h
  unfold State.freeRing
  simp only [ht, State.prune, State.modRing, List.map_cons, List.map_nil]
  unfold Alone
  dsimp only
  split
  · exact ⟨{ t with freed := true }, by simp [h5], h1, h2, h3, h4, h5, h6, h7⟩
  · exact ⟨t, by simp [h5], h1, h2, h3, h4, h5, h6, h7⟩
theorem Alone.mono {s : State} {n : Nat} {src : Source} {bs : Bytes} {o : Option Reply} {ls ks : List LaneId} (h : Alone s n src bs o ls)
    (hs : ∀ l ∈ ks, l ∈ ls) : Alone s n src bs o ks := by
  obtain ⟨t, ht, h1, h2, h3, h4, h5, h6, h7⟩ := h
  exact ⟨t, ht, h1, h2, h3, h4, h5, fun l hl => h6 l (hs l hl), h7⟩
/-- An opcode that all lanes vote on: after the command has arrived, all that is not the mailbox path is as its operation leaves
it, and the transaction holds the operation's answer, handed over by every lane that was in the vote. -/
theorem accept_voted {s : State} {c : MailCmd} {op : Nat} (h : s.Admits c op) {f : Cmd → State → OpRes} (hf : votedOp op = some f) :
    MailOnly (f (cmdAs c s) (s.taken c op)).1 (s.accept c op) ∧
    ((f (cmdAs c s) (s.taken c op)).1.mail.txns = (s.taken c op).mail.txns →
      Alone (s.accept c op) s.mail.nextNum c.src (cmdOctets c op) (f (cmdAs c s) (s.taken c op)).2 s.activeLanes) := by
  rw [accept_admitted h, judge_voted h hf]
  obtain ⟨i, hi, _⟩ := h.row
  have hb : (opInfo (msgOp (cmdOctets c op))).any (·.lspec) = false := by
    rw [cmdOctets_msgOp c (opInfo_bound hi).1]; exact votedOp_not_lspec hf
  obtain ⟨s2, r⟩ := f (cmdAs c s) (s.taken c op)
  constructor
  · cases r with
    | none => exact (MailOnly.each (fun u l => ((MailOnly.refl u).handOver l _).passTurn l _) (MailOnly.refl _)).freeRing _
    | some r => exact (MailOnly.each (fun u l => ((MailOnly.refl u).handOver l _).passTurn l _) ((MailOnly.refl _).modTxn _ _)).freeRing _
  · intro e
    apply Alone.freeRing
    refine Alone.mono (Alone.each (js := []) ?_ hb c.ring s.activeLanes) (by simp)
    simp only [taken_txns] at e
    cases r with
    | none =>
      exact ⟨_, e, rfl, rfl, rfl, rfl, rfl, by simp, fun l => Or.inl (by simp [State.newTxn])⟩
    | some r =>
      exact ⟨_, by simp [State.modTxn, e, State.newTxn]; rfl, rfl, rfl, rfl, rfl, rfl, by simp, fun l => Or.inl (by simp [State.newTxn])⟩

end Sys2Proof.Machine
end

