-- ==== Sys2Proof/Laws/Answers.lean ====
section
/-!
SUPPORT. What the arrival of an admitted command does where each lane answers for itself (R313): every lane in the vote
puts its own response into the response ring of the source, or lines it up behind the ring.
-/

namespace Sys2Proof.Machine

/-! ## Sets -/

theorem has_maskOf {n : Nat} (f : Fin n → Bool) (k : Fin n) : has (maskOf f) k = f k := by
  simp only [has, maskOf, BitVec.getLsbD_cast, BitVec.getLsbD_ofBoolListLE]
  simp
theorem has_only {n : Nat} (i k : Fin n) : has (only i) k = decide (i = k) := by
  simp only [has, only, BitVec.getLsbD_ofNat, k.isLt, decide_true, Bool.true_and, Nat.testBit_two_pow]
  rw [Bool.eq_iff_iff]; simp [Fin.ext_iff]
theorem has_or {n : Nat} (x y : BitVec n) (k : Fin n) : has (x ||| y) k = (has x k || has y k) := by simp [has]

/-! ## Messages of a ring -/

theorem Holds.modRing {s : State} {q : RingId} {bs : Bytes} (h : Holds s q bs) (k : RingId) (f : Ring → Ring)
    (hf : ∀ r m, (m ∈ r.msgs ∨ m ∈ r.waiting) → (m ∈ (f r).msgs ∨ m ∈ (f r).waiting)) : Holds (s.modRing k f) q bs := by
  obtain ⟨m, hm, e⟩ := h
  by_cases hk : q = k
  · subst hk; exact ⟨m, by rw [State.modRing_same]; exact hf _ m hm, e⟩
  · exact ⟨m, by rw [State.modRing_other _ _ _ _ hk]; exact hm, e⟩
theorem Holds.rings {s t : State} {q : RingId} {bs : Bytes} (h : Holds s q bs) (e : t.mail.rings = s.mail.rings) : Holds t q bs := by
  unfold Holds; rw [e]; exact h
theorem Holds.prune {s : State} {q : RingId} {bs : Bytes} (h : Holds s q bs) : Holds s.prune q bs := h
theorem Holds.placeMsg {s : State} {q : RingId} {bs : Bytes} (h : Holds s q bs) (k : RingId) (m : OutMsg) : Holds (s.placeMsg k m) q bs :=
  Holds.modRing (s := s.putMsg k m.octets) (h.rings rfl) k _ fun r x hx => by
    simp only [Ring.place, List.mem_append]; tauto
theorem Holds.placed (s : State) (q : RingId) (m : OutMsg) : Holds (s.placeMsg q m) q m.octets := by
  refine ⟨m, Or.inl ?_, rfl⟩
  rw [State.placeMsg, State.modRing_same]
  simp [Ring.place]
theorem Holds.placeResp {s : State} {q : RingId} {bs : Bytes} (h : Holds s q bs) (k : RingId) (m : OutMsg) : Holds (s.placeResp k m) q bs := by
  have h1 := h.placeMsg k m
  unfold State.placeResp
  dsimp only
  split
  · split
    · exact h1.rings rfl
    · exact h1
  · exact h1
theorem Holds.respPlaced (s : State) (q : RingId) (m : OutMsg) : Holds (s.placeResp q m) q m.octets := by
  have h1 := Holds.placed s q m
  unfold State.placeResp
  dsimp only
  split
  · split
    · exact h1.rings rfl
    · exact h1
  · exact h1
theorem Holds.forward {s : State} {q : RingId} {bs : Bytes} (h : Holds s q bs) (t : Txn) (os : Bytes) (b : Bool) : Holds (s.forward t os b) q bs := by
  unfold State.forward
  extract_lets k s1 m r
  have h1 : Holds s1 q bs := h.rings (by unfold s1; split <;> rfl)
  split
  · exact (h1.placeResp k m).rings rfl
  · exact (h1.modRing k (fun r => { r with waiting := r.waiting ++ [m] }) fun r x hx => by simp only [List.mem_append]; tauto).rings rfl
theorem Holds.forwarded (s : State) (t : Txn) (os : Bytes) (b : Bool) : Holds (s.forward t os b) (respRing t.src) os := by
  unfold State.forward
  extract_lets k s1 m r
  split
  · exact (Holds.respPlaced s1 k m).rings rfl
  · refine Holds.rings (s := s1.modRing k fun r => { r with waiting := r.waiting ++ [m] }) ⟨m, ?_, rfl⟩ rfl
    rw [State.modRing_same]; simp
theorem Holds.sendLspec {s : State} {q : RingId} {bs : Bytes} (h : Holds s q bs) (n : Nat) (l : LaneId) (r : Reply) : Holds (s.sendLspec n l r) q bs := by
  unfold State.sendLspec
  split
  · exact h
  · dsimp only
    split
    · exact h
    · exact Holds.forward (s := s.modTxn n _) (h.rings rfl) _ _ _
theorem Holds.handOver {s : State} {q : RingId} {bs : Bytes} (h : Holds s q bs) (l : LaneId) (n : Nat) : Holds (s.handOver l n) q bs := by
  unfold State.handOver
  extract_lets s1
  have h1 : Holds s1 q bs := h.rings rfl
  split
  · exact h1
  · split
    · split
      · exact h1.sendLspec _ _ _
      · rename_i f _ hf
        dsimp only
        rw [laneOp_state hf]
        exact h1.sendLspec _ _ _
      · exact h1
    · split
      · exact h1.rings rfl
      · exact h1
theorem Holds.each {s : State} {q : RingId} {bs : Bytes} (h : Holds s q bs) (n : Nat) (k : RingId) (ls : List LaneId) :
    Holds (s.each ls fun u l => (u.handOver l n).passTurn l k) q bs := by
  unfold State.each
  induction ls generalizing s with
  | nil => exact h
  | cons l r ih => exact ih ((h.handOver l n).rings rfl)
theorem Holds.freeRing {s : State} {q : RingId} {bs : Bytes} (h : Holds s q bs) (k : RingId) : Holds (s.freeRing k) q bs := by
  unfold State.freeRing
  dsimp only
  apply Holds.prune
  refine Holds.modRing ?_ _ _ fun _ _ hm => hm
  exact h.rings rfl

/-! ## The lanes answer in turn -/

/-- The one transaction that stands, not yet done, whose remaining lanes have still to start it. -/
structure LaneTurn (s0 s : State) (c : MailCmd) (op : Nat) (n : Nat) (ls : List LaneId) : Prop where
  only : MailOnly s0 s
  still : s.mailUp = true
  txn : ∃ t, s.mail.txns = [t] ∧ t.num = n ∧ t.src = c.src ∧ t.ring = c.ring ∧ t.octets = cmdOctets c op ∧ t.outcome = none ∧ t.done = false ∧
    (∀ l ∈ ls, s.active l = true ∧ has t.started l = false) ∧ ∀ l, s.active l = true → l ∈ ls ∨ has t.started l = true

theorem active_of_only {s t : State} (h : MailOnly s t) (l : LaneId) : t.active l = s.active l := by
  unfold State.active; rw [h.rest]
theorem voteMask_of_only {s t : State} (h : MailOnly s t) : t.voteMask = s.voteMask := by
  unfold State.voteMask State.active; rw [h.rest]
/-- While a lane in the vote has not started a transaction, not every lane has. -/
theorem not_allStarted {s : State} {t : Txn} {k : LaneId} (ha : s.active k = true) (hk : has t.started k = false) : s.allStarted t = false := by
  unfold State.allStarted
  rw [beq_eq_false_iff_ne]
  intro e
  have h1 : has (s.voteMask &&& ~~~t.started) k = false := by rw [e]; simp [has]
  have h2 : has s.voteMask k = true := by rw [State.voteMask, has_maskOf]; exact ha
  have h3 : t.started.getLsbD k.val = false := hk
  have h4 : s.voteMask.getLsbD k.val = true := h2
  have h5 : (s.voteMask &&& ~~~t.started).getLsbD k.val = false := h1
  rw [BitVec.getLsbD_and, BitVec.getLsbD_not, h4, h3] at h5
  simp at h5
/-- Once every lane in the vote has started a transaction, all have. -/
theorem all_started {s : State} {t : Txn} (h : ∀ k : LaneId, s.active k = true → has t.started k = true) : s.allStarted t = true := by
  unfold State.allStarted
  rw [beq_iff_eq]
  apply BitVec.eq_of_getLsbD_eq
  intro i hi
  rw [BitVec.getLsbD_and, BitVec.getLsbD_not]
  have hv : has s.voteMask ⟨i, hi⟩ = s.active ⟨i, hi⟩ := by rw [State.voteMask, has_maskOf]
  have hv' : s.voteMask.getLsbD i = s.active ⟨i, hi⟩ := hv
  rw [hv']
  cases ha : s.active ⟨i, hi⟩ with
  | false => simp
  | true =>
    have : t.started.getLsbD i = true := h ⟨i, hi⟩ ha
    simp [this]
theorem forward_txns (s : State) (t : Txn) (os : Bytes) : (s.forward t os false).mail.txns = (s.prune).mail.txns := by
  unfold State.forward
  simp only [Bool.false_eq_true, if_false, Bool.false_and]
  split
  · simp [State.placeResp, State.prune, State.placeMsg, State.putMsg, State.modRing, State.modHubs]
  · simp [State.prune, State.modRing]
/-- What touches the mailbox path alone leaves the engine running. -/
theorem mailUp_of_only {s t : State} (h : MailOnly s t) : t.mailUp = s.mailUp := by
  have hp := h.path
  have hm : t.mode = s.mode := by rw [h.rest]
  have ha : t.mail.active = s.mail.active := by rw [hp]
  have ho : t.mail.opened = s.mail.opened := by rw [hp]
  have hs : t.mail.switching = s.mail.switching := by rw [hp]
  have hh (k : HubId) : t.hubs[k].outOfMail = s.hubs[k].outOfMail := by rw [h.hub k]; rfl
  unfold State.mailUp
  rw [hh]
  simp only [hm, ha, ho, hs]
/-- One lane's turn: its answer is put in place, and the turn of the others stands. -/
theorem LaneTurn.step {s0 s : State} {c : MailCmd} {op n : Nat} {l : LaneId} {ls : List LaneId} (h : LaneTurn s0 s c op n (l :: ls))
    (hd : (l :: ls).Nodup) {f : Cmd → LaneId → State → State × Reply} (hf : laneOp op = some f)
    (hl : (opInfo (msgOp (cmdOctets c op))).any (·.lspec) = true) (hop : msgOp (cmdOctets c op) = op) :
    (∃ u, MailOnly s0 u ∧ Holds (s.handOver l n) (respRing c.src)
        (laneResponse (cmdOctets c op) (f { src := c.src, ring := c.ring, num := n, tag := c.tag, p := c.payload } l u).2 l (!ls.isEmpty))) ∧
      (ls ≠ [] → LaneTurn s0 (s.handOver l n) c op n ls) := by
  obtain ⟨honly, hsw, t, ht, h1, h2, h3, h4, h5, h6, hls, hall⟩ := h
  have hu : MailOnly s0 (s.modTxn n fun t => { t with started := t.started ||| Sys2Proof.Machine.only l }) := honly.modTxn _ _
  have hcmd : ∀ t1 : Txn, t1.src = c.src → t1.ring = c.ring → t1.num = n → t1.octets = cmdOctets c op →
      t1.cmd = { src := c.src, ring := c.ring, num := n, tag := c.tag, p := c.payload } := by
    intro t1 a b d e
    simp [Txn.cmd, a, b, d, e, cmdOctets_tag, cmdOctets_drop]
  have hu1 : (s.modTxn n fun t => { t with started := t.started ||| Sys2Proof.Machine.only l }).mail.txns =
      [{ t with started := t.started ||| Sys2Proof.Machine.only l }] := by simp [State.modTxn, ht, h1]
  have hu2 : (s.modTxn n fun t => { t with started := t.started ||| Sys2Proof.Machine.only l }).mailUp = true := hsw
  unfold State.handOver
  generalize he : (s.modTxn n fun t => { t with started := t.started ||| Sys2Proof.Machine.only l }) = u at hu hu1 hu2 ⊢
  generalize ht1 : { t with started := t.started ||| Sys2Proof.Machine.only l } = t1 at hu1
  have k1 : t1.num = n := by rw [← ht1]; exact h1
  have k2 : t1.src = c.src := by rw [← ht1]; exact h2
  have k3 : t1.ring = c.ring := by rw [← ht1]; exact h3
  have k4 : t1.octets = cmdOctets c op := by rw [← ht1]; exact h4
  have k5 : t1.outcome = none := by rw [← ht1]; exact h5
  have k6 : t1.done = false := by rw [← ht1]; exact h6
  have k7 : ∀ k, has t1.started k = (has t.started k || decide (l = k)) := by
    intro k; rw [← ht1, ← has_only l k, ← has_or]
  have kl : t1.lspec = true := by unfold Txn.lspec; rw [k4]; exact hl
  have kf : u.txn n = some t1 := by simp [State.txn, hu1, k1]
  have kop : laneOp (msgOp t1.octets) = some f := by rw [k4, hop]; exact hf
  simp only [kf, kl, if_true, k5, kop, laneOp_state hf, hcmd t1 k2 k3 k1 k4]
  generalize hr : (f { src := c.src, ring := c.ring, num := n, tag := c.tag, p := c.payload } l u).2 = r
  unfold State.sendLspec
  simp only [kf, k6, hu2, Bool.not_true, Bool.or_self, Bool.false_eq_true, if_false]
  have hmsg (b : Bool) : t1.message r (16 + 32 * l.val + if b then 0 else 8) = laneResponse (cmdOctets c op) r l (!b) := by
    unfold Txn.message laneResponse
    rw [k4]
    cases b <;> rfl
  constructor
  · refine ⟨u, hu, ?_⟩
    have hmore : ls.isEmpty = u.allStarted t1 := by
      cases ls with
      | nil =>
        symm
        refine all_started fun k hk => ?_
        rw [k7]
        have hk' : s.active k = true := by rw [active_of_only honly, ← active_of_only hu]; exact hk
        rcases hall k hk' with e | e
        · simp [List.mem_singleton.mp e]
        · simp [e]
      | cons k r =>
        have hkl : l ≠ k := fun e => (List.nodup_cons.mp hd).1 (e ▸ List.mem_cons_self ..)
        have hk := hls k (List.mem_cons_of_mem _ (List.mem_cons_self ..))
        have ha : u.active k = true := by rw [active_of_only hu, ← active_of_only honly]; exact hk.1
        have hst : has t1.started k = false := by rw [k7, hk.2]; simp [hkl]
        rw [not_allStarted ha hst]; rfl
    rw [hmore, hr, ← hmsg, ← k2]
    exact Holds.forwarded _ t1 _ _
  · intro hne
    obtain ⟨k, hk⟩ := List.exists_mem_of_ne_nil ls hne
    have hkl : l ≠ k := fun e => (List.nodup_cons.mp hd).1 (e ▸ hk)
    have ha : u.active k = true := by
      rw [active_of_only hu, ← active_of_only honly]; exact (hls k (List.mem_cons_of_mem _ hk)).1
    have hst : has t1.started k = false := by rw [k7, (hls k (List.mem_cons_of_mem _ hk)).2]; simp [hkl]
    have hlast : u.allStarted t1 = false := not_allStarted ha hst
    rw [hlast]
    refine ⟨(hu.modTxn n _).forward _ _ _, ?_, ?_⟩
    · rw [mailUp_of_only ((MailOnly.refl u).modTxn n _ |>.forward _ _ _)]; exact hu2
    · refine ⟨{ t1 with lspecSent := t1.lspecSent ||| Sys2Proof.Machine.only l, firstAt := if t1.firstAt.isNone then some u.now else t1.firstAt },
        ?_, k1, k2, k3, k4, k5, k6, ?_, ?_⟩
      · rw [forward_txns]
        simp [State.prune, State.modTxn, hu1, k1, k6]
      · intro j hj
        have hjl : l ≠ j := fun e => (List.nodup_cons.mp hd).1 (e ▸ hj)
        refine ⟨?_, ?_⟩
        · rw [active_of_only ((hu.modTxn n _).forward _ _ _), ← active_of_only honly]
          exact (hls j (List.mem_cons_of_mem _ hj)).1
        · show has t1.started j = false
          rw [k7, (hls j (List.mem_cons_of_mem _ hj)).2]; simp [hjl]
      · intro j hj
        have hj' : s.active j = true := by
          rw [active_of_only honly, ← active_of_only ((hu.modTxn n _).forward _ _ _)]; exact hj
        show j ∈ ls ∨ has t1.started j = true
        rw [k7]
        rcases hall j hj' with e | e
        · rcases List.mem_cons.mp e with e | e
          · right; simp [e]
          · exact Or.inl e
        · right; simp [e]
theorem LaneTurn.passTurn {s0 s : State} {c : MailCmd} {op n : Nat} {ls : List LaneId} (h : LaneTurn s0 s c op n ls) (l : LaneId) (q : RingId) :
    LaneTurn s0 (s.passTurn l q) c op n ls := ⟨h.only.passTurn l q, h.still, h.txn⟩
/-- Every lane in turn. -/
theorem LaneTurn.each {s0 s : State} {c : MailCmd} {op n : Nat} {ls : List LaneId} (h : LaneTurn s0 s c op n ls)
    (hd : ls.Nodup) {f : Cmd → LaneId → State → State × Reply} (hf : laneOp op = some f)
    (hl : (opInfo (msgOp (cmdOctets c op))).any (·.lspec) = true) (hop : msgOp (cmdOctets c op) = op) (q : RingId) :
    ∀ l ∈ ls, ∃ u, MailOnly s0 u ∧ Holds (s.each ls fun u l => (u.handOver l n).passTurn l q) (respRing c.src)
        (laneResponse (cmdOctets c op) (f { src := c.src, ring := c.ring, num := n, tag := c.tag, p := c.payload } l u).2 l (decide (ls.getLast? ≠ some l))) := by
  induction ls generalizing s with
  | nil => intro l hm; cases hm
  | cons k r ih =>
    obtain ⟨⟨u, hu, hh⟩, ht⟩ := h.step hd hf hl hop
    have hk := (List.nodup_cons.mp hd).1
    intro l hm
    rcases List.mem_cons.mp hm with e | hm'
    · subst e
      refine ⟨u, hu, ?_⟩
      have hlast : decide ((l :: r).getLast? ≠ some l) = !r.isEmpty := by
        cases r with
        | nil => simp
        | cons a b =>
          have : (l :: a :: b).getLast? ≠ some l := by
            rw [List.getLast?_cons_cons]
            intro e
            exact hk (List.mem_of_getLast? e)
          rw [decide_eq_true this]; rfl
      rw [hlast]
      exact Holds.each (s := (s.handOver l n).passTurn l q) (hh.rings rfl) n q r
    · have hlast : (k :: r).getLast? = r.getLast? := by
        cases r with
        | nil => cases hm'
        | cons a b => exact List.getLast?_cons_cons
      rw [hlast]
      exact ih ((ht (List.ne_nil_of_mem hm')).passTurn k q) (List.nodup_cons.mp hd).2 l hm'
theorem laneOp_lspec {op : Nat} {f : Cmd → LaneId → State → State × Reply} (h : laneOp op = some f) :
    (opInfo op).any (·.lspec) = true ∧ votedOp op = none := by
  unfold laneOp at h
  split at h
  all_goals first
    | (constructor <;> rfl)
    | simp at h
theorem allLanes_nodup : allLanes.Nodup := by decide
/-- An opcode that each lane answers for itself: after the command has arrived, all that is not the mailbox path is as it was, and
every lane in the vote has put its answer into the response ring of the source, or behind it. -/
theorem accept_lanes {s : State} {c : MailCmd} {op : Nat} (h : s.Admits c op) {f : Cmd → LaneId → State → State × Reply} (hf : laneOp op = some f) :
    MailOnly (s.taken c op) (s.accept c op) ∧
    ∀ l ∈ s.activeLanes, ∃ u, MailOnly (s.taken c op) u ∧
      Holds (s.accept c op) (respRing c.src)
        (laneResponse (cmdOctets c op) (f (cmdAs c s) l u).2 l (decide (s.activeLanes.getLast? ≠ some l))) := by
  obtain ⟨hl, hv⟩ := laneOp_lspec hf
  obtain ⟨i, hi, _⟩ := h.row
  have hop : msgOp (cmdOctets c op) = op := cmdOctets_msgOp c (opInfo_bound hi).1
  have hj : (s.stored c op).judge (s.newTxn c op) = s.taken c op := judge_lane h hv
  rw [accept_admitted h, hj]
  refine ⟨(MailOnly.each (fun u l => ((MailOnly.refl u).handOver l _).passTurn l _) (MailOnly.refl _)).freeRing _, ?_⟩
  intro l hm
  have hT : LaneTurn (s.taken c op) (s.taken c op) c op s.mail.nextNum s.activeLanes := by
    refine ⟨MailOnly.refl _, ?_, ?_⟩
    · show (s.stored c op).mailUp = true
      rw [mailUp_of_only (MailOnly.stored s c op)]
      exact h.up
    · refine ⟨{ s.newTxn c op with judged := true }, taken_txns s c op, rfl, rfl, rfl, rfl, rfl, rfl, ?_, ?_⟩
      · intro k hk
        refine ⟨?_, by simp [State.newTxn, has]⟩
        have := (List.mem_filter.mp hk).2
        simpa [State.active] using this
      · intro k hk
        left
        refine List.mem_filter.mpr ⟨List.mem_finRange k, ?_⟩
        simpa [State.active] using hk
  obtain ⟨u, hu, hh⟩ := hT.each (allLanes_nodup.filter _) hf (by rw [hop]; exact hl) hop c.ring l hm
  exact ⟨u, hu, hh.freeRing c.ring⟩

end Sys2Proof.Machine
end

