-- ==== Sys2Proof/Laws/Ops.lean ====
section
/-!
SUPPORT. What the shared operations of Machine/Ops.lean do, said once for each: a message posted to a ring touches the mailbox
path alone; an event adds its record to the log besides; raising or withdrawing a fault changes the list of standing faults,
and FAULT_SEQ of the lanes that raise it.
-/

namespace Sys2Proof.Machine

theorem MailOnly.post {s t : State} (h : MailOnly s t) (q : RingId) (op : Nat) (p : Bytes) : MailOnly s (t.post q op p) := by
  unfold State.post
  extract_lets ds r m
  exact MailOnly.ite ((MailOnly.ite (h.placeMsg q m) h).modRing q _) (MailOnly.ite ((h.placeMsg q m).modRing q _) (MailOnly.ite (h.modRing q _) (h.modRing q _)))
/-- A posted message leaves the transactions and subscriptions as they are. -/
@[simp] theorem State.post_txns (s : State) (q : RingId) (op : Nat) (p : Bytes) : (s.post q op p).mail.txns = s.mail.txns := by
  unfold State.post
  extract_lets ds r m
  repeat' split
  all_goals rfl
@[simp] theorem State.post_subs (s : State) (q : RingId) (op : Nat) (p : Bytes) : (s.post q op p).mail.subs = s.mail.subs := by
  unfold State.post
  extract_lets ds r m
  repeat' split
  all_goals rfl
@[simp] theorem State.post_now (s : State) (q : RingId) (op : Nat) (p : Bytes) : (s.post q op p).now = s.now := by
  rw [((MailOnly.refl s).post q op p).rest]
@[simp] theorem State.post_fresh (s : State) (q : RingId) (op : Nat) (p : Bytes) : (s.post q op p).fresh = s.fresh := by
  rw [((MailOnly.refl s).post q op p).rest]
@[simp] theorem State.post_supply (s : State) (q : RingId) (op : Nat) (p : Bytes) : (s.post q op p).supply = s.supply := by
  rw [((MailOnly.refl s).post q op p).rest]
@[simp] theorem State.post_mode (s : State) (q : RingId) (op : Nat) (p : Bytes) : (s.post q op p).mode = s.mode := by
  rw [((MailOnly.refl s).post q op p).rest]
@[simp] theorem State.post_lanes (s : State) (q : RingId) (op : Nat) (p : Bytes) : (s.post q op p).lanes = s.lanes := by
  rw [((MailOnly.refl s).post q op p).rest]
@[simp] theorem State.post_fe (s : State) (q : RingId) (op : Nat) (p : Bytes) : (s.post q op p).fe = s.fe := by
  rw [((MailOnly.refl s).post q op p).rest]
@[simp] theorem State.post_groups (s : State) (q : RingId) (op : Nat) (p : Bytes) : (s.post q op p).groups = s.groups := by
  rw [((MailOnly.refl s).post q op p).rest]
@[simp] theorem State.post_banks (s : State) (q : RingId) (op : Nat) (p : Bytes) : (s.post q op p).banks = s.banks := by
  rw [((MailOnly.refl s).post q op p).rest]
@[simp] theorem State.post_bus (s : State) (q : RingId) (op : Nat) (p : Bytes) : (s.post q op p).bus = s.bus := by
  rw [((MailOnly.refl s).post q op p).rest]
@[simp] theorem State.post_flash (s : State) (q : RingId) (op : Nat) (p : Bytes) : (s.post q op p).flash = s.flash := by
  rw [((MailOnly.refl s).post q op p).rest]
@[simp] theorem State.post_otp (s : State) (q : RingId) (op : Nat) (p : Bytes) : (s.post q op p).otp = s.otp := by
  rw [((MailOnly.refl s).post q op p).rest]
@[simp] theorem State.post_working (s : State) (q : RingId) (op : Nat) (p : Bytes) : (s.post q op p).working = s.working := by
  rw [((MailOnly.refl s).post q op p).rest]
@[simp] theorem State.post_faults (s : State) (q : RingId) (op : Nat) (p : Bytes) : (s.post q op p).faults = s.faults := by
  rw [((MailOnly.refl s).post q op p).rest]
@[simp] theorem State.post_tests (s : State) (q : RingId) (op : Nat) (p : Bytes) : (s.post q op p).tests = s.tests := by
  rw [((MailOnly.refl s).post q op p).rest]
@[simp] theorem State.post_act (s : State) (q : RingId) (op : Nat) (p : Bytes) : (s.post q op p).act = s.act := by
  rw [((MailOnly.refl s).post q op p).rest]
@[simp] theorem State.post_coppice (s : State) (q : RingId) (op : Nat) (p : Bytes) : (s.post q op p).coppice = s.coppice := by
  rw [((MailOnly.refl s).post q op p).rest]
@[simp] theorem State.post_upd (s : State) (q : RingId) (op : Nat) (p : Bytes) : (s.post q op p).upd = s.upd := by
  rw [((MailOnly.refl s).post q op p).rest]
@[simp] theorem State.post_wear (s : State) (q : RingId) (op : Nat) (p : Bytes) : (s.post q op p).wear = s.wear := by
  rw [((MailOnly.refl s).post q op p).rest]
@[simp] theorem State.post_wearStore (s : State) (q : RingId) (op : Nat) (p : Bytes) : (s.post q op p).wearStore = s.wearStore := by
  rw [((MailOnly.refl s).post q op p).rest]
@[simp] theorem State.post_panel (s : State) (q : RingId) (op : Nat) (p : Bytes) : (s.post q op p).panel = s.panel := by
  rw [((MailOnly.refl s).post q op p).rest]
@[simp] theorem State.post_pending (s : State) (q : RingId) (op : Nat) (p : Bytes) : (s.post q op p).pending = s.pending := by
  rw [((MailOnly.refl s).post q op p).rest]

/-- The record that an event adds to the log. -/
theorem MailOnly.event (s : State) (code kind lane : Nat) (sc detail : Bytes) :
    MailOnly (s.logRec (s.eventOctets code kind lane sc detail)) (s.event code kind lane sc detail) := (MailOnly.refl _).post _ _ _
@[simp] theorem State.event_now (s : State) (code kind lane : Nat) (sc d : Bytes) : (s.event code kind lane sc d).now = s.now := by
  simp [State.event]
@[simp] theorem State.note_now (s : State) (code : Nat) (i : List Nat) (d : Bytes) (l k : Nat) : (s.note code i d l k).now = s.now := by
  simp [State.note]
@[simp] theorem State.event_fresh (s : State) (code kind lane : Nat) (sc d : Bytes) : (s.event code kind lane sc d).fresh = s.fresh := by
  simp [State.event]
@[simp] theorem State.note_fresh (s : State) (code : Nat) (i : List Nat) (d : Bytes) (l k : Nat) : (s.note code i d l k).fresh = s.fresh := by
  simp [State.note]
@[simp] theorem State.event_supply (s : State) (code kind lane : Nat) (sc d : Bytes) : (s.event code kind lane sc d).supply = s.supply := by
  simp [State.event]
@[simp] theorem State.note_supply (s : State) (code : Nat) (i : List Nat) (d : Bytes) (l k : Nat) : (s.note code i d l k).supply = s.supply := by
  simp [State.note]
@[simp] theorem State.event_mode (s : State) (code kind lane : Nat) (sc d : Bytes) : (s.event code kind lane sc d).mode = s.mode := by
  simp [State.event]
@[simp] theorem State.note_mode (s : State) (code : Nat) (i : List Nat) (d : Bytes) (l k : Nat) : (s.note code i d l k).mode = s.mode := by
  simp [State.note]
@[simp] theorem State.event_lanes (s : State) (code kind lane : Nat) (sc d : Bytes) : (s.event code kind lane sc d).lanes = s.lanes := by
  simp [State.event]
@[simp] theorem State.note_lanes (s : State) (code : Nat) (i : List Nat) (d : Bytes) (l k : Nat) : (s.note code i d l k).lanes = s.lanes := by
  simp [State.note]
@[simp] theorem State.event_fe (s : State) (code kind lane : Nat) (sc d : Bytes) : (s.event code kind lane sc d).fe = s.fe := by
  simp [State.event]
@[simp] theorem State.note_fe (s : State) (code : Nat) (i : List Nat) (d : Bytes) (l k : Nat) : (s.note code i d l k).fe = s.fe := by
  simp [State.note]
@[simp] theorem State.event_groups (s : State) (code kind lane : Nat) (sc d : Bytes) : (s.event code kind lane sc d).groups = s.groups := by
  simp [State.event]
@[simp] theorem State.note_groups (s : State) (code : Nat) (i : List Nat) (d : Bytes) (l k : Nat) : (s.note code i d l k).groups = s.groups := by
  simp [State.note]
@[simp] theorem State.event_banks (s : State) (code kind lane : Nat) (sc d : Bytes) : (s.event code kind lane sc d).banks = s.banks := by
  simp [State.event]
@[simp] theorem State.note_banks (s : State) (code : Nat) (i : List Nat) (d : Bytes) (l k : Nat) : (s.note code i d l k).banks = s.banks := by
  simp [State.note]
@[simp] theorem State.event_bus (s : State) (code kind lane : Nat) (sc d : Bytes) : (s.event code kind lane sc d).bus = s.bus := by
  simp [State.event]
@[simp] theorem State.note_bus (s : State) (code : Nat) (i : List Nat) (d : Bytes) (l k : Nat) : (s.note code i d l k).bus = s.bus := by
  simp [State.note]
@[simp] theorem State.event_otp (s : State) (code kind lane : Nat) (sc d : Bytes) : (s.event code kind lane sc d).otp = s.otp := by
  simp [State.event]
@[simp] theorem State.note_otp (s : State) (code : Nat) (i : List Nat) (d : Bytes) (l k : Nat) : (s.note code i d l k).otp = s.otp := by
  simp [State.note]
@[simp] theorem State.event_working (s : State) (code kind lane : Nat) (sc d : Bytes) : (s.event code kind lane sc d).working = s.working := by
  simp [State.event]
@[simp] theorem State.note_working (s : State) (code : Nat) (i : List Nat) (d : Bytes) (l k : Nat) : (s.note code i d l k).working = s.working := by
  simp [State.note]
@[simp] theorem State.event_faults (s : State) (code kind lane : Nat) (sc d : Bytes) : (s.event code kind lane sc d).faults = s.faults := by
  simp [State.event]
@[simp] theorem State.note_faults (s : State) (code : Nat) (i : List Nat) (d : Bytes) (l k : Nat) : (s.note code i d l k).faults = s.faults := by
  simp [State.note]
@[simp] theorem State.event_tests (s : State) (code kind lane : Nat) (sc d : Bytes) : (s.event code kind lane sc d).tests = s.tests := by
  simp [State.event]
@[simp] theorem State.note_tests (s : State) (code : Nat) (i : List Nat) (d : Bytes) (l k : Nat) : (s.note code i d l k).tests = s.tests := by
  simp [State.note]
@[simp] theorem State.event_act (s : State) (code kind lane : Nat) (sc d : Bytes) : (s.event code kind lane sc d).act = s.act := by
  simp [State.event]
@[simp] theorem State.note_act (s : State) (code : Nat) (i : List Nat) (d : Bytes) (l k : Nat) : (s.note code i d l k).act = s.act := by
  simp [State.note]
@[simp] theorem State.event_coppice (s : State) (code kind lane : Nat) (sc d : Bytes) : (s.event code kind lane sc d).coppice = s.coppice := by
  simp [State.event]
@[simp] theorem State.note_coppice (s : State) (code : Nat) (i : List Nat) (d : Bytes) (l k : Nat) : (s.note code i d l k).coppice = s.coppice := by
  simp [State.note]
@[simp] theorem State.event_upd (s : State) (code kind lane : Nat) (sc d : Bytes) : (s.event code kind lane sc d).upd = s.upd := by
  simp [State.event]
@[simp] theorem State.note_upd (s : State) (code : Nat) (i : List Nat) (d : Bytes) (l k : Nat) : (s.note code i d l k).upd = s.upd := by
  simp [State.note]
@[simp] theorem State.event_wear (s : State) (code kind lane : Nat) (sc d : Bytes) : (s.event code kind lane sc d).wear = s.wear := by
  simp [State.event]
@[simp] theorem State.note_wear (s : State) (code : Nat) (i : List Nat) (d : Bytes) (l k : Nat) : (s.note code i d l k).wear = s.wear := by
  simp [State.note]
@[simp] theorem State.event_wearStore (s : State) (code kind lane : Nat) (sc d : Bytes) : (s.event code kind lane sc d).wearStore = s.wearStore := by
  simp [State.event]
@[simp] theorem State.note_wearStore (s : State) (code : Nat) (i : List Nat) (d : Bytes) (l k : Nat) : (s.note code i d l k).wearStore = s.wearStore := by
  simp [State.note]
@[simp] theorem State.event_panel (s : State) (code kind lane : Nat) (sc d : Bytes) : (s.event code kind lane sc d).panel = s.panel := by
  simp [State.event]
@[simp] theorem State.note_panel (s : State) (code : Nat) (i : List Nat) (d : Bytes) (l k : Nat) : (s.note code i d l k).panel = s.panel := by
  simp [State.note]
@[simp] theorem State.event_pending (s : State) (code kind lane : Nat) (sc d : Bytes) : (s.event code kind lane sc d).pending = s.pending := by
  simp [State.event]
@[simp] theorem State.note_pending (s : State) (code : Nat) (i : List Nat) (d : Bytes) (l k : Nat) : (s.note code i d l k).pending = s.pending := by
  simp [State.note]
@[simp] theorem State.event_flash (s : State) (code kind lane : Nat) (sc d : Bytes) :
    (s.event code kind lane sc d).flash = { s.flash with log := s.flash.log ++ [s.eventOctets code kind lane sc d] } := by
  simp [State.event, State.logRec]
@[simp] theorem State.note_flash (s : State) (code : Nat) (i : List Nat) (d : Bytes) (l k : Nat) :
    (s.note code i d l k).flash = { s.flash with log := s.flash.log ++ [s.eventOctets code 0 l (scope i k) d] } := by
  simp [State.note]
@[simp] theorem State.event_txns (s : State) (code kind lane : Nat) (sc d : Bytes) : (s.event code kind lane sc d).mail.txns = s.mail.txns := by
  simp [State.event, State.logRec]
@[simp] theorem State.note_txns (s : State) (code : Nat) (i : List Nat) (d : Bytes) (l k : Nat) : (s.note code i d l k).mail.txns = s.mail.txns := by
  simp [State.note]
@[simp] theorem State.event_subs (s : State) (code kind lane : Nat) (sc d : Bytes) : (s.event code kind lane sc d).mail.subs = s.mail.subs := by
  simp [State.event, State.logRec]
@[simp] theorem State.note_subs (s : State) (code : Nat) (i : List Nat) (d : Bytes) (l k : Nat) : (s.note code i d l k).mail.subs = s.mail.subs := by
  simp [State.note]

@[simp] theorem State.raiseFault_now (s : State) (code : Nat) (i : List Nat) (m : LaneMask) (k : Nat) : (s.raiseFault code i m k).now = s.now := by
  unfold State.raiseFault
  dsimp only
  split <;> simp
@[simp] theorem State.raiseFault_fresh (s : State) (code : Nat) (i : List Nat) (m : LaneMask) (k : Nat) : (s.raiseFault code i m k).fresh = s.fresh := by
  unfold State.raiseFault
  dsimp only
  split <;> simp
@[simp] theorem State.raiseFault_supply (s : State) (code : Nat) (i : List Nat) (m : LaneMask) (k : Nat) : (s.raiseFault code i m k).supply = s.supply := by
  unfold State.raiseFault
  dsimp only
  split <;> simp
@[simp] theorem State.raiseFault_mode (s : State) (code : Nat) (i : List Nat) (m : LaneMask) (k : Nat) : (s.raiseFault code i m k).mode = s.mode := by
  unfold State.raiseFault
  dsimp only
  split <;> simp
@[simp] theorem State.raiseFault_fe (s : State) (code : Nat) (i : List Nat) (m : LaneMask) (k : Nat) : (s.raiseFault code i m k).fe = s.fe := by
  unfold State.raiseFault
  dsimp only
  split <;> simp
@[simp] theorem State.raiseFault_groups (s : State) (code : Nat) (i : List Nat) (m : LaneMask) (k : Nat) : (s.raiseFault code i m k).groups = s.groups := by
  unfold State.raiseFault
  dsimp only
  split <;> simp
@[simp] theorem State.raiseFault_banks (s : State) (code : Nat) (i : List Nat) (m : LaneMask) (k : Nat) : (s.raiseFault code i m k).banks = s.banks := by
  unfold State.raiseFault
  dsimp only
  split <;> simp
@[simp] theorem State.raiseFault_bus (s : State) (code : Nat) (i : List Nat) (m : LaneMask) (k : Nat) : (s.raiseFault code i m k).bus = s.bus := by
  unfold State.raiseFault
  dsimp only
  split <;> simp
@[simp] theorem State.raiseFault_otp (s : State) (code : Nat) (i : List Nat) (m : LaneMask) (k : Nat) : (s.raiseFault code i m k).otp = s.otp := by
  unfold State.raiseFault
  dsimp only
  split <;> simp
@[simp] theorem State.raiseFault_working (s : State) (code : Nat) (i : List Nat) (m : LaneMask) (k : Nat) : (s.raiseFault code i m k).working = s.working := by
  unfold State.raiseFault
  dsimp only
  split <;> simp
@[simp] theorem State.raiseFault_tests (s : State) (code : Nat) (i : List Nat) (m : LaneMask) (k : Nat) : (s.raiseFault code i m k).tests = s.tests := by
  unfold State.raiseFault
  dsimp only
  split <;> simp
@[simp] theorem State.raiseFault_act (s : State) (code : Nat) (i : List Nat) (m : LaneMask) (k : Nat) : (s.raiseFault code i m k).act = s.act := by
  unfold State.raiseFault
  dsimp only
  split <;> simp
@[simp] theorem State.raiseFault_coppice (s : State) (code : Nat) (i : List Nat) (m : LaneMask) (k : Nat) : (s.raiseFault code i m k).coppice = s.coppice := by
  unfold State.raiseFault
  dsimp only
  split <;> simp
@[simp] theorem State.raiseFault_upd (s : State) (code : Nat) (i : List Nat) (m : LaneMask) (k : Nat) : (s.raiseFault code i m k).upd = s.upd := by
  unfold State.raiseFault
  dsimp only
  split <;> simp
@[simp] theorem State.raiseFault_wear (s : State) (code : Nat) (i : List Nat) (m : LaneMask) (k : Nat) : (s.raiseFault code i m k).wear = s.wear := by
  unfold State.raiseFault
  dsimp only
  split <;> simp
@[simp] theorem State.raiseFault_wearStore (s : State) (code : Nat) (i : List Nat) (m : LaneMask) (k : Nat) : (s.raiseFault code i m k).wearStore = s.wearStore := by
  unfold State.raiseFault
  dsimp only
  split <;> simp
@[simp] theorem State.raiseFault_panel (s : State) (code : Nat) (i : List Nat) (m : LaneMask) (k : Nat) : (s.raiseFault code i m k).panel = s.panel := by
  unfold State.raiseFault
  dsimp only
  split <;> simp
@[simp] theorem State.raiseFault_pending (s : State) (code : Nat) (i : List Nat) (m : LaneMask) (k : Nat) : (s.raiseFault code i m k).pending = s.pending := by
  unfold State.raiseFault
  dsimp only
  split <;> simp
/-- FAULT_SEQ alone of what a lane holds is touched by raising a fault (R170). -/
theorem State.raiseFault_lane (s : State) (code : Nat) (i : List Nat) (m : LaneMask) (k : Nat) (l : LaneId) :
    ∃ w, (s.raiseFault code i m k).lanes[l] = { s.lanes[l] with faultSeq := w } := by
  unfold State.raiseFault
  dsimp only
  split <;> simp only [State.event_lanes, State.modLanes_at] <;> split <;> exact ⟨_, rfl⟩
/-- A fault just raised stands. -/
theorem State.raiseFault_stands (s : State) (code : Nat) (i : List Nat) (m : LaneMask) (k : Nat) : (s.raiseFault code i m k).stands code i = true := by
  have hsc (a b : Nat) : (scope i a).take 3 = (scope i b).take 3 := by
    have e : (((i.map (BitVec.ofNat 8)) ++ List.replicate 3 (0xFF : Byte)).take 3).length = 3 := by simp
    unfold scope
    rw [List.take_append_of_le_length (Nat.le_of_eq e.symm), List.take_append_of_le_length (Nat.le_of_eq e.symm)]
  unfold State.raiseFault
  dsimp only
  split
  · rename_i h
    have h1 := h
    unfold State.stands at h1 ⊢
    obtain ⟨f, hf, he⟩ := List.any_eq_true.mp h1
    have key (fs : List FaultRec) (hfs : fs = s.faults) : (fs.map fun (f : FaultRec) => if (f.code == code && List.take 3 f.scope == List.take 3 (scope i k)) = true
        then { f with lanes := f.lanes ||| m } else f).any (fun f => f.code == code && List.take 3 f.scope == List.take 3 (scope i)) = true := by
      subst hfs
      rw [List.any_map]
      refine List.any_eq_true.mpr ⟨f, hf, ?_⟩
      simp only [Function.comp]
      split <;> exact he
    exact key _ rfl
  · unfold State.stands
    simp [hsc k 255]
@[simp] theorem State.withdrawFault_now (s : State) (code : Nat) (i : List Nat) (m : LaneMask) : (s.withdrawFault code i m).now = s.now := by
  unfold State.withdrawFault
  exact each_field (fun t => t.now) _ (fun t f _ => State.event_now t _ _ _ _ _) _
@[simp] theorem State.withdrawFault_fresh (s : State) (code : Nat) (i : List Nat) (m : LaneMask) : (s.withdrawFault code i m).fresh = s.fresh := by
  unfold State.withdrawFault
  exact each_field (fun t => t.fresh) _ (fun t f _ => State.event_fresh t _ _ _ _ _) _
@[simp] theorem State.withdrawFault_supply (s : State) (code : Nat) (i : List Nat) (m : LaneMask) : (s.withdrawFault code i m).supply = s.supply := by
  unfold State.withdrawFault
  exact each_field (fun t => t.supply) _ (fun t f _ => State.event_supply t _ _ _ _ _) _
@[simp] theorem State.withdrawFault_mode (s : State) (code : Nat) (i : List Nat) (m : LaneMask) : (s.withdrawFault code i m).mode = s.mode := by
  unfold State.withdrawFault
  exact each_field (fun t => t.mode) _ (fun t f _ => State.event_mode t _ _ _ _ _) _
@[simp] theorem State.withdrawFault_lanes (s : State) (code : Nat) (i : List Nat) (m : LaneMask) : (s.withdrawFault code i m).lanes = s.lanes := by
  unfold State.withdrawFault
  exact each_field (fun t => t.lanes) _ (fun t f _ => State.event_lanes t _ _ _ _ _) _
@[simp] theorem State.withdrawFault_fe (s : State) (code : Nat) (i : List Nat) (m : LaneMask) : (s.withdrawFault code i m).fe = s.fe := by
  unfold State.withdrawFault
  exact each_field (fun t => t.fe) _ (fun t f _ => State.event_fe t _ _ _ _ _) _
@[simp] theorem State.withdrawFault_groups (s : State) (code : Nat) (i : List Nat) (m : LaneMask) : (s.withdrawFault code i m).groups = s.groups := by
  unfold State.withdrawFault
  exact each_field (fun t => t.groups) _ (fun t f _ => State.event_groups t _ _ _ _ _) _
@[simp] theorem State.withdrawFault_banks (s : State) (code : Nat) (i : List Nat) (m : LaneMask) : (s.withdrawFault code i m).banks = s.banks := by
  unfold State.withdrawFault
  exact each_field (fun t => t.banks) _ (fun t f _ => State.event_banks t _ _ _ _ _) _
@[simp] theorem State.withdrawFault_bus (s : State) (code : Nat) (i : List Nat) (m : LaneMask) : (s.withdrawFault code i m).bus = s.bus := by
  unfold State.withdrawFault
  exact each_field (fun t => t.bus) _ (fun t f _ => State.event_bus t _ _ _ _ _) _
@[simp] theorem State.withdrawFault_otp (s : State) (code : Nat) (i : List Nat) (m : LaneMask) : (s.withdrawFault code i m).otp = s.otp := by
  unfold State.withdrawFault
  exact each_field (fun t => t.otp) _ (fun t f _ => State.event_otp t _ _ _ _ _) _
@[simp] theorem State.withdrawFault_working (s : State) (code : Nat) (i : List Nat) (m : LaneMask) : (s.withdrawFault code i m).working = s.working := by
  unfold State.withdrawFault
  exact each_field (fun t => t.working) _ (fun t f _ => State.event_working t _ _ _ _ _) _
@[simp] theorem State.withdrawFault_tests (s : State) (code : Nat) (i : List Nat) (m : LaneMask) : (s.withdrawFault code i m).tests = s.tests := by
  unfold State.withdrawFault
  exact each_field (fun t => t.tests) _ (fun t f _ => State.event_tests t _ _ _ _ _) _
@[simp] theorem State.withdrawFault_act (s : State) (code : Nat) (i : List Nat) (m : LaneMask) : (s.withdrawFault code i m).act = s.act := by
  unfold State.withdrawFault
  exact each_field (fun t => t.act) _ (fun t f _ => State.event_act t _ _ _ _ _) _
@[simp] theorem State.withdrawFault_coppice (s : State) (code : Nat) (i : List Nat) (m : LaneMask) : (s.withdrawFault code i m).coppice = s.coppice := by
  unfold State.withdrawFault
  exact each_field (fun t => t.coppice) _ (fun t f _ => State.event_coppice t _ _ _ _ _) _
@[simp] theorem State.withdrawFault_upd (s : State) (code : Nat) (i : List Nat) (m : LaneMask) : (s.withdrawFault code i m).upd = s.upd := by
  unfold State.withdrawFault
  exact each_field (fun t => t.upd) _ (fun t f _ => State.event_upd t _ _ _ _ _) _
@[simp] theorem State.withdrawFault_wear (s : State) (code : Nat) (i : List Nat) (m : LaneMask) : (s.withdrawFault code i m).wear = s.wear := by
  unfold State.withdrawFault
  exact each_field (fun t => t.wear) _ (fun t f _ => State.event_wear t _ _ _ _ _) _
@[simp] theorem State.withdrawFault_wearStore (s : State) (code : Nat) (i : List Nat) (m : LaneMask) : (s.withdrawFault code i m).wearStore = s.wearStore := by
  unfold State.withdrawFault
  exact each_field (fun t => t.wearStore) _ (fun t f _ => State.event_wearStore t _ _ _ _ _) _
@[simp] theorem State.withdrawFault_panel (s : State) (code : Nat) (i : List Nat) (m : LaneMask) : (s.withdrawFault code i m).panel = s.panel := by
  unfold State.withdrawFault
  exact each_field (fun t => t.panel) _ (fun t f _ => State.event_panel t _ _ _ _ _) _
@[simp] theorem State.withdrawFault_pending (s : State) (code : Nat) (i : List Nat) (m : LaneMask) : (s.withdrawFault code i m).pending = s.pending := by
  unfold State.withdrawFault
  exact each_field (fun t => t.pending) _ (fun t f _ => State.event_pending t _ _ _ _ _) _

end Sys2Proof.Machine
end

