-- ==== Sys2Proof/Laws/Bus.lean ====
section
/-!
SUPPORT. What the hub operations of Machine/Bus.lean do to the hub they act on, said once for each: the correction of a cycle, the
end of an integration cycle, cold start and schedule changes. A message or an event touches of the hubs their queue memory alone.
-/

namespace Sys2Proof.Machine

/-! ## Queue memory alone -/

/-- Two states whose hubs differ in their queue memory alone. -/
def HubsButQmem (s t : State) : Prop := ∀ h : HubId, t.hubs[h] = { s.hubs[h] with qmem := t.hubs[h].qmem }

theorem HubsButQmem.refl (s : State) : HubsButQmem s s := fun _ => rfl
theorem HubsButQmem.trans {s t u : State} (a : HubsButQmem s t) (b : HubsButQmem t u) : HubsButQmem s u := by
  intro h
  have e := b h
  rw [a h] at e
  exact e
theorem HubsButQmem.each {α : Type} {f : State → α → State} (hf : ∀ u x, HubsButQmem u (f u x)) (xs : List α) (s : State) :
    HubsButQmem s (s.each xs f) := by
  unfold State.each
  induction xs generalizing s with
  | nil => exact HubsButQmem.refl s
  | cons x r ih => exact (hf s x).trans (ih (f s x))
theorem State.putMsg_hubs (s : State) (q : RingId) (bs : Bytes) : HubsButQmem s (s.putMsg q bs) := by
  intro h
  simp [State.putMsg, State.modHubs]
theorem State.post_hubs (s : State) (q : RingId) (op : Nat) (p : Bytes) : HubsButQmem s (s.post q op p) := by
  unfold State.post
  extract_lets ds r m
  have hp : HubsButQmem s (s.placeMsg q m) := s.putMsg_hubs q m.octets
  repeat' split
  all_goals first | exact hp | exact HubsButQmem.refl s
theorem State.event_hubs (s : State) (code kind lane : Nat) (sc d : Bytes) : HubsButQmem s (s.event code kind lane sc d) :=
  State.post_hubs (s.logRec _) _ _ _
theorem State.note_hubs (s : State) (code : Nat) (i : List Nat) (d : Bytes) (l k : Nat) :
    HubsButQmem s (s.note code i d l k) := s.event_hubs _ _ _ _ _
theorem State.withdrawFault_hubs (s : State) (code : Nat) (i : List Nat) (m : LaneMask) : HubsButQmem s (s.withdrawFault code i m) := by
  unfold State.withdrawFault
  exact HubsButQmem.each (fun t f => t.event_hubs _ _ _ _ _) _ _
theorem State.raiseFault_hubs (s : State) (code : Nat) (i : List Nat) (m : LaneMask) (k : Nat) : HubsButQmem s (s.raiseFault code i m k) := by
  unfold State.raiseFault
  dsimp only
  split
  · exact HubsButQmem.refl s
  · exact State.event_hubs _ _ _ _ _ _
/-- Of a hub only its queue memory differs: its unit of time and its bus side are the same. -/
theorem HubsButQmem.time {s t : State} (a : HubsButQmem s t) (h : HubId) : t.hubs[h].time = s.hubs[h].time := by rw [a h]
theorem HubsButQmem.bus {s t : State} (a : HubsButQmem s t) (h : HubId) : t.hubs[h].bus = s.hubs[h].bus := by rw [a h]
theorem State.note_hubTime (s : State) (code : Nat) (i : List Nat) (d : Bytes) (l k : Nat) (h : HubId) :
    (s.note code i d l k).hubs[h].time = s.hubs[h].time := (s.note_hubs code i d l k).time h
theorem State.note_hubBus (s : State) (code : Nat) (i : List Nat) (d : Bytes) (l k : Nat) (h : HubId) :
    (s.note code i d l k).hubs[h].bus = s.hubs[h].bus := (s.note_hubs code i d l k).bus h
theorem State.withdrawFault_hubTime (s : State) (code : Nat) (i : List Nat) (m : LaneMask) (h : HubId) :
    (s.withdrawFault code i m).hubs[h].time = s.hubs[h].time := (s.withdrawFault_hubs code i m).time h
theorem State.withdrawFault_hubBus (s : State) (code : Nat) (i : List Nat) (m : LaneMask) (h : HubId) :
    (s.withdrawFault code i m).hubs[h].bus = s.hubs[h].bus := (s.withdrawFault_hubs code i m).bus h

/-! ## The hubs on the bus -/

/-- An event adds to the log and posts a message. -/
theorem State.note_rest (s : State) (code : Nat) (i : List Nat) (d : Bytes) (l k : Nat) :
    let t := s.note code i d l k
    t = { s with mail := t.mail, hubs := t.hubs, flash := t.flash } := by
  dsimp only
  rw [show s.note code i d l k = _ from (MailOnly.event s code 0 l (scope i k) d).rest]; rfl
/-- A hub that goes passive counts it, and integrates afresh (R260). -/
theorem State.goPassive_time (s : State) (h : HubId) (k : Nat) :
   (s.goPassive h k).hubs[h].time = { s.hubs[h].time with passive := true, passiveCnt := s.hubs[h].time.passiveCnt + 1 } := by
  simp only [State.goPassive, State.note_hubTime, State.modTime, State.modHub_same, State.reintegrate]
theorem State.goPassive_bus (s : State) (h : HubId) (k : Nat) :
   (s.goPassive h k).hubs[h].bus = { s.hubs[h].bus with integ := .acquire, acquired := false, tx := [] } := by
  simp only [State.goPassive, State.note_hubBus, State.modTime, State.modHub_same, State.reintegrate]
/-- A sorted list is as long as the list. -/
theorem insertInt_length (x : Int) (xs : List Int) : (insertInt x xs).length = xs.length + 1 := by
  induction xs with
  | nil => rfl
  | cons y ys ih => unfold insertInt; split <;> simp [ih]
theorem sortInts_length (xs : List Int) : (sortInts xs).length = xs.length := by
  unfold sortInts
  induction xs with
  | nil => rfl
  | cons y ys ih => simp only [List.foldr_cons, insertInt_length, ih, List.length_cons]
/-- The correction of a cycle with three deviations or more, fewer than half of them usable: no offset, and the hub goes passive (R258, R260). -/
theorem State.correctHub_few (s : State) (h : HubId)
    (vals : List Int) (hv : vals = (s.hubs[h].time.devs.filter fun d => decide (d.dev.natAbs ≤ 100)).map (·.dev))
    (hc : 3 ≤ s.hubs[h].time.devs.length ∧ 2 * vals.length < s.hubs[h].time.devs.length) :
   (s.correctHub h).hubs[h].time =
       { s.hubs[h].time with corrected := true, nval := vals.length, median := false, c := none, passive := true, passiveCnt := s.hubs[h].time.passiveCnt + 1 } ∧
   (s.correctHub h).hubs[h].bus.integ = .acquire := by
  subst hv
  unfold State.correctHub
  dsimp only
  rw [if_pos hc]
  simp only [State.goPassive_time, State.goPassive_bus, State.modTime, State.modHub_same, and_self]
/-- Otherwise the unit corrects, and a third large offset in a row makes the hub passive. -/
theorem State.correctHub_many (s : State) (h : HubId)
    (vals : List Int) (hv : vals = (s.hubs[h].time.devs.filter fun d => decide (d.dev.natAbs ≤ 100)).map (·.dev))
    (hc : ¬(3 ≤ s.hubs[h].time.devs.length ∧ 2 * vals.length < s.hubs[h].time.devs.length)) :
   let u := s.hubs[h].time.correct vals.length (offsetOf vals) (s.params.tCyc s.hubs[h].bus.sset)
   let pas := (offsetOf vals).isSome && u.overRun == 3
   (s.correctHub h).hubs[h].time = (if pas then { u with passive := true, passiveCnt := u.passiveCnt + 1 } else u) ∧ 
    (pas = true → (s.correctHub h).hubs[h].bus.integ = .acquire) := by
  intro u pas
  have e : ∃ s2, s.correctHub h = (if pas then s2.goPassive h 1 else s2) ∧ s2.hubs[h].time = u := by
    unfold State.correctHub
    dsimp only
    rw [← hv, if_neg hc]
    simp only [State.modTime, State.modHub_same]
    refine ⟨_, rfl, ?_⟩
    split <;> simp only [State.note_hubTime, State.modHub_same] <;> rfl
  obtain ⟨s2, e, ht⟩ := e
  rw [e]
  cases pas
  · exact ⟨ht, fun h => nomatch h⟩
  · simp only [if_true, State.goPassive_time, State.goPassive_bus, ht, and_self, implies_true]
/-- A hub that heard frames of another set alone integrates afresh besides (R239). -/
theorem State.correctCycle_time (s : State) (h : HubId) :
    let d := !s.hubs[h].bus.validThis && decide (0 < s.hubs[h].bus.ssetFails)
    (s.correctCycle h).hubs[h].time = (if d then { (s.correctHub h).hubs[h].time with passive := true } else (s.correctHub h).hubs[h].time) ∧
    ((s.correctCycle h).hubs[h].bus.integ = if d then .acquire else (s.correctHub h).hubs[h].bus.integ) ∧
        (d = true → (s.correctCycle h).bus.diverged = true) := by
  intro d
  unfold State.correctCycle
  dsimp only
  change (if d = true then _ else _ : State).hubs[h].time = _ ∧ (if d = true then _ else _ : State).hubs[h].bus.integ = _ ∧
      (_ → (if d = true then _ else _ : State).bus.diverged = _)
  cases d
  · exact ⟨rfl, rfl, fun h => nomatch h⟩
  · simp only [if_true, State.reintegrate, State.modHub_same]
    exact ⟨trivial, trivial, fun _ => trivial⟩
/-- What opens and counts a cycle leaves the step of integration. -/
theorem State.hubNewCycle_integ (s : State) (h : HubId) : (s.hubNewCycle h).hubs[h].bus.integ = s.hubs[h].bus.integ := by
  unfold State.hubNewCycle
  dsimp only
  split <;> simp only [State.note_hubBus, State.modHub_same, HubState.newCycle]
theorem State.countCycle_hub (s : State) (h : HubId) : (s.countCycle h).hubs[h].nextStep = s.hubs[h].nextStep ∧
    (s.countCycle h).hubs[h].bus.integ = s.hubs[h].bus.integ ∧ (s.countCycle h).hubs[h].time = s.hubs[h].time := by
  unfold State.countCycle
  extract_lets b run s1
  have hq : HubsButQmem s1 (if b.chDown && 2 ≤ run then s1.withdrawFault FaultCode.channelDown [h.val] else s1) := by
    split
    · exact State.withdrawFault_hubs _ _ _ _
    · exact HubsButQmem.refl _
  rw [hq h, show s1.hubs[h] = _ from State.modHub_same _ _ _]
  exact ⟨rfl, rfl, rfl⟩
theorem MailOnly.abort {s t : State} (h : MailOnly s t) (x : Txn) : MailOnly s (t.abort x) := by
  unfold State.abort
  dsimp only
  have k : MailOnly s (if x.done = true then t else t.forward x (x.message (plain Status.aborted)) true) := MailOnly.ite h (h.forward _ _ _)
  exact MailOnly.ite k ((k.modTxn _ _).modRing _ _)
/-- An abort of what the bus sent, and the restart of its streams, leave the hubs but for their queue memory. -/
theorem State.abortBus_integ (s : State) (h : HubId) : s.abortBus.hubs[h].bus.integ = s.hubs[h].bus.integ := by
  unfold State.abortBus
  extract_lets gone mine m0 s1
  have m : MailOnly s1 ((s1.each (s1.mail.txns.filter mine) fun s t => s.abort t).prune) :=
    (MailOnly.each (fun u x => (MailOnly.refl u).abort x) (MailOnly.refl s1)).prune
  rw [m.hub h]; rfl
theorem State.each_modRing_hubs (s : State) (qs : List RingId) (f : State → RingId → Ring → Ring) :
    (s.each qs fun s q => s.modRing q (f s q)).hubs = s.hubs :=
  each_field (f := fun s q => s.modRing q (f s q)) (·.hubs) qs (fun _ _ _ => rfl) s
theorem State.restartStreams_hubs (s : State) : s.restartStreams.hubs = s.hubs := by
  unfold State.restartStreams
  extract_lets s1 s2 s3 cut s4
  have h1 : s1.hubs = s.hubs := State.each_modRing_hubs s _ (fun _ _ => _)
  clear_value s1
  have h2 : s2.hubs = s1.hubs := State.each_modRing_hubs s1 _ (fun _ _ => _)
  clear_value s2
  have h3 : s3.hubs = s2.hubs := State.each_modRing_hubs s2 _ (fun _ _ => _)
  clear_value s3
  have h4 : s4.hubs = s3.hubs := State.each_modRing_hubs s3 _ (fun _ _ => _)
  clear_value s4
  exact h4.trans (h3.trans (h2.trans h1))
theorem State.integrate_integ (s : State) (n : Nat) (xs : List CycleStart) (h : HubId) :
    (s.integrate n xs).hubs[h].bus.integ = s.hubs[h].bus.integ := by
  unfold State.integrate
  extract_lets b s1 s2
  have e2 : s2.hubs[h].bus.integ = s.hubs[h].bus.integ := by
    unfold s2
    split
    · rw [State.note_hubBus]
    · rfl
  split
  · rw [State.abortBus_integ, State.restartStreams_hubs, e2]
  · exact e2
/-- The step that the end of an integration cycle enters (R229). -/
theorem State.enterSend_integ (s : State) (h : HubId) : (s.enterSend h).hubs[h].bus.integ = .send := by
  unfold State.enterSend
  dsimp only
  split
  · rw [State.integrate_integ]; simp only [State.modHub_same]
  · split
    · simp only [State.modHub_same]
    · simp only [State.modHub_same, HubState.advance, State.hubNewCycle_integ]
/-- The end of an integration cycle takes a hub to the step that follows. -/
theorem State.integrationEnd_integ (s : State) (h : HubId) :
   (s.integrationEnd h).hubs[h].bus.integ = s.hubs[h].nextStep.1 ∧
   (s.hubs[h].nextStep.1 = .synchronise → (s.integrationEnd h).hubs[h].bus.repeats = s.hubs[h].nextStep.2) := by
  unfold State.integrationEnd
  dsimp only
  rw [(State.countCycle_hub s h).1]
  split
  · rename_i e
    rw [State.enterSend_integ, e]
    exact ⟨rfl, nofun⟩
  · rename_i e
    rw [e]
    simp only [State.modBus, State.modHub_same]
    exact ⟨trivial, nofun⟩
  · simp only [State.modBus, State.modHub_same, implies_true, and_self]

end Sys2Proof.Machine
end

