-- ==== Sys2Proof/Laws/Memory.lean ====
section
/-!
SUPPORT. The laws of memory: every operation keeps the canonical form, a read after a write gives the octet written, and
a write leaves every other address alone.
-/

namespace Sys2Proof.Machine

/-- A bound on the addresses can be lowered. -/
theorem Memory.wfFrom_mono {m : Memory} {a b : Nat} (hab : b ≤ a) (h : Memory.wfFrom m a = true) : Memory.wfFrom m b = true := by
  cases m with
  | nil => rfl
  | cons c t =>
    obtain ⟨x, v⟩ := c
    simp only [Memory.wfFrom, Bool.and_eq_true, decide_eq_true_eq] at h ⊢
    exact ⟨⟨by omega, h.1.2⟩, h.2⟩

/-- A write at or beyond the bound keeps the canonical form. -/
theorem Memory.write_wfFrom {m : Memory} {lo x : Nat} {v : Byte} (hx : lo ≤ x) (h : Memory.wfFrom m lo = true) :
    Memory.wfFrom (m.write x v) lo = true := by
  induction m generalizing lo with
  | nil =>
    by_cases hv : v = 0#8 <;> simp [Memory.write, Memory.wfFrom, hv, hx]
  | cons c t ih =>
    obtain ⟨a, b⟩ := c
    simp only [Memory.wfFrom, Bool.and_eq_true, decide_eq_true_eq] at h
    obtain ⟨⟨hlo, hb⟩, ht⟩ := h
    simp only [Memory.write]
    split
    · rename_i hlt
      split
      · simp only [Memory.wfFrom, Bool.and_eq_true, decide_eq_true_eq]; exact ⟨⟨hlo, hb⟩, ht⟩
      · rename_i hv
        simp only [Memory.wfFrom, Bool.and_eq_true, decide_eq_true_eq]
        exact ⟨⟨hx, by simpa using hv⟩, ⟨by omega, hb⟩, ht⟩
    · split
      · rename_i hlt heq
        subst heq
        split
        · exact Memory.wfFrom_mono (by omega) ht
        · rename_i hv
          simp only [Memory.wfFrom, Bool.and_eq_true, decide_eq_true_eq]
          exact ⟨⟨hx, by simpa using hv⟩, ht⟩
      · simp only [Memory.wfFrom, Bool.and_eq_true, decide_eq_true_eq]
        exact ⟨⟨hlo, hb⟩, ih (by omega) ht⟩

/-- A write keeps the canonical form. -/
theorem Memory.write_wf {m : Memory} {x : Nat} {v : Byte} (h : Memory.wf m = true) : Memory.wf (m.write x v) = true :=
  Memory.write_wfFrom (Nat.zero_le x) h

/-- A run of writes keeps the canonical form. -/
theorem Memory.writeRun_wf {m : Memory} {x : Nat} {bs : Bytes} (h : Memory.wf m = true) : Memory.wf (m.writeRun x bs) = true := by
  induction bs generalizing m x with
  | nil => exact h
  | cons b t ih => exact ih (Memory.write_wf h)

/-- A message laid into a memory keeps the canonical form. -/
theorem Memory.putMsg_wf {m : Memory} {q : RingId} {e : Nat} {bs : Bytes} (h : Memory.wf m = true) :
    Memory.wf (Memory.putMsg m q e bs) = true := by
  unfold Memory.putMsg
  generalize List.range (entriesOf bs.length) = ks
  induction ks generalizing m with
  | nil => exact h
  | cons k t ih => exact ih (Memory.writeRun_wf h)

/-- In a canonical memory an address below the bound reads as zero. -/
theorem Memory.read_below {m : Memory} {lo x : Nat} (hx : x < lo) (h : Memory.wfFrom m lo = true) : m.read x = 0 := by
  cases m with
  | nil => rfl
  | cons c t =>
    obtain ⟨a, b⟩ := c
    simp only [Memory.wfFrom, Bool.and_eq_true, decide_eq_true_eq] at h
    have h1 : x ≠ a := by omega
    have h2 : x < a := by omega
    simp [Memory.read, h1, h2]

/-- A read at the address written gives the octet. -/
theorem Memory.read_write_same {m : Memory} {lo x : Nat} {v : Byte} (h : Memory.wfFrom m lo = true) : (m.write x v).read x = v := by
  induction m generalizing lo with
  | nil =>
    by_cases hv : v = 0#8 <;> simp [Memory.write, Memory.read, hv]
  | cons c t ih =>
    obtain ⟨a, b⟩ := c
    simp only [Memory.wfFrom, Bool.and_eq_true, decide_eq_true_eq] at h
    simp only [Memory.write]
    split
    · rename_i hlt
      have h1 : x ≠ a := by omega
      by_cases hv : v = 0#8 <;> simp [Memory.read, hv, hlt, h1]
    · split
      · rename_i hlt heq
        subst heq
        split
        · rename_i hv; rw [Memory.read_below (Nat.lt_succ_self x) h.2, hv]
        · simp [Memory.read]
      · rename_i hlt hne
        have h2 : ¬ x < a := hlt
        simp only [Memory.read, hne, if_false, h2]
        exact ih h.2

/-- A read at any other address gives what it gave. -/
theorem Memory.read_write_other {m : Memory} {lo x y : Nat} {v : Byte} (hxy : y ≠ x) (h : Memory.wfFrom m lo = true) :
    (m.write x v).read y = m.read y := by
  induction m generalizing lo with
  | nil =>
    by_cases hv : v = 0#8 <;> simp [Memory.write, Memory.read, hv, hxy]
  | cons c t ih =>
    obtain ⟨a, b⟩ := c
    simp only [Memory.wfFrom, Bool.and_eq_true, decide_eq_true_eq] at h
    simp only [Memory.write]
    split
    · rename_i hlt
      split
      · rfl
      · by_cases h1 : y < x
        · have h2 : y ≠ a := by omega
          have h3 : y < a := by omega
          simp [Memory.read, hxy, h1, h2, h3]
        · simp [Memory.read, hxy, h1]
    · split
      · rename_i hlt heq
        subst heq
        split
        · by_cases h1 : y < x
          · rw [Memory.read_below (by omega) h.2]; simp [Memory.read, hxy, h1]
          · simp [Memory.read, hxy, h1]
        · simp [Memory.read, hxy]
      · simp only [Memory.read]
        split
        · rfl
        · split
          · rfl
          · exact ih h.2

/-- A wiped memory is canonical. -/
theorem Memory.wf_nil : Memory.wf [] = true := rfl

end Sys2Proof.Machine
end

