-- ==== Sys2Proof/Laws/Kept.lean ====
section
/-!
SUPPORT. What every operation of the block keeps, said once for each: the time, the queue of waiting commands, the canonical
form of the memories, the gates that the hardware holds off and what is programmed in OTP; the counter of free values only advances. The lemmas of the shared
operations stand here, those of the families in the files beside this one.
-/

namespace Sys2Proof.Machine

/-- A state comes from another without time passing and without a command leaving or entering the queue. -/
structure Kept (s t : State) : Prop where
  now : t.now = s.now
  pending : t.pending = s.pending
  fresh : s.fresh ≤ t.fresh
  otp : t.otp.programmedFrom s.otp
  mem : s.memOk → t.memOk
  gates : s.gatesOk → t.gatesOk

/-- The memory of a lane, and of a hub, is canonical. -/
def LaneOk (L : LaneState) : Prop := Memory.wf L.sram = true
def HubOk (H : HubState) : Prop := Memory.wf H.qmem = true

theorem LaneOk.mk_same {x0 x1 x2 x3 x4 x5 x6 x7 x8 x9 x10 x11 x12 x13 x14 x15 x16 x17 x18 x19 x20 x21 x22 x23 x24 x25 x27 x28 x29 x30 x31 x32 x33 x34} {L : LaneState} (h : LaneOk L) : LaneOk
    (LaneState.mk x0 x1 x2 x3 x4 x5 x6 x7 x8 x9 x10 x11 x12 x13 x14 x15 x16 x17 x18 x19 x20 x21 x22 x23 x24 x25 L.sram x27 x28 x29 x30 x31 x32 x33 x34) := h
theorem HubOk.mk_same {x0 x1 x2 x3 x4 x5 x6 x7} {L : HubState} (h : HubOk L) : HubOk (HubState.mk x0 x1 x2 x3 x4 x5 x6 x7 L.qmem) := h
theorem HubOk.mk_put {x0 x1 x2 x3 x4 x5 x6 x7} {L : HubState} {q : RingId} {e : Nat} {bs : Bytes} (h : HubOk L) :
    HubOk (HubState.mk x0 x1 x2 x3 x4 x5 x6 x7 (Memory.putMsg L.qmem q e bs)) := Memory.putMsg_wf h
theorem HubOk.mk_write {x0 x1 x2 x3 x4 x5 x6 x7} {L : HubState} {e : Nat} {bs : Bytes} (h : HubOk L) :
    HubOk (HubState.mk x0 x1 x2 x3 x4 x5 x6 x7 (Memory.writeRun L.qmem e bs)) := Memory.writeRun_wf h
theorem LaneState.modProv_ok (L : LaneState) (c : Chan) (f : Proving → Proving) (h : LaneOk L) : LaneOk (L.modProv c f) := h
theorem LaneState.modProb_ok (L : LaneState) (c : Chan) (f : Probing → Probing) (h : LaneOk L) : LaneOk (L.modProb c f) := h
theorem LaneState.modPoint_ok (L : LaneState) (p : Point) (f : LanePoint → LanePoint) (h : LaneOk L) : LaneOk (L.modPoint p f) := h

theorem Otp.programmedFrom_refl (a : Otp) : a.programmedFrom a := by
  simp [Otp.programmedFrom]

theorem Otp.programmedFrom_trans {a b c : Otp} (h : b.programmedFrom a) (k : c.programmedFrom b) : c.programmedFrom a := by
  obtain ⟨h1, h2, h3, h4, h5, h6, h7, h8, i1, i2, i3, i4, h9, h10⟩ := h
  obtain ⟨k1, k2, k3, k4, k5, k6, k7, k8, j1, j2, j3, j4, k9, k10⟩ := k
  refine ⟨k1.trans h1, k2.trans h2, k3.trans h3, k4.trans h4, k5.trans h5, k6.trans h6, k7.trans h7, k8.trans h8,
    j1.trans i1, j2.trans i2, j3.trans i3, j4.trans i4, ?_, h10.trans k10⟩
  have e (x y : BitVec 4) : x &&& ~~~y = 0 ↔ x &&& y = x := by
    revert x y; decide
  rw [e] at *
  rw [← h9, BitVec.and_assoc, k9]

theorem Kept.refl (s : State) : Kept s s := ⟨rfl, rfl, Nat.le_refl _, Otp.programmedFrom_refl _, id, id⟩

theorem Kept.trans {s t u : State} (h : Kept s t) (k : Kept t u) : Kept s u :=
  ⟨k.now.trans h.now, k.pending.trans h.pending, Nat.le_trans h.fresh k.fresh, Otp.programmedFrom_trans h.otp k.otp, fun x => k.mem (h.mem x), fun x => k.gates (h.gates x)⟩

/-- An update of fields that hold no time, queue, counter, OTP or memory. -/
theorem Kept.mk_same {s t : State} {su mo gr bu ma fl wo fa te ac co up we ws pa} (h : Kept s t) :
    Kept s (State.mk t.now t.fresh su mo t.lanes t.hubs t.fe gr t.banks bu ma fl t.otp wo fa te ac co up we ws pa t.pending) :=
  ⟨h.now, h.pending, h.fresh, h.otp, fun x => h.mem x, fun x => h.gates x⟩

/-- An update that takes free values besides. -/
theorem Kept.mk_fresh {s t : State} {f su mo gr bu ma fl wo fa te ac co up we ws pa} (h : Kept s t) (hf : t.fresh ≤ f) :
    Kept s (State.mk t.now f su mo t.lanes t.hubs t.fe gr t.banks bu ma fl t.otp wo fa te ac co up we ws pa t.pending) :=
  ⟨h.now, h.pending, Nat.le_trans h.fresh hf, h.otp, fun x => h.mem x, fun x => h.gates x⟩

theorem Kept.ite {s t u : State} {p : Prop} [Decidable p] (h : Kept s t) (k : Kept s u) : Kept s (if p then t else u) := by
  split <;> assumption

/-- A fold of operations keeps what each keeps. -/
theorem Kept.each {α : Type} {a s : State} {xs : List α} {f : State → α → State} (hf : ∀ t x, Kept t (f t x)) (h : Kept a s) :
    Kept a (s.each xs f) := by
  unfold State.each
  induction xs generalizing s with
  | nil => exact h
  | cons x t ih => exact ih (h.trans (hf s x))

theorem State.modLane_kept {a : State} (s : State) (l : LaneId) (f : LaneState → LaneState) (hf : ∀ L, LaneOk L → LaneOk (f L)) (h0 : Kept a s) : Kept a (s.modLane l f) := by
  refine h0.trans ⟨rfl, rfl, Nat.le_refl _, Otp.programmedFrom_refl _, fun h => ⟨h.1, fun k => ?_⟩, id⟩
  by_cases e : k = l
  · subst e; simpa [State.modLane, LaneOk] using hf _ (h.2 k)
  · have e' : l.val ≠ k.val := fun x => e (Fin.ext x.symm)
    simpa [State.modLane, e'] using h.2 k

theorem State.modHub_kept {a : State} (s : State) (l : HubId) (f : HubState → HubState) (hf : ∀ L, HubOk L → HubOk (f L)) (h0 : Kept a s) : Kept a (s.modHub l f) := by
  refine h0.trans ⟨rfl, rfl, Nat.le_refl _, Otp.programmedFrom_refl _, fun h => ⟨fun k => ?_, h.2⟩, id⟩
  by_cases e : k = l
  · subst e; simpa [State.modHub, HubOk] using hf _ (h.1 k)
  · have e' : l.val ≠ k.val := fun x => e (Fin.ext x.symm)
    simpa [State.modHub, e'] using h.1 k

theorem State.modLanes_kept {a : State} (s : State) (f : LaneId → LaneState → LaneState) (hf : ∀ l L, LaneOk L → LaneOk (f l L)) (h0 : Kept a s) : Kept a (s.modLanes f) :=
  h0.trans ⟨rfl, rfl, Nat.le_refl _, Otp.programmedFrom_refl _, fun h => ⟨h.1, fun k => by simpa [State.modLanes, LaneOk] using hf k _ (h.2 k)⟩, id⟩

theorem State.modHubs_kept {a : State} (s : State) (f : HubId → HubState → HubState) (hf : ∀ l L, HubOk L → HubOk (f l L)) (h0 : Kept a s) : Kept a (s.modHubs f) :=
  h0.trans ⟨rfl, rfl, Nat.le_refl _, Otp.programmedFrom_refl _, fun h => ⟨fun k => by simpa [State.modHubs, HubOk] using hf k _ (h.1 k), h.2⟩, id⟩

theorem State.modGroup_kept {a : State} (s : State) (g : GroupId) (f : GroupState → GroupState) (h0 : Kept a s) : Kept a (s.modGroup g f) := Kept.mk_same h0
theorem State.modGroups_kept {a : State} (s : State) (f : GroupId → GroupState → GroupState) (h0 : Kept a s) : Kept a (s.modGroups f) := Kept.mk_same h0
theorem FrontEnd.gatesOk_same {x0 x2 x6 x7 x8 x9 x10 x11 x12 x13 x14 x15 x16 x17 x18 x19 x20 x21 x22 x23} {f : FrontEnd} (h : f.gatesOk) : FrontEnd.gatesOk
    (FrontEnd.mk x0 f.conducting x2 f.sc f.ot f.gds x6 x7 x8 x9 x10 x11 x12 x13 x14 x15 x16 x17 x18 x19 x20 x21 x22 x23) := h
theorem BankState.gatesOk_same {x0 x2 x4 x6 x7 x8 x9 x10} {f : BankState} (h : f.gatesOk) : BankState.gatesOk
    (BankState.mk x0 f.conducting x2 f.ol x4 f.hwLoss x6 x7 x8 x9 x10) := h
theorem State.modFe_kept {a : State} (s : State) (g : GroupId) (f : FrontEnd → FrontEnd) (hf : ∀ x : FrontEnd, x.gatesOk → (f x).gatesOk)
    (h0 : Kept a s) : Kept a (s.modFe g f) := by
  refine h0.trans ⟨rfl, rfl, Nat.le_refl _, Otp.programmedFrom_refl _, id, fun h => ⟨fun k => ?_, h.2⟩⟩
  by_cases e : k = g
  · subst e; simpa [State.modFe] using hf _ (h.1 k)
  · have e' : g.val ≠ k.val := fun x => e (Fin.ext x.symm)
    simpa [State.modFe, e'] using h.1 k
theorem State.modFes_kept {a : State} (s : State) (f : FrontEnd → FrontEnd) (hf : ∀ x : FrontEnd, x.gatesOk → (f x).gatesOk)
    (h0 : Kept a s) : Kept a (s.modFes f) :=
  h0.trans ⟨rfl, rfl, Nat.le_refl _, Otp.programmedFrom_refl _, id, fun h => ⟨fun k => by simpa [State.modFes] using hf _ (h.1 k), h.2⟩⟩
theorem State.modBank_kept {a : State} (s : State) (g : BankId) (f : BankState → BankState) (hf : ∀ x : BankState, x.gatesOk → (f x).gatesOk)
    (h0 : Kept a s) : Kept a (s.modBank g f) := by
  refine h0.trans ⟨rfl, rfl, Nat.le_refl _, Otp.programmedFrom_refl _, id, fun h => ⟨h.1, fun k => ?_⟩⟩
  by_cases e : k = g
  · subst e; simpa [State.modBank] using hf _ (h.2 k)
  · have e' : g.val ≠ k.val := fun x => e (Fin.ext x.symm)
    simpa [State.modBank, e'] using h.2 k
theorem State.modBanks_kept {a : State} (s : State) (f : BankState → BankState) (hf : ∀ x : BankState, x.gatesOk → (f x).gatesOk)
    (h0 : Kept a s) : Kept a (s.modBanks f) :=
  h0.trans ⟨rfl, rfl, Nat.le_refl _, Otp.programmedFrom_refl _, id, fun h => ⟨h.1, fun k => by simpa [State.modBanks] using hf _ (h.2 k)⟩⟩
theorem State.modRun_kept {a : State} (s : State) (l : LaneId) (f : WearRun → WearRun) (h0 : Kept a s) : Kept a (s.modRun l f) := Kept.mk_same h0
theorem State.modLamp_kept {a : State} (s : State) (l : LaneId) (c : Chan) (f : LampRun → LampRun) (h0 : Kept a s) : Kept a (s.modLamp l c f) := Kept.mk_same h0
theorem State.modCont_kept {a : State} (s : State) (l : LaneId) (i : Fin 24) (f : ContRun → ContRun) (h0 : Kept a s) : Kept a (s.modCont l i f) := Kept.mk_same h0
theorem State.modRing_kept {a : State} (s : State) (q : RingId) (f : Ring → Ring) (h0 : Kept a s) : Kept a (s.modRing q f) := Kept.mk_same h0
theorem State.modProv_kept {a : State} (s : State) (l : LaneId) (c : Chan) (f : Proving → Proving) (h0 : Kept a s) : Kept a (s.modProv l c f) :=
  State.modLane_kept s l _ (fun _ h => h) h0
theorem State.modProb_kept {a : State} (s : State) (l : LaneId) (c : Chan) (f : Probing → Probing) (h0 : Kept a s) : Kept a (s.modProb l c f) :=
  State.modLane_kept s l _ (fun _ h => h) h0
theorem State.modPoint_kept {a : State} (s : State) (l : LaneId) (c : Point) (f : LanePoint → LanePoint) (h0 : Kept a s) : Kept a (s.modPoint l c f) :=
  State.modLane_kept s l _ (fun _ h => h) h0
theorem State.modLatches_kept {a : State} (s : State) (l : LaneId) (f : Latches → Latches) (h0 : Kept a s) : Kept a (s.modLatches l f) :=
  State.modLane_kept s l _ (fun _ h => h) h0
theorem State.putMsg_kept {a : State} (s : State) (q : RingId) (bs : Bytes) (h0 : Kept a s) : Kept a (s.putMsg q bs) :=
  State.modHubs_kept s _ (fun _ _ h => Memory.putMsg_wf h) h0
theorem State.placeMsg_kept {a : State} (s : State) (q : RingId) (m : OutMsg) (h0 : Kept a s) : Kept a (s.placeMsg q m) :=
  State.modRing_kept _ q _ (State.putMsg_kept s q m.octets h0)
theorem State.free_kept {a : State} (s : State) (h0 : Kept a s) : Kept a s.free.2 := Kept.mk_fresh h0 (Nat.le_succ _)

end Sys2Proof.Machine
end

