-- ==== Sys2Proof/Laws/KeptOps.lean ====
section
/-!
SUPPORT. What the operations and commands of Machine/Ops.lean keep.
-/

namespace Sys2Proof.Machine

theorem State.post_kept {a : State} (s : State) (q : RingId) (op : Nat) (payload : Bytes) (h0 : Kept a s) : Kept a (State.post s q op payload) := by
  refine h0.trans ?_
  unfold State.post
  try dsimp only
  repeat' (first
    | with_reducible exact Kept.refl _
    | with_reducible apply State.modRing_kept
    | with_reducible apply State.placeMsg_kept
    | with_reducible apply Kept.ite)
theorem State.logRec_kept {a : State} (s : State) (r : Bytes) (h0 : Kept a s) : Kept a (State.logRec s r) := by
  refine h0.trans ?_
  unfold State.logRec
  try dsimp only
  repeat' (first
    | with_reducible exact Kept.refl _
    | with_reducible refine Kept.mk_same ?_)
theorem State.event_kept {a : State} (s : State) (code kind lane : Nat) (sc : Bytes) (detail : Bytes) (h0 : Kept a s) : Kept a (State.event s code kind lane sc detail) := by
  refine h0.trans ?_
  unfold State.event
  try dsimp only
  repeat' (first
    | with_reducible exact Kept.refl _
    | with_reducible apply State.post_kept
    | with_reducible apply State.logRec_kept)
theorem State.note_kept {a : State} (s : State) (code : Nat) (items : List Nat) (detail : Bytes) (lane : Nat) (cause : Nat) (h0 : Kept a s) : Kept a (State.note s code items detail lane cause) := by
  refine h0.trans ?_
  unfold State.note
  try dsimp only
  repeat' (first
    | with_reducible exact Kept.refl _
    | with_reducible apply State.event_kept)
theorem State.raiseFault_kept {a : State} (s : State) (code : Nat) (items : List Nat) (lanes : LaneMask) (cause : Nat) (h0 : Kept a s) : Kept a (State.raiseFault s code items lanes cause) := by
  refine h0.trans ?_
  unfold State.raiseFault
  extract_lets sc held s1 s2
  have k_s1 : Kept s s1 := by
    unfold s1
    try dsimp only
    repeat' (first
      | with_reducible assumption
      | with_reducible exact Kept.refl _
      | with_reducible apply State.modLanes_kept
      | with_reducible apply State.event_kept
      | with_reducible apply Kept.ite
      | split
      | intro _
      | with_reducible assumption
      | with_reducible refine LaneOk.mk_same ?_
      | with_reducible refine HubOk.mk_same ?_
      | with_reducible refine FrontEnd.gatesOk_same ?_
      | with_reducible refine BankState.gatesOk_same ?_
      | with_reducible refine Kept.mk_same ?_)
  try clear_value s1
  have k_s2 : Kept s s2 := by
    unfold s2
    try dsimp only
    repeat' (first
      | with_reducible assumption
      | with_reducible exact Kept.refl _
      | with_reducible apply State.modLanes_kept
      | with_reducible apply State.event_kept
      | with_reducible apply Kept.ite
      | split
      | intro _
      | with_reducible assumption
      | with_reducible refine LaneOk.mk_same ?_
      | with_reducible refine HubOk.mk_same ?_
      | with_reducible refine FrontEnd.gatesOk_same ?_
      | with_reducible refine BankState.gatesOk_same ?_
      | with_reducible refine Kept.mk_same ?_)
  try clear_value s2
  try dsimp only
  repeat' (first
    | with_reducible assumption
    | with_reducible exact Kept.refl _
    | with_reducible apply State.modLanes_kept
    | with_reducible apply State.event_kept
    | with_reducible apply Kept.ite
    | split
    | intro _
    | with_reducible assumption
    | with_reducible refine LaneOk.mk_same ?_
    | with_reducible refine HubOk.mk_same ?_
    | with_reducible refine FrontEnd.gatesOk_same ?_
    | with_reducible refine BankState.gatesOk_same ?_
    | with_reducible refine Kept.mk_same ?_)
theorem State.withdrawFault_kept {a : State} (s : State) (code : Nat) (items : List Nat) (lanes : LaneMask) (h0 : Kept a s) : Kept a (State.withdrawFault s code items lanes) := by
  refine h0.trans ?_
  unfold State.withdrawFault
  extract_lets sc hit out keep s1
  have k_s1 : Kept s s1 := by
    unfold s1
    try dsimp only
    repeat' (first
      | with_reducible assumption
      | with_reducible exact Kept.refl _
      | with_reducible apply State.event_kept
      | with_reducible apply Kept.each
      | with_reducible apply Kept.ite
      | split
      | intro _
      | with_reducible refine Kept.mk_same ?_)
  try clear_value s1
  try dsimp only
  repeat' (first
    | with_reducible assumption
    | with_reducible exact Kept.refl _
    | with_reducible apply State.event_kept
    | with_reducible apply Kept.each
    | with_reducible apply Kept.ite
    | split
    | intro _)
theorem State.useFree_kept {a : State} (s : State) (n : Nat) (h0 : Kept a s) : Kept a (State.useFree s n) := by
  refine h0.trans ?_
  unfold State.useFree
  try dsimp only
  repeat' (first
    | with_reducible exact Kept.refl _
    | with_reducible refine Kept.mk_fresh ?_ (by omega))

end Sys2Proof.Machine
end

