-- ==== Sys2Proof/Laws/KeptStatus.lean ====
section
/-!
SUPPORT. What the operations and commands of Machine/Status.lean keep.
-/

namespace Sys2Proof.Machine

theorem State.overlayNow_kept {a : State} (s : State) (h0 : Kept a s) : Kept a (State.overlayNow s) := by
  refine h0.trans ?_
  unfold State.overlayNow
  try dsimp only
  repeat' (first
    | with_reducible exact Kept.refl _
    | with_reducible apply State.modLanes_kept
    | with_reducible apply Kept.ite
    | split
    | intro _
    | with_reducible assumption
    | with_reducible refine LaneOk.mk_same ?_
    | with_reducible refine HubOk.mk_same ?_
    | with_reducible refine FrontEnd.gatesOk_same ?_
    | with_reducible refine BankState.gatesOk_same ?_
    | with_reducible refine Kept.mk_same ?_)
theorem State.noteChan_kept {a : State} (s : State) (l : LaneId) (c : Chan) (h0 : Kept a s) : Kept a (State.noteChan s l c) := by
  refine h0.trans ?_
  unfold State.noteChan
  extract_lets k src s0 s1
  have k_s0 : Kept s s0 := by
    unfold s0
    try dsimp only
    repeat' (first
      | with_reducible assumption
      | with_reducible exact Kept.refl _
      | with_reducible apply State.modLane_kept
      | with_reducible apply State.event_kept
      | with_reducible apply Kept.ite
      | split
      | intro _
      | with_reducible assumption
      | with_reducible refine LaneOk.mk_same ?_
      | with_reducible refine HubOk.mk_same ?_
      | with_reducible refine FrontEnd.gatesOk_same ?_
      | with_reducible refine BankState.gatesOk_same ?_
      | with_reducible refine Kept.mk_same ?_)
  try clear_value s0
  have k_s1 : Kept s s1 := by
    unfold s1
    try dsimp only
    repeat' (first
      | with_reducible assumption
      | with_reducible exact Kept.refl _
      | with_reducible apply State.modLane_kept
      | with_reducible apply State.event_kept
      | with_reducible apply Kept.ite
      | split
      | intro _
      | with_reducible assumption
      | with_reducible refine LaneOk.mk_same ?_)
  try clear_value s1
  try dsimp only
  repeat' (first
    | with_reducible assumption
    | with_reducible exact Kept.refl _
    | with_reducible apply State.modLane_kept
    | with_reducible apply State.event_kept
    | with_reducible apply Kept.ite)
theorem State.notePoint_kept {a : State} (s : State) (l : LaneId) (i : Point) (h0 : Kept a s) : Kept a (State.notePoint s l i) := by
  refine h0.trans ?_
  unfold State.notePoint
  extract_lets k s1
  have k_s1 : Kept s s1 := by
    unfold s1
    try dsimp only
    repeat' (first
      | with_reducible assumption
      | with_reducible exact Kept.refl _
      | with_reducible apply State.modLane_kept
      | with_reducible apply State.event_kept
      | with_reducible apply Kept.ite
      | split
      | intro _
      | with_reducible assumption
      | with_reducible refine LaneOk.mk_same ?_)
  try clear_value s1
  try dsimp only
  repeat' (first
    | with_reducible assumption
    | with_reducible exact Kept.refl _
    | with_reducible apply State.modLane_kept
    | with_reducible apply State.event_kept
    | with_reducible apply Kept.ite)
theorem State.noteAll_kept {a : State} (s : State) (h0 : Kept a s) : Kept a (State.noteAll s) := by
  refine h0.trans ?_
  unfold State.noteAll
  try dsimp only
  repeat' (first
    | with_reducible exact Kept.refl _
    | with_reducible apply State.noteChan_kept
    | with_reducible apply State.notePoint_kept
    | with_reducible apply Kept.each
    | intro _)

end Sys2Proof.Machine
end

