-- ==== Sys2Proof/Laws/KeptDecide.lean ====
section
/-!
SUPPORT. What the operations and commands of Machine/Decide.lean keep.
-/

namespace Sys2Proof.Machine

theorem State.modTxn_kept {a : State} (s : State) (num : Nat) (f : Txn → Txn) (h0 : Kept a s) : Kept a (State.modTxn s num f) := by
  refine h0.trans ?_
  unfold State.modTxn
  try dsimp only
  repeat' (first
    | with_reducible exact Kept.refl _
    | with_reducible apply Kept.ite
    | split
    | with_reducible refine Kept.mk_same ?_)
theorem State.answer_kept {a : State} (s : State) (num : Nat) (r : Reply) (h0 : Kept a s) : Kept a (State.answer s num r) := by
  refine h0.trans ?_
  unfold State.answer
  try dsimp only
  repeat' (first
    | with_reducible exact Kept.refl _
    | with_reducible apply State.modTxn_kept)
theorem State.trigger_kept {a : State} (s : State) (lanes : LaneMask) (g : GroupId) (k : Bool) (h0 : Kept a s) : Kept a (State.trigger s lanes g k) := by
  refine h0.trans ?_
  unfold State.trigger
  try dsimp only
  repeat' (first
    | with_reducible exact Kept.refl _
    | with_reducible apply State.modLanes_kept
    | with_reducible apply Kept.ite
    | split
    | intro _
    | with_reducible assumption
    | with_reducible refine LaneOk.mk_same ?_)
theorem State.reachSafe_kept {a : State} (s : State) (lanes : LaneMask) (g : GroupId) (h0 : Kept a s) : Kept a (State.reachSafe s lanes g) := by
  refine h0.trans ?_
  unfold State.reachSafe
  try dsimp only
  repeat' (first
    | with_reducible exact Kept.refl _
    | with_reducible apply State.modLanes_kept
    | with_reducible apply Kept.ite
    | split
    | intro _
    | with_reducible assumption
    | with_reducible refine LaneOk.mk_same ?_)
theorem State.clearGroup_kept {a : State} (s : State) (g : GroupId) (h0 : Kept a s) : Kept a (State.clearGroup s g) := by
  refine h0.trans ?_
  unfold State.clearGroup
  extract_lets off s1
  have k_s1 : Kept s s1 := by
    unfold s1
    try dsimp only
    repeat' (first
      | with_reducible assumption
      | with_reducible exact Kept.refl _
      | with_reducible apply State.modLanes_kept
      | with_reducible apply State.withdrawFault_kept
      | intro _
      | with_reducible assumption
      | with_reducible refine LaneOk.mk_same ?_
      | with_reducible refine HubOk.mk_same ?_
      | with_reducible refine FrontEnd.gatesOk_same ?_
      | with_reducible refine BankState.gatesOk_same ?_
      | with_reducible refine Kept.mk_same ?_)
  try clear_value s1
  try dsimp only
  repeat' (first
    | with_reducible assumption
    | with_reducible exact Kept.refl _
    | with_reducible apply State.modLanes_kept
    | with_reducible apply State.withdrawFault_kept
    | intro _
    | with_reducible assumption
    | with_reducible refine LaneOk.mk_same ?_
    | with_reducible refine HubOk.mk_same ?_
    | with_reducible refine FrontEnd.gatesOk_same ?_
    | with_reducible refine BankState.gatesOk_same ?_
    | with_reducible refine Kept.mk_same ?_)
theorem State.endFault_kept {a : State} (s : State) (f : FaultRec) (h0 : Kept a s) : Kept a (State.endFault s f) := by
  refine h0.trans ?_
  unfold State.endFault
  try dsimp only
  repeat' (first
    | with_reducible exact Kept.refl _
    | with_reducible apply State.withdrawFault_kept)
theorem State.clearSupplyLoss_kept {a : State} (s : State) (b : BankId) (h0 : Kept a s) : Kept a (State.clearSupplyLoss s b) := by
  refine h0.trans ?_
  unfold State.clearSupplyLoss
  try dsimp only
  repeat' (first
    | with_reducible exact Kept.refl _
    | with_reducible apply State.modLanes_kept
    | with_reducible apply State.modBank_kept
    | with_reducible apply State.withdrawFault_kept
    | with_reducible apply Kept.ite
    | split
    | intro _
    | with_reducible assumption
    | with_reducible refine LaneOk.mk_same ?_
    | with_reducible refine HubOk.mk_same ?_
    | with_reducible refine FrontEnd.gatesOk_same ?_
    | with_reducible refine BankState.gatesOk_same ?_
    | with_reducible refine Kept.mk_same ?_)
theorem State.haltEntry_kept {a : State} (s : State) (cause : Nat) (h0 : Kept a s) : Kept a (State.haltEntry s cause) := by
  refine h0.trans ?_
  unfold State.haltEntry
  extract_lets s0 s1 s2 s3
  have k_s0 : Kept s s0 := by
    unfold s0
    try dsimp only
    repeat' (first
      | with_reducible assumption
      | with_reducible exact Kept.refl _
      | with_reducible apply State.modLanes_kept
      | with_reducible apply State.modHubs_kept
      | with_reducible apply State.modFes_kept
      | with_reducible apply State.logRec_kept
      | with_reducible apply Kept.ite
      | split
      | intro _
      | with_reducible assumption
      | with_reducible refine LaneOk.mk_same ?_
      | with_reducible refine HubOk.mk_same ?_
      | with_reducible refine FrontEnd.gatesOk_same ?_
      | with_reducible refine BankState.gatesOk_same ?_
      | with_reducible refine Kept.mk_same ?_)
  try clear_value s0
  have k_s1 : Kept s s1 := by
    unfold s1
    try dsimp only
    repeat' (first
      | with_reducible assumption
      | with_reducible exact Kept.refl _
      | with_reducible apply State.modLanes_kept
      | with_reducible apply State.modHubs_kept
      | with_reducible apply State.modFes_kept
      | with_reducible apply State.logRec_kept
      | with_reducible apply Kept.ite
      | split
      | intro _
      | with_reducible assumption
      | with_reducible refine LaneOk.mk_same ?_
      | with_reducible refine HubOk.mk_same ?_
      | with_reducible refine FrontEnd.gatesOk_same ?_
      | with_reducible refine BankState.gatesOk_same ?_
      | with_reducible refine Kept.mk_same ?_)
  try clear_value s1
  have k_s2 : Kept s s2 := by
    unfold s2
    try dsimp only
    repeat' (first
      | with_reducible assumption
      | with_reducible exact Kept.refl _
      | with_reducible apply State.modLanes_kept
      | with_reducible apply State.modHubs_kept
      | with_reducible apply State.modFes_kept
      | with_reducible apply State.logRec_kept
      | with_reducible apply Kept.ite
      | split
      | intro _
      | with_reducible assumption
      | with_reducible refine LaneOk.mk_same ?_
      | with_reducible refine HubOk.mk_same ?_
      | with_reducible refine FrontEnd.gatesOk_same ?_
      | with_reducible refine BankState.gatesOk_same ?_
      | with_reducible refine Kept.mk_same ?_)
  try clear_value s2
  have k_s3 : Kept s s3 := by
    unfold s3
    try dsimp only
    repeat' (first
      | with_reducible assumption
      | with_reducible exact Kept.refl _
      | with_reducible apply State.modLanes_kept
      | with_reducible apply State.modHubs_kept
      | with_reducible apply State.modFes_kept
      | with_reducible apply State.logRec_kept
      | with_reducible apply Kept.ite
      | split
      | intro _
      | with_reducible assumption
      | with_reducible refine LaneOk.mk_same ?_
      | with_reducible refine HubOk.mk_same ?_
      | with_reducible refine FrontEnd.gatesOk_same ?_
      | with_reducible refine BankState.gatesOk_same ?_
      | with_reducible refine Kept.mk_same ?_)
  try clear_value s3
  try dsimp only
  repeat' (first
    | with_reducible assumption
    | with_reducible exact Kept.refl _
    | with_reducible apply State.modLanes_kept
    | with_reducible apply State.modHubs_kept
    | with_reducible apply State.modFes_kept
    | with_reducible apply State.logRec_kept
    | with_reducible apply Kept.ite
    | split
    | intro _
    | with_reducible assumption
    | with_reducible refine LaneOk.mk_same ?_
    | with_reducible refine HubOk.mk_same ?_
    | with_reducible refine FrontEnd.gatesOk_same ?_
    | with_reducible refine BankState.gatesOk_same ?_
    | with_reducible refine Kept.mk_same ?_)
theorem State.stopTeach_kept {a : State} (s : State) (h0 : Kept a s) : Kept a (State.stopTeach s) := by
  refine h0.trans ?_
  unfold State.stopTeach
  try dsimp only
  repeat' (first
    | with_reducible exact Kept.refl _
    | with_reducible apply State.answer_kept
    | split
    | with_reducible refine Kept.mk_same ?_)
theorem State.enterMode_kept {a : State} (s : State) (m : Mode) (cause : Nat) (h0 : Kept a s) : Kept a (State.enterMode s m cause) := by
  refine h0.trans ?_
  unfold State.enterMode
  extract_lets old src s0 src_1 s1 d s2 s3 src_2 s4
  have k_s0 : Kept s s0 := by
    unfold s0
    try dsimp only
    repeat' (first
      | with_reducible assumption
      | with_reducible exact Kept.refl _
      | with_reducible apply State.logRec_kept
      | with_reducible apply State.note_kept
      | with_reducible apply State.trigger_kept
      | with_reducible apply State.haltEntry_kept
      | with_reducible apply State.stopTeach_kept
      | with_reducible apply Kept.each
      | with_reducible apply Kept.ite
      | split
      | intro _
      | with_reducible refine Kept.mk_same ?_)
  try clear_value s0
  have k_s1 : Kept s s1 := by
    unfold s1
    try dsimp only
    repeat' (first
      | with_reducible assumption
      | with_reducible exact Kept.refl _
      | with_reducible apply State.logRec_kept
      | with_reducible apply State.note_kept
      | with_reducible apply State.trigger_kept
      | with_reducible apply State.haltEntry_kept
      | with_reducible apply State.stopTeach_kept
      | with_reducible apply Kept.each
      | with_reducible apply Kept.ite
      | split
      | intro _
      | with_reducible refine Kept.mk_same ?_)
  try clear_value s1
  have k_s2 : Kept s s2 := by
    unfold s2
    try dsimp only
    repeat' (first
      | with_reducible assumption
      | with_reducible exact Kept.refl _
      | with_reducible apply State.logRec_kept
      | with_reducible apply State.note_kept
      | with_reducible apply State.trigger_kept
      | with_reducible apply State.haltEntry_kept
      | with_reducible apply State.stopTeach_kept
      | with_reducible apply Kept.each
      | with_reducible apply Kept.ite
      | split
      | intro _
      | with_reducible refine Kept.mk_same ?_)
  try clear_value s2
  have k_s3 : Kept s s3 := by
    unfold s3
    try dsimp only
    repeat' (first
      | with_reducible assumption
      | with_reducible exact Kept.refl _
      | with_reducible apply State.logRec_kept
      | with_reducible apply State.note_kept
      | with_reducible apply State.trigger_kept
      | with_reducible apply State.haltEntry_kept
      | with_reducible apply State.stopTeach_kept
      | with_reducible apply Kept.each
      | with_reducible apply Kept.ite
      | split
      | intro _
      | with_reducible refine Kept.mk_same ?_)
  try clear_value s3
  have k_s4 : Kept s s4 := by
    unfold s4
    try dsimp only
    repeat' (first
      | with_reducible assumption
      | with_reducible exact Kept.refl _
      | with_reducible apply State.logRec_kept
      | with_reducible apply State.note_kept
      | with_reducible apply State.trigger_kept
      | with_reducible apply State.haltEntry_kept
      | with_reducible apply State.stopTeach_kept
      | with_reducible apply Kept.each
      | with_reducible apply Kept.ite
      | split
      | intro _
      | with_reducible refine Kept.mk_same ?_)
  try clear_value s4
  try dsimp only
  repeat' (first
    | with_reducible assumption
    | with_reducible exact Kept.refl _
    | with_reducible apply State.logRec_kept
    | with_reducible apply State.note_kept
    | with_reducible apply State.trigger_kept
    | with_reducible apply State.haltEntry_kept
    | with_reducible apply State.stopTeach_kept
    | with_reducible apply Kept.each
    | with_reducible apply Kept.ite
    | split
    | intro _
    | with_reducible refine Kept.mk_same ?_)
theorem State.abortWindow_kept {a : State} (s : State) (h0 : Kept a s) : Kept a (State.abortWindow s) := by
  refine h0.trans ?_
  unfold State.abortWindow
  try dsimp only
  repeat' (first
    | with_reducible exact Kept.refl _
    | with_reducible apply State.modLane_kept
    | with_reducible apply State.note_kept
    | with_reducible apply Kept.ite
    | split
    | intro _
    | with_reducible assumption
    | with_reducible refine LaneOk.mk_same ?_
    | with_reducible refine HubOk.mk_same ?_
    | with_reducible refine FrontEnd.gatesOk_same ?_
    | with_reducible refine BankState.gatesOk_same ?_
    | with_reducible refine Kept.mk_same ?_)
theorem State.degrade_kept {a : State} (s : State) (h0 : Kept a s) : Kept a (State.degrade s) := by
  refine h0.trans ?_
  unfold State.degrade
  try dsimp only
  repeat' (first
    | with_reducible exact Kept.refl _
    | with_reducible apply State.enterMode_kept
    | with_reducible apply Kept.ite)
theorem State.cutCapture_kept {a : State} (s : State) (h0 : Kept a s) : Kept a (State.cutCapture s) := by
  refine h0.trans ?_
  unfold State.cutCapture
  try dsimp only
  repeat' (first
    | with_reducible exact Kept.refl _
    | with_reducible refine Kept.mk_same ?_)
theorem State.loseLane_kept {a : State} (s : State) (l : LaneId) (h0 : Kept a s) : Kept a (State.loseLane s l) := by
  refine h0.trans ?_
  unfold State.loseLane
  extract_lets s1 named s2 src
  have k_s1 : Kept s s1 := by
    unfold s1
    try dsimp only
    repeat' (first
      | with_reducible assumption
      | with_reducible exact Kept.refl _
      | with_reducible apply State.modLane_kept
      | with_reducible apply State.raiseFault_kept
      | with_reducible apply State.endFault_kept
      | with_reducible apply State.enterMode_kept
      | with_reducible apply State.abortWindow_kept
      | with_reducible apply State.degrade_kept
      | with_reducible apply State.cutCapture_kept
      | with_reducible apply Kept.each
      | with_reducible apply Kept.ite
      | split
      | intro _
      | with_reducible assumption
      | with_reducible refine LaneOk.mk_same ?_
      | with_reducible refine HubOk.mk_same ?_
      | with_reducible refine FrontEnd.gatesOk_same ?_
      | with_reducible refine BankState.gatesOk_same ?_
      | with_reducible refine Kept.mk_same ?_)
  try clear_value s1
  have k_s2 : Kept s s2 := by
    unfold s2
    try dsimp only
    repeat' (first
      | with_reducible assumption
      | with_reducible exact Kept.refl _
      | with_reducible apply State.modLane_kept
      | with_reducible apply State.raiseFault_kept
      | with_reducible apply State.endFault_kept
      | with_reducible apply State.enterMode_kept
      | with_reducible apply State.abortWindow_kept
      | with_reducible apply State.degrade_kept
      | with_reducible apply State.cutCapture_kept
      | with_reducible apply Kept.each
      | with_reducible apply Kept.ite
      | split
      | intro _
      | with_reducible assumption
      | with_reducible refine LaneOk.mk_same ?_
      | with_reducible refine HubOk.mk_same ?_
      | with_reducible refine FrontEnd.gatesOk_same ?_
      | with_reducible refine BankState.gatesOk_same ?_
      | with_reducible refine Kept.mk_same ?_)
  try clear_value s2
  try dsimp only
  repeat' (first
    | with_reducible assumption
    | with_reducible exact Kept.refl _
    | with_reducible apply State.modLane_kept
    | with_reducible apply State.raiseFault_kept
    | with_reducible apply State.endFault_kept
    | with_reducible apply State.enterMode_kept
    | with_reducible apply State.abortWindow_kept
    | with_reducible apply State.degrade_kept
    | with_reducible apply State.cutCapture_kept
    | with_reducible apply Kept.each
    | with_reducible apply Kept.ite
    | split
    | intro _
    | with_reducible assumption
    | with_reducible refine LaneOk.mk_same ?_
    | with_reducible refine HubOk.mk_same ?_
    | with_reducible refine FrontEnd.gatesOk_same ?_
    | with_reducible refine BankState.gatesOk_same ?_
    | with_reducible refine Kept.mk_same ?_)
theorem State.setSafe_kept {a : State} (s : State) (h0 : Kept a s) : Kept a (State.setSafe s) := by
  refine h0.trans ?_
  unfold State.setSafe
  try dsimp only
  repeat' (first
    | with_reducible exact Kept.refl _
    | with_reducible apply State.modLanes_kept
    | with_reducible apply Kept.ite
    | split
    | intro _
    | with_reducible assumption
    | with_reducible refine LaneOk.mk_same ?_)
theorem State.faultHub_kept {a : State} (s : State) (h : HubId) (h0 : Kept a s) : Kept a (State.faultHub s h) := by
  refine h0.trans ?_
  unfold State.faultHub
  extract_lets s1 src
  have k_s1 : Kept s s1 := by
    unfold s1
    try dsimp only
    repeat' (first
      | with_reducible assumption
      | with_reducible exact Kept.refl _
      | with_reducible apply State.modHub_kept
      | with_reducible apply Kept.ite
      | split
      | intro _
      | with_reducible assumption
      | with_reducible refine LaneOk.mk_same ?_
      | with_reducible refine HubOk.mk_same ?_)
  try clear_value s1
  try dsimp only
  repeat' (first
    | with_reducible assumption
    | with_reducible exact Kept.refl _
    | with_reducible apply State.modHub_kept
    | with_reducible apply Kept.ite
    | split
    | intro _
    | with_reducible assumption
    | with_reducible refine LaneOk.mk_same ?_
    | with_reducible refine HubOk.mk_same ?_
    | with_reducible refine FrontEnd.gatesOk_same ?_
    | with_reducible refine BankState.gatesOk_same ?_
    | with_reducible refine Kept.mk_same ?_)
theorem State.triggerAt_kept {a : State} (s : State) (lanes : LaneMask) (g : Option GroupId) (k : Bool) (h0 : Kept a s) : Kept a (State.triggerAt s lanes g k) := by
  refine h0.trans ?_
  unfold State.triggerAt
  try dsimp only
  repeat' (first
    | with_reducible exact Kept.refl _
    | with_reducible apply State.trigger_kept
    | split)
theorem State.reaction_kept {a : State} (s : State) (code : Nat) (items : List Nat) (lanes : LaneMask) (h0 : Kept a s) : Kept a (State.reaction s code items lanes) := by
  refine h0.trans ?_
  unfold State.reaction
  try dsimp only
  repeat' (first
    | with_reducible exact Kept.refl _
    | with_reducible apply State.abortWindow_kept
    | with_reducible apply State.loseLane_kept
    | with_reducible apply State.setSafe_kept
    | with_reducible apply State.faultHub_kept
    | with_reducible apply State.triggerAt_kept
    | with_reducible apply Kept.ite
    | split)
theorem State.fault_kept {a : State} (s : State) (code : Nat) (items : List Nat) (lanes : LaneMask) (cause : Nat) (h0 : Kept a s) : Kept a (State.fault s code items lanes cause) := by
  refine h0.trans ?_
  unfold State.fault
  try dsimp only
  repeat' (first
    | with_reducible exact Kept.refl _
    | with_reducible apply State.raiseFault_kept
    | with_reducible apply State.reaction_kept
    | with_reducible apply Kept.ite)
theorem State.modSched_kept {a : State} (s : State) (c : Chan) (f : TestSched → TestSched) (h0 : Kept a s) : Kept a (State.modSched s c f) := by
  refine h0.trans ?_
  unfold State.modSched
  try dsimp only
  repeat' (first
    | with_reducible exact Kept.refl _
    | with_reducible refine Kept.mk_same ?_)
theorem State.modPtSched_kept {a : State} (s : State) (p : Point) (f : TestSched → TestSched) (h0 : Kept a s) : Kept a (State.modPtSched s p f) := by
  refine h0.trans ?_
  unfold State.modPtSched
  try dsimp only
  repeat' (first
    | with_reducible exact Kept.refl _
    | with_reducible refine Kept.mk_same ?_)
theorem State.chanProved_kept {a : State} (s : State) (c : Chan) (h0 : Kept a s) : Kept a (State.chanProved s c) := by
  refine h0.trans ?_
  unfold State.chanProved
  try dsimp only
  repeat' (first
    | with_reducible exact Kept.refl _
    | with_reducible apply State.withdrawFault_kept
    | with_reducible apply State.modSched_kept)
theorem State.pointProved_kept {a : State} (s : State) (p : Point) (h0 : Kept a s) : Kept a (State.pointProved s p) := by
  refine h0.trans ?_
  unfold State.pointProved
  try dsimp only
  repeat' (first
    | with_reducible exact Kept.refl _
    | with_reducible apply State.withdrawFault_kept
    | with_reducible apply State.modPtSched_kept)
theorem State.testResult_kept {a : State} (s : State) (c : Chan) (code : Nat) (h0 : Kept a s) : Kept a (State.testResult s c code) := by
  refine h0.trans ?_
  unfold State.testResult
  try dsimp only
  repeat' (first
    | with_reducible exact Kept.refl _
    | with_reducible apply State.answer_kept
    | with_reducible apply Kept.ite
    | split
    | with_reducible refine Kept.mk_same ?_)
theorem State.switchFault_kept {a : State} (s : State) (lanes : LaneMask) (c : Chan) (cause : Cause) (h0 : Kept a s) : Kept a (State.switchFault s lanes c cause) := by
  refine h0.trans ?_
  unfold State.switchFault
  extract_lets s1 s2
  have k_s1 : Kept s s1 := by
    unfold s1
    try dsimp only
    repeat' (first
      | with_reducible assumption
      | with_reducible exact Kept.refl _
      | with_reducible apply State.modLanes_kept
      | with_reducible apply State.noteChan_kept
      | with_reducible apply State.trigger_kept
      | with_reducible apply Kept.each
      | with_reducible apply Kept.ite
      | split
      | intro _
      | with_reducible assumption
      | with_reducible refine LaneOk.mk_same ?_)
  try clear_value s1
  have k_s2 : Kept s s2 := by
    unfold s2
    try dsimp only
    repeat' (first
      | with_reducible assumption
      | with_reducible exact Kept.refl _
      | with_reducible apply State.modLanes_kept
      | with_reducible apply State.noteChan_kept
      | with_reducible apply State.trigger_kept
      | with_reducible apply Kept.each
      | with_reducible apply Kept.ite)
  try clear_value s2
  try dsimp only
  repeat' (first
    | with_reducible assumption
    | with_reducible exact Kept.refl _
    | with_reducible apply State.modLanes_kept
    | with_reducible apply State.noteChan_kept
    | with_reducible apply State.trigger_kept
    | with_reducible apply Kept.each
    | with_reducible apply Kept.ite
    | split
    | intro _)
theorem State.outputFault_kept {a : State} (s : State) (lanes : LaneMask) (p : Point) (cause : OutCause) (h0 : Kept a s) : Kept a (State.outputFault s lanes p cause) := by
  refine h0.trans ?_
  unfold State.outputFault
  extract_lets s1 s2
  have k_s1 : Kept s s1 := by
    unfold s1
    try dsimp only
    repeat' (first
      | with_reducible assumption
      | with_reducible exact Kept.refl _
      | with_reducible apply State.modLanes_kept
      | with_reducible apply State.notePoint_kept
      | with_reducible apply State.fault_kept
      | with_reducible apply Kept.each
      | with_reducible apply Kept.ite
      | split
      | intro _
      | with_reducible assumption
      | with_reducible refine LaneOk.mk_same ?_)
  try clear_value s1
  have k_s2 : Kept s s2 := by
    unfold s2
    try dsimp only
    repeat' (first
      | with_reducible assumption
      | with_reducible exact Kept.refl _
      | with_reducible apply State.modLanes_kept
      | with_reducible apply State.notePoint_kept
      | with_reducible apply State.fault_kept)
  try clear_value s2
  try dsimp only
  repeat' (first
    | with_reducible assumption
    | with_reducible exact Kept.refl _
    | with_reducible apply State.modLanes_kept
    | with_reducible apply State.notePoint_kept
    | with_reducible apply State.fault_kept
    | with_reducible apply Kept.each
    | with_reducible apply Kept.ite
    | split
    | intro _)
theorem State.failLit_kept {a : State} (s : State) (l : LaneId) (c : Chan) (h0 : Kept a s) : Kept a (State.failLit s l c) := by
  refine h0.trans ?_
  unfold State.failLit
  extract_lets s1 s2
  have k_s1 : Kept s s1 := by
    unfold s1
    try dsimp only
    repeat' (first
      | with_reducible assumption
      | with_reducible exact Kept.refl _
      | with_reducible apply State.modProv_kept)
  try clear_value s1
  have k_s2 : Kept s s2 := by
    unfold s2
    try dsimp only
    repeat' (first
      | with_reducible assumption
      | with_reducible exact Kept.refl _
      | with_reducible apply State.modProv_kept
      | with_reducible apply State.noteChan_kept
      | with_reducible apply State.trigger_kept
      | with_reducible apply Kept.ite)
  try clear_value s2
  try dsimp only
  repeat' (first
    | with_reducible assumption
    | with_reducible exact Kept.refl _
    | with_reducible apply State.modProv_kept
    | with_reducible apply State.noteChan_kept)
theorem State.failDark_kept {a : State} (s : State) (l : LaneId) (c : Chan) (k : Cause) (h0 : Kept a s) : Kept a (State.failDark s l c k) := by
  refine h0.trans ?_
  unfold State.failDark
  try dsimp only
  repeat' (first
    | with_reducible exact Kept.refl _
    | with_reducible apply State.modProv_kept
    | with_reducible apply State.noteChan_kept)
theorem State.react_kept {a : State} (s : State) (l : LaneId) (d : Chan) (h0 : Kept a s) : Kept a (State.react s l d) := by
  refine h0.trans ?_
  unfold State.react
  try dsimp only
  repeat' (first
    | with_reducible exact Kept.refl _
    | with_reducible apply State.modLane_kept
    | intro _
    | with_reducible assumption
    | with_reducible refine LaneOk.mk_same ?_)
theorem State.foreignAt_kept {a : State} (s : State) (l : LaneId) (c : Chan) (k : Cause) (src : Option Chan) (h0 : Kept a s) : Kept a (State.foreignAt s l c k src) := by
  refine h0.trans ?_
  unfold State.foreignAt
  extract_lets prot s1 s2 s3 s4
  have k_s1 : Kept s s1 := by
    unfold s1
    try dsimp only
    repeat' (first
      | with_reducible assumption
      | with_reducible exact Kept.refl _
      | with_reducible apply State.modProv_kept
      | with_reducible apply State.event_kept
      | with_reducible apply State.note_kept
      | with_reducible apply State.noteChan_kept
      | with_reducible apply State.trigger_kept
      | with_reducible apply State.react_kept
      | with_reducible apply Kept.ite
      | split
      | with_reducible refine Kept.mk_same ?_)
  try clear_value s1
  have k_s2 : Kept s s2 := by
    unfold s2
    try dsimp only
    repeat' (first
      | with_reducible assumption
      | with_reducible exact Kept.refl _
      | with_reducible apply State.modProv_kept
      | with_reducible apply State.event_kept
      | with_reducible apply State.note_kept
      | with_reducible apply State.noteChan_kept
      | with_reducible apply State.trigger_kept
      | with_reducible apply State.react_kept
      | with_reducible apply Kept.ite
      | split
      | with_reducible refine Kept.mk_same ?_)
  try clear_value s2
  have k_s3 : Kept s s3 := by
    unfold s3
    try dsimp only
    repeat' (first
      | with_reducible assumption
      | with_reducible exact Kept.refl _
      | with_reducible apply State.modProv_kept
      | with_reducible apply State.event_kept
      | with_reducible apply State.note_kept
      | with_reducible apply State.noteChan_kept
      | with_reducible apply State.trigger_kept
      | with_reducible apply State.react_kept
      | with_reducible apply Kept.ite
      | split
      | with_reducible refine Kept.mk_same ?_)
  try clear_value s3
  have k_s4 : Kept s s4 := by
    unfold s4
    try dsimp only
    repeat' (first
      | with_reducible assumption
      | with_reducible exact Kept.refl _
      | with_reducible apply State.modProv_kept
      | with_reducible apply State.event_kept
      | with_reducible apply State.note_kept
      | with_reducible apply State.noteChan_kept
      | with_reducible apply State.trigger_kept
      | with_reducible apply State.react_kept
      | with_reducible apply Kept.ite
      | split
      | with_reducible refine Kept.mk_same ?_)
  try clear_value s4
  try dsimp only
  repeat' (first
    | with_reducible assumption
    | with_reducible exact Kept.refl _
    | with_reducible apply State.modProv_kept
    | with_reducible apply State.event_kept
    | with_reducible apply State.note_kept
    | with_reducible apply State.noteChan_kept
    | with_reducible apply State.trigger_kept
    | with_reducible apply State.react_kept
    | with_reducible apply Kept.ite
    | split
    | with_reducible refine Kept.mk_same ?_)

end Sys2Proof.Machine
end

