-- ==== Sys2Proof/Laws/KeptDrive.lean ====
section
/-!
SUPPORT. What the operations and commands of Machine/Drive.lean keep.
-/

namespace Sys2Proof.Machine

theorem State.frameSent_kept {a : State} (s : State) (l : LaneId) (d : DriveDest) (w : BitVec 16) (h0 : Kept a s) : Kept a (State.frameSent s l d w) := by
  refine h0.trans ?_
  unfold State.frameSent
  try dsimp only
  repeat' (first
    | with_reducible exact Kept.refl _
    | with_reducible apply State.modLane_kept
    | split
    | intro _
    | with_reducible assumption
    | with_reducible refine LaneOk.mk_same ?_)
theorem FrontEnd.tracked_ok (f was : FrontEnd) (now : Nat) (h : FrontEnd.gatesOk f) : FrontEnd.gatesOk (FrontEnd.tracked f was now) := by
  unfold FrontEnd.tracked
  try dsimp only
  repeat' (first | with_reducible exact h | split | with_reducible refine FrontEnd.gatesOk_same ?_)
theorem FrontEnd.setProbe_ok (f : FrontEnd) (m : BitVec 8) (now : Nat) (h : FrontEnd.gatesOk f) : FrontEnd.gatesOk (FrontEnd.setProbe f m now) := by
  unfold FrontEnd.setProbe
  try dsimp only
  repeat' (first | with_reducible exact h | with_reducible apply FrontEnd.tracked_ok | split | with_reducible refine FrontEnd.gatesOk_same ?_)
theorem FrontEnd.settle_ok (f : FrontEnd) (new : Vector LaneInput 3) (now : Nat) (h : FrontEnd.gatesOk f) : FrontEnd.gatesOk (FrontEnd.settle f new now) := by
  unfold FrontEnd.settle
  refine FrontEnd.tracked_ok _ _ _ ?_
  unfold FrontEnd.gatesOk switched
  dsimp only
  generalize f.conducting = x
  generalize f.sc = y
  generalize f.ot = z
  generalize tgMaj f.inp ^^^ tgMaj new = u
  generalize offMaj new = v
  cases f.gds
  · refine ⟨?_, fun _ => ?_⟩ <;> ext i hi <;> simp
  · refine ⟨?_, fun h => by cases h⟩
    ext i hi
    simp
theorem FrontEnd.clearTrips_ok (f : FrontEnd) (now : Nat) (hot : PosMask) (h : FrontEnd.gatesOk f) : FrontEnd.gatesOk (FrontEnd.clearTrips f now hot) := by
  unfold FrontEnd.clearTrips FrontEnd.gatesOk
  dsimp only
  refine ⟨?_, h.2⟩
  have e := h.1
  revert e
  generalize f.conducting = x
  generalize f.sc = y
  generalize f.ot = z
  intro e
  ext i hi
  have e1 := congrArg (fun b : BitVec 8 => b[i]) e
  simp at e1 ⊢
  intro hx
  simp [e1 hx]
theorem BankState.settle_ok (b : BankState) (new : Vector LaneInput 3) (now : Nat) (h : BankState.gatesOk b) : BankState.gatesOk (BankState.settle b new now) := by
  unfold BankState.settle BankState.gatesOk switched
  dsimp only
  generalize b.conducting = x
  generalize b.ol = y
  generalize tgMaj b.inp ^^^ tgMaj new = u
  generalize offMaj new = v
  refine ⟨?_, fun h => ?_⟩
  · ext i hi
    simp
    intro _ _ h1 _
    simp [h1]
  · rw [h]
    have e (a b : PosMask) : a &&& ~~~(b ||| 4095#12) = 0 := by
      have : b ||| 4095#12 = BitVec.allOnes 12 := by
        show b ||| BitVec.allOnes 12 = BitVec.allOnes 12
        ext i hi
        simp only [BitVec.getElem_or, BitVec.getElem_allOnes, Bool.or_true]
      rw [this]; simp
    exact e _ _
theorem BankState.clearLatches_ok (b : BankState) (now : Nat) (hot : PosMask) (h : BankState.gatesOk b) : BankState.gatesOk (BankState.clearLatches b now hot) := by
  unfold BankState.clearLatches BankState.gatesOk
  dsimp only
  refine ⟨?_, fun k => h.2 ?_⟩
  · have e := h.1
    revert e
    generalize b.conducting = x
    generalize b.ol = y
    intro e
    ext i hi
    have e1 := congrArg (fun b : BitVec 12 => b[i]) e
    simp at e1 ⊢
    intro hx
    simp [e1 hx]
  · revert k; cases b.hwLoss <;> simp
theorem State.receive_kept {a : State} (s : State) (d : DriveDest) (l : LaneId) (w : BitVec 16) (n : Nat) (fsOk : Bool) (hot : PosMask) (h0 : Kept a s) : Kept a (State.receive s d l w n fsOk hot) := by
  refine h0.trans ?_
  unfold State.receive
  try dsimp only
  repeat' (first
    | with_reducible apply BankState.clearLatches_ok
    | with_reducible apply BankState.settle_ok
    | with_reducible apply FrontEnd.clearTrips_ok
    | with_reducible apply FrontEnd.settle_ok
    | with_reducible exact Kept.refl _
    | with_reducible apply State.modFe_kept
    | with_reducible apply State.modBank_kept
    | split
    | intro _
    | with_reducible assumption)
theorem State.driveFrame_kept {a : State} (s : State) (d : DriveDest) (l : LaneId) (rx : RxDrive) (hot : PosMask) (h0 : Kept a s) : Kept a (State.driveFrame s d l rx hot) := by
  refine h0.trans ?_
  unfold State.driveFrame
  try dsimp only
  repeat' (first
    | with_reducible exact Kept.refl _
    | with_reducible apply State.frameSent_kept
    | with_reducible apply State.receive_kept
    | with_reducible apply Kept.ite
    | split)
theorem State.loseInput_kept {a : State} (s : State) (d : DriveDest) (l : LaneId) (h0 : Kept a s) : Kept a (State.loseInput s d l) := by
  refine h0.trans ?_
  unfold State.loseInput
  try dsimp only
  repeat' (first
    | with_reducible apply BankState.settle_ok
    | with_reducible apply FrontEnd.settle_ok
    | with_reducible exact Kept.refl _
    | with_reducible apply State.modFe_kept
    | with_reducible apply State.modBank_kept
    | split
    | intro _)
theorem FrontEnd.stop_ok (f : FrontEnd) (k : BitVec 8) (now : Nat) (h : FrontEnd.gatesOk f) : FrontEnd.gatesOk (FrontEnd.stop f k now) := by
  unfold FrontEnd.stop
  refine FrontEnd.tracked_ok _ _ _ ?_
  unfold FrontEnd.gatesOk
  dsimp only
  refine ⟨?_, fun h1 => by rw [h.2 h1]; simp⟩
  rw [BitVec.and_assoc, BitVec.and_comm (~~~k), ← BitVec.and_assoc, h.1]; simp
theorem FrontEnd.trip_ok (f : FrontEnd) (sc ot : BitVec 8) (now : Nat) (h : FrontEnd.gatesOk f) : FrontEnd.gatesOk (FrontEnd.trip f sc ot now) := by
  unfold FrontEnd.trip
  refine FrontEnd.tracked_ok _ _ _ ?_
  unfold FrontEnd.gatesOk
  dsimp only
  refine ⟨?_, fun h1 => by rw [h.2 h1]; simp⟩
  have e := h.1
  revert e
  generalize f.conducting = x
  generalize f.sc = y
  generalize f.ot = z
  intro e
  ext i hi
  have e1 := congrArg (fun b : BitVec 8 => b[i]) e
  simp at e1 ⊢
  intro hx h1 h2
  simp [e1 hx, h1, h2]
theorem FrontEnd.supply_ok (f : FrontEnd) (ok : Bool) (now : Nat) (h : FrontEnd.gatesOk f) : FrontEnd.gatesOk (FrontEnd.supply f ok now) := by
  unfold FrontEnd.supply
  refine FrontEnd.tracked_ok _ _ _ ?_
  unfold FrontEnd.gatesOk
  dsimp only
  cases ok
  · simp
  · exact ⟨h.1, fun h => by cases h⟩
theorem BankState.stop_ok (b : BankState) (k : PosMask) (h : BankState.gatesOk b) : BankState.gatesOk (BankState.stop b k) := by
  unfold BankState.stop BankState.gatesOk
  dsimp only
  refine ⟨?_, fun h1 => by rw [h.2 h1]; simp⟩
  rw [BitVec.and_assoc, BitVec.and_comm (~~~k), ← BitVec.and_assoc, h.1]; simp
theorem execDriveFrame_kept (d : DriveDest) (l : LaneId) (rx : RxDrive) (hot : PosMask) (s : State) : ∃ s1, execDriveFrame d l rx hot s = .next s1 ∧ Kept s s1 := by
  refine ⟨_, rfl, ?_⟩
  try dsimp only
  repeat' (first
    | with_reducible exact Kept.refl _
    | with_reducible apply State.driveFrame_kept)
theorem execDriveLossTimer_kept (d : DriveDest) (l : LaneId) (s : State) : ∃ s1, execDriveLossTimer d l s = .next s1 ∧ Kept s s1 := by
  refine ⟨_, rfl, ?_⟩
  try dsimp only
  repeat' (first
    | with_reducible exact Kept.refl _
    | with_reducible apply State.loseInput_kept
    | with_reducible apply Kept.ite)
theorem execOverlayWord_kept (s : State) : ∃ s1, execOverlayWord s = .next s1 ∧ Kept s s1 := by
  refine ⟨_, rfl, ?_⟩
  try dsimp only
  repeat' (first
    | with_reducible exact Kept.refl _
    | with_reducible apply State.modLanes_kept
    | with_reducible apply Kept.ite
    | split
    | intro _
    | with_reducible assumption
    | with_reducible refine LaneOk.mk_same ?_)
theorem State.settles_kept {a : State} (s : State) (c : Chan) (from_ to_ : Nat) (h0 : Kept a s) : Kept a (State.settles s c from_ to_) := by
  refine h0.trans ?_
  unfold State.settles
  try dsimp only
  repeat' (first
    | with_reducible apply LaneState.modProv_ok
    | with_reducible exact Kept.refl _
    | with_reducible apply State.modLanes_kept
    | with_reducible apply State.modProv_kept
    | intro _)
theorem execShortCircuitTrip_kept (c : Chan) (s : State) : ∃ s1, execShortCircuitTrip c s = .next s1 ∧ Kept s s1 := by
  refine ⟨_, rfl, ?_⟩
  try dsimp only
  repeat' (first
    | with_reducible apply FrontEnd.trip_ok
    | with_reducible exact Kept.refl _
    | with_reducible apply State.modFe_kept
    | with_reducible apply State.trigger_kept
    | with_reducible apply State.settles_kept
    | intro _
    | with_reducible assumption
    | with_reducible refine LaneOk.mk_same ?_
    | with_reducible refine HubOk.mk_same ?_
    | with_reducible refine FrontEnd.gatesOk_same ?_)
theorem execOvertempTrip_kept (c : Chan) (s : State) : ∃ s1, execOvertempTrip c s = .next s1 ∧ Kept s s1 := by
  refine ⟨_, rfl, ?_⟩
  try dsimp only
  repeat' (first
    | with_reducible apply FrontEnd.trip_ok
    | with_reducible exact Kept.refl _
    | with_reducible apply State.modFe_kept
    | with_reducible apply State.settles_kept
    | intro _)
theorem execDimmingEdge_kept (c : Chan) (onPhase : Bool) (s : State) : ∃ s1, execDimmingEdge c onPhase s = .next s1 ∧ Kept s s1 := by
  refine ⟨_, rfl, ?_⟩
  try dsimp only
  repeat' (first
    | with_reducible exact Kept.refl _
    | with_reducible apply State.modLanes_kept
    | with_reducible apply State.modSched_kept
    | with_reducible apply State.settles_kept
    | with_reducible apply Kept.ite
    | split
    | intro _
    | with_reducible assumption
    | with_reducible refine LaneOk.mk_same ?_)
theorem execPumpStarvation_kept (d : DriveDest) (k : Position) (s : State) : ∃ s1, execPumpStarvation d k s = .next s1 ∧ Kept s s1 := by
  refine ⟨_, rfl, ?_⟩
  try dsimp only
  repeat' (first
    | with_reducible apply BankState.stop_ok
    | with_reducible apply FrontEnd.stop_ok
    | with_reducible exact Kept.refl _
    | with_reducible apply State.modFe_kept
    | with_reducible apply State.modBank_kept
    | with_reducible apply Kept.ite
    | split
    | intro _)
theorem execGateDriveSupply_kept (g : GroupId) (ok : Bool) (s : State) : ∃ s1, execGateDriveSupply g ok s = .next s1 ∧ Kept s s1 := by
  refine ⟨_, rfl, ?_⟩
  try dsimp only
  repeat' (first
    | with_reducible apply FrontEnd.supply_ok
    | with_reducible exact Kept.refl _
    | with_reducible apply State.modFe_kept
    | intro _)

end Sys2Proof.Machine
end

