-- ==== Sys2Proof/Laws/KeptField.lean ====
section
/-!
SUPPORT. What the operations and commands of Machine/Field.lean keep.
-/

namespace Sys2Proof.Machine

theorem State.measLinkFault_kept {a : State} (s : State) (l : LaneId) (n : Nat) (was now : Bool) (h0 : Kept a s) : Kept a (State.measLinkFault s l n was now) := by
  refine h0.trans ?_
  unfold State.measLinkFault
  extract_lets s1
  have k_s1 : Kept s s1 := by
    unfold s1
    try dsimp only
    repeat' (first
      | with_reducible assumption
      | with_reducible exact Kept.refl _
      | with_reducible apply State.withdrawFault_kept
      | with_reducible apply State.trigger_kept
      | with_reducible apply State.fault_kept)
  try clear_value s1
  try dsimp only
  repeat' (first
    | with_reducible assumption
    | with_reducible exact Kept.refl _
    | with_reducible apply State.withdrawFault_kept
    | with_reducible apply State.trigger_kept
    | with_reducible apply State.fault_kept
    | with_reducible apply Kept.ite
    | split)
theorem State.judgeContactor_kept {a : State} (s : State) (lanes : LaneMask) (g : GroupId) (a0 : Bool) (h0 : Kept a s) : Kept a (State.judgeContactor s lanes g a0) := by
  refine h0.trans ?_
  unfold State.judgeContactor
  extract_lets o bad right s1 s2
  have k_s1 : Kept s s1 := by
    unfold s1
    try dsimp only
    repeat' (first
      | with_reducible assumption
      | with_reducible exact Kept.refl _
      | with_reducible apply State.withdrawFault_kept
      | with_reducible apply State.fault_kept
      | with_reducible apply Kept.ite)
  try clear_value s1
  have k_s2 : Kept s s2 := by
    unfold s2
    try dsimp only
    repeat' (first
      | with_reducible assumption
      | with_reducible exact Kept.refl _
      | with_reducible apply State.withdrawFault_kept
      | with_reducible apply State.fault_kept
      | with_reducible apply Kept.ite)
  try clear_value s2
  try dsimp only
  repeat' (first
    | with_reducible assumption
    | with_reducible exact Kept.refl _
    | with_reducible apply State.withdrawFault_kept)
theorem State.contactorWear_kept {a : State} (s : State) (l : LaneId) (g : GroupId) (a0 open_ : Bool) (h0 : Kept a s) : Kept a (State.contactorWear s l g a0 open_) := by
  refine h0.trans ?_
  unfold State.contactorWear
  extract_lets r r1 s1
  have k_s1 : Kept s s1 := by
    unfold s1
    try dsimp only
    repeat' (first
      | with_reducible assumption
      | with_reducible exact Kept.refl _
      | with_reducible apply State.modCont_kept
      | with_reducible apply State.note_kept
      | with_reducible apply Kept.ite
      | split)
  try clear_value s1
  try dsimp only
  repeat' (first
    | with_reducible assumption
    | with_reducible exact Kept.refl _
    | with_reducible apply State.modCont_kept
    | with_reducible apply State.note_kept
    | with_reducible apply Kept.ite
    | split)
theorem State.feedbackEdge_kept {a : State} (s : State) (l : LaneId) (p : Point) (h0 : Kept a s) : Kept a (State.feedbackEdge s l p) := by
  refine h0.trans ?_
  unfold State.feedbackEdge
  try dsimp only
  repeat' (first
    | with_reducible exact Kept.refl _
    | with_reducible apply State.judgeContactor_kept
    | with_reducible apply State.contactorWear_kept
    | with_reducible apply Kept.ite
    | split)
theorem State.fieldMajStop_kept {a : State} (s : State) (t : FieldMajRun) (h0 : Kept a s) : Kept a (State.fieldMajStop s t) := by
  refine h0.trans ?_
  unfold State.fieldMajStop
  extract_lets src s1
  have k_s1 : Kept s s1 := by
    unfold s1
    try dsimp only
    repeat' (first
      | with_reducible assumption
      | with_reducible exact Kept.refl _
      | with_reducible apply State.modLane_kept
      | intro _
      | with_reducible assumption
      | with_reducible refine LaneOk.mk_same ?_
      | with_reducible refine HubOk.mk_same ?_
      | with_reducible refine FrontEnd.gatesOk_same ?_
      | with_reducible refine BankState.gatesOk_same ?_
      | with_reducible refine Kept.mk_same ?_)
  try clear_value s1
  try dsimp only
  repeat' (first
    | with_reducible assumption
    | with_reducible exact Kept.refl _
    | with_reducible apply State.modLane_kept
    | intro _
    | with_reducible assumption
    | with_reducible refine LaneOk.mk_same ?_)
theorem State.fieldMajEnds_kept {a : State} (s : State) (t : FieldMajRun) (bad : Bool) (h0 : Kept a s) : Kept a (State.fieldMajEnds s t bad) := by
  refine h0.trans ?_
  unfold State.fieldMajEnds
  extract_lets s1
  have k_s1 : Kept s s1 := by
    unfold s1
    try dsimp only
    repeat' (first
      | with_reducible assumption
      | with_reducible exact Kept.refl _
      | with_reducible apply State.pointProved_kept
      | with_reducible apply State.outputFault_kept
      | with_reducible apply State.fieldMajStop_kept)
  try clear_value s1
  try dsimp only
  repeat' (first
    | with_reducible assumption
    | with_reducible exact Kept.refl _
    | with_reducible apply State.pointProved_kept
    | with_reducible apply State.outputFault_kept
    | with_reducible apply State.fieldMajStop_kept
    | with_reducible apply Kept.ite)
theorem State.fieldMajSample_kept {a : State} (s : State) (p : Point) (gs rb : Bool) (h0 : Kept a s) : Kept a (State.fieldMajSample s p gs rb) := by
  refine h0.trans ?_
  unfold State.fieldMajSample
  try dsimp only
  repeat' (first
    | with_reducible exact Kept.refl _
    | with_reducible apply State.fieldMajEnds_kept
    | with_reducible apply Kept.ite
    | split)
theorem State.bankPoint_kept {a : State} (s : State) (l : LaneId) (p : Point) (w : BankBits) (h0 : Kept a s) : Kept a (State.bankPoint s l p w) := by
  refine h0.trans ?_
  unfold State.bankPoint
  extract_lets j q raw rb gs on measured before a0 a1 a2 a3 a4 s1 s2 s3 s4 src src_1 s5 src_2 s6 s6_1 s7
  have k_s1 : Kept s s1 := by
    unfold s1
    try dsimp only
    repeat' (first
      | with_reducible assumption
      | with_reducible exact Kept.refl _
      | with_reducible apply State.modPoint_kept
      | with_reducible apply State.withdrawFault_kept
      | with_reducible apply State.notePoint_kept
      | with_reducible apply State.fault_kept
      | with_reducible apply State.outputFault_kept
      | with_reducible apply State.feedbackEdge_kept
      | with_reducible apply State.fieldMajSample_kept
      | with_reducible apply Kept.ite
      | split
      | with_reducible refine Kept.mk_same ?_)
  try clear_value s1
  have k_s2 : Kept s s2 := by
    unfold s2
    try dsimp only
    repeat' (first
      | with_reducible assumption
      | with_reducible exact Kept.refl _
      | with_reducible apply State.modPoint_kept
      | with_reducible apply State.withdrawFault_kept
      | with_reducible apply State.notePoint_kept
      | with_reducible apply State.fault_kept
      | with_reducible apply State.outputFault_kept
      | with_reducible apply State.feedbackEdge_kept
      | with_reducible apply State.fieldMajSample_kept
      | with_reducible apply Kept.ite
      | split
      | with_reducible refine Kept.mk_same ?_)
  try clear_value s2
  have k_s3 : Kept s s3 := by
    unfold s3
    try dsimp only
    repeat' (first
      | with_reducible assumption
      | with_reducible exact Kept.refl _
      | with_reducible apply State.modPoint_kept
      | with_reducible apply State.withdrawFault_kept
      | with_reducible apply State.notePoint_kept
      | with_reducible apply State.fault_kept
      | with_reducible apply State.outputFault_kept
      | with_reducible apply State.feedbackEdge_kept
      | with_reducible apply State.fieldMajSample_kept
      | with_reducible apply Kept.ite
      | split
      | with_reducible refine Kept.mk_same ?_)
  try clear_value s3
  have k_s4 : Kept s s4 := by
    unfold s4
    try dsimp only
    repeat' (first
      | with_reducible assumption
      | with_reducible exact Kept.refl _
      | with_reducible apply State.modPoint_kept
      | with_reducible apply State.withdrawFault_kept
      | with_reducible apply State.notePoint_kept
      | with_reducible apply State.fault_kept
      | with_reducible apply State.outputFault_kept
      | with_reducible apply State.feedbackEdge_kept
      | with_reducible apply State.fieldMajSample_kept
      | with_reducible apply Kept.ite
      | split
      | with_reducible refine Kept.mk_same ?_)
  try clear_value s4
  have k_s5 : Kept s s5 := by
    unfold s5
    try dsimp only
    repeat' (first
      | with_reducible assumption
      | with_reducible exact Kept.refl _
      | with_reducible apply State.modPoint_kept
      | with_reducible apply State.withdrawFault_kept
      | with_reducible apply State.notePoint_kept
      | with_reducible apply State.fault_kept
      | with_reducible apply State.outputFault_kept
      | with_reducible apply State.feedbackEdge_kept
      | with_reducible apply State.fieldMajSample_kept
      | with_reducible apply Kept.ite
      | split
      | with_reducible refine Kept.mk_same ?_)
  try clear_value s5
  have k_s6 : Kept s s6 := by
    unfold s6
    try dsimp only
    repeat' (first
      | with_reducible assumption
      | with_reducible exact Kept.refl _
      | with_reducible apply State.modPoint_kept
      | with_reducible apply State.withdrawFault_kept
      | with_reducible apply State.notePoint_kept
      | with_reducible apply State.fault_kept
      | with_reducible apply State.outputFault_kept
      | with_reducible apply State.feedbackEdge_kept
      | with_reducible apply State.fieldMajSample_kept
      | with_reducible apply Kept.ite
      | split
      | with_reducible refine Kept.mk_same ?_)
  try clear_value s6
  have k_s6_1 : Kept s s6_1 := by
    unfold s6_1
    try dsimp only
    repeat' (first
      | with_reducible assumption
      | with_reducible exact Kept.refl _
      | with_reducible apply State.modPoint_kept
      | with_reducible apply State.withdrawFault_kept
      | with_reducible apply State.notePoint_kept
      | with_reducible apply State.fault_kept
      | with_reducible apply State.outputFault_kept
      | with_reducible apply State.feedbackEdge_kept
      | with_reducible apply State.fieldMajSample_kept
      | with_reducible apply Kept.ite
      | split
      | with_reducible refine Kept.mk_same ?_)
  try clear_value s6_1
  have k_s7 : Kept s s7 := by
    unfold s7
    try dsimp only
    repeat' (first
      | with_reducible assumption
      | with_reducible exact Kept.refl _
      | with_reducible apply State.modPoint_kept
      | with_reducible apply State.withdrawFault_kept
      | with_reducible apply State.notePoint_kept
      | with_reducible apply State.fault_kept
      | with_reducible apply State.outputFault_kept
      | with_reducible apply State.feedbackEdge_kept
      | with_reducible apply State.fieldMajSample_kept
      | with_reducible apply Kept.ite
      | split
      | with_reducible refine Kept.mk_same ?_)
  try clear_value s7
  try dsimp only
  repeat' (first
    | with_reducible assumption
    | with_reducible exact Kept.refl _
    | with_reducible apply State.modPoint_kept
    | with_reducible apply State.withdrawFault_kept
    | with_reducible apply State.notePoint_kept
    | with_reducible apply State.fault_kept
    | with_reducible apply State.outputFault_kept
    | with_reducible apply State.feedbackEdge_kept
    | with_reducible apply State.fieldMajSample_kept
    | with_reducible apply Kept.ite
    | split
    | with_reducible refine Kept.mk_same ?_)
theorem BankState.sentTo_ok (x : BankState) (l : LaneId) (h : BankState.gatesOk x) : BankState.gatesOk (BankState.sentTo x l) := by
  unfold BankState.sentTo
  try dsimp only
  repeat' (first | with_reducible exact h | split | with_reducible refine BankState.gatesOk_same ?_)
theorem State.bankFrame_kept {a : State} (s : State) (l : LaneId) (b : BankId) (w : BankBits) (h0 : Kept a s) : Kept a (State.bankFrame s l b w) := by
  refine h0.trans ?_
  unfold State.bankFrame
  extract_lets B lk diff B1 s1 s2 s3
  have k_s1 : Kept s s1 := by
    unfold s1
    try dsimp only
    repeat' (first
      | with_reducible assumption
      | with_reducible apply FrontEnd.supply_ok
      | with_reducible exact Kept.refl _
      | with_reducible apply State.modLane_kept
      | with_reducible apply State.notePoint_kept
      | with_reducible apply State.fault_kept
      | with_reducible apply State.measLinkFault_kept
      | with_reducible apply State.bankPoint_kept
      | with_reducible apply Kept.each
      | with_reducible apply Kept.ite
      | split
      | intro _
      | with_reducible assumption
      | with_reducible refine LaneOk.mk_same ?_
      | with_reducible refine HubOk.mk_same ?_
      | with_reducible refine FrontEnd.gatesOk_same ?_
      | with_reducible refine BankState.gatesOk_same ?_
      | with_reducible refine Kept.mk_same ?_)
  try clear_value s1
  have k_s2 : Kept s s2 := by
    unfold s2
    try dsimp only
    repeat' (first
      | with_reducible assumption
      | with_reducible apply FrontEnd.supply_ok
      | with_reducible exact Kept.refl _
      | with_reducible apply State.modLane_kept
      | with_reducible apply State.notePoint_kept
      | with_reducible apply State.fault_kept
      | with_reducible apply State.measLinkFault_kept
      | with_reducible apply State.bankPoint_kept
      | with_reducible apply Kept.each
      | with_reducible apply Kept.ite
      | split
      | intro _
      | with_reducible assumption
      | with_reducible refine LaneOk.mk_same ?_
      | with_reducible refine HubOk.mk_same ?_
      | with_reducible refine FrontEnd.gatesOk_same ?_
      | with_reducible refine BankState.gatesOk_same ?_
      | with_reducible refine Kept.mk_same ?_)
  try clear_value s2
  have k_s3 : Kept s s3 := by
    unfold s3
    try dsimp only
    repeat' (first
      | with_reducible assumption
      | with_reducible apply FrontEnd.supply_ok
      | with_reducible exact Kept.refl _
      | with_reducible apply State.modLane_kept
      | with_reducible apply State.notePoint_kept
      | with_reducible apply State.fault_kept
      | with_reducible apply State.measLinkFault_kept
      | with_reducible apply State.bankPoint_kept
      | with_reducible apply Kept.each
      | with_reducible apply Kept.ite
      | split
      | intro _
      | with_reducible assumption
      | with_reducible refine LaneOk.mk_same ?_
      | with_reducible refine HubOk.mk_same ?_
      | with_reducible refine FrontEnd.gatesOk_same ?_
      | with_reducible refine BankState.gatesOk_same ?_
      | with_reducible refine Kept.mk_same ?_)
  try clear_value s3
  try dsimp only
  repeat' (first
    | with_reducible assumption
    | with_reducible apply FrontEnd.supply_ok
    | with_reducible exact Kept.refl _
    | with_reducible apply State.modLane_kept
    | with_reducible apply State.notePoint_kept
    | with_reducible apply State.fault_kept
    | with_reducible apply State.measLinkFault_kept
    | with_reducible apply State.bankPoint_kept
    | with_reducible apply Kept.each
    | with_reducible apply Kept.ite
    | split
    | intro _
    | with_reducible assumption
    | with_reducible refine LaneOk.mk_same ?_
    | with_reducible refine HubOk.mk_same ?_
    | with_reducible refine FrontEnd.gatesOk_same ?_
    | with_reducible refine BankState.gatesOk_same ?_
    | with_reducible refine Kept.mk_same ?_)
theorem State.bankSample_kept {a : State} (s : State) (l : LaneId) (b : BankId) (w : BankBits) (h0 : Kept a s) : Kept a (State.bankSample s l b w) := by
  refine h0.trans ?_
  unfold State.bankSample
  extract_lets B lk s1
  have k_s1 : Kept s s1 := by
    unfold s1
    try dsimp only
    repeat' (first
      | with_reducible assumption
      | with_reducible exact Kept.refl _
      | with_reducible apply State.modLane_kept
      | with_reducible apply State.notePoint_kept
      | with_reducible apply State.measLinkFault_kept
      | with_reducible apply State.bankFrame_kept
      | with_reducible apply Kept.each
      | with_reducible apply Kept.ite
      | split
      | intro _
      | with_reducible assumption
      | with_reducible refine LaneOk.mk_same ?_
      | with_reducible refine HubOk.mk_same ?_
      | with_reducible refine FrontEnd.gatesOk_same ?_
      | with_reducible refine BankState.gatesOk_same ?_
      | with_reducible refine Kept.mk_same ?_)
  try clear_value s1
  try dsimp only
  repeat' (first
    | with_reducible assumption
    | with_reducible exact Kept.refl _
    | with_reducible apply State.modLane_kept
    | with_reducible apply State.notePoint_kept
    | with_reducible apply State.measLinkFault_kept
    | with_reducible apply State.bankFrame_kept
    | with_reducible apply Kept.each
    | with_reducible apply Kept.ite
    | split
    | intro _
    | with_reducible assumption
    | with_reducible refine LaneOk.mk_same ?_
    | with_reducible refine HubOk.mk_same ?_
    | with_reducible refine FrontEnd.gatesOk_same ?_
    | with_reducible refine BankState.gatesOk_same ?_
    | with_reducible refine Kept.mk_same ?_)
theorem execBankSampleFrame_kept (l : LaneId) (b : BankId) (rx : RxBank) (s : State) : ∃ s1, execBankSampleFrame l b rx s = .next s1 ∧ Kept s s1 := by
  refine ⟨_, rfl, ?_⟩
  try dsimp only
  repeat' (first
    | with_reducible apply BankState.sentTo_ok
    | with_reducible apply FrontEnd.supply_ok
    | with_reducible exact Kept.refl _
    | with_reducible apply State.modBank_kept
    | with_reducible apply State.bankSample_kept
    | with_reducible apply Kept.ite
    | split
    | intro _)
theorem BankState.trip_ok (b : BankState) (k : PosMask) (thermal : Bool) (h : BankState.gatesOk b) : BankState.gatesOk (BankState.trip b k thermal) := by
  unfold BankState.trip BankState.gatesOk
  dsimp only
  refine ⟨?_, fun h1 => by rw [h.2 h1]; simp⟩
  have e := h.1
  revert e
  generalize b.conducting = x
  generalize b.ol = y
  intro e
  ext i hi
  have e1 := congrArg (fun b : BitVec 12 => b[i]) e
  simp at e1 ⊢
  intro hx h1
  simp [e1 hx, h1]
theorem BankState.loseSupply_ok (b : BankState) (h : BankState.gatesOk b) : BankState.gatesOk (BankState.loseSupply b) := by
  unfold BankState.loseSupply BankState.gatesOk
  simp
theorem State.overload_kept {a : State} (s : State) (p : Point) (thermal : Bool) (h0 : Kept a s) : Kept a (State.overload s p thermal) := by
  refine h0.trans ?_
  unfold State.overload
  try dsimp only
  repeat' (first
    | with_reducible apply BankState.trip_ok
    | with_reducible apply FrontEnd.trip_ok
    | with_reducible exact Kept.refl _
    | with_reducible apply State.modBank_kept
    | intro _)
theorem execOutputOverload_kept (p : Point) (s : State) : ∃ s1, execOutputOverload p s = .next s1 ∧ Kept s s1 := by
  refine ⟨_, rfl, ?_⟩
  try dsimp only
  repeat' (first
    | with_reducible exact Kept.refl _
    | with_reducible apply State.overload_kept)
theorem execOutputThermalShutdown_kept (p : Point) (s : State) : ∃ s1, execOutputThermalShutdown p s = .next s1 ∧ Kept s s1 := by
  refine ⟨_, rfl, ?_⟩
  try dsimp only
  repeat' (first
    | with_reducible exact Kept.refl _
    | with_reducible apply State.overload_kept)
theorem State.ptOverlay_kept {a : State} (s : State) (ps : List Point) (off : Bool) (h0 : Kept a s) : Kept a (State.ptOverlay s ps off) := by
  refine h0.trans ?_
  unfold State.ptOverlay
  try dsimp only
  repeat' (first
    | with_reducible exact Kept.refl _
    | with_reducible apply State.modLanes_kept
    | with_reducible apply Kept.ite
    | split
    | intro _
    | with_reducible assumption
    | with_reducible refine LaneOk.mk_same ?_)
theorem State.abandonFieldTest_kept {a : State} (s : State) (b : BankId) (h0 : Kept a s) : Kept a (State.abandonFieldTest s b) := by
  refine h0.trans ?_
  unfold State.abandonFieldTest
  try dsimp only
  repeat' (first
    | with_reducible exact Kept.refl _
    | with_reducible apply State.ptOverlay_kept
    | with_reducible apply Kept.ite
    | split
    | with_reducible refine Kept.mk_same ?_)
theorem State.resumeFieldTests_kept {a : State} (s : State) (h0 : Kept a s) : Kept a (State.resumeFieldTests s) := by
  refine h0.trans ?_
  unfold State.resumeFieldTests
  try dsimp only
  repeat' (first
    | with_reducible exact Kept.refl _
    | with_reducible apply State.modPtSched_kept
    | with_reducible apply Kept.each
    | with_reducible apply Kept.ite
    | split
    | intro _
    | with_reducible refine Kept.mk_same ?_)
theorem State.feedbacksFrom_kept {a : State} (s was : State) (b : BankId) (h0 : Kept a s) : Kept a (State.feedbacksFrom s was b) := by
  refine h0.trans ?_
  unfold State.feedbacksFrom
  try dsimp only
  repeat' (first
    | with_reducible exact Kept.refl _
    | with_reducible apply State.feedbackEdge_kept
    | with_reducible apply Kept.each
    | with_reducible apply Kept.ite
    | split
    | intro _)
theorem execBankSupplyCondition_kept (b : BankId) (k : SupplyEdge) (s : State) : ∃ s1, execBankSupplyCondition b k s = .next s1 ∧ Kept s s1 := by
  refine ⟨_, rfl, ?_⟩
  try dsimp only
  repeat' (first
    | with_reducible apply BankState.loseSupply_ok
    | with_reducible exact Kept.refl _
    | with_reducible apply State.modLanes_kept
    | with_reducible apply State.modBank_kept
    | with_reducible apply State.note_kept
    | with_reducible apply State.withdrawFault_kept
    | with_reducible apply State.fault_kept
    | with_reducible apply State.abandonFieldTest_kept
    | with_reducible apply State.resumeFieldTests_kept
    | with_reducible apply State.feedbacksFrom_kept
    | with_reducible apply Kept.ite
    | split
    | intro _
    | with_reducible assumption
    | with_reducible refine LaneOk.mk_same ?_
    | with_reducible refine HubOk.mk_same ?_
    | with_reducible refine FrontEnd.gatesOk_same ?_
    | with_reducible refine BankState.gatesOk_same ?_
    | with_reducible refine Kept.mk_same ?_)
theorem execFieldOffTestStart_kept (p : Point) (s : State) : ∃ s1, execFieldOffTestStart p s = .next s1 ∧ Kept s s1 := by
  refine ⟨_, rfl, ?_⟩
  try dsimp only
  repeat' (first
    | with_reducible exact Kept.refl _
    | with_reducible apply State.ptOverlay_kept
    | with_reducible apply Kept.ite
    | split
    | with_reducible refine Kept.mk_same ?_)
theorem State.feedFound_kept {a : State} (s : State) (p : Point) (h0 : Kept a s) : Kept a (State.feedFound s p) := by
  refine h0.trans ?_
  unfold State.feedFound
  try dsimp only
  repeat' (first
    | with_reducible exact Kept.refl _
    | with_reducible apply State.fault_kept
    | with_reducible apply State.modLanes_kept
    | with_reducible apply Kept.each
    | with_reducible apply Kept.ite
    | split
    | intro _
    | with_reducible assumption
    | with_reducible refine LaneOk.mk_same ?_)
theorem State.nextPair_kept {a : State} (s : State) (p : Point) (qs : List Point) (h0 : Kept a s) : Kept a (State.nextPair s p qs) := by
  refine h0.trans ?_
  unfold State.nextPair
  split
  · exact Kept.mk_same (Kept.refl _)
  · exact State.feedFound_kept _ _ (Kept.refl _)
theorem State.pairsApart_kept {a : State} (s : State) (p : Point) (h0 : Kept a s) : Kept a (State.pairsApart s p) := by
  refine h0.trans ?_
  unfold State.pairsApart
  extract_lets names s1
  have k_s1 : Kept s s1 := Kept.each (fun _ _ => State.withdrawFault_kept _ _ _ _ (Kept.refl _)) (Kept.refl _)
  clear_value s1
  exact State.modLanes_kept _ _ (fun l L h => LaneOk.mk_same h) k_s1
theorem State.fieldJudge_kept {a : State} (s : State) (t : FieldTestRun) (h0 : Kept a s) : Kept a (State.fieldJudge s t) := by
  refine h0.trans ?_
  unfold State.fieldJudge
  extract_lets s0 src s1 anyRb
  have k_s0 : Kept s s0 := by
    unfold s0
    try dsimp only
    repeat' (first
      | with_reducible assumption
      | with_reducible exact Kept.refl _
      | with_reducible apply State.modLanes_kept
      | with_reducible apply State.fault_kept
      | with_reducible apply State.pointProved_kept
      | with_reducible apply State.outputFault_kept
      | with_reducible apply State.ptOverlay_kept)
  try clear_value s0
  have k_s1 : Kept s s1 := by
    unfold s1
    try dsimp only
    repeat' (first
      | with_reducible assumption
      | with_reducible exact Kept.refl _
      | with_reducible apply State.modLanes_kept
      | with_reducible apply State.fault_kept
      | with_reducible apply State.pointProved_kept
      | with_reducible apply State.outputFault_kept
      | with_reducible apply State.ptOverlay_kept
      | with_reducible apply State.nextPair_kept
      | with_reducible apply State.pairsApart_kept
      | with_reducible apply Kept.ite
      | split
      | intro _
      | with_reducible assumption
      | with_reducible refine LaneOk.mk_same ?_
      | with_reducible refine HubOk.mk_same ?_
      | with_reducible refine FrontEnd.gatesOk_same ?_
      | with_reducible refine BankState.gatesOk_same ?_
      | with_reducible refine Kept.mk_same ?_)
  try clear_value s1
  try dsimp only
  repeat' (first
    | with_reducible assumption
    | with_reducible exact Kept.refl _
    | with_reducible apply State.modLanes_kept
    | with_reducible apply State.fault_kept
    | with_reducible apply State.pointProved_kept
    | with_reducible apply State.outputFault_kept
    | with_reducible apply State.ptOverlay_kept
    | with_reducible apply State.nextPair_kept
    | with_reducible apply State.pairsApart_kept
    | with_reducible apply Kept.ite
    | split
    | intro _
    | with_reducible assumption
    | with_reducible refine LaneOk.mk_same ?_)
theorem State.pulsePair_kept {a : State} (s : State) (t : FieldTestRun) (on : PointMask) (h0 : Kept a s) : Kept a (State.pulsePair s t on) := by
  refine h0.trans ?_
  unfold State.pulsePair
  try dsimp only
  repeat' (first
    | with_reducible exact Kept.refl _
    | with_reducible apply State.ptOverlay_kept
    | with_reducible apply State.feedFound_kept
    | with_reducible apply Kept.ite
    | split
    | with_reducible refine Kept.mk_same ?_)
theorem execFieldOffTestEnd_kept (p : Point) (s : State) : ∃ s1, execFieldOffTestEnd p s = .next s1 ∧ Kept s s1 := by
  refine ⟨_, rfl, ?_⟩
  try dsimp only
  repeat' (first
    | with_reducible exact Kept.refl _
    | with_reducible apply State.notePoint_kept
    | with_reducible apply State.fieldJudge_kept
    | with_reducible apply Kept.each
    | with_reducible apply Kept.ite
    | split
    | intro _)
theorem State.fieldMajStart_kept {a : State} (s : State) (p : Point) (tl : LaneId) (h0 : Kept a s) : Kept a (State.fieldMajStart s p tl) := by
  refine h0.trans ?_
  unfold State.fieldMajStart
  extract_lets src s1 s2
  have k_s1 : Kept s s1 := by
    unfold s1
    try dsimp only
    repeat' (first
      | with_reducible assumption
      | with_reducible exact Kept.refl _
      | with_reducible apply State.modLane_kept
      | with_reducible apply State.modPtSched_kept
      | intro _
      | with_reducible assumption
      | with_reducible refine LaneOk.mk_same ?_
      | with_reducible refine HubOk.mk_same ?_
      | with_reducible refine FrontEnd.gatesOk_same ?_
      | with_reducible refine BankState.gatesOk_same ?_
      | with_reducible refine Kept.mk_same ?_)
  try clear_value s1
  have k_s2 : Kept s s2 := by
    unfold s2
    try dsimp only
    repeat' (first
      | with_reducible assumption
      | with_reducible exact Kept.refl _
      | with_reducible apply State.modLane_kept
      | with_reducible apply State.modPtSched_kept)
  try clear_value s2
  try dsimp only
  repeat' (first
    | with_reducible assumption
    | with_reducible exact Kept.refl _
    | with_reducible apply State.modLane_kept
    | with_reducible apply State.modPtSched_kept
    | intro _
    | with_reducible assumption
    | with_reducible refine LaneOk.mk_same ?_)
theorem execFieldMajorityTest_kept (p : Point) (s : State) : ∃ s1, execFieldMajorityTest p s = .next s1 ∧ Kept s s1 := by
  refine ⟨_, rfl, ?_⟩
  try dsimp only
  repeat' (first
    | with_reducible exact Kept.refl _
    | with_reducible apply State.fieldMajEnds_kept
    | with_reducible apply State.fieldMajStart_kept
    | with_reducible apply Kept.ite
    | split)
theorem execDiscrepancySample_kept (l : LaneId) (p : Point) (s : State) : ∃ s1, execDiscrepancySample l p s = .next s1 ∧ Kept s s1 := by
  refine ⟨_, rfl, ?_⟩
  try dsimp only
  repeat' (first
    | with_reducible exact Kept.refl _
    | with_reducible apply State.modLane_kept
    | with_reducible apply State.withdrawFault_kept
    | with_reducible apply State.notePoint_kept
    | with_reducible apply State.fault_kept
    | with_reducible apply Kept.ite
    | split
    | intro _
    | with_reducible assumption
    | with_reducible refine LaneOk.mk_same ?_)
theorem execContactorJudge_kept (g : GroupId) (k : Contactor) (s : State) : ∃ s1, execContactorJudge g k s = .next s1 ∧ Kept s s1 := by
  refine ⟨_, rfl, ?_⟩
  try dsimp only
  repeat' (first
    | with_reducible exact Kept.refl _
    | with_reducible apply State.modGroup_kept
    | with_reducible apply State.judgeContactor_kept
    | with_reducible apply Kept.ite
    | split)

end Sys2Proof.Machine
end

