-- ==== Sys2Proof/Laws/KeptSamples.lean ====
section
/-!
SUPPORT. What the operations and commands of Machine/Samples.lean keep.
-/

namespace Sys2Proof.Machine

theorem FrontEnd.overload_ok (f : FrontEnd) (m : Modulator) (now : Nat) (h : FrontEnd.gatesOk f) : FrontEnd.gatesOk (FrontEnd.overload f m now) := by
  unfold FrontEnd.overload
  try dsimp only
  repeat' (first | with_reducible exact h | split | with_reducible refine FrontEnd.gatesOk_same ?_)
theorem FrontEnd.overloadEnds_ok (f : FrontEnd) (m : Modulator) (now : Nat) (h : FrontEnd.gatesOk f) : FrontEnd.gatesOk (FrontEnd.overloadEnds f m now) := by
  unfold FrontEnd.overloadEnds
  try dsimp only
  repeat' (first | with_reducible exact h | with_reducible apply FrontEnd.stop_ok | with_reducible apply BankState.stop_ok | split | with_reducible refine FrontEnd.gatesOk_same ?_)

end Sys2Proof.Machine
end

