-- ==== Sys2Proof/Laws/KeptProving.lean ====
section
/-!
SUPPORT. What the operations and commands of Machine/Proving.lean keep.
-/

namespace Sys2Proof.Machine

theorem State.litJudge_kept {a : State} (s : State) (l : LaneId) (c : Chan) (x : Judged) (h0 : Kept a s) : Kept a (State.litJudge s l c x) := by
  refine h0.trans ?_
  unfold State.litJudge
  extract_lets p a bad w run s1
  have k_s1 : Kept s s1 := by
    unfold s1
    try dsimp only
    repeat' (first
      | with_reducible assumption
      | with_reducible exact Kept.refl _
      | with_reducible apply State.modProv_kept)
  try clear_value s1
  try dsimp only
  repeat' (first
    | with_reducible assumption
    | with_reducible exact Kept.refl _
    | with_reducible apply State.modProv_kept
    | with_reducible apply State.noteChan_kept
    | with_reducible apply State.modSched_kept
    | with_reducible apply State.failDark_kept
    | with_reducible apply Kept.ite)
theorem State.switchOnWear_kept {a : State} (s : State) (l : LaneId) (c : Chan) (x : Judged) (h0 : Kept a s) : Kept a (State.switchOnWear s l c x) := by
  refine h0.trans ?_
  unfold State.switchOnWear
  try dsimp only
  repeat' (first
    | with_reducible exact Kept.refl _
    | with_reducible apply State.modLamp_kept
    | with_reducible apply Kept.ite
    | split
    | with_reducible refine Kept.mk_same ?_)
theorem State.inrush_kept {a : State} (s : State) (l : LaneId) (c : Chan) (x : Judged) (h0 : Kept a s) : Kept a (State.inrush s l c x) := by
  refine h0.trans ?_
  unfold State.inrush
  extract_lets p a late ap hi over_ s1
  have k_s1 : Kept s s1 := by
    unfold s1
    try dsimp only
    repeat' (first
      | with_reducible assumption
      | with_reducible exact Kept.refl _
      | with_reducible apply State.modLamp_kept
      | with_reducible apply State.modProv_kept
      | with_reducible apply State.note_kept
      | with_reducible apply Kept.ite
      | split
      | with_reducible refine Kept.mk_same ?_)
  try clear_value s1
  try dsimp only
  repeat' (first
    | with_reducible assumption
    | with_reducible exact Kept.refl _
    | with_reducible apply State.modLamp_kept
    | with_reducible apply State.modProv_kept
    | with_reducible apply State.note_kept
    | with_reducible apply Kept.ite
    | split
    | with_reducible refine Kept.mk_same ?_)
theorem State.litSample_kept {a : State} (s : State) (l : LaneId) (c : Chan) (x : Judged) (h0 : Kept a s) : Kept a (State.litSample s l c x) := by
  refine h0.trans ?_
  unfold State.litSample
  extract_lets p a h s0 s1 late duty
  have k_s0 : Kept s s0 := by
    unfold s0
    try dsimp only
    repeat' (first
      | with_reducible assumption
      | with_reducible exact Kept.refl _
      | with_reducible apply State.modProv_kept
      | with_reducible apply State.litJudge_kept
      | with_reducible apply State.inrush_kept
      | with_reducible apply Kept.ite
      | split
      | with_reducible refine Kept.mk_same ?_)
  try clear_value s0
  have k_s1 : Kept s s1 := by
    unfold s1
    try dsimp only
    repeat' (first
      | with_reducible assumption
      | with_reducible exact Kept.refl _
      | with_reducible apply State.modProv_kept
      | with_reducible apply State.litJudge_kept
      | with_reducible apply State.inrush_kept
      | with_reducible apply Kept.ite
      | split
      | with_reducible refine Kept.mk_same ?_)
  try clear_value s1
  try dsimp only
  repeat' (first
    | with_reducible assumption
    | with_reducible exact Kept.refl _
    | with_reducible apply State.modProv_kept
    | with_reducible apply State.litJudge_kept
    | with_reducible apply State.inrush_kept
    | with_reducible apply Kept.ite
    | split
    | with_reducible refine Kept.mk_same ?_)
theorem State.darkJudge_kept {a : State} (s : State) (l : LaneId) (c : Chan) (x : Judged) (h0 : Kept a s) : Kept a (State.darkJudge s l c x) := by
  refine h0.trans ?_
  unfold State.darkJudge
  extract_lets p a w s1
  have k_s1 : Kept s s1 := by
    unfold s1
    try dsimp only
    repeat' (first
      | with_reducible assumption
      | with_reducible exact Kept.refl _
      | with_reducible apply State.modProv_kept)
  try clear_value s1
  try dsimp only
  repeat' (first
    | with_reducible assumption
    | with_reducible exact Kept.refl _
    | with_reducible apply State.modProv_kept
    | with_reducible apply State.failLit_kept
    | with_reducible apply Kept.ite)
theorem State.decideForeign_kept {a : State} (s : State) (l : LaneId) (c : Chan) (k : Cause) (h0 : Kept a s) : Kept a (State.decideForeign s l c k) := by
  refine h0.trans ?_
  unfold State.decideForeign
  try dsimp only
  repeat' (first
    | with_reducible exact Kept.refl _
    | with_reducible apply State.foreignAt_kept)
theorem State.foreignJudge_kept {a : State} (s : State) (l : LaneId) (c : Chan) (x : Judged) (h0 : Kept a s) : Kept a (State.foreignJudge s l c x) := by
  refine h0.trans ?_
  unfold State.foreignJudge
  extract_lets p a h s1
  have k_s1 : Kept s s1 := by
    unfold s1
    try dsimp only
    repeat' (first
      | with_reducible assumption
      | with_reducible exact Kept.refl _
      | with_reducible apply State.modProv_kept)
  try clear_value s1
  try dsimp only
  repeat' (first
    | with_reducible assumption
    | with_reducible exact Kept.refl _
    | with_reducible apply State.modProv_kept
    | with_reducible apply State.decideForeign_kept
    | with_reducible apply Kept.ite)
theorem State.darkSample_kept {a : State} (s : State) (l : LaneId) (c : Chan) (x : Judged) (h0 : Kept a s) : Kept a (State.darkSample s l c x) := by
  refine h0.trans ?_
  unfold State.darkSample
  extract_lets p a s1
  have k_s1 : Kept s s1 := by
    unfold s1
    try dsimp only
    repeat' (first
      | with_reducible assumption
      | with_reducible exact Kept.refl _
      | with_reducible apply State.darkJudge_kept
      | with_reducible apply State.foreignJudge_kept
      | with_reducible apply Kept.ite
      | split)
  try clear_value s1
  try dsimp only
  repeat' (first
    | with_reducible assumption
    | with_reducible exact Kept.refl _
    | with_reducible apply State.darkJudge_kept
    | with_reducible apply State.foreignJudge_kept
    | with_reducible apply Kept.ite
    | split)
theorem State.vwJudge_kept {a : State} (s : State) (l : LaneId) (c : Chan) (h0 : Kept a s) : Kept a (State.vwJudge s l c) := by
  refine h0.trans ?_
  unfold State.vwJudge
  extract_lets p a h s1
  have k_s1 : Kept s s1 := by
    unfold s1
    try dsimp only
    repeat' (first
      | with_reducible assumption
      | with_reducible exact Kept.refl _
      | with_reducible apply State.modProv_kept)
  try clear_value s1
  try dsimp only
  repeat' (first
    | with_reducible assumption
    | with_reducible exact Kept.refl _
    | with_reducible apply State.modProv_kept
    | with_reducible apply State.decideForeign_kept
    | with_reducible apply Kept.ite)
theorem State.endMajority_kept {a : State} (s : State) (r : RunningTest) (h0 : Kept a s) : Kept a (State.endMajority s r) := by
  refine h0.trans ?_
  unfold State.endMajority
  try dsimp only
  repeat' (first
    | with_reducible exact Kept.refl _
    | with_reducible apply State.modLane_kept
    | intro _
    | with_reducible assumption
    | with_reducible refine LaneOk.mk_same ?_)
theorem State.testFails_kept {a : State} (s : State) (lanes : LaneMask) (r : RunningTest) (k : Cause) (h0 : Kept a s) : Kept a (State.testFails s lanes r k) := by
  refine h0.trans ?_
  unfold State.testFails
  extract_lets s1
  have k_s1 : Kept s s1 := by
    unfold s1
    try dsimp only
    repeat' (first
      | with_reducible assumption
      | with_reducible exact Kept.refl _
      | with_reducible apply State.modGroup_kept
      | with_reducible apply State.switchFault_kept)
  try clear_value s1
  try dsimp only
  repeat' (first
    | with_reducible assumption
    | with_reducible exact Kept.refl _
    | with_reducible apply State.modGroup_kept
    | with_reducible apply State.switchFault_kept
    | with_reducible apply State.endMajority_kept
    | with_reducible apply Kept.ite)
theorem State.withdrawOn_kept {a : State} (s : State) (lanes : LaneMask) (c : Chan) (h0 : Kept a s) : Kept a (State.withdrawOn s lanes c) := by
  refine h0.trans ?_
  unfold State.withdrawOn
  try dsimp only
  repeat' (first
    | with_reducible exact Kept.refl _
    | with_reducible apply State.modLanes_kept
    | with_reducible apply Kept.ite
    | split
    | intro _
    | with_reducible assumption
    | with_reducible refine LaneOk.mk_same ?_)
theorem State.transDone_kept {a : State} (s : State) (c : Chan) (lanes : LaneMask) (fail : Option Cause) (h0 : Kept a s) : Kept a (State.transDone s c lanes fail) := by
  refine h0.trans ?_
  unfold State.transDone
  extract_lets s1
  have k_s1 : Kept s s1 := by
    unfold s1
    try dsimp only
    repeat' (first
      | with_reducible assumption
      | with_reducible exact Kept.refl _
      | with_reducible apply State.modSched_kept
      | with_reducible apply State.chanProved_kept)
  try clear_value s1
  try dsimp only
  repeat' (first
    | with_reducible assumption
    | with_reducible exact Kept.refl _
    | with_reducible apply State.modSched_kept
    | with_reducible apply State.chanProved_kept
    | with_reducible apply State.switchFault_kept
    | with_reducible apply State.withdrawOn_kept
    | split)
theorem State.transSample_kept {a : State} (s : State) (l : LaneId) (c : Chan) (x : Judged) (h0 : Kept a s) : Kept a (State.transSample s l c x) := by
  refine h0.trans ?_
  unfold State.transSample
  try dsimp only
  repeat' (first
    | with_reducible exact Kept.refl _
    | with_reducible apply State.modSched_kept
    | with_reducible apply State.transDone_kept
    | with_reducible apply Kept.ite
    | split)
theorem State.runSample_kept {a : State} (s : State) (l : LaneId) (c : Chan) (x : Judged) (h0 : Kept a s) : Kept a (State.runSample s l c x) := by
  refine h0.trans ?_
  unfold State.runSample
  try dsimp only
  repeat' (first
    | with_reducible exact Kept.refl _
    | with_reducible apply State.modGroup_kept
    | with_reducible apply State.testFails_kept
    | with_reducible apply Kept.ite
    | split)
theorem State.testSample_kept {a : State} (s : State) (l : LaneId) (c : Chan) (x : Judged) (h0 : Kept a s) : Kept a (State.testSample s l c x) := by
  refine h0.trans ?_
  unfold State.testSample
  try dsimp only
  repeat' (first
    | with_reducible exact Kept.refl _
    | with_reducible apply State.transSample_kept
    | with_reducible apply State.runSample_kept
    | with_reducible apply Kept.ite
    | split)
theorem State.gateSense_kept {a : State} (s : State) (l : LaneId) (g : GroupId) (gs : BitVec 8) (h0 : Kept a s) : Kept a (State.gateSense s l g gs) := by
  refine h0.trans ?_
  unfold State.gateSense
  extract_lets s1
  have k_s1 : Kept s s1 := by
    unfold s1
    try dsimp only
    repeat' (first
      | with_reducible assumption
      | with_reducible exact Kept.refl _
      | with_reducible apply State.modGroup_kept
      | with_reducible apply State.modSched_kept
      | with_reducible apply State.testFails_kept
      | with_reducible apply Kept.each
      | with_reducible apply Kept.ite
      | split)
  try clear_value s1
  try dsimp only
  repeat' (first
    | with_reducible assumption
    | with_reducible exact Kept.refl _
    | with_reducible apply State.modGroup_kept
    | with_reducible apply State.modSched_kept
    | with_reducible apply State.testFails_kept
    | with_reducible apply Kept.each
    | with_reducible apply Kept.ite
    | split
    | intro _)
theorem State.lateDark_kept {a : State} (s : State) (l : LaneId) (c : Chan) (x : Judged) (h0 : Kept a s) : Kept a (State.lateDark s l c x) := by
  refine h0.trans ?_
  unfold State.lateDark
  extract_lets p a w s1 s2 h onset s3
  have k_s1 : Kept s s1 := by
    unfold s1
    try dsimp only
    repeat' (first
      | with_reducible assumption
      | with_reducible exact Kept.refl _
      | with_reducible apply State.modProv_kept
      | with_reducible apply State.failLit_kept
      | with_reducible apply State.foreignAt_kept
      | with_reducible apply Kept.ite
      | split
      | with_reducible refine Kept.mk_same ?_)
  try clear_value s1
  have k_s2 : Kept s s2 := by
    unfold s2
    try dsimp only
    repeat' (first
      | with_reducible assumption
      | with_reducible exact Kept.refl _
      | with_reducible apply State.modProv_kept
      | with_reducible apply State.failLit_kept
      | with_reducible apply State.foreignAt_kept
      | with_reducible apply Kept.ite
      | split
      | with_reducible refine Kept.mk_same ?_)
  try clear_value s2
  have k_s3 : Kept s s3 := by
    unfold s3
    try dsimp only
    repeat' (first
      | with_reducible assumption
      | with_reducible exact Kept.refl _
      | with_reducible apply State.modProv_kept
      | with_reducible apply State.failLit_kept
      | with_reducible apply State.foreignAt_kept
      | with_reducible apply Kept.ite
      | split
      | with_reducible refine Kept.mk_same ?_)
  try clear_value s3
  try dsimp only
  repeat' (first
    | with_reducible assumption
    | with_reducible exact Kept.refl _
    | with_reducible apply State.modProv_kept
    | with_reducible apply State.failLit_kept
    | with_reducible apply State.foreignAt_kept
    | with_reducible apply Kept.ite
    | split
    | with_reducible refine Kept.mk_same ?_)
theorem State.lateLit_kept {a : State} (s : State) (l : LaneId) (c : Chan) (x : Judged) (h0 : Kept a s) : Kept a (State.lateLit s l c x) := by
  refine h0.trans ?_
  unfold State.lateLit
  extract_lets p a s0 bad w run s1
  have k_s0 : Kept s s0 := by
    unfold s0
    try dsimp only
    repeat' (first
      | with_reducible assumption
      | with_reducible exact Kept.refl _
      | with_reducible apply State.modProv_kept
      | with_reducible apply State.failDark_kept
      | with_reducible apply State.inrush_kept
      | with_reducible apply Kept.ite
      | split
      | with_reducible refine Kept.mk_same ?_)
  try clear_value s0
  have k_s1 : Kept s s1 := by
    unfold s1
    try dsimp only
    repeat' (first
      | with_reducible assumption
      | with_reducible exact Kept.refl _
      | with_reducible apply State.modProv_kept
      | with_reducible apply State.failDark_kept
      | with_reducible apply State.inrush_kept
      | with_reducible apply Kept.ite
      | split
      | with_reducible refine Kept.mk_same ?_)
  try clear_value s1
  try dsimp only
  repeat' (first
    | with_reducible assumption
    | with_reducible exact Kept.refl _
    | with_reducible apply State.modProv_kept
    | with_reducible apply State.failDark_kept
    | with_reducible apply State.inrush_kept
    | with_reducible apply Kept.ite
    | split
    | with_reducible refine Kept.mk_same ?_)
theorem State.judgeSample_kept {a : State} (s : State) (l : LaneId) (c : Chan) (x : Judged) (h0 : Kept a s) : Kept a (State.judgeSample s l c x) := by
  refine h0.trans ?_
  unfold State.judgeSample
  extract_lets s1
  have k_s1 : Kept s s1 := by
    unfold s1
    try dsimp only
    repeat' (first
      | with_reducible assumption
      | with_reducible exact Kept.refl _
      | with_reducible apply State.litSample_kept
      | with_reducible apply State.darkSample_kept
      | with_reducible apply State.testSample_kept)
  try clear_value s1
  try dsimp only
  repeat' (first
    | with_reducible assumption
    | with_reducible exact Kept.refl _
    | with_reducible apply State.litSample_kept
    | with_reducible apply State.darkSample_kept
    | with_reducible apply State.testSample_kept
    | with_reducible apply State.lateDark_kept
    | with_reducible apply State.lateLit_kept
    | with_reducible apply Kept.ite)
theorem State.teachSample_kept {a : State} (s : State) (l : LaneId) (c : Chan) (x : Judged) (h0 : Kept a s) : Kept a (State.teachSample s l c x) := by
  refine h0.trans ?_
  unfold State.teachSample
  try dsimp only
  repeat' (first
    | with_reducible exact Kept.refl _
    | with_reducible apply State.modLane_kept
    | with_reducible apply Kept.ite
    | split
    | intro _
    | with_reducible assumption
    | with_reducible refine LaneOk.mk_same ?_)
theorem State.takeSample_kept {a : State} (s : State) (l : LaneId) (c : Chan) (x : Judged) (h0 : Kept a s) : Kept a (State.takeSample s l c x) := by
  refine h0.trans ?_
  unfold State.takeSample
  extract_lets p s0 s1
  have k_s0 : Kept s s0 := by
    unfold s0
    try dsimp only
    repeat' (first
      | with_reducible assumption
      | with_reducible exact Kept.refl _
      | with_reducible apply State.switchOnWear_kept
      | with_reducible apply State.darkSample_kept
      | with_reducible apply State.testSample_kept
      | with_reducible apply State.judgeSample_kept
      | with_reducible apply State.teachSample_kept
      | with_reducible apply Kept.ite
      | split)
  try clear_value s0
  have k_s1 : Kept s s1 := by
    unfold s1
    try dsimp only
    repeat' (first
      | with_reducible assumption
      | with_reducible exact Kept.refl _
      | with_reducible apply State.switchOnWear_kept
      | with_reducible apply State.darkSample_kept
      | with_reducible apply State.testSample_kept
      | with_reducible apply State.judgeSample_kept
      | with_reducible apply State.teachSample_kept
      | with_reducible apply Kept.ite
      | split)
  try clear_value s1
  try dsimp only
  repeat' (first
    | with_reducible assumption
    | with_reducible exact Kept.refl _
    | with_reducible apply State.switchOnWear_kept
    | with_reducible apply State.darkSample_kept
    | with_reducible apply State.testSample_kept
    | with_reducible apply State.judgeSample_kept
    | with_reducible apply State.teachSample_kept
    | with_reducible apply Kept.ite
    | split)
theorem State.fastSample_kept {a : State} (s : State) (l : LaneId) (c : Chan) (h0 : Kept a s) : Kept a (State.fastSample s l c) := by
  refine h0.trans ?_
  unfold State.fastSample
  try dsimp only
  repeat' (first
    | with_reducible exact Kept.refl _
    | with_reducible apply State.modLane_kept
    | with_reducible apply State.takeSample_kept
    | with_reducible apply Kept.ite
    | split
    | intro _
    | with_reducible assumption
    | with_reducible refine LaneOk.mk_same ?_)
theorem execFastSample_kept (l : LaneId) (c : Chan) (s : State) : ∃ s1, execFastSample l c s = .next s1 ∧ Kept s s1 := by
  refine ⟨_, rfl, ?_⟩
  try dsimp only
  repeat' (first
    | with_reducible exact Kept.refl _
    | with_reducible apply State.fastSample_kept)
theorem execNotProven_kept (l : LaneId) (c : Chan) (s : State) : ∃ s1, execNotProven l c s = .next s1 ∧ Kept s s1 := by
  refine ⟨_, rfl, ?_⟩
  try dsimp only
  repeat' (first
    | with_reducible exact Kept.refl _
    | with_reducible apply State.failDark_kept
    | with_reducible apply Kept.ite)
theorem execRevertEnvelopeJudge_kept (g : GroupId) (s : State) : ∃ s1, execRevertEnvelopeJudge g s = .next s1 ∧ Kept s s1 := by
  refine ⟨_, rfl, ?_⟩
  try dsimp only
  repeat' (first
    | with_reducible exact Kept.refl _
    | with_reducible apply State.trigger_kept
    | with_reducible apply State.reachSafe_kept)

end Sys2Proof.Machine
end

