-- ==== Sys2Proof/Laws/KeptMeasure.lean ====
section
/-!
SUPPORT. What the operations and commands of Machine/Measure.lean keep.
-/

namespace Sys2Proof.Machine

theorem State.sideGood_kept {a : State} (s : State) (l : LaneId) (g : GroupId) (w : SideBits) (h0 : Kept a s) : Kept a (State.sideGood s l g w) := by
  refine h0.trans ?_
  unfold State.sideGood
  extract_lets L B lk diff s1 s2 s3
  have k_s1 : Kept s s1 := by
    unfold s1
    try dsimp only
    repeat' (first
      | with_reducible assumption
      | with_reducible exact Kept.refl _
      | with_reducible apply State.modLane_kept
      | with_reducible apply State.noteChan_kept
      | with_reducible apply State.fault_kept
      | with_reducible apply State.measLinkFault_kept
      | with_reducible apply State.vwJudge_kept
      | with_reducible apply State.gateSense_kept
      | with_reducible apply Kept.each
      | with_reducible apply Kept.ite
      | split
      | intro _
      | with_reducible assumption
      | with_reducible refine LaneOk.mk_same ?_)
  try clear_value s1
  have k_s2 : Kept s s2 := by
    unfold s2
    try dsimp only
    repeat' (first
      | with_reducible assumption
      | with_reducible exact Kept.refl _
      | with_reducible apply State.modLane_kept
      | with_reducible apply State.noteChan_kept
      | with_reducible apply State.fault_kept
      | with_reducible apply State.measLinkFault_kept)
  try clear_value s2
  have k_s3 : Kept s s3 := by
    unfold s3
    try dsimp only
    repeat' (first
      | with_reducible assumption
      | with_reducible exact Kept.refl _
      | with_reducible apply State.modLane_kept
      | with_reducible apply State.noteChan_kept
      | with_reducible apply State.fault_kept
      | with_reducible apply State.measLinkFault_kept
      | with_reducible apply State.vwJudge_kept
      | with_reducible apply State.gateSense_kept
      | with_reducible apply Kept.each
      | with_reducible apply Kept.ite
      | split
      | intro _)
  try clear_value s3
  try dsimp only
  repeat' (first
    | with_reducible assumption
    | with_reducible exact Kept.refl _
    | with_reducible apply State.modLane_kept
    | with_reducible apply State.noteChan_kept
    | with_reducible apply State.fault_kept
    | with_reducible apply State.measLinkFault_kept
    | with_reducible apply State.vwJudge_kept
    | with_reducible apply State.gateSense_kept
    | with_reducible apply Kept.each
    | with_reducible apply Kept.ite
    | split
    | intro _)
theorem State.sideBad_kept {a : State} (s : State) (l : LaneId) (g : GroupId) (h0 : Kept a s) : Kept a (State.sideBad s l g) := by
  refine h0.trans ?_
  unfold State.sideBad
  extract_lets B lk s1
  have k_s1 : Kept s s1 := by
    unfold s1
    try dsimp only
    repeat' (first
      | with_reducible assumption
      | with_reducible exact Kept.refl _
      | with_reducible apply State.modLane_kept
      | with_reducible apply State.noteChan_kept
      | with_reducible apply State.measLinkFault_kept
      | with_reducible apply Kept.each
      | intro _
      | with_reducible assumption
      | with_reducible refine LaneOk.mk_same ?_)
  try clear_value s1
  try dsimp only
  repeat' (first
    | with_reducible assumption
    | with_reducible exact Kept.refl _
    | with_reducible apply State.modLane_kept
    | with_reducible apply State.noteChan_kept
    | with_reducible apply State.measLinkFault_kept
    | with_reducible apply Kept.each
    | intro _)
theorem State.sideCheck_kept {a : State} (s : State) (l : LaneId) (g : GroupId) (ws : List StreamWord) (h0 : Kept a s) : Kept a (State.sideCheck s l g ws) := by
  refine h0.trans ?_
  unfold State.sideCheck
  try dsimp only
  repeat' (first
    | with_reducible exact Kept.refl _
    | with_reducible apply State.sideGood_kept
    | with_reducible apply State.sideBad_kept
    | with_reducible apply Kept.ite
    | split)
theorem State.capTake_kept {a : State} (s : State) (l : LaneId) (g : GroupId) (n : Nat) (t : Nat) (h0 : Kept a s) : Kept a (State.capTake s l g n t) := by
  refine h0.trans ?_
  unfold State.capTake
  try dsimp only
  repeat' (first
    | with_reducible exact Kept.refl _
    | with_reducible apply Kept.ite
    | split
    | with_reducible refine Kept.mk_same ?_)
theorem State.takeMods_kept {a : State} (s : State) (l : LaneId) (g : GroupId) (ms : List ModBits) (h0 : Kept a s) : Kept a (State.takeMods s l g ms) := by
  refine h0.trans ?_
  unfold State.takeMods
  try dsimp only
  repeat' (first
    | with_reducible exact Kept.refl _
    | with_reducible apply State.modLane_kept
    | with_reducible apply State.capTake_kept
    | with_reducible apply Kept.ite
    | split
    | intro _
    | with_reducible assumption
    | with_reducible refine LaneOk.mk_same ?_
    | with_reducible refine HubOk.mk_same ?_
    | with_reducible refine FrontEnd.gatesOk_same ?_
    | with_reducible refine BankState.gatesOk_same ?_
    | with_reducible refine Kept.mk_same ?_)
theorem execSideFrame_kept (l : LaneId) (g : GroupId) (rx : RxStream) (s : State) : ∃ s1, execSideFrame l g rx s = .next s1 ∧ Kept s s1 := by
  refine ⟨_, rfl, ?_⟩
  try dsimp only
  repeat' (first
    | with_reducible exact Kept.refl _
    | with_reducible apply State.sideCheck_kept
    | with_reducible apply State.takeMods_kept
    | with_reducible apply Kept.ite
    | split)
theorem execModulatorOverload_kept (g : GroupId) (m : Modulator) (s : State) : ∃ s1, execModulatorOverload g m s = .next s1 ∧ Kept s s1 := by
  refine ⟨_, rfl, ?_⟩
  try dsimp only
  repeat' (first
    | with_reducible apply FrontEnd.overload_ok
    | with_reducible exact Kept.refl _
    | with_reducible apply State.modFe_kept
    | with_reducible apply State.overload_kept
    | intro _)
theorem execModulatorOverloadEnd_kept (g : GroupId) (m : Modulator) (s : State) : ∃ s1, execModulatorOverloadEnd g m s = .next s1 ∧ Kept s s1 := by
  refine ⟨_, rfl, ?_⟩
  try dsimp only
  repeat' (first
    | with_reducible apply FrontEnd.overloadEnds_ok
    | with_reducible exact Kept.refl _
    | with_reducible apply State.modFe_kept
    | with_reducible apply Kept.ite
    | split
    | intro _)
theorem FrontEnd.setRef_ok (f : FrontEnd) (on : Bool) (now : Nat) (h : FrontEnd.gatesOk f) : FrontEnd.gatesOk (FrontEnd.setRef f on now) := by
  unfold FrontEnd.setRef
  try dsimp only
  repeat' (first | with_reducible exact h | split | with_reducible refine FrontEnd.gatesOk_same ?_)
theorem FrontEnd.apply_ok (f : FrontEnd) (w : FeWrite) (now : Nat) (h : FrontEnd.gatesOk f) : FrontEnd.gatesOk (FrontEnd.apply f w now) := by
  unfold FrontEnd.apply
  try dsimp only
  repeat' (first | with_reducible exact h | with_reducible apply FrontEnd.setProbe_ok | with_reducible apply FrontEnd.setRef_ok | split | with_reducible refine FrontEnd.gatesOk_same ?_)
theorem State.feWrite_kept {a : State} (s : State) (g : GroupId) (w : FeWrite) (h0 : Kept a s) : Kept a (State.feWrite s g w) := by
  refine h0.trans ?_
  unfold State.feWrite
  try dsimp only
  repeat' (first
    | with_reducible apply FrontEnd.apply_ok
    | with_reducible exact Kept.refl _
    | with_reducible apply State.modFe_kept
    | with_reducible apply Kept.ite
    | split
    | intro _)
theorem execFrontEndControlWrite_kept (l : LaneId) (g : GroupId) (w : FeWrite) (s : State) : ∃ s1, execFrontEndControlWrite l g w s = .next s1 ∧ Kept s s1 := by
  refine ⟨_, rfl, ?_⟩
  try dsimp only
  repeat' (first
    | with_reducible apply FrontEnd.apply_ok
    | with_reducible exact Kept.refl _
    | with_reducible apply State.modFe_kept
    | with_reducible apply Kept.ite
    | split
    | intro _
    | with_reducible assumption
    | with_reducible refine LaneOk.mk_same ?_
    | with_reducible refine HubOk.mk_same ?_
    | with_reducible refine FrontEnd.gatesOk_same ?_)
theorem execInjectedTrigger_kept (g : GroupId) (src : InjSource) (s : State) : ∃ s1, execInjectedTrigger g src s = .next s1 ∧ Kept s s1 := by
  refine ⟨_, rfl, ?_⟩
  try dsimp only
  repeat' (first
    | with_reducible apply BankState.trip_ok
    | with_reducible apply FrontEnd.trip_ok
    | with_reducible exact Kept.refl _
    | with_reducible apply State.modFe_kept
    | with_reducible apply State.trigger_kept
    | with_reducible apply Kept.ite
    | split
    | intro _
    | with_reducible assumption
    | with_reducible refine LaneOk.mk_same ?_
    | with_reducible refine HubOk.mk_same ?_
    | with_reducible refine FrontEnd.gatesOk_same ?_)
theorem State.startInPlace_kept {a : State} (s : State) (g : GroupId) (h0 : Kept a s) : Kept a (State.startInPlace s g) := by
  refine h0.trans ?_
  unfold State.startInPlace
  try dsimp only
  repeat' (first
    | with_reducible exact Kept.refl _
    | with_reducible apply State.modFe_kept
    | with_reducible apply State.modGroup_kept
    | with_reducible apply Kept.ite
    | split
    | intro _
    | with_reducible assumption
    | with_reducible refine LaneOk.mk_same ?_
    | with_reducible refine HubOk.mk_same ?_
    | with_reducible refine FrontEnd.gatesOk_same ?_)
theorem execRefsSet_kept (g : GroupId) (s : State) : ∃ s1, execRefsSet g s = .next s1 ∧ Kept s s1 := by
  refine ⟨_, rfl, ?_⟩
  try dsimp only
  repeat' (first
    | with_reducible exact Kept.refl _
    | with_reducible apply State.modFe_kept
    | with_reducible apply State.modGroup_kept
    | with_reducible apply State.startInPlace_kept
    | with_reducible apply Kept.ite
    | split
    | intro _
    | with_reducible assumption
    | with_reducible refine LaneOk.mk_same ?_
    | with_reducible refine HubOk.mk_same ?_
    | with_reducible refine FrontEnd.gatesOk_same ?_
    | with_reducible refine BankState.gatesOk_same ?_
    | with_reducible refine Kept.mk_same ?_)
theorem execRefFaultTimeout_kept (g : GroupId) (s : State) : ∃ s1, execRefFaultTimeout g s = .next s1 ∧ Kept s s1 := by
  refine ⟨_, rfl, ?_⟩
  try dsimp only
  repeat' (first
    | with_reducible exact Kept.refl _
    | with_reducible apply State.fault_kept
    | with_reducible apply Kept.ite)
theorem State.teachLost_kept {a : State} (s : State) (g : GroupId) (h0 : Kept a s) : Kept a (State.teachLost s g) := by
  refine h0.trans ?_
  unfold State.teachLost
  try dsimp only
  repeat' (first
    | with_reducible exact Kept.refl _
    | with_reducible apply Kept.ite
    | split
    | with_reducible refine Kept.mk_same ?_)
theorem State.feedResult_kept {a : State} (s : State) (g : GroupId) (t : Nat) (y : Int) (ns : Bool) (h0 : Kept a s) : Kept a (State.feedResult s g t y ns) := by
  refine h0.trans ?_
  unfold State.feedResult
  extract_lets p f hist up f1 f2 seen wrongAt wrong s1 s2 s3
  have k_s1 : Kept s s1 := by
    unfold s1
    try dsimp only
    repeat' (first
      | with_reducible assumption
      | with_reducible exact Kept.refl _
      | with_reducible apply State.modGroup_kept
      | with_reducible apply State.withdrawFault_kept
      | with_reducible apply State.noteChan_kept
      | with_reducible apply State.fault_kept
      | with_reducible apply State.teachLost_kept
      | with_reducible apply Kept.each
      | with_reducible apply Kept.ite
      | split
      | intro _
      | with_reducible refine Kept.mk_same ?_
      | dsimp only)
  try clear_value s1
  have k_s2 : Kept s s2 := by
    unfold s2
    try dsimp only
    repeat' (first
      | with_reducible assumption
      | with_reducible exact Kept.refl _
      | with_reducible apply State.modGroup_kept
      | with_reducible apply State.withdrawFault_kept
      | with_reducible apply State.noteChan_kept
      | with_reducible apply State.fault_kept
      | with_reducible apply State.teachLost_kept
      | with_reducible apply Kept.each
      | with_reducible apply Kept.ite
      | split
      | intro _
      | with_reducible refine Kept.mk_same ?_
      | dsimp only)
  try clear_value s2
  have k_s3 : Kept s s3 := by
    unfold s3
    try dsimp only
    repeat' (first
      | with_reducible assumption
      | with_reducible exact Kept.refl _
      | with_reducible apply State.modGroup_kept
      | with_reducible apply State.withdrawFault_kept
      | with_reducible apply State.noteChan_kept
      | with_reducible apply State.fault_kept
      | with_reducible apply State.teachLost_kept
      | with_reducible apply Kept.each
      | with_reducible apply Kept.ite
      | split
      | intro _
      | with_reducible refine Kept.mk_same ?_
      | dsimp only)
  try clear_value s3
  try dsimp only
  repeat' (first
    | with_reducible assumption
    | with_reducible exact Kept.refl _
    | with_reducible apply State.modGroup_kept
    | with_reducible apply State.withdrawFault_kept
    | with_reducible apply State.noteChan_kept
    | with_reducible apply State.fault_kept
    | with_reducible apply State.teachLost_kept
    | with_reducible apply Kept.each
    | with_reducible apply Kept.ite
    | split
    | intro _
    | with_reducible refine Kept.mk_same ?_
    | dsimp only)
theorem execTrackerUnlockTimeout_kept (g : GroupId) (s : State) : ∃ s1, execTrackerUnlockTimeout g s = .next s1 ∧ Kept s s1 := by
  refine ⟨_, rfl, ?_⟩
  try dsimp only
  repeat' (first
    | with_reducible exact Kept.refl _
    | with_reducible apply State.modGroup_kept
    | with_reducible apply State.teachLost_kept
    | with_reducible apply Kept.ite
    | split
    | with_reducible refine Kept.mk_same ?_)
theorem execFeedFreqRange_kept (g : GroupId) (s : State) : ∃ s1, execFeedFreqRange g s = .next s1 ∧ Kept s s1 := by
  refine ⟨_, rfl, ?_⟩
  try dsimp only
  repeat' (first
    | with_reducible exact Kept.refl _
    | with_reducible apply State.fault_kept
    | with_reducible apply Kept.ite)
theorem State.feedGone_kept {a : State} (s : State) (g : GroupId) (h0 : Kept a s) : Kept a (State.feedGone s g) := by
  refine h0.trans ?_
  unfold State.feedGone
  extract_lets s1 dark s2
  have k_s1 : Kept s s1 := by
    unfold s1
    try dsimp only
    repeat' (first
      | with_reducible assumption
      | with_reducible exact Kept.refl _
      | with_reducible apply State.modGroup_kept)
  try clear_value s1
  have k_s2 : Kept s s2 := by
    unfold s2
    try dsimp only
    repeat' (first
      | with_reducible assumption
      | with_reducible exact Kept.refl _
      | with_reducible apply State.modGroup_kept
      | with_reducible apply State.withdrawFault_kept
      | with_reducible apply State.reachSafe_kept)
  try clear_value s2
  try dsimp only
  repeat' (first
    | with_reducible assumption
    | with_reducible exact Kept.refl _
    | with_reducible apply State.modGroup_kept
    | with_reducible apply State.withdrawFault_kept
    | with_reducible apply State.reachSafe_kept
    | with_reducible apply State.teachLost_kept)
theorem execFeedAbsentDecision_kept (g : GroupId) (s : State) : ∃ s1, execFeedAbsentDecision g s = .next s1 ∧ Kept s s1 := by
  refine ⟨_, rfl, ?_⟩
  try dsimp only
  repeat' (first
    | with_reducible exact Kept.refl _
    | with_reducible apply State.modGroup_kept
    | with_reducible apply State.note_kept
    | with_reducible apply State.noteChan_kept
    | with_reducible apply State.feedGone_kept
    | with_reducible apply Kept.each
    | with_reducible apply Kept.ite
    | split
    | intro _
    | with_reducible refine Kept.mk_same ?_)
theorem State.auxCal_kept {a : State} (s : State) (g : GroupId) (isRef : Bool) (raw : Int) (h0 : Kept a s) : Kept a (State.auxCal s g isRef raw) := by
  refine h0.trans ?_
  unfold State.auxCal
  try dsimp only
  repeat' (first
    | with_reducible exact Kept.refl _
    | with_reducible apply State.modGroup_kept
    | with_reducible apply State.withdrawFault_kept
    | with_reducible apply State.fault_kept
    | with_reducible apply Kept.ite
    | split)
theorem State.auxCheck_kept {a : State} (s : State) (g : GroupId) (input : Nat) (y : Int) (h0 : Kept a s) : Kept a (State.auxCheck s g input y) := by
  refine h0.trans ?_
  unfold State.auxCheck
  extract_lets good s1 over_ t s1_1
  have k_s1 : Kept s s1 := by
    unfold s1
    try dsimp only
    repeat' (first
      | with_reducible assumption
      | with_reducible exact Kept.refl _
      | with_reducible apply State.modGroup_kept)
  try clear_value s1
  have k_s1_1 : Kept s s1_1 := by
    unfold s1_1
    try dsimp only
    repeat' (first
      | with_reducible assumption
      | with_reducible exact Kept.refl _
      | with_reducible apply State.modGroup_kept)
  try clear_value s1_1
  try dsimp only
  repeat' (first
    | with_reducible assumption
    | with_reducible exact Kept.refl _
    | with_reducible apply State.modGroup_kept
    | with_reducible apply State.withdrawFault_kept
    | with_reducible apply State.fault_kept
    | with_reducible apply Kept.ite
    | split)
theorem State.auxDone_kept {a : State} (s : State) (g : GroupId) (raw : Int) (h0 : Kept a s) : Kept a (State.auxDone s g raw) := by
  refine h0.trans ?_
  unfold State.auxDone
  try dsimp only
  repeat' (first
    | with_reducible exact Kept.refl _
    | with_reducible apply State.modFe_kept
    | with_reducible apply State.withdrawFault_kept
    | with_reducible apply State.feedResult_kept
    | with_reducible apply State.auxCal_kept
    | with_reducible apply State.auxCheck_kept
    | with_reducible apply Kept.ite
    | split
    | intro _
    | with_reducible assumption
    | with_reducible refine LaneOk.mk_same ?_
    | with_reducible refine HubOk.mk_same ?_
    | with_reducible refine FrontEnd.gatesOk_same ?_
    | with_reducible refine BankState.gatesOk_same ?_
    | with_reducible refine Kept.mk_same ?_)
theorem execAuxConversionDone_kept (g : GroupId) (raw : Int) (s : State) : ∃ s1, execAuxConversionDone g raw s = .next s1 ∧ Kept s s1 := by
  refine ⟨_, rfl, ?_⟩
  try dsimp only
  repeat' (first
    | with_reducible exact Kept.refl _
    | with_reducible apply State.auxDone_kept)
theorem execAuxStall_kept (g : GroupId) (s : State) : ∃ s1, execAuxStall g s = .next s1 ∧ Kept s s1 := by
  refine ⟨_, rfl, ?_⟩
  try dsimp only
  repeat' (first
    | with_reducible exact Kept.refl _
    | with_reducible apply State.fault_kept
    | with_reducible apply Kept.ite)
theorem State.drift_kept {a : State} (s : State) (l : LaneId) (c : Chan) (r : PeriodRec) (start len : Nat) (h0 : Kept a s) : Kept a (State.drift s l c r start len) := by
  refine h0.trans ?_
  unfold State.drift
  extract_lets bad b out inn n was now s1
  have k_s1 : Kept s s1 := by
    unfold s1
    try dsimp only
    repeat' (first
      | with_reducible assumption
      | with_reducible exact Kept.refl _
      | with_reducible apply State.modProv_kept
      | with_reducible apply State.modProb_kept)
  try clear_value s1
  try dsimp only
  repeat' (first
    | with_reducible assumption
    | with_reducible exact Kept.refl _
    | with_reducible apply State.modProv_kept
    | with_reducible apply State.modProb_kept
    | with_reducible apply State.noteChan_kept
    | with_reducible apply Kept.ite)
theorem State.windowWear_kept {a : State} (s : State) (l : LaneId) (c : Chan) (r : PeriodRec) (start len : Nat) (h0 : Kept a s) : Kept a (State.windowWear s l c r start len) := by
  refine h0.trans ?_
  unfold State.windowWear
  extract_lets d incl s1
  have k_s1 : Kept s s1 := by
    unfold s1
    try dsimp only
    repeat' (first
      | with_reducible assumption
      | with_reducible exact Kept.refl _
      | with_reducible apply State.modLamp_kept
      | with_reducible apply Kept.ite
      | split
      | with_reducible refine Kept.mk_same ?_)
  try clear_value s1
  try dsimp only
  repeat' (first
    | with_reducible assumption
    | with_reducible exact Kept.refl _
    | with_reducible apply State.modLamp_kept
    | with_reducible apply Kept.ite
    | split
    | with_reducible refine Kept.mk_same ?_)
theorem State.laneWindow_kept {a : State} (s : State) (l : LaneId) (c : Chan) (r : PeriodRec) (a0 b : Nat) (h0 : Kept a s) : Kept a (State.laneWindow s l c r a0 b) := by
  refine h0.trans ?_
  unfold State.laneWindow
  extract_lets s1
  have k_s1 : Kept s s1 := by
    unfold s1
    try dsimp only
    repeat' (first
      | with_reducible assumption
      | with_reducible exact Kept.refl _
      | with_reducible apply State.modLane_kept
      | with_reducible apply State.drift_kept
      | with_reducible apply Kept.ite)
  try clear_value s1
  try dsimp only
  repeat' (first
    | with_reducible assumption
    | with_reducible exact Kept.refl _
    | with_reducible apply State.modLane_kept
    | with_reducible apply State.drift_kept
    | with_reducible apply Kept.ite
    | split
    | intro _
    | with_reducible assumption
    | with_reducible refine LaneOk.mk_same ?_)
theorem State.closeWindow_kept {a : State} (s : State) (g : GroupId) (a0 b : Nat) (ambient : Int) (h0 : Kept a s) : Kept a (State.closeWindow s g a0 b ambient) := by
  refine h0.trans ?_
  unfold State.closeWindow
  try dsimp only
  repeat' (first
    | with_reducible exact Kept.refl _
    | with_reducible apply State.modLane_kept
    | with_reducible apply State.modGroup_kept
    | with_reducible apply State.windowWear_kept
    | with_reducible apply State.laneWindow_kept
    | with_reducible apply Kept.each
    | split
    | intro _
    | with_reducible assumption
    | with_reducible refine LaneOk.mk_same ?_
    | with_reducible refine HubOk.mk_same ?_
    | with_reducible refine FrontEnd.gatesOk_same ?_
    | with_reducible refine BankState.gatesOk_same ?_
    | with_reducible refine Kept.mk_same ?_)
theorem execPeriodWindowClose_kept (g : GroupId) (ambient : Int) (s : State) : ∃ s1, execPeriodWindowClose g ambient s = .next s1 ∧ Kept s s1 := by
  refine ⟨_, rfl, ?_⟩
  try dsimp only
  repeat' (first
    | with_reducible exact Kept.refl _
    | with_reducible apply State.closeWindow_kept
    | with_reducible apply Kept.ite
    | split)
theorem execGroupOverload_kept (g : GroupId) (s : State) : ∃ s1, execGroupOverload g s = .next s1 ∧ Kept s s1 := by
  refine ⟨_, rfl, ?_⟩
  try dsimp only
  repeat' (first
    | with_reducible exact Kept.refl _
    | with_reducible apply State.modGroup_kept
    | with_reducible apply State.note_kept
    | with_reducible apply Kept.ite)

end Sys2Proof.Machine
end

