-- ==== Sys2Proof/Laws/KeptProbe.lean ====
section
/-!
SUPPORT. What the operations and commands of Machine/Probe.lean keep.
-/

namespace Sys2Proof.Machine

theorem FrontEnd.strobed_ok (f : FrontEnd) (l : LaneId) (x : Strobe) (h : FrontEnd.gatesOk f) : FrontEnd.gatesOk (FrontEnd.strobed f l x) := by
  unfold FrontEnd.strobed
  try dsimp only
  repeat' (first | with_reducible exact h | split | with_reducible refine FrontEnd.gatesOk_same ?_)
theorem execChipStrobe_kept (g : GroupId) (l : LaneId) (rx : RxChips) (s : State) : ∃ s1, execChipStrobe g l rx s = .next s1 ∧ Kept s s1 := by
  refine ⟨_, rfl, ?_⟩
  try dsimp only
  repeat' (first
    | with_reducible apply FrontEnd.strobed_ok
    | with_reducible exact Kept.refl _
    | with_reducible apply State.modFe_kept
    | with_reducible apply Kept.ite
    | split
    | intro _)
theorem State.probeTrim_kept {a : State} (s : State) (h0 : Kept a s) : Kept a (State.probeTrim s) := by
  refine h0.trans ?_
  unfold State.probeTrim
  try dsimp only
  repeat' (first
    | with_reducible exact Kept.refl _
    | with_reducible apply State.feWrite_kept
    | with_reducible apply Kept.each
    | intro _)
theorem execProbeEnable_kept (c : Chan) (s : State) : ∃ s1, execProbeEnable c s = .next s1 ∧ Kept s s1 := by
  refine ⟨_, rfl, ?_⟩
  try dsimp only
  repeat' (first
    | with_reducible exact Kept.refl _
    | with_reducible apply State.feWrite_kept
    | with_reducible apply Kept.ite)
theorem State.verdict_kept {a : State} (s : State) (l : LaneId) (c : Chan) (v : Verdict) (start stop : Nat) (h0 : Kept a s) : Kept a (State.verdict s l c v start stop) := by
  refine h0.trans ?_
  unfold State.verdict
  extract_lets n b counts bad good fr ir oc s1 s2
  have k_s1 : Kept s s1 := by
    unfold s1
    try dsimp only
    repeat' (first
      | with_reducible assumption
      | with_reducible exact Kept.refl _
      | with_reducible apply State.modProb_kept)
  try clear_value s1
  have k_s2 : Kept s s2 := by
    unfold s2
    try dsimp only
    repeat' (first
      | with_reducible assumption
      | with_reducible exact Kept.refl _
      | with_reducible apply State.modProb_kept
      | with_reducible apply State.withdrawFault_kept
      | with_reducible apply State.noteChan_kept
      | with_reducible apply Kept.ite)
  try clear_value s2
  try dsimp only
  repeat' (first
    | with_reducible assumption
    | with_reducible exact Kept.refl _
    | with_reducible apply State.modProb_kept
    | with_reducible apply State.withdrawFault_kept
    | with_reducible apply State.noteChan_kept)
theorem State.judgeRow_kept {a : State} (s : State) (l : LaneId) (r : ChanCorr) (k : CorrSpan) (h0 : Kept a s) : Kept a (State.judgeRow s l r k) := by
  refine h0.trans ?_
  unfold State.judgeRow
  extract_lets c ok v bad s1 s2 s3
  have k_s1 : Kept s s1 := by
    unfold s1
    try dsimp only
    repeat' (first
      | with_reducible assumption
      | with_reducible apply BankState.stop_ok
      | with_reducible apply FrontEnd.stop_ok
      | with_reducible apply LaneState.modProb_ok
      | with_reducible exact Kept.refl _
      | with_reducible apply State.modLane_kept
      | with_reducible apply State.modProb_kept)
  try clear_value s1
  have k_s2 : Kept s s2 := by
    unfold s2
    try dsimp only
    repeat' (first
      | with_reducible assumption
      | with_reducible apply BankState.stop_ok
      | with_reducible apply FrontEnd.stop_ok
      | with_reducible apply LaneState.modProb_ok
      | with_reducible exact Kept.refl _
      | with_reducible apply State.modLane_kept
      | with_reducible apply State.modProb_kept
      | with_reducible apply State.fault_kept
      | with_reducible apply State.verdict_kept
      | with_reducible apply Kept.ite)
  try clear_value s2
  have k_s3 : Kept s s3 := by
    unfold s3
    try dsimp only
    repeat' (first
      | with_reducible assumption
      | with_reducible apply BankState.stop_ok
      | with_reducible apply FrontEnd.stop_ok
      | with_reducible apply LaneState.modProb_ok
      | with_reducible exact Kept.refl _
      | with_reducible apply State.modLane_kept
      | with_reducible apply State.modProb_kept
      | with_reducible apply State.fault_kept
      | with_reducible apply State.verdict_kept
      | with_reducible apply Kept.ite
      | split
      | intro _
      | with_reducible assumption
      | with_reducible refine LaneOk.mk_same ?_)
  try clear_value s3
  try dsimp only
  repeat' (first
    | with_reducible assumption
    | with_reducible apply BankState.stop_ok
    | with_reducible apply FrontEnd.stop_ok
    | with_reducible apply LaneState.modProb_ok
    | with_reducible exact Kept.refl _
    | with_reducible apply State.modLane_kept
    | with_reducible apply State.modProb_kept
    | with_reducible apply State.fault_kept
    | with_reducible apply State.verdict_kept
    | with_reducible apply Kept.ite)
theorem State.couple_kept {a : State} (s : State) (l : LaneId) (i j : Chan) (v : Int) (diag : Int) (cpn : Nat) (h0 : Kept a s) : Kept a (State.couple s l i j v diag cpn) := by
  refine h0.trans ?_
  unfold State.couple
  extract_lets old hit e cr s1
  have k_s1 : Kept s s1 := by
    unfold s1
    try dsimp only
    repeat' (first
      | with_reducible assumption
      | with_reducible exact Kept.refl _
      | with_reducible apply State.modLane_kept
      | with_reducible apply State.withdrawFault_kept
      | with_reducible apply State.fault_kept
      | with_reducible apply Kept.ite
      | split
      | intro _
      | with_reducible assumption
      | with_reducible refine LaneOk.mk_same ?_)
  try clear_value s1
  try dsimp only
  repeat' (first
    | with_reducible assumption
    | with_reducible exact Kept.refl _
    | with_reducible apply State.modLane_kept
    | with_reducible apply State.withdrawFault_kept
    | with_reducible apply State.fault_kept
    | with_reducible apply Kept.ite)
theorem State.coupleRow_kept {a : State} (s : State) (l : LaneId) (rows : List ChanCorr) (ri : ChanCorr) (k : CorrSpan) (h0 : Kept a s) : Kept a (State.coupleRow s l rows ri k) := by
  refine h0.trans ?_
  unfold State.coupleRow
  extract_lets s1
  have k_s1 : Kept s s1 := by
    unfold s1
    try dsimp only
    repeat' (first
      | with_reducible assumption
      | with_reducible exact Kept.refl _
      | with_reducible apply State.couple_kept)
  try clear_value s1
  try dsimp only
  repeat' (first
    | with_reducible assumption
    | with_reducible exact Kept.refl _
    | with_reducible apply State.couple_kept
    | with_reducible apply Kept.each
    | with_reducible apply Kept.ite
    | split
    | intro _)
theorem State.iqRow_kept {a : State} (s : State) (l : LaneId) (r : ChanCorr) (k : CorrSpan) (h0 : Kept a s) : Kept a (State.iqRow s l r k) := by
  refine h0.trans ?_
  unfold State.iqRow
  extract_lets c p s1 b intact num den res cap s1_1
  have k_s1 : Kept s s1 := by
    unfold s1
    try dsimp only
    repeat' (first
      | with_reducible assumption
      | with_reducible exact Kept.refl _
      | with_reducible apply State.modProb_kept)
  try clear_value s1
  have k_s1_1 : Kept s s1_1 := by
    unfold s1_1
    try dsimp only
    repeat' (first
      | with_reducible assumption
      | with_reducible exact Kept.refl _
      | with_reducible apply State.modProb_kept)
  try clear_value s1_1
  try dsimp only
  repeat' (first
    | with_reducible assumption
    | with_reducible exact Kept.refl _
    | with_reducible apply State.modProb_kept
    | with_reducible apply State.note_kept
    | with_reducible apply State.decideForeign_kept
    | with_reducible apply State.verdict_kept
    | with_reducible apply Kept.ite
    | split)
theorem LaneState.adoptProbe_ok (L src : LaneState) (h : LaneOk L) : LaneOk (LaneState.adoptProbe L src) := by
  unfold LaneState.adoptProbe
  try dsimp only
  repeat' (first | with_reducible exact h | split | with_reducible refine LaneOk.mk_same ?_)
theorem State.periodRows_kept {a : State} (s : State) (l : LaneId) (k : CorrSpan) (h0 : Kept a s) : Kept a (State.periodRows s l k) := by
  refine h0.trans ?_
  unfold State.periodRows
  extract_lets rows s1 s2 s3
  have k_s1 : Kept s s1 := by
    unfold s1
    try dsimp only
    repeat' (first
      | with_reducible assumption
      | with_reducible exact Kept.refl _
      | with_reducible apply State.modProb_kept
      | with_reducible apply State.judgeRow_kept
      | with_reducible apply State.coupleRow_kept
      | with_reducible apply State.iqRow_kept
      | with_reducible apply Kept.each
      | intro _)
  try clear_value s1
  have k_s2 : Kept s s2 := by
    unfold s2
    try dsimp only
    repeat' (first
      | with_reducible assumption
      | with_reducible exact Kept.refl _
      | with_reducible apply State.modProb_kept
      | with_reducible apply State.judgeRow_kept
      | with_reducible apply State.coupleRow_kept
      | with_reducible apply State.iqRow_kept
      | with_reducible apply Kept.each
      | intro _)
  try clear_value s2
  have k_s3 : Kept s s3 := by
    unfold s3
    try dsimp only
    repeat' (first
      | with_reducible assumption
      | with_reducible exact Kept.refl _
      | with_reducible apply State.modProb_kept
      | with_reducible apply State.judgeRow_kept
      | with_reducible apply State.coupleRow_kept
      | with_reducible apply State.iqRow_kept
      | with_reducible apply Kept.each
      | intro _)
  try clear_value s3
  try dsimp only
  repeat' (first
    | with_reducible assumption
    | with_reducible exact Kept.refl _
    | with_reducible apply State.modProb_kept
    | with_reducible apply State.judgeRow_kept
    | with_reducible apply State.coupleRow_kept
    | with_reducible apply State.iqRow_kept
    | with_reducible apply Kept.each
    | intro _)
theorem State.rowsDue_kept {a : State} (s : State) (cpn : Nat) (h0 : Kept a s) : Kept a (State.rowsDue s cpn) := by
  refine h0.trans ?_
  unfold State.rowsDue
  try dsimp only
  repeat' (first
    | with_reducible exact Kept.refl _
    | with_reducible apply Kept.ite
    | split
    | with_reducible refine Kept.mk_same ?_)
theorem State.periodStops_kept {a : State} (s : State) (h0 : Kept a s) : Kept a (State.periodStops s) := by
  refine h0.trans ?_
  unfold State.periodStops
  try dsimp only
  repeat' (first
    | with_reducible exact Kept.refl _
    | with_reducible apply State.feWrite_kept
    | with_reducible apply Kept.each
    | intro _)
theorem State.periodEnd_kept {a : State} (s : State) (l : LaneId) (k : CorrSpan) (h0 : Kept a s) : Kept a (State.periodEnd s l k) := by
  refine h0.trans ?_
  unfold State.periodEnd
  extract_lets s1
  have k_s1 : Kept s s1 := by
    unfold s1
    try dsimp only
    repeat' (first
      | with_reducible assumption
      | with_reducible apply LaneState.adoptProbe_ok
      | with_reducible exact Kept.refl _
      | with_reducible apply State.modLane_kept
      | with_reducible apply State.periodRows_kept
      | with_reducible apply Kept.ite
      | split
      | intro _
      | with_reducible assumption
      | with_reducible refine LaneOk.mk_same ?_)
  try clear_value s1
  try dsimp only
  repeat' (first
    | with_reducible assumption
    | with_reducible apply LaneState.adoptProbe_ok
    | with_reducible exact Kept.refl _
    | with_reducible apply State.modLane_kept
    | with_reducible apply State.periodRows_kept
    | with_reducible apply Kept.ite
    | split
    | intro _)
theorem execCodePeriodEnd_kept (l : LaneId) (s : State) : ∃ s1, execCodePeriodEnd l s = .next s1 ∧ Kept s s1 := by
  refine ⟨_, rfl, ?_⟩
  try dsimp only
  repeat' (first
    | with_reducible exact Kept.refl _
    | with_reducible apply State.rowsDue_kept
    | with_reducible apply State.periodStops_kept
    | with_reducible apply State.periodEnd_kept
    | with_reducible apply Kept.ite
    | split)
theorem State.partialRow_kept {a : State} (s : State) (l : LaneId) (rows : List ChanCorr) (r : ChanCorr) (k : CorrSpan) (h0 : Kept a s) : Kept a (State.partialRow s l rows r k) := by
  refine h0.trans ?_
  unfold State.partialRow
  extract_lets p out n s1 s2
  have k_s1 : Kept s s1 := by
    unfold s1
    try dsimp only
    repeat' (first
      | with_reducible assumption
      | with_reducible apply LaneState.modProb_ok
      | with_reducible exact Kept.refl _
      | with_reducible apply State.modLane_kept
      | with_reducible apply State.modProb_kept)
  try clear_value s1
  have k_s2 : Kept s s2 := by
    unfold s2
    try dsimp only
    repeat' (first
      | with_reducible assumption
      | with_reducible apply LaneState.modProb_ok
      | with_reducible exact Kept.refl _
      | with_reducible apply State.modLane_kept
      | with_reducible apply State.modProb_kept
      | with_reducible apply State.note_kept
      | with_reducible apply Kept.each
      | with_reducible apply Kept.ite)
  try clear_value s2
  try dsimp only
  repeat' (first
    | with_reducible assumption
    | with_reducible apply LaneState.modProb_ok
    | with_reducible exact Kept.refl _
    | with_reducible apply State.modLane_kept
    | with_reducible apply State.modProb_kept
    | with_reducible apply State.note_kept
    | with_reducible apply Kept.each
    | with_reducible apply Kept.ite
    | split
    | intro _
    | with_reducible assumption
    | with_reducible refine LaneOk.mk_same ?_)
theorem execPartialWindowEnd_kept (l : LaneId) (s : State) : ∃ s1, execPartialWindowEnd l s = .next s1 ∧ Kept s s1 := by
  refine ⟨_, rfl, ?_⟩
  try dsimp only
  repeat' (first
    | with_reducible apply LaneState.modProb_ok
    | with_reducible exact Kept.refl _
    | with_reducible apply State.modLane_kept
    | with_reducible apply State.modProb_kept
    | with_reducible apply State.partialRow_kept
    | with_reducible apply Kept.each
    | with_reducible apply Kept.ite
    | split
    | intro _
    | with_reducible assumption
    | with_reducible refine LaneOk.mk_same ?_
    | with_reducible refine HubOk.mk_same ?_
    | with_reducible refine FrontEnd.gatesOk_same ?_
    | with_reducible refine BankState.gatesOk_same ?_
    | with_reducible refine Kept.mk_same ?_)
theorem execMatrixRowSend_kept (s : State) : ∃ s1, execMatrixRowSend s = .next s1 ∧ Kept s s1 := by
  refine ⟨_, rfl, ?_⟩
  try dsimp only
  repeat' (first
    | with_reducible exact Kept.refl _
    | with_reducible apply State.post_kept
    | with_reducible apply Kept.ite
    | split
    | with_reducible refine Kept.mk_same ?_)

end Sys2Proof.Machine
end

