-- ==== Sys2Proof/Laws/KeptUnderstorey.lean ====
section
/-!
SUPPORT. What the operations and commands of Machine/Understorey.lean keep.
-/

namespace Sys2Proof.Machine

theorem State.laneDissent_kept {a : State} (s : State) (g : GroupId) (differ agree : LaneMask) (h0 : Kept a s) : Kept a (State.laneDissent s g differ agree) := by
  refine h0.trans ?_
  unfold State.laneDissent
  try dsimp only
  repeat' (first
    | with_reducible exact Kept.refl _
    | with_reducible apply State.withdrawFault_kept
    | with_reducible apply State.fault_kept
    | with_reducible apply Kept.each
    | with_reducible apply Kept.ite
    | split
    | intro _)
theorem State.calDissent_kept {a : State} (s : State) (g : GroupId) (m : Modulator) (zeroEnd : Nat) (h0 : Kept a s) : Kept a (State.calDissent s g m zeroEnd) := by
  refine h0.trans ?_
  unfold State.calDissent
  try dsimp only
  repeat' (first
    | with_reducible exact Kept.refl _
    | with_reducible apply State.laneDissent_kept
    | split)
theorem State.modUnder_kept {a : State} (s : State) (g : GroupId) (f : Understorey → Understorey) (h0 : Kept a s) : Kept a (State.modUnder s g f) := by
  refine h0.trans ?_
  unfold State.modUnder
  try dsimp only
  repeat' (first
    | with_reducible exact Kept.refl _
    | with_reducible apply State.modGroup_kept)
theorem State.modLoan_kept {a : State} (s : State) (g : GroupId) (sp : Spare) (f : Loan → Loan) (h0 : Kept a s) : Kept a (State.modLoan s g sp f) := by
  refine h0.trans ?_
  unfold State.modLoan
  try dsimp only
  repeat' (first
    | with_reducible exact Kept.refl _
    | with_reducible apply State.modUnder_kept)
theorem State.connect_kept {a : State} (s : State) (g : GroupId) (m : Modulator) (x : ModInput) (h0 : Kept a s) : Kept a (State.connect s g m x) := by
  refine h0.trans ?_
  unfold State.connect
  try dsimp only
  repeat' (first
    | with_reducible exact Kept.refl _
    | with_reducible apply State.feWrite_kept)
theorem State.enterStep_kept {a : State} (s : State) (g : GroupId) (sp : Spare) (k : LoanStep) (h0 : Kept a s) : Kept a (State.enterStep s g sp k) := by
  refine h0.trans ?_
  unfold State.enterStep
  try dsimp only
  repeat' (first
    | with_reducible exact Kept.refl _
    | with_reducible apply State.modLoan_kept)
theorem State.convict_kept {a : State} (s : State) (g : GroupId) (m : Modulator) (h0 : Kept a s) : Kept a (State.convict s g m) := by
  refine h0.trans ?_
  unfold State.convict
  try dsimp only
  repeat' (first
    | with_reducible exact Kept.refl _
    | with_reducible apply State.fault_kept
    | with_reducible apply State.modUnder_kept)
theorem State.spareStays_kept {a : State} (s : State) (g : GroupId) (sp : Spare) (h0 : Kept a s) : Kept a (State.spareStays s g sp) := by
  refine h0.trans ?_
  unfold State.spareStays
  try dsimp only
  repeat' (first
    | with_reducible exact Kept.refl _
    | with_reducible apply State.modLoan_kept)
theorem State.release_kept {a : State} (s : State) (g : GroupId) (sp : Spare) (h0 : Kept a s) : Kept a (State.release s g sp) := by
  refine h0.trans ?_
  unfold State.release
  try dsimp only
  repeat' (first
    | with_reducible exact Kept.refl _
    | with_reducible apply State.connect_kept
    | with_reducible apply State.enterStep_kept)
theorem State.abandonLoan_kept {a : State} (s : State) (g : GroupId) (sp : Spare) (h0 : Kept a s) : Kept a (State.abandonLoan s g sp) := by
  refine h0.trans ?_
  unfold State.abandonLoan
  try dsimp only
  repeat' (first
    | with_reducible exact Kept.refl _
    | with_reducible apply State.modLoan_kept
    | with_reducible apply State.release_kept)
theorem State.adoptPair_kept {a : State} (s : State) (g : GroupId) (m : Modulator) (k : Coef) (h0 : Kept a s) : Kept a (State.adoptPair s g m k) := by
  refine h0.trans ?_
  unfold State.adoptPair
  try dsimp only
  repeat' (first
    | with_reducible exact Kept.refl _
    | with_reducible apply State.withdrawFault_kept
    | with_reducible apply State.modUnder_kept)
theorem State.rejectPair_kept {a : State} (s : State) (g : GroupId) (m : Modulator) (h0 : Kept a s) : Kept a (State.rejectPair s g m) := by
  refine h0.trans ?_
  unfold State.rejectPair
  extract_lets n s1
  have k_s1 : Kept s s1 := by
    unfold s1
    try dsimp only
    repeat' (first
      | with_reducible assumption
      | with_reducible exact Kept.refl _
      | with_reducible apply State.note_kept
      | with_reducible apply State.modUnder_kept)
  try clear_value s1
  try dsimp only
  repeat' (first
    | with_reducible assumption
    | with_reducible exact Kept.refl _
    | with_reducible apply State.note_kept
    | with_reducible apply State.modUnder_kept
    | with_reducible apply State.convict_kept
    | with_reducible apply Kept.ite)
theorem State.calShadow_kept {a : State} (s : State) (g : GroupId) (m sp : Modulator) (why : CmpFail) (h0 : Kept a s) : Kept a (State.calShadow s g m sp why) := by
  refine h0.trans ?_
  unfold State.calShadow
  try dsimp only
  repeat' (first
    | with_reducible exact Kept.refl _
    | with_reducible apply State.note_kept
    | with_reducible apply State.modUnder_kept)
theorem State.startZero_kept {a : State} (s : State) (g : GroupId) (sp : Spare) (h0 : Kept a s) : Kept a (State.startZero s g sp) := by
  refine h0.trans ?_
  unfold State.startZero
  try dsimp only
  repeat' (first
    | with_reducible exact Kept.refl _
    | with_reducible apply State.modLoan_kept
    | with_reducible apply State.connect_kept
    | with_reducible apply State.enterStep_kept)
theorem State.reconnect_kept {a : State} (s : State) (g : GroupId) (sp : Spare) (h0 : Kept a s) : Kept a (State.reconnect s g sp) := by
  refine h0.trans ?_
  unfold State.reconnect
  try dsimp only
  repeat' (first
    | with_reducible exact Kept.refl _
    | with_reducible apply State.connect_kept
    | with_reducible apply State.enterStep_kept)
theorem State.spareZero_kept {a : State} (s : State) (g : GroupId) (sp : Spare) (k : LoanStep) (h0 : Kept a s) : Kept a (State.spareZero s g sp k) := by
  refine h0.trans ?_
  unfold State.spareZero
  try dsimp only
  repeat' (first
    | with_reducible exact Kept.refl _
    | with_reducible apply State.modLoan_kept
    | with_reducible apply State.connect_kept
    | with_reducible apply State.enterStep_kept)
theorem State.compareFails_kept {a : State} (s : State) (g : GroupId) (sp : Spare) (why : CmpFail) (h0 : Kept a s) : Kept a (State.compareFails s g sp why) := by
  refine h0.trans ?_
  unfold State.compareFails
  extract_lets x s1
  have k_s1 : Kept s s1 := by
    unfold s1
    try dsimp only
    repeat' (first
      | with_reducible assumption
      | with_reducible exact Kept.refl _
      | with_reducible apply State.modLoan_kept
      | with_reducible apply State.convict_kept
      | with_reducible apply State.spareStays_kept
      | with_reducible apply State.calShadow_kept)
  try clear_value s1
  try dsimp only
  repeat' (first
    | with_reducible assumption
    | with_reducible exact Kept.refl _
    | with_reducible apply State.modLoan_kept
    | with_reducible apply State.convict_kept
    | with_reducible apply State.spareStays_kept
    | with_reducible apply State.calShadow_kept
    | with_reducible apply State.startZero_kept
    | with_reducible apply State.spareZero_kept
    | with_reducible apply Kept.ite)
theorem State.judgeCompare_kept {a : State} (s : State) (g : GroupId) (sp : Spare) (h0 : Kept a s) : Kept a (State.judgeCompare s g sp) := by
  refine h0.trans ?_
  unfold State.judgeCompare
  extract_lets v s1
  have k_s1 : Kept s s1 := by
    unfold s1
    try dsimp only
    repeat' (first
      | with_reducible assumption
      | with_reducible exact Kept.refl _
      | with_reducible apply State.laneDissent_kept)
  try clear_value s1
  try dsimp only
  repeat' (first
    | with_reducible assumption
    | with_reducible exact Kept.refl _
    | with_reducible apply State.laneDissent_kept
    | with_reducible apply State.modLoan_kept
    | with_reducible apply State.compareFails_kept
    | with_reducible apply Kept.ite
    | split)
theorem State.startLoan_kept {a : State} (s : State) (g : GroupId) (sp : Spare) (m : Modulator) (h0 : Kept a s) : Kept a (State.startLoan s g sp m) := by
  refine h0.trans ?_
  unfold State.startLoan
  extract_lets x ms fresh due s1 s2
  have k_s1 : Kept s s1 := by
    unfold s1
    try dsimp only
    repeat' (first
      | with_reducible assumption
      | with_reducible exact Kept.refl _
      | with_reducible apply State.modUnder_kept
      | with_reducible apply State.modLoan_kept)
  try clear_value s1
  have k_s2 : Kept s s2 := by
    unfold s2
    try dsimp only
    repeat' (first
      | with_reducible assumption
      | with_reducible exact Kept.refl _
      | with_reducible apply State.modUnder_kept
      | with_reducible apply State.modLoan_kept
      | with_reducible apply State.connect_kept
      | with_reducible apply State.enterStep_kept
      | with_reducible apply Kept.ite)
  try clear_value s2
  try dsimp only
  repeat' (first
    | with_reducible assumption
    | with_reducible exact Kept.refl _
    | with_reducible apply State.modUnder_kept
    | with_reducible apply State.modLoan_kept
    | with_reducible apply State.connect_kept
    | with_reducible apply State.enterStep_kept)
theorem State.fromIdle_kept {a : State} (s : State) (g : GroupId) (sp : Spare) (h0 : Kept a s) : Kept a (State.fromIdle s g sp) := by
  refine h0.trans ?_
  unfold State.fromIdle
  try dsimp only
  repeat' (first
    | with_reducible exact Kept.refl _
    | with_reducible apply State.modLoan_kept
    | with_reducible apply State.connect_kept
    | with_reducible apply State.enterStep_kept
    | with_reducible apply State.spareZero_kept
    | with_reducible apply State.startLoan_kept
    | with_reducible apply Kept.ite
    | split)
theorem State.refEnds_kept {a : State} (s : State) (g : GroupId) (sp : Spare) (x : Loan) (h0 : Kept a s) : Kept a (State.refEnds s g sp x) := by
  refine h0.trans ?_
  unfold State.refEnds
  extract_lets s0 s1
  have k_s0 : Kept s s0 := by
    unfold s0
    try dsimp only
    repeat' (first
      | with_reducible assumption
      | with_reducible exact Kept.refl _
      | with_reducible apply State.calDissent_kept)
  try clear_value s0
  have k_s1 : Kept s s1 := by
    unfold s1
    try dsimp only
    repeat' (first
      | with_reducible assumption
      | with_reducible exact Kept.refl _
      | with_reducible apply State.calDissent_kept
      | with_reducible apply State.modLoan_kept
      | with_reducible apply State.spareStays_kept
      | with_reducible apply State.adoptPair_kept
      | with_reducible apply State.rejectPair_kept)
  try clear_value s1
  try dsimp only
  repeat' (first
    | with_reducible assumption
    | with_reducible exact Kept.refl _
    | with_reducible apply State.calDissent_kept
    | with_reducible apply State.modLoan_kept
    | with_reducible apply State.spareStays_kept
    | with_reducible apply State.adoptPair_kept
    | with_reducible apply State.rejectPair_kept
    | with_reducible apply State.reconnect_kept
    | with_reducible apply Kept.ite
    | split)
theorem State.arbitrated_kept {a : State} (s : State) (g : GroupId) (sp : Spare) (x : Loan) (h0 : Kept a s) : Kept a (State.arbitrated s g sp x) := by
  refine h0.trans ?_
  unfold State.arbitrated
  extract_lets m k v s1
  have k_s1 : Kept s s1 := by
    unfold s1
    try dsimp only
    repeat' (first
      | with_reducible assumption
      | with_reducible exact Kept.refl _
      | with_reducible apply State.fault_kept
      | with_reducible apply State.laneDissent_kept)
  try clear_value s1
  try dsimp only
  repeat' (first
    | with_reducible assumption
    | with_reducible exact Kept.refl _
    | with_reducible apply State.fault_kept
    | with_reducible apply State.laneDissent_kept
    | with_reducible apply State.modLoan_kept
    | with_reducible apply State.connect_kept
    | with_reducible apply State.enterStep_kept
    | with_reducible apply State.convict_kept
    | with_reducible apply State.abandonLoan_kept
    | with_reducible apply Kept.ite
    | split)
theorem State.startRef_kept {a : State} (s : State) (g : GroupId) (sp : Spare) (m : Modulator) (k : LoanStep) (h0 : Kept a s) : Kept a (State.startRef s g sp m k) := by
  refine h0.trans ?_
  unfold State.startRef
  try dsimp only
  repeat' (first
    | with_reducible exact Kept.refl _
    | with_reducible apply State.modLoan_kept
    | with_reducible apply State.connect_kept
    | with_reducible apply State.enterStep_kept)
theorem State.loanStep_kept {a : State} (s : State) (g : GroupId) (sp : Spare) (h0 : Kept a s) : Kept a (State.loanStep s g sp) := by
  refine h0.trans ?_
  unfold State.loanStep
  try dsimp only
  repeat' (first
    | with_reducible exact Kept.refl _
    | with_reducible apply State.connect_kept
    | with_reducible apply State.enterStep_kept
    | with_reducible apply State.release_kept
    | with_reducible apply State.reconnect_kept
    | with_reducible apply State.spareZero_kept
    | with_reducible apply State.judgeCompare_kept
    | with_reducible apply State.fromIdle_kept
    | with_reducible apply State.refEnds_kept
    | with_reducible apply State.arbitrated_kept
    | with_reducible apply State.startRef_kept
    | with_reducible apply Kept.ite
    | split)
theorem execLoanStepEnd_kept (g : GroupId) (sp : Spare) (s : State) : ∃ s1, execLoanStepEnd g sp s = .next s1 ∧ Kept s s1 := by
  refine ⟨_, rfl, ?_⟩
  try dsimp only
  repeat' (first
    | with_reducible exact Kept.refl _
    | with_reducible apply State.loanStep_kept)
theorem State.setSource_kept {a : State} (s : State) (g : GroupId) (m : Modulator) (x : SourceSwitch) (h0 : Kept a s) : Kept a (State.setSource s g m x) := by
  refine h0.trans ?_
  unfold State.setSource
  try dsimp only
  repeat' (first
    | with_reducible exact Kept.refl _
    | with_reducible apply State.modUnder_kept
    | with_reducible apply Kept.ite
    | split
    | with_reducible refine Kept.mk_same ?_)
theorem State.handoff_kept {a : State} (s : State) (g : GroupId) (sp : Spare) (h0 : Kept a s) : Kept a (State.handoff s g sp) := by
  refine h0.trans ?_
  unfold State.handoff
  try dsimp only
  repeat' (first
    | with_reducible exact Kept.refl _
    | with_reducible apply State.modLoan_kept
    | with_reducible apply State.connect_kept
    | with_reducible apply State.enterStep_kept
    | with_reducible apply State.spareStays_kept
    | with_reducible apply State.release_kept
    | with_reducible apply State.startZero_kept
    | with_reducible apply State.setSource_kept
    | with_reducible apply Kept.ite
    | split
    | with_reducible refine Kept.mk_same ?_)
theorem execHandoff_kept (g : GroupId) (sp : Spare) (s : State) : ∃ s1, execHandoff g sp s = .next s1 ∧ Kept s s1 := by
  refine ⟨_, rfl, ?_⟩
  try dsimp only
  repeat' (first
    | with_reducible exact Kept.refl _
    | with_reducible apply State.handoff_kept)
theorem State.selfEnds_kept {a : State} (s : State) (g : GroupId) (sp : Spare) (x : Loan) (h0 : Kept a s) : Kept a (State.selfEnds s g sp x) := by
  refine h0.trans ?_
  unfold State.selfEnds
  extract_lets m s0 s1
  have k_s0 : Kept s s0 := by
    unfold s0
    try dsimp only
    repeat' (first
      | with_reducible assumption
      | with_reducible exact Kept.refl _
      | with_reducible apply State.calDissent_kept)
  try clear_value s0
  have k_s1 : Kept s s1 := by
    unfold s1
    try dsimp only
    repeat' (first
      | with_reducible assumption
      | with_reducible exact Kept.refl _
      | with_reducible apply State.calDissent_kept
      | with_reducible apply State.modLoan_kept
      | with_reducible apply State.connect_kept
      | with_reducible apply State.enterStep_kept
      | with_reducible apply State.adoptPair_kept
      | with_reducible apply State.rejectPair_kept)
  try clear_value s1
  try dsimp only
  repeat' (first
    | with_reducible assumption
    | with_reducible exact Kept.refl _
    | with_reducible apply State.calDissent_kept
    | with_reducible apply State.modLoan_kept
    | with_reducible apply State.connect_kept
    | with_reducible apply State.enterStep_kept
    | with_reducible apply State.adoptPair_kept
    | with_reducible apply State.rejectPair_kept
    | with_reducible apply State.spareZero_kept
    | split)
theorem execSpareSelfCalibration_kept (g : GroupId) (sp : Spare) (s : State) : ∃ s1, execSpareSelfCalibration g sp s = .next s1 ∧ Kept s s1 := by
  refine ⟨_, rfl, ?_⟩
  try dsimp only
  repeat' (first
    | with_reducible exact Kept.refl _
    | with_reducible apply State.release_kept
    | with_reducible apply State.selfEnds_kept
    | with_reducible apply Kept.ite)
theorem State.setRun_kept {a : State} (s : State) (g : GroupId) (m : Modulator) (r : Option CalRun) (h0 : Kept a s) : Kept a (State.setRun s g m r) := by
  refine h0.trans ?_
  unfold State.setRun
  try dsimp only
  repeat' (first
    | with_reducible exact Kept.refl _
    | with_reducible apply State.modUnder_kept)
theorem State.startRun_kept {a : State} (s : State) (g : GroupId) (m : Modulator) (release : Bool) (h0 : Kept a s) : Kept a (State.startRun s g m release) := by
  refine h0.trans ?_
  unfold State.startRun
  try dsimp only
  repeat' (first
    | with_reducible exact Kept.refl _
    | with_reducible apply State.modUnder_kept
    | with_reducible apply State.connect_kept)
theorem State.partnerStep_kept {a : State} (s : State) (g : GroupId) (m : Modulator) (r : CalRun) (c : Chan) (h0 : Kept a s) : Kept a (State.partnerStep s g m r c) := by
  refine h0.trans ?_
  unfold State.partnerStep
  extract_lets live v s1 fails
  have k_s1 : Kept s s1 := by
    unfold s1
    try dsimp only
    repeat' (first
      | with_reducible assumption
      | with_reducible exact Kept.refl _
      | with_reducible apply State.laneDissent_kept
      | with_reducible apply State.convict_kept
      | with_reducible apply State.calShadow_kept
      | with_reducible apply State.setRun_kept
      | with_reducible apply Kept.ite
      | split
      | with_reducible refine Kept.mk_same ?_)
  try clear_value s1
  try dsimp only
  repeat' (first
    | with_reducible assumption
    | with_reducible exact Kept.refl _
    | with_reducible apply State.laneDissent_kept
    | with_reducible apply State.convict_kept
    | with_reducible apply State.calShadow_kept
    | with_reducible apply State.setRun_kept
    | with_reducible apply Kept.ite
    | split
    | with_reducible refine Kept.mk_same ?_)
theorem State.runStep_kept {a : State} (s : State) (g : GroupId) (m : Modulator) (r : CalRun) (h0 : Kept a s) : Kept a (State.runStep s g m r) := by
  refine h0.trans ?_
  unfold State.runStep
  extract_lets due on s0
  have k_s0 : Kept s s0 := by
    unfold s0
    try dsimp only
    repeat' (first
      | with_reducible assumption
      | with_reducible exact Kept.refl _
      | with_reducible apply State.calDissent_kept)
  try clear_value s0
  try dsimp only
  repeat' (first
    | with_reducible assumption
    | with_reducible exact Kept.refl _
    | with_reducible apply State.calDissent_kept
    | with_reducible apply State.connect_kept
    | with_reducible apply State.release_kept
    | with_reducible apply State.adoptPair_kept
    | with_reducible apply State.rejectPair_kept
    | with_reducible apply State.reconnect_kept
    | with_reducible apply State.setRun_kept
    | with_reducible apply State.partnerStep_kept
    | with_reducible apply Kept.ite
    | split)
theorem execInPlaceCalibration_kept (g : GroupId) (m : Modulator) (s : State) : ∃ s1, execInPlaceCalibration g m s = .next s1 ∧ Kept s s1 := by
  refine ⟨_, rfl, ?_⟩
  try dsimp only
  repeat' (first
    | with_reducible exact Kept.refl _
    | with_reducible apply State.startRun_kept
    | with_reducible apply State.runStep_kept
    | with_reducible apply Kept.ite
    | split)
theorem execCompareNoSamples_kept (g : GroupId) (sp : Spare) (s : State) : ∃ s1, execCompareNoSamples g sp s = .next s1 ∧ Kept s s1 := by
  refine ⟨_, rfl, ?_⟩
  try dsimp only
  repeat' (first
    | with_reducible exact Kept.refl _
    | with_reducible apply State.compareFails_kept
    | with_reducible apply Kept.ite
    | split)
theorem execCalHandoff_kept (g : GroupId) (sp : Spare) (s : State) : ∃ s1, execCalHandoff g sp s = .next s1 ∧ Kept s s1 := by
  refine ⟨_, rfl, ?_⟩
  try dsimp only
  repeat' (first
    | with_reducible exact Kept.refl _
    | with_reducible apply State.note_kept
    | with_reducible apply State.abandonLoan_kept
    | with_reducible apply Kept.ite)
theorem execCalOverdue_kept (g : GroupId) (m : Modulator) (s : State) : ∃ s1, execCalOverdue g m s = .next s1 ∧ Kept s s1 := by
  refine ⟨_, rfl, ?_⟩
  try dsimp only
  repeat' (first
    | with_reducible exact Kept.refl _
    | with_reducible apply State.fault_kept
    | with_reducible apply State.modUnder_kept
    | with_reducible apply Kept.ite)
theorem State.bringHome_kept {a : State} (s : State) (g : GroupId) (sp : Spare) (h0 : Kept a s) : Kept a (State.bringHome s g sp) := by
  refine h0.trans ?_
  unfold State.bringHome
  try dsimp only
  repeat' (first
    | with_reducible exact Kept.refl _
    | with_reducible apply State.modLoan_kept
    | with_reducible apply State.connect_kept
    | with_reducible apply State.enterStep_kept
    | with_reducible apply State.release_kept
    | with_reducible apply State.reconnect_kept
    | split)
theorem State.bringHomeAll_kept {a : State} (s : State) (g : GroupId) (h0 : Kept a s) : Kept a (State.bringHomeAll s g) := by
  refine h0.trans ?_
  unfold State.bringHomeAll
  try dsimp only
  repeat' (first
    | with_reducible exact Kept.refl _
    | with_reducible apply State.bringHome_kept)
theorem State.stopRuns_kept {a : State} (s : State) (g : GroupId) (h0 : Kept a s) : Kept a (State.stopRuns s g) := by
  refine h0.trans ?_
  unfold State.stopRuns
  try dsimp only
  repeat' (first
    | with_reducible exact Kept.refl _
    | with_reducible apply State.modUnder_kept
    | with_reducible apply State.connect_kept
    | with_reducible apply Kept.each
    | with_reducible apply Kept.ite
    | split
    | intro _)
theorem State.resumeSpare_kept {a : State} (s : State) (g : GroupId) (sp : Spare) (h0 : Kept a s) : Kept a (State.resumeSpare s g sp) := by
  refine h0.trans ?_
  unfold State.resumeSpare
  extract_lets ms from_ s1
  have k_s1 : Kept s s1 := by
    unfold s1
    try dsimp only
    repeat' (first
      | with_reducible assumption
      | with_reducible exact Kept.refl _
      | with_reducible apply State.modLoan_kept)
  try clear_value s1
  try dsimp only
  repeat' (first
    | with_reducible assumption
    | with_reducible exact Kept.refl _
    | with_reducible apply State.modLoan_kept
    | with_reducible apply State.spareZero_kept
    | with_reducible apply Kept.ite)
theorem State.resumeLoans_kept {a : State} (s : State) (g : GroupId) (h0 : Kept a s) : Kept a (State.resumeLoans s g) := by
  refine h0.trans ?_
  unfold State.resumeLoans
  try dsimp only
  repeat' (first
    | with_reducible exact Kept.refl _
    | with_reducible apply State.modUnder_kept
    | with_reducible apply State.resumeSpare_kept)

end Sys2Proof.Machine
end

