-- ==== Sys2Proof/Laws/KeptOutTest.lean ====
section
/-!
SUPPORT. What the operations and commands of Machine/OutTest.lean keep.
-/

namespace Sys2Proof.Machine

theorem execOffTestStart_kept (c : Chan) (s : State) : ∃ s1, execOffTestStart c s = .next s1 ∧ Kept s s1 := by
  refine ⟨_, rfl, ?_⟩
  try dsimp only
  repeat' (first
    | with_reducible apply LaneState.modProv_ok
    | with_reducible exact Kept.refl _
    | with_reducible apply State.modLanes_kept
    | with_reducible apply State.modGroup_kept
    | with_reducible apply State.modProv_kept
    | with_reducible apply State.modSched_kept
    | with_reducible apply State.settles_kept
    | with_reducible apply Kept.ite
    | split
    | intro _
    | with_reducible assumption
    | with_reducible refine LaneOk.mk_same ?_
    | with_reducible refine HubOk.mk_same ?_
    | with_reducible refine FrontEnd.gatesOk_same ?_
    | with_reducible refine BankState.gatesOk_same ?_
    | with_reducible refine Kept.mk_same ?_)
theorem execOffTestGateCheck_kept (c : Chan) (s : State) : ∃ s1, execOffTestGateCheck c s = .next s1 ∧ Kept s s1 := by
  refine ⟨_, rfl, ?_⟩
  try dsimp only
  repeat' (first
    | with_reducible exact Kept.refl _
    | with_reducible apply State.testFails_kept
    | with_reducible apply State.transDone_kept
    | with_reducible apply Kept.ite
    | split)
theorem State.endOff_kept {a : State} (s : State) (c : Chan) (h0 : Kept a s) : Kept a (State.endOff s c) := by
  refine h0.trans ?_
  unfold State.endOff
  try dsimp only
  repeat' (first
    | with_reducible exact Kept.refl _
    | with_reducible apply State.modLanes_kept
    | intro _
    | with_reducible assumption
    | with_reducible refine LaneOk.mk_same ?_)
theorem State.endOffNow_kept {a : State} (s : State) (c : Chan) (h0 : Kept a s) : Kept a (State.endOffNow s c) := by
  refine h0.trans ?_
  unfold State.endOffNow
  try dsimp only
  repeat' (first
    | with_reducible exact Kept.refl _
    | with_reducible apply State.modLanes_kept
    | intro _
    | with_reducible assumption
    | with_reducible refine LaneOk.mk_same ?_)
theorem State.testEnds_kept {a : State} (s : State) (c : Chan) (code : Nat) (h0 : Kept a s) : Kept a (State.testEnds s c code) := by
  refine h0.trans ?_
  unfold State.testEnds
  extract_lets s1
  have k_s1 : Kept s s1 := by
    unfold s1
    try dsimp only
    repeat' (first
      | with_reducible assumption
      | with_reducible exact Kept.refl _
      | with_reducible apply State.modGroup_kept)
  try clear_value s1
  try dsimp only
  repeat' (first
    | with_reducible assumption
    | with_reducible exact Kept.refl _
    | with_reducible apply State.modGroup_kept
    | with_reducible apply State.chanProved_kept
    | with_reducible apply State.testResult_kept
    | with_reducible apply Kept.ite)
theorem execOffTestEnd_kept (c : Chan) (s : State) : ∃ s1, execOffTestEnd c s = .next s1 ∧ Kept s s1 := by
  refine ⟨_, rfl, ?_⟩
  try dsimp only
  repeat' (first
    | with_reducible exact Kept.refl _
    | with_reducible apply State.endOff_kept
    | with_reducible apply State.testEnds_kept
    | with_reducible apply Kept.ite
    | split)
theorem execMajorityTestStart_kept (c : Chan) (s : State) : ∃ s1, execMajorityTestStart c s = .next s1 ∧ Kept s s1 := by
  refine ⟨_, rfl, ?_⟩
  try dsimp only
  repeat' (first
    | with_reducible apply LaneState.modProv_ok
    | with_reducible exact Kept.refl _
    | with_reducible apply State.modLane_kept
    | with_reducible apply State.modLanes_kept
    | with_reducible apply State.modGroup_kept
    | with_reducible apply State.modProv_kept
    | with_reducible apply State.modSched_kept
    | with_reducible apply State.settles_kept
    | with_reducible apply Kept.ite
    | split
    | intro _
    | with_reducible assumption
    | with_reducible refine LaneOk.mk_same ?_
    | with_reducible refine HubOk.mk_same ?_
    | with_reducible refine FrontEnd.gatesOk_same ?_
    | with_reducible refine BankState.gatesOk_same ?_
    | with_reducible refine Kept.mk_same ?_)
theorem execMajorityTestEnd_kept (c : Chan) (s : State) : ∃ s1, execMajorityTestEnd c s = .next s1 ∧ Kept s s1 := by
  refine ⟨_, rfl, ?_⟩
  try dsimp only
  repeat' (first
    | with_reducible exact Kept.refl _
    | with_reducible apply State.endMajority_kept
    | with_reducible apply State.testEnds_kept
    | with_reducible apply Kept.ite
    | split)
theorem execProofOverdue_kept (i : ProofItem) (s : State) : ∃ s1, execProofOverdue i s = .next s1 ∧ Kept s s1 := by
  refine ⟨_, rfl, ?_⟩
  try dsimp only
  repeat' (first
    | with_reducible exact Kept.refl _
    | with_reducible apply State.fault_kept
    | with_reducible apply State.modSched_kept
    | with_reducible apply State.modPtSched_kept
    | with_reducible apply Kept.ite
    | split)

end Sys2Proof.Machine
end

