-- ==== Sys2Proof/Laws/KeptMail.lean ====
section
/-!
SUPPORT. What the operations and commands of Machine/Mail.lean keep.
-/

namespace Sys2Proof.Machine

theorem State.prune_kept {a : State} (s : State) (h0 : Kept a s) : Kept a (State.prune s) := by
  refine h0.trans ?_
  unfold State.prune
  try dsimp only
  repeat' (first
    | with_reducible exact Kept.refl _
    | with_reducible refine Kept.mk_same ?_)
theorem State.endTxn_kept {a : State} (s : State) (num : Nat) (h0 : Kept a s) : Kept a (State.endTxn s num) := by
  refine h0.trans ?_
  unfold State.endTxn
  try dsimp only
  repeat' (first
    | with_reducible exact Kept.refl _
    | with_reducible apply State.modTxn_kept
    | with_reducible apply State.prune_kept)
theorem State.placeResp_kept {a : State} (s : State) (q : RingId) (m : OutMsg) (h0 : Kept a s) : Kept a (State.placeResp s q m) := by
  refine h0.trans ?_
  unfold State.placeResp
  extract_lets s1
  have k_s1 : Kept s s1 := by
    unfold s1
    try dsimp only
    repeat' (first
      | with_reducible assumption
      | with_reducible exact Kept.refl _
      | with_reducible apply State.placeMsg_kept)
  try clear_value s1
  try dsimp only
  repeat' (first
    | with_reducible assumption
    | with_reducible exact Kept.refl _
    | with_reducible apply State.placeMsg_kept
    | with_reducible apply State.endTxn_kept
    | with_reducible apply Kept.ite
    | split)
theorem State.forward_kept {a : State} (s : State) (t : Txn) (octets : Bytes) (last : Bool) (h0 : Kept a s) : Kept a (State.forward s t octets last) := by
  refine h0.trans ?_
  unfold State.forward
  extract_lets q s1 m r
  have k_s1 : Kept s s1 := by
    unfold s1
    try dsimp only
    repeat' (first
      | with_reducible assumption
      | with_reducible exact Kept.refl _
      | with_reducible apply State.modRing_kept
      | with_reducible apply State.modTxn_kept
      | with_reducible apply State.prune_kept
      | with_reducible apply State.placeResp_kept
      | with_reducible apply Kept.ite)
  try clear_value s1
  try dsimp only
  repeat' (first
    | with_reducible assumption
    | with_reducible exact Kept.refl _
    | with_reducible apply State.modRing_kept
    | with_reducible apply State.modTxn_kept
    | with_reducible apply State.prune_kept
    | with_reducible apply State.placeResp_kept
    | with_reducible apply Kept.ite)
theorem execResponseVote_kept (num : Nat) (s : State) : ∃ s1, execResponseVote num s = .next s1 ∧ Kept s s1 := by
  refine ⟨_, rfl, ?_⟩
  try dsimp only
  repeat' (first
    | with_reducible exact Kept.refl _
    | with_reducible apply State.forward_kept
    | with_reducible apply Kept.ite
    | split)
theorem execLaneDisagree_kept (num : Nat) (s : State) : ∃ s1, execLaneDisagree num s = .next s1 ∧ Kept s s1 := by
  refine ⟨_, rfl, ?_⟩
  try dsimp only
  repeat' (first
    | with_reducible exact Kept.refl _
    | with_reducible apply State.note_kept
    | with_reducible apply State.forward_kept
    | with_reducible apply Kept.ite
    | split)
theorem execLspecResponseTimeout_kept (num : Nat) (s : State) : ∃ s1, execLspecResponseTimeout num s = .next s1 ∧ Kept s s1 := by
  refine ⟨_, rfl, ?_⟩
  try dsimp only
  repeat' (first
    | with_reducible exact Kept.refl _
    | with_reducible apply State.modTxn_kept
    | with_reducible apply State.endTxn_kept
    | with_reducible apply Kept.ite
    | split)
theorem State.fillRing_kept {a : State} (s : State) (q : RingId) (z : List OutMsg) (h0 : Kept a s) : Kept a (State.fillRing s q z) := by
  induction z generalizing s q with
  | nil =>
    unfold State.fillRing
    try dsimp only
    repeat' (first
      | with_reducible exact h0
      | with_reducible apply ih
      | with_reducible apply State.modRing_kept)
  | cons x z ih =>
    unfold State.fillRing
    try dsimp only
    repeat' (first
      | with_reducible exact h0
      | with_reducible apply ih
      | with_reducible apply State.modRing_kept
      | with_reducible apply State.placeResp_kept
      | with_reducible apply Kept.ite)
theorem execResponseRingRoom_kept (q : RingId) (s : State) : ∃ s1, execResponseRingRoom q s = .next s1 ∧ Kept s s1 := by
  refine ⟨_, rfl, ?_⟩
  try dsimp only
  repeat' (first
    | with_reducible exact Kept.refl _
    | with_reducible apply State.fillRing_kept
    | with_reducible apply Kept.ite
    | split)
theorem State.storeTxn_kept {a : State} (s : State) (src : Source) (q : RingId) (octets : Bytes) (entries : Nat) (h0 : Kept a s) : Kept a (State.storeTxn s src q octets entries) := by
  refine h0.trans ?_
  unfold State.storeTxn
  try dsimp only
  repeat' (first
    | with_reducible exact Kept.refl _
    | with_reducible refine Kept.mk_same ?_)
theorem State.segDrop_kept {a : State} (s : State) (h : HubId) (n : Nat) (h0 : Kept a s) : Kept a (State.segDrop s h n) := by
  refine h0.trans ?_
  unfold State.segDrop
  try dsimp only
  repeat' (first
    | with_reducible exact Kept.refl _
    | with_reducible apply State.modHub_kept
    | intro _
    | with_reducible assumption
    | with_reducible refine LaneOk.mk_same ?_
    | with_reducible refine HubOk.mk_same ?_)
theorem State.dropOpen_kept {a : State} (s : State) (h : HubId) (x : Source) (h0 : Kept a s) : Kept a (State.dropOpen s h x) := by
  refine h0.trans ?_
  unfold State.dropOpen
  try dsimp only
  repeat' (first
    | with_reducible exact Kept.refl _
    | with_reducible apply State.modRing_kept
    | with_reducible apply State.segDrop_kept
    | with_reducible apply Kept.each
    | split
    | intro _)
theorem State.advanceSeq_kept {a : State} (s : State) (x : Source) (n : Nat) (h0 : Kept a s) : Kept a (State.advanceSeq s x n) := by
  refine h0.trans ?_
  unfold State.advanceSeq
  try dsimp only
  repeat' (first
    | with_reducible exact Kept.refl _
    | with_reducible apply State.modRing_kept
    | split)
theorem State.freeRing_kept {a : State} (s : State) (q : RingId) (h0 : Kept a s) : Kept a (State.freeRing s q) := by
  refine h0.trans ?_
  unfold State.freeRing
  try dsimp only
  repeat' (first
    | with_reducible exact Kept.refl _
    | with_reducible apply State.modRing_kept
    | with_reducible apply State.free_kept
    | with_reducible apply State.prune_kept
    | with_reducible apply Kept.ite
    | split
    | with_reducible refine Kept.mk_same ?_)
theorem State.freeRings_kept {a : State} (s : State) (h0 : Kept a s) : Kept a (State.freeRings s) := by
  refine h0.trans ?_
  unfold State.freeRings
  try dsimp only
  repeat' (first
    | with_reducible exact Kept.refl _
    | with_reducible apply State.freeRing_kept
    | with_reducible apply Kept.each
    | intro _)
theorem State.abort_kept {a : State} (s : State) (t : Txn) (h0 : Kept a s) : Kept a (State.abort s t) := by
  refine h0.trans ?_
  unfold State.abort
  extract_lets s1
  have k_s1 : Kept s s1 := by
    unfold s1
    try dsimp only
    repeat' (first
      | with_reducible assumption
      | with_reducible exact Kept.refl _
      | with_reducible apply State.modTxn_kept
      | with_reducible apply State.forward_kept
      | with_reducible apply Kept.ite)
  try clear_value s1
  try dsimp only
  repeat' (first
    | with_reducible assumption
    | with_reducible exact Kept.refl _
    | with_reducible apply State.modTxn_kept
    | with_reducible apply State.forward_kept
    | with_reducible apply State.modRing_kept
    | with_reducible apply Kept.ite)
theorem State.switchover_kept {a : State} (s : State) (h0 : Kept a s) : Kept a (State.switchover s) := by
  refine h0.trans ?_
  unfold State.switchover
  extract_lets src s0 s1
  have k_s0 : Kept s s0 := by
    unfold s0
    try dsimp only
    repeat' (first
      | with_reducible assumption
      | with_reducible exact Kept.refl _
      | with_reducible apply State.note_kept
      | with_reducible apply State.freeRings_kept
      | with_reducible apply State.abort_kept
      | with_reducible apply Kept.each
      | intro _
      | with_reducible refine Kept.mk_same ?_)
  try clear_value s0
  have k_s1 : Kept s s1 := by
    unfold s1
    try dsimp only
    repeat' (first
      | with_reducible assumption
      | with_reducible exact Kept.refl _
      | with_reducible apply State.note_kept
      | with_reducible apply State.freeRings_kept
      | with_reducible apply State.abort_kept
      | with_reducible apply Kept.each
      | intro _)
  try clear_value s1
  try dsimp only
  repeat' (first
    | with_reducible assumption
    | with_reducible exact Kept.refl _
    | with_reducible apply State.note_kept
    | with_reducible apply State.freeRings_kept)
theorem execHubSwitchover_kept (s : State) : ∃ s1, execHubSwitchover s = .next s1 ∧ Kept s s1 := by
  refine ⟨_, rfl, ?_⟩
  try dsimp only
  repeat' (first
    | with_reducible exact Kept.refl _
    | with_reducible apply State.switchover_kept
    | with_reducible apply Kept.ite)
theorem execMirrorLinkFail_kept (s : State) : ∃ s1, execMirrorLinkFail s = .next s1 ∧ Kept s s1 := by
  refine ⟨_, rfl, ?_⟩
  try dsimp only
  repeat' (first
    | with_reducible exact Kept.refl _
    | with_reducible refine Kept.mk_same ?_)
theorem State.qmemLoss_kept {a : State} (s : State) (a0 : QmemHit) (h0 : Kept a s) : Kept a (State.qmemLoss s a0) := by
  refine h0.trans ?_
  unfold State.qmemLoss
  try dsimp only
  repeat' (first
    | with_reducible exact Kept.refl _
    | with_reducible apply State.modRing_kept
    | with_reducible apply State.modTxn_kept
    | with_reducible apply State.endTxn_kept
    | with_reducible apply State.forward_kept
    | with_reducible apply State.freeRing_kept
    | split)
theorem State.qmemFault_kept {a : State} (s : State) (h : HubId) (a0 : QmemHit) (h0 : Kept a s) : Kept a (State.qmemFault s h a0) := by
  refine h0.trans ?_
  unfold State.qmemFault
  extract_lets s1 s2 src
  have k_s1 : Kept s s1 := by
    unfold s1
    try dsimp only
    repeat' (first
      | with_reducible assumption
      | with_reducible exact Kept.refl _
      | with_reducible apply State.modHub_kept
      | with_reducible apply State.fault_kept
      | with_reducible apply State.qmemLoss_kept
      | with_reducible apply Kept.ite)
  try clear_value s1
  have k_s2 : Kept s s2 := by
    unfold s2
    try dsimp only
    repeat' (first
      | with_reducible assumption
      | with_reducible exact Kept.refl _
      | with_reducible apply State.modHub_kept
      | with_reducible apply State.fault_kept
      | with_reducible apply State.qmemLoss_kept
      | with_reducible apply Kept.ite
      | split
      | intro _
      | with_reducible assumption
      | with_reducible refine LaneOk.mk_same ?_
      | with_reducible refine HubOk.mk_same ?_)
  try clear_value s2
  try dsimp only
  repeat' (first
    | with_reducible assumption
    | with_reducible exact Kept.refl _
    | with_reducible apply State.modHub_kept
    | with_reducible apply State.fault_kept
    | with_reducible apply State.qmemLoss_kept
    | with_reducible apply Kept.ite
    | split
    | intro _
    | with_reducible assumption
    | with_reducible refine LaneOk.mk_same ?_
    | with_reducible refine HubOk.mk_same ?_
    | with_reducible refine FrontEnd.gatesOk_same ?_
    | with_reducible refine BankState.gatesOk_same ?_
    | with_reducible refine Kept.mk_same ?_)
theorem execQmemFault_kept (h : HubId) (a0 : QmemHit) (s : State) : ∃ s1, execQmemFault h a0 s = .next s1 ∧ Kept s s1 := by
  refine ⟨_, rfl, ?_⟩
  try dsimp only
  repeat' (first
    | with_reducible exact Kept.refl _
    | with_reducible apply State.qmemFault_kept)
theorem State.sendLspec_kept {a : State} (s : State) (num : Nat) (l : LaneId) (r : Reply) (h0 : Kept a s) : Kept a (State.sendLspec s num l r) := by
  refine h0.trans ?_
  unfold State.sendLspec
  extract_lets s1
  have k_s1 : Kept s s1 := by
    unfold s1
    try dsimp only
    repeat' (first
      | with_reducible assumption
      | with_reducible exact Kept.refl _
      | with_reducible apply State.modTxn_kept
      | with_reducible apply State.forward_kept
      | with_reducible apply Kept.ite
      | split
      | with_reducible refine Kept.mk_same ?_)
  try clear_value s1
  try dsimp only
  repeat' (first
    | with_reducible assumption
    | with_reducible exact Kept.refl _
    | with_reducible apply State.modTxn_kept
    | with_reducible apply State.forward_kept
    | with_reducible apply Kept.ite
    | split
    | with_reducible refine Kept.mk_same ?_)

end Sys2Proof.Machine
end

