-- ==== Sys2Proof/Laws/KeptPoindModule.lean ====
section
/-!
SUPPORT. What the operations and commands of Machine/PoindModule.lean keep.
-/

namespace Sys2Proof.Machine

theorem State.unless_kept {a : State} (s : State) (checks : List (Bool × Nat)) (run : State → OpRes) (hr : ∀ t, Kept t (run t).1)
    (h0 : Kept a s) : Kept a (State.unless s checks run).1 := by
  unfold State.unless
  split
  · exact h0
  · exact h0.trans (hr s)
theorem State.logNote_kept {a : State} (s : State) (detail : Bytes) (h0 : Kept a s) : Kept a (State.logNote s detail) := by
  refine h0.trans ?_
  unfold State.logNote
  try dsimp only
  repeat' (first
    | with_reducible exact Kept.refl _
    | with_reducible apply State.free_kept
    | with_reducible apply State.logRec_kept)
theorem opNop_kept {a : State} (a1 : Cmd) (s : State) (h0 : Kept a s) : Kept a (opNop a1 s).1 := by
  refine h0.trans ?_
  unfold opNop
  try dsimp only
  repeat' (first
    | with_reducible exact Kept.refl _)
theorem opIdent_kept {a : State} (a1 : Cmd) (s : State) (h0 : Kept a s) : Kept a (opIdent a1 s).1 := by
  refine h0.trans ?_
  unfold opIdent
  try dsimp only
  repeat' (first
    | with_reducible exact Kept.refl _)
theorem opStatus_kept {a : State} (a1 : Cmd) (s : State) (h0 : Kept a s) : Kept a (opStatus a1 s).1 := by
  refine h0.trans ?_
  unfold opStatus
  try dsimp only
  repeat' (first
    | with_reducible exact Kept.refl _)
theorem opFaultList_kept {a : State} (a1 : Cmd) (s : State) (h0 : Kept a s) : Kept a (opFaultList a1 s).1 := by
  refine h0.trans ?_
  unfold opFaultList
  try dsimp only
  repeat' (first
    | with_reducible exact Kept.refl _)
theorem State.logReq_kept {a : State} (s : State) (m : Mode) (cause : Nat) (person : DWord) (h0 : Kept a s) : Kept a (State.logReq s m cause person) := by
  refine h0.trans ?_
  unfold State.logReq
  try dsimp only
  repeat' (first
    | with_reducible exact Kept.refl _
    | with_reducible apply State.logNote_kept)
theorem opModeReq_kept {a : State} (c : Cmd) (s : State) (h0 : Kept a s) : Kept a (opModeReq c s).1 := by
  refine h0.trans ?_
  unfold opModeReq
  try dsimp only
  repeat' (first
    | with_reducible exact Kept.refl _
    | with_reducible apply State.enterMode_kept
    | with_reducible apply State.unless_kept
    | with_reducible apply State.logReq_kept
    | with_reducible apply Kept.ite
    | split
    | intro _
    | with_reducible assumption
    | with_reducible refine LaneOk.mk_same ?_
    | with_reducible refine HubOk.mk_same ?_
    | with_reducible refine FrontEnd.gatesOk_same ?_
    | with_reducible refine BankState.gatesOk_same ?_
    | with_reducible refine Kept.mk_same ?_)
theorem State.wipeStation_kept {a : State} (s : State) (h0 : Kept a s) : Kept a (State.wipeStation s) := by
  refine h0.trans ?_
  unfold State.wipeStation
  try dsimp only
  repeat' (first
    | with_reducible exact Kept.refl _
    | with_reducible refine Kept.mk_same ?_)
theorem State.setLifecycle_kept {a : State} (s : State) (k : LifeCycle) (person : Nat) (h0 : Kept a s) : Kept a (State.setLifecycle s k person) := by
  refine h0.trans ?_
  unfold State.setLifecycle
  try dsimp only
  repeat' (first
    | with_reducible exact Kept.refl _
    | with_reducible apply State.note_kept
    | with_reducible refine Kept.mk_same ?_)
theorem State.workFromBank_kept {a : State} (s : State) (h0 : Kept a s) : Kept a (State.workFromBank s) := by
  refine h0.trans ?_
  unfold State.workFromBank
  try dsimp only
  repeat' (first
    | with_reducible exact Kept.refl _
    | with_reducible refine Kept.mk_same ?_)
theorem opLifecycleReq_kept {a : State} (c : Cmd) (s : State) (h0 : Kept a s) : Kept a (opLifecycleReq c s).1 := by
  refine h0.trans ?_
  unfold opLifecycleReq
  try dsimp only
  repeat' (first
    | with_reducible exact Kept.refl _
    | with_reducible apply State.unless_kept
    | with_reducible apply State.setLifecycle_kept
    | with_reducible apply State.workFromBank_kept
    | with_reducible apply Kept.ite
    | split
    | intro _
    | with_reducible assumption
    | with_reducible refine LaneOk.mk_same ?_
    | with_reducible refine HubOk.mk_same ?_
    | with_reducible refine FrontEnd.gatesOk_same ?_
    | with_reducible refine BankState.gatesOk_same ?_
    | with_reducible refine Kept.mk_same ?_)
theorem opResetArm_kept {a : State} (c : Cmd) (s : State) (h0 : Kept a s) : Kept a (opResetArm c s).1 := by
  refine h0.trans ?_
  unfold opResetArm
  try dsimp only
  repeat' (first
    | with_reducible exact Kept.refl _
    | with_reducible apply State.unless_kept
    | intro _
    | with_reducible assumption
    | with_reducible refine LaneOk.mk_same ?_
    | with_reducible refine HubOk.mk_same ?_
    | with_reducible refine FrontEnd.gatesOk_same ?_
    | with_reducible refine BankState.gatesOk_same ?_
    | with_reducible refine Kept.mk_same ?_)
theorem opResetExec_kept {a : State} (c : Cmd) (s : State) (h0 : Kept a s) : Kept a (opResetExec c s).1 := by
  refine h0.trans ?_
  unfold opResetExec
  try dsimp only
  repeat' (first
    | with_reducible exact Kept.refl _
    | with_reducible apply State.unless_kept
    | with_reducible apply Kept.ite
    | split
    | intro _
    | with_reducible assumption
    | with_reducible refine LaneOk.mk_same ?_
    | with_reducible refine HubOk.mk_same ?_
    | with_reducible refine FrontEnd.gatesOk_same ?_
    | with_reducible refine BankState.gatesOk_same ?_
    | with_reducible refine Kept.mk_same ?_)
theorem State.resubscribe_kept {a : State} (s : State) (x : Source) (m : BitVec 5) (h0 : Kept a s) : Kept a (State.resubscribe s x m) := by
  refine h0.trans ?_
  unfold State.resubscribe
  extract_lets old src s1 drop
  have k_s1 : Kept s s1 := by
    unfold s1
    try dsimp only
    repeat' (first
      | with_reducible assumption
      | with_reducible exact Kept.refl _
      | with_reducible apply State.modRing_kept
      | with_reducible apply Kept.each
      | with_reducible apply Kept.ite
      | split
      | intro _
      | with_reducible refine Kept.mk_same ?_)
  try clear_value s1
  try dsimp only
  repeat' (first
    | with_reducible assumption
    | with_reducible exact Kept.refl _
    | with_reducible apply State.modRing_kept
    | with_reducible apply Kept.each
    | with_reducible apply Kept.ite
    | split
    | intro _)
theorem opSubscribe_kept {a : State} (c : Cmd) (s : State) (h0 : Kept a s) : Kept a (opSubscribe c s).1 := by
  refine h0.trans ?_
  unfold opSubscribe
  try dsimp only
  repeat' (first
    | with_reducible exact Kept.refl _
    | with_reducible apply State.unless_kept
    | with_reducible apply State.resubscribe_kept
    | intro _)
theorem opCountsRead_kept {a : State} (a1 : Cmd) (l : LaneId) (s : State) (h0 : Kept a s) : Kept a (opCountsRead a1 l s).1 := by
  refine h0.trans ?_
  unfold opCountsRead
  try dsimp only
  repeat' (first
    | with_reducible exact Kept.refl _)
theorem State.sendLog_kept {a : State} (s : State) (first : Nat) (recs : List Bytes) (z : Nat) (h0 : Kept a s) : Kept a (State.sendLog s first recs z) := by
  induction z generalizing s first recs with
  | zero =>
    unfold State.sendLog
    try dsimp only
    repeat' (first
      | with_reducible exact h0)
  | succ z ih =>
    unfold State.sendLog
    try dsimp only
    repeat' (first
      | with_reducible exact h0
      | with_reducible apply ih
      | with_reducible apply State.post_kept
      | with_reducible apply Kept.ite)
theorem opLogRead_kept {a : State} (c : Cmd) (s : State) (h0 : Kept a s) : Kept a (opLogRead c s).1 := by
  refine h0.trans ?_
  unfold opLogRead
  try dsimp only
  repeat' (first
    | with_reducible exact Kept.refl _
    | with_reducible apply State.unless_kept
    | with_reducible apply State.sendLog_kept
    | with_reducible apply Kept.ite
    | split
    | intro _)
theorem opChipIdent_kept {a : State} (a1 : Cmd) (l : LaneId) (s : State) (h0 : Kept a s) : Kept a (opChipIdent a1 l s).1 := by
  refine h0.trans ?_
  unfold opChipIdent
  try dsimp only
  repeat' (first
    | with_reducible exact Kept.refl _)

end Sys2Proof.Machine
end

