-- ==== Sys2Proof/Laws/KeptPoindParam.lean ====
section
/-!
SUPPORT. What the operations and commands of Machine/PoindParam.lean keep.
-/

namespace Sys2Proof.Machine

theorem opParamRead_kept {a : State} (c : Cmd) (s : State) (h0 : Kept a s) : Kept a (opParamRead c s).1 := by
  refine h0.trans ?_
  unfold opParamRead
  try dsimp only
  repeat' (first
    | with_reducible exact Kept.refl _
    | with_reducible apply State.unless_kept
    | with_reducible apply Kept.ite
    | split
    | intro _)
theorem opParamWrite_kept {a : State} (c : Cmd) (s : State) (h0 : Kept a s) : Kept a (opParamWrite c s).1 := by
  refine h0.trans ?_
  unfold opParamWrite
  try dsimp only
  repeat' (first
    | with_reducible exact Kept.refl _
    | with_reducible apply State.probeTrim_kept
    | with_reducible apply State.unless_kept
    | intro _
    | with_reducible assumption
    | with_reducible refine LaneOk.mk_same ?_
    | with_reducible refine HubOk.mk_same ?_
    | with_reducible refine FrontEnd.gatesOk_same ?_
    | with_reducible refine BankState.gatesOk_same ?_
    | with_reducible refine Kept.mk_same ?_
    | dsimp only)
theorem opParamRevert_kept {a : State} (a1 : Cmd) (s : State) (h0 : Kept a s) : Kept a (opParamRevert a1 s).1 := by
  refine h0.trans ?_
  unfold opParamRevert
  try dsimp only
  repeat' (first
    | with_reducible exact Kept.refl _
    | with_reducible apply State.probeTrim_kept
    | with_reducible apply State.workFromBank_kept
    | dsimp only)
theorem opParamDefaults_kept {a : State} (c : Cmd) (s : State) (h0 : Kept a s) : Kept a (opParamDefaults c s).1 := by
  refine h0.trans ?_
  unfold opParamDefaults
  try dsimp only
  repeat' (first
    | with_reducible exact Kept.refl _
    | with_reducible apply State.probeTrim_kept
    | with_reducible apply State.unless_kept
    | with_reducible apply Kept.ite
    | split
    | intro _
    | with_reducible assumption
    | with_reducible refine LaneOk.mk_same ?_
    | with_reducible refine HubOk.mk_same ?_
    | with_reducible refine FrontEnd.gatesOk_same ?_
    | with_reducible refine BankState.gatesOk_same ?_
    | with_reducible refine Kept.mk_same ?_
    | dsimp only)
theorem opSealShow_kept {a : State} (a1 : Cmd) (s : State) (h0 : Kept a s) : Kept a (opSealShow a1 s).1 := by
  refine h0.trans ?_
  unfold opSealShow
  try dsimp only
  repeat' (first
    | with_reducible exact Kept.refl _
    | split)
theorem State.sealBank_kept {a : State} (s : State) (h0 : Kept a s) : Kept a (State.sealBank s) := by
  refine h0.trans ?_
  unfold State.sealBank
  try dsimp only
  repeat' (first
    | with_reducible exact Kept.refl _
    | with_reducible refine Kept.mk_same ?_)
theorem opSealConfirm_kept {a : State} (c : Cmd) (s : State) (h0 : Kept a s) : Kept a (opSealConfirm c s).1 := by
  refine h0.trans ?_
  unfold opSealConfirm
  try dsimp only
  repeat' (first
    | with_reducible exact Kept.refl _
    | with_reducible apply State.withdrawFault_kept
    | with_reducible apply State.unless_kept
    | with_reducible apply State.logNote_kept
    | with_reducible apply State.setLifecycle_kept
    | with_reducible apply State.sealBank_kept
    | with_reducible apply Kept.each
    | with_reducible apply Kept.ite
    | split
    | intro _)

end Sys2Proof.Machine
end

