-- ==== Sys2Proof/Laws/KeptPoindLamp.lean ====
section
/-!
SUPPORT. What the operations and commands of Machine/PoindLamp.lean keep.
-/

namespace Sys2Proof.Machine

theorem opLampRead_kept {a : State} (c : Cmd) (s : State) (h0 : Kept a s) : Kept a (opLampRead c s).1 := by
  refine h0.trans ?_
  unfold opLampRead
  try dsimp only
  repeat' (first
    | with_reducible exact Kept.refl _
    | with_reducible apply State.unless_kept
    | intro _)
theorem opProveClear_kept {a : State} (c : Cmd) (s : State) (h0 : Kept a s) : Kept a (opProveClear c s).1 := by
  refine h0.trans ?_
  unfold opProveClear
  try dsimp only
  repeat' (first
    | with_reducible exact Kept.refl _
    | with_reducible apply State.unless_kept
    | intro _
    | with_reducible assumption
    | with_reducible refine LaneOk.mk_same ?_
    | with_reducible refine HubOk.mk_same ?_
    | with_reducible refine FrontEnd.gatesOk_same ?_
    | with_reducible refine BankState.gatesOk_same ?_
    | with_reducible refine Kept.mk_same ?_)
theorem opLatchClear_kept {a : State} (c : Cmd) (s : State) (h0 : Kept a s) : Kept a (opLatchClear c s).1 := by
  refine h0.trans ?_
  unfold opLatchClear
  try dsimp only
  repeat' (first
    | with_reducible exact Kept.refl _
    | with_reducible apply State.unless_kept
    | intro _
    | with_reducible assumption
    | with_reducible refine LaneOk.mk_same ?_
    | with_reducible refine HubOk.mk_same ?_
    | with_reducible refine FrontEnd.gatesOk_same ?_
    | with_reducible refine BankState.gatesOk_same ?_
    | with_reducible refine Kept.mk_same ?_)
theorem State.proveClear_kept {a : State} (s : State) (k : PendingClear) (h0 : Kept a s) : Kept a (State.proveClear s k) := by
  refine h0.trans ?_
  unfold State.proveClear
  extract_lets was s1
  have k_s1 : Kept s s1 := by
    unfold s1
    try dsimp only
    repeat' (first
      | with_reducible assumption
      | with_reducible exact Kept.refl _
      | with_reducible apply State.modLanes_kept
      | with_reducible apply State.answer_kept
      | with_reducible apply Kept.ite
      | split
      | intro _
      | with_reducible assumption
      | with_reducible refine LaneOk.mk_same ?_
      | with_reducible refine HubOk.mk_same ?_
      | with_reducible refine FrontEnd.gatesOk_same ?_
      | with_reducible refine BankState.gatesOk_same ?_
      | with_reducible refine Kept.mk_same ?_)
  try clear_value s1
  try dsimp only
  repeat' (first
    | with_reducible assumption
    | with_reducible exact Kept.refl _
    | with_reducible apply State.modLanes_kept
    | with_reducible apply State.answer_kept
    | with_reducible apply Kept.ite
    | split
    | intro _
    | with_reducible assumption
    | with_reducible refine LaneOk.mk_same ?_
    | with_reducible refine HubOk.mk_same ?_
    | with_reducible refine FrontEnd.gatesOk_same ?_
    | with_reducible refine BankState.gatesOk_same ?_
    | with_reducible refine Kept.mk_same ?_)
theorem State.latchClear_kept {a : State} (s : State) (k : PendingClear) (h0 : Kept a s) : Kept a (State.latchClear s k) := by
  refine h0.trans ?_
  unfold State.latchClear
  extract_lets sw re anyL chans gs bs s1 s2 s3 kinds
  have k_s1 : Kept s s1 := by
    unfold s1
    try dsimp only
    repeat' (first
      | with_reducible assumption
      | with_reducible exact Kept.refl _
      | with_reducible apply State.modLanes_kept
      | with_reducible apply State.answer_kept
      | with_reducible apply State.clearGroup_kept
      | with_reducible apply State.clearSupplyLoss_kept
      | with_reducible apply State.switchFault_kept
      | with_reducible apply Kept.each
      | with_reducible apply Kept.ite
      | split
      | intro _
      | with_reducible assumption
      | with_reducible refine LaneOk.mk_same ?_)
  try clear_value s1
  have k_s2 : Kept s s2 := by
    unfold s2
    try dsimp only
    repeat' (first
      | with_reducible assumption
      | with_reducible exact Kept.refl _
      | with_reducible apply State.modLanes_kept
      | with_reducible apply State.answer_kept
      | with_reducible apply State.clearGroup_kept
      | with_reducible apply State.clearSupplyLoss_kept
      | with_reducible apply State.switchFault_kept
      | with_reducible apply Kept.each
      | with_reducible apply Kept.ite
      | split
      | intro _)
  try clear_value s2
  have k_s3 : Kept s s3 := by
    unfold s3
    try dsimp only
    repeat' (first
      | with_reducible assumption
      | with_reducible exact Kept.refl _
      | with_reducible apply State.modLanes_kept
      | with_reducible apply State.answer_kept
      | with_reducible apply State.clearGroup_kept
      | with_reducible apply State.clearSupplyLoss_kept
      | with_reducible apply State.switchFault_kept
      | with_reducible apply Kept.each
      | with_reducible apply Kept.ite
      | split
      | intro _)
  try clear_value s3
  try dsimp only
  repeat' (first
    | with_reducible assumption
    | with_reducible exact Kept.refl _
    | with_reducible apply State.modLanes_kept
    | with_reducible apply State.answer_kept)
theorem opTeach_kept {a : State} (c : Cmd) (s : State) (h0 : Kept a s) : Kept a (opTeach c s).1 := by
  refine h0.trans ?_
  unfold opTeach
  try dsimp only
  repeat' (first
    | with_reducible exact Kept.refl _
    | with_reducible apply State.modLanes_kept
    | with_reducible apply State.unless_kept
    | split
    | intro _
    | with_reducible assumption
    | with_reducible refine LaneOk.mk_same ?_
    | with_reducible refine HubOk.mk_same ?_
    | with_reducible refine FrontEnd.gatesOk_same ?_
    | with_reducible refine BankState.gatesOk_same ?_
    | with_reducible refine Kept.mk_same ?_)
theorem State.teachEnds_kept {a : State} (s : State) (h0 : Kept a s) : Kept a (State.teachEnds s) := by
  refine h0.trans ?_
  unfold State.teachEnds
  try dsimp only
  repeat' (first
    | with_reducible exact Kept.refl _
    | with_reducible apply State.stopTeach_kept
    | with_reducible apply Kept.ite
    | split)
theorem execTeachChannelDone_kept (c : Chan) (s : State) : ∃ s1, execTeachChannelDone c s = .next s1 ∧ Kept s s1 := by
  refine ⟨_, rfl, ?_⟩
  try dsimp only
  repeat' (first
    | with_reducible exact Kept.refl _
    | with_reducible apply State.modLanes_kept
    | with_reducible apply State.probeTrim_kept
    | with_reducible apply State.teachEnds_kept
    | with_reducible apply Kept.ite
    | split
    | intro _
    | with_reducible assumption
    | with_reducible refine LaneOk.mk_same ?_
    | with_reducible refine HubOk.mk_same ?_
    | with_reducible refine FrontEnd.gatesOk_same ?_
    | with_reducible refine BankState.gatesOk_same ?_
    | with_reducible refine Kept.mk_same ?_)
theorem opLampTest_kept {a : State} (c : Cmd) (s : State) (h0 : Kept a s) : Kept a (opLampTest c s).1 := by
  refine h0.trans ?_
  unfold opLampTest
  try dsimp only
  repeat' (first
    | with_reducible exact Kept.refl _
    | with_reducible apply State.overlayNow_kept
    | with_reducible apply State.unless_kept
    | intro _
    | with_reducible assumption
    | with_reducible refine LaneOk.mk_same ?_
    | with_reducible refine HubOk.mk_same ?_
    | with_reducible refine FrontEnd.gatesOk_same ?_
    | with_reducible refine BankState.gatesOk_same ?_
    | with_reducible refine Kept.mk_same ?_
    | dsimp only)
theorem execLampTestEnd_kept (s : State) : ∃ s1, execLampTestEnd s = .next s1 ∧ Kept s s1 := by
  refine ⟨_, rfl, ?_⟩
  try dsimp only
  repeat' (first
    | with_reducible exact Kept.refl _
    | with_reducible apply State.answer_kept
    | split
    | with_reducible refine Kept.mk_same ?_)

end Sys2Proof.Machine
end

