-- ==== Sys2Proof/Laws/KeptPoindMeas.lean ====
section
/-!
SUPPORT. What the operations and commands of Machine/PoindMeas.lean keep.
-/

namespace Sys2Proof.Machine

theorem opMeasRead_kept {a : State} (c : Cmd) (l : LaneId) (s : State) (h0 : Kept a s) : Kept a (opMeasRead c l s).1 := by
  refine h0.trans ?_
  unfold opMeasRead
  try dsimp only
  repeat' (first
    | with_reducible exact Kept.refl _
    | with_reducible apply Kept.ite
    | split
    | dsimp only)
theorem opAuxRead_kept {a : State} (c : Cmd) (a2 : LaneId) (s : State) (h0 : Kept a s) : Kept a (opAuxRead c a2 s).1 := by
  refine h0.trans ?_
  unfold opAuxRead
  try dsimp only
  repeat' (first
    | with_reducible exact Kept.refl _)
theorem opProbeRead_kept {a : State} (c : Cmd) (l : LaneId) (s : State) (h0 : Kept a s) : Kept a (opProbeRead c l s).1 := by
  refine h0.trans ?_
  unfold opProbeRead
  try dsimp only
  repeat' (first
    | with_reducible exact Kept.refl _)
theorem opBusRead_kept {a : State} (c : Cmd) (a2 : LaneId) (s : State) (h0 : Kept a s) : Kept a (opBusRead c a2 s).1 := by
  refine h0.trans ?_
  unfold opBusRead
  try dsimp only
  repeat' (first
    | with_reducible exact Kept.refl _)
theorem opTimeRead_kept {a : State} (c : Cmd) (a2 : LaneId) (s : State) (h0 : Kept a s) : Kept a (opTimeRead c a2 s).1 := by
  refine h0.trans ?_
  unfold opTimeRead
  try dsimp only
  repeat' (first
    | with_reducible exact Kept.refl _)
theorem opSelftestRead_kept {a : State} (a1 : Cmd) (a2 : LaneId) (s : State) (h0 : Kept a s) : Kept a (opSelftestRead a1 a2 s).1 := by
  refine h0.trans ?_
  unfold opSelftestRead
  try dsimp only
  repeat' (first
    | with_reducible exact Kept.refl _)
theorem opCapture_kept {a : State} (c : Cmd) (s : State) (h0 : Kept a s) : Kept a (opCapture c s).1 := by
  refine h0.trans ?_
  unfold opCapture
  try dsimp only
  repeat' (first
    | with_reducible exact Kept.refl _
    | with_reducible apply State.unless_kept
    | with_reducible apply Kept.ite
    | split
    | intro _
    | with_reducible assumption
    | with_reducible refine LaneOk.mk_same ?_
    | with_reducible refine HubOk.mk_same ?_
    | with_reducible refine FrontEnd.gatesOk_same ?_
    | with_reducible refine BankState.gatesOk_same ?_
    | with_reducible refine Kept.mk_same ?_)
theorem State.captureSend_kept {a : State} (s : State) (r : CaptureRun) (xs : List CapSample) (flags first : Nat) (z : Nat) (h0 : Kept a s) : Kept a (State.captureSend s r xs flags first z) := by
  induction z generalizing s r xs flags first with
  | zero =>
    unfold State.captureSend
    try dsimp only
    repeat' (first
      | with_reducible exact h0)
  | succ z ih =>
    unfold State.captureSend
    try dsimp only
    repeat' (first
      | with_reducible exact h0
      | with_reducible apply ih
      | with_reducible apply State.post_kept
      | with_reducible apply Kept.ite)
theorem State.captureEnds_kept {a : State} (s : State) (r : CaptureRun) (flags : Nat) (h0 : Kept a s) : Kept a (State.captureEnds s r flags) := by
  refine h0.trans ?_
  unfold State.captureEnds
  try dsimp only
  repeat' (first
    | with_reducible exact Kept.refl _
    | with_reducible apply State.captureSend_kept
    | with_reducible refine Kept.mk_same ?_)
theorem opCaptureStop_kept {a : State} (a1 : Cmd) (s : State) (h0 : Kept a s) : Kept a (opCaptureStop a1 s).1 := by
  refine h0.trans ?_
  unfold opCaptureStop
  try dsimp only
  repeat' (first
    | with_reducible exact Kept.refl _
    | with_reducible apply State.captureEnds_kept
    | split)
theorem execCaptureTrigger_kept (s : State) : ∃ s1, execCaptureTrigger s = .next s1 ∧ Kept s s1 := by
  refine ⟨_, rfl, ?_⟩
  try dsimp only
  repeat' (first
    | with_reducible exact Kept.refl _
    | with_reducible apply State.captureEnds_kept
    | with_reducible apply Kept.ite
    | split)
theorem execCaptureTimeout_kept (s : State) : ∃ s1, execCaptureTimeout s = .next s1 ∧ Kept s s1 := by
  refine ⟨_, rfl, ?_⟩
  try dsimp only
  repeat' (first
    | with_reducible exact Kept.refl _
    | with_reducible apply State.captureEnds_kept
    | with_reducible apply Kept.ite
    | split)
theorem opMatrixStream_kept {a : State} (c : Cmd) (s : State) (h0 : Kept a s) : Kept a (opMatrixStream c s).1 := by
  refine h0.trans ?_
  unfold opMatrixStream
  try dsimp only
  repeat' (first
    | with_reducible exact Kept.refl _
    | with_reducible apply State.unless_kept
    | intro _
    | with_reducible assumption
    | with_reducible refine LaneOk.mk_same ?_
    | with_reducible refine HubOk.mk_same ?_
    | with_reducible refine FrontEnd.gatesOk_same ?_
    | with_reducible refine BankState.gatesOk_same ?_
    | with_reducible refine Kept.mk_same ?_)
theorem opFieldRead_kept {a : State} (a1 : Cmd) (s : State) (h0 : Kept a s) : Kept a (opFieldRead a1 s).1 := by
  refine h0.trans ?_
  unfold opFieldRead
  try dsimp only
  repeat' (first
    | with_reducible exact Kept.refl _)
theorem opFieldTest_kept {a : State} (c : Cmd) (s : State) (h0 : Kept a s) : Kept a (opFieldTest c s).1 := by
  refine h0.trans ?_
  unfold opFieldTest
  try dsimp only
  repeat' (first
    | with_reducible exact Kept.refl _
    | with_reducible apply State.overlayNow_kept
    | with_reducible apply State.unless_kept
    | intro _
    | with_reducible assumption
    | with_reducible refine LaneOk.mk_same ?_
    | with_reducible refine HubOk.mk_same ?_
    | with_reducible refine FrontEnd.gatesOk_same ?_
    | with_reducible refine BankState.gatesOk_same ?_
    | with_reducible refine Kept.mk_same ?_
    | dsimp only)
theorem execFieldTestEnd_kept (s : State) : ∃ s1, execFieldTestEnd s = .next s1 ∧ Kept s s1 := by
  refine ⟨_, rfl, ?_⟩
  try dsimp only
  repeat' (first
    | with_reducible exact Kept.refl _
    | with_reducible apply State.modTxn_kept
    | with_reducible apply Kept.ite
    | split
    | with_reducible refine Kept.mk_same ?_)
theorem opProofTest_kept {a : State} (c : Cmd) (s : State) (h0 : Kept a s) : Kept a (opProofTest c s).1 := by
  refine h0.trans ?_
  unfold opProofTest
  try dsimp only
  repeat' (first
    | with_reducible exact Kept.refl _
    | with_reducible apply State.modSched_kept
    | with_reducible apply State.unless_kept
    | with_reducible apply Kept.each
    | with_reducible apply Kept.ite
    | split
    | intro _
    | with_reducible assumption
    | with_reducible refine LaneOk.mk_same ?_
    | with_reducible refine HubOk.mk_same ?_
    | with_reducible refine FrontEnd.gatesOk_same ?_
    | with_reducible refine BankState.gatesOk_same ?_
    | with_reducible refine Kept.mk_same ?_)
theorem execProofTestTimeout_kept (s : State) : ∃ s1, execProofTestTimeout s = .next s1 ∧ Kept s s1 := by
  refine ⟨_, rfl, ?_⟩
  try dsimp only
  repeat' (first
    | with_reducible exact Kept.refl _
    | with_reducible apply State.answer_kept
    | with_reducible apply State.modSched_kept
    | with_reducible apply Kept.each
    | with_reducible apply Kept.ite
    | split
    | intro _
    | with_reducible refine Kept.mk_same ?_)
theorem opCoppiceNow_kept {a : State} (a1 : Cmd) (s : State) (h0 : Kept a s) : Kept a (opCoppiceNow a1 s).1 := by
  refine h0.trans ?_
  unfold opCoppiceNow
  try dsimp only
  repeat' (first
    | with_reducible exact Kept.refl _
    | with_reducible apply State.free_kept
    | with_reducible apply Kept.ite
    | split
    | with_reducible refine Kept.mk_same ?_
    | dsimp only)

end Sys2Proof.Machine
end

