-- ==== Sys2Proof/Laws/KeptWear.lean ====
section
/-!
SUPPORT. What the operations and commands of Machine/Wear.lean keep.
-/

namespace Sys2Proof.Machine

theorem State.closeLamp_kept {a : State} (s : State) (day : Nat) (run : WearRun) (c : Chan) (h0 : Kept a s) : Kept a (State.closeLamp s day run c) := by
  refine h0.trans ?_
  unfold State.closeLamp
  extract_lets p r y used w0 last w1 days w2 src s1 s2
  have k_s1 : Kept s s1 := by
    unfold s1
    try dsimp only
    repeat' (first
      | with_reducible assumption
      | with_reducible exact Kept.refl _
      | with_reducible apply State.note_kept
      | with_reducible apply Kept.ite
      | split
      | with_reducible refine Kept.mk_same ?_)
  try clear_value s1
  have k_s2 : Kept s s2 := by
    unfold s2
    try dsimp only
    repeat' (first
      | with_reducible assumption
      | with_reducible exact Kept.refl _
      | with_reducible apply State.note_kept
      | with_reducible apply Kept.ite
      | split
      | with_reducible refine Kept.mk_same ?_)
  try clear_value s2
  try dsimp only
  repeat' (first
    | with_reducible assumption
    | with_reducible exact Kept.refl _
    | with_reducible apply State.note_kept
    | with_reducible apply Kept.ite
    | split
    | with_reducible refine Kept.mk_same ?_)
theorem State.closeSwitch_kept {a : State} (s : State) (day : Nat) (run : WearRun) (c : Chan) (h0 : Kept a s) : Kept a (State.closeSwitch s day run c) := by
  refine h0.trans ?_
  unfold State.closeSwitch
  extract_lets p r w0 w1 w2 src s1
  have k_s1 : Kept s s1 := by
    unfold s1
    try dsimp only
    repeat' (first
      | with_reducible assumption
      | with_reducible exact Kept.refl _
      | with_reducible apply State.note_kept
      | with_reducible apply Kept.ite
      | split
      | with_reducible refine Kept.mk_same ?_)
  try clear_value s1
  try dsimp only
  repeat' (first
    | with_reducible assumption
    | with_reducible exact Kept.refl _
    | with_reducible apply State.note_kept
    | with_reducible apply Kept.ite
    | split
    | with_reducible refine Kept.mk_same ?_)
theorem State.closeContactor_kept {a : State} (s : State) (day : Nat) (run : WearRun) (i : Fin 24) (h0 : Kept a s) : Kept a (State.closeContactor s day run i) := by
  refine h0.trans ?_
  unfold State.closeContactor
  extract_lets p g r rating w0 w1 w2 src s1
  have k_s1 : Kept s s1 := by
    unfold s1
    try dsimp only
    repeat' (first
      | with_reducible assumption
      | with_reducible exact Kept.refl _
      | with_reducible apply State.note_kept
      | with_reducible apply Kept.ite
      | split
      | with_reducible refine Kept.mk_same ?_)
  try clear_value s1
  try dsimp only
  repeat' (first
    | with_reducible assumption
    | with_reducible exact Kept.refl _
    | with_reducible apply State.note_kept
    | with_reducible apply Kept.ite
    | split
    | with_reducible refine Kept.mk_same ?_)
theorem State.closeSilicon_kept {a : State} (s : State) (day : Nat) (i : Fin 5) (h0 : Kept a s) : Kept a (State.closeSilicon s day i) := by
  refine h0.trans ?_
  unfold State.closeSilicon
  extract_lets p r y w0 lim w1 w2 src s1
  have k_s1 : Kept s s1 := by
    unfold s1
    try dsimp only
    repeat' (first
      | with_reducible assumption
      | with_reducible exact Kept.refl _
      | with_reducible apply State.note_kept
      | with_reducible apply Kept.ite
      | split
      | with_reducible refine Kept.mk_same ?_)
  try clear_value s1
  try dsimp only
  repeat' (first
    | with_reducible assumption
    | with_reducible exact Kept.refl _
    | with_reducible apply State.note_kept
    | with_reducible apply Kept.ite)
theorem State.flashWorn_kept {a : State} (s : State) (h0 : Kept a s) : Kept a (State.flashWorn s) := by
  refine h0.trans ?_
  unfold State.flashWorn
  try dsimp only
  repeat' (first
    | with_reducible exact Kept.refl _
    | with_reducible apply State.free_kept
    | with_reducible refine Kept.mk_same ?_
    | dsimp only)
theorem State.closeFlash_kept {a : State} (s : State) (day : Nat) (h0 : Kept a s) : Kept a (State.closeFlash s day) := by
  refine h0.trans ?_
  unfold State.closeFlash
  extract_lets p s1 fl w0 w1 w2 src s4
  have k_s1 : Kept s s1 := by
    unfold s1
    try dsimp only
    repeat' (first
      | with_reducible assumption
      | with_reducible exact Kept.refl _
      | with_reducible apply State.note_kept
      | with_reducible apply State.flashWorn_kept
      | with_reducible apply Kept.ite
      | split
      | with_reducible refine Kept.mk_same ?_)
  try clear_value s1
  have k_s4 : Kept s s4 := by
    unfold s4
    try dsimp only
    repeat' (first
      | with_reducible assumption
      | with_reducible exact Kept.refl _
      | with_reducible apply State.note_kept
      | with_reducible apply State.flashWorn_kept
      | with_reducible apply Kept.ite
      | split
      | with_reducible refine Kept.mk_same ?_)
  try clear_value s4
  try dsimp only
  repeat' (first
    | with_reducible assumption
    | with_reducible exact Kept.refl _
    | with_reducible apply State.note_kept
    | with_reducible apply State.flashWorn_kept
    | with_reducible apply Kept.ite
    | split
    | with_reducible refine Kept.mk_same ?_)
theorem State.sendWear_kept {a : State} (s : State) (rs : List Bytes) (z : Nat) (h0 : Kept a s) : Kept a (State.sendWear s rs z) := by
  induction z generalizing s rs with
  | zero =>
    unfold State.sendWear
    try dsimp only
    repeat' (first
      | with_reducible exact h0)
  | succ z ih =>
    unfold State.sendWear
    try dsimp only
    repeat' (first
      | with_reducible exact h0
      | with_reducible apply ih
      | with_reducible apply State.post_kept
      | with_reducible apply Kept.ite)
theorem State.storeWear_kept {a : State} (s : State) (ok : Bool) (h0 : Kept a s) : Kept a (State.storeWear s ok) := by
  refine h0.trans ?_
  unfold State.storeWear
  try dsimp only
  repeat' (first
    | with_reducible exact Kept.refl _
    | with_reducible apply State.note_kept
    | with_reducible apply Kept.ite
    | split
    | with_reducible refine Kept.mk_same ?_)
theorem State.closeDay_kept {a : State} (s : State) (run : WearRun) (h0 : Kept a s) : Kept a (State.closeDay s run) := by
  refine h0.trans ?_
  unfold State.closeDay
  extract_lets d s1 s2 s3 s4 src
  have k_s1 : Kept s s1 := by
    unfold s1
    try dsimp only
    repeat' (first
      | with_reducible assumption
      | with_reducible exact Kept.refl _
      | with_reducible apply State.closeLamp_kept
      | with_reducible apply State.closeSwitch_kept
      | with_reducible apply State.closeContactor_kept
      | with_reducible apply State.closeSilicon_kept
      | with_reducible apply State.closeFlash_kept
      | with_reducible apply Kept.each
      | intro _
      | with_reducible refine Kept.mk_same ?_)
  try clear_value s1
  have k_s2 : Kept s s2 := by
    unfold s2
    try dsimp only
    repeat' (first
      | with_reducible assumption
      | with_reducible exact Kept.refl _
      | with_reducible apply State.closeLamp_kept
      | with_reducible apply State.closeSwitch_kept
      | with_reducible apply State.closeContactor_kept
      | with_reducible apply State.closeSilicon_kept
      | with_reducible apply State.closeFlash_kept
      | with_reducible apply Kept.each
      | intro _
      | with_reducible refine Kept.mk_same ?_)
  try clear_value s2
  have k_s3 : Kept s s3 := by
    unfold s3
    try dsimp only
    repeat' (first
      | with_reducible assumption
      | with_reducible exact Kept.refl _
      | with_reducible apply State.closeLamp_kept
      | with_reducible apply State.closeSwitch_kept
      | with_reducible apply State.closeContactor_kept
      | with_reducible apply State.closeSilicon_kept
      | with_reducible apply State.closeFlash_kept
      | with_reducible apply Kept.each
      | intro _
      | with_reducible refine Kept.mk_same ?_)
  try clear_value s3
  have k_s4 : Kept s s4 := by
    unfold s4
    try dsimp only
    repeat' (first
      | with_reducible assumption
      | with_reducible exact Kept.refl _
      | with_reducible apply State.closeLamp_kept
      | with_reducible apply State.closeSwitch_kept
      | with_reducible apply State.closeContactor_kept
      | with_reducible apply State.closeSilicon_kept
      | with_reducible apply State.closeFlash_kept
      | with_reducible apply Kept.each
      | intro _
      | with_reducible refine Kept.mk_same ?_)
  try clear_value s4
  try dsimp only
  repeat' (first
    | with_reducible assumption
    | with_reducible exact Kept.refl _
    | with_reducible apply State.closeLamp_kept
    | with_reducible apply State.closeSwitch_kept
    | with_reducible apply State.closeContactor_kept
    | with_reducible apply State.closeSilicon_kept
    | with_reducible apply State.closeFlash_kept
    | with_reducible apply Kept.each
    | intro _
    | with_reducible refine Kept.mk_same ?_)
theorem execWearDailyClose_kept (ok : Bool) (s : State) : ∃ s1, execWearDailyClose ok s = .next s1 ∧ Kept s s1 := by
  refine ⟨_, rfl, ?_⟩
  try dsimp only
  repeat' (first
    | with_reducible exact Kept.refl _
    | with_reducible apply State.sendWear_kept
    | with_reducible apply State.storeWear_kept
    | with_reducible apply State.closeDay_kept
    | with_reducible apply Kept.ite
    | split)
theorem execWearHourlyStore_kept (ok : Bool) (s : State) : ∃ s1, execWearHourlyStore ok s = .next s1 ∧ Kept s s1 := by
  refine ⟨_, rfl, ?_⟩
  try dsimp only
  repeat' (first
    | with_reducible exact Kept.refl _
    | with_reducible apply State.storeWear_kept
    | with_reducible apply Kept.ite
    | split)
theorem execRingOscMeasure_kept (i : SiliconItem) (m : OscMeasure) (s : State) : ∃ s1, execRingOscMeasure i m s = .next s1 ∧ Kept s s1 := by
  refine ⟨_, rfl, ?_⟩
  try dsimp only
  repeat' (first
    | with_reducible exact Kept.refl _
    | with_reducible apply State.drift_kept
    | with_reducible apply Kept.ite
    | split
    | with_reducible refine Kept.mk_same ?_)
theorem opWearRead_kept {a : State} (c : Cmd) (s : State) (h0 : Kept a s) : Kept a (opWearRead c s).1 := by
  refine h0.trans ?_
  unfold opWearRead
  try dsimp only
  repeat' (first
    | with_reducible exact Kept.refl _
    | with_reducible apply Kept.ite
    | split)
theorem opWearReport_kept {a : State} (a1 : Cmd) (s : State) (h0 : Kept a s) : Kept a (opWearReport a1 s).1 := by
  refine h0.trans ?_
  unfold opWearReport
  try dsimp only
  repeat' (first
    | with_reducible exact Kept.refl _
    | with_reducible apply State.sendWear_kept)
theorem opWearReset_kept {a : State} (c : Cmd) (s : State) (h0 : Kept a s) : Kept a (opWearReset c s).1 := by
  refine h0.trans ?_
  unfold opWearReset
  try dsimp only
  repeat' (first
    | with_reducible exact Kept.refl _
    | with_reducible apply State.unless_kept
    | with_reducible apply State.logNote_kept
    | intro _
    | with_reducible assumption
    | with_reducible refine LaneOk.mk_same ?_
    | with_reducible refine HubOk.mk_same ?_
    | with_reducible refine FrontEnd.gatesOk_same ?_
    | with_reducible refine BankState.gatesOk_same ?_
    | with_reducible refine Kept.mk_same ?_
    | dsimp only)

end Sys2Proof.Machine
end

