-- ==== Sys2Proof/Laws/KeptUpdate.lean ====
section
/-!
SUPPORT. What the operations and commands of Machine/Update.lean keep.
-/

namespace Sys2Proof.Machine

theorem State.putBoot_kept {a : State} (s : State) (f : BootRec → BootRec) (h0 : Kept a s) : Kept a (State.putBoot s f) := by
  refine h0.trans ?_
  unfold State.putBoot
  try dsimp only
  repeat' (first
    | with_reducible exact Kept.refl _
    | with_reducible refine Kept.mk_same ?_)
theorem State.closeSession_kept {a : State} (s : State) (cause : Nat) (h0 : Kept a s) : Kept a (State.closeSession s cause) := by
  refine h0.trans ?_
  unfold State.closeSession
  extract_lets src s1 src_1
  have k_s1 : Kept s s1 := by
    unfold s1
    try dsimp only
    repeat' (first
      | with_reducible assumption
      | with_reducible exact Kept.refl _
      | with_reducible apply State.note_kept
      | with_reducible apply Kept.ite
      | split
      | with_reducible refine Kept.mk_same ?_)
  try clear_value s1
  try dsimp only
  repeat' (first
    | with_reducible assumption
    | with_reducible exact Kept.refl _
    | with_reducible apply State.note_kept
    | with_reducible apply Kept.ite
    | split
    | with_reducible refine Kept.mk_same ?_)
theorem opUpdOpen_kept {a : State} (c : Cmd) (s : State) (h0 : Kept a s) : Kept a (opUpdOpen c s).1 := by
  refine h0.trans ?_
  unfold opUpdOpen
  try dsimp only
  repeat' (first
    | with_reducible exact Kept.refl _
    | with_reducible apply State.unless_kept
    | intro _
    | with_reducible assumption
    | with_reducible refine LaneOk.mk_same ?_
    | with_reducible refine HubOk.mk_same ?_
    | with_reducible refine FrontEnd.gatesOk_same ?_
    | with_reducible refine BankState.gatesOk_same ?_
    | with_reducible refine Kept.mk_same ?_)
theorem State.resolveClaims_kept {a : State} (s : State) (h0 : Kept a s) : Kept a (State.resolveClaims s) := by
  refine h0.trans ?_
  unfold State.resolveClaims
  extract_lets src s1 s2 src_1
  have k_s1 : Kept s s1 := by
    unfold s1
    try dsimp only
    repeat' (first
      | with_reducible assumption
      | with_reducible exact Kept.refl _
      | with_reducible apply State.note_kept
      | with_reducible apply State.answer_kept
      | with_reducible apply Kept.each
      | with_reducible apply Kept.ite
      | split
      | intro _
      | with_reducible refine Kept.mk_same ?_)
  try clear_value s1
  have k_s2 : Kept s s2 := by
    unfold s2
    try dsimp only
    repeat' (first
      | with_reducible assumption
      | with_reducible exact Kept.refl _
      | with_reducible apply State.note_kept
      | with_reducible apply State.answer_kept
      | with_reducible apply Kept.each
      | with_reducible apply Kept.ite
      | split
      | intro _)
  try clear_value s2
  try dsimp only
  repeat' (first
    | with_reducible assumption
    | with_reducible exact Kept.refl _
    | with_reducible apply State.note_kept
    | with_reducible apply State.answer_kept
    | with_reducible apply Kept.each
    | with_reducible apply Kept.ite
    | split
    | intro _
    | with_reducible refine Kept.mk_same ?_)
theorem execUpdateTick_kept (s : State) : ∃ s1, execUpdateTick s = .next s1 ∧ Kept s s1 := by
  refine ⟨_, rfl, ?_⟩
  try dsimp only
  repeat' (first
    | with_reducible exact Kept.refl _
    | with_reducible apply State.resolveClaims_kept
    | with_reducible apply Kept.ite)
theorem execUpdSessionTimeout_kept (s : State) : ∃ s1, execUpdSessionTimeout s = .next s1 ∧ Kept s s1 := by
  refine ⟨_, rfl, ?_⟩
  try dsimp only
  repeat' (first
    | with_reducible exact Kept.refl _
    | with_reducible apply State.closeSession_kept
    | with_reducible apply Kept.ite)
theorem opUpdBlock_kept {a : State} (c : Cmd) (s : State) (h0 : Kept a s) : Kept a (opUpdBlock c s).1 := by
  refine h0.trans ?_
  unfold opUpdBlock
  try dsimp only
  repeat' (first
    | with_reducible exact Kept.refl _
    | with_reducible apply State.unless_kept
    | with_reducible apply Kept.ite
    | split
    | intro _
    | with_reducible assumption
    | with_reducible refine LaneOk.mk_same ?_
    | with_reducible refine HubOk.mk_same ?_
    | with_reducible refine FrontEnd.gatesOk_same ?_
    | with_reducible refine BankState.gatesOk_same ?_
    | with_reducible refine Kept.mk_same ?_
    | dsimp only)
theorem opUpdVerify_kept {a : State} (a1 : Cmd) (s : State) (h0 : Kept a s) : Kept a (opUpdVerify a1 s).1 := by
  refine h0.trans ?_
  unfold opUpdVerify
  try dsimp only
  repeat' (first
    | with_reducible exact Kept.refl _
    | with_reducible apply State.unless_kept
    | with_reducible apply Kept.ite
    | split
    | intro _
    | with_reducible assumption
    | with_reducible refine LaneOk.mk_same ?_
    | with_reducible refine HubOk.mk_same ?_
    | with_reducible refine FrontEnd.gatesOk_same ?_
    | with_reducible refine BankState.gatesOk_same ?_
    | with_reducible refine Kept.mk_same ?_
    | dsimp only)
theorem State.activate_kept {a : State} (s : State) (slot : Fin 2) (h0 : Kept a s) : Kept a (State.activate s slot) := by
  refine h0.trans ?_
  unfold State.activate
  extract_lets fb s1 src
  have k_s1 : Kept s s1 := by
    unfold s1
    try dsimp only
    repeat' (first
      | with_reducible assumption
      | with_reducible exact Kept.refl _
      | with_reducible apply State.note_kept
      | with_reducible apply State.putBoot_kept)
  try clear_value s1
  try dsimp only
  repeat' (first
    | with_reducible assumption
    | with_reducible exact Kept.refl _
    | with_reducible apply State.note_kept
    | with_reducible apply State.putBoot_kept
    | with_reducible apply Kept.ite
    | split
    | with_reducible refine Kept.mk_same ?_)
theorem opUpdActivate_kept {a : State} (a1 : Cmd) (s : State) (h0 : Kept a s) : Kept a (opUpdActivate a1 s).1 := by
  refine h0.trans ?_
  unfold opUpdActivate
  try dsimp only
  repeat' (first
    | with_reducible exact Kept.refl _
    | with_reducible apply State.unless_kept
    | with_reducible apply State.activate_kept
    | intro _)
theorem State.fallback_kept {a : State} (s : State) (cause : Nat) (h0 : Kept a s) : Kept a (State.fallback s cause) := by
  refine h0.trans ?_
  unfold State.fallback
  extract_lets b s1 f demote
  have k_s1 : Kept s s1 := by
    unfold s1
    try dsimp only
    repeat' (first
      | with_reducible assumption
      | with_reducible exact Kept.refl _
      | with_reducible apply State.putBoot_kept)
  try clear_value s1
  try dsimp only
  repeat' (first
    | with_reducible assumption
    | with_reducible exact Kept.refl _
    | with_reducible apply State.putBoot_kept
    | with_reducible apply Kept.ite
    | split
    | with_reducible refine Kept.mk_same ?_)
theorem State.revoke_kept {a : State} (s : State) (ks : BitVec 4) (h0 : Kept a s) : Kept a (s.revoke ks) := by
  refine h0.trans ⟨rfl, rfl, Nat.le_refl _, ⟨rfl, rfl, rfl, rfl, rfl, rfl, rfl, rfl, rfl, rfl, rfl, rfl, ?_, List.prefix_refl _⟩, id, id⟩
  have e (x y : BitVec 4) : x &&& ~~~(x ||| y) = 0 := by revert x y; decide
  exact e _ _
theorem State.addMinCell_kept {a : State} (s : State) (v : DWord) (h0 : Kept a s) : Kept a (s.addMinCell v) := by
  refine h0.trans ⟨rfl, rfl, Nat.le_refl _, ⟨rfl, rfl, rfl, rfl, rfl, rfl, rfl, rfl, rfl, rfl, rfl, rfl, ?_, List.prefix_append _ _⟩, id, id⟩
  have e (x : BitVec 4) : x &&& ~~~x = 0 := by revert x; decide
  exact e _
theorem opUpdConfirm_kept {a : State} (a1 : Cmd) (s : State) (h0 : Kept a s) : Kept a (opUpdConfirm a1 s).1 := by
  refine h0.trans ?_
  unfold opUpdConfirm
  try dsimp only
  repeat' (first
    | with_reducible exact Kept.refl _
    | with_reducible apply State.note_kept
    | with_reducible apply State.unless_kept
    | with_reducible apply State.putBoot_kept
    | with_reducible apply State.revoke_kept
    | with_reducible apply State.addMinCell_kept
    | with_reducible apply Kept.ite
    | split
    | intro _
    | with_reducible assumption
    | with_reducible refine LaneOk.mk_same ?_
    | with_reducible refine HubOk.mk_same ?_
    | with_reducible refine FrontEnd.gatesOk_same ?_
    | with_reducible refine BankState.gatesOk_same ?_
    | with_reducible refine Kept.mk_same ?_)
theorem opUpdRollback_kept {a : State} (a1 : Cmd) (s : State) (h0 : Kept a s) : Kept a (opUpdRollback a1 s).1 := by
  refine h0.trans ?_
  unfold opUpdRollback
  extract_lets s1 src
  have k_s1 : Kept s s1 := by
    unfold s1
    try dsimp only
    repeat' (first
      | with_reducible assumption
      | with_reducible exact Kept.refl _
      | with_reducible apply State.unless_kept
      | with_reducible apply State.activate_kept
      | with_reducible apply State.fallback_kept
      | with_reducible apply Kept.ite
      | split
      | intro _
      | with_reducible assumption
      | with_reducible refine LaneOk.mk_same ?_
      | with_reducible refine HubOk.mk_same ?_
      | with_reducible refine FrontEnd.gatesOk_same ?_
      | with_reducible refine BankState.gatesOk_same ?_
      | with_reducible refine Kept.mk_same ?_
      | dsimp only)
  try clear_value s1
  try dsimp only
  repeat' (first
    | with_reducible assumption
    | with_reducible exact Kept.refl _
    | with_reducible apply State.unless_kept
    | with_reducible apply State.activate_kept
    | with_reducible apply State.fallback_kept
    | with_reducible apply Kept.ite
    | split
    | intro _
    | with_reducible assumption
    | with_reducible refine LaneOk.mk_same ?_
    | with_reducible refine HubOk.mk_same ?_
    | with_reducible refine FrontEnd.gatesOk_same ?_
    | with_reducible refine BankState.gatesOk_same ?_
    | with_reducible refine Kept.mk_same ?_
    | dsimp only)
theorem opUpdClose_kept {a : State} (a1 : Cmd) (s : State) (h0 : Kept a s) : Kept a (opUpdClose a1 s).1 := by
  refine h0.trans ?_
  unfold opUpdClose
  try dsimp only
  repeat' (first
    | with_reducible exact Kept.refl _
    | with_reducible apply State.unless_kept
    | with_reducible apply State.closeSession_kept
    | intro _)
theorem opUpdStatus_kept {a : State} (a1 : Cmd) (s : State) (h0 : Kept a s) : Kept a (opUpdStatus a1 s).1 := by
  refine h0.trans ?_
  unfold opUpdStatus
  try dsimp only
  repeat' (first
    | with_reducible exact Kept.refl _
    | with_reducible apply State.free_kept)
theorem State.moduleReset_kept {a : State} (s : State) (h0 : Kept a s) : Kept a s.moduleReset := by
  refine h0.trans ?_
  unfold State.moduleReset
  extract_lets s0 s1
  have k0 : Kept s s0 := Kept.ite (State.closeSession_kept s 3 (Kept.refl s)) (Kept.refl s)
  have k1 : Kept s s1 := State.logRec_kept s0 _ k0
  refine ⟨k1.now, k1.pending, k1.fresh, k1.otp, fun _ => ⟨fun h => ?_, fun l => ?_⟩, fun _ => ⟨fun g => ?_, fun b => ?_⟩⟩
  · simp [Memory.wf, Memory.wfFrom]
  · simp [Memory.wf, Memory.wfFrom]
  · simp [FrontEnd.gatesOk]
  · simp [BankState.gatesOk]
theorem execTrialBootReset_kept (s : State) : ∃ s1, execTrialBootReset s = .next s1 ∧ Kept s s1 := by
  refine ⟨_, rfl, ?_⟩
  try dsimp only
  repeat' (first
    | with_reducible exact Kept.refl _
    | with_reducible apply State.moduleReset_kept
    | with_reducible apply Kept.ite)
theorem execModuleResetAfterExec_kept (s : State) : ∃ s1, execModuleResetAfterExec s = .next s1 ∧ Kept s s1 := by
  refine ⟨_, rfl, ?_⟩
  try dsimp only
  repeat' (first
    | with_reducible exact Kept.refl _
    | with_reducible apply State.moduleReset_kept
    | with_reducible apply Kept.ite)
theorem execTrialTimeExpiry_kept (s : State) : ∃ s1, execTrialTimeExpiry s = .next s1 ∧ Kept s s1 := by
  refine ⟨_, rfl, ?_⟩
  try dsimp only
  repeat' (first
    | with_reducible exact Kept.refl _
    | with_reducible apply State.fallback_kept
    | with_reducible apply State.moduleReset_kept
    | with_reducible apply Kept.ite)
theorem execTrialTimeStore_kept (s : State) : ∃ s1, execTrialTimeStore s = .next s1 ∧ Kept s s1 := by
  refine ⟨_, rfl, ?_⟩
  try dsimp only
  repeat' (first
    | with_reducible exact Kept.refl _
    | with_reducible apply State.putBoot_kept
    | with_reducible apply Kept.ite
    | split
    | with_reducible refine Kept.mk_same ?_)

end Sys2Proof.Machine
end

