-- ==== Sys2Proof/Laws/KeptCommand.lean ====
section
/-!
SUPPORT. What the operations and commands of Machine/Command.lean keep.
-/

namespace Sys2Proof.Machine

theorem votedOp_kept {n : Nat} {f : Cmd → State → OpRes} (h : votedOp n = some f) (c : Cmd) (s : State) : Kept s (f c s).1 := by
  unfold votedOp at h
  split at h
  · rw [← Option.some.inj h]; exact opNop_kept c s (Kept.refl s)
  · rw [← Option.some.inj h]; exact opIdent_kept c s (Kept.refl s)
  · rw [← Option.some.inj h]; exact opStatus_kept c s (Kept.refl s)
  · rw [← Option.some.inj h]; exact opFaultList_kept c s (Kept.refl s)
  · rw [← Option.some.inj h]; exact opModeReq_kept c s (Kept.refl s)
  · rw [← Option.some.inj h]; exact opLifecycleReq_kept c s (Kept.refl s)
  · rw [← Option.some.inj h]; exact opSubscribe_kept c s (Kept.refl s)
  · rw [← Option.some.inj h]; exact opLogRead_kept c s (Kept.refl s)
  · rw [← Option.some.inj h]; exact opResetArm_kept c s (Kept.refl s)
  · rw [← Option.some.inj h]; exact opResetExec_kept c s (Kept.refl s)
  · rw [← Option.some.inj h]; exact opParamRead_kept c s (Kept.refl s)
  · rw [← Option.some.inj h]; exact opParamWrite_kept c s (Kept.refl s)
  · rw [← Option.some.inj h]; exact opParamRevert_kept c s (Kept.refl s)
  · rw [← Option.some.inj h]; exact opParamDefaults_kept c s (Kept.refl s)
  · rw [← Option.some.inj h]; exact opSealShow_kept c s (Kept.refl s)
  · rw [← Option.some.inj h]; exact opSealConfirm_kept c s (Kept.refl s)
  · rw [← Option.some.inj h]; exact opLampRead_kept c s (Kept.refl s)
  · rw [← Option.some.inj h]; exact opProveClear_kept c s (Kept.refl s)
  · rw [← Option.some.inj h]; exact opLatchClear_kept c s (Kept.refl s)
  · rw [← Option.some.inj h]; exact opTeach_kept c s (Kept.refl s)
  · rw [← Option.some.inj h]; exact opLampTest_kept c s (Kept.refl s)
  · rw [← Option.some.inj h]; exact opCapture_kept c s (Kept.refl s)
  · rw [← Option.some.inj h]; exact opCaptureStop_kept c s (Kept.refl s)
  · rw [← Option.some.inj h]; exact opMatrixStream_kept c s (Kept.refl s)
  · rw [← Option.some.inj h]; exact opFieldRead_kept c s (Kept.refl s)
  · rw [← Option.some.inj h]; exact opFieldTest_kept c s (Kept.refl s)
  · rw [← Option.some.inj h]; exact opProofTest_kept c s (Kept.refl s)
  · rw [← Option.some.inj h]; exact opCoppiceNow_kept c s (Kept.refl s)
  · rw [← Option.some.inj h]; exact opWearRead_kept c s (Kept.refl s)
  · rw [← Option.some.inj h]; exact opWearReport_kept c s (Kept.refl s)
  · rw [← Option.some.inj h]; exact opWearReset_kept c s (Kept.refl s)
  · rw [← Option.some.inj h]; exact opUpdOpen_kept c s (Kept.refl s)
  · rw [← Option.some.inj h]; exact opUpdBlock_kept c s (Kept.refl s)
  · rw [← Option.some.inj h]; exact opUpdVerify_kept c s (Kept.refl s)
  · rw [← Option.some.inj h]; exact opUpdActivate_kept c s (Kept.refl s)
  · rw [← Option.some.inj h]; exact opUpdConfirm_kept c s (Kept.refl s)
  · rw [← Option.some.inj h]; exact opUpdRollback_kept c s (Kept.refl s)
  · rw [← Option.some.inj h]; exact opUpdClose_kept c s (Kept.refl s)
  · rw [← Option.some.inj h]; exact opUpdStatus_kept c s (Kept.refl s)
  · simp at h
theorem laneOp_kept {n : Nat} {f : Cmd → LaneId → State → State × Reply} (h : laneOp n = some f) (c : Cmd) (l : LaneId) (s : State) : Kept s (f c l s).1 := by
  unfold laneOp at h
  split at h
  · rw [← Option.some.inj h]; exact opCountsRead_kept c l s (Kept.refl s)
  · rw [← Option.some.inj h]; exact opChipIdent_kept c l s (Kept.refl s)
  · rw [← Option.some.inj h]; exact opMeasRead_kept c l s (Kept.refl s)
  · rw [← Option.some.inj h]; exact opAuxRead_kept c l s (Kept.refl s)
  · rw [← Option.some.inj h]; exact opProbeRead_kept c l s (Kept.refl s)
  · rw [← Option.some.inj h]; exact opBusRead_kept c l s (Kept.refl s)
  · rw [← Option.some.inj h]; exact opSelftestRead_kept c l s (Kept.refl s)
  · rw [← Option.some.inj h]; exact opTimeRead_kept c l s (Kept.refl s)
  · simp at h
theorem State.judge_kept {a : State} (s : State) (t : Txn) (h0 : Kept a s) : Kept a (State.judge s t) := by
  refine h0.trans ?_
  unfold State.judge
  extract_lets src s0 s1
  have k_s0 : Kept s s0 := by
    unfold s0
    split
    · exact Kept.mk_same (Kept.refl s)
    · exact Kept.refl s
  clear_value s0
  have k_s1 : Kept s s1 := State.modTxn_kept s0 _ _ k_s0
  clear_value s1
  split
  · exact State.modRing_kept _ _ _ (State.modTxn_kept _ _ _ k_s1)
  · split
    · exact State.modTxn_kept _ _ _ k_s1
    · split
      · rename_i f hf
        have k2 := k_s1.trans (votedOp_kept hf t.cmd s1)
        revert k2
        generalize f t.cmd s1 = x
        intro k2
        obtain ⟨s2, r⟩ := x
        cases r with
        | none => exact k2
        | some r => exact State.modTxn_kept _ _ _ k2
      · exact k_s1
theorem State.judgeUpTo_kept {a : State} (s : State) (num : Nat) (h0 : Kept a s) : Kept a (State.judgeUpTo s num) := by
  refine h0.trans ?_
  unfold State.judgeUpTo
  try dsimp only
  repeat' (first
    | with_reducible exact Kept.refl _
    | with_reducible apply State.judge_kept
    | with_reducible apply Kept.each
    | intro _)
theorem State.handOver_kept {a : State} (s : State) (l : LaneId) (num : Nat) (h0 : Kept a s) : Kept a (State.handOver s l num) := by
  refine h0.trans ?_
  unfold State.handOver
  extract_lets s1
  have k_s1 : Kept s s1 := State.modTxn_kept _ _ _ (Kept.refl s)
  clear_value s1
  split
  · exact k_s1
  · split
    · split
      · exact State.sendLspec_kept _ _ _ _ k_s1
      · rename_i f _ hf
        exact State.sendLspec_kept _ _ _ _ (k_s1.trans (laneOp_kept hf _ l s1))
      · exact k_s1
    · split
      · exact State.modTxn_kept _ _ _ k_s1
      · exact k_s1
theorem State.startTxn_kept {a : State} (s : State) (l : LaneId) (num : Nat) (h0 : Kept a s) : Kept a (State.startTxn s l num) := by
  refine h0.trans ?_
  unfold State.startTxn
  try dsimp only
  repeat' (first
    | with_reducible exact Kept.refl _
    | with_reducible apply State.judgeUpTo_kept
    | with_reducible apply State.handOver_kept)
theorem State.passTurn_kept {a : State} (s : State) (l : LaneId) (q : RingId) (h0 : Kept a s) : Kept a (State.passTurn s l q) := by
  refine h0.trans ?_
  unfold State.passTurn
  try dsimp only
  repeat' (first
    | with_reducible exact Kept.refl _
    | with_reducible refine Kept.mk_same ?_)
theorem execCommandStart_kept (l : LaneId) (q : RingId) (s : State) : ∃ s1, execCommandStart l q s = .next s1 ∧ Kept s s1 := by
  refine ⟨_, rfl, ?_⟩
  try dsimp only
  repeat' (first
    | with_reducible exact Kept.refl _
    | with_reducible apply State.freeRing_kept
    | with_reducible apply State.startTxn_kept
    | with_reducible apply State.passTurn_kept
    | with_reducible apply Kept.ite
    | split)
theorem State.answerFrozen_kept {a : State} (s : State) (h0 : Kept a s) : Kept a (State.answerFrozen s) := by
  refine h0.trans ?_
  unfold State.answerFrozen
  try dsimp only
  repeat' (first
    | with_reducible exact Kept.refl _
    | with_reducible apply State.modTxn_kept
    | with_reducible apply Kept.each
    | intro _)
theorem State.stored_kept {a : State} (s : State) (c : MailCmd) (op : Nat) (h0 : Kept a s) : Kept a (State.stored s c op) := by
  refine h0.trans ?_
  unfold State.stored
  try dsimp only
  repeat' (first
    | with_reducible exact Kept.refl _
    | with_reducible apply State.modRing_kept
    | with_reducible apply State.putMsg_kept
    | with_reducible apply State.storeTxn_kept
    | with_reducible apply State.dropOpen_kept
    | with_reducible apply State.advanceSeq_kept)
theorem State.accept_kept {a : State} (s : State) (c : MailCmd) (op : Nat) (h0 : Kept a s) : Kept a (State.accept s c op) := by
  refine h0.trans ?_
  unfold State.accept
  extract_lets m n num s1 lanes s2 s3
  have k_s1 : Kept s s1 := by
    unfold s1
    try dsimp only
    repeat' (first
      | with_reducible assumption
      | with_reducible exact Kept.refl _
      | with_reducible apply State.modRing_kept
      | with_reducible apply State.segDrop_kept
      | with_reducible apply State.dropOpen_kept
      | with_reducible apply State.advanceSeq_kept
      | with_reducible apply State.freeRing_kept
      | with_reducible apply State.judgeUpTo_kept
      | with_reducible apply State.handOver_kept
      | with_reducible apply State.startTxn_kept
      | with_reducible apply State.passTurn_kept
      | with_reducible apply State.stored_kept)
  try clear_value s1
  have k_s2 : Kept s s2 := by
    unfold s2
    try dsimp only
    repeat' (first
      | with_reducible assumption
      | with_reducible exact Kept.refl _
      | with_reducible apply State.modRing_kept
      | with_reducible apply State.segDrop_kept
      | with_reducible apply State.dropOpen_kept
      | with_reducible apply State.advanceSeq_kept
      | with_reducible apply State.freeRing_kept
      | with_reducible apply State.judgeUpTo_kept
      | with_reducible apply State.handOver_kept
      | with_reducible apply State.startTxn_kept
      | with_reducible apply State.passTurn_kept
      | with_reducible apply State.stored_kept
      | with_reducible apply Kept.each
      | with_reducible apply Kept.ite
      | split
      | intro _)
  try clear_value s2
  have k_s3 : Kept s s3 := by
    unfold s3
    try dsimp only
    repeat' (first
      | with_reducible assumption
      | with_reducible exact Kept.refl _
      | with_reducible apply State.modRing_kept
      | with_reducible apply State.segDrop_kept
      | with_reducible apply State.dropOpen_kept
      | with_reducible apply State.advanceSeq_kept
      | with_reducible apply State.freeRing_kept
      | with_reducible apply State.judgeUpTo_kept
      | with_reducible apply State.handOver_kept
      | with_reducible apply State.startTxn_kept
      | with_reducible apply State.passTurn_kept
      | with_reducible apply State.stored_kept
      | with_reducible apply Kept.each
      | with_reducible apply Kept.ite)
  try clear_value s3
  try dsimp only
  repeat' (first
    | with_reducible assumption
    | with_reducible exact Kept.refl _
    | with_reducible apply State.modRing_kept
    | with_reducible apply State.segDrop_kept
    | with_reducible apply State.dropOpen_kept
    | with_reducible apply State.advanceSeq_kept
    | with_reducible apply State.freeRing_kept
    | with_reducible apply State.judgeUpTo_kept
    | with_reducible apply State.handOver_kept
    | with_reducible apply State.startTxn_kept
    | with_reducible apply State.passTurn_kept
    | with_reducible apply State.stored_kept
    | with_reducible apply Kept.each
    | with_reducible apply Kept.ite
    | split
    | intro _)
theorem execNop_kept (c : MailCmd) (s : State) : ∃ s1, execNop c s = .next s1 ∧ Kept s s1 := by
  refine ⟨_, rfl, ?_⟩
  try dsimp only
  repeat' (first
    | with_reducible exact Kept.refl _
    | with_reducible apply State.accept_kept)
theorem execIdent_kept (c : MailCmd) (s : State) : ∃ s1, execIdent c s = .next s1 ∧ Kept s s1 := by
  refine ⟨_, rfl, ?_⟩
  try dsimp only
  repeat' (first
    | with_reducible exact Kept.refl _
    | with_reducible apply State.accept_kept)
theorem execStatus_kept (c : MailCmd) (s : State) : ∃ s1, execStatus c s = .next s1 ∧ Kept s s1 := by
  refine ⟨_, rfl, ?_⟩
  try dsimp only
  repeat' (first
    | with_reducible exact Kept.refl _
    | with_reducible apply State.accept_kept)
theorem execFaultList_kept (c : MailCmd) (s : State) : ∃ s1, execFaultList c s = .next s1 ∧ Kept s s1 := by
  refine ⟨_, rfl, ?_⟩
  try dsimp only
  repeat' (first
    | with_reducible exact Kept.refl _
    | with_reducible apply State.accept_kept)
theorem execModeReq_kept (c : MailCmd) (s : State) : ∃ s1, execModeReq c s = .next s1 ∧ Kept s s1 := by
  refine ⟨_, rfl, ?_⟩
  try dsimp only
  repeat' (first
    | with_reducible exact Kept.refl _
    | with_reducible apply State.accept_kept)
theorem execLifecycleReq_kept (c : MailCmd) (s : State) : ∃ s1, execLifecycleReq c s = .next s1 ∧ Kept s s1 := by
  refine ⟨_, rfl, ?_⟩
  try dsimp only
  repeat' (first
    | with_reducible exact Kept.refl _
    | with_reducible apply State.accept_kept)
theorem execSubscribe_kept (c : MailCmd) (s : State) : ∃ s1, execSubscribe c s = .next s1 ∧ Kept s s1 := by
  refine ⟨_, rfl, ?_⟩
  try dsimp only
  repeat' (first
    | with_reducible exact Kept.refl _
    | with_reducible apply State.accept_kept)
theorem execCountsRead_kept (c : MailCmd) (s : State) : ∃ s1, execCountsRead c s = .next s1 ∧ Kept s s1 := by
  refine ⟨_, rfl, ?_⟩
  try dsimp only
  repeat' (first
    | with_reducible exact Kept.refl _
    | with_reducible apply State.accept_kept)
theorem execLogRead_kept (c : MailCmd) (s : State) : ∃ s1, execLogRead c s = .next s1 ∧ Kept s s1 := by
  refine ⟨_, rfl, ?_⟩
  try dsimp only
  repeat' (first
    | with_reducible exact Kept.refl _
    | with_reducible apply State.accept_kept)
theorem execChipIdent_kept (c : MailCmd) (s : State) : ∃ s1, execChipIdent c s = .next s1 ∧ Kept s s1 := by
  refine ⟨_, rfl, ?_⟩
  try dsimp only
  repeat' (first
    | with_reducible exact Kept.refl _
    | with_reducible apply State.accept_kept)
theorem execResetArm_kept (c : MailCmd) (s : State) : ∃ s1, execResetArm c s = .next s1 ∧ Kept s s1 := by
  refine ⟨_, rfl, ?_⟩
  try dsimp only
  repeat' (first
    | with_reducible exact Kept.refl _
    | with_reducible apply State.accept_kept)
theorem execResetExec_kept (c : MailCmd) (s : State) : ∃ s1, execResetExec c s = .next s1 ∧ Kept s s1 := by
  refine ⟨_, rfl, ?_⟩
  try dsimp only
  repeat' (first
    | with_reducible exact Kept.refl _
    | with_reducible apply State.accept_kept)
theorem execParamRead_kept (c : MailCmd) (s : State) : ∃ s1, execParamRead c s = .next s1 ∧ Kept s s1 := by
  refine ⟨_, rfl, ?_⟩
  try dsimp only
  repeat' (first
    | with_reducible exact Kept.refl _
    | with_reducible apply State.accept_kept)
theorem execParamWrite_kept (c : MailCmd) (s : State) : ∃ s1, execParamWrite c s = .next s1 ∧ Kept s s1 := by
  refine ⟨_, rfl, ?_⟩
  try dsimp only
  repeat' (first
    | with_reducible exact Kept.refl _
    | with_reducible apply State.accept_kept)
theorem execParamRevert_kept (c : MailCmd) (s : State) : ∃ s1, execParamRevert c s = .next s1 ∧ Kept s s1 := by
  refine ⟨_, rfl, ?_⟩
  try dsimp only
  repeat' (first
    | with_reducible exact Kept.refl _
    | with_reducible apply State.accept_kept)
theorem execParamDefaults_kept (c : MailCmd) (s : State) : ∃ s1, execParamDefaults c s = .next s1 ∧ Kept s s1 := by
  refine ⟨_, rfl, ?_⟩
  try dsimp only
  repeat' (first
    | with_reducible exact Kept.refl _
    | with_reducible apply State.accept_kept)
theorem execSealShow_kept (c : MailCmd) (s : State) : ∃ s1, execSealShow c s = .next s1 ∧ Kept s s1 := by
  refine ⟨_, rfl, ?_⟩
  try dsimp only
  repeat' (first
    | with_reducible exact Kept.refl _
    | with_reducible apply State.accept_kept)
theorem execSealConfirm_kept (c : MailCmd) (s : State) : ∃ s1, execSealConfirm c s = .next s1 ∧ Kept s s1 := by
  refine ⟨_, rfl, ?_⟩
  try dsimp only
  repeat' (first
    | with_reducible exact Kept.refl _
    | with_reducible apply State.accept_kept)
theorem execLampRead_kept (c : MailCmd) (s : State) : ∃ s1, execLampRead c s = .next s1 ∧ Kept s s1 := by
  refine ⟨_, rfl, ?_⟩
  try dsimp only
  repeat' (first
    | with_reducible exact Kept.refl _
    | with_reducible apply State.accept_kept)
theorem execProveClear_kept (c : MailCmd) (s : State) : ∃ s1, execProveClear c s = .next s1 ∧ Kept s s1 := by
  refine ⟨_, rfl, ?_⟩
  try dsimp only
  repeat' (first
    | with_reducible exact Kept.refl _
    | with_reducible apply State.accept_kept)
theorem execLatchClear_kept (c : MailCmd) (s : State) : ∃ s1, execLatchClear c s = .next s1 ∧ Kept s s1 := by
  refine ⟨_, rfl, ?_⟩
  try dsimp only
  repeat' (first
    | with_reducible exact Kept.refl _
    | with_reducible apply State.accept_kept)
theorem execTeach_kept (c : MailCmd) (s : State) : ∃ s1, execTeach c s = .next s1 ∧ Kept s s1 := by
  refine ⟨_, rfl, ?_⟩
  try dsimp only
  repeat' (first
    | with_reducible exact Kept.refl _
    | with_reducible apply State.accept_kept)
theorem execLampTest_kept (c : MailCmd) (s : State) : ∃ s1, execLampTest c s = .next s1 ∧ Kept s s1 := by
  refine ⟨_, rfl, ?_⟩
  try dsimp only
  repeat' (first
    | with_reducible exact Kept.refl _
    | with_reducible apply State.accept_kept)
theorem execMeasRead_kept (c : MailCmd) (s : State) : ∃ s1, execMeasRead c s = .next s1 ∧ Kept s s1 := by
  refine ⟨_, rfl, ?_⟩
  try dsimp only
  repeat' (first
    | with_reducible exact Kept.refl _
    | with_reducible apply State.accept_kept)
theorem execAuxRead_kept (c : MailCmd) (s : State) : ∃ s1, execAuxRead c s = .next s1 ∧ Kept s s1 := by
  refine ⟨_, rfl, ?_⟩
  try dsimp only
  repeat' (first
    | with_reducible exact Kept.refl _
    | with_reducible apply State.accept_kept)
theorem execCapture_kept (c : MailCmd) (s : State) : ∃ s1, execCapture c s = .next s1 ∧ Kept s s1 := by
  refine ⟨_, rfl, ?_⟩
  try dsimp only
  repeat' (first
    | with_reducible exact Kept.refl _
    | with_reducible apply State.accept_kept)
theorem execCaptureStop_kept (c : MailCmd) (s : State) : ∃ s1, execCaptureStop c s = .next s1 ∧ Kept s s1 := by
  refine ⟨_, rfl, ?_⟩
  try dsimp only
  repeat' (first
    | with_reducible exact Kept.refl _
    | with_reducible apply State.accept_kept)
theorem execProbeRead_kept (c : MailCmd) (s : State) : ∃ s1, execProbeRead c s = .next s1 ∧ Kept s s1 := by
  refine ⟨_, rfl, ?_⟩
  try dsimp only
  repeat' (first
    | with_reducible exact Kept.refl _
    | with_reducible apply State.accept_kept)
theorem execMatrixStream_kept (c : MailCmd) (s : State) : ∃ s1, execMatrixStream c s = .next s1 ∧ Kept s s1 := by
  refine ⟨_, rfl, ?_⟩
  try dsimp only
  repeat' (first
    | with_reducible exact Kept.refl _
    | with_reducible apply State.accept_kept)
theorem execBusRead_kept (c : MailCmd) (s : State) : ∃ s1, execBusRead c s = .next s1 ∧ Kept s s1 := by
  refine ⟨_, rfl, ?_⟩
  try dsimp only
  repeat' (first
    | with_reducible exact Kept.refl _
    | with_reducible apply State.accept_kept)
theorem execFieldRead_kept (c : MailCmd) (s : State) : ∃ s1, execFieldRead c s = .next s1 ∧ Kept s s1 := by
  refine ⟨_, rfl, ?_⟩
  try dsimp only
  repeat' (first
    | with_reducible exact Kept.refl _
    | with_reducible apply State.accept_kept)
theorem execFieldTest_kept (c : MailCmd) (s : State) : ∃ s1, execFieldTest c s = .next s1 ∧ Kept s s1 := by
  refine ⟨_, rfl, ?_⟩
  try dsimp only
  repeat' (first
    | with_reducible exact Kept.refl _
    | with_reducible apply State.accept_kept)
theorem execSelftestRead_kept (c : MailCmd) (s : State) : ∃ s1, execSelftestRead c s = .next s1 ∧ Kept s s1 := by
  refine ⟨_, rfl, ?_⟩
  try dsimp only
  repeat' (first
    | with_reducible exact Kept.refl _
    | with_reducible apply State.accept_kept)
theorem execProofTest_kept (c : MailCmd) (s : State) : ∃ s1, execProofTest c s = .next s1 ∧ Kept s s1 := by
  refine ⟨_, rfl, ?_⟩
  try dsimp only
  repeat' (first
    | with_reducible exact Kept.refl _
    | with_reducible apply State.accept_kept)
theorem execCoppiceNow_kept (c : MailCmd) (s : State) : ∃ s1, execCoppiceNow c s = .next s1 ∧ Kept s s1 := by
  refine ⟨_, rfl, ?_⟩
  try dsimp only
  repeat' (first
    | with_reducible exact Kept.refl _
    | with_reducible apply State.accept_kept)
theorem execWearRead_kept (c : MailCmd) (s : State) : ∃ s1, execWearRead c s = .next s1 ∧ Kept s s1 := by
  refine ⟨_, rfl, ?_⟩
  try dsimp only
  repeat' (first
    | with_reducible exact Kept.refl _
    | with_reducible apply State.accept_kept)
theorem execWearReport_kept (c : MailCmd) (s : State) : ∃ s1, execWearReport c s = .next s1 ∧ Kept s s1 := by
  refine ⟨_, rfl, ?_⟩
  try dsimp only
  repeat' (first
    | with_reducible exact Kept.refl _
    | with_reducible apply State.accept_kept)
theorem execWearReset_kept (c : MailCmd) (s : State) : ∃ s1, execWearReset c s = .next s1 ∧ Kept s s1 := by
  refine ⟨_, rfl, ?_⟩
  try dsimp only
  repeat' (first
    | with_reducible exact Kept.refl _
    | with_reducible apply State.accept_kept)
theorem execUpdOpen_kept (c : MailCmd) (s : State) : ∃ s1, execUpdOpen c s = .next s1 ∧ Kept s s1 := by
  refine ⟨_, rfl, ?_⟩
  try dsimp only
  repeat' (first
    | with_reducible exact Kept.refl _
    | with_reducible apply State.accept_kept)
theorem execUpdBlock_kept (c : MailCmd) (s : State) : ∃ s1, execUpdBlock c s = .next s1 ∧ Kept s s1 := by
  refine ⟨_, rfl, ?_⟩
  try dsimp only
  repeat' (first
    | with_reducible exact Kept.refl _
    | with_reducible apply State.accept_kept)
theorem execUpdVerify_kept (c : MailCmd) (s : State) : ∃ s1, execUpdVerify c s = .next s1 ∧ Kept s s1 := by
  refine ⟨_, rfl, ?_⟩
  try dsimp only
  repeat' (first
    | with_reducible exact Kept.refl _
    | with_reducible apply State.accept_kept)
theorem execUpdActivate_kept (c : MailCmd) (s : State) : ∃ s1, execUpdActivate c s = .next s1 ∧ Kept s s1 := by
  refine ⟨_, rfl, ?_⟩
  try dsimp only
  repeat' (first
    | with_reducible exact Kept.refl _
    | with_reducible apply State.accept_kept)
theorem execUpdConfirm_kept (c : MailCmd) (s : State) : ∃ s1, execUpdConfirm c s = .next s1 ∧ Kept s s1 := by
  refine ⟨_, rfl, ?_⟩
  try dsimp only
  repeat' (first
    | with_reducible exact Kept.refl _
    | with_reducible apply State.accept_kept)
theorem execUpdRollback_kept (c : MailCmd) (s : State) : ∃ s1, execUpdRollback c s = .next s1 ∧ Kept s s1 := by
  refine ⟨_, rfl, ?_⟩
  try dsimp only
  repeat' (first
    | with_reducible exact Kept.refl _
    | with_reducible apply State.accept_kept)
theorem execUpdClose_kept (c : MailCmd) (s : State) : ∃ s1, execUpdClose c s = .next s1 ∧ Kept s s1 := by
  refine ⟨_, rfl, ?_⟩
  try dsimp only
  repeat' (first
    | with_reducible exact Kept.refl _
    | with_reducible apply State.accept_kept)
theorem execUpdStatus_kept (c : MailCmd) (s : State) : ∃ s1, execUpdStatus c s = .next s1 ∧ Kept s s1 := by
  refine ⟨_, rfl, ?_⟩
  try dsimp only
  repeat' (first
    | with_reducible exact Kept.refl _
    | with_reducible apply State.accept_kept)
theorem execTimeRead_kept (c : MailCmd) (s : State) : ∃ s1, execTimeRead c s = .next s1 ∧ Kept s s1 := by
  refine ⟨_, rfl, ?_⟩
  try dsimp only
  repeat' (first
    | with_reducible exact Kept.refl _
    | with_reducible apply State.accept_kept)

end Sys2Proof.Machine
end

