-- ==== Sys2Proof/Laws/KeptWindow.lean ====
section
/-!
SUPPORT. What the operations and commands of Machine/Window.lean keep.
-/

namespace Sys2Proof.Machine

theorem State.readWord_kept {a : State} (s : State) (h : HubId) (a0 : Nat) (h0 : Kept a s) : Kept a (State.readWord s h a0).2 := by
  refine h0.trans ?_
  unfold State.readWord
  try dsimp only
  repeat' (first
    | with_reducible exact Kept.refl _
    | with_reducible apply State.modHub_kept
    | with_reducible apply Kept.ite
    | split
    | intro _
    | with_reducible assumption
    | with_reducible refine LaneOk.mk_same ?_
    | with_reducible refine HubOk.mk_same ?_)
theorem execMultiwordCapture_kept (h : HubId) (addr : Word) (s : State) : ∃ s1, execMultiwordCapture h addr s = .next s1 ∧ Kept s s1 := by
  refine ⟨_, rfl, ?_⟩
  try dsimp only
  repeat' (first
    | with_reducible exact Kept.refl _
    | with_reducible apply State.readWord_kept)
theorem State.writeProd_kept {a : State} (s : State) (h : HubId) (q : RingId) (v : Word) (h0 : Kept a s) : Kept a (State.writeProd s h q v).s := by
  refine h0.trans ?_
  unfold State.writeProd
  try dsimp only
  repeat' (first
    | with_reducible exact Kept.refl _
    | with_reducible apply State.modRing_kept
    | with_reducible apply State.storeTxn_kept
    | with_reducible apply Kept.each
    | with_reducible apply Kept.ite
    | split
    | intro _)
theorem State.writeHcons_kept {a : State} (s : State) (q : RingId) (v : Word) (h0 : Kept a s) : Kept a (State.writeHcons s q v).s := by
  refine h0.trans ?_
  unfold State.writeHcons
  try dsimp only
  repeat' (first
    | with_reducible exact Kept.refl _
    | with_reducible apply State.modRing_kept
    | with_reducible apply Kept.ite
    | split)
theorem State.writeQmem_kept {a : State} (s : State) (a0 : Nat) (v : Word) (h0 : Kept a s) : Kept a (State.writeQmem s a0 v).s := by
  refine h0.trans ?_
  unfold State.writeQmem
  try dsimp only
  repeat' (first
    | with_reducible exact Kept.refl _
    | with_reducible apply State.modHubs_kept
    | with_reducible apply Kept.ite
    | split
    | intro _
    | with_reducible assumption
    | with_reducible refine LaneOk.mk_same ?_
    | with_reducible refine HubOk.mk_same ?_
    | with_reducible refine FrontEnd.gatesOk_same ?_
    | with_reducible refine BankState.gatesOk_same ?_
    | with_reducible refine HubOk.mk_write ?_)
theorem State.writeWord_kept {a : State} (s : State) (h : HubId) (a0 : Nat) (v : Word) (h0 : Kept a s) : Kept a (State.writeWord s h a0 v).s := by
  refine h0.trans ?_
  unfold State.writeWord
  extract_lets rsv o w
  have k_w : Kept s w.s := by
    unfold w
    try dsimp only
    repeat' (first
      | with_reducible assumption
      | with_reducible exact Kept.refl _
      | with_reducible apply State.feWrite_kept
      | with_reducible apply State.writeProd_kept
      | with_reducible apply State.writeHcons_kept
      | with_reducible apply State.writeQmem_kept
      | with_reducible apply Kept.ite
      | split)
  try clear_value w
  try dsimp only
  repeat' (first
    | with_reducible assumption
    | with_reducible exact Kept.refl _
    | with_reducible apply State.feWrite_kept
    | with_reducible apply State.writeProd_kept
    | with_reducible apply State.writeHcons_kept
    | with_reducible apply State.writeQmem_kept
    | with_reducible apply Kept.ite
    | split)
theorem State.portBegin_kept {a : State} (s : State) (h : HubId) (h0 : Kept a s) : Kept a (State.portBegin s h) := by
  refine h0.trans ?_
  unfold State.portBegin
  try dsimp only
  repeat' (first
    | with_reducible exact Kept.refl _
    | with_reducible apply State.modHub_kept
    | with_reducible apply State.abort_kept
    | intro _
    | with_reducible assumption
    | with_reducible refine LaneOk.mk_same ?_
    | with_reducible refine HubOk.mk_same ?_)
theorem State.portRefuse_kept {a : State} (s : State) (h : HubId) (cause a0 : Nat) (h0 : Kept a s) : Kept a (State.portRefuse s h cause a0) := by
  refine h0.trans ?_
  unfold State.portRefuse
  extract_lets s1 src
  have k_s1 : Kept s s1 := by
    unfold s1
    try dsimp only
    repeat' (first
      | with_reducible assumption
      | with_reducible exact Kept.refl _
      | with_reducible apply State.modHub_kept
      | with_reducible apply Kept.ite
      | split
      | intro _
      | with_reducible assumption
      | with_reducible refine LaneOk.mk_same ?_
      | with_reducible refine HubOk.mk_same ?_)
  try clear_value s1
  try dsimp only
  repeat' (first
    | with_reducible assumption
    | with_reducible exact Kept.refl _
    | with_reducible apply State.modHub_kept
    | with_reducible apply Kept.ite
    | split
    | intro _
    | with_reducible assumption
    | with_reducible refine LaneOk.mk_same ?_
    | with_reducible refine HubOk.mk_same ?_
    | with_reducible refine FrontEnd.gatesOk_same ?_
    | with_reducible refine BankState.gatesOk_same ?_
    | with_reducible refine Kept.mk_same ?_)
theorem State.portRsv_kept {a : State} (s : State) (h : HubId) (h0 : Kept a s) : Kept a (State.portRsv s h) := by
  refine h0.trans ?_
  unfold State.portRsv
  extract_lets s1 src
  have k_s1 : Kept s s1 := by
    unfold s1
    try dsimp only
    repeat' (first
      | with_reducible assumption
      | with_reducible exact Kept.refl _
      | with_reducible apply State.modHub_kept
      | with_reducible apply Kept.ite
      | split
      | intro _
      | with_reducible assumption
      | with_reducible refine LaneOk.mk_same ?_
      | with_reducible refine HubOk.mk_same ?_)
  try clear_value s1
  try dsimp only
  repeat' (first
    | with_reducible assumption
    | with_reducible exact Kept.refl _
    | with_reducible apply State.modHub_kept
    | with_reducible apply Kept.ite
    | split
    | intro _
    | with_reducible assumption
    | with_reducible refine LaneOk.mk_same ?_
    | with_reducible refine HubOk.mk_same ?_
    | with_reducible refine FrontEnd.gatesOk_same ?_
    | with_reducible refine BankState.gatesOk_same ?_
    | with_reducible refine Kept.mk_same ?_)
theorem State.portWrite_kept {a : State} (s : State) (h : HubId) (a0 : Nat) (v : Word) (h0 : Kept a s) : Kept a (State.portWrite s h a0 v) := by
  refine h0.trans ?_
  unfold State.portWrite
  extract_lets w s1
  have k_w : Kept s w.s := by
    unfold w
    try dsimp only
    repeat' (first
      | with_reducible assumption
      | with_reducible exact Kept.refl _
      | with_reducible apply State.writeWord_kept)
  try clear_value w
  have k_s1 : Kept s s1 := by
    unfold s1
    try dsimp only
    repeat' (first
      | with_reducible assumption
      | with_reducible exact Kept.refl _
      | with_reducible apply State.writeWord_kept
      | with_reducible apply State.portRefuse_kept
      | with_reducible apply State.portRsv_kept
      | with_reducible apply Kept.ite)
  try clear_value s1
  try dsimp only
  repeat' (first
    | with_reducible assumption
    | with_reducible exact Kept.refl _
    | with_reducible apply State.writeWord_kept
    | with_reducible apply State.portRefuse_kept
    | with_reducible apply State.portRsv_kept
    | with_reducible apply Kept.ite)
theorem State.portWrites_kept {a : State} (s : State) (h : HubId) (a0 : Nat) (z : List Word) (h0 : Kept a s) : Kept a (State.portWrites s h a0 z) := by
  induction z generalizing s h a0 with
  | nil =>
    unfold State.portWrites
    try dsimp only
    repeat' (first
      | with_reducible exact h0)
  | cons x z ih =>
    unfold State.portWrites
    try dsimp only
    repeat' (first
      | with_reducible exact h0
      | with_reducible apply ih
      | with_reducible apply State.portWrite_kept)
theorem State.portReads_kept {a : State} (s : State) (h : HubId) (a0 : Nat) (z : Nat) (h0 : Kept a s) : Kept a (State.portReads s h a0 z).1 := by
  induction z generalizing s h a0 with
  | zero =>
    unfold State.portReads
    try dsimp only
    repeat' (first
      | with_reducible exact h0)
  | succ z ih =>
    unfold State.portReads
    try dsimp only
    repeat' (first
      | with_reducible exact h0
      | with_reducible apply ih
      | with_reducible apply State.readWord_kept
      | with_reducible apply State.portRefuse_kept
      | with_reducible apply Kept.ite
      | split)
theorem State.portMiso_kept {a : State} (s : State) (h : HubId) (ws : List Word) (h0 : Kept a s) : Kept a (State.portMiso s h ws) := by
  refine h0.trans ?_
  unfold State.portMiso
  try dsimp only
  repeat' (first
    | with_reducible exact Kept.refl _
    | with_reducible apply State.modHub_kept
    | intro _
    | with_reducible assumption
    | with_reducible refine LaneOk.mk_same ?_
    | with_reducible refine HubOk.mk_same ?_)
theorem State.spi_kept {a : State} (s : State) (h : HubId) (mosi : List Word) (cut : Bool) (h0 : Kept a s) : Kept a (State.spi s h mosi cut) := by
  refine h0.trans ?_
  unfold State.spi
  extract_lets pst refAddr s0 s1 out
  have k_s0 : Kept s s0 := by
    unfold s0
    try dsimp only
    repeat' (first
      | with_reducible assumption
      | with_reducible exact Kept.refl _
      | with_reducible apply State.modHub_kept
      | with_reducible apply State.abort_kept
      | with_reducible apply State.portBegin_kept
      | with_reducible apply State.portRefuse_kept
      | with_reducible apply State.portWrites_kept
      | with_reducible apply State.portReads_kept
      | with_reducible apply State.portMiso_kept
      | with_reducible apply Kept.ite
      | split
      | intro _
      | with_reducible assumption
      | with_reducible refine LaneOk.mk_same ?_
      | with_reducible refine HubOk.mk_same ?_
      | with_reducible refine FrontEnd.gatesOk_same ?_
      | with_reducible refine BankState.gatesOk_same ?_
      | with_reducible refine Kept.mk_same ?_
      | dsimp only)
  try clear_value s0
  have k_s1 : Kept s s1 := by
    unfold s1
    try dsimp only
    repeat' (first
      | with_reducible assumption
      | with_reducible exact Kept.refl _
      | with_reducible apply State.modHub_kept
      | with_reducible apply State.abort_kept
      | with_reducible apply State.portBegin_kept
      | with_reducible apply State.portRefuse_kept
      | with_reducible apply State.portWrites_kept
      | with_reducible apply State.portReads_kept
      | with_reducible apply State.portMiso_kept
      | with_reducible apply Kept.ite
      | split
      | intro _
      | with_reducible assumption
      | with_reducible refine LaneOk.mk_same ?_
      | with_reducible refine HubOk.mk_same ?_
      | with_reducible refine FrontEnd.gatesOk_same ?_
      | with_reducible refine BankState.gatesOk_same ?_
      | with_reducible refine Kept.mk_same ?_
      | dsimp only)
  try clear_value s1
  try dsimp only
  repeat' (first
    | with_reducible assumption
    | with_reducible exact Kept.refl _
    | with_reducible apply State.modHub_kept
    | with_reducible apply State.abort_kept
    | with_reducible apply State.portBegin_kept
    | with_reducible apply State.portRefuse_kept
    | with_reducible apply State.portWrites_kept
    | with_reducible apply State.portReads_kept
    | with_reducible apply State.portMiso_kept
    | with_reducible apply Kept.ite
    | split
    | intro _
    | with_reducible assumption
    | with_reducible refine LaneOk.mk_same ?_
    | with_reducible refine HubOk.mk_same ?_
    | with_reducible refine FrontEnd.gatesOk_same ?_
    | with_reducible refine BankState.gatesOk_same ?_
    | with_reducible refine Kept.mk_same ?_
    | dsimp only)
theorem execSpiTransaction_kept (h : HubId) (mosi : List Word) (cut : Bool) (s : State) : ∃ s1, execSpiTransaction h mosi cut s = .next s1 ∧ Kept s s1 := by
  refine ⟨_, rfl, ?_⟩
  try dsimp only
  repeat' (first
    | with_reducible exact Kept.refl _
    | with_reducible apply State.spi_kept
    | with_reducible apply Kept.ite)
theorem State.oneWrite_kept {a : State} (s : State) (h : HubId) (a0 : Nat) (v : Word) (h0 : Kept a s) : Kept a (State.oneWrite s h a0 v) := by
  refine h0.trans ?_
  unfold State.oneWrite
  try dsimp only
  repeat' (first
    | with_reducible exact Kept.refl _
    | with_reducible apply State.portBegin_kept
    | with_reducible apply State.portWrite_kept
    | with_reducible apply Kept.ite)
theorem execProdWrite_kept (h : HubId) (q : RingId) (v : Word) (s : State) : ∃ s1, execProdWrite h q v s = .next s1 ∧ Kept s s1 := by
  refine ⟨_, rfl, ?_⟩
  try dsimp only
  repeat' (first
    | with_reducible exact Kept.refl _
    | with_reducible apply State.oneWrite_kept)
theorem execHconsWrite_kept (h : HubId) (q : RingId) (v : Word) (s : State) : ∃ s1, execHconsWrite h q v s = .next s1 ∧ Kept s s1 := by
  refine ⟨_, rfl, ?_⟩
  try dsimp only
  repeat' (first
    | with_reducible exact Kept.refl _
    | with_reducible apply State.oneWrite_kept)
theorem execAuxCtrlWrite_kept (h : HubId) (g : GroupId) (v : Word) (s : State) : ∃ s1, execAuxCtrlWrite h g v s = .next s1 ∧ Kept s s1 := by
  refine ⟨_, rfl, ?_⟩
  try dsimp only
  repeat' (first
    | with_reducible exact Kept.refl _
    | with_reducible apply State.oneWrite_kept)
theorem execAuxReqCal_kept (h : HubId) (g : GroupId) (s : State) : ∃ s1, execAuxReqCal h g s = .next s1 ∧ Kept s s1 := by
  refine ⟨_, rfl, ?_⟩
  try dsimp only
  repeat' (first
    | with_reducible exact Kept.refl _
    | with_reducible apply State.oneWrite_kept)
theorem execAuxReqInj_kept (h : HubId) (g : GroupId) (s : State) : ∃ s1, execAuxReqInj h g s = .next s1 ∧ Kept s s1 := by
  refine ⟨_, rfl, ?_⟩
  try dsimp only
  repeat' (first
    | with_reducible exact Kept.refl _
    | with_reducible apply State.oneWrite_kept)
theorem execWindowRefresh_kept (s : State) : ∃ s1, execWindowRefresh s = .next s1 ∧ Kept s s1 := by
  refine ⟨_, rfl, ?_⟩
  try dsimp only
  repeat' (first
    | with_reducible exact Kept.refl _
    | with_reducible apply State.modHubs_kept
    | with_reducible apply Kept.ite
    | split
    | intro _
    | with_reducible assumption
    | with_reducible refine LaneOk.mk_same ?_
    | with_reducible refine HubOk.mk_same ?_)

end Sys2Proof.Machine
end

