-- ==== Sys2Proof/Laws/KeptCvu.lean ====
section
/-!
SUPPORT. What the operations and commands of Machine/Cvu.lean keep.
-/

namespace Sys2Proof.Machine

theorem State.modCvu_kept {a : State} (s : State) (l : LaneId) (f : Cvu → Cvu) (h0 : Kept a s) : Kept a (State.modCvu s l f) := by
  refine h0.trans ?_
  unfold State.modCvu
  try dsimp only
  repeat' (first
    | with_reducible exact Kept.refl _
    | with_reducible apply State.modLane_kept
    | with_reducible apply Kept.ite
    | split
    | intro _
    | with_reducible assumption
    | with_reducible refine LaneOk.mk_same ?_)
theorem execRegisterWrite_kept (t : RegTarget) (s : State) : ∃ s1, execRegisterWrite t s = .next s1 ∧ Kept s s1 := by
  refine ⟨_, rfl, ?_⟩
  try dsimp only
  repeat' (first
    | with_reducible exact Kept.refl _
    | with_reducible apply State.oneWrite_kept
    | with_reducible apply State.modCvu_kept
    | split)
theorem execCvLoad_kept (l : LaneId) (s : State) : ∃ s1, execCvLoad l s = .next s1 ∧ Kept s s1 := by
  refine ⟨_, rfl, ?_⟩
  try dsimp only
  repeat' (first
    | with_reducible exact Kept.refl _
    | with_reducible apply State.modCvu_kept)
theorem execCvFoldImp_kept (l : LaneId) (s : State) : ∃ s1, execCvFoldImp l s = .next s1 ∧ Kept s s1 := by
  refine ⟨_, rfl, ?_⟩
  try dsimp only
  repeat' (first
    | with_reducible exact Kept.refl _
    | with_reducible apply State.modCvu_kept)
theorem execCvDma_kept (l : LaneId) (s : State) : ∃ s1, execCvDma l s = .next s1 ∧ Kept s s1 := by
  refine ⟨_, rfl, ?_⟩
  try dsimp only
  repeat' (first
    | with_reducible exact Kept.refl _
    | with_reducible apply State.modCvu_kept)
theorem execCvData8_kept (l : LaneId) (d : Byte) (s : State) : ∃ s1, execCvData8 l d s = .next s1 ∧ Kept s s1 := by
  refine ⟨_, rfl, ?_⟩
  try dsimp only
  repeat' (first
    | with_reducible exact Kept.refl _
    | with_reducible apply State.modCvu_kept)
theorem execCvData32_kept (l : LaneId) (d : DWord) (s : State) : ∃ s1, execCvData32 l d s = .next s1 ∧ Kept s s1 := by
  refine ⟨_, rfl, ?_⟩
  try dsimp only
  repeat' (first
    | with_reducible exact Kept.refl _
    | with_reducible apply State.modCvu_kept)
theorem execCvDmaDone_kept (l : LaneId) (eccAt : Option Nat) (s : State) : ∃ s1, execCvDmaDone l eccAt s = .next s1 ∧ Kept s s1 := by
  refine ⟨_, rfl, ?_⟩
  try dsimp only
  repeat' (first
    | with_reducible exact Kept.refl _
    | with_reducible apply State.modLane_kept
    | with_reducible apply State.free_kept
    | with_reducible apply State.useFree_kept
    | with_reducible apply Kept.ite
    | split
    | intro _
    | with_reducible assumption
    | with_reducible refine LaneOk.mk_same ?_)

end Sys2Proof.Machine
end

