-- ==== Sys2Proof/Laws/KeptLanes.lean ====
section
/-!
SUPPORT. What the operations and commands of Machine/Lanes.lean keep.
-/

namespace Sys2Proof.Machine

theorem State.evaluate_kept {a : State} (s : State) (h0 : Kept a s) : Kept a (State.evaluate s) := by
  refine h0.trans ?_
  unfold State.evaluate
  try dsimp only
  repeat' (first
    | with_reducible exact Kept.refl _
    | with_reducible apply State.modLanes_kept
    | with_reducible apply Kept.ite
    | split
    | intro _
    | with_reducible assumption
    | with_reducible refine LaneOk.mk_same ?_
    | with_reducible refine HubOk.mk_same ?_
    | with_reducible refine FrontEnd.gatesOk_same ?_
    | with_reducible refine BankState.gatesOk_same ?_
    | with_reducible refine Kept.mk_same ?_)
theorem LaneState.restart_ok (L : LaneState) (now : Nat) (h : LaneOk L) : LaneOk (LaneState.restart L now) := by
  unfold LaneState.restart
  try dsimp only
  repeat' (first | with_reducible exact h | split | with_reducible refine LaneOk.mk_same ?_ | exact (rfl : Memory.wf [] = true))
theorem State.withdrawLane_kept {a : State} (s : State) (l : LaneId) (h0 : Kept a s) : Kept a (State.withdrawLane s l) := by
  refine h0.trans ?_
  unfold State.withdrawLane
  extract_lets s1 s2 src
  have k_s1 : Kept s s1 := by
    unfold s1
    try dsimp only
    repeat' (first
      | with_reducible assumption
      | with_reducible apply LaneState.restart_ok
      | with_reducible exact Kept.refl _
      | with_reducible apply State.modLane_kept
      | with_reducible apply State.raiseFault_kept
      | with_reducible apply State.cutCapture_kept
      | with_reducible apply State.loseLane_kept
      | with_reducible apply Kept.ite
      | split
      | intro _
      | with_reducible assumption
      | with_reducible refine LaneOk.mk_same ?_
      | with_reducible refine HubOk.mk_same ?_
      | with_reducible refine FrontEnd.gatesOk_same ?_
      | with_reducible refine BankState.gatesOk_same ?_
      | with_reducible refine Kept.mk_same ?_)
  try clear_value s1
  have k_s2 : Kept s s2 := by
    unfold s2
    try dsimp only
    repeat' (first
      | with_reducible assumption
      | with_reducible apply LaneState.restart_ok
      | with_reducible exact Kept.refl _
      | with_reducible apply State.modLane_kept
      | with_reducible apply State.raiseFault_kept
      | with_reducible apply State.cutCapture_kept
      | with_reducible apply State.loseLane_kept
      | with_reducible apply Kept.ite
      | split
      | intro _
      | with_reducible assumption
      | with_reducible refine LaneOk.mk_same ?_
      | with_reducible refine HubOk.mk_same ?_
      | with_reducible refine FrontEnd.gatesOk_same ?_
      | with_reducible refine BankState.gatesOk_same ?_
      | with_reducible refine Kept.mk_same ?_)
  try clear_value s2
  try dsimp only
  repeat' (first
    | with_reducible assumption
    | with_reducible apply LaneState.restart_ok
    | with_reducible exact Kept.refl _
    | with_reducible apply State.modLane_kept
    | with_reducible apply State.raiseFault_kept
    | with_reducible apply State.cutCapture_kept
    | with_reducible apply State.loseLane_kept
    | with_reducible apply Kept.ite
    | split
    | intro _
    | with_reducible assumption
    | with_reducible refine LaneOk.mk_same ?_
    | with_reducible refine HubOk.mk_same ?_
    | with_reducible refine FrontEnd.gatesOk_same ?_
    | with_reducible refine BankState.gatesOk_same ?_
    | with_reducible refine Kept.mk_same ?_)
theorem LaneState.adopt_ok (L src : LaneState) (k : Latches) (ok : GroupMask) (now : Nat) (h : LaneOk L) : LaneOk (LaneState.adopt L src k ok now) := by
  unfold LaneState.adopt
  try dsimp only
  repeat' (first | with_reducible exact h | split | with_reducible refine LaneOk.mk_same ?_ | exact (rfl : Memory.wf [] = true))
theorem State.firstImage_kept {a : State} (s : State) (l : LaneId) (x : Voted) (h0 : Kept a s) : Kept a (State.firstImage s l x) := by
  refine h0.trans ?_
  unfold State.firstImage
  extract_lets t img
  have k_t : Kept s t := by
    unfold t
    try dsimp only
    repeat' (first
      | with_reducible assumption
      | with_reducible exact Kept.refl _
      | with_reducible apply State.modLane_kept
      | with_reducible apply Kept.ite
      | split
      | intro _
      | with_reducible assumption
      | with_reducible refine LaneOk.mk_same ?_
      | with_reducible refine HubOk.mk_same ?_
      | with_reducible refine FrontEnd.gatesOk_same ?_
      | with_reducible refine BankState.gatesOk_same ?_
      | with_reducible refine Kept.mk_same ?_)
  try clear_value t
  try dsimp only
  repeat' (first
    | with_reducible assumption
    | with_reducible exact Kept.refl _
    | with_reducible apply State.modLane_kept
    | with_reducible apply Kept.ite
    | split
    | intro _
    | with_reducible assumption
    | with_reducible refine LaneOk.mk_same ?_
    | with_reducible refine HubOk.mk_same ?_
    | with_reducible refine FrontEnd.gatesOk_same ?_
    | with_reducible refine BankState.gatesOk_same ?_
    | with_reducible refine Kept.mk_same ?_)
theorem State.rejoin_kept {a : State} (s : State) (l : LaneId) (h0 : Kept a s) : Kept a (State.rejoin s l) := by
  refine h0.trans ?_
  unfold State.rejoin
  try dsimp only
  repeat' (first
    | with_reducible apply LaneState.adopt_ok
    | with_reducible exact Kept.refl _
    | with_reducible apply State.modRun_kept
    | with_reducible apply State.modLane_kept
    | with_reducible apply State.withdrawFault_kept
    | with_reducible apply State.degrade_kept
    | with_reducible apply State.cutCapture_kept
    | with_reducible apply State.loseLane_kept
    | with_reducible apply State.firstImage_kept
    | with_reducible apply Kept.each
    | with_reducible apply Kept.ite
    | split
    | intro _
    | with_reducible assumption
    | with_reducible refine LaneOk.mk_same ?_
    | with_reducible refine HubOk.mk_same ?_
    | with_reducible refine FrontEnd.gatesOk_same ?_
    | with_reducible refine BankState.gatesOk_same ?_)
theorem State.judgeCompares_kept {a : State} (s : State) (l : LaneId) (seen : List CmpSeen) (h0 : Kept a s) : Kept a (State.judgeCompares s l seen) := by
  refine h0.trans ?_
  unfold State.judgeCompares
  try dsimp only
  repeat' (first
    | with_reducible exact Kept.refl _
    | with_reducible apply State.raiseFault_kept
    | with_reducible apply State.enterMode_kept
    | with_reducible apply State.abortWindow_kept
    | with_reducible apply State.setSafe_kept
    | with_reducible apply State.withdrawLane_kept
    | with_reducible apply Kept.ite
    | split
    | with_reducible refine Kept.mk_same ?_)
theorem State.compare_kept {a : State} (s : State) (receiver sender : LaneId) (own : CmpOwn) (r : CompareRec) (h0 : Kept a s) : Kept a (State.compare s receiver sender own r) := by
  refine h0.trans ?_
  unfold State.compare
  try dsimp only
  repeat' (first
    | with_reducible exact Kept.refl _
    | with_reducible apply State.modLane_kept
    | with_reducible apply State.judgeCompares_kept
    | with_reducible apply Kept.ite
    | split
    | intro _
    | with_reducible assumption
    | with_reducible refine LaneOk.mk_same ?_)
theorem execCompareRecord_kept (receiver sender : LaneId) (index : Nat) (rx : RxCompare) (s : State) : ∃ s1, execCompareRecord receiver sender index rx s = .next s1 ∧ Kept s s1 := by
  refine ⟨_, rfl, ?_⟩
  try dsimp only
  repeat' (first
    | with_reducible exact Kept.refl _
    | with_reducible apply State.compare_kept
    | with_reducible apply Kept.ite
    | split)
theorem execLatchMerge_kept (s : State) : ∃ s1, execLatchMerge s = .next s1 ∧ Kept s s1 := by
  refine ⟨_, rfl, ?_⟩
  try dsimp only
  repeat' (first
    | with_reducible exact Kept.refl _
    | with_reducible apply State.modLanes_kept
    | with_reducible apply State.noteAll_kept
    | with_reducible apply Kept.ite
    | split
    | intro _
    | with_reducible assumption
    | with_reducible refine LaneOk.mk_same ?_)
theorem execLatchDriveRederive_kept (l : LaneId) (s : State) : ∃ s1, execLatchDriveRederive l s = .next s1 ∧ Kept s s1 := by
  refine ⟨_, rfl, ?_⟩
  try dsimp only
  repeat' (first
    | with_reducible exact Kept.refl _
    | with_reducible apply State.modLane_kept
    | with_reducible apply Kept.ite
    | split
    | intro _
    | with_reducible assumption
    | with_reducible refine LaneOk.mk_same ?_)
theorem execWatchdog_kept (l : LaneId) (s : State) : ∃ s1, execWatchdog l s = .next s1 ∧ Kept s s1 := by
  refine ⟨_, rfl, ?_⟩
  try dsimp only
  repeat' (first
    | with_reducible exact Kept.refl _
    | with_reducible apply State.fault_kept
    | with_reducible apply Kept.ite
    | split)
theorem execDegradedLimit_kept (s : State) : ∃ s1, execDegradedLimit s = .next s1 ∧ Kept s s1 := by
  refine ⟨_, rfl, ?_⟩
  try dsimp only
  repeat' (first
    | with_reducible exact Kept.refl _
    | with_reducible apply State.fault_kept
    | with_reducible apply Kept.ite)
theorem execRevertFail_kept (g : GroupId) (s : State) : ∃ s1, execRevertFail g s = .next s1 ∧ Kept s s1 := by
  refine ⟨_, rfl, ?_⟩
  try dsimp only
  repeat' (first
    | with_reducible exact Kept.refl _
    | with_reducible apply State.fault_kept
    | with_reducible apply Kept.ite)
theorem execGladeUnproven_kept (g : GroupId) (s : State) : ∃ s1, execGladeUnproven g s = .next s1 ∧ Kept s s1 := by
  refine ⟨_, rfl, ?_⟩
  try dsimp only
  repeat' (first
    | with_reducible exact Kept.refl _
    | with_reducible apply State.fault_kept
    | with_reducible apply Kept.ite)

end Sys2Proof.Machine
end

