-- ==== Sys2Proof/Laws/KeptSelfTest.lean ====
section
/-!
SUPPORT. What the operations and commands of Machine/SelfTest.lean keep.
-/

namespace Sys2Proof.Machine

theorem State.lbistFollows_kept {a : State} (s : State) (l : LaneId) (res : Nat) (h0 : Kept a s) : Kept a (State.lbistFollows s l res) := by
  refine h0.trans ?_
  unfold State.lbistFollows
  try dsimp only
  repeat' (first
    | with_reducible exact Kept.refl _
    | with_reducible apply State.withdrawFault_kept
    | with_reducible apply State.fault_kept
    | with_reducible apply Kept.ite
    | split
    | with_reducible refine Kept.mk_same ?_)
theorem State.judgeRun_kept {a : State} (s : State) (l : LaneId) (r : LbistRun) (h0 : Kept a s) : Kept a (State.judgeRun s l r) := by
  refine h0.trans ?_
  unfold State.judgeRun
  extract_lets s1
  have k_s1 : Kept s s1 := by
    unfold s1
    try dsimp only
    repeat' (first
      | with_reducible assumption
      | with_reducible exact Kept.refl _
      | with_reducible apply State.modLane_kept
      | with_reducible apply State.lbistFollows_kept
      | intro _
      | with_reducible assumption
      | with_reducible refine LaneOk.mk_same ?_)
  try clear_value s1
  try dsimp only
  repeat' (first
    | with_reducible assumption
    | with_reducible exact Kept.refl _
    | with_reducible apply State.modLane_kept
    | with_reducible apply State.lbistFollows_kept)
theorem State.copStep_kept {a : State} (s : State) (k : Nat) (h0 : Kept a s) : Kept a (State.copStep s k) := by
  refine h0.trans ?_
  unfold State.copStep
  try dsimp only
  repeat' (first
    | with_reducible exact Kept.refl _
    | with_reducible refine Kept.mk_same ?_)
theorem State.precheckInvalid_kept {a : State} (s : State) (l : LaneId) (m : RangeMeas) (h0 : Kept a s) : Kept a (State.precheckInvalid s l m) := by
  refine h0.trans ?_
  unfold State.precheckInvalid
  extract_lets b res s1
  have k_s1 : Kept s s1 := by
    unfold s1
    try dsimp only
    repeat' (first
      | with_reducible assumption
      | with_reducible apply FrontEnd.supply_ok
      | with_reducible exact Kept.refl _
      | with_reducible apply State.modLane_kept
      | with_reducible apply State.lbistFollows_kept
      | with_reducible apply State.copStep_kept
      | with_reducible apply Kept.ite
      | split
      | intro _
      | with_reducible assumption
      | with_reducible refine LaneOk.mk_same ?_
      | with_reducible refine HubOk.mk_same ?_
      | with_reducible refine FrontEnd.gatesOk_same ?_
      | with_reducible refine BankState.gatesOk_same ?_
      | with_reducible refine Kept.mk_same ?_)
  try clear_value s1
  try dsimp only
  repeat' (first
    | with_reducible assumption
    | with_reducible apply FrontEnd.supply_ok
    | with_reducible exact Kept.refl _
    | with_reducible apply State.modLane_kept
    | with_reducible apply State.lbistFollows_kept
    | with_reducible apply State.copStep_kept
    | with_reducible apply Kept.ite
    | split
    | intro _
    | with_reducible assumption
    | with_reducible refine LaneOk.mk_same ?_
    | with_reducible refine HubOk.mk_same ?_
    | with_reducible refine FrontEnd.gatesOk_same ?_
    | with_reducible refine BankState.gatesOk_same ?_
    | with_reducible refine Kept.mk_same ?_)
theorem execCoppiceStepEnd_kept (r : RangeMeas) (s : State) : ∃ s1, execCoppiceStepEnd r s = .next s1 ∧ Kept s s1 := by
  refine ⟨_, rfl, ?_⟩
  try dsimp only
  repeat' (first
    | with_reducible exact Kept.refl _
    | with_reducible apply State.rejoin_kept
    | with_reducible apply State.copStep_kept
    | with_reducible apply State.precheckInvalid_kept
    | with_reducible apply Kept.ite
    | split)
theorem execLbistDone_kept (l : LaneId) (r : LbistRun) (s : State) : ∃ s1, execLbistDone l r s = .next s1 ∧ Kept s s1 := by
  refine ⟨_, rfl, ?_⟩
  try dsimp only
  repeat' (first
    | with_reducible exact Kept.refl _
    | with_reducible apply State.judgeRun_kept
    | with_reducible apply State.copStep_kept
    | with_reducible apply Kept.ite)
theorem execCoppiceDue_kept (s : State) : ∃ s1, execCoppiceDue s = .next s1 ∧ Kept s s1 := by
  refine ⟨_, rfl, ?_⟩
  try dsimp only
  repeat' (first
    | with_reducible exact Kept.refl _
    | with_reducible apply Kept.ite
    | split
    | with_reducible refine Kept.mk_same ?_)
theorem State.openWindow_kept {a : State} (s : State) (h0 : Kept a s) : Kept a (State.openWindow s) := by
  refine h0.trans ?_
  unfold State.openWindow
  extract_lets c l s1
  have k_s1 : Kept s s1 := by
    unfold s1
    try dsimp only
    repeat' (first
      | with_reducible assumption
      | with_reducible exact Kept.refl _
      | with_reducible apply State.modLane_kept
      | with_reducible apply State.cutCapture_kept
      | with_reducible apply Kept.ite
      | split
      | intro _
      | with_reducible assumption
      | with_reducible refine LaneOk.mk_same ?_
      | with_reducible refine HubOk.mk_same ?_
      | with_reducible refine FrontEnd.gatesOk_same ?_
      | with_reducible refine BankState.gatesOk_same ?_
      | with_reducible refine Kept.mk_same ?_)
  try clear_value s1
  try dsimp only
  repeat' (first
    | with_reducible assumption
    | with_reducible exact Kept.refl _
    | with_reducible apply State.modLane_kept
    | with_reducible apply State.cutCapture_kept
    | with_reducible apply Kept.ite
    | split
    | intro _
    | with_reducible assumption
    | with_reducible refine LaneOk.mk_same ?_
    | with_reducible refine HubOk.mk_same ?_
    | with_reducible refine FrontEnd.gatesOk_same ?_
    | with_reducible refine BankState.gatesOk_same ?_
    | with_reducible refine Kept.mk_same ?_)
theorem State.copActionPoint_kept {a : State} (s : State) (h0 : Kept a s) : Kept a (State.copActionPoint s) := by
  refine h0.trans ?_
  unfold State.copActionPoint
  try dsimp only
  repeat' (first
    | with_reducible exact Kept.refl _
    | with_reducible apply State.degrade_kept
    | with_reducible apply State.openWindow_kept
    | with_reducible apply Kept.ite
    | split
    | with_reducible refine Kept.mk_same ?_)
theorem State.copVote_kept {a : State} (s : State) (h0 : Kept a s) : Kept a (State.copVote s) := by
  refine h0.trans ?_
  unfold State.copVote
  try dsimp only
  repeat' (first
    | with_reducible exact Kept.refl _
    | with_reducible apply Kept.ite
    | split
    | with_reducible refine Kept.mk_same ?_)
theorem execLaneRestartDone_kept (l : LaneId) (r : RestartResult) (s : State) : ∃ s1, execLaneRestartDone l r s = .next s1 ∧ Kept s s1 := by
  refine ⟨_, rfl, ?_⟩
  try dsimp only
  repeat' (first
    | with_reducible exact Kept.refl _
    | with_reducible apply State.loseLane_kept
    | with_reducible apply State.rejoin_kept
    | with_reducible apply State.judgeRun_kept
    | with_reducible apply Kept.ite)
theorem execHubTestSlice_kept (h : HubId) (r : SliceRun) (s : State) : ∃ s1, execHubTestSlice h r s = .next s1 ∧ Kept s s1 := by
  refine ⟨_, rfl, ?_⟩
  try dsimp only
  repeat' (first
    | with_reducible exact Kept.refl _
    | with_reducible apply State.modHub_kept
    | with_reducible apply State.fault_kept
    | with_reducible apply Kept.ite
    | split
    | intro _
    | with_reducible assumption
    | with_reducible refine LaneOk.mk_same ?_
    | with_reducible refine HubOk.mk_same ?_
    | with_reducible refine FrontEnd.gatesOk_same ?_
    | with_reducible refine BankState.gatesOk_same ?_
    | with_reducible refine Kept.mk_same ?_)
theorem execSramScrubError_kept (u : MemUnit) (correctable : Bool) (s : State) : ∃ s1, execSramScrubError u correctable s = .next s1 ∧ Kept s s1 := by
  refine ⟨_, rfl, ?_⟩
  try dsimp only
  repeat' (first
    | with_reducible exact Kept.refl _
    | with_reducible apply State.modLane_kept
    | with_reducible apply State.modHub_kept
    | with_reducible apply State.abortWindow_kept
    | with_reducible apply State.qmemFault_kept
    | with_reducible apply State.withdrawLane_kept
    | with_reducible apply Kept.ite
    | split
    | intro _
    | with_reducible assumption
    | with_reducible refine LaneOk.mk_same ?_
    | with_reducible refine HubOk.mk_same ?_
    | with_reducible refine FrontEnd.gatesOk_same ?_
    | with_reducible refine BankState.gatesOk_same ?_
    | with_reducible refine Kept.mk_same ?_)

end Sys2Proof.Machine
end

