-- ==== Sys2Proof/Laws/KeptVote.lean ====
section
/-!
SUPPORT. What the operations and commands of Machine/Vote.lean keep.
-/

namespace Sys2Proof.Machine

theorem State.noteMaster_kept {a : State} (s : State) (m : MasterId) (v : MasterView) (h0 : Kept a s) : Kept a (State.noteMaster s m v) := by
  refine h0.trans ?_
  unfold State.noteMaster
  extract_lets n was now s1 say s2 s3 s4
  have k_s1 : Kept s s1 := by
    unfold s1
    try dsimp only
    repeat' (first
      | with_reducible assumption
      | with_reducible exact Kept.refl _
      | with_reducible apply State.modLanes_kept
      | with_reducible apply State.note_kept
      | with_reducible apply Kept.ite
      | split
      | intro _
      | with_reducible assumption
      | with_reducible refine LaneOk.mk_same ?_)
  try clear_value s1
  have k_s2 : Kept s s2 := by
    unfold s2
    try dsimp only
    repeat' (first
      | with_reducible assumption
      | with_reducible exact Kept.refl _
      | with_reducible apply State.modLanes_kept
      | with_reducible apply State.note_kept
      | with_reducible apply Kept.ite)
  try clear_value s2
  have k_s3 : Kept s s3 := by
    unfold s3
    try dsimp only
    repeat' (first
      | with_reducible assumption
      | with_reducible exact Kept.refl _
      | with_reducible apply State.modLanes_kept
      | with_reducible apply State.note_kept
      | with_reducible apply Kept.ite)
  try clear_value s3
  have k_s4 : Kept s s4 := by
    unfold s4
    try dsimp only
    repeat' (first
      | with_reducible assumption
      | with_reducible exact Kept.refl _
      | with_reducible apply State.modLanes_kept
      | with_reducible apply State.note_kept
      | with_reducible apply Kept.ite)
  try clear_value s4
  try dsimp only
  repeat' (first
    | with_reducible assumption
    | with_reducible exact Kept.refl _
    | with_reducible apply State.modLanes_kept
    | with_reducible apply State.note_kept
    | with_reducible apply Kept.ite)
theorem State.voteClears_kept {a : State} (s : State) (v : Voted) (h0 : Kept a s) : Kept a (State.voteClears s v) := by
  refine h0.trans ?_
  unfold State.voteClears
  extract_lets gs bs chans outs s1 s2
  have k_s1 : Kept s s1 := by
    unfold s1
    try dsimp only
    repeat' (first
      | with_reducible assumption
      | with_reducible apply LaneState.restart_ok
      | with_reducible exact Kept.refl _
      | with_reducible apply State.modLanes_kept
      | with_reducible apply State.modBank_kept
      | with_reducible apply State.withdrawFault_kept
      | with_reducible apply Kept.each
      | with_reducible apply Kept.ite
      | split
      | intro _
      | with_reducible assumption
      | with_reducible refine LaneOk.mk_same ?_)
  try clear_value s1
  have k_s2 : Kept s s2 := by
    unfold s2
    try dsimp only
    repeat' (first
      | with_reducible assumption
      | with_reducible apply LaneState.restart_ok
      | with_reducible exact Kept.refl _
      | with_reducible apply State.modLanes_kept
      | with_reducible apply State.modBank_kept
      | with_reducible apply State.withdrawFault_kept
      | with_reducible apply Kept.each
      | with_reducible apply Kept.ite
      | split
      | intro _)
  try clear_value s2
  try dsimp only
  repeat' (first
    | with_reducible assumption
    | with_reducible apply LaneState.restart_ok
    | with_reducible exact Kept.refl _
    | with_reducible apply State.modLanes_kept
    | with_reducible apply State.modBank_kept
    | with_reducible apply State.withdrawFault_kept
    | with_reducible apply Kept.each
    | with_reducible apply Kept.ite
    | split
    | intro _
    | with_reducible assumption
    | with_reducible refine LaneOk.mk_same ?_
    | with_reducible refine HubOk.mk_same ?_
    | with_reducible refine FrontEnd.gatesOk_same ?_
    | with_reducible refine BankState.gatesOk_same ?_)
theorem State.setLevel_kept {a : State} (s : State) (g : GroupId) (k : Fin 4) (h0 : Kept a s) : Kept a (State.setLevel s g k) := by
  refine h0.trans ?_
  unfold State.setLevel
  extract_lets G votes held s1 lowering s2
  have k_s1 : Kept s s1 := by
    unfold s1
    try dsimp only
    repeat' (first
      | with_reducible assumption
      | with_reducible exact Kept.refl _
      | with_reducible apply State.modGroup_kept
      | with_reducible apply State.feWrite_kept
      | with_reducible apply State.bringHomeAll_kept
      | with_reducible apply Kept.ite
      | split
      | with_reducible refine Kept.mk_same ?_
      | dsimp only)
  try clear_value s1
  have k_s2 : Kept s s2 := by
    unfold s2
    try dsimp only
    repeat' (first
      | with_reducible assumption
      | with_reducible exact Kept.refl _
      | with_reducible apply State.modGroup_kept
      | with_reducible apply State.feWrite_kept
      | with_reducible apply State.bringHomeAll_kept
      | with_reducible apply Kept.ite
      | split
      | with_reducible refine Kept.mk_same ?_
      | dsimp only)
  try clear_value s2
  try dsimp only
  repeat' (first
    | with_reducible assumption
    | with_reducible exact Kept.refl _
    | with_reducible apply State.modGroup_kept
    | with_reducible apply State.feWrite_kept
    | with_reducible apply State.bringHomeAll_kept
    | with_reducible apply Kept.ite
    | split
    | with_reducible refine Kept.mk_same ?_
    | dsimp only)
theorem State.decideMode_kept {a : State} (s : State) (m : Mode) (cause : Nat) (h0 : Kept a s) : Kept a (State.decideMode s m cause) := by
  refine h0.trans ?_
  unfold State.decideMode
  try dsimp only
  repeat' (first
    | with_reducible exact Kept.refl _
    | with_reducible refine Kept.mk_same ?_)
theorem State.clearSafe_kept {a : State} (s : State) (h0 : Kept a s) : Kept a (State.clearSafe s) := by
  refine h0.trans ?_
  unfold State.clearSafe
  try dsimp only
  repeat' (first
    | with_reducible exact Kept.refl _
    | with_reducible apply State.modLanes_kept
    | with_reducible apply State.withdrawFault_kept
    | intro _
    | with_reducible assumption
    | with_reducible refine LaneOk.mk_same ?_)
theorem State.voteModes_kept {a : State} (s : State) (v : Voted) (h0 : Kept a s) : Kept a (State.voteModes s v) := by
  refine h0.trans ?_
  unfold State.voteModes
  try dsimp only
  repeat' (first
    | with_reducible exact Kept.refl _
    | with_reducible apply State.setSafe_kept
    | with_reducible apply State.decideMode_kept
    | with_reducible apply State.clearSafe_kept
    | with_reducible apply Kept.ite)
theorem State.dormantModes_kept {a : State} (s : State) (levels : Vector (Fin 4) 12) (h0 : Kept a s) : Kept a (State.dormantModes s levels) := by
  refine h0.trans ?_
  unfold State.dormantModes
  try dsimp only
  repeat' (first
    | with_reducible exact Kept.refl _
    | with_reducible apply State.decideMode_kept
    | with_reducible apply Kept.ite)
theorem State.judgeReqs_kept {a : State} (s : State) (v : Voted) (z : List ModeReq) (h0 : Kept a s) : Kept a (State.judgeReqs s v z) := by
  induction z generalizing s v with
  | nil =>
    unfold State.judgeReqs
    try dsimp only
    repeat' (first
      | with_reducible exact h0
      | with_reducible apply ih
      | with_reducible apply State.answer_kept
      | with_reducible apply State.logReq_kept
      | with_reducible apply State.decideMode_kept
      | with_reducible apply Kept.ite
      | split
      | with_reducible refine Kept.mk_same ?_)
  | cons x z ih =>
    unfold State.judgeReqs
    try dsimp only
    repeat' (first
      | with_reducible exact h0
      | with_reducible apply ih
      | with_reducible apply State.answer_kept
      | with_reducible apply State.logReq_kept
      | with_reducible apply State.decideMode_kept
      | with_reducible apply Kept.ite
      | split
      | with_reducible refine Kept.mk_same ?_)
theorem State.dueClears_kept {a : State} (s : State) (h0 : Kept a s) : Kept a (State.dueClears s) := by
  refine h0.trans ?_
  unfold State.dueClears
  extract_lets due src s1
  have k_s1 : Kept s s1 := by
    unfold s1
    try dsimp only
    repeat' (first
      | with_reducible assumption
      | with_reducible exact Kept.refl _
      | with_reducible apply State.proveClear_kept
      | with_reducible apply State.latchClear_kept
      | with_reducible apply Kept.each
      | with_reducible apply Kept.ite
      | split
      | intro _
      | with_reducible refine Kept.mk_same ?_)
  try clear_value s1
  try dsimp only
  repeat' (first
    | with_reducible assumption
    | with_reducible exact Kept.refl _
    | with_reducible apply State.proveClear_kept
    | with_reducible apply State.latchClear_kept
    | with_reducible apply Kept.each
    | with_reducible apply Kept.ite
    | split
    | intro _)
theorem State.takeVote_kept {a : State} (s : State) (v : Voted) (h0 : Kept a s) : Kept a (State.takeVote s v) := by
  refine h0.trans ?_
  unfold State.takeVote
  try dsimp only
  repeat' (first
    | with_reducible exact Kept.refl _
    | with_reducible apply State.modLanes_kept
    | with_reducible apply Kept.ite
    | split
    | intro _
    | with_reducible assumption
    | with_reducible refine LaneOk.mk_same ?_)
theorem State.seeDay_kept {a : State} (s : State) (h0 : Kept a s) : Kept a (State.seeDay s) := by
  refine h0.trans ?_
  unfold State.seeDay
  try dsimp only
  repeat' (first
    | with_reducible exact Kept.refl _
    | with_reducible apply Kept.ite
    | split
    | with_reducible refine Kept.mk_same ?_)
theorem State.vote_kept {a : State} (s : State) (h0 : Kept a s) : Kept a (State.vote s) := by
  refine h0.trans ?_
  unfold State.vote
  extract_lets vs v s1 s2 s3 s4 levels s5 s6 s7 src
  have k_s1 : Kept s s1 := by
    unfold s1
    try dsimp only
    repeat' (first
      | with_reducible assumption
      | with_reducible exact Kept.refl _
      | with_reducible apply State.modLanes_kept
      | with_reducible apply State.modHubs_kept
      | with_reducible apply State.fault_kept
      | with_reducible apply State.freeRings_kept
      | with_reducible apply State.copVote_kept
      | with_reducible apply State.noteMaster_kept
      | with_reducible apply State.voteClears_kept
      | with_reducible apply State.setLevel_kept
      | with_reducible apply State.voteModes_kept
      | with_reducible apply State.dormantModes_kept
      | with_reducible apply State.judgeReqs_kept
      | with_reducible apply State.dueClears_kept
      | with_reducible apply State.takeVote_kept
      | with_reducible apply State.seeDay_kept
      | with_reducible apply Kept.each
      | with_reducible apply Kept.ite
      | split
      | intro _
      | with_reducible assumption
      | with_reducible refine LaneOk.mk_same ?_
      | with_reducible refine HubOk.mk_same ?_
      | with_reducible refine FrontEnd.gatesOk_same ?_
      | with_reducible refine BankState.gatesOk_same ?_
      | with_reducible refine Kept.mk_same ?_)
  try clear_value s1
  have k_s2 : Kept s s2 := by
    unfold s2
    try dsimp only
    repeat' (first
      | with_reducible assumption
      | with_reducible exact Kept.refl _
      | with_reducible apply State.modLanes_kept
      | with_reducible apply State.modHubs_kept
      | with_reducible apply State.fault_kept
      | with_reducible apply State.freeRings_kept
      | with_reducible apply State.copVote_kept
      | with_reducible apply State.noteMaster_kept
      | with_reducible apply State.voteClears_kept
      | with_reducible apply State.setLevel_kept
      | with_reducible apply State.voteModes_kept
      | with_reducible apply State.dormantModes_kept
      | with_reducible apply State.judgeReqs_kept
      | with_reducible apply State.dueClears_kept
      | with_reducible apply State.takeVote_kept
      | with_reducible apply State.seeDay_kept
      | with_reducible apply Kept.each
      | with_reducible apply Kept.ite
      | split
      | intro _
      | with_reducible assumption
      | with_reducible refine LaneOk.mk_same ?_
      | with_reducible refine HubOk.mk_same ?_
      | with_reducible refine FrontEnd.gatesOk_same ?_
      | with_reducible refine BankState.gatesOk_same ?_
      | with_reducible refine Kept.mk_same ?_)
  try clear_value s2
  have k_s3 : Kept s s3 := by
    unfold s3
    try dsimp only
    repeat' (first
      | with_reducible assumption
      | with_reducible exact Kept.refl _
      | with_reducible apply State.modLanes_kept
      | with_reducible apply State.modHubs_kept
      | with_reducible apply State.fault_kept
      | with_reducible apply State.freeRings_kept
      | with_reducible apply State.copVote_kept
      | with_reducible apply State.noteMaster_kept
      | with_reducible apply State.voteClears_kept
      | with_reducible apply State.setLevel_kept
      | with_reducible apply State.voteModes_kept
      | with_reducible apply State.dormantModes_kept
      | with_reducible apply State.judgeReqs_kept
      | with_reducible apply State.dueClears_kept
      | with_reducible apply State.takeVote_kept
      | with_reducible apply State.seeDay_kept
      | with_reducible apply Kept.each
      | with_reducible apply Kept.ite
      | split
      | intro _
      | with_reducible assumption
      | with_reducible refine LaneOk.mk_same ?_
      | with_reducible refine HubOk.mk_same ?_
      | with_reducible refine FrontEnd.gatesOk_same ?_
      | with_reducible refine BankState.gatesOk_same ?_
      | with_reducible refine Kept.mk_same ?_)
  try clear_value s3
  have k_s4 : Kept s s4 := by
    unfold s4
    try dsimp only
    repeat' (first
      | with_reducible assumption
      | with_reducible exact Kept.refl _
      | with_reducible apply State.modLanes_kept
      | with_reducible apply State.modHubs_kept
      | with_reducible apply State.fault_kept
      | with_reducible apply State.freeRings_kept
      | with_reducible apply State.copVote_kept
      | with_reducible apply State.noteMaster_kept
      | with_reducible apply State.voteClears_kept
      | with_reducible apply State.setLevel_kept
      | with_reducible apply State.voteModes_kept
      | with_reducible apply State.dormantModes_kept
      | with_reducible apply State.judgeReqs_kept
      | with_reducible apply State.dueClears_kept
      | with_reducible apply State.takeVote_kept
      | with_reducible apply State.seeDay_kept
      | with_reducible apply Kept.each
      | with_reducible apply Kept.ite
      | split
      | intro _
      | with_reducible assumption
      | with_reducible refine LaneOk.mk_same ?_
      | with_reducible refine HubOk.mk_same ?_
      | with_reducible refine FrontEnd.gatesOk_same ?_
      | with_reducible refine BankState.gatesOk_same ?_
      | with_reducible refine Kept.mk_same ?_)
  try clear_value s4
  have k_s5 : Kept s s5 := by
    unfold s5
    try dsimp only
    repeat' (first
      | with_reducible assumption
      | with_reducible exact Kept.refl _
      | with_reducible apply State.modLanes_kept
      | with_reducible apply State.modHubs_kept
      | with_reducible apply State.fault_kept
      | with_reducible apply State.freeRings_kept
      | with_reducible apply State.copVote_kept
      | with_reducible apply State.noteMaster_kept
      | with_reducible apply State.voteClears_kept
      | with_reducible apply State.setLevel_kept
      | with_reducible apply State.voteModes_kept
      | with_reducible apply State.dormantModes_kept
      | with_reducible apply State.judgeReqs_kept
      | with_reducible apply State.dueClears_kept
      | with_reducible apply State.takeVote_kept
      | with_reducible apply State.seeDay_kept
      | with_reducible apply Kept.each
      | with_reducible apply Kept.ite
      | split
      | intro _
      | with_reducible assumption
      | with_reducible refine LaneOk.mk_same ?_
      | with_reducible refine HubOk.mk_same ?_
      | with_reducible refine FrontEnd.gatesOk_same ?_
      | with_reducible refine BankState.gatesOk_same ?_
      | with_reducible refine Kept.mk_same ?_)
  try clear_value s5
  have k_s6 : Kept s s6 := by
    unfold s6
    try dsimp only
    repeat' (first
      | with_reducible assumption
      | with_reducible exact Kept.refl _
      | with_reducible apply State.modLanes_kept
      | with_reducible apply State.modHubs_kept
      | with_reducible apply State.fault_kept
      | with_reducible apply State.freeRings_kept
      | with_reducible apply State.copVote_kept
      | with_reducible apply State.noteMaster_kept
      | with_reducible apply State.voteClears_kept
      | with_reducible apply State.setLevel_kept
      | with_reducible apply State.voteModes_kept
      | with_reducible apply State.dormantModes_kept
      | with_reducible apply State.judgeReqs_kept
      | with_reducible apply State.dueClears_kept
      | with_reducible apply State.takeVote_kept
      | with_reducible apply State.seeDay_kept
      | with_reducible apply Kept.each
      | with_reducible apply Kept.ite
      | split
      | intro _
      | with_reducible assumption
      | with_reducible refine LaneOk.mk_same ?_
      | with_reducible refine HubOk.mk_same ?_
      | with_reducible refine FrontEnd.gatesOk_same ?_
      | with_reducible refine BankState.gatesOk_same ?_
      | with_reducible refine Kept.mk_same ?_)
  try clear_value s6
  have k_s7 : Kept s s7 := by
    unfold s7
    try dsimp only
    repeat' (first
      | with_reducible assumption
      | with_reducible exact Kept.refl _
      | with_reducible apply State.modLanes_kept
      | with_reducible apply State.modHubs_kept
      | with_reducible apply State.fault_kept
      | with_reducible apply State.freeRings_kept
      | with_reducible apply State.copVote_kept
      | with_reducible apply State.noteMaster_kept
      | with_reducible apply State.voteClears_kept
      | with_reducible apply State.setLevel_kept
      | with_reducible apply State.voteModes_kept
      | with_reducible apply State.dormantModes_kept
      | with_reducible apply State.judgeReqs_kept
      | with_reducible apply State.dueClears_kept
      | with_reducible apply State.takeVote_kept
      | with_reducible apply State.seeDay_kept
      | with_reducible apply Kept.each
      | with_reducible apply Kept.ite
      | split
      | intro _
      | with_reducible assumption
      | with_reducible refine LaneOk.mk_same ?_
      | with_reducible refine HubOk.mk_same ?_
      | with_reducible refine FrontEnd.gatesOk_same ?_
      | with_reducible refine BankState.gatesOk_same ?_
      | with_reducible refine Kept.mk_same ?_)
  try clear_value s7
  try dsimp only
  repeat' (first
    | with_reducible assumption
    | with_reducible exact Kept.refl _
    | with_reducible apply State.modLanes_kept
    | with_reducible apply State.modHubs_kept
    | with_reducible apply State.fault_kept
    | with_reducible apply State.freeRings_kept
    | with_reducible apply State.copVote_kept
    | with_reducible apply State.noteMaster_kept
    | with_reducible apply State.voteClears_kept
    | with_reducible apply State.setLevel_kept
    | with_reducible apply State.voteModes_kept
    | with_reducible apply State.dormantModes_kept
    | with_reducible apply State.judgeReqs_kept
    | with_reducible apply State.dueClears_kept
    | with_reducible apply State.takeVote_kept
    | with_reducible apply State.seeDay_kept
    | with_reducible apply Kept.each
    | with_reducible apply Kept.ite
    | split
    | intro _
    | with_reducible assumption
    | with_reducible refine LaneOk.mk_same ?_
    | with_reducible refine HubOk.mk_same ?_
    | with_reducible refine FrontEnd.gatesOk_same ?_
    | with_reducible refine BankState.gatesOk_same ?_
    | with_reducible refine Kept.mk_same ?_)
theorem execVoteInstant_kept (s : State) : ∃ s1, execVoteInstant s = .next s1 ∧ Kept s s1 := by
  refine ⟨_, rfl, ?_⟩
  try dsimp only
  repeat' (first
    | with_reducible exact Kept.refl _
    | with_reducible apply State.vote_kept
    | with_reducible apply Kept.ite)

end Sys2Proof.Machine
end

