-- ==== Sys2Proof/Laws/KeptStream.lean ====
section
/-!
SUPPORT. What the operations and commands of Machine/Stream.lean keep.
-/

namespace Sys2Proof.Machine

theorem State.freezeLimits_kept {a : State} (s : State) (h0 : Kept a s) : Kept a (State.freezeLimits s) := by
  refine h0.trans ?_
  unfold State.freezeLimits
  try dsimp only
  repeat' (first
    | with_reducible exact Kept.refl _
    | with_reducible apply State.modRing_kept
    | with_reducible apply State.free_kept
    | with_reducible apply Kept.each
    | intro _)
theorem State.storeSegment_kept {a : State} (s : State) (h : HubId) (x : Segment) (h0 : Kept a s) : Kept a (State.storeSegment s h x) := by
  refine h0.trans ?_
  unfold State.storeSegment
  extract_lets r had all n s1
  have k_s1 : Kept s s1 := by
    unfold s1
    try dsimp only
    repeat' (first
      | with_reducible assumption
      | with_reducible exact Kept.refl _
      | with_reducible apply State.modHubs_kept
      | with_reducible apply State.modRing_kept
      | with_reducible apply State.putMsg_kept
      | with_reducible apply State.storeTxn_kept
      | with_reducible apply State.segDrop_kept
      | with_reducible apply Kept.ite
      | split
      | intro _
      | with_reducible assumption
      | with_reducible refine LaneOk.mk_same ?_
      | with_reducible refine HubOk.mk_same ?_
      | with_reducible refine FrontEnd.gatesOk_same ?_
      | with_reducible refine BankState.gatesOk_same ?_
      | with_reducible refine HubOk.mk_put ?_)
  try clear_value s1
  try dsimp only
  repeat' (first
    | with_reducible assumption
    | with_reducible exact Kept.refl _
    | with_reducible apply State.modHubs_kept
    | with_reducible apply State.modRing_kept
    | with_reducible apply State.putMsg_kept
    | with_reducible apply State.storeTxn_kept
    | with_reducible apply State.segDrop_kept
    | with_reducible apply Kept.ite)
theorem State.takeInSequence_kept {a : State} (s : State) (h : HubId) (x : Segment) (h0 : Kept a s) : Kept a (State.takeInSequence s h x) := by
  refine h0.trans ?_
  unfold State.takeInSequence
  try dsimp only
  repeat' (first
    | with_reducible exact Kept.refl _
    | with_reducible apply State.segDrop_kept
    | with_reducible apply State.dropOpen_kept
    | with_reducible apply State.storeSegment_kept
    | with_reducible apply Kept.ite)
theorem State.takeOutOfSequence_kept {a : State} (s : State) (h : HubId) (x : Segment) (h0 : Kept a s) : Kept a (State.takeOutOfSequence s h x) := by
  refine h0.trans ?_
  unfold State.takeOutOfSequence
  extract_lets s1 s2
  have k_s1 : Kept s s1 := by
    unfold s1
    try dsimp only
    repeat' (first
      | with_reducible assumption
      | with_reducible exact Kept.refl _
      | with_reducible apply State.modHub_kept
      | with_reducible apply State.modRing_kept
      | with_reducible apply State.note_kept
      | with_reducible apply State.storeSegment_kept
      | with_reducible apply Kept.each
      | with_reducible apply Kept.ite
      | split
      | intro _
      | with_reducible assumption
      | with_reducible refine LaneOk.mk_same ?_
      | with_reducible refine HubOk.mk_same ?_)
  try clear_value s1
  have k_s2 : Kept s s2 := by
    unfold s2
    try dsimp only
    repeat' (first
      | with_reducible assumption
      | with_reducible exact Kept.refl _
      | with_reducible apply State.modHub_kept
      | with_reducible apply State.modRing_kept
      | with_reducible apply State.note_kept)
  try clear_value s2
  try dsimp only
  repeat' (first
    | with_reducible assumption
    | with_reducible exact Kept.refl _
    | with_reducible apply State.modHub_kept
    | with_reducible apply State.modRing_kept
    | with_reducible apply State.note_kept
    | with_reducible apply State.storeSegment_kept
    | with_reducible apply Kept.each
    | with_reducible apply Kept.ite)
theorem State.takeSegment_kept {a : State} (s : State) (h : HubId) (cycle : Word) (x : Segment) (h0 : Kept a s) : Kept a (State.takeSegment s h cycle x) := by
  refine h0.trans ?_
  unfold State.takeSegment
  extract_lets i want src s1 s2
  have k_s1 : Kept s s1 := by
    unfold s1
    try dsimp only
    repeat' (first
      | with_reducible assumption
      | with_reducible exact Kept.refl _
      | with_reducible apply State.modRing_kept
      | with_reducible apply State.takeInSequence_kept
      | with_reducible apply State.takeOutOfSequence_kept
      | with_reducible apply Kept.ite
      | split
      | with_reducible refine Kept.mk_same ?_)
  try clear_value s1
  have k_s2 : Kept s s2 := by
    unfold s2
    try dsimp only
    repeat' (first
      | with_reducible assumption
      | with_reducible exact Kept.refl _
      | with_reducible apply State.modRing_kept)
  try clear_value s2
  try dsimp only
  repeat' (first
    | with_reducible assumption
    | with_reducible exact Kept.refl _
    | with_reducible apply State.modRing_kept
    | with_reducible apply State.takeInSequence_kept
    | with_reducible apply State.takeOutOfSequence_kept
    | with_reducible apply Kept.ite)
theorem State.segSent_kept {a : State} (s : State) (x : OutSeg) (h0 : Kept a s) : Kept a (State.segSent s x) := by
  refine h0.trans ?_
  unfold State.segSent
  extract_lets m m1 src s1 s2
  have k_s1 : Kept s s1 := by
    unfold s1
    try dsimp only
    repeat' (first
      | with_reducible assumption
      | with_reducible exact Kept.refl _
      | with_reducible apply State.modRing_kept
      | with_reducible apply State.endTxn_kept
      | with_reducible apply Kept.ite
      | split
      | with_reducible refine Kept.mk_same ?_)
  try clear_value s1
  have k_s2 : Kept s s2 := by
    unfold s2
    try dsimp only
    repeat' (first
      | with_reducible assumption
      | with_reducible exact Kept.refl _
      | with_reducible apply State.modRing_kept)
  try clear_value s2
  try dsimp only
  repeat' (first
    | with_reducible assumption
    | with_reducible exact Kept.refl _
    | with_reducible apply State.modRing_kept
    | with_reducible apply State.endTxn_kept
    | with_reducible apply Kept.ite
    | split)
theorem State.restartStreams_kept {a : State} (s : State) (h0 : Kept a s) : Kept a (State.restartStreams s) := by
  refine h0.trans ?_
  unfold State.restartStreams
  extract_lets s1 s2 s3 cut s4 src
  have k_s1 : Kept s s1 := by
    unfold s1
    try dsimp only
    repeat' (first
      | with_reducible assumption
      | with_reducible exact Kept.refl _
      | with_reducible apply State.modRing_kept
      | with_reducible apply Kept.each
      | intro _)
  try clear_value s1
  have k_s2 : Kept s s2 := by
    unfold s2
    try dsimp only
    repeat' (first
      | with_reducible assumption
      | with_reducible exact Kept.refl _
      | with_reducible apply State.modRing_kept
      | with_reducible apply Kept.each
      | intro _)
  try clear_value s2
  have k_s3 : Kept s s3 := by
    unfold s3
    try dsimp only
    repeat' (first
      | with_reducible assumption
      | with_reducible exact Kept.refl _
      | with_reducible apply State.modRing_kept
      | with_reducible apply Kept.each
      | intro _)
  try clear_value s3
  have k_s4 : Kept s s4 := by
    unfold s4
    try dsimp only
    repeat' (first
      | with_reducible assumption
      | with_reducible exact Kept.refl _
      | with_reducible apply State.modRing_kept
      | with_reducible apply Kept.each
      | intro _)
  try clear_value s4
  try dsimp only
  repeat' (first
    | with_reducible assumption
    | with_reducible exact Kept.refl _
    | with_reducible apply State.modRing_kept
    | with_reducible apply Kept.each
    | intro _
    | with_reducible refine Kept.mk_same ?_)
theorem State.abortBus_kept {a : State} (s : State) (h0 : Kept a s) : Kept a (State.abortBus s) := by
  refine h0.trans ?_
  unfold State.abortBus
  extract_lets gone mine src s1
  have k_s1 : Kept s s1 := by
    unfold s1
    try dsimp only
    repeat' (first
      | with_reducible assumption
      | with_reducible exact Kept.refl _
      | with_reducible apply State.prune_kept
      | with_reducible apply State.abort_kept
      | with_reducible apply Kept.each
      | intro _
      | with_reducible refine Kept.mk_same ?_)
  try clear_value s1
  try dsimp only
  repeat' (first
    | with_reducible assumption
    | with_reducible exact Kept.refl _
    | with_reducible apply State.prune_kept
    | with_reducible apply State.abort_kept
    | with_reducible apply Kept.each
    | intro _
    | with_reducible refine Kept.mk_same ?_)
theorem State.integrate_kept {a : State} (s : State) (set : Nat) (starts : List CycleStart) (h0 : Kept a s) : Kept a (State.integrate s set starts) := by
  refine h0.trans ?_
  unfold State.integrate
  extract_lets b s1 s2
  have k_s1 : Kept s s1 := by
    unfold s1
    try dsimp only
    repeat' (first
      | with_reducible assumption
      | with_reducible exact Kept.refl _
      | with_reducible apply State.note_kept
      | with_reducible apply State.restartStreams_kept
      | with_reducible apply State.abortBus_kept
      | with_reducible apply Kept.ite
      | split
      | with_reducible refine Kept.mk_same ?_)
  try clear_value s1
  have k_s2 : Kept s s2 := by
    unfold s2
    try dsimp only
    repeat' (first
      | with_reducible assumption
      | with_reducible exact Kept.refl _
      | with_reducible apply State.note_kept
      | with_reducible apply State.restartStreams_kept
      | with_reducible apply State.abortBus_kept
      | with_reducible apply Kept.ite)
  try clear_value s2
  try dsimp only
  repeat' (first
    | with_reducible assumption
    | with_reducible exact Kept.refl _
    | with_reducible apply State.note_kept
    | with_reducible apply State.restartStreams_kept
    | with_reducible apply State.abortBus_kept
    | with_reducible apply Kept.ite)

end Sys2Proof.Machine
end

