-- ==== Sys2Proof/Laws/KeptCycle.lean ====
section
/-!
SUPPORT. What the operations and commands of Machine/Cycle.lean keep.
-/

namespace Sys2Proof.Machine

theorem HubState.newCycle_ok (H : HubState) (h : HubOk H) : HubOk (HubState.newCycle H) := by
  unfold HubState.newCycle
  try dsimp only
  repeat' (first | with_reducible exact h | split | with_reducible refine HubOk.mk_same ?_)
theorem State.hubNewCycle_kept {a : State} (s : State) (h : HubId) (h0 : Kept a s) : Kept a (State.hubNewCycle s h) := by
  refine h0.trans ?_
  unfold State.hubNewCycle
  extract_lets t ng s1
  have k_s1 : Kept s s1 := by
    unfold s1
    try dsimp only
    repeat' (first
      | with_reducible assumption
      | with_reducible apply HubState.newCycle_ok
      | with_reducible exact Kept.refl _
      | with_reducible apply State.modHub_kept
      | with_reducible apply State.note_kept
      | with_reducible apply Kept.ite
      | split
      | intro _
      | with_reducible assumption
      | with_reducible refine LaneOk.mk_same ?_
      | with_reducible refine HubOk.mk_same ?_)
  try clear_value s1
  try dsimp only
  repeat' (first
    | with_reducible assumption
    | with_reducible apply HubState.newCycle_ok
    | with_reducible exact Kept.refl _
    | with_reducible apply State.modHub_kept
    | with_reducible apply State.note_kept
    | with_reducible apply Kept.ite)
theorem HubState.advance_ok (H : HubState) (cyc : Nat) (h : HubOk H) : HubOk (HubState.advance H cyc) := by
  unfold HubState.advance
  try dsimp only
  repeat' (first | with_reducible exact h | split | with_reducible refine HubOk.mk_same ?_)
theorem State.countCycle_kept {a : State} (s : State) (h : HubId) (h0 : Kept a s) : Kept a (State.countCycle s h) := by
  refine h0.trans ?_
  unfold State.countCycle
  extract_lets b run s1
  have k_s1 : Kept s s1 := by
    unfold s1
    try dsimp only
    repeat' (first
      | with_reducible assumption
      | with_reducible exact Kept.refl _
      | with_reducible apply State.modHub_kept
      | with_reducible apply State.withdrawFault_kept
      | with_reducible apply Kept.ite
      | split
      | intro _
      | with_reducible assumption
      | with_reducible refine LaneOk.mk_same ?_
      | with_reducible refine HubOk.mk_same ?_)
  try clear_value s1
  try dsimp only
  repeat' (first
    | with_reducible assumption
    | with_reducible exact Kept.refl _
    | with_reducible apply State.modHub_kept
    | with_reducible apply State.withdrawFault_kept
    | with_reducible apply Kept.ite)
theorem State.hubStart_kept {a : State} (s : State) (h : HubId) (h0 : Kept a s) : Kept a (State.hubStart s h) := by
  refine h0.trans ?_
  unfold State.hubStart
  extract_lets s1
  have k_s1 : Kept s s1 := by
    unfold s1
    try dsimp only
    repeat' (first
      | with_reducible assumption
      | with_reducible apply HubState.advance_ok
      | with_reducible exact Kept.refl _
      | with_reducible apply State.modHub_kept
      | with_reducible apply State.hubNewCycle_kept
      | with_reducible apply State.countCycle_kept
      | with_reducible apply Kept.ite
      | split
      | intro _
      | with_reducible assumption
      | with_reducible refine LaneOk.mk_same ?_
      | with_reducible refine HubOk.mk_same ?_
      | with_reducible refine FrontEnd.gatesOk_same ?_
      | with_reducible refine BankState.gatesOk_same ?_)
  try clear_value s1
  try dsimp only
  repeat' (first
    | with_reducible assumption
    | with_reducible apply HubState.advance_ok
    | with_reducible exact Kept.refl _
    | with_reducible apply State.modHub_kept
    | with_reducible apply State.hubNewCycle_kept
    | with_reducible apply State.countCycle_kept
    | with_reducible apply Kept.ite
    | split
    | intro _
    | with_reducible assumption
    | with_reducible refine LaneOk.mk_same ?_
    | with_reducible refine HubOk.mk_same ?_
    | with_reducible refine FrontEnd.gatesOk_same ?_
    | with_reducible refine BankState.gatesOk_same ?_)
theorem State.hubAtAction_kept {a : State} (s : State) (h : HubId) (h0 : Kept a s) : Kept a (State.hubAtAction s h) := by
  refine h0.trans ?_
  unfold State.hubAtAction
  try dsimp only
  repeat' (first
    | with_reducible exact Kept.refl _
    | with_reducible apply State.modHub_kept
    | with_reducible apply State.hubNewCycle_kept
    | with_reducible apply State.countCycle_kept
    | with_reducible apply State.hubStart_kept
    | with_reducible apply Kept.ite
    | split
    | intro _
    | with_reducible assumption
    | with_reducible refine LaneOk.mk_same ?_
    | with_reducible refine HubOk.mk_same ?_
    | with_reducible refine FrontEnd.gatesOk_same ?_
    | with_reducible refine BankState.gatesOk_same ?_
    | with_reducible refine Kept.mk_same ?_)
theorem State.observeSpares_kept {a : State} (s : State) (h0 : Kept a s) : Kept a (State.observeSpares s) := by
  refine h0.trans ?_
  unfold State.observeSpares
  try dsimp only
  repeat' (first
    | with_reducible exact Kept.refl _
    | with_reducible apply Kept.ite
    | split
    | with_reducible refine Kept.mk_same ?_)
theorem State.endColdStart_kept {a : State} (s : State) (h0 : Kept a s) : Kept a (State.endColdStart s) := by
  refine h0.trans ?_
  unfold State.endColdStart
  extract_lets s1 src
  have k_s1 : Kept s s1 := by
    unfold s1
    try dsimp only
    repeat' (first
      | with_reducible assumption
      | with_reducible exact Kept.refl _
      | with_reducible apply State.modHubs_kept
      | with_reducible apply State.integrate_kept
      | with_reducible apply Kept.ite
      | split
      | intro _
      | with_reducible assumption
      | with_reducible refine LaneOk.mk_same ?_
      | with_reducible refine HubOk.mk_same ?_)
  try clear_value s1
  try dsimp only
  repeat' (first
    | with_reducible assumption
    | with_reducible exact Kept.refl _
    | with_reducible apply State.modHubs_kept
    | with_reducible apply State.integrate_kept
    | with_reducible apply Kept.ite
    | split
    | intro _
    | with_reducible assumption
    | with_reducible refine LaneOk.mk_same ?_
    | with_reducible refine HubOk.mk_same ?_
    | with_reducible refine FrontEnd.gatesOk_same ?_
    | with_reducible refine BankState.gatesOk_same ?_
    | with_reducible refine Kept.mk_same ?_)
theorem State.turnBus_kept {a : State} (s : State) (h0 : Kept a s) : Kept a (State.turnBus s) := by
  refine h0.trans ?_
  unfold State.turnBus
  try dsimp only
  repeat' (first
    | with_reducible exact Kept.refl _
    | with_reducible apply Kept.ite
    | split
    | with_reducible refine Kept.mk_same ?_)
theorem State.startCycle_kept {a : State} (s : State) (h0 : Kept a s) : Kept a (State.startCycle s) := by
  refine h0.trans ?_
  unfold State.startCycle
  extract_lets x s1 s2 src s3
  have k_s1 : Kept s s1 := by
    unfold s1
    try dsimp only
    repeat' (first
      | with_reducible assumption
      | with_reducible exact Kept.refl _
      | with_reducible apply State.modHubs_kept
      | with_reducible apply State.hubAtAction_kept
      | with_reducible apply State.observeSpares_kept
      | with_reducible apply State.endColdStart_kept
      | with_reducible apply State.turnBus_kept
      | with_reducible apply Kept.each
      | with_reducible apply Kept.ite
      | split
      | intro _
      | with_reducible assumption
      | with_reducible refine LaneOk.mk_same ?_
      | with_reducible refine HubOk.mk_same ?_
      | with_reducible refine FrontEnd.gatesOk_same ?_
      | with_reducible refine BankState.gatesOk_same ?_
      | with_reducible refine Kept.mk_same ?_
      | dsimp only)
  try clear_value s1
  have k_s2 : Kept s s2 := by
    unfold s2
    try dsimp only
    repeat' (first
      | with_reducible assumption
      | with_reducible exact Kept.refl _
      | with_reducible apply State.modHubs_kept
      | with_reducible apply State.hubAtAction_kept
      | with_reducible apply State.observeSpares_kept
      | with_reducible apply State.endColdStart_kept
      | with_reducible apply State.turnBus_kept
      | with_reducible apply Kept.each
      | with_reducible apply Kept.ite
      | split
      | intro _
      | with_reducible assumption
      | with_reducible refine LaneOk.mk_same ?_
      | with_reducible refine HubOk.mk_same ?_
      | with_reducible refine FrontEnd.gatesOk_same ?_
      | with_reducible refine BankState.gatesOk_same ?_
      | with_reducible refine Kept.mk_same ?_
      | dsimp only)
  try clear_value s2
  have k_s3 : Kept s s3 := by
    unfold s3
    try dsimp only
    repeat' (first
      | with_reducible assumption
      | with_reducible exact Kept.refl _
      | with_reducible apply State.modHubs_kept
      | with_reducible apply State.hubAtAction_kept
      | with_reducible apply State.observeSpares_kept
      | with_reducible apply State.endColdStart_kept
      | with_reducible apply State.turnBus_kept
      | with_reducible apply Kept.each
      | with_reducible apply Kept.ite
      | split
      | intro _
      | with_reducible assumption
      | with_reducible refine LaneOk.mk_same ?_
      | with_reducible refine HubOk.mk_same ?_
      | with_reducible refine FrontEnd.gatesOk_same ?_
      | with_reducible refine BankState.gatesOk_same ?_
      | with_reducible refine Kept.mk_same ?_
      | dsimp only)
  try clear_value s3
  try dsimp only
  repeat' (first
    | with_reducible assumption
    | with_reducible exact Kept.refl _
    | with_reducible apply State.modHubs_kept
    | with_reducible apply State.hubAtAction_kept
    | with_reducible apply State.observeSpares_kept
    | with_reducible apply State.endColdStart_kept
    | with_reducible apply State.turnBus_kept
    | with_reducible apply Kept.each
    | with_reducible apply Kept.ite
    | split
    | intro _
    | with_reducible assumption
    | with_reducible refine LaneOk.mk_same ?_
    | with_reducible refine HubOk.mk_same ?_
    | with_reducible refine FrontEnd.gatesOk_same ?_
    | with_reducible refine BankState.gatesOk_same ?_
    | with_reducible refine Kept.mk_same ?_
    | dsimp only)
theorem State.hubTime_kept {a : State} (s : State) (h : HubId) (h0 : Kept a s) : Kept a (State.hubTime s h) := by
  refine h0.trans ?_
  unfold State.hubTime
  try dsimp only
  repeat' (first
    | with_reducible exact Kept.refl _
    | with_reducible apply State.fault_kept)
theorem State.hubVerdict_kept {a : State} (s : State) (h0 : Kept a s) : Kept a (State.hubVerdict s) := by
  refine h0.trans ?_
  unfold State.hubVerdict
  try dsimp only
  repeat' (first
    | with_reducible exact Kept.refl _
    | with_reducible apply State.fault_kept
    | with_reducible apply State.hubTime_kept
    | with_reducible apply Kept.ite
    | split
    | with_reducible refine Kept.mk_same ?_)
theorem State.hubWithin_kept {a : State} (s : State) (h : HubId) (ok : Bool) (h0 : Kept a s) : Kept a (State.hubWithin s h ok) := by
  refine h0.trans ?_
  unfold State.hubWithin
  extract_lets n s1
  have k_s1 : Kept s s1 := by
    unfold s1
    try dsimp only
    repeat' (first
      | with_reducible assumption
      | with_reducible exact Kept.refl _
      | with_reducible apply State.modHub_kept
      | with_reducible apply State.withdrawFault_kept
      | with_reducible apply State.hubTime_kept
      | with_reducible apply Kept.ite
      | split
      | intro _
      | with_reducible assumption
      | with_reducible refine LaneOk.mk_same ?_
      | with_reducible refine HubOk.mk_same ?_
      | with_reducible refine FrontEnd.gatesOk_same ?_
      | with_reducible refine BankState.gatesOk_same ?_
      | with_reducible refine Kept.mk_same ?_)
  try clear_value s1
  try dsimp only
  repeat' (first
    | with_reducible assumption
    | with_reducible exact Kept.refl _
    | with_reducible apply State.modHub_kept
    | with_reducible apply State.withdrawFault_kept
    | with_reducible apply State.hubTime_kept
    | with_reducible apply Kept.ite
    | split
    | intro _
    | with_reducible assumption
    | with_reducible refine LaneOk.mk_same ?_
    | with_reducible refine HubOk.mk_same ?_
    | with_reducible refine FrontEnd.gatesOk_same ?_
    | with_reducible refine BankState.gatesOk_same ?_
    | with_reducible refine Kept.mk_same ?_)
theorem State.compareHubs_kept {a : State} (s : State) (h0 : Kept a s) : Kept a (State.compareHubs s) := by
  refine h0.trans ?_
  unfold State.compareHubs
  extract_lets X Y sends s1 src m src_1 run s1_1
  have k_s1 : Kept s s1 := by
    unfold s1
    try dsimp only
    repeat' (first
      | with_reducible assumption
      | with_reducible exact Kept.refl _
      | with_reducible apply State.modHubs_kept
      | with_reducible apply State.hubVerdict_kept
      | with_reducible apply State.hubWithin_kept
      | with_reducible apply Kept.each
      | with_reducible apply Kept.ite
      | split
      | intro _
      | with_reducible assumption
      | with_reducible refine LaneOk.mk_same ?_
      | with_reducible refine HubOk.mk_same ?_
      | with_reducible refine FrontEnd.gatesOk_same ?_
      | with_reducible refine BankState.gatesOk_same ?_
      | with_reducible refine Kept.mk_same ?_)
  try clear_value s1
  have k_s1_1 : Kept s s1_1 := by
    unfold s1_1
    try dsimp only
    repeat' (first
      | with_reducible assumption
      | with_reducible exact Kept.refl _
      | with_reducible apply State.modHubs_kept
      | with_reducible apply State.hubVerdict_kept
      | with_reducible apply State.hubWithin_kept
      | with_reducible apply Kept.each
      | with_reducible apply Kept.ite
      | split
      | intro _
      | with_reducible assumption
      | with_reducible refine LaneOk.mk_same ?_
      | with_reducible refine HubOk.mk_same ?_
      | with_reducible refine FrontEnd.gatesOk_same ?_
      | with_reducible refine BankState.gatesOk_same ?_
      | with_reducible refine Kept.mk_same ?_)
  try clear_value s1_1
  try dsimp only
  repeat' (first
    | with_reducible assumption
    | with_reducible exact Kept.refl _
    | with_reducible apply State.modHubs_kept
    | with_reducible apply State.hubVerdict_kept
    | with_reducible apply State.hubWithin_kept
    | with_reducible apply Kept.each
    | with_reducible apply Kept.ite
    | split
    | intro _
    | with_reducible assumption
    | with_reducible refine LaneOk.mk_same ?_
    | with_reducible refine HubOk.mk_same ?_
    | with_reducible refine FrontEnd.gatesOk_same ?_
    | with_reducible refine BankState.gatesOk_same ?_
    | with_reducible refine Kept.mk_same ?_)
theorem LaneState.apply_ok (L : LaneState) (p lp : ParamImage) (cmds : Vector (BitVec 4) 96) (clrBanks : BitVec 4) (ap : Nat) (offPh : ChanMask) (h : LaneOk L) : LaneOk (LaneState.apply L p lp cmds clrBanks ap offPh) := by
  unfold LaneState.apply
  try dsimp only
  repeat' (first | with_reducible exact h | with_reducible apply LaneState.restart_ok | split | with_reducible refine LaneOk.mk_same ?_ | exact (rfl : Memory.wf [] = true))
theorem LaneState.stages_ok (L : LaneState) (p : ParamImage) (was : ChanMask) (absent : GroupMask) (ap : Nat) (h : LaneOk L) : LaneOk (LaneState.stages L p was absent ap) := by
  unfold LaneState.stages
  try dsimp only
  repeat' (first | with_reducible exact h | split | with_reducible refine LaneOk.mk_same ?_ | exact (rfl : Memory.wf [] = true))
theorem State.testAtAction_kept {a : State} (s : State) (c : Chan) (t : Turn) (h0 : Kept a s) : Kept a (State.testAtAction s c t) := by
  refine h0.trans ?_
  unfold State.testAtAction
  try dsimp only
  repeat' (first
    | with_reducible exact Kept.refl _
    | with_reducible apply State.modSched_kept
    | with_reducible apply State.endMajority_kept
    | with_reducible apply State.endOffNow_kept
    | with_reducible apply State.testEnds_kept
    | with_reducible apply Kept.ite
    | split
    | with_reducible refine Kept.mk_same ?_)
theorem State.transAtAction_kept {a : State} (s : State) (c : Chan) (t : Turn) (h0 : Kept a s) : Kept a (State.transAtAction s c t) := by
  refine h0.trans ?_
  unfold State.transAtAction
  extract_lets s1
  have k_s1 : Kept s s1 := by
    unfold s1
    try dsimp only
    repeat' (first
      | with_reducible assumption
      | with_reducible exact Kept.refl _
      | with_reducible apply State.modSched_kept
      | with_reducible apply State.transDone_kept
      | with_reducible apply Kept.ite
      | split
      | with_reducible refine Kept.mk_same ?_)
  try clear_value s1
  try dsimp only
  repeat' (first
    | with_reducible assumption
    | with_reducible exact Kept.refl _
    | with_reducible apply State.modSched_kept
    | with_reducible apply State.transDone_kept
    | with_reducible apply Kept.ite
    | split
    | with_reducible refine Kept.mk_same ?_)
theorem State.wearAtAction_kept {a : State} (s : State) (c : Chan) (t : Turn) (h0 : Kept a s) : Kept a (State.wearAtAction s c t) := by
  refine h0.trans ?_
  unfold State.wearAtAction
  try dsimp only
  repeat' (first
    | with_reducible exact Kept.refl _
    | with_reducible apply State.modLamp_kept
    | with_reducible apply Kept.each
    | with_reducible apply Kept.ite
    | split
    | intro _)
theorem State.chanAtAction_kept {a : State} (s : State) (c : Chan) (t : Turn) (h0 : Kept a s) : Kept a (State.chanAtAction s c t) := by
  refine h0.trans ?_
  unfold State.chanAtAction
  extract_lets p s1 s2 s3
  have k_s1 : Kept s s1 := by
    unfold s1
    try dsimp only
    repeat' (first
      | with_reducible assumption
      | with_reducible exact Kept.refl _
      | with_reducible apply State.note_kept
      | with_reducible apply State.modSched_kept
      | with_reducible apply State.feWrite_kept
      | with_reducible apply State.testAtAction_kept
      | with_reducible apply State.transAtAction_kept
      | with_reducible apply State.wearAtAction_kept
      | with_reducible apply Kept.ite
      | split
      | with_reducible refine Kept.mk_same ?_)
  try clear_value s1
  have k_s2 : Kept s s2 := by
    unfold s2
    try dsimp only
    repeat' (first
      | with_reducible assumption
      | with_reducible exact Kept.refl _
      | with_reducible apply State.note_kept
      | with_reducible apply State.modSched_kept
      | with_reducible apply State.feWrite_kept
      | with_reducible apply State.testAtAction_kept
      | with_reducible apply State.transAtAction_kept
      | with_reducible apply State.wearAtAction_kept
      | with_reducible apply Kept.ite
      | split
      | with_reducible refine Kept.mk_same ?_)
  try clear_value s2
  have k_s3 : Kept s s3 := by
    unfold s3
    try dsimp only
    repeat' (first
      | with_reducible assumption
      | with_reducible exact Kept.refl _
      | with_reducible apply State.note_kept
      | with_reducible apply State.modSched_kept
      | with_reducible apply State.feWrite_kept
      | with_reducible apply State.testAtAction_kept
      | with_reducible apply State.transAtAction_kept
      | with_reducible apply State.wearAtAction_kept
      | with_reducible apply Kept.ite
      | split
      | with_reducible refine Kept.mk_same ?_)
  try clear_value s3
  try dsimp only
  repeat' (first
    | with_reducible assumption
    | with_reducible exact Kept.refl _
    | with_reducible apply State.note_kept
    | with_reducible apply State.modSched_kept
    | with_reducible apply State.feWrite_kept
    | with_reducible apply State.testAtAction_kept
    | with_reducible apply State.transAtAction_kept
    | with_reducible apply State.wearAtAction_kept
    | with_reducible apply Kept.ite
    | split
    | with_reducible refine Kept.mk_same ?_)
theorem State.flashNotProven_kept {a : State} (s : State) (l : LaneId) (h0 : Kept a s) : Kept a (State.flashNotProven s l) := by
  refine h0.trans ?_
  unfold State.flashNotProven
  try dsimp only
  repeat' (first
    | with_reducible exact Kept.refl _
    | with_reducible apply State.modProv_kept
    | with_reducible apply State.failDark_kept
    | with_reducible apply Kept.each
    | intro _)
theorem State.fieldMajAtAction_kept {a : State} (s : State) (on : PointMask) (h0 : Kept a s) : Kept a (State.fieldMajAtAction s on) := by
  refine h0.trans ?_
  unfold State.fieldMajAtAction
  try dsimp only
  repeat' (first
    | with_reducible exact Kept.refl _
    | with_reducible apply State.fieldMajStop_kept
    | with_reducible apply Kept.ite
    | split)
theorem State.fieldAtAction_kept {a : State} (s0 : State) (on : PointMask) (h0 : Kept a s0) : Kept a (State.fieldAtAction s0 on) := by
  refine h0.trans ?_
  unfold State.fieldAtAction
  extract_lets s
  have k_s : Kept s0 s := by
    unfold s
    try dsimp only
    repeat' (first
      | with_reducible assumption
      | with_reducible exact Kept.refl _
      | with_reducible apply State.ptOverlay_kept
      | with_reducible apply State.fieldJudge_kept
      | with_reducible apply State.pulsePair_kept
      | with_reducible apply State.fieldMajAtAction_kept)
  try clear_value s
  try dsimp only
  repeat' (first
    | with_reducible assumption
    | with_reducible exact Kept.refl _
    | with_reducible apply State.ptOverlay_kept
    | with_reducible apply State.fieldJudge_kept
    | with_reducible apply State.pulsePair_kept
    | with_reducible apply State.fieldMajAtAction_kept
    | with_reducible apply Kept.ite
    | split
    | with_reducible refine Kept.mk_same ?_)
theorem State.pointAtAction_kept {a : State} (s : State) (p : Point) (was on voted cleared : Bool) (h0 : Kept a s) : Kept a (State.pointAtAction s p was on voted cleared) := by
  refine h0.trans ?_
  unfold State.pointAtAction
  extract_lets s1
  have k_s1 : Kept s s1 := by
    unfold s1
    try dsimp only
    repeat' (first
      | with_reducible assumption
      | with_reducible exact Kept.refl _
      | with_reducible apply State.withdrawFault_kept
      | with_reducible apply State.modPtSched_kept
      | with_reducible apply State.outputFault_kept
      | with_reducible apply Kept.ite)
  try clear_value s1
  try dsimp only
  repeat' (first
    | with_reducible assumption
    | with_reducible exact Kept.refl _
    | with_reducible apply State.withdrawFault_kept
    | with_reducible apply State.modPtSched_kept
    | with_reducible apply State.outputFault_kept
    | with_reducible apply Kept.ite)
theorem State.contactorEdge_kept {a : State} (s : State) (g : GroupId) (a0 was on : Bool) (h0 : Kept a s) : Kept a (State.contactorEdge s g a0 was on) := by
  refine h0.trans ?_
  unfold State.contactorEdge
  extract_lets s1
  have k_s1 : Kept s s1 := by
    unfold s1
    try dsimp only
    repeat' (first
      | with_reducible assumption
      | with_reducible exact Kept.refl _
      | with_reducible apply State.modCont_kept
      | with_reducible apply State.modFe_kept
      | with_reducible apply State.modGroup_kept
      | with_reducible apply State.trigger_kept
      | with_reducible apply Kept.each
      | with_reducible apply Kept.ite
      | split
      | intro _
      | with_reducible assumption
      | with_reducible refine LaneOk.mk_same ?_
      | with_reducible refine HubOk.mk_same ?_
      | with_reducible refine FrontEnd.gatesOk_same ?_
      | with_reducible refine BankState.gatesOk_same ?_
      | with_reducible refine Kept.mk_same ?_)
  try clear_value s1
  try dsimp only
  repeat' (first
    | with_reducible assumption
    | with_reducible exact Kept.refl _
    | with_reducible apply State.modCont_kept
    | with_reducible apply State.modFe_kept
    | with_reducible apply State.modGroup_kept
    | with_reducible apply State.trigger_kept
    | with_reducible apply Kept.each
    | with_reducible apply Kept.ite
    | split
    | intro _
    | with_reducible assumption
    | with_reducible refine LaneOk.mk_same ?_
    | with_reducible refine HubOk.mk_same ?_
    | with_reducible refine FrontEnd.gatesOk_same ?_
    | with_reducible refine BankState.gatesOk_same ?_
    | with_reducible refine Kept.mk_same ?_)
theorem State.contactorEdges_kept {a : State} (s : State) (g : GroupId) (was on : PointMask) (h0 : Kept a s) : Kept a (State.contactorEdges s g was on) := by
  refine h0.trans ?_
  unfold State.contactorEdges
  try dsimp only
  repeat' (first
    | with_reducible exact Kept.refl _
    | with_reducible apply State.contactorEdge_kept
    | with_reducible apply Kept.ite)
theorem State.revertAux_kept {a : State} (s : State) (g : GroupId) (was now : Revert) (h0 : Kept a s) : Kept a (State.revertAux s g was now) := by
  refine h0.trans ?_
  unfold State.revertAux
  try dsimp only
  repeat' (first
    | with_reducible exact Kept.refl _
    | with_reducible apply State.modFe_kept
    | with_reducible apply State.trigger_kept
    | with_reducible apply Kept.ite
    | split
    | intro _
    | with_reducible assumption
    | with_reducible refine LaneOk.mk_same ?_
    | with_reducible refine HubOk.mk_same ?_
    | with_reducible refine FrontEnd.gatesOk_same ?_
    | with_reducible refine BankState.gatesOk_same ?_
    | with_reducible refine Kept.mk_same ?_
    | dsimp only)
theorem State.enterLevel_kept {a : State} (s : State) (g : GroupId) (k : Fin 4) (h0 : Kept a s) : Kept a (State.enterLevel s g k) := by
  refine h0.trans ?_
  unfold State.enterLevel
  extract_lets s1 s2 s3
  have k_s1 : Kept s s1 := by
    unfold s1
    try dsimp only
    repeat' (first
      | with_reducible assumption
      | with_reducible exact Kept.refl _
      | with_reducible apply State.modLanes_kept
      | with_reducible apply State.modGroup_kept
      | with_reducible apply State.feWrite_kept
      | with_reducible apply State.stopRuns_kept
      | with_reducible apply State.resumeLoans_kept
      | with_reducible apply Kept.each
      | with_reducible apply Kept.ite
      | split
      | intro _
      | with_reducible assumption
      | with_reducible refine LaneOk.mk_same ?_
      | with_reducible refine HubOk.mk_same ?_
      | with_reducible refine FrontEnd.gatesOk_same ?_
      | with_reducible refine BankState.gatesOk_same ?_
      | with_reducible refine Kept.mk_same ?_)
  try clear_value s1
  have k_s2 : Kept s s2 := by
    unfold s2
    try dsimp only
    repeat' (first
      | with_reducible assumption
      | with_reducible exact Kept.refl _
      | with_reducible apply State.modLanes_kept
      | with_reducible apply State.modGroup_kept
      | with_reducible apply State.feWrite_kept
      | with_reducible apply State.stopRuns_kept
      | with_reducible apply State.resumeLoans_kept
      | with_reducible apply Kept.each
      | with_reducible apply Kept.ite
      | split
      | intro _
      | with_reducible assumption
      | with_reducible refine LaneOk.mk_same ?_
      | with_reducible refine HubOk.mk_same ?_
      | with_reducible refine FrontEnd.gatesOk_same ?_
      | with_reducible refine BankState.gatesOk_same ?_
      | with_reducible refine Kept.mk_same ?_)
  try clear_value s2
  have k_s3 : Kept s s3 := by
    unfold s3
    try dsimp only
    repeat' (first
      | with_reducible assumption
      | with_reducible exact Kept.refl _
      | with_reducible apply State.modLanes_kept
      | with_reducible apply State.modGroup_kept
      | with_reducible apply State.feWrite_kept
      | with_reducible apply State.stopRuns_kept
      | with_reducible apply State.resumeLoans_kept
      | with_reducible apply Kept.each
      | with_reducible apply Kept.ite
      | split
      | intro _
      | with_reducible assumption
      | with_reducible refine LaneOk.mk_same ?_
      | with_reducible refine HubOk.mk_same ?_
      | with_reducible refine FrontEnd.gatesOk_same ?_
      | with_reducible refine BankState.gatesOk_same ?_
      | with_reducible refine Kept.mk_same ?_)
  try clear_value s3
  try dsimp only
  repeat' (first
    | with_reducible assumption
    | with_reducible exact Kept.refl _
    | with_reducible apply State.modLanes_kept
    | with_reducible apply State.modGroup_kept
    | with_reducible apply State.feWrite_kept
    | with_reducible apply State.stopRuns_kept
    | with_reducible apply State.resumeLoans_kept
    | with_reducible apply Kept.each
    | with_reducible apply Kept.ite
    | split
    | intro _
    | with_reducible assumption
    | with_reducible refine LaneOk.mk_same ?_
    | with_reducible refine HubOk.mk_same ?_
    | with_reducible refine FrontEnd.gatesOk_same ?_
    | with_reducible refine BankState.gatesOk_same ?_
    | with_reducible refine Kept.mk_same ?_)
theorem State.levelAtAction_kept {a : State} (s : State) (g : GroupId) (h0 : Kept a s) : Kept a (State.levelAtAction s g) := by
  refine h0.trans ?_
  unfold State.levelAtAction
  try dsimp only
  repeat' (first
    | with_reducible exact Kept.refl _
    | with_reducible apply State.modGroup_kept
    | with_reducible apply State.enterLevel_kept
    | with_reducible apply Kept.ite
    | split
    | with_reducible refine Kept.mk_same ?_)
theorem State.modeAtAction_kept {a : State} (s : State) (h0 : Kept a s) : Kept a (State.modeAtAction s) := by
  refine h0.trans ?_
  unfold State.modeAtAction
  extract_lets src s0
  have k_s0 : Kept s s0 := by
    unfold s0
    try dsimp only
    repeat' (first
      | with_reducible assumption
      | with_reducible exact Kept.refl _
      | with_reducible apply State.answer_kept
      | with_reducible apply State.enterMode_kept
      | with_reducible apply Kept.ite
      | split
      | with_reducible refine Kept.mk_same ?_)
  try clear_value s0
  try dsimp only
  repeat' (first
    | with_reducible assumption
    | with_reducible exact Kept.refl _
    | with_reducible apply State.answer_kept
    | with_reducible apply State.enterMode_kept
    | with_reducible apply Kept.ite
    | split)
theorem State.auxAtAction_kept {a : State} (s : State) (was : Mode) (h0 : Kept a s) : Kept a (State.auxAtAction s was) := by
  refine h0.trans ?_
  unfold State.auxAtAction
  try dsimp only
  repeat' (first
    | with_reducible exact Kept.refl _
    | with_reducible apply State.modFe_kept
    | with_reducible apply Kept.each
    | with_reducible apply Kept.ite
    | split
    | intro _
    | with_reducible assumption
    | with_reducible refine LaneOk.mk_same ?_
    | with_reducible refine HubOk.mk_same ?_
    | with_reducible refine FrontEnd.gatesOk_same ?_)
theorem State.testsAtAction_kept {a : State} (s : State) (before : Bytes) (h0 : Kept a s) : Kept a (State.testsAtAction s before) := by
  refine h0.trans ?_
  unfold State.testsAtAction
  try dsimp only
  repeat' (first
    | with_reducible exact Kept.refl _
    | with_reducible apply Kept.ite
    | split
    | with_reducible refine Kept.mk_same ?_)
theorem State.teachAtAction_kept {a : State} (s0 : State) (on was : ChanMask) (h0 : Kept a s0) : Kept a (State.teachAtAction s0 on was) := by
  refine h0.trans ?_
  unfold State.teachAtAction
  try dsimp only
  repeat' (first
    | with_reducible exact Kept.refl _
    | with_reducible apply State.modLanes_kept
    | with_reducible apply State.teachEnds_kept
    | with_reducible apply Kept.ite
    | split
    | intro _
    | with_reducible assumption
    | with_reducible refine LaneOk.mk_same ?_
    | with_reducible refine HubOk.mk_same ?_
    | with_reducible refine FrontEnd.gatesOk_same ?_
    | with_reducible refine BankState.gatesOk_same ?_
    | with_reducible refine Kept.mk_same ?_)
theorem State.captureAtAction_kept {a : State} (s : State) (h0 : Kept a s) : Kept a (State.captureAtAction s) := by
  refine h0.trans ?_
  unfold State.captureAtAction
  try dsimp only
  repeat' (first
    | with_reducible exact Kept.refl _
    | with_reducible apply Kept.ite
    | split
    | with_reducible refine Kept.mk_same ?_)
theorem State.wordsAtAction_kept {a : State} (s : State) (was : Nat) (h0 : Kept a s) : Kept a (State.wordsAtAction s was) := by
  refine h0.trans ?_
  unfold State.wordsAtAction
  try dsimp only
  repeat' (first
    | with_reducible exact Kept.refl _
    | with_reducible apply State.modLanes_kept
    | with_reducible apply Kept.ite
    | split
    | intro _
    | with_reducible assumption
    | with_reducible refine LaneOk.mk_same ?_)
theorem State.wipeAtAction_kept {a : State} (s : State) (h0 : Kept a s) : Kept a (State.wipeAtAction s) := by
  refine h0.trans ?_
  unfold State.wipeAtAction
  try dsimp only
  repeat' (first
    | with_reducible exact Kept.refl _
    | with_reducible apply State.answer_kept
    | with_reducible apply State.wipeStation_kept
    | split
    | with_reducible refine Kept.mk_same ?_)
theorem State.limitsAtAction_kept {a : State} (s : State) (span : Nat) (h0 : Kept a s) : Kept a (State.limitsAtAction s span) := by
  refine h0.trans ?_
  unfold State.limitsAtAction
  try dsimp only
  repeat' (first
    | with_reducible exact Kept.refl _
    | with_reducible apply Kept.ite
    | split
    | with_reducible refine Kept.mk_same ?_)
theorem State.decideGroups_kept {a : State} (s : State) (h0 : Kept a s) : Kept a (State.decideGroups s) := by
  refine h0.trans ?_
  unfold State.decideGroups
  try dsimp only
  repeat' (first
    | with_reducible exact Kept.refl _
    | with_reducible apply State.modLanes_kept
    | with_reducible apply Kept.ite
    | split
    | intro _
    | with_reducible assumption
    | with_reducible refine LaneOk.mk_same ?_)
theorem State.applyImages_kept {a : State} (s : State) (cmds : Vector (Vector (BitVec 4) 96) 3) (h0 : Kept a s) : Kept a (State.applyImages s cmds) := by
  refine h0.trans ?_
  unfold State.applyImages
  extract_lets clr off absent s1
  have k_s1 : Kept s s1 := by
    unfold s1
    try dsimp only
    repeat' (first
      | with_reducible assumption
      | with_reducible apply LaneState.stages_ok
      | with_reducible apply LaneState.apply_ok
      | with_reducible apply FrontEnd.apply_ok
      | with_reducible exact Kept.refl _
      | with_reducible apply State.modLanes_kept
      | with_reducible apply State.modBanks_kept
      | with_reducible apply Kept.ite
      | split
      | intro _
      | with_reducible assumption
      | with_reducible refine LaneOk.mk_same ?_
      | with_reducible refine HubOk.mk_same ?_
      | with_reducible refine FrontEnd.gatesOk_same ?_
      | with_reducible refine BankState.gatesOk_same ?_
      | with_reducible refine Kept.mk_same ?_)
  try clear_value s1
  try dsimp only
  repeat' (first
    | with_reducible assumption
    | with_reducible apply LaneState.stages_ok
    | with_reducible apply LaneState.apply_ok
    | with_reducible apply FrontEnd.apply_ok
    | with_reducible exact Kept.refl _
    | with_reducible apply State.modLanes_kept
    | with_reducible apply State.modBanks_kept
    | with_reducible apply Kept.ite
    | split
    | intro _
    | with_reducible assumption
    | with_reducible refine LaneOk.mk_same ?_
    | with_reducible refine HubOk.mk_same ?_
    | with_reducible refine FrontEnd.gatesOk_same ?_
    | with_reducible refine BankState.gatesOk_same ?_
    | with_reducible refine Kept.mk_same ?_)
theorem State.afterImages_kept {a : State} (s : State) (old : LaneState) (l : LaneId) (cmds : Vector (BitVec 4) 96) (h0 : Kept a s) : Kept a (State.afterImages s old l cmds) := by
  refine h0.trans ?_
  unfold State.afterImages
  extract_lets L ptsOff s1 s2 s3 s4
  have k_s1 : Kept s s1 := by
    unfold s1
    try dsimp only
    repeat' (first
      | with_reducible assumption
      | with_reducible exact Kept.refl _
      | with_reducible apply State.chanAtAction_kept
      | with_reducible apply State.fieldAtAction_kept
      | with_reducible apply State.pointAtAction_kept
      | with_reducible apply State.contactorEdges_kept
      | with_reducible apply State.revertAux_kept
      | with_reducible apply State.teachAtAction_kept
      | with_reducible apply Kept.each
      | intro _)
  try clear_value s1
  have k_s2 : Kept s s2 := by
    unfold s2
    try dsimp only
    repeat' (first
      | with_reducible assumption
      | with_reducible exact Kept.refl _
      | with_reducible apply State.chanAtAction_kept
      | with_reducible apply State.fieldAtAction_kept
      | with_reducible apply State.pointAtAction_kept
      | with_reducible apply State.contactorEdges_kept
      | with_reducible apply State.revertAux_kept
      | with_reducible apply State.teachAtAction_kept
      | with_reducible apply Kept.each
      | intro _)
  try clear_value s2
  have k_s3 : Kept s s3 := by
    unfold s3
    try dsimp only
    repeat' (first
      | with_reducible assumption
      | with_reducible exact Kept.refl _
      | with_reducible apply State.chanAtAction_kept
      | with_reducible apply State.fieldAtAction_kept
      | with_reducible apply State.pointAtAction_kept
      | with_reducible apply State.contactorEdges_kept
      | with_reducible apply State.revertAux_kept
      | with_reducible apply State.teachAtAction_kept
      | with_reducible apply Kept.each
      | intro _)
  try clear_value s3
  have k_s4 : Kept s s4 := by
    unfold s4
    try dsimp only
    repeat' (first
      | with_reducible assumption
      | with_reducible exact Kept.refl _
      | with_reducible apply State.chanAtAction_kept
      | with_reducible apply State.fieldAtAction_kept
      | with_reducible apply State.pointAtAction_kept
      | with_reducible apply State.contactorEdges_kept
      | with_reducible apply State.revertAux_kept
      | with_reducible apply State.teachAtAction_kept
      | with_reducible apply Kept.each
      | intro _)
  try clear_value s4
  try dsimp only
  repeat' (first
    | with_reducible assumption
    | with_reducible exact Kept.refl _
    | with_reducible apply State.chanAtAction_kept
    | with_reducible apply State.fieldAtAction_kept
    | with_reducible apply State.pointAtAction_kept
    | with_reducible apply State.contactorEdges_kept
    | with_reducible apply State.revertAux_kept
    | with_reducible apply State.teachAtAction_kept
    | with_reducible apply Kept.each
    | intro _)
theorem State.actionPoint_kept {a : State} (s : State) (h0 : Kept a s) : Kept a (State.actionPoint s) := by
  refine h0.trans ?_
  unfold State.actionPoint
  extract_lets cmds before was s1 s2 src s3 s4 s5 s6
  have k_s1 : Kept s s1 := by
    unfold s1
    try dsimp only
    repeat' (first
      | with_reducible assumption
      | with_reducible exact Kept.refl _
      | with_reducible apply State.noteAll_kept
      | with_reducible apply State.copActionPoint_kept
      | with_reducible apply State.startCycle_kept
      | with_reducible apply State.compareHubs_kept
      | with_reducible apply State.flashNotProven_kept
      | with_reducible apply State.levelAtAction_kept
      | with_reducible apply State.modeAtAction_kept
      | with_reducible apply State.auxAtAction_kept
      | with_reducible apply State.testsAtAction_kept
      | with_reducible apply State.captureAtAction_kept
      | with_reducible apply State.wordsAtAction_kept
      | with_reducible apply State.wipeAtAction_kept
      | with_reducible apply State.limitsAtAction_kept
      | with_reducible apply State.decideGroups_kept
      | with_reducible apply State.applyImages_kept
      | with_reducible apply State.afterImages_kept
      | with_reducible apply Kept.each
      | split
      | intro _
      | with_reducible refine Kept.mk_same ?_)
  try clear_value s1
  have k_s2 : Kept s s2 := by
    unfold s2
    try dsimp only
    repeat' (first
      | with_reducible assumption
      | with_reducible exact Kept.refl _
      | with_reducible apply State.noteAll_kept
      | with_reducible apply State.copActionPoint_kept
      | with_reducible apply State.startCycle_kept
      | with_reducible apply State.compareHubs_kept
      | with_reducible apply State.flashNotProven_kept
      | with_reducible apply State.levelAtAction_kept
      | with_reducible apply State.modeAtAction_kept
      | with_reducible apply State.auxAtAction_kept
      | with_reducible apply State.testsAtAction_kept
      | with_reducible apply State.captureAtAction_kept
      | with_reducible apply State.wordsAtAction_kept
      | with_reducible apply State.wipeAtAction_kept
      | with_reducible apply State.limitsAtAction_kept
      | with_reducible apply State.decideGroups_kept
      | with_reducible apply State.applyImages_kept
      | with_reducible apply State.afterImages_kept
      | with_reducible apply Kept.each
      | split
      | intro _
      | with_reducible refine Kept.mk_same ?_)
  try clear_value s2
  have k_s3 : Kept s s3 := by
    unfold s3
    try dsimp only
    repeat' (first
      | with_reducible assumption
      | with_reducible exact Kept.refl _
      | with_reducible apply State.noteAll_kept
      | with_reducible apply State.copActionPoint_kept
      | with_reducible apply State.startCycle_kept
      | with_reducible apply State.compareHubs_kept
      | with_reducible apply State.flashNotProven_kept
      | with_reducible apply State.levelAtAction_kept
      | with_reducible apply State.modeAtAction_kept
      | with_reducible apply State.auxAtAction_kept
      | with_reducible apply State.testsAtAction_kept
      | with_reducible apply State.captureAtAction_kept
      | with_reducible apply State.wordsAtAction_kept
      | with_reducible apply State.wipeAtAction_kept
      | with_reducible apply State.limitsAtAction_kept
      | with_reducible apply State.decideGroups_kept
      | with_reducible apply State.applyImages_kept
      | with_reducible apply State.afterImages_kept
      | with_reducible apply Kept.each
      | split
      | intro _
      | with_reducible refine Kept.mk_same ?_)
  try clear_value s3
  have k_s4 : Kept s s4 := by
    unfold s4
    try dsimp only
    repeat' (first
      | with_reducible assumption
      | with_reducible exact Kept.refl _
      | with_reducible apply State.noteAll_kept
      | with_reducible apply State.copActionPoint_kept
      | with_reducible apply State.startCycle_kept
      | with_reducible apply State.compareHubs_kept
      | with_reducible apply State.flashNotProven_kept
      | with_reducible apply State.levelAtAction_kept
      | with_reducible apply State.modeAtAction_kept
      | with_reducible apply State.auxAtAction_kept
      | with_reducible apply State.testsAtAction_kept
      | with_reducible apply State.captureAtAction_kept
      | with_reducible apply State.wordsAtAction_kept
      | with_reducible apply State.wipeAtAction_kept
      | with_reducible apply State.limitsAtAction_kept
      | with_reducible apply State.decideGroups_kept
      | with_reducible apply State.applyImages_kept
      | with_reducible apply State.afterImages_kept
      | with_reducible apply Kept.each
      | split
      | intro _
      | with_reducible refine Kept.mk_same ?_)
  try clear_value s4
  have k_s5 : Kept s s5 := by
    unfold s5
    try dsimp only
    repeat' (first
      | with_reducible assumption
      | with_reducible exact Kept.refl _
      | with_reducible apply State.noteAll_kept
      | with_reducible apply State.copActionPoint_kept
      | with_reducible apply State.startCycle_kept
      | with_reducible apply State.compareHubs_kept
      | with_reducible apply State.flashNotProven_kept
      | with_reducible apply State.levelAtAction_kept
      | with_reducible apply State.modeAtAction_kept
      | with_reducible apply State.auxAtAction_kept
      | with_reducible apply State.testsAtAction_kept
      | with_reducible apply State.captureAtAction_kept
      | with_reducible apply State.wordsAtAction_kept
      | with_reducible apply State.wipeAtAction_kept
      | with_reducible apply State.limitsAtAction_kept
      | with_reducible apply State.decideGroups_kept
      | with_reducible apply State.applyImages_kept
      | with_reducible apply State.afterImages_kept
      | with_reducible apply Kept.each
      | split
      | intro _
      | with_reducible refine Kept.mk_same ?_)
  try clear_value s5
  have k_s6 : Kept s s6 := by
    unfold s6
    try dsimp only
    repeat' (first
      | with_reducible assumption
      | with_reducible exact Kept.refl _
      | with_reducible apply State.noteAll_kept
      | with_reducible apply State.copActionPoint_kept
      | with_reducible apply State.startCycle_kept
      | with_reducible apply State.compareHubs_kept
      | with_reducible apply State.flashNotProven_kept
      | with_reducible apply State.levelAtAction_kept
      | with_reducible apply State.modeAtAction_kept
      | with_reducible apply State.auxAtAction_kept
      | with_reducible apply State.testsAtAction_kept
      | with_reducible apply State.captureAtAction_kept
      | with_reducible apply State.wordsAtAction_kept
      | with_reducible apply State.wipeAtAction_kept
      | with_reducible apply State.limitsAtAction_kept
      | with_reducible apply State.decideGroups_kept
      | with_reducible apply State.applyImages_kept
      | with_reducible apply State.afterImages_kept
      | with_reducible apply Kept.each
      | split
      | intro _
      | with_reducible refine Kept.mk_same ?_)
  try clear_value s6
  try dsimp only
  repeat' (first
    | with_reducible assumption
    | with_reducible exact Kept.refl _
    | with_reducible apply State.noteAll_kept
    | with_reducible apply State.copActionPoint_kept
    | with_reducible apply State.startCycle_kept
    | with_reducible apply State.compareHubs_kept
    | with_reducible apply State.flashNotProven_kept
    | with_reducible apply State.levelAtAction_kept
    | with_reducible apply State.modeAtAction_kept
    | with_reducible apply State.auxAtAction_kept
    | with_reducible apply State.testsAtAction_kept
    | with_reducible apply State.captureAtAction_kept
    | with_reducible apply State.wordsAtAction_kept
    | with_reducible apply State.wipeAtAction_kept
    | with_reducible apply State.limitsAtAction_kept
    | with_reducible apply State.decideGroups_kept
    | with_reducible apply State.applyImages_kept
    | with_reducible apply State.afterImages_kept
    | with_reducible apply Kept.each
    | split
    | intro _
    | with_reducible refine Kept.mk_same ?_)
theorem execActionPoint_kept (s : State) : ∃ s1, execActionPoint s = .next s1 ∧ Kept s s1 := by
  refine ⟨_, rfl, ?_⟩
  try dsimp only
  repeat' (first
    | with_reducible exact Kept.refl _
    | with_reducible apply State.actionPoint_kept
    | with_reducible apply Kept.ite)
theorem State.freezeImages_kept {a : State} (s : State) (h0 : Kept a s) : Kept a (State.freezeImages s) := by
  refine h0.trans ?_
  unfold State.freezeImages
  extract_lets img s1
  have k_s1 : Kept s s1 := by
    unfold s1
    try dsimp only
    repeat' (first
      | with_reducible assumption
      | with_reducible exact Kept.refl _
      | with_reducible apply State.modLanes_kept
      | with_reducible apply State.modHubs_kept
      | with_reducible apply Kept.ite
      | split
      | intro _
      | with_reducible assumption
      | with_reducible refine LaneOk.mk_same ?_)
  try clear_value s1
  try dsimp only
  repeat' (first
    | with_reducible assumption
    | with_reducible exact Kept.refl _
    | with_reducible apply State.modLanes_kept
    | with_reducible apply State.modHubs_kept
    | with_reducible apply Kept.ite
    | split
    | intro _
    | with_reducible assumption
    | with_reducible refine LaneOk.mk_same ?_
    | with_reducible refine HubOk.mk_same ?_)
theorem execSubImageFreeze_kept (s : State) : ∃ s1, execSubImageFreeze s = .next s1 ∧ Kept s s1 := by
  refine ⟨_, rfl, ?_⟩
  try dsimp only
  repeat' (first
    | with_reducible exact Kept.refl _
    | with_reducible apply State.noteAll_kept
    | with_reducible apply State.answerFrozen_kept
    | with_reducible apply State.freezeLimits_kept
    | with_reducible apply State.decideGroups_kept
    | with_reducible apply State.freezeImages_kept
    | with_reducible apply Kept.ite
    | split
    | with_reducible refine Kept.mk_same ?_)

end Sys2Proof.Machine
end

