-- ==== Sys2Proof/Laws/KeptBus.lean ====
section
/-!
SUPPORT. What the operations and commands of Machine/Bus.lean keep.
-/

namespace Sys2Proof.Machine

theorem State.modBus_kept {a : State} (s : State) (h : HubId) (f : HubBus → HubBus) (h0 : Kept a s) : Kept a (State.modBus s h f) := by
  refine h0.trans ?_
  unfold State.modBus
  try dsimp only
  repeat' (first
    | with_reducible exact Kept.refl _
    | with_reducible apply State.modHub_kept
    | intro _
    | with_reducible assumption
    | with_reducible refine LaneOk.mk_same ?_
    | with_reducible refine HubOk.mk_same ?_)
theorem State.modTime_kept {a : State} (s : State) (h : HubId) (f : HubTime → HubTime) (h0 : Kept a s) : Kept a (State.modTime s h f) := by
  refine h0.trans ?_
  unfold State.modTime
  try dsimp only
  repeat' (first
    | with_reducible exact Kept.refl _
    | with_reducible apply State.modHub_kept
    | intro _
    | with_reducible assumption
    | with_reducible refine LaneOk.mk_same ?_
    | with_reducible refine HubOk.mk_same ?_)
theorem State.countRx_kept {a : State} (s : State) (h : HubId) (k : Nat) (h0 : Kept a s) : Kept a (State.countRx s h k) := by
  refine h0.trans ?_
  unfold State.countRx
  try dsimp only
  repeat' (first
    | with_reducible exact Kept.refl _
    | with_reducible apply State.modBus_kept)
theorem execLinkUp_kept (h : HubId) (s : State) : ∃ s1, execLinkUp h s = .next s1 ∧ Kept s s1 := by
  refine ⟨_, rfl, ?_⟩
  try dsimp only
  repeat' (first
    | with_reducible exact Kept.refl _
    | with_reducible apply State.modBus_kept)
theorem execLinkDown_kept (h : HubId) (s : State) : ∃ s1, execLinkDown h s = .next s1 ∧ Kept s s1 := by
  refine ⟨_, rfl, ?_⟩
  try dsimp only
  repeat' (first
    | with_reducible exact Kept.refl _
    | with_reducible apply State.modBus_kept)
theorem execChannelDown_kept (h : HubId) (s : State) : ∃ s1, execChannelDown h s = .next s1 ∧ Kept s s1 := by
  refine ⟨_, rfl, ?_⟩
  try dsimp only
  repeat' (first
    | with_reducible exact Kept.refl _
    | with_reducible apply State.fault_kept
    | with_reducible apply State.modBus_kept
    | with_reducible apply Kept.ite)
theorem State.measureDev_kept {a : State} (s : State) (h : HubId) (f : RxFrame) (h0 : Kept a s) : Kept a (State.measureDev s h f) := by
  refine h0.trans ?_
  unfold State.measureDev
  try dsimp only
  repeat' (first
    | with_reducible exact Kept.refl _
    | with_reducible apply State.modTime_kept
    | with_reducible apply Kept.ite)
theorem State.noteValid_kept {a : State} (s : State) (h : HubId) (f : RxFrame) (slot : Nat) (h0 : Kept a s) : Kept a (State.noteValid s h f slot) := by
  refine h0.trans ?_
  unfold State.noteValid
  extract_lets o n sync s1 src
  have k_s1 : Kept s s1 := by
    unfold s1
    try dsimp only
    repeat' (first
      | with_reducible assumption
      | with_reducible exact Kept.refl _
      | with_reducible apply State.modBus_kept)
  try clear_value s1
  try dsimp only
  repeat' (first
    | with_reducible assumption
    | with_reducible exact Kept.refl _
    | with_reducible apply State.modBus_kept
    | with_reducible apply Kept.ite
    | split
    | with_reducible refine Kept.mk_same ?_)
theorem State.noteTimes_kept {a : State} (s : State) (h : HubId) (o : Bytes) (h0 : Kept a s) : Kept a (State.noteTimes s h o) := by
  refine h0.trans ?_
  unfold State.noteTimes
  try dsimp only
  repeat' (first
    | with_reducible exact Kept.refl _
    | with_reducible apply State.modTime_kept)
theorem State.storeRecords_kept {a : State} (s : State) (h : HubId) (m : MasterId) (slot : Nat) (o : Bytes) (h0 : Kept a s) : Kept a (State.storeRecords s h m slot o) := by
  refine h0.trans ?_
  unfold State.storeRecords
  try dsimp only
  repeat' (first
    | with_reducible exact Kept.refl _
    | with_reducible apply State.modBus_kept
    | with_reducible apply Kept.ite
    | split
    | with_reducible refine Kept.mk_same ?_)
theorem State.rxSegment_kept {a : State} (s : State) (h : HubId) (o : Bytes) (h0 : Kept a s) : Kept a (State.rxSegment s h o) := by
  refine h0.trans ?_
  unfold State.rxSegment
  try dsimp only
  repeat' (first
    | with_reducible exact Kept.refl _
    | with_reducible apply State.segDrop_kept
    | with_reducible apply State.takeSegment_kept
    | with_reducible apply Kept.ite
    | split)
theorem State.changeRequest_kept {a : State} (s : State) (slot : Nat) (cycle : Word) (b : Bytes) (h0 : Kept a s) : Kept a (State.changeRequest s slot cycle b) := by
  refine h0.trans ?_
  unfold State.changeRequest
  try dsimp only
  repeat' (first
    | with_reducible exact Kept.refl _
    | with_reducible apply State.answer_kept
    | with_reducible apply Kept.ite
    | split
    | with_reducible refine Kept.mk_same ?_)
theorem State.cancelChange_kept {a : State} (s : State) (items : List Nat) (h0 : Kept a s) : Kept a (State.cancelChange s items) := by
  refine h0.trans ?_
  unfold State.cancelChange
  try dsimp only
  repeat' (first
    | with_reducible exact Kept.refl _
    | with_reducible apply State.note_kept
    | with_reducible refine Kept.mk_same ?_)
theorem State.changeAnswer_kept {a : State} (s : State) (node : Nat) (b : Bytes) (h0 : Kept a s) : Kept a (State.changeAnswer s node b) := by
  refine h0.trans ?_
  unfold State.changeAnswer
  try dsimp only
  repeat' (first
    | with_reducible exact Kept.refl _
    | with_reducible apply State.cancelChange_kept
    | with_reducible apply Kept.ite
    | split
    | with_reducible refine Kept.mk_same ?_)
theorem State.rxBlock_kept {a : State} (s : State) (f : RxFrame) (slot : Nat) (h0 : Kept a s) : Kept a (State.rxBlock s f slot) := by
  refine h0.trans ?_
  unfold State.rxBlock
  try dsimp only
  repeat' (first
    | with_reducible exact Kept.refl _
    | with_reducible apply State.changeRequest_kept
    | with_reducible apply State.changeAnswer_kept
    | with_reducible apply Kept.ite)
theorem State.changeSet_kept {a : State} (s : State) (k : Nat) (h0 : Kept a s) : Kept a (State.changeSet s k) := by
  refine h0.trans ?_
  unfold State.changeSet
  extract_lets old s1 src
  have k_s1 : Kept s s1 := by
    unfold s1
    try dsimp only
    repeat' (first
      | with_reducible assumption
      | with_reducible exact Kept.refl _
      | with_reducible apply State.modHubs_kept
      | with_reducible apply State.note_kept
      | with_reducible apply Kept.ite
      | split
      | intro _
      | with_reducible assumption
      | with_reducible refine LaneOk.mk_same ?_
      | with_reducible refine HubOk.mk_same ?_)
  try clear_value s1
  try dsimp only
  repeat' (first
    | with_reducible assumption
    | with_reducible exact Kept.refl _
    | with_reducible apply State.modHubs_kept
    | with_reducible apply State.note_kept
    | with_reducible apply Kept.ite
    | split
    | intro _
    | with_reducible assumption
    | with_reducible refine LaneOk.mk_same ?_
    | with_reducible refine HubOk.mk_same ?_
    | with_reducible refine FrontEnd.gatesOk_same ?_
    | with_reducible refine BankState.gatesOk_same ?_
    | with_reducible refine Kept.mk_same ?_)
theorem execSchedChanged_kept (s : State) : ∃ s1, execSchedChanged s = .next s1 ∧ Kept s s1 := by
  refine ⟨_, rfl, ?_⟩
  try dsimp only
  repeat' (first
    | with_reducible exact Kept.refl _
    | with_reducible apply State.cancelChange_kept
    | with_reducible apply State.changeSet_kept
    | with_reducible apply Kept.ite
    | split
    | with_reducible refine Kept.mk_same ?_)
theorem State.acquire_kept {a : State} (s : State) (h : HubId) (f : RxFrame) (slot : Nat) (gt : BitVec 64) (h0 : Kept a s) : Kept a (State.acquire s h f slot gt) := by
  refine h0.trans ?_
  unfold State.acquire
  extract_lets o k d s1 src
  have k_s1 : Kept s s1 := by
    unfold s1
    try dsimp only
    repeat' (first
      | with_reducible assumption
      | with_reducible exact Kept.refl _
      | with_reducible apply State.modHub_kept
      | with_reducible apply State.countRx_kept
      | with_reducible apply State.noteValid_kept
      | intro _
      | with_reducible assumption
      | with_reducible refine LaneOk.mk_same ?_
      | with_reducible refine HubOk.mk_same ?_
      | with_reducible refine FrontEnd.gatesOk_same ?_
      | with_reducible refine BankState.gatesOk_same ?_
      | with_reducible refine Kept.mk_same ?_)
  try clear_value s1
  try dsimp only
  repeat' (first
    | with_reducible assumption
    | with_reducible exact Kept.refl _
    | with_reducible apply State.modHub_kept
    | with_reducible apply State.countRx_kept
    | with_reducible apply State.noteValid_kept
    | intro _
    | with_reducible assumption
    | with_reducible refine LaneOk.mk_same ?_
    | with_reducible refine HubOk.mk_same ?_
    | with_reducible refine FrontEnd.gatesOk_same ?_
    | with_reducible refine BankState.gatesOk_same ?_
    | with_reducible refine Kept.mk_same ?_)
theorem State.tryAcquire_kept {a : State} (s : State) (h : HubId) (f : RxFrame) (h0 : Kept a s) : Kept a (State.tryAcquire s h f) := by
  refine h0.trans ?_
  unfold State.tryAcquire
  try dsimp only
  repeat' (first
    | with_reducible exact Kept.refl _
    | with_reducible apply State.acquire_kept
    | with_reducible apply Kept.ite
    | split)
theorem State.claimHeard_kept {a : State} (s : State) (slot : Nat) (h0 : Kept a s) : Kept a (State.claimHeard s slot) := by
  refine h0.trans ?_
  unfold State.claimHeard
  try dsimp only
  repeat' (first
    | with_reducible exact Kept.refl _
    | with_reducible apply State.note_kept
    | with_reducible apply Kept.ite
    | split
    | with_reducible refine Kept.mk_same ?_)
theorem State.usePayload_kept {a : State} (s : State) (h : HubId) (f : RxFrame) (slot : Nat) (h0 : Kept a s) : Kept a (State.usePayload s h f slot) := by
  refine h0.trans ?_
  unfold State.usePayload
  extract_lets o s1 s2
  have k_s1 : Kept s s1 := by
    unfold s1
    try dsimp only
    repeat' (first
      | with_reducible assumption
      | with_reducible exact Kept.refl _
      | with_reducible apply State.noteTimes_kept
      | with_reducible apply State.storeRecords_kept
      | with_reducible apply State.rxSegment_kept
      | with_reducible apply State.rxBlock_kept
      | with_reducible apply State.acquire_kept
      | with_reducible apply Kept.ite
      | split)
  try clear_value s1
  have k_s2 : Kept s s2 := by
    unfold s2
    try dsimp only
    repeat' (first
      | with_reducible assumption
      | with_reducible exact Kept.refl _
      | with_reducible apply State.noteTimes_kept
      | with_reducible apply State.storeRecords_kept
      | with_reducible apply State.rxSegment_kept
      | with_reducible apply State.rxBlock_kept
      | with_reducible apply State.acquire_kept
      | with_reducible apply Kept.ite
      | split)
  try clear_value s2
  try dsimp only
  repeat' (first
    | with_reducible assumption
    | with_reducible exact Kept.refl _
    | with_reducible apply State.noteTimes_kept
    | with_reducible apply State.storeRecords_kept
    | with_reducible apply State.rxSegment_kept
    | with_reducible apply State.rxBlock_kept
    | with_reducible apply State.acquire_kept
    | with_reducible apply Kept.ite
    | split)
theorem State.receiveTimed_kept {a : State} (s : State) (h : HubId) (f : RxFrame) (h0 : Kept a s) : Kept a (State.receiveTimed s h f) := by
  refine h0.trans ?_
  unfold State.receiveTimed
  extract_lets o k slot s1 s2
  have k_s1 : Kept s s1 := by
    unfold s1
    try dsimp only
    repeat' (first
      | with_reducible assumption
      | with_reducible exact Kept.refl _
      | with_reducible apply State.modBus_kept
      | with_reducible apply State.countRx_kept
      | with_reducible apply State.measureDev_kept)
  try clear_value s1
  have k_s2 : Kept s s2 := by
    unfold s2
    try dsimp only
    repeat' (first
      | with_reducible assumption
      | with_reducible exact Kept.refl _
      | with_reducible apply State.modBus_kept
      | with_reducible apply State.countRx_kept
      | with_reducible apply State.measureDev_kept
      | with_reducible apply State.noteValid_kept)
  try clear_value s2
  try dsimp only
  repeat' (first
    | with_reducible assumption
    | with_reducible exact Kept.refl _
    | with_reducible apply State.modBus_kept
    | with_reducible apply State.countRx_kept
    | with_reducible apply State.measureDev_kept
    | with_reducible apply State.noteValid_kept
    | with_reducible apply State.usePayload_kept
    | with_reducible apply Kept.ite)
theorem State.rxFrame_kept {a : State} (s : State) (h : HubId) (f : RxFrame) (h0 : Kept a s) : Kept a (State.rxFrame s h f) := by
  refine h0.trans ?_
  unfold State.rxFrame
  extract_lets o timed slot s1 own src s2
  have k_s1 : Kept s s1 := by
    unfold s1
    try dsimp only
    repeat' (first
      | with_reducible assumption
      | with_reducible exact Kept.refl _
      | with_reducible apply State.modBus_kept
      | with_reducible apply State.countRx_kept
      | with_reducible apply State.tryAcquire_kept
      | with_reducible apply State.claimHeard_kept
      | with_reducible apply State.receiveTimed_kept
      | with_reducible apply Kept.ite)
  try clear_value s1
  have k_s2 : Kept s s2 := by
    unfold s2
    try dsimp only
    repeat' (first
      | with_reducible assumption
      | with_reducible exact Kept.refl _
      | with_reducible apply State.modBus_kept
      | with_reducible apply State.countRx_kept
      | with_reducible apply State.tryAcquire_kept
      | with_reducible apply State.claimHeard_kept
      | with_reducible apply State.receiveTimed_kept
      | with_reducible apply Kept.ite
      | split
      | with_reducible refine Kept.mk_same ?_)
  try clear_value s2
  try dsimp only
  repeat' (first
    | with_reducible assumption
    | with_reducible exact Kept.refl _
    | with_reducible apply State.modBus_kept
    | with_reducible apply State.countRx_kept
    | with_reducible apply State.tryAcquire_kept
    | with_reducible apply State.claimHeard_kept
    | with_reducible apply State.receiveTimed_kept
    | with_reducible apply Kept.ite)
theorem execFrameReceived_kept (h : HubId) (f : RxFrame) (s : State) : ∃ s1, execFrameReceived h f s = .next s1 ∧ Kept s s1 := by
  refine ⟨_, rfl, ?_⟩
  try dsimp only
  repeat' (first
    | with_reducible exact Kept.refl _
    | with_reducible apply State.rxFrame_kept
    | with_reducible apply Kept.ite)
theorem State.reintegrate_kept {a : State} (s : State) (h : HubId) (h0 : Kept a s) : Kept a (State.reintegrate s h) := by
  refine h0.trans ?_
  unfold State.reintegrate
  try dsimp only
  repeat' (first
    | with_reducible exact Kept.refl _
    | with_reducible apply State.modHub_kept
    | with_reducible apply State.acquire_kept
    | intro _
    | with_reducible assumption
    | with_reducible refine LaneOk.mk_same ?_
    | with_reducible refine HubOk.mk_same ?_)
theorem State.goPassive_kept {a : State} (s : State) (h : HubId) (cause : Nat) (h0 : Kept a s) : Kept a (State.goPassive s h cause) := by
  refine h0.trans ?_
  unfold State.goPassive
  try dsimp only
  repeat' (first
    | with_reducible exact Kept.refl _
    | with_reducible apply State.note_kept
    | with_reducible apply State.modTime_kept
    | with_reducible apply State.reintegrate_kept)
theorem State.correctHub_kept {a : State} (s : State) (h : HubId) (h0 : Kept a s) : Kept a (State.correctHub s h) := by
  refine h0.trans ?_
  unfold State.correctHub
  extract_lets H vals s1 t s2
  have k_s1 : Kept s s1 := by
    unfold s1
    try dsimp only
    repeat' (first
      | with_reducible assumption
      | with_reducible exact Kept.refl _
      | with_reducible apply State.note_kept
      | with_reducible apply State.modTime_kept)
  try clear_value s1
  have k_s2 : Kept s s2 := by
    unfold s2
    try dsimp only
    repeat' (first
      | with_reducible assumption
      | with_reducible exact Kept.refl _
      | with_reducible apply State.note_kept
      | with_reducible apply State.modTime_kept
      | with_reducible apply State.goPassive_kept
      | with_reducible apply Kept.ite)
  try clear_value s2
  try dsimp only
  repeat' (first
    | with_reducible assumption
    | with_reducible exact Kept.refl _
    | with_reducible apply State.note_kept
    | with_reducible apply State.modTime_kept
    | with_reducible apply State.goPassive_kept
    | with_reducible apply Kept.ite)
theorem State.correctCycle_kept {a : State} (s : State) (h : HubId) (h0 : Kept a s) : Kept a (State.correctCycle s h) := by
  refine h0.trans ?_
  unfold State.correctCycle
  extract_lets b s1 s2 src
  have k_s1 : Kept s s1 := by
    unfold s1
    try dsimp only
    repeat' (first
      | with_reducible assumption
      | with_reducible exact Kept.refl _
      | with_reducible apply State.reintegrate_kept
      | with_reducible apply State.correctHub_kept)
  try clear_value s1
  have k_s2 : Kept s s2 := by
    unfold s2
    try dsimp only
    repeat' (first
      | with_reducible assumption
      | with_reducible exact Kept.refl _
      | with_reducible apply State.reintegrate_kept)
  try clear_value s2
  try dsimp only
  repeat' (first
    | with_reducible assumption
    | with_reducible exact Kept.refl _
    | with_reducible apply State.reintegrate_kept
    | with_reducible apply State.correctHub_kept
    | with_reducible apply Kept.ite
    | split
    | with_reducible refine Kept.mk_same ?_)
theorem execClockCorrection_kept (h : HubId) (s : State) : ∃ s1, execClockCorrection h s = .next s1 ∧ Kept s s1 := by
  refine ⟨_, rfl, ?_⟩
  try dsimp only
  repeat' (first
    | with_reducible exact Kept.refl _
    | with_reducible apply State.correctCycle_kept
    | with_reducible apply Kept.ite)
theorem State.enterSend_kept {a : State} (s : State) (h : HubId) (h0 : Kept a s) : Kept a (State.enterSend s h) := by
  refine h0.trans ?_
  unfold State.enterSend
  extract_lets was H cyc s1
  have k_s1 : Kept s s1 := by
    unfold s1
    try dsimp only
    repeat' (first
      | with_reducible assumption
      | with_reducible apply HubState.advance_ok
      | with_reducible exact Kept.refl _
      | with_reducible apply State.modHub_kept
      | with_reducible apply State.integrate_kept
      | with_reducible apply State.hubNewCycle_kept
      | with_reducible apply Kept.ite
      | split
      | intro _
      | with_reducible assumption
      | with_reducible refine LaneOk.mk_same ?_
      | with_reducible refine HubOk.mk_same ?_
      | with_reducible refine FrontEnd.gatesOk_same ?_
      | with_reducible refine BankState.gatesOk_same ?_
      | with_reducible refine Kept.mk_same ?_)
  try clear_value s1
  try dsimp only
  repeat' (first
    | with_reducible assumption
    | with_reducible apply HubState.advance_ok
    | with_reducible exact Kept.refl _
    | with_reducible apply State.modHub_kept
    | with_reducible apply State.integrate_kept
    | with_reducible apply State.hubNewCycle_kept
    | with_reducible apply Kept.ite
    | split
    | intro _
    | with_reducible assumption
    | with_reducible refine LaneOk.mk_same ?_
    | with_reducible refine HubOk.mk_same ?_
    | with_reducible refine FrontEnd.gatesOk_same ?_
    | with_reducible refine BankState.gatesOk_same ?_
    | with_reducible refine Kept.mk_same ?_)
theorem State.integrationEnd_kept {a : State} (s : State) (h : HubId) (h0 : Kept a s) : Kept a (State.integrationEnd s h) := by
  refine h0.trans ?_
  unfold State.integrationEnd
  extract_lets s0 x
  have k_s0 : Kept s s0 := by
    unfold s0
    try dsimp only
    repeat' (first
      | with_reducible assumption
      | with_reducible apply HubState.advance_ok
      | with_reducible exact Kept.refl _
      | with_reducible apply State.modHub_kept
      | with_reducible apply State.hubNewCycle_kept
      | with_reducible apply State.countCycle_kept
      | with_reducible apply State.modBus_kept
      | with_reducible apply State.acquire_kept
      | with_reducible apply State.enterSend_kept
      | split
      | intro _
      | with_reducible assumption
      | with_reducible refine LaneOk.mk_same ?_
      | with_reducible refine HubOk.mk_same ?_
      | with_reducible refine FrontEnd.gatesOk_same ?_
      | with_reducible refine BankState.gatesOk_same ?_
      | with_reducible refine Kept.mk_same ?_)
  try clear_value s0
  try dsimp only
  repeat' (first
    | with_reducible assumption
    | with_reducible apply HubState.advance_ok
    | with_reducible exact Kept.refl _
    | with_reducible apply State.modHub_kept
    | with_reducible apply State.hubNewCycle_kept
    | with_reducible apply State.countCycle_kept
    | with_reducible apply State.modBus_kept
    | with_reducible apply State.acquire_kept
    | with_reducible apply State.enterSend_kept
    | split
    | intro _
    | with_reducible assumption
    | with_reducible refine LaneOk.mk_same ?_
    | with_reducible refine HubOk.mk_same ?_
    | with_reducible refine FrontEnd.gatesOk_same ?_
    | with_reducible refine BankState.gatesOk_same ?_
    | with_reducible refine Kept.mk_same ?_)
theorem execIntegrationCycleEnd_kept (h : HubId) (s : State) : ∃ s1, execIntegrationCycleEnd h s = .next s1 ∧ Kept s s1 := by
  refine ⟨_, rfl, ?_⟩
  try dsimp only
  repeat' (first
    | with_reducible exact Kept.refl _
    | with_reducible apply State.integrationEnd_kept
    | with_reducible apply Kept.ite)
theorem State.coldStart_kept {a : State} (s : State) (j : Nat) (h0 : Kept a s) : Kept a (State.coldStart s j) := by
  refine h0.trans ?_
  unfold State.coldStart
  extract_lets k off g start c s1 src src_1
  have k_s1 : Kept s s1 := by
    unfold s1
    try dsimp only
    repeat' (first
      | with_reducible assumption
      | with_reducible apply HubState.newCycle_ok
      | with_reducible exact Kept.refl _
      | with_reducible apply State.modHubs_kept
      | with_reducible apply Kept.ite
      | split
      | intro _
      | with_reducible assumption
      | with_reducible refine LaneOk.mk_same ?_
      | with_reducible refine HubOk.mk_same ?_)
  try clear_value s1
  try dsimp only
  repeat' (first
    | with_reducible assumption
    | with_reducible apply HubState.newCycle_ok
    | with_reducible exact Kept.refl _
    | with_reducible apply State.modHubs_kept
    | with_reducible apply Kept.ite
    | split
    | intro _
    | with_reducible assumption
    | with_reducible refine LaneOk.mk_same ?_
    | with_reducible refine HubOk.mk_same ?_
    | with_reducible refine FrontEnd.gatesOk_same ?_
    | with_reducible refine BankState.gatesOk_same ?_
    | with_reducible refine Kept.mk_same ?_)
theorem execColdStartListenTimeout_kept (s : State) : ∃ s1, execColdStartListenTimeout s = .next s1 ∧ Kept s s1 := by
  refine ⟨_, rfl, ?_⟩
  try dsimp only
  repeat' (first
    | with_reducible exact Kept.refl _
    | with_reducible apply State.coldStart_kept
    | with_reducible apply Kept.ite
    | split)
theorem execCsBackoff_kept (s : State) : ∃ s1, execCsBackoff s = .next s1 ∧ Kept s s1 := by
  refine ⟨_, rfl, ?_⟩
  try dsimp only
  repeat' (first
    | with_reducible exact Kept.refl _
    | with_reducible apply State.modHubs_kept
    | with_reducible apply State.note_kept
    | with_reducible apply State.coldStart_kept
    | with_reducible apply Kept.ite
    | split
    | intro _
    | with_reducible assumption
    | with_reducible refine LaneOk.mk_same ?_
    | with_reducible refine HubOk.mk_same ?_
    | with_reducible refine FrontEnd.gatesOk_same ?_
    | with_reducible refine BankState.gatesOk_same ?_
    | with_reducible refine Kept.mk_same ?_)
theorem execCsBackoffExpiry_kept (s : State) : ∃ s1, execCsBackoffExpiry s = .next s1 ∧ Kept s s1 := by
  refine ⟨_, rfl, ?_⟩
  try dsimp only
  repeat' (first
    | with_reducible exact Kept.refl _
    | with_reducible apply State.modHubs_kept
    | with_reducible apply State.acquire_kept
    | with_reducible apply Kept.ite
    | split
    | intro _
    | with_reducible assumption
    | with_reducible refine LaneOk.mk_same ?_
    | with_reducible refine HubOk.mk_same ?_
    | with_reducible refine FrontEnd.gatesOk_same ?_
    | with_reducible refine BankState.gatesOk_same ?_
    | with_reducible refine Kept.mk_same ?_)
theorem execSpareSlotClaim_kept (s : State) : ∃ s1, execSpareSlotClaim s = .next s1 ∧ Kept s s1 := by
  refine ⟨_, rfl, ?_⟩
  try dsimp only
  repeat' (first
    | with_reducible exact Kept.refl _
    | with_reducible apply Kept.ite
    | split
    | with_reducible refine Kept.mk_same ?_)
theorem execClaimWaitExpiry_kept (s : State) : ∃ s1, execClaimWaitExpiry s = .next s1 ∧ Kept s s1 := by
  refine ⟨_, rfl, ?_⟩
  try dsimp only
  repeat' (first
    | with_reducible exact Kept.refl _
    | with_reducible apply Kept.ite
    | split
    | with_reducible refine Kept.mk_same ?_)
theorem State.transmit_kept {a : State} (s : State) (who : HubState → Bool) (frame : Bytes) (h0 : Kept a s) : Kept a (State.transmit s who frame) := by
  refine h0.trans ?_
  unfold State.transmit
  extract_lets s1 src
  have k_s1 : Kept s s1 := by
    unfold s1
    try dsimp only
    repeat' (first
      | with_reducible assumption
      | with_reducible exact Kept.refl _
      | with_reducible apply State.modHubs_kept
      | with_reducible apply Kept.ite
      | split
      | intro _
      | with_reducible assumption
      | with_reducible refine LaneOk.mk_same ?_
      | with_reducible refine HubOk.mk_same ?_)
  try clear_value s1
  try dsimp only
  repeat' (first
    | with_reducible assumption
    | with_reducible exact Kept.refl _
    | with_reducible apply State.modHubs_kept
    | with_reducible apply Kept.ite
    | split
    | intro _
    | with_reducible assumption
    | with_reducible refine LaneOk.mk_same ?_
    | with_reducible refine HubOk.mk_same ?_
    | with_reducible refine FrontEnd.gatesOk_same ?_
    | with_reducible refine BankState.gatesOk_same ?_
    | with_reducible refine Kept.mk_same ?_)
theorem State.sendData_kept {a : State} (s : State) (j : Nat) (h0 : Kept a s) : Kept a (State.sendData s j) := by
  refine h0.trans ?_
  unfold State.sendData
  extract_lets subs src s0 blk cyc base seg sb hdr s1 s2
  clear_value subs
  clear_value src
  have k_s0 : Kept s s0 := by
    unfold s0
    try dsimp only
    repeat' (first
      | with_reducible assumption
      | with_reducible exact Kept.refl _
      | with_reducible apply State.segSent_kept
      | with_reducible apply State.changeAnswer_kept
      | with_reducible apply State.transmit_kept
      | with_reducible apply Kept.ite
      | split
      | with_reducible refine Kept.mk_same ?_)
  try clear_value s0
  clear_value blk
  clear_value cyc
  clear_value base
  clear_value seg
  clear_value sb
  clear_value hdr
  have k_s1 : Kept s s1 := by
    unfold s1
    try dsimp only
    repeat' (first
      | with_reducible assumption
      | with_reducible exact Kept.refl _
      | with_reducible apply State.segSent_kept
      | with_reducible apply State.changeAnswer_kept
      | with_reducible apply State.transmit_kept)
  try clear_value s1
  have k_s2 : Kept s s2 := by
    unfold s2
    try dsimp only
    repeat' (first
      | with_reducible assumption
      | with_reducible exact Kept.refl _
      | with_reducible apply State.segSent_kept
      | with_reducible apply State.changeAnswer_kept
      | with_reducible apply State.transmit_kept
      | with_reducible apply Kept.ite
      | split)
  try clear_value s2
  try dsimp only
  repeat' (first
    | with_reducible assumption
    | with_reducible exact Kept.refl _
    | with_reducible apply State.segSent_kept
    | with_reducible apply State.changeAnswer_kept
    | with_reducible apply State.transmit_kept
    | with_reducible apply Kept.ite)
theorem State.sendCold_kept {a : State} (s : State) (j : Nat) (h0 : Kept a s) : Kept a (State.sendCold s j) := by
  refine h0.trans ?_
  unfold State.sendCold
  try dsimp only
  repeat' (first
    | with_reducible exact Kept.refl _
    | with_reducible apply State.transmit_kept
    | with_reducible refine Kept.mk_same ?_)
theorem execModuleSlotSend_kept (s : State) : ∃ s1, execModuleSlotSend s = .next s1 ∧ Kept s s1 := by
  refine ⟨_, rfl, ?_⟩
  try dsimp only
  repeat' (first
    | with_reducible exact Kept.refl _
    | with_reducible apply State.coldStart_kept
    | with_reducible apply State.sendData_kept
    | with_reducible apply State.sendCold_kept
    | with_reducible apply Kept.ite
    | split)

end Sys2Proof.Machine
end

