-- ==== Sys2Proof/Laws/KeptStart.lean ====
section
/-!
SUPPORT. What the operations and commands of Machine/Start.lean keep.
-/

namespace Sys2Proof.Machine

theorem execPowerGood_kept (s : State) : ∃ s1, execPowerGood s = .next s1 ∧ Kept s s1 := by
  refine ⟨_, rfl, ?_⟩
  try dsimp only
  repeat' (first
    | with_reducible exact Kept.refl _
    | with_reducible apply State.moduleReset_kept)
theorem execSupplyDropReset_kept (s : State) : ∃ s1, execSupplyDropReset s = .next s1 ∧ Kept s s1 := by
  refine ⟨_, rfl, ?_⟩
  try dsimp only
  repeat' (first
    | with_reducible exact Kept.refl _
    | with_reducible apply State.moduleReset_kept
    | with_reducible apply Kept.ite
    | split
    | with_reducible refine Kept.mk_same ?_)
theorem State.thawFailRec_kept {a : State} (s : State) (item : Nat) (h0 : Kept a s) : Kept a (State.thawFailRec s item) := by
  refine h0.trans ?_
  unfold State.thawFailRec
  try dsimp only
  repeat' (first
    | with_reducible exact Kept.refl _
    | with_reducible apply State.logRec_kept)
theorem State.trialFailed_kept {a : State} (s : State) (h0 : Kept a s) : Kept a (State.trialFailed s) := by
  refine h0.trans ?_
  unfold State.trialFailed
  extract_lets b n s1
  have k_s1 : Kept s s1 := by
    unfold s1
    try dsimp only
    repeat' (first
      | with_reducible assumption
      | with_reducible exact Kept.refl _
      | with_reducible apply State.note_kept
      | with_reducible apply State.enterMode_kept
      | with_reducible apply State.putBoot_kept)
  try clear_value s1
  try dsimp only
  repeat' (first
    | with_reducible assumption
    | with_reducible exact Kept.refl _
    | with_reducible apply State.note_kept
    | with_reducible apply State.enterMode_kept
    | with_reducible apply State.putBoot_kept
    | with_reducible apply State.fallback_kept
    | with_reducible apply State.moduleReset_kept
    | with_reducible apply Kept.ite)
theorem State.thawHalts_kept {a : State} (s : State) (item : Nat) (h0 : Kept a s) : Kept a (State.thawHalts s item) := by
  refine h0.trans ?_
  unfold State.thawHalts
  extract_lets s1
  have k_s1 : Kept s s1 := by
    unfold s1
    try dsimp only
    repeat' (first
      | with_reducible assumption
      | with_reducible exact Kept.refl _
      | with_reducible apply State.enterMode_kept
      | with_reducible apply State.thawFailRec_kept)
  try clear_value s1
  try dsimp only
  repeat' (first
    | with_reducible assumption
    | with_reducible exact Kept.refl _
    | with_reducible apply State.enterMode_kept
    | with_reducible apply State.thawFailRec_kept
    | with_reducible apply State.trialFailed_kept
    | with_reducible apply Kept.ite)
theorem execThawWatchdogHalt_kept (s : State) : ∃ s1, execThawWatchdogHalt s = .next s1 ∧ Kept s s1 := by
  refine ⟨_, rfl, ?_⟩
  try dsimp only
  repeat' (first
    | with_reducible exact Kept.refl _
    | with_reducible apply State.thawHalts_kept
    | with_reducible apply Kept.ite)
theorem State.thawBoot_kept {a : State} (s : State) (r : ThawResult) (h0 : Kept a s) : Kept a (State.thawBoot s r) := by
  refine h0.trans ?_
  unfold State.thawBoot
  extract_lets b k s1
  have k_s1 : Kept s s1 := by
    unfold s1
    try dsimp only
    repeat' (first
      | with_reducible assumption
      | with_reducible exact Kept.refl _
      | with_reducible apply State.putBoot_kept
      | with_reducible apply Kept.ite
      | split
      | with_reducible refine Kept.mk_same ?_)
  try clear_value s1
  try dsimp only
  repeat' (first
    | with_reducible assumption
    | with_reducible exact Kept.refl _
    | with_reducible apply State.putBoot_kept
    | with_reducible apply Kept.ite
    | split
    | with_reducible refine Kept.mk_same ?_)
theorem State.thawLoad_kept {a : State} (s : State) (r : ThawResult) (h0 : Kept a s) : Kept a (State.thawLoad s r) := by
  refine h0.trans ?_
  unfold State.thawLoad
  extract_lets s1 f good img node src src_1
  have k_s1 : Kept s s1 := by
    unfold s1
    try dsimp only
    repeat' (first
      | with_reducible assumption
      | with_reducible exact Kept.refl _
      | with_reducible apply State.wipeStation_kept
      | with_reducible apply Kept.ite)
  try clear_value s1
  try dsimp only
  repeat' (first
    | with_reducible assumption
    | with_reducible exact Kept.refl _
    | with_reducible apply State.wipeStation_kept
    | with_reducible apply Kept.ite
    | split
    | with_reducible refine Kept.mk_same ?_)
theorem State.thawTrial_kept {a : State} (s : State) (slot : Fin 2) (h0 : Kept a s) : Kept a (State.thawTrial s slot) := by
  refine h0.trans ?_
  unfold State.thawTrial
  extract_lets b img fmt sealed_ reads src src_1 s1 src_2
  have k_s1 : Kept s s1 := by
    unfold s1
    try dsimp only
    repeat' (first
      | with_reducible assumption
      | with_reducible exact Kept.refl _
      | with_reducible apply Kept.ite
      | split
      | with_reducible refine Kept.mk_same ?_)
  try clear_value s1
  try dsimp only
  repeat' (first
    | with_reducible assumption
    | with_reducible exact Kept.refl _
    | with_reducible apply Kept.ite
    | split
    | with_reducible refine Kept.mk_same ?_)
theorem LaneState.thawed_ok (L : LaneState) (now : Nat) (h : LaneOk L) : LaneOk (LaneState.thawed L now) := by
  unfold LaneState.thawed
  try dsimp only
  repeat' (first | with_reducible exact h | split | with_reducible refine LaneOk.mk_same ?_ | exact (rfl : Memory.wf [] = true))
theorem LaneState.failed_ok (L : LaneState) (h : LaneOk L) : LaneOk (LaneState.failed L) := by
  unfold LaneState.failed
  try dsimp only
  repeat' (first | with_reducible exact h | split | with_reducible refine LaneOk.mk_same ?_)
theorem State.thawGroup_kept {a : State} (s : State) (bad : Bool) (g : GroupId) (h0 : Kept a s) : Kept a (State.thawGroup s bad g) := by
  refine h0.trans ?_
  unfold State.thawGroup
  extract_lets s1
  have k_s1 : Kept s s1 := by
    unfold s1
    try dsimp only
    repeat' (first
      | with_reducible assumption
      | with_reducible exact Kept.refl _
      | with_reducible apply State.modFe_kept
      | with_reducible apply State.modGroup_kept
      | with_reducible apply Kept.ite
      | split
      | intro _
      | with_reducible assumption
      | with_reducible refine LaneOk.mk_same ?_
      | with_reducible refine HubOk.mk_same ?_
      | with_reducible refine FrontEnd.gatesOk_same ?_
      | with_reducible refine BankState.gatesOk_same ?_
      | with_reducible refine Kept.mk_same ?_)
  try clear_value s1
  try dsimp only
  repeat' (first
    | with_reducible assumption
    | with_reducible exact Kept.refl _
    | with_reducible apply State.modFe_kept
    | with_reducible apply State.modGroup_kept
    | with_reducible apply Kept.ite
    | split
    | intro _
    | with_reducible assumption
    | with_reducible refine LaneOk.mk_same ?_
    | with_reducible refine HubOk.mk_same ?_
    | with_reducible refine FrontEnd.gatesOk_same ?_
    | with_reducible refine BankState.gatesOk_same ?_
    | with_reducible refine Kept.mk_same ?_)
theorem State.thawCal_kept {a : State} (s : State) (x : ThawCal) (h0 : Kept a s) : Kept a (State.thawCal s x) := by
  refine h0.trans ?_
  unfold State.thawCal
  try dsimp only
  repeat' (first
    | with_reducible exact Kept.refl _
    | with_reducible apply State.laneDissent_kept
    | with_reducible apply State.adoptPair_kept
    | with_reducible apply State.rejectPair_kept
    | with_reducible apply Kept.ite
    | split)
theorem State.thawCals_kept {a : State} (s : State) (cs : List ThawCal) (h0 : Kept a s) : Kept a (State.thawCals s cs) := by
  refine h0.trans ?_
  unfold State.thawCals
  try dsimp only
  repeat' (first
    | with_reducible exact Kept.refl _
    | with_reducible apply State.startInPlace_kept
    | with_reducible apply State.thawCal_kept
    | with_reducible apply Kept.each
    | with_reducible apply Kept.ite
    | split
    | intro _)
theorem State.thawJoin_kept {a : State} (s : State) (h0 : Kept a s) : Kept a (State.thawJoin s) := by
  refine h0.trans ?_
  unfold State.thawJoin
  extract_lets p h s1 src src_1 src_2 src_3 src_4 s2
  have k_s1 : Kept s s1 := by
    unfold s1
    try dsimp only
    repeat' (first
      | with_reducible assumption
      | with_reducible exact Kept.refl _
      | with_reducible apply State.modHubs_kept
      | with_reducible apply State.enterMode_kept
      | with_reducible apply State.acquire_kept
      | with_reducible apply Kept.ite
      | split
      | intro _
      | with_reducible assumption
      | with_reducible refine LaneOk.mk_same ?_
      | with_reducible refine HubOk.mk_same ?_
      | with_reducible refine FrontEnd.gatesOk_same ?_
      | with_reducible refine BankState.gatesOk_same ?_
      | with_reducible refine Kept.mk_same ?_)
  try clear_value s1
  have k_s2 : Kept s s2 := by
    unfold s2
    try dsimp only
    repeat' (first
      | with_reducible assumption
      | with_reducible exact Kept.refl _
      | with_reducible apply State.modHubs_kept
      | with_reducible apply State.enterMode_kept
      | with_reducible apply State.acquire_kept
      | with_reducible apply Kept.ite
      | split
      | intro _
      | with_reducible assumption
      | with_reducible refine LaneOk.mk_same ?_
      | with_reducible refine HubOk.mk_same ?_
      | with_reducible refine FrontEnd.gatesOk_same ?_
      | with_reducible refine BankState.gatesOk_same ?_
      | with_reducible refine Kept.mk_same ?_)
  try clear_value s2
  try dsimp only
  repeat' (first
    | with_reducible assumption
    | with_reducible exact Kept.refl _
    | with_reducible apply State.modHubs_kept
    | with_reducible apply State.enterMode_kept
    | with_reducible apply State.acquire_kept
    | with_reducible apply Kept.ite
    | split
    | intro _
    | with_reducible assumption
    | with_reducible refine LaneOk.mk_same ?_
    | with_reducible refine HubOk.mk_same ?_
    | with_reducible refine FrontEnd.gatesOk_same ?_
    | with_reducible refine BankState.gatesOk_same ?_
    | with_reducible refine Kept.mk_same ?_)
theorem State.thawFault_kept {a : State} (s : State) (code : Nat) (items : List Nat) (h0 : Kept a s) : Kept a (State.thawFault s code items) := by
  refine h0.trans ?_
  unfold State.thawFault
  try dsimp only
  repeat' (first
    | with_reducible exact Kept.refl _
    | with_reducible apply State.modLane_kept
    | with_reducible apply State.fault_kept
    | with_reducible apply State.measLinkFault_kept
    | with_reducible apply Kept.ite
    | split
    | intro _
    | with_reducible assumption
    | with_reducible refine LaneOk.mk_same ?_
    | with_reducible refine HubOk.mk_same ?_
    | with_reducible refine FrontEnd.gatesOk_same ?_
    | with_reducible refine BankState.gatesOk_same ?_
    | with_reducible refine Kept.mk_same ?_)
theorem State.thawReports_kept {a : State} (s : State) (r : ThawResult) (good : LaneMask) (corrupt : Bool) (badSlot : Option (Fin 2)) (h0 : Kept a s) : Kept a (State.thawReports s r good corrupt badSlot) := by
  refine h0.trans ?_
  unfold State.thawReports
  extract_lets lost s1 s2 s3 s4 s5 s6 fell t src s7
  have k_s1 : Kept s s1 := by
    unfold s1
    try dsimp only
    repeat' (first
      | with_reducible assumption
      | with_reducible exact Kept.refl _
      | with_reducible apply State.note_kept
      | with_reducible apply State.raiseFault_kept
      | with_reducible apply State.putBoot_kept
      | with_reducible apply State.fallback_kept
      | with_reducible apply State.thawFailRec_kept
      | with_reducible apply State.thawCals_kept
      | with_reducible apply State.thawFault_kept
      | with_reducible apply Kept.each
      | with_reducible apply Kept.ite
      | split
      | intro _
      | with_reducible refine Kept.mk_same ?_)
  try clear_value s1
  have k_s2 : Kept s s2 := by
    unfold s2
    try dsimp only
    repeat' (first
      | with_reducible assumption
      | with_reducible exact Kept.refl _
      | with_reducible apply State.note_kept
      | with_reducible apply State.raiseFault_kept
      | with_reducible apply State.putBoot_kept
      | with_reducible apply State.fallback_kept
      | with_reducible apply State.thawFailRec_kept
      | with_reducible apply State.thawCals_kept
      | with_reducible apply State.thawFault_kept
      | with_reducible apply Kept.each
      | with_reducible apply Kept.ite
      | split
      | intro _
      | with_reducible refine Kept.mk_same ?_)
  try clear_value s2
  have k_s3 : Kept s s3 := by
    unfold s3
    try dsimp only
    repeat' (first
      | with_reducible assumption
      | with_reducible exact Kept.refl _
      | with_reducible apply State.note_kept
      | with_reducible apply State.raiseFault_kept
      | with_reducible apply State.putBoot_kept
      | with_reducible apply State.fallback_kept
      | with_reducible apply State.thawFailRec_kept
      | with_reducible apply State.thawCals_kept
      | with_reducible apply State.thawFault_kept
      | with_reducible apply Kept.each
      | with_reducible apply Kept.ite
      | split
      | intro _
      | with_reducible refine Kept.mk_same ?_)
  try clear_value s3
  have k_s4 : Kept s s4 := by
    unfold s4
    try dsimp only
    repeat' (first
      | with_reducible assumption
      | with_reducible exact Kept.refl _
      | with_reducible apply State.note_kept
      | with_reducible apply State.raiseFault_kept
      | with_reducible apply State.putBoot_kept
      | with_reducible apply State.fallback_kept
      | with_reducible apply State.thawFailRec_kept
      | with_reducible apply State.thawCals_kept
      | with_reducible apply State.thawFault_kept
      | with_reducible apply Kept.each
      | with_reducible apply Kept.ite
      | split
      | intro _
      | with_reducible refine Kept.mk_same ?_)
  try clear_value s4
  have k_s5 : Kept s s5 := by
    unfold s5
    try dsimp only
    repeat' (first
      | with_reducible assumption
      | with_reducible exact Kept.refl _
      | with_reducible apply State.note_kept
      | with_reducible apply State.raiseFault_kept
      | with_reducible apply State.putBoot_kept
      | with_reducible apply State.fallback_kept
      | with_reducible apply State.thawFailRec_kept
      | with_reducible apply State.thawCals_kept
      | with_reducible apply State.thawFault_kept
      | with_reducible apply Kept.each
      | with_reducible apply Kept.ite
      | split
      | intro _
      | with_reducible refine Kept.mk_same ?_)
  try clear_value s5
  have k_s6 : Kept s s6 := by
    unfold s6
    try dsimp only
    repeat' (first
      | with_reducible assumption
      | with_reducible exact Kept.refl _
      | with_reducible apply State.note_kept
      | with_reducible apply State.raiseFault_kept
      | with_reducible apply State.putBoot_kept
      | with_reducible apply State.fallback_kept
      | with_reducible apply State.thawFailRec_kept
      | with_reducible apply State.thawCals_kept
      | with_reducible apply State.thawFault_kept
      | with_reducible apply Kept.each
      | with_reducible apply Kept.ite
      | split
      | intro _
      | with_reducible refine Kept.mk_same ?_)
  try clear_value s6
  have k_t : Kept s t := by
    unfold t
    try dsimp only
    repeat' (first
      | with_reducible assumption
      | with_reducible exact Kept.refl _
      | with_reducible apply State.note_kept
      | with_reducible apply State.raiseFault_kept
      | with_reducible apply State.putBoot_kept
      | with_reducible apply State.fallback_kept
      | with_reducible apply State.thawFailRec_kept
      | with_reducible apply State.thawCals_kept
      | with_reducible apply State.thawFault_kept
      | with_reducible apply Kept.each
      | with_reducible apply Kept.ite
      | split
      | intro _
      | with_reducible refine Kept.mk_same ?_)
  try clear_value t
  have k_s7 : Kept s s7 := by
    unfold s7
    try dsimp only
    repeat' (first
      | with_reducible assumption
      | with_reducible exact Kept.refl _
      | with_reducible apply State.note_kept
      | with_reducible apply State.raiseFault_kept
      | with_reducible apply State.putBoot_kept
      | with_reducible apply State.fallback_kept
      | with_reducible apply State.thawFailRec_kept
      | with_reducible apply State.thawCals_kept
      | with_reducible apply State.thawFault_kept
      | with_reducible apply Kept.each
      | with_reducible apply Kept.ite
      | split
      | intro _
      | with_reducible refine Kept.mk_same ?_)
  try clear_value s7
  try dsimp only
  repeat' (first
    | with_reducible assumption
    | with_reducible exact Kept.refl _
    | with_reducible apply State.note_kept
    | with_reducible apply State.raiseFault_kept
    | with_reducible apply State.putBoot_kept
    | with_reducible apply State.fallback_kept
    | with_reducible apply State.thawFailRec_kept
    | with_reducible apply State.thawCals_kept
    | with_reducible apply State.thawFault_kept
    | with_reducible apply Kept.each
    | with_reducible apply Kept.ite
    | split
    | intro _
    | with_reducible refine Kept.mk_same ?_)
theorem State.thawEnds_kept {a : State} (s : State) (r : ThawResult) (slot : Fin 2) (h0 : Kept a s) : Kept a (State.thawEnds s r slot) := by
  refine h0.trans ?_
  unfold State.thawEnds
  extract_lets good b badSlot corrupt s1 s2 s3 s4 src src_1 s5 s6
  have k_s1 : Kept s s1 := by
    unfold s1
    try dsimp only
    repeat' (first
      | with_reducible assumption
      | with_reducible apply LaneState.failed_ok
      | with_reducible apply LaneState.thawed_ok
      | with_reducible exact Kept.refl _
      | with_reducible apply State.modLanes_kept
      | with_reducible apply State.modHubs_kept
      | with_reducible apply State.thawBoot_kept
      | with_reducible apply State.thawLoad_kept
      | with_reducible apply State.thawTrial_kept
      | with_reducible apply State.thawGroup_kept
      | with_reducible apply State.thawJoin_kept
      | with_reducible apply State.thawReports_kept
      | with_reducible apply Kept.each
      | with_reducible apply Kept.ite
      | split
      | intro _
      | with_reducible assumption
      | with_reducible refine LaneOk.mk_same ?_
      | with_reducible refine HubOk.mk_same ?_
      | with_reducible refine FrontEnd.gatesOk_same ?_
      | with_reducible refine BankState.gatesOk_same ?_
      | with_reducible refine Kept.mk_same ?_)
  try clear_value s1
  have k_s2 : Kept s s2 := by
    unfold s2
    try dsimp only
    repeat' (first
      | with_reducible assumption
      | with_reducible apply LaneState.failed_ok
      | with_reducible apply LaneState.thawed_ok
      | with_reducible exact Kept.refl _
      | with_reducible apply State.modLanes_kept
      | with_reducible apply State.modHubs_kept
      | with_reducible apply State.thawBoot_kept
      | with_reducible apply State.thawLoad_kept
      | with_reducible apply State.thawTrial_kept
      | with_reducible apply State.thawGroup_kept
      | with_reducible apply State.thawJoin_kept
      | with_reducible apply State.thawReports_kept
      | with_reducible apply Kept.each
      | with_reducible apply Kept.ite
      | split
      | intro _
      | with_reducible assumption
      | with_reducible refine LaneOk.mk_same ?_
      | with_reducible refine HubOk.mk_same ?_
      | with_reducible refine FrontEnd.gatesOk_same ?_
      | with_reducible refine BankState.gatesOk_same ?_
      | with_reducible refine Kept.mk_same ?_)
  try clear_value s2
  have k_s3 : Kept s s3 := by
    unfold s3
    try dsimp only
    repeat' (first
      | with_reducible assumption
      | with_reducible apply LaneState.failed_ok
      | with_reducible apply LaneState.thawed_ok
      | with_reducible exact Kept.refl _
      | with_reducible apply State.modLanes_kept
      | with_reducible apply State.modHubs_kept
      | with_reducible apply State.thawBoot_kept
      | with_reducible apply State.thawLoad_kept
      | with_reducible apply State.thawTrial_kept
      | with_reducible apply State.thawGroup_kept
      | with_reducible apply State.thawJoin_kept
      | with_reducible apply State.thawReports_kept
      | with_reducible apply Kept.each
      | with_reducible apply Kept.ite
      | split
      | intro _
      | with_reducible assumption
      | with_reducible refine LaneOk.mk_same ?_
      | with_reducible refine HubOk.mk_same ?_
      | with_reducible refine FrontEnd.gatesOk_same ?_
      | with_reducible refine BankState.gatesOk_same ?_
      | with_reducible refine Kept.mk_same ?_)
  try clear_value s3
  have k_s4 : Kept s s4 := by
    unfold s4
    try dsimp only
    repeat' (first
      | with_reducible assumption
      | with_reducible apply LaneState.failed_ok
      | with_reducible apply LaneState.thawed_ok
      | with_reducible exact Kept.refl _
      | with_reducible apply State.modLanes_kept
      | with_reducible apply State.modHubs_kept
      | with_reducible apply State.thawBoot_kept
      | with_reducible apply State.thawLoad_kept
      | with_reducible apply State.thawTrial_kept
      | with_reducible apply State.thawGroup_kept
      | with_reducible apply State.thawJoin_kept
      | with_reducible apply State.thawReports_kept
      | with_reducible apply Kept.each
      | with_reducible apply Kept.ite
      | split
      | intro _
      | with_reducible assumption
      | with_reducible refine LaneOk.mk_same ?_
      | with_reducible refine HubOk.mk_same ?_
      | with_reducible refine FrontEnd.gatesOk_same ?_
      | with_reducible refine BankState.gatesOk_same ?_
      | with_reducible refine Kept.mk_same ?_)
  try clear_value s4
  have k_s5 : Kept s s5 := by
    unfold s5
    try dsimp only
    repeat' (first
      | with_reducible assumption
      | with_reducible apply LaneState.failed_ok
      | with_reducible apply LaneState.thawed_ok
      | with_reducible exact Kept.refl _
      | with_reducible apply State.modLanes_kept
      | with_reducible apply State.modHubs_kept
      | with_reducible apply State.thawBoot_kept
      | with_reducible apply State.thawLoad_kept
      | with_reducible apply State.thawTrial_kept
      | with_reducible apply State.thawGroup_kept
      | with_reducible apply State.thawJoin_kept
      | with_reducible apply State.thawReports_kept
      | with_reducible apply Kept.each
      | with_reducible apply Kept.ite
      | split
      | intro _
      | with_reducible assumption
      | with_reducible refine LaneOk.mk_same ?_
      | with_reducible refine HubOk.mk_same ?_
      | with_reducible refine FrontEnd.gatesOk_same ?_
      | with_reducible refine BankState.gatesOk_same ?_
      | with_reducible refine Kept.mk_same ?_)
  try clear_value s5
  have k_s6 : Kept s s6 := by
    unfold s6
    try dsimp only
    repeat' (first
      | with_reducible assumption
      | with_reducible apply LaneState.failed_ok
      | with_reducible apply LaneState.thawed_ok
      | with_reducible exact Kept.refl _
      | with_reducible apply State.modLanes_kept
      | with_reducible apply State.modHubs_kept
      | with_reducible apply State.thawBoot_kept
      | with_reducible apply State.thawLoad_kept
      | with_reducible apply State.thawTrial_kept
      | with_reducible apply State.thawGroup_kept
      | with_reducible apply State.thawJoin_kept
      | with_reducible apply State.thawReports_kept
      | with_reducible apply Kept.each
      | with_reducible apply Kept.ite
      | split
      | intro _
      | with_reducible assumption
      | with_reducible refine LaneOk.mk_same ?_
      | with_reducible refine HubOk.mk_same ?_
      | with_reducible refine FrontEnd.gatesOk_same ?_
      | with_reducible refine BankState.gatesOk_same ?_
      | with_reducible refine Kept.mk_same ?_)
  try clear_value s6
  try dsimp only
  repeat' (first
    | with_reducible assumption
    | with_reducible apply LaneState.failed_ok
    | with_reducible apply LaneState.thawed_ok
    | with_reducible exact Kept.refl _
    | with_reducible apply State.modLanes_kept
    | with_reducible apply State.modHubs_kept
    | with_reducible apply State.thawBoot_kept
    | with_reducible apply State.thawLoad_kept
    | with_reducible apply State.thawTrial_kept
    | with_reducible apply State.thawGroup_kept
    | with_reducible apply State.thawJoin_kept
    | with_reducible apply State.thawReports_kept
    | with_reducible apply Kept.each
    | with_reducible apply Kept.ite
    | split
    | intro _
    | with_reducible assumption
    | with_reducible refine LaneOk.mk_same ?_
    | with_reducible refine HubOk.mk_same ?_
    | with_reducible refine FrontEnd.gatesOk_same ?_
    | with_reducible refine BankState.gatesOk_same ?_
    | with_reducible refine Kept.mk_same ?_)
theorem execThawDone_kept (r : ThawResult) (s : State) : ∃ s1, execThawDone r s = .next s1 ∧ Kept s s1 := by
  refine ⟨_, rfl, ?_⟩
  try dsimp only
  repeat' (first
    | with_reducible apply LaneState.failed_ok
    | with_reducible apply FrontEnd.supply_ok
    | with_reducible exact Kept.refl _
    | with_reducible apply State.modLanes_kept
    | with_reducible apply State.thawHalts_kept
    | with_reducible apply State.thawBoot_kept
    | with_reducible apply State.thawEnds_kept
    | with_reducible apply Kept.ite
    | split
    | intro _
    | with_reducible assumption
    | with_reducible refine LaneOk.mk_same ?_
    | with_reducible refine HubOk.mk_same ?_
    | with_reducible refine FrontEnd.gatesOk_same ?_
    | with_reducible refine BankState.gatesOk_same ?_
    | with_reducible refine Kept.mk_same ?_)

end Sys2Proof.Machine
end

