-- ==== Sys2Proof/Laws/Exec.lean ====
section
/-!
SUPPORT. Every command answers a next state, and keeps what Kept says; what passes on an empty queue keeps the memories, the queue,
the gates and the OTP.
-/

namespace Sys2Proof.Machine

/-- What every command does: it answers a next state, in which the time, the queue, the programmed cells and the canonical
form of the memories are kept. -/
theorem exec_kept (i : Instr) (s : State) : ∃ s1, exec i s = .next s1 ∧ Kept s s1 := by
  cases i with
  | powerGood => exact execPowerGood_kept s
  | supplyDropReset => exact execSupplyDropReset_kept s
  | thawDone r => exact execThawDone_kept r s
  | watchdog l => exact execWatchdog_kept l s
  | thawWatchdogHalt => exact execThawWatchdogHalt_kept s
  | actionPoint => exact execActionPoint_kept s
  | voteInstant => exact execVoteInstant_kept s
  | latchDriveRederive l => exact execLatchDriveRederive_kept l s
  | subImageFreeze => exact execSubImageFreeze_kept s
  | moduleSlotSend => exact execModuleSlotSend_kept s
  | clockCorrection h => exact execClockCorrection_kept h s
  | frameReceived h f => exact execFrameReceived_kept h f s
  | schedChanged => exact execSchedChanged_kept s
  | linkUp h => exact execLinkUp_kept h s
  | linkDown h => exact execLinkDown_kept h s
  | channelDown h => exact execChannelDown_kept h s
  | integrationCycleEnd h => exact execIntegrationCycleEnd_kept h s
  | coldStartListenTimeout => exact execColdStartListenTimeout_kept s
  | csBackoff => exact execCsBackoff_kept s
  | csBackoffExpiry => exact execCsBackoffExpiry_kept s
  | spareSlotClaim => exact execSpareSlotClaim_kept s
  | claimWaitExpiry => exact execClaimWaitExpiry_kept s
  | compareRecord receiver sender index rx => exact execCompareRecord_kept receiver sender index rx s
  | latchMerge => exact execLatchMerge_kept s
  | driveFrame d l rx hot => exact execDriveFrame_kept d l rx hot s
  | driveLossTimer d l => exact execDriveLossTimer_kept d l s
  | overlayWord => exact execOverlayWord_kept s
  | shortCircuitTrip c => exact execShortCircuitTrip_kept c s
  | overtempTrip c => exact execOvertempTrip_kept c s
  | sideFrame l g rx => exact execSideFrame_kept l g rx s
  | modulatorOverload g m => exact execModulatorOverload_kept g m s
  | fastSample l c => exact execFastSample_kept l c s
  | notProven l c => exact execNotProven_kept l c s
  | periodWindowClose g ambient => exact execPeriodWindowClose_kept g ambient s
  | auxConversionDone g raw => exact execAuxConversionDone_kept g raw s
  | trackerUnlockTimeout g => exact execTrackerUnlockTimeout_kept g s
  | feedAbsentDecision g => exact execFeedAbsentDecision_kept g s
  | feedFreqRange g => exact execFeedFreqRange_kept g s
  | auxStall g => exact execAuxStall_kept g s
  | groupOverload g => exact execGroupOverload_kept g s
  | injectedTrigger g src => exact execInjectedTrigger_kept g src s
  | refsSet g => exact execRefsSet_kept g s
  | refFaultTimeout g => exact execRefFaultTimeout_kept g s
  | frontEndControlWrite l g w => exact execFrontEndControlWrite_kept l g w s
  | chipStrobe g l rx => exact execChipStrobe_kept g l rx s
  | probeEnable c => exact execProbeEnable_kept c s
  | codePeriodEnd l => exact execCodePeriodEnd_kept l s
  | partialWindowEnd l => exact execPartialWindowEnd_kept l s
  | matrixRowSend => exact execMatrixRowSend_kept s
  | offTestStart c => exact execOffTestStart_kept c s
  | offTestGateCheck c => exact execOffTestGateCheck_kept c s
  | offTestEnd c => exact execOffTestEnd_kept c s
  | majorityTestStart c => exact execMajorityTestStart_kept c s
  | majorityTestEnd c => exact execMajorityTestEnd_kept c s
  | dimmingEdge c onPhase => exact execDimmingEdge_kept c onPhase s
  | proofOverdue i => exact execProofOverdue_kept i s
  | loanStepEnd g sp => exact execLoanStepEnd_kept g sp s
  | handoff g sp => exact execHandoff_kept g sp s
  | spareSelfCalibration g sp => exact execSpareSelfCalibration_kept g sp s
  | inPlaceCalibration g m => exact execInPlaceCalibration_kept g m s
  | compareNoSamples g sp => exact execCompareNoSamples_kept g sp s
  | calHandoff g sp => exact execCalHandoff_kept g sp s
  | calOverdue g m => exact execCalOverdue_kept g m s
  | teachChannelDone c => exact execTeachChannelDone_kept c s
  | commandStart l q => exact execCommandStart_kept l q s
  | responseVote num => exact execResponseVote_kept num s
  | laneDisagree num => exact execLaneDisagree_kept num s
  | responseRingRoom q => exact execResponseRingRoom_kept q s
  | spiTransaction h mosi cut => exact execSpiTransaction_kept h mosi cut s
  | registerWrite t => exact execRegisterWrite_kept t s
  | multiwordCapture h addr => exact execMultiwordCapture_kept h addr s
  | prodWrite h q v => exact execProdWrite_kept h q v s
  | hconsWrite h q v => exact execHconsWrite_kept h q v s
  | auxCtrlWrite h g v => exact execAuxCtrlWrite_kept h g v s
  | auxReqCal h g => exact execAuxReqCal_kept h g s
  | auxReqInj h g => exact execAuxReqInj_kept h g s
  | windowRefresh => exact execWindowRefresh_kept s
  | cvLoad l => exact execCvLoad_kept l s
  | cvFoldImp l => exact execCvFoldImp_kept l s
  | cvDma l => exact execCvDma_kept l s
  | cvDmaDone l eccAt => exact execCvDmaDone_kept l eccAt s
  | cvData8 l d => exact execCvData8_kept l d s
  | cvData32 l d => exact execCvData32_kept l d s
  | hubSwitchover => exact execHubSwitchover_kept s
  | qmemFault h a => exact execQmemFault_kept h a s
  | sramScrubError u correctable => exact execSramScrubError_kept u correctable s
  | coppiceDue => exact execCoppiceDue_kept s
  | coppiceStepEnd r => exact execCoppiceStepEnd_kept r s
  | lbistDone l r => exact execLbistDone_kept l r s
  | laneRestartDone l r => exact execLaneRestartDone_kept l r s
  | hubTestSlice h r => exact execHubTestSlice_kept h r s
  | degradedLimit => exact execDegradedLimit_kept s
  | revertEnvelopeJudge g => exact execRevertEnvelopeJudge_kept g s
  | revertFail g => exact execRevertFail_kept g s
  | gladeUnproven g => exact execGladeUnproven_kept g s
  | contactorJudge g k => exact execContactorJudge_kept g k s
  | bankSampleFrame l b rx => exact execBankSampleFrame_kept l b rx s
  | outputOverload p => exact execOutputOverload_kept p s
  | bankSupplyCondition b k => exact execBankSupplyCondition_kept b k s
  | fieldOffTestStart p => exact execFieldOffTestStart_kept p s
  | fieldOffTestEnd p => exact execFieldOffTestEnd_kept p s
  | fieldMajorityTest p => exact execFieldMajorityTest_kept p s
  | discrepancySample l p => exact execDiscrepancySample_kept l p s
  | wearDailyClose ok => exact execWearDailyClose_kept ok s
  | wearHourlyStore ok => exact execWearHourlyStore_kept ok s
  | ringOscMeasure i m => exact execRingOscMeasure_kept i m s
  | updateTick => exact execUpdateTick_kept s
  | updSessionTimeout => exact execUpdSessionTimeout_kept s
  | trialBootReset => exact execTrialBootReset_kept s
  | trialTimeExpiry => exact execTrialTimeExpiry_kept s
  | moduleResetAfterExec => exact execModuleResetAfterExec_kept s
  | captureTrigger => exact execCaptureTrigger_kept s
  | captureTimeout => exact execCaptureTimeout_kept s
  | lampTestEnd => exact execLampTestEnd_kept s
  | fieldTestEnd => exact execFieldTestEnd_kept s
  | proofTestTimeout => exact execProofTestTimeout_kept s
  | nop c => exact execNop_kept c s
  | ident c => exact execIdent_kept c s
  | status c => exact execStatus_kept c s
  | faultList c => exact execFaultList_kept c s
  | modeReq c => exact execModeReq_kept c s
  | lifecycleReq c => exact execLifecycleReq_kept c s
  | subscribe c => exact execSubscribe_kept c s
  | countsRead c => exact execCountsRead_kept c s
  | logRead c => exact execLogRead_kept c s
  | chipIdent c => exact execChipIdent_kept c s
  | resetArm c => exact execResetArm_kept c s
  | resetExec c => exact execResetExec_kept c s
  | paramRead c => exact execParamRead_kept c s
  | paramWrite c => exact execParamWrite_kept c s
  | paramRevert c => exact execParamRevert_kept c s
  | paramDefaults c => exact execParamDefaults_kept c s
  | sealShow c => exact execSealShow_kept c s
  | sealConfirm c => exact execSealConfirm_kept c s
  | lampRead c => exact execLampRead_kept c s
  | proveClear c => exact execProveClear_kept c s
  | latchClear c => exact execLatchClear_kept c s
  | teach c => exact execTeach_kept c s
  | lampTest c => exact execLampTest_kept c s
  | measRead c => exact execMeasRead_kept c s
  | auxRead c => exact execAuxRead_kept c s
  | capture c => exact execCapture_kept c s
  | captureStop c => exact execCaptureStop_kept c s
  | probeRead c => exact execProbeRead_kept c s
  | matrixStream c => exact execMatrixStream_kept c s
  | busRead c => exact execBusRead_kept c s
  | timeRead c => exact execTimeRead_kept c s
  | fieldRead c => exact execFieldRead_kept c s
  | fieldTest c => exact execFieldTest_kept c s
  | selftestRead c => exact execSelftestRead_kept c s
  | proofTest c => exact execProofTest_kept c s
  | coppiceNow c => exact execCoppiceNow_kept c s
  | wearRead c => exact execWearRead_kept c s
  | wearReport c => exact execWearReport_kept c s
  | wearReset c => exact execWearReset_kept c s
  | updOpen c => exact execUpdOpen_kept c s
  | updBlock c => exact execUpdBlock_kept c s
  | updVerify c => exact execUpdVerify_kept c s
  | updActivate c => exact execUpdActivate_kept c s
  | updConfirm c => exact execUpdConfirm_kept c s
  | updRollback c => exact execUpdRollback_kept c s
  | updClose c => exact execUpdClose_kept c s
  | updStatus c => exact execUpdStatus_kept c s
  | mirrorLinkFail => exact execMirrorLinkFail_kept s
  | outputThermalShutdown p => exact execOutputThermalShutdown_kept p s
  | lspecResponseTimeout num => exact execLspecResponseTimeout_kept num s
  | trialTimeStore => exact execTrialTimeStore_kept s
  | pumpStarvation d k => exact execPumpStarvation_kept d k s
  | modulatorOverloadEnd g m => exact execModulatorOverloadEnd_kept g m s
  | gateDriveSupply g ok => exact execGateDriveSupply_kept g ok s

/-- A tick keeps the memories canonical: it moves the time and the hubs' counts alone. -/
theorem State.tick_memOk {s : State} (h : s.memOk) : s.tick.memOk := by
  refine ⟨fun k => ?_, h.2⟩
  have := h.1 k
  simp only [State.tick, Fin.getElem_fin, Vector.getElem_map]
  split <;> exact this

/-- What passes on an empty queue is a tick, after which all is kept. -/
theorem State.pass_kept (s : State) : Kept s.tick s.pass := by
  unfold State.pass
  extract_lets s1 s2
  have h2 : Kept s1 s2 := Kept.each (fun t h => Kept.ite (State.hubStart_kept t h (Kept.refl _)) (Kept.refl _)) (Kept.refl _)
  exact Kept.ite (Kept.ite (State.evaluate_kept s2 h2) h2) (Kept.refl _)
theorem State.pass_memOk {s : State} (h : s.memOk) : s.pass.memOk := s.pass_kept.mem (State.tick_memOk h)
theorem State.pass_gatesOk {s : State} (h : s.gatesOk) : s.pass.gatesOk := s.pass_kept.gates h
theorem State.pass_now (s : State) : s.pass.now = s.now + 1 := s.pass_kept.now
theorem State.pass_pending (s : State) : s.pass.pending = s.pending := s.pass_kept.pending

end Sys2Proof.Machine
end

