-- ==== Sys2Proof/Laws/Start.lean ====
section
/-!
SUPPORT. What the operations of Machine/Start.lean do, and those they rest on: the module reset, entering HALT, the reports of a
Thaw and its last step, and the loss of a lane.
-/

namespace Sys2Proof.Machine

/-! ## The module reset and HALT -/

/-- A module reset leaves a machine that was restarted (R380). -/
theorem State.moduleReset_restarted (s : State) : s.restarted s.moduleReset := by
  unfold State.moduleReset
  extract_lets s0 s1
  have e0 : s0.now = s.now ∧ s0.fresh = s.fresh ∧ s0.pending = s.pending ∧ s0.otp = s.otp ∧ s0.wearStore = s.wearStore ∧
     s0.flash = { s.flash with log := s0.flash.log, slots := s0.flash.slots } ∧ s.flash.log <+: s0.flash.log ∧
         (s.upd.st ≠ .receiving → s0.flash.slots = s.flash.slots) := by
    unfold s0
    split
    · unfold State.closeSession
      dsimp only
      simp only [State.note_now, State.note_fresh, State.note_pending, State.note_otp, State.note_wearStore, State.note_flash]
      split
      · rename_i h
        refine ⟨rfl, rfl, rfl, rfl, rfl, rfl, List.prefix_append _ _, fun h2 => absurd h.1 h2⟩
      · exact ⟨rfl, rfl, rfl, rfl, rfl, rfl, List.prefix_append _ _, fun _ => rfl⟩
    · exact ⟨rfl, rfl, rfl, rfl, rfl, rfl, List.prefix_refl _, fun _ => rfl⟩
  obtain ⟨a, b, c, d, e, f, g, h⟩ := e0
  refine ⟨?_, ?_, ?_, ?_⟩
  · show ({ flash := _, otp := s0.otp, wearStore := s0.wearStore, pending := s0.pending, now := s0.now, fresh := s0.fresh,
              mode := { resetAt := s0.now } } : State) = _
    rw [a, b, c, d, e]; rfl
  · show ({ s0.flash with log := s0.flash.log ++ _ } : Flash) = _
    rw [f]; rfl
  · show _ <+: s0.flash.log ++ _
    exact g.trans (List.prefix_append _ _)
  · exact h
/-- The mode and the boot records after a module reset. -/
theorem State.moduleReset_mode (s : State) : s.moduleReset.mode = { State.reset.mode with resetAt := s.now } ∧
    s.moduleReset.flash.boot = s.flash.boot ∧
   s.moduleReset.flash.lifecycle = s.flash.lifecycle ∧ s.moduleReset.flash.bankActive = s.flash.bankActive := by
  obtain ⟨a, b, _⟩ := State.moduleReset_restarted s
  refine ⟨by rw [a], by rw [b], by rw [b], by rw [b]⟩
/-- The boot record in force after one was written is the one written (R516). -/
theorem Flash.putBoot_bootRec (f : Flash) (g : BootRec → BootRec) : (f.putBoot g).bootRec =
    { g f.bootRec with seq := f.bootRec.seq + 1, crcOk := true } := by
  have hp : ∃ i : Fin 2, f.putBoot g = { f with boot := f.boot.set i { g f.bootRec with seq := f.bootRec.seq + 1, crcOk := true } } ∧
      i = (if f.boot[0] = f.bootRec then 1 else 0) := ⟨_, rfl, rfl⟩
  obtain ⟨i, e, hi⟩ := hp
  rw [e]
  generalize hx : ({ g f.bootRec with seq := f.bootRec.seq + 1, crcOk := true } : BootRec) = x
  have hc : x.crcOk = true := by rw [← hx]
  have hs : x.seq = f.bootRec.seq + 1 := by rw [← hx]
  clear hx e
  have hb : f.bootRec = if f.boot[0].crcOk && (!f.boot[1].crcOk || decide (f.boot[1].seq ≤ f.boot[0].seq)) then f.boot[0] else f.boot[1] := rfl
  split at hi
  · rename_i h0
    subst hi
    have e0 : (f.boot.set ((1 : Fin 2) : Nat) x)[0] = f.boot[0] := by simp
    have e1 : (f.boot.set ((1 : Fin 2) : Nat) x)[1] = x := by simp
    unfold Flash.bootRec
    dsimp only
    rw [e0, e1, if_neg]
    rw [hc, hs, h0]; simp
  · rename_i h0
    subst hi
    have e0 : (f.boot.set ((0 : Fin 2) : Nat) x)[0] = x := by simp
    have e1 : (f.boot.set ((0 : Fin 2) : Nat) x)[1] = f.boot[1] := by simp
    have : f.bootRec = f.boot[1] := by
      rw [hb]; split
      · rename_i h1; rw [hb, if_pos h1] at h0; exact absurd rfl h0
      · rfl
    conv_lhs => unfold Flash.bootRec
    dsimp only
    rw [e0, e1, if_pos]
    rw [hc, hs, this]; simp
theorem Flash.bootRec_congr {f g : Flash} (h : f.boot = g.boot) : f.bootRec = g.bootRec := by
  unfold Flash.bootRec; rw [h]
theorem State.note_bootRec (s : State) (c : Nat) (i : List Nat) (d : Bytes) (l k : Nat) : (s.note c i d l k).flash.bootRec = s.flash.bootRec := by
  rw [State.note_flash]; rfl
/-- Entering HALT ends every drive stream (R376). -/
theorem State.haltEntry_rest (s : State) (k : Nat) : (s.haltEntry k).mode = s.mode ∧ (s.haltEntry k).mail = s.mail ∧
    ∀ l : LaneId, (s.haltEntry k).lanes[l].drive.running = false := by
  unfold State.haltEntry
  extract_lets s0 s1 s2 s3
  refine ⟨rfl, rfl, fun l => ?_⟩
  show s1.lanes[l].drive.running = false
  rw [show s1.lanes[l] = _ from State.modLanes_at _ _ _]
/-- Messages and events do not open the rings. -/
theorem State.post_opened (s : State) (q : RingId) (op : Nat) (p : Bytes) : (s.post q op p).mail.opened = s.mail.opened := by
  rw [((MailOnly.refl s).post q op p).path]
theorem State.note_opened (s : State) (c : Nat) (i : List Nat) (d : Bytes) (l k : Nat) :
    (s.note c i d l k).mail.opened = s.mail.opened := State.post_opened _ _ _ _
/-- HALT entered at the end of a Thaw that failed. -/
theorem State.enterMode_halt (s : State) (hm : s.mode.mode ≠ .commission) : (s.enterMode .halt 14).mode.mode = .halt ∧
    (s.enterMode .halt 14).mode.prev = s.mode.mode ∧
   (s.enterMode .halt 14).mode.cause = 14 ∧ (s.enterMode .halt 14).mail.opened = s.mail.opened ∧
       ∀ l : LaneId, (s.enterMode .halt 14).lanes[l].drive.running = false := by
  unfold State.enterMode
  extract_lets old ms s0 cop s1 d s2 s3 act s4
  have hs1 : s1.mode = { s.mode.superseded .halt with mode := .halt, prev := old, cause := 14 } ∧ s1.mail = s.mail := by
    unfold s1; split <;> exact ⟨rfl, rfl⟩
  have hs2 : s2 = s1.note EventCode.modeChange [] d := rfl
  have hs3 : s3 = s2.haltEntry 14 := rfl
  rw [if_neg (fun h => hm h.1), hs3]
  obtain ⟨a, b, c⟩ := State.haltEntry_rest s2 14
  rw [a, b, hs2, State.note_mode, State.note_opened, hs1.1, hs1.2]
  exact ⟨rfl, rfl, rfl, rfl, c⟩

/-! ## What a report leaves -/

/-- What the reports at the end of Thaw leave: mode, rings, hubs, the status of the lanes, references, parameters, and the faults that
stand, but for those that calibrations end. -/
structure ThawKept (u t : State) : Prop where
  mode : t.mode = u.mode
  opened : t.mail.opened = u.mail.opened
  act : t.mail.active = u.mail.active
  inReset : ∀ h : HubId, t.hubs[h].inReset = u.hubs[h].inReset
  integ : ∀ h : HubId, t.hubs[h].bus.integ = u.hubs[h].bus.integ
  st : ∀ l : LaneId, t.lanes[l].st = u.lanes[l].st
  refEn : ∀ g : GroupId, t.fe[g].refEn = u.fe[g].refEn
  refs : ∀ g : GroupId, t.fe[g].refs = u.fe[g].refs
  bootCount : t.flash.bootCount = u.flash.bootCount
  bankActive : t.flash.bankActive = u.flash.bankActive
  lastBank : t.flash.lastBank = u.flash.lastBank
  banks : t.flash.banks = u.flash.banks
  bus : t.bus = u.bus
  working : t.working = u.working
  run : t.upd.runSlot = u.upd.runSlot
  stands : ∀ code items, code ≠ FaultCode.calOverdue → code ≠ FaultCode.calLaneDisagree → u.stands code items = true → t.stands code items = true
/-- The coefficients in use are the same. -/
def CoefsKept (u t : State) : Prop := ∀ g : GroupId, t.groups[g].under.coef = u.groups[g].under.coef
theorem ThawKept.refl (u : State) : ThawKept u u := ⟨rfl, rfl, rfl, fun _ => rfl, fun _ => rfl, fun _ => rfl, fun _ => rfl, fun _ => rfl, rfl, rfl,
    rfl, rfl, rfl, rfl, rfl, fun _ _ _ _ h => h⟩
theorem ThawKept.trans {u v t : State} (a : ThawKept u v) (b : ThawKept v t) : ThawKept u t :=
  ⟨b.1.trans a.1, b.2.trans a.2, b.3.trans a.3, fun h => (b.4 h).trans (a.4 h), fun h => (b.5 h).trans (a.5 h), fun h => (b.6 h).trans (a.6 h),
   fun h => (b.7 h).trans (a.7 h), fun h => (b.8 h).trans (a.8 h), b.9.trans a.9, b.10.trans a.10, b.11.trans a.11, b.12.trans a.12, b.13.trans a.13,
       b.14.trans a.14,
   b.15.trans a.15, fun c i h1 h2 h => b.16 c i h1 h2 (a.16 c i h1 h2 h)⟩
theorem ThawKept.each {α : Type} {f : State → α → State} (xs : List α) (hf : ∀ u, ∀ x ∈ xs, ThawKept u (f u x)) (s : State) :
    ThawKept s (s.each xs f) := by
  unfold State.each
  induction xs generalizing s with
  | nil => exact ThawKept.refl s
  | cons x r ih => exact (hf s x (by simp)).trans (ih (fun u y hy => hf u y (by simp [hy])) (f s x))
theorem CoefsKept.each {α : Type} {f : State → α → State} (xs : List α) (hf : ∀ u, ∀ x ∈ xs, CoefsKept u (f u x)) (s : State) :
    CoefsKept s (s.each xs f) := by
  unfold State.each
  induction xs generalizing s with
  | nil => exact fun _ => rfl
  | cons x r ih => exact fun g => ((ih (fun u y hy => hf u y (by simp [hy])) (f s x)) g).trans (hf s x (by simp) g)
theorem State.event_thawed (s : State) (code kind lane : Nat) (sc d : Bytes) : ThawKept s (s.event code kind lane sc d) := by
  have q := s.event_hubs code kind lane sc d
  have p := ((MailOnly.event s code kind lane sc d).path)
  refine ⟨by simp, by rw [p]; rfl, by rw [p]; rfl, fun h => by rw [q h], fun h => by rw [q h], fun l => by simp, fun g => by simp, fun g => by simp,
      ?_, ?_, ?_, ?_, by simp, by simp, by simp, ?_⟩
  all_goals first | (rw [(MailOnly.event s code kind lane sc d).rest]; rfl) | skip
  intro c i _ _ h
  unfold State.stands at h ⊢
  rw [State.event_faults]; exact h
theorem State.note_thawed (s : State) (c : Nat) (i : List Nat) (d : Bytes) (l k : Nat) :
    ThawKept s (s.note c i d l k) := State.event_thawed _ _ _ _ _ _
theorem State.note_coefs (s : State) (c : Nat) (i : List Nat) (d : Bytes) (l k : Nat) : CoefsKept s (s.note c i d l k) := fun g => by simp
/-- A fault raised leaves those that stand. -/
theorem State.raiseFault_stands_other (s : State) (code : Nat) (i : List Nat) (m : LaneMask) (k : Nat) (c : Nat) (j : List Nat) (h : s.stands c j = true) :
    (s.raiseFault code i m k).stands c j = true := by
  unfold State.stands at h
  obtain ⟨f, hf, he⟩ := List.any_eq_true.mp h
  unfold State.raiseFault
  dsimp only
  split
  · unfold State.stands
    refine List.any_eq_true.mpr ⟨_, List.mem_map.mpr ⟨f, hf, rfl⟩, ?_⟩
    split <;> exact he
  · unfold State.stands
    rw [State.event_faults]
    exact List.any_eq_true.mpr ⟨f, List.mem_append_left _ hf, he⟩
theorem State.raiseFault_thawed (s : State) (code : Nat) (i : List Nat) (m : LaneMask) (k : Nat) : ThawKept s (s.raiseFault code i m k) := by
  have q := s.raiseFault_hubs code i m k
  have p : (s.raiseFault code i m k).mail.opened = s.mail.opened ∧ (s.raiseFault code i m k).mail.active = s.mail.active ∧ 
     (s.raiseFault code i m k).flash.bootCount = s.flash.bootCount ∧ (s.raiseFault code i m k).flash.bankActive = s.flash.bankActive ∧
         (s.raiseFault code i m k).flash.lastBank = s.flash.lastBank ∧
     (s.raiseFault code i m k).flash.banks = s.flash.banks := by
    unfold State.raiseFault
    dsimp only
    split
    · exact ⟨rfl, rfl, rfl, rfl, rfl, rfl⟩
    · refine ⟨(State.event_thawed _ _ _ _ _ _).opened, (State.event_thawed _ _ _ _ _ _).act, (State.event_thawed _ _ _ _ _ _).bootCount,
        (State.event_thawed _ _ _ _ _ _).bankActive, (State.event_thawed _ _ _ _ _ _).lastBank, (State.event_thawed _ _ _ _ _ _).banks⟩
  refine ⟨by simp, p.1, p.2.1, fun h => by rw [q h], fun h => by rw [q h], fun l => ?_, fun g => by simp, fun g => by simp, p.2.2.1, p.2.2.2.1,
      p.2.2.2.2.1, p.2.2.2.2.2, by simp, by simp, by simp, ?_⟩
  · obtain ⟨w, e⟩ := s.raiseFault_lane code i m k l
    rw [e]
  · intro c j _ _ h
    exact State.raiseFault_stands_other s code i m k c j h
theorem State.raiseFault_coefs (s : State) (code : Nat) (i : List Nat) (m : LaneMask) (k : Nat) :
    CoefsKept s (s.raiseFault code i m k) := fun g => by simp
/-- A fault withdrawn leaves those of other codes. -/
theorem State.withdrawFault_stands (s : State) (code : Nat) (i : List Nat) (m : LaneMask) (c : Nat) (j : List Nat) (hne : c ≠ code) (h : s.stands c j = true) :
    (s.withdrawFault code i m).stands c j = true := by
  unfold State.withdrawFault
  dsimp only
  have gen : ∀ (xs : List FaultRec) (u : State), u.stands c j = true → (u.each xs fun t f => t.event f.code 2 3 f.scope).stands c j = true := by
    intro xs
    unfold State.each
    induction xs with
    | nil => exact fun u h => h
    | cons x xs ih =>
      intro u h
      refine ih _ ?_
      unfold State.stands at h ⊢
      rw [State.event_faults]; exact h
  refine gen _ _ ?_
  unfold State.stands at h ⊢
  obtain ⟨f, hf, he⟩ := List.any_eq_true.mp h
  have hfc : f.code = c := by
    rw [Bool.and_eq_true] at he; simpa using he.1
  have hn : (f.code == code) = false := by rw [hfc]; simp [hne]
  refine List.any_eq_true.mpr ⟨_, List.mem_map.mpr ⟨f, List.mem_filter.mpr ⟨hf, by simp [hn]⟩, rfl⟩, ?_⟩
  split <;> exact he
theorem State.withdrawFault_thawed (s : State) (code : Nat) (i : List Nat) (m : LaneMask) (hc : code = FaultCode.calOverdue ∨ code = FaultCode.calLaneDisagree) :
    ThawKept s (s.withdrawFault code i m) := by
  unfold State.withdrawFault
  dsimp only
  refine ThawKept.trans ?_ (ThawKept.each _ (fun u x _ => State.event_thawed u _ _ _ _ _) _)
  refine ⟨rfl, rfl, rfl, fun _ => rfl, fun _ => rfl, fun _ => rfl, fun _ => rfl, fun _ => rfl, rfl, rfl, rfl, rfl, rfl, rfl, rfl, ?_⟩
  intro c j h1 h2 h
  unfold State.stands at h ⊢
  obtain ⟨f, hf, he⟩ := List.any_eq_true.mp h
  have hfc : f.code = c := by
    rw [Bool.and_eq_true] at he; simpa using he.1
  have hne : (f.code == code) = false := by
    rcases hc with hc | hc <;> rw [hfc, hc] <;> simp [h1, h2]
  refine List.any_eq_true.mpr ⟨_, List.mem_map.mpr ⟨f, List.mem_filter.mpr ⟨hf, by simp [hne]⟩, rfl⟩, ?_⟩
  split <;> exact he
theorem State.trigger_thawed (s : State) (m : LaneMask) (g : GroupId) (k : Bool) : ThawKept s (s.trigger m g k) := by
  refine ⟨rfl, rfl, rfl, fun _ => rfl, fun _ => rfl, fun l => ?_, fun _ => rfl, fun _ => rfl, rfl, rfl, rfl, rfl, rfl, rfl, rfl, fun _ _ _ _ h => h⟩
  unfold State.trigger
  rw [State.modLanes_at]
  split <;> rfl
/-- A fault that does not stand is raised, with its reaction. -/
theorem State.fault_new (s : State) (code : Nat) (i : List Nat) (m : LaneMask) (h : s.stands code i = false) :
    s.fault code i m = (s.raiseFault code i m).reaction code i m := by
  unfold State.fault
  dsimp only
  rw [if_neg]
  intro hk
  unfold State.stands at h
  obtain ⟨f, hf, he⟩ := List.any_eq_true.mp hk
  rw [Bool.and_eq_true] at he
  have := List.any_eq_true (p := fun f : FaultRec => f.code == code && f.scope.take 3 == (scope i).take 3) |>.mpr ⟨f, hf, he.1⟩
  rw [h] at this
  exact nomatch this
/-- REF_FAULT, CAL_LANE_DISAGREE and MOD_FAULT react on the latches alone, or not at all. -/
theorem State.fault_thawed (s : State) (code : Nat) (items : List Nat) (m : LaneMask)
    (hc : code = FaultCode.refFault ∨ code = FaultCode.calLaneDisagree ∨ code = FaultCode.modFault) :
   ThawKept s (s.fault code items m) ∧ CoefsKept s (s.fault code items m) := by
  unfold State.fault
  dsimp only
  split
  · exact ⟨ThawKept.refl s, fun _ => rfl⟩
  · have h1 := State.raiseFault_thawed s code items m 0xFF
    have h2 := State.raiseFault_coefs s code items m 0xFF
    generalize s.raiseFault code items m 0xFF = u at h1 h2
    have h3 : ThawKept u (u.reaction code items m) ∧ CoefsKept u (u.reaction code items m) := by
      rcases hc with hc | hc | hc
      · subst hc
        have e : u.reaction FaultCode.refFault items m = u.triggerAt m (itemGroup items 0) true := rfl
        rw [e]
        unfold State.triggerAt
        split
        · exact ⟨State.trigger_thawed _ _ _ _, fun _ => rfl⟩
        · exact ⟨ThawKept.refl u, fun _ => rfl⟩
      · subst hc
        have e : u.reaction FaultCode.calLaneDisagree items m = u := rfl
        rw [e]
        exact ⟨ThawKept.refl u, fun _ => rfl⟩
      · subst hc
        have e : u.reaction FaultCode.modFault items m = u := rfl
        rw [e]
        exact ⟨ThawKept.refl u, fun _ => rfl⟩
    exact ⟨h1.trans h3.1, fun g => (h3.2 g).trans (h2 g)⟩
theorem State.modGroup_thawed (s : State) (g : GroupId) (f : GroupState → GroupState) : ThawKept s (s.modGroup g f) :=
  ⟨rfl, rfl, rfl, fun _ => rfl, fun _ => rfl, fun _ => rfl, fun _ => rfl, fun _ => rfl, rfl, rfl, rfl, rfl, rfl, rfl, rfl, fun _ _ _ _ h => h⟩
theorem State.modGroup_coefs (s : State) (g : GroupId) (f : GroupState → GroupState) (h1 : ∀ x, (f x).under.coef = x.under.coef) :
    CoefsKept s (s.modGroup g f) := by
  intro j
  by_cases h : j = g
  · subst h; rw [State.modGroup_same, h1]
  · rw [State.modGroup_other _ _ _ _ h]
theorem State.modFe_thawed (s : State) (g : GroupId) (f : FrontEnd → FrontEnd) (h1 : ∀ x, (f x).refEn = x.refEn) (h2 : ∀ x, (f x).refs = x.refs) :
    ThawKept s (s.modFe g f) := by
  refine ⟨rfl, rfl, rfl, fun _ => rfl, fun _ => rfl, fun _ => rfl, ?_, ?_, rfl, rfl, rfl, rfl, rfl, rfl, rfl, fun _ _ _ _ h => h⟩
  · intro j
    by_cases h : j = g
    · subst h; rw [State.modFe_same, h1]
    · rw [State.modFe_other _ _ _ _ h]
  · intro j
    by_cases h : j = g
    · subst h; rw [State.modFe_same, h2]
    · rw [State.modFe_other _ _ _ _ h]
theorem State.logRec_thawed (s : State) (r : Bytes) : ThawKept s (s.logRec r) :=
  ⟨rfl, rfl, rfl, fun _ => rfl, fun _ => rfl, fun _ => rfl, fun _ => rfl, fun _ => rfl, rfl, rfl, rfl, rfl, rfl, rfl, rfl, fun _ _ _ _ h => h⟩

/-! ## The end of Thaw -/

/-- A calibration made in Thaw (R128). -/
theorem State.thawCal_thawed (s : State) (x : ThawCal) : ThawKept s (s.thawCal x) := by
  have hrej (u : State) : ThawKept u (u.rejectPair x.group x.mod) := by
    unfold State.rejectPair
    dsimp only
    have h1 : ThawKept u ((u.modUnder x.group fun y => { y with rejects := y.rejects.set x.mod (u.groups[x.group].under.rejects[x.mod] + 1) }).note
        EventCode.calRange [x.group.val, x.mod.val]) :=
      (State.modGroup_thawed _ _ _).trans (State.note_thawed _ _ _ _ _ _)
    split
    · refine h1.trans ?_
      unfold State.convict
      exact (State.modGroup_thawed _ _ _).trans (State.fault_thawed _ _ _ _ (.inr (.inr rfl))).1
    · exact h1
  unfold State.thawCal
  split
  · rename_i k hk
    dsimp only
    have hd : ThawKept s (s.laneDissent x.group (pairDissent x.meas s.voteMask k) (s.voteMask &&& ~~~(pairDissent x.meas s.voteMask k))) := by
      unfold State.laneDissent
      refine ThawKept.each _ (fun u l _ => ?_) _
      split
      · exact (State.fault_thawed _ _ _ _ (.inr (.inl rfl))).1
      · split
        · exact State.withdrawFault_thawed _ _ _ _ (.inr rfl)
        · exact ThawKept.refl _
    generalize s.laneDissent x.group (pairDissent x.meas s.voteMask k) (s.voteMask &&& ~~~(pairDissent x.meas s.voteMask k)) = v at hd
    refine hd.trans ?_
    have hr (b : Bool) : ThawKept v (if b then v.adoptPair x.group x.mod k else v.rejectPair x.group x.mod) := by
      cases b
      · exact hrej v
      · exact (State.modGroup_thawed v _ _).trans (State.withdrawFault_thawed _ _ _ _ (.inl rfl))
    exact hr _
  · exact hrej s
theorem State.startInPlace_thawed (s : State) (g : GroupId) : ThawKept s (s.startInPlace g) ∧ CoefsKept s (s.startInPlace g) := by
  unfold State.startInPlace
  split
  · exact ⟨ThawKept.refl s, fun _ => rfl⟩
  · constructor
    · exact (State.modGroup_thawed s g _).trans (State.modFe_thawed _ _ _ (fun _ => rfl) (fun _ => rfl))
    · exact State.modGroup_coefs s g (fun G => { G with under := { G.under with runs := Vector.replicate 20 (some { since := s.now, zeroAt := s.now }) } })
        (fun _ => rfl)
theorem State.thawCals_thawed (s : State) (cs : List ThawCal) : ThawKept s (s.thawCals cs) ∧ (cs = [] → CoefsKept s (s.thawCals cs)) := by
  have hs (u : State) (g : GroupId) : ThawKept u (if u.fe[g].refs then u.startInPlace g else u) ∧
      CoefsKept u (if u.fe[g].refs then u.startInPlace g else u) := by
    split
    · exact State.startInPlace_thawed u g
    · exact ⟨ThawKept.refl u, fun _ => rfl⟩
  unfold State.thawCals
  refine ⟨(ThawKept.each cs (fun u x _ => State.thawCal_thawed u x) s).trans (ThawKept.each _ (fun u g _ => (hs u g).1) _), ?_⟩
  intro h
  subst h
  exact CoefsKept.each _ (fun u g _ => (hs u g).2) s
/-- The reports of a Thaw: a lane that did not pass is lost, and a bank that failed its seal is corrupt. -/
theorem State.thawReports_thawed (s : State) (r : ThawResult) (good : LaneMask) (corrupt : Bool) (bs : Option (Fin 2)) (hg : ∀ x ∈ r.groupFaults,
    x.1 = FaultCode.refFault) :
   ThawKept s (s.thawReports r good corrupt bs) ∧ (r.cals = [] → CoefsKept s (s.thawReports r good corrupt bs)) ∧
   (∀ l : LaneId, has good l = false → (s.thawReports r good corrupt bs).stands FaultCode.laneLost [l.val] = true) ∧
   (corrupt = true → (s.thawReports r good corrupt bs).stands FaultCode.paramCorrupt [s.flash.lastBank.val] = true) := by
  unfold State.thawReports
  extract_lets lost s1 s2 s3 s4 s5 s6 fell t0 u0 s7
  let P (u t : State) : Prop := ThawKept u t ∧ CoefsKept u t
  have pt {u v t : State} (a : P u v) (b : P v t) : P u t := ⟨a.1.trans b.1, fun g => (b.2 g).trans (a.2 g)⟩
  have pe {α : Type} (f : State → α → State) (xs : List α) (hf : ∀ u, ∀ x ∈ xs, P u (f u x)) (u : State) : P u (u.each xs f) :=
    ⟨ThawKept.each xs (fun u x h => (hf u x h).1) u, CoefsKept.each xs (fun u x h => (hf u x h).2) u⟩
  have pr (u : State) : P u u := ⟨ThawKept.refl u, fun _ => rfl⟩
  have praise (u : State) (c : Nat) (i : List Nat) (m : LaneMask) : P u (u.raiseFault c i m) := ⟨State.raiseFault_thawed _ _ _ _ _,
      State.raiseFault_coefs _ _ _ _ _⟩
  have plog (u : State) (x : Nat) : P u (u.thawFailRec x) := ⟨State.logRec_thawed _ _, fun _ => rfl⟩
  have pnote (u : State) (c : Nat) (i : List Nat) (d : Bytes) : P u (u.note c i d) := ⟨State.note_thawed _ _ _ _ _ _, State.note_coefs _ _ _ _ _ _⟩
  have hone (u : State) (l : LaneId) : P u (((if has (u.thawBistL r) l then u else u.raiseFault FaultCode.lbistFail [l.val] u.voteMask).raiseFault
      FaultCode.laneLost [l.val] u.voteMask).thawFailRec l.val) := by
    have h0 : P u (if has (u.thawBistL r) l then u else u.raiseFault FaultCode.lbistFail [l.val] u.voteMask) := by
      split
      · exact pr u
      · exact praise _ _ _ _
    exact pt (pt h0 (praise _ _ _ _)) (plog _ _)
  have h1 : P s s1 := pe _ _ (fun u l _ => hone u l) s
  have h1s : ∀ l : LaneId, has good l = false → s1.stands FaultCode.laneLost [l.val] = true := by
    intro l hl
    have hm : l ∈ lost := by
      refine List.mem_filter.mpr ⟨(by decide : ∀ l : LaneId, l ∈ allLanes) l, by rw [hl]; rfl⟩
    have gen : ∀ (xs : List LaneId) (u : State), (l ∈ xs ∨ u.stands FaultCode.laneLost [l.val] = true) →
        (u.each xs fun u l => ((if has (u.thawBistL r) l then u else u.raiseFault FaultCode.lbistFail [l.val] u.voteMask).raiseFault
          FaultCode.laneLost [l.val] u.voteMask).thawFailRec l.val).stands FaultCode.laneLost [l.val] = true := by
      intro xs
      induction xs with
      | nil =>
        intro u h
        rcases h with h | h
        · exact nomatch h
        · exact h
      | cons x xs ih =>
        intro u h
        refine ih _ ?_
        rcases h with h | h
        · rcases List.mem_cons.mp h with h | h
          · right
            subst h
            exact State.raiseFault_stands _ _ _ _ _
          · exact .inl h
        · right
          exact (hone u x).1.stands _ _ (by decide) (by decide) h
    exact gen lost s (.inl hm)
  clear_value s1
  have h2 : P s1 s2 := pe _ _ (fun u l _ => by
    split
    · exact pr u
    · exact praise _ _ _ _) s1
  clear_value s2
  have h3 : P s2 s3 := pe _ _ (fun u h _ => plog _ _) s2
  clear_value s3
  have h4 : P s3 s4 := by
    unfold s4; split
    · exact pr _
    · exact praise _ _ _ _
  clear_value s4
  have h5 : P s4 s5 := by
    unfold s5; split
    · exact praise _ _ _ _
    · exact pr _
  have h04 : P s s4 := pt h1 (pt h2 (pt h3 h4))
  have h5c : corrupt = true → s5.stands FaultCode.paramCorrupt [s.flash.lastBank.val] = true := by
    intro hc
    unfold s5
    rw [if_pos hc, ← h04.1.lastBank]
    exact State.raiseFault_stands _ _ _ _ _
  clear_value s5
  have h6 : P s5 s6 := by
    unfold s6; split
    · exact pnote _ _ _ _
    · exact pr _
  clear_value s6
  have h7 : P s6 s7 := by
    unfold s7; split
    · exact pr _
    · refine pt ?_ (pnote _ _ _ _)
      exact ⟨⟨rfl, rfl, rfl, fun _ => rfl, fun _ => rfl, fun _ => rfl, fun _ => rfl, fun _ => rfl, rfl, rfl, rfl, rfl, rfl, rfl, rfl,
          fun _ _ _ _ h => h⟩, fun _ => rfl⟩
  clear_value s7
  have h8 : P s7 (s7.each r.groupFaults fun s x => s.thawFault x.1 x.2) := pe _ _ (fun u x hx => by
    have hc := hg x hx
    have e : u.thawFault x.1 x.2 = u.fault x.1 x.2 u.voteMask := by
      unfold State.thawFault
      dsimp only
      split
      · rw [if_neg (by rw [hc]; decide)]
      · rfl
    rw [e]
    exact State.fault_thawed u x.1 x.2 _ (.inl hc)) s7
  have h18 : P s1 (s7.each r.groupFaults fun s x => s.thawFault x.1 x.2) := pt h2 (pt h3 (pt h4 (pt h5 (pt h6 (pt h7 h8)))))
  have h58 : P s5 (s7.each r.groupFaults fun s x => s.thawFault x.1 x.2) := pt h6 (pt h7 h8)
  obtain ⟨c1, c2⟩ := State.thawCals_thawed (s7.each r.groupFaults fun s x => s.thawFault x.1 x.2) r.cals
  refine ⟨(h1.1.trans h18.1).trans c1, fun h g => ((c2 h) g).trans ((h18.2 g).trans (h1.2 g)), fun l hl => ?_, fun hc => ?_⟩
  · exact c1.stands _ _ (by decide) (by decide) (h18.1.stands _ _ (by decide) (by decide) (h1s l hl))
  · exact c1.stands _ _ (by decide) (by decide) (h58.1.stands _ _ (by decide) (by decide) (h5c hc))
/-- A group after steps 5 and 6, and the others. -/
theorem State.thawGroup_at (s : State) (bad : Bool) (g : GroupId) :
   (s.thawGroup bad g).fe[g].refEn = true ∧ (s.thawGroup bad g).fe[g].refs = !bad ∧
       ((s.thawGroup bad g).groups[g]).under.coef = s.otp.factory[g].map (fun k => if calInRange k then k else {}) := by
  unfold State.thawGroup
  dsimp only
  refine ⟨?_, ?_, ?_⟩
  · rw [State.modGroup_fe, State.modFe_same]
  · rw [State.modGroup_fe, State.modFe_same]
  · rw [State.modGroup_same]
theorem State.thawGroup_other (s : State) (bad : Bool) (g j : GroupId) (h : j ≠ g) : (s.thawGroup bad g).fe[j] = s.fe[j] ∧
    (s.thawGroup bad g).groups[j] = s.groups[j] := by
  unfold State.thawGroup
  dsimp only
  constructor
  · rw [State.modGroup_fe, State.modFe_other _ _ _ _ h]
  · rw [State.modGroup_other _ _ _ _ h, State.modFe_groups]
theorem State.thawGroups_rest (f : GroupId → Bool) (xs : List GroupId) (s : State) :
   let t := s.each xs fun s g => s.thawGroup (f g) g
   t = { s with fe := t.fe, groups := t.groups } := by
  unfold State.each
  dsimp only
  induction xs generalizing s with
  | nil => rfl
  | cons x xs ih =>
    have := ih (s.thawGroup (f x) x)
    rw [List.foldl_cons, this]
    rfl
theorem State.thawGroups_at (f : GroupId → Bool) (xs : List GroupId) (s : State) (g : GroupId) 
    (h : g ∈ xs ∨ (s.fe[g].refEn = true ∧ s.fe[g].refs = !(f g) ∧
        (s.groups[g]).under.coef = s.otp.factory[g].map (fun k => if calInRange k then k else {}))) :
   let t := s.each xs fun s g => s.thawGroup (f g) g
   t.fe[g].refEn = true ∧ t.fe[g].refs = !(f g) ∧ (t.groups[g]).under.coef = s.otp.factory[g].map (fun k => if calInRange k then k else {}) := by
  unfold State.each
  dsimp only
  induction xs generalizing s with
  | nil =>
    rcases h with h | h
    · exact nomatch h
    · exact h
  | cons x xs ih =>
    rw [List.foldl_cons]
    refine ih (s.thawGroup (f x) x) ?_
    by_cases hx : g = x
    · subst hx; right; exact State.thawGroup_at s (f g) g
    · rcases h with h | h
      · rcases List.mem_cons.mp h with h | h
        · exact absurd h hx
        · exact .inl h
      · right
        obtain ⟨a, b⟩ := State.thawGroup_other s (f x) x g hx
        rw [a, b]; exact h
/-- JOIN entered from Thaw is noted, and changes the mode. -/
theorem State.enterMode_join (s : State) (hm : s.mode.mode = .thaw) :
    let t := s.enterMode .join 1
    t.mode = { s.mode.superseded .join with mode := .join, prev := .thaw, cause := 1 } ∧ ThawKept { s with mode := t.mode } t ∧
    t.lanes = s.lanes ∧ t.fe = s.fe ∧ t.groups = s.groups ∧ t.flash = { s.flash with log := t.flash.log } := by
  dsimp only
  have e : s.enterMode .join 1 =
      ({ s with mode := { s.mode.superseded .join with mode := .join, prev := .thaw, cause := 1 } } : State).note EventCode.modeChange []
        (toLe 1 s.mode.mode.code ++ toLe 1 Mode.join.code ++ toLe 1 1) := by
    unfold State.enterMode
    rw [hm]
    rfl
  rw [e]
  generalize toLe 1 s.mode.mode.code ++ toLe 1 Mode.join.code ++ toLe 1 1 = d
  generalize ({ s.mode.superseded .join with mode := .join, prev := .thaw, cause := 1 } : ModeState) = m
  rw [State.note_mode, State.note_lanes, State.note_fe, State.note_groups, State.note_flash]
  exact ⟨rfl, State.note_thawed _ _ _ _ _ _, rfl, rfl, rfl, rfl⟩
/-- Step 9 enters JOIN with the rings open at the first hub out of reset. -/
theorem State.thawJoin_spec (s : State) (hm : s.mode.mode = .thaw) :
   let t := s.thawJoin
   t.mode.mode = .join ∧ t.mode.prev = .thaw ∧ t.mode.cause = 1 ∧ t.mode.bootShown = s.mode.bootShown ∧ t.mail.opened = true ∧
       t.mail.active = (if s.hubs[(0 : HubId)].inReset then 1 else 0) ∧
   (∀ h : HubId, t.hubs[h].inReset = s.hubs[h].inReset) ∧ (∀ h : HubId, s.hubs[h].inReset = false → t.hubs[h].bus.integ = .acquire) ∧
       t.lanes = s.lanes ∧ t.fe = s.fe ∧ t.groups = s.groups ∧
   t.flash = { s.flash with log := t.flash.log } ∧ t.bus.pins = s.bus.pins ∧ t.bus.nodeId = s.bus.nodeId ∧ t.working = s.working ∧
       t.upd.runSlot = s.upd.runSlot := by
  unfold State.thawJoin
  extract_lets p h s1 a1 a2 a3 a4 a5 s2 t
  obtain ⟨e1, e2, e3, e4, e5, e6⟩ := State.enterMode_join s2 hm
  show t.mode.mode = .join ∧ _
  rw [show t.mode = _ from e1]
  refine ⟨rfl, rfl, rfl, rfl, e2.opened, e2.act, fun j => ?_, fun j hj => ?_, e3, e4, e5, e6, ?_, ?_, e2.working, e2.run⟩
  · refine (e2.inReset j).trans ?_
    show s1.hubs[j].inReset = _
    unfold s1
    rw [State.modHubs_at]
    split <;> rfl
  · refine (e2.integ j).trans ?_
    show s1.hubs[j].bus.integ = _
    unfold s1
    rw [State.modHubs_at, hj]
    rfl
  · rw [show t.bus = s2.bus from e2.bus]; rfl
  · rw [show t.bus = s2.bus from e2.bus]; rfl
/-- The lanes that pass depend on OTP and on their status. -/
theorem State.thawLanes_st (s u : State) (r : ThawResult) (hu : u.otp = s.otp) (h0 : ∀ l : LaneId, u.lanes[l].st = s.lanes[l].st) :
    u.thawLanes r = s.thawLanes r := by
  have a : u.thawBistL r = s.thawBistL r := by unfold State.thawBistL; rw [hu]
  unfold State.thawLanes
  rw [a, show (fun l : LaneId => u.lanes[l].st == LaneStatus.thawing) = (fun l : LaneId => s.lanes[l].st == LaneStatus.thawing) from funext fun l => by rw [h0]]
theorem State.thawBoot_rest (s : State) (r : ThawResult) : s.thawBoot r = { s with flash := { s.flash with boot := (s.thawBoot r).flash.boot } } := by
  unfold State.thawBoot
  dsimp only
  repeat' split
  all_goals rfl
/-- What steps 4 and 7 change. -/
theorem State.thawTrial_rest (s : State) (k : Fin 2) : ∃ w u m f, s.thawTrial k =
    { s with upd := u, mode := { s.mode with lifecycle := m }, flash := { s.flash with banks := f }, working := w } ∧
    (s.flash.bankActive = false → w = s.working) := by
  unfold State.thawTrial
  dsimp only
  split
  · exact ⟨s.working, s.upd, s.mode.lifecycle, s.flash.banks, rfl, fun _ => rfl⟩
  · split
    · exact ⟨_, _, _, s.flash.banks, rfl, fun _ => rfl⟩
    · rename_i x hx
      have : s.flash.bankActive = true := by
        unfold State.activeBank at hx
        split at hx
        · assumption
        · exact nomatch hx
      have nf {p : Prop} : s.flash.bankActive = false → p := fun h => by rw [this] at h; exact nomatch h
      split
      · exact ⟨s.working, _, _, s.flash.banks, rfl, nf⟩
      · split
        · exact ⟨s.working, _, _, _, rfl, nf⟩
        · exact ⟨_, _, _, s.flash.banks, rfl, nf⟩
/-- Step 7 without a trial: an active bank that fails its seal leaves the defaults. -/
theorem State.thawLoad_rest (s : State) (r : ThawResult) :
   (s.thawLoad r).mode.mode = s.mode.mode ∧ (s.thawLoad r).mode.bootShown = nextBoot s.flash.bootCount ∧
       (s.thawLoad r).flash.bootCount = nextBoot s.flash.bootCount ∧
   (s.thawLoad r).hubs = s.hubs ∧ (s.thawLoad r).lanes = s.lanes ∧ (s.thawLoad r).otp = s.otp ∧ (s.thawLoad r).bus.pins = r.pins.val ∧
       (s.thawLoad r).fe = s.fe ∧ (s.thawLoad r).groups = s.groups ∧
   (∀ b, s.flash.wiping = false → s.activeBank = some b → b.sealCode ≠ b.image.sealOctets →
     (s.thawLoad r).flash.bankActive = false ∧ (s.thawLoad r).flash.lastBank = s.flash.lastBank ∧
         (s.thawLoad r).working = ParamImage.defaults (s.thawLoad r).bus.nodeId) := by
  unfold State.thawLoad
  dsimp only
  have hw : ∀ u : State, u = (if s.flash.wiping then s.wipeStation else s) → u.mode = s.mode ∧ u.flash.bootCount = s.flash.bootCount ∧
      u.hubs = s.hubs ∧ u.lanes = s.lanes ∧ u.otp = s.otp ∧ u.fe = s.fe ∧ u.groups = s.groups := by
    intro u hu
    split at hu <;> subst hu <;> exact ⟨rfl, rfl, rfl, rfl, rfl, rfl, rfl⟩
  obtain ⟨a, b, c, d, e, f, g⟩ := hw _ rfl
  refine ⟨by rw [a], by rw [b], by rw [b], c, d, e, rfl, f, g, ?_⟩
  intro x hx hb hs
  have e1 : (if s.flash.wiping = true then s.wipeStation else s) = s := by rw [hx]; rfl
  rw [e1]
  have hl : s.flash.bankToCheck = some x := by
    unfold State.activeBank at hb
    split at hb
    · rename_i ha
      unfold Flash.bankToCheck
      rw [hb, ha]; rfl
    · exact nomatch hb
  rw [hl]
  have hn : (x.sealCode == x.image.sealOctets) = false := by simpa using hs
  simp only [Option.any_some, hn]
  exact ⟨trivial, trivial, rfl⟩

/-! ## A lane that is lost -/

/-- A mask of some is not empty. -/
theorem maskOf_ne {n : Nat} (f : Fin n → Bool) (P : Fin n → Prop) (hl : ∀ l, f l = true ↔ P l) : (maskOf f) ≠ 0 ↔ ∃ l, P l := by
  constructor
  · intro h
    by_contra hn
    apply h
    refine BitVec.eq_of_getLsbD_eq fun i hi => ?_
    have := has_maskOf f ⟨i, hi⟩
    have h2 : f ⟨i, hi⟩ = false := by
      cases h3 : f ⟨i, hi⟩
      · rfl
      · exact absurd ⟨_, (hl _).1 h3⟩ hn
    rw [h2] at this
    rw [show (maskOf f).getLsbD i = false from this]; simp
  · rintro ⟨l, h⟩ h0
    have := has_maskOf f l
    rw [h0, (hl l).2 h] at this
    simp [has] at this
/-- A lane is lost, and WATCHDOG and LANE_LOST stand. -/
structure LaneLost (l : LaneId) (t : State) : Prop where
  st : t.lanes[l].st = .lost
  run : t.lanes[l].drive.running = false
  wd : t.stands FaultCode.watchdog [l.val] = true
  ll : t.stands FaultCode.laneLost [l.val] = true
theorem LaneLost.note {l : LaneId} {s : State} (h : LaneLost l s) (c : Nat) (i : List Nat) (d : Bytes) (q k : Nat) :
    LaneLost l (s.note c i d q k) := by
  refine ⟨?_, ?_, (State.note_thawed _ _ _ _ _ _).stands _ _ (by decide) (by decide) h.wd,
      (State.note_thawed _ _ _ _ _ _).stands _ _ (by decide) (by decide) h.ll⟩
  · rw [State.note_lanes]; exact h.st
  · rw [State.note_lanes]; exact h.run
theorem LaneLost.keep {l : LaneId} {s t : State} (h : LaneLost l s) (a : t.lanes = s.lanes) (b : t.faults = s.faults) : LaneLost l t := by
  refine ⟨by rw [a]; exact h.st, by rw [a]; exact h.run, ?_, ?_⟩
  · unfold State.stands; rw [b]; exact h.wd
  · unfold State.stands; rw [b]; exact h.ll
theorem LaneLost.modLanes {l : LaneId} {s : State} (h : LaneLost l s) (f : LaneId → LaneState → LaneState) (hf : ∀ k L, (f k L).st = L.st ∧
    (L.drive.running = false → (f k L).drive.running = false)) : LaneLost l (s.modLanes f) := by
  refine ⟨?_, ?_, h.wd, h.ll⟩
  · rw [State.modLanes_at, (hf _ _).1]; exact h.st
  · rw [State.modLanes_at]; exact (hf _ _).2 h.run
theorem LaneLost.enterMode {l : LaneId} {s : State} (h : LaneLost l s) (m : Mode) (k : Nat) (hs : m ≠ .safe) : LaneLost l (s.enterMode m k) := by
  unfold State.enterMode
  extract_lets old ms s0 cop s1 d s2 s3 act s4
  have h1 : LaneLost l s1 := by unfold s1; split <;> exact h.keep rfl rfl
  clear_value s1
  have h2 : LaneLost l s2 := by
    unfold s2; split
    · exact h1.keep rfl rfl
    · exact h1.note _ _ _ _ _
  clear_value s2
  have h3 : LaneLost l s3 := by
    unfold s3
    split
    · unfold State.haltEntry
      dsimp only
      have x : LaneLost l (({ s2 with panel := some s2.panelNow } : State).modLanes fun _ L => { L with drive := { L.drive with running := false } }) :=
        LaneLost.modLanes (s := ({ s2 with panel := some s2.panelNow } : State)) (h2.keep rfl rfl)
          (fun _ L => { L with drive := { L.drive with running := false } }) (fun _ _ => ⟨rfl, fun _ => rfl⟩)
      exact x.keep rfl rfl
    · exact h2
  clear_value s3
  split
  · have h4 : LaneLost l s4 := h3.keep rfl rfl
    clear_value s4
    split
    · unfold State.stopTeach
      split
      · exact h4
      · exact h4.keep rfl rfl
    · exact h4
  · exact h3
theorem LaneLost.endFault {l : LaneId} {s : State} (h : LaneLost l s) (f : FaultRec) (hf : f.code = FaultCode.laneCompare) :
    LaneLost l (s.endFault f) := by
  unfold State.endFault
  refine ⟨?_, ?_, State.withdrawFault_stands _ _ _ _ _ _ (by rw [hf]; decide) h.wd, State.withdrawFault_stands _ _ _ _ _ _ (by rw [hf]; decide) h.ll⟩
  · rw [State.withdrawFault_lanes]; exact h.st
  · rw [State.withdrawFault_lanes]; exact h.run
/-- A lane that is lost stays so through what its loss brings (R378). -/
theorem State.loseLane_lost (s : State) (l : LaneId) (h0 : s.lanes[l].st ≠ .lost) (hw : s.stands FaultCode.watchdog [l.val] = true) :
    LaneLost l (s.loseLane l) := by
  unfold State.loseLane
  rw [if_neg h0]
  extract_lets s1 named s2 cop
  have a1 : s1.lanes[l].st = .lost ∧ s1.lanes[l].drive.running = false := by
    have e : s1.lanes[l] = { s.lanes[l] with st := .lost, drive := { s.lanes[l].drive with running := false } } := by
      exact State.modLane_same s l (fun L => { L with st := .lost, drive := { L.drive with running := false } })
    rw [e]; exact ⟨rfl, rfl⟩
  have w1 : s1.stands FaultCode.watchdog [l.val] = true := hw
  have hr : LaneLost l (s1.raiseFault FaultCode.laneLost [l.val] s1.voteMask) := by
    obtain ⟨w, e⟩ := s1.raiseFault_lane FaultCode.laneLost [l.val] s1.voteMask 0xFF l
    refine ⟨by rw [e]; exact a1.1, by rw [e]; exact a1.2, State.raiseFault_stands_other _ _ _ _ _ _ _ w1, State.raiseFault_stands _ _ _ _ _⟩
  have hn : ∀ f ∈ named, f.code = FaultCode.laneCompare := by
    intro f hf
    have := (List.mem_filter.mp hf).2
    simp only [Bool.and_eq_true, beq_iff_eq] at this
    exact this.1.1
  have h2 : LaneLost l s2 := by
    unfold s2 State.each
    clear_value named
    generalize s1.raiseFault FaultCode.laneLost [l.val] s1.voteMask = u at hr
    induction named generalizing u with
    | nil => exact hr
    | cons x xs ih => exact ih (fun f hf => hn f (List.mem_cons_of_mem _ hf)) _ (hr.endFault x (hn x List.mem_cons_self))
  clear_value s2
  have hdeg : ∀ u, LaneLost l u → LaneLost l u.degrade := by
    intro u hu
    unfold State.degrade
    split
    · exact hu.enterMode _ _ (by decide)
    · exact hu
  split
  · exact h2
  · split
    · exact h2.enterMode _ _ (by decide)
    · split
      · exact hdeg _ (h2.keep rfl rfl)
      · split
        · unfold State.abortWindow
          split
          · exact h2
          · split
            · exact h2
            · refine LaneLost.note ?_ _ _ _ _ _
              rename_i k _ _
              refine ⟨?_, ?_, h2.wd, h2.ll⟩
              · by_cases hk : l = k
                · subst hk; rw [State.modLane_same]; exact h2.st
                · rw [State.modLane_other _ _ _ _ hk]; exact h2.st
              · by_cases hk : l = k
                · subst hk; rw [State.modLane_same]; exact h2.run
                · rw [State.modLane_other _ _ _ _ hk]; exact h2.run
        · exact hdeg _ h2

end Sys2Proof.Machine
end

