-- ==== Sys2Proof/Machine/Ratings.lean ====
section
/-!
DEFINITION. What the spec states of the block as seen from outside a step: the logic power it may draw (R488), the conduction
budget and dissipation (R546, R547), and the vote that a master takes over the sub-images of a frame (R293, R294).
-/

namespace Sys2Proof.Machine

/-! ## Power (R488, R546, R547) -/

/-- The most a group draws at a level, in mW. -/
def levelPower (k : Fin 4) : Nat := match k with | 0 => 1400 | 1 => 600 | 2 => 150 | 3 => 50
/-- The most the module draws from the logic supply, in mW: THAW and HALT have fixed totals. -/
def State.logicPower (s : State) : Nat :=
  let groups := (allGroups.map fun g => levelPower s.groups[g].level).sum
  match s.mode.mode with
  | .thaw => 34000
  | .halt => 9000
  | .dormant => 11200 + groups
  | _ => 17200 + groups
/-- The conduction budget at an ambient in °C, in mW: 24 W up to 55 °C, 0.7 W less per K above. -/
def conductionBudget (ambient : Int) : Nat := 24000 - 700 * (ambient - 55).toNat
/-- The most the module dissipates at an ambient, in mW. -/
def dissipationLimit (ambient : Int) : Nat := 34000 + conductionBudget ambient

/-! ## A master's vote (R293, R294) -/

/-- A sub-image as a master checks it: its code, and its reserved bits zero. -/
def subImageOk (node lane : Nat) (ecn : DWord) (b : Bytes) : Bool :=
  b.length == 96 && slice b 92 4 == scode (implicit 3 node 0xFE lane ecn) (slice b 0 92) && allZero b 88 4 &&
  (slice b 72 12).all (fun x => decide (x.toNat < 64)) && decide (leAt b 85 1 < 4)
/-- The lane had its decisions in it: LANE_FLAGS bit 0. -/
def subImageActive (b : Bytes) : Bool := (octet b 85).getLsbD 0
/-- The code of a channel in a sub-image. -/
def subImageCode (b : Bytes) (c : Chan) : Nat := (leAt b (c.val / 2) 1 / 16 ^ (c.val % 2)) % 16
/-- The status that at least two of some valid sub-images agree on; none is not proven. -/
def masterStatus (subs : List Bytes) (c : Chan) : Option Nat :=
  let votes := ((subs.filter subImageActive).map fun b => subImageCode b c).filter (· != 15)
  votes.find? fun v => decide (2 ≤ votes.count v)

end Sys2Proof.Machine
end

