-- ==== Sys2Proof/WellFormed.lean ====
section
/-!
DEFINITION. Which operands the outside world can supply: the ranges that the numbered rules give the operands of a
command. A command that breaks one cannot arise on the hardware (a drive frame of more than 16 bits, a sample beyond its
converter's width). The meanings are total and do not rest on these checks.
-/

namespace Sys2Proof

/-- A whole number of n bits in two's complement. -/
def fitsSigned (n : Nat) (x : Int) : Bool := decide (-(2 ^ (n - 1) : Int) ≤ x) && decide (x < 2 ^ (n - 1))

/-- No item twice. -/
def noRepeat {α : Type} [DecidableEq α] (xs : List α) : Bool := decide xs.Nodup

/-- A complete command: it fits the 32 entries of 128 octets of its ring, which is an inbound one (R305, R306). -/
def MailCmd.wf (c : MailCmd) : Bool := decide (c.payload.length ≤ 4088) && decide (c.ring.val < 6)

/-- A position that the receiver has: 8 in a group front-end, 12 in a bank (R45, R450). -/
def DriveDest.hasPosition : DriveDest → Position → Bool
  | .grp _, k => decide (k.val < 8)
  | .bank _, _ => true

/-- A mask over the positions of the receiver. -/
def DriveDest.maskFits : DriveDest → PosMask → Bool
  | .grp _, m => decide (m.toNat < 256)
  | .bank _, _ => true

/-- A frame holds at most 16 bits (R45). -/
def RxDrive.wf : RxDrive → Bool
  | .asSent => true
  | .bits _ n _ => decide (n ≤ 16)

/-- A frame of the bus: its reception is complete within the tick of 5 ns that the hub stamps, and it has at most the 32 octets
around its payload and 496 of payload (R226). -/
def RxFrame.wf (f : RxFrame) : Bool := decide (f.late ≤ 4) && decide (f.octets.length ≤ 528)

/-- The 192 words that carry one side frame (R75, R76). -/
def RxStream.wf : RxStream → Bool
  | .asSent mods _ => decide (mods.length = 192)
  | .words ws => decide (ws.length = 192)

/-- Each lane measures a modulator once in a calibration. -/
def ThawCal.wf (c : ThawCal) : Bool := noRepeat (c.meas.map (·.lane))

/-- The faults a Thaw can find on a group or a bank are those of R420, with at most three items in their scope (R356); a modulator is
calibrated once in it (R128). -/
def ThawResult.wf (r : ThawResult) : Bool :=
  (r.groupFaults.all fun x => decide (0x0101 ≤ x.1) && decide (x.1 ≤ 0x01B7) && decide (x.2.length ≤ 3) && x.2.all fun n => decide (n < 256)) && r.cals.all ThawCal.wf &&
  noRepeat (r.cals.map fun c => (c.group, c.mod))

/-- Lowest readings do not exceed highest ones (R424). -/
def RangeMeas.wf (r : RangeMeas) : Bool := decide (r.vmin ≤ r.vmax) && decide (r.fmin ≤ r.fmax)

/-- A register by its address: a window word, or a word of a check-value unit (R299). -/
def RegTarget.wf : RegTarget → Bool
  | .window _ _ _ => true
  | .cvu _ off _ => decide (off % 4 = 0)

/-- A queue-memory error lies in an inbound or in an outbound ring (R321). -/
def QmemHit.wf : QmemHit → Bool
  | .inHeader q | .inBody q => decide (q.val < 6)
  | .outMsg q => decide (6 ≤ q.val)
  | .idle => true

/-- The operands of a command are ones that the hardware can supply. -/
def Instr.wf : Instr → Bool
  | .powerGood => true
  | .supplyDropReset => true
  | .thawDone r => r.wf
  | .watchdog _ => true
  | .thawWatchdogHalt => true
  | .actionPoint => true
  | .voteInstant => true
  | .latchDriveRederive _ => true
  | .subImageFreeze => true
  | .moduleSlotSend => true
  | .clockCorrection _ => true
  | .frameReceived _ f => f.wf
  | .schedChanged => true
  | .linkUp _ => true
  | .linkDown _ => true
  | .channelDown _ => true
  | .integrationCycleEnd _ => true
  | .coldStartListenTimeout => true
  | .csBackoff => true
  | .csBackoffExpiry => true
  | .spareSlotClaim => true
  | .claimWaitExpiry => true
  | .compareRecord receiver sender _ _ => receiver != sender
  | .latchMerge => true
  | .driveFrame d _ rx hot => rx.wf && d.maskFits hot
  | .driveLossTimer _ _ => true
  | .overlayWord => true
  | .shortCircuitTrip _ => true
  | .overtempTrip _ => true
  | .sideFrame _ _ rx => rx.wf
  | .modulatorOverload _ _ => true
  | .fastSample _ _ => true
  | .notProven _ _ => true
  | .periodWindowClose _ _ => true
  | .auxConversionDone _ raw => fitsSigned 18 raw
  | .trackerUnlockTimeout _ => true
  | .feedAbsentDecision _ => true
  | .feedFreqRange _ => true
  | .auxStall _ => true
  | .groupOverload _ => true
  | .injectedTrigger _ _ => true
  | .refsSet _ => true
  | .refFaultTimeout _ => true
  | .frontEndControlWrite _ _ _ => true
  | .chipStrobe _ _ _ => true
  | .probeEnable _ => true
  | .codePeriodEnd _ => true
  | .partialWindowEnd _ => true
  | .matrixRowSend => true
  | .offTestStart _ => true
  | .offTestGateCheck _ => true
  | .offTestEnd _ => true
  | .majorityTestStart _ => true
  | .majorityTestEnd _ => true
  | .dimmingEdge _ _ => true
  | .proofOverdue _ => true
  | .loanStepEnd _ _ => true
  | .handoff _ _ => true
  | .spareSelfCalibration _ _ => true
  | .inPlaceCalibration _ _ => true
  | .compareNoSamples _ _ => true
  | .calHandoff _ _ => true
  | .calOverdue _ _ => true
  | .teachChannelDone _ => true
  | .commandStart _ q => decide (q.val < 6)
  | .responseVote _ => true
  | .laneDisagree _ => true
  | .responseRingRoom q => decide (6 ≤ q.val)
  | .spiTransaction _ _ _ => true
  | .registerWrite t => t.wf
  | .multiwordCapture _ _ => true
  | .prodWrite _ q _ => (q == 4 || q == 5)
  | .hconsWrite _ q _ => decide (10 ≤ q.val)
  | .auxCtrlWrite _ _ _ => true
  | .auxReqCal _ _ => true
  | .auxReqInj _ _ => true
  | .windowRefresh => true
  | .cvLoad _ => true
  | .cvFoldImp _ => true
  | .cvDma _ => true
  | .cvDmaDone _ eccAt => eccAt.all fun i => decide (i < 8192)
  | .cvData8 _ _ => true
  | .cvData32 _ _ => true
  | .hubSwitchover => true
  | .qmemFault _ a => a.wf
  | .sramScrubError _ _ => true
  | .coppiceDue => true
  | .coppiceStepEnd r => r.wf
  | .lbistDone _ _ => true
  | .laneRestartDone _ _ => true
  | .hubTestSlice _ _ => true
  | .degradedLimit => true
  | .revertEnvelopeJudge _ => true
  | .revertFail _ => true
  | .gladeUnproven _ => true
  | .contactorJudge _ _ => true
  | .bankSampleFrame _ _ _ => true
  | .outputOverload _ => true
  | .bankSupplyCondition _ _ => true
  | .fieldOffTestStart _ => true
  | .fieldOffTestEnd _ => true
  | .fieldMajorityTest _ => true
  | .discrepancySample _ _ => true
  | .wearDailyClose _ => true
  | .wearHourlyStore _ => true
  | .ringOscMeasure _ _ => true
  | .updateTick => true
  | .updSessionTimeout => true
  | .trialBootReset => true
  | .trialTimeExpiry => true
  | .moduleResetAfterExec => true
  | .captureTrigger => true
  | .captureTimeout => true
  | .lampTestEnd => true
  | .fieldTestEnd => true
  | .proofTestTimeout => true
  | .nop c => c.wf
  | .ident c => c.wf
  | .status c => c.wf
  | .faultList c => c.wf
  | .modeReq c => c.wf
  | .lifecycleReq c => c.wf
  | .subscribe c => c.wf
  | .countsRead c => c.wf
  | .logRead c => c.wf
  | .chipIdent c => c.wf
  | .resetArm c => c.wf
  | .resetExec c => c.wf
  | .paramRead c => c.wf
  | .paramWrite c => c.wf
  | .paramRevert c => c.wf
  | .paramDefaults c => c.wf
  | .sealShow c => c.wf
  | .sealConfirm c => c.wf
  | .lampRead c => c.wf
  | .proveClear c => c.wf
  | .latchClear c => c.wf
  | .teach c => c.wf
  | .lampTest c => c.wf
  | .measRead c => c.wf
  | .auxRead c => c.wf
  | .capture c => c.wf
  | .captureStop c => c.wf
  | .probeRead c => c.wf
  | .matrixStream c => c.wf
  | .busRead c => c.wf
  | .timeRead c => c.wf
  | .fieldRead c => c.wf
  | .fieldTest c => c.wf
  | .selftestRead c => c.wf
  | .proofTest c => c.wf
  | .coppiceNow c => c.wf
  | .wearRead c => c.wf
  | .wearReport c => c.wf
  | .wearReset c => c.wf
  | .updOpen c => c.wf
  | .updBlock c => c.wf
  | .updVerify c => c.wf
  | .updActivate c => c.wf
  | .updConfirm c => c.wf
  | .updRollback c => c.wf
  | .updClose c => c.wf
  | .updStatus c => c.wf
  | .mirrorLinkFail => true
  | .outputThermalShutdown _ => true
  | .lspecResponseTimeout _ => true
  | .trialTimeStore => true
  | .pumpStarvation d k => d.hasPosition k
  | .modulatorOverloadEnd _ _ => true
  | .gateDriveSupply _ _ => true

end Sys2Proof
end

