-- ==== Sys2Proof/Tests/Slice0.lean ====
section
/-!
SUPPORT. Tests of the model: ill-formed commands that WellFormed refuses, values the spec gives, and for every statement
with hypotheses a theorem that shows concrete states and operands which meet them, one part per clause.
-/

open Sys2Proof Sys2Proof.Machine

namespace Sys2Proof.Tests

set_option maxRecDepth 20000
set_option Elab.async false

/-! ## States the tests start from -/

/-- A group output record (R70) of a DC group with channels 0 to 3 in use, channel 1 permissive. -/
def groupRec : Bytes := toLe 1 2 ++ toLe 1 0x0F ++ toLe 1 2 ++ toLe 1 0 ++ toLe 2 10 ++ toLe 2 10 ++ toLe 1 60 ++ toLe 1 30 ++ toLe 2 100 ++ toLe 2 250 ++ toLe 2 20
/-- A fingerprint (R140) of class 2: 100 V, 0.5 A, 5,000 µS. -/
def fingerRec : Bytes := toLe 1 2 ++ toLe 1 1 ++ toLe 2 200 ++ toLe 4 100000 ++ toLe 4 500000 ++ toLe 4 50000 ++ toLe 2 900 ++ toLe 2 1100 ++
  toLe 2 100 ++ toLe 2 100 ++ toLe 2 100 ++ toLe 2 10 ++ toLe 2 500 ++ toLe 2 200 ++ toLe 2 10000 ++ toLe 2 0 ++ toLe 2 0 ++ toLe 2 0
/-- A field point record (R448) with a direction, flags and a pair. -/
def pointRec (dir flags pair disc : Nat) : Bytes := toLe 1 dir ++ toLe 1 flags ++ toLe 2 3000 ++ toLe 2 500 ++ toLe 1 pair ++ toLe 1 10 ++ toLe 2 disc ++ toLe 2 10 ++ toLe 4 0
/-- A group safety record (R414) with contactors: outputs 2 and 14, feedbacks 3 and 15. -/
def safetyRec : Bytes := toLe 1 1 ++ toLe 1 1 ++ toLe 1 2 ++ toLe 1 14 ++ toLe 1 3 ++ toLe 1 15 ++ toLe 2 100 ++ toLe 8 0
/-- Parameters of a small installation: group G00 with lamps L00 to L03 and two contactors, point IO00 paired with IO12,
output IO02. -/
def prm : ParamImage :=
  let d := ParamImage.defaults 20
  { d with
    groupOut := d.groupOut.set 0 groupRec
    finger := (((d.finger.set 0 fingerRec).set 1 fingerRec).set 2 fingerRec).set 3 fingerRec
    point := ((((d.point.set 0 (pointRec 1 0 12 10)).set 12 (pointRec 1 0 0 10)).set 2 (pointRec 2 2 0xFF 0)).set 3 (pointRec 1 1 0xFF 0)).set 14 (pointRec 2 2 0xFF 0)
    groupSafety := d.groupSafety.set 0 safetyRec }
/-- Modulator coefficients of 1.0 (R82). -/
def unity : Coef := { offset := 0, gain := 0x500000 }
/-- A lane in the vote. -/
def lane : LaneState := { ({} : LaneState) with st := .active, drive := { ({} : LaneDrive) with running := true } }
/-- A group with every modulator calibrated. -/
def group : GroupState := { ({} : GroupState) with under := { ({} : Understorey) with coef := Vector.replicate 20 unity, adoptedAt := Vector.replicate 20 1 } }
/-- A module 200 s after power-good in a mode, in life-cycle state SEALED, with three lanes in the vote and the rings open. -/
def up (m : Mode) : State :=
  { State.reset with
    now := 40000000000
    mode := { State.reset.mode with mode := m, lifecycle := some .sealed }
    lanes := Vector.replicate 3 lane
    fe := Vector.replicate 12 { ({} : FrontEnd) with refEn := true, refs := true }
    groups := Vector.replicate 12 group
    mail := { State.reset.mail with opened := true }
    bus := { State.reset.bus with nodeId := 20, pins := 20 }
    working := prm }
/-- The module in SERVICE. -/
def sv : State := up .service
/-- SERVICE with the channels and points of the given images derived on in every lane in the vote. -/
def lit (on : ChanMask) (pts : PointMask := 0) (s : State := sv) : State :=
  { s with lanes := s.lanes.map fun L => { L with drive := { L.drive with img := { L.drive.img with on := on, pts := pts } } } }
/-- The state with every lane's proving state of L00 replaced. -/
def prov0 (a : Proving) (s : State) : State := { s with lanes := s.lanes.map fun L => { L with prov := L.prov.set 0 a } }
/-- The state with the group G00 replaced. -/
def grp0 (f : GroupState → GroupState) (s : State) : State := { s with groups := s.groups.set 0 (f s.groups[(0 : GroupId)]) }
/-- The state with the front-end of G00 replaced. -/
def fe0 (f : FrontEnd → FrontEnd) (s : State) : State := { s with fe := s.fe.set 0 (f s.fe[(0 : GroupId)]) }
/-- The test schedules of L00 replaced. -/
def sched0 (f : TestSched → TestSched) (s : State) : State := { s with tests := { s.tests with chan := s.tests.chan.set 0 (f s.tests.chan[(0 : Chan)]) } }
/-- A fast row of a group at the present instant whose n-th word of the stream every modulator has passed, with one value for all
voltages and one for all currents. -/
def row (n : Nat) (v i : Int) : FastRow :=
  { n := n, t := sv.now, y := Vector.ofFn fun m => if m.val < 8 then v else i, ok := BitVec.allOnes 20, ov := 0 }
/-- The fast rows of G00 replaced in every lane. -/
def rows0 (xs : List FastRow) (s : State) : State :=
  { s with lanes := s.lanes.map fun L => { L with grp := L.grp.set 0 { L.grp[(0 : GroupId)] with fast := xs } } }
/-- A fine row of a group at an instant with one output, corrected alike, of all twenty modulators. -/
def frow (t : Nat) (x : Int) : FineRow := { t := t, x := Vector.replicate 20 x, y := Vector.replicate 20 x, ok := BitVec.allOnes 20, ov := 0, ns := false }
/-- What the lanes hold of G00 replaced. -/
def lg0 (f : LaneGroup → LaneGroup) (s : State) : State := { s with lanes := s.lanes.map fun L => { L with grp := L.grp.set 0 (f L.grp[(0 : GroupId)]) } }
/-! ## The hypotheses of the statements are met -/

/-- A good and a torn frame, both with one bit equal and one complementary to the reference. -/
theorem wit_DriveFrameSetsAndClearsVotes :
    let v : BitVec 16 := groupFrame 0 true false 0x80
    let s := fe0 (fun f => { f with inp := f.inp.set 0 { f.inp[0] with last := some v } }) sv
    let w := groupFrame 0 false false 0x7F
    s.fe[(0 : GroupId)].inp[(0 : LaneId)].last = some v ∧ frameValid s.fe[(0 : GroupId)].inp[(0 : LaneId)] 0 w 16 false false = false ∧
    (let w := groupFrame 0 true false 0xFF
     frameValid s.fe[(0 : GroupId)].inp[(0 : LaneId)] 0 w 16 true false = true ∧ w.getLsbD 7 = v.getLsbD 7 ∧ w.getLsbD 0 ≠ v.getLsbD 0) ∧
    ¬((0 : Nat) < 0 ∧ w.getLsbD 0 = v.getLsbD 0) ∧ frameValid s.fe[(0 : GroupId)].inp[(0 : LaneId)] 0 w 0 true false = false := by decide +kernel

theorem wit_DriveLossClearsEveryVote :
    let i : LaneInput := { vote := 3, lastAt := some (sv.now - 4800) }
    let s := fe0 (fun f => { f with inp := Vector.replicate 3 i, conducting := 1 }) sv
    let j : LaneInput := { vote := 3, lastAt := some (sv.now - 8000) }
    let t : State := { sv with banks := sv.banks.set 3 { ({} : BankState) with inp := Vector.replicate 3 j } }
    (∀ a ∈ s.fe[(0 : GroupId)].inp[(0 : LaneId)].lastAt, a + 4800 ≤ s.now) ∧ (∀ a ∈ t.banks[(3 : BankId)].inp[(2 : LaneId)].lastAt, a + 8000 ≤ t.now) ∧
    has (voteMaj s.fe[(0 : GroupId)].inp) 7 = false ∧ has (voteMaj s.fe[(0 : GroupId)].inp) 0 = true ∧
    has (voteMaj t.banks[(3 : BankId)].inp) 11 = false := by decide +kernel

theorem wit_OverlaysReachTheDriveDomain :
    let dims (n : Nat) : LaneState := { lane with drive := { lane.drive with img := { lane.drive.img with dim := BitVec.ofNat 96 n } } }
    let s : State := { sv with lanes := (sv.lanes.set 0 (dims 1)).set 1 { dims 3 with st := .lost } }
    let on : Bool := inOnPhase (s.lampParams.dimDuty 0 s.lanes[(0 : LaneId)].inForce.cmd[(0 : Chan)]) s.laneTime
    s.reaches 2000 = true ∧ ({ s with now := sv.now + 1 } : State).reaches 2000 = false ∧
    (s.active 0 = true ∧ has s.lanes[(0 : LaneId)].drive.img.dim 0 = true) ∧ (on = on ∧ on ≠ !on) ∧
    s.active 1 = false ∧ has s.lanes[(2 : LaneId)].drive.img.dim 0 = false := by decide +kernel

theorem wit_BankSupplyConditions :
    let s : State := { sv with banks := sv.banks.set 0 { ({} : BankState) with hwLoss := true } }
    sv.banks[(0 : BankId)].hwLoss = false ∧ (s.banks[(0 : BankId)].hwLoss = true ∧ ∃ l : LaneId, s.active l = true ∧ has s.lanes[l].due.supplyLoss 0 = false) ∧
    sv.banks[(0 : BankId)].missing = false ∧ sv.active 0 = true := by decide +kernel

/-- A bank sample frame whose CRC checks, one whose does not, and two bad ones before. -/
theorem wit_BankSampleFramesAreTakenOrDiscarded :
    let s : State := { sv with lanes := sv.lanes.set 0 { lane with bank := lane.bank.set 0 { ({} : LaneBank) with bad := 2 } } }
    sv.active 0 = true ∧ BankF.crcOk (BitVec.ofNat 160 ((crc16Bits (0 : BankBits) 144).toNat * 2 ^ 144)) = true ∧
    BankF.midx (BitVec.ofNat 160 ((crc16Bits (0 : BankBits) 144).toNat * 2 ^ 144)) < 14 ∧ BankF.crcOk 0 = false ∧ (∃ w : BankBits, 14 ≤ BankF.midx w) ∧
    s.active 0 = true ∧ 2 ≤ s.lanes[(0 : LaneId)].bank[(0 : BankId)].bad := by decide +kernel

theorem wit_FieldOutputTests :
    let s : State := { lit 0 4 with tests := { sv.tests with point := sv.tests.point.set 2 { ({} : TestSched) with nextOff := some sv.now, nextMaj := some sv.now, lane := 1 } } }
    let d := lit 0 0 s
    let r : FieldTestRun := { p := 2, t0 := sv.now - 40000, samples := [⟨0, false, false⟩] }
    let e : State := { s with tests := { s.tests with field := some r } }
    let m : FieldMajRun := { p := 2, lane := 1, t0 := sv.now - 21480 }
    (s.fieldTestFree 2 = true ∧ s.params.isOut 2 = true ∧ s.params.otEn 2 = true ∧ s.reaches 2000 = true ∧ s.mode.mode.runs = true ∧
      (∃ x ∈ s.tests.point[(2 : Point)].nextOff, x ≤ s.now) ∧ ∀ l : LaneId, s.active l = true → has s.lanes[l].drive.img.pts 2 = true) ∧
    (d.fieldLaneNow 2 = some 1 ∧ d.fieldTestFree 2 = true ∧ d.params.isOut 2 = true ∧ d.params.otEn 2 = true ∧ d.reaches 2000 = true ∧ d.mode.mode.runs = true ∧
      (∀ x ∈ d.tests.point[(2 : Point)].nextMaj, x ≤ d.now) ∧ (∀ x : LaneId, d.stands FaultCode.driveLink [12 + (2 : Point).bank.val, x.val] = false) ∧
      ∀ l : LaneId, d.active l = true → has d.lanes[l].drive.img.pts 2 = false) ∧
    (({ d with tests := { d.tests with fieldMaj := some m } } : State).tests.fieldMaj = some m ∧ m.t0 + 21480 ≤ d.now) ∧
    e.tests.field = some r ∧ r.partner = none ∧ r.waits = false ∧ r.t0 + 40000 ≤ e.now ∧ r.samples ≠ [] ∧ (∀ x ∈ r.samples, x.gs = false ∧ x.rb = false) ∧
    e.active 0 = true := by decide +kernel

theorem wit_PairsAndContactorsAreJudged :
    let s : State := { sv with lanes := sv.lanes.set 0 { lane with pts := (lane.pts.set 0 { ({} : LanePoint) with deb := true, discCount := 9 }) } }
    let g := grp0 (fun G => { G with edgeB := some (sv.now - 100 * 200000, false) }) sv
    let h := grp0 (fun G => { G with edgeA := some (sv.now - 100 * 200000, true) })
      { lit 0 4 with lanes := (lit 0 4).lanes.map fun L => { L with pts := L.pts.set 3 { ({} : LanePoint) with deb := true } } }
    (pointAt (s.params.pair 0) = some 12 ∧ (0 : Point) ≠ 12 ∧ s.params.isIn 0 = true ∧ s.params.isIn 12 = true ∧ s.active 0 = true ∧ s.active 1 = true ∧
      s.reaches 200000 = true ∧ s.lanes[(0 : LaneId)].pts[(0 : Point)].discAt ≠ some s.now ∧ s.lanes[(1 : LaneId)].pts[(0 : Point)].discAt ≠ some s.now) ∧
    (s.inputState 0 0 ≠ s.inputState 0 12 ∧ s.params.discTime 0 ≤ s.lanes[(0 : LaneId)].pts[(0 : Point)].discCount + 1) ∧ s.inputState 1 0 = s.inputState 1 12 ∧
    (g.groups[(0 : GroupId)].edgeOf (Contactor.b == .a) = some (sv.now - 100 * 200000, false) ∧ sv.now - 100 * 200000 + g.params.fbTime 0 * 200000 ≤ g.now ∧
      g.contactorOn 0 0 false = false ∧ g.feedback 0 0 false = false) ∧
    h.groups[(0 : GroupId)].edgeOf (Contactor.a == .a) = some (sv.now - 100 * 200000, true) ∧ h.contactorOn 0 0 true = true ∧ h.feedback 0 0 true = true := by decide +kernel

/-- A good and a bad lit sample of L00, each the one that decides. -/
theorem wit_LitSamplesDecideFailDark :
    let p : Proving := { litWin := List.replicate 399 true, goodRun := 299, onAt := some 0, offAt := some 0 }
    let s := rows0 [row 64 10000 0] (prov0 p (lit 1))
    let t := rows0 [row 128 10000 5000, row 64 0 0] (prov0 { p with litWin := [] } (lit 1))
    (∃ r ∈ s.nextRow 0 0 0, r = row 64 10000 0 ∧ ∃ x ∈ s.sampleOf 0 0 0 r, s.decimates 0 0 = true ∧ s.blind 0 0 = false ∧ s.lampParams.configured 0 = true ∧
      s.groups[(0 : GroupId)].test = none ∧ s.tests.chan[(0 : Chan)].trans = none ∧ x.both = true ∧ p.changeAt ≤ x.t ∧ p.recmdAt ≤ x.t ∧ p.cmdAt ≤ x.t ∧ s.isOn 0 0 = true ∧
      peakOf (pushPeak p.vHist x.tv x.v.natAbs) ≤ 10 * x.v.natAbs ∧ otExcludes s.lampParams 0 p x.t = false ∧ litFrom s.lampParams 0 p.onAt ≤ x.t ∧
      has s.lanes[(0 : LaneId)].drive.img.dim 0 = false ∧ p.litAts.headD 0 ≤ x.tv ∧ badLit s.lampParams 0 x = true ∧
      s.lampParams.filtDark 0 ≤ (pushWin p.litWin (badLit s.lampParams 0 x) (s.lampParams.filtDark 0 + s.lampParams.filtTol 0)).countP (· == true)) ∧
    ∃ r ∈ ({ t with lanes := t.lanes.map fun L => { L with grp := L.grp.set 0 { L.grp[(0 : GroupId)] with judged := Vector.replicate 8 64 } } } : State).nextRow 0 0 0,
      ∃ x ∈ t.sampleOf 0 0 0 r, badLit t.lampParams 0 x = false ∧
      (pushWin [] (badLit t.lampParams 0 x) (t.lampParams.filtDark 0 + t.lampParams.filtTol 0)).countP (· == true) < t.lampParams.filtDark 0 ∧
      warmEnd t.lampParams 0 p ≤ x.t ∧ t.lampParams.filtLit 0 ≤ p.goodRun + 1 := by decide +kernel

/-- A dark sample above DARK_I that decides, on a channel in use, and one on a channel of a class outside CH_USED. -/
theorem wit_DarkSamplesDecideFailLit :
    let p : Proving := { darkWin := List.replicate 399 true, offAt := some 0 }
    let s := rows0 [row 64 0 5000] (prov0 p sv)
    let o : State := { s with working := { prm with finger := prm.finger.set 4 fingerRec } }
    (∃ r ∈ s.nextRow 0 0 0, ∃ x ∈ s.sampleOf 0 0 0 r, s.decimates 0 0 = true ∧ s.blind 0 0 = false ∧ s.lampParams.used 0 = true ∧
      s.groups[(0 : GroupId)].test = none ∧ s.tests.chan[(0 : Chan)].trans = none ∧ p.changeAt ≤ x.t ∧ s.isOn 0 0 = false ∧
      s.lampParams.cls 0 ≠ 0 ∧ x.okI = true ∧ p.cmdAt ≤ x.t ∧ p.offAt.getD 0 + s.lampParams.decayTicks 0 ≤ x.t ∧ atLeastMa x (s.lampParams.darkI 0) = true ∧
      s.lampParams.filtFlit 0 ≤ (pushWin p.darkWin true (s.lampParams.filtFlit 0 + s.lampParams.filtTol 0)).countP (· == true)) ∧
    ∃ r ∈ o.nextRow 0 0 4, ∃ x ∈ o.sampleOf 0 0 4 r, o.lampParams.used 4 = false ∧ o.lampParams.cls 4 ≠ 0 ∧ x.okI = true ∧
      o.lanes[(0 : LaneId)].prov[(4 : Chan)].cmdAt ≤ x.t ∧ o.lanes[(0 : LaneId)].prov[(4 : Chan)].offAt.getD 0 + o.lampParams.decayTicks 4 ≤ x.t := by decide +kernel

/-- A channel not proven 100 ms after its WARMUP; and a group reverting at stage 1 with channel 1 watched, below its envelope
and above it. -/
theorem wit_NotProvenHoldsFailDark :
    let p : Proving := { warming := true, onAt := some (sv.now - 100 * 200000 - 20000000), offAt := some 0 }
    let s := prov0 p (lit 1)
    let g (xs : List FastRow) : State := rows0 xs { sv with lanes := sv.lanes.map fun L =>
      { L with latches := { L.latches with revert := 1 }, rev := L.rev.set 0 { stage1At := some (sv.now - 2000000), wasOn := 2 } } }
    let a : Nat := sv.now - 2000000
    let quiet := g ((List.range 17).map fun n => row (64 * n) 10000 0)
    let loud := g ((List.range 17).map fun n => row (64 * n) 10000 30000)
    (s.active 0 = true ∧ s.mode.mode.runs = true ∧ s.isOn 0 0 = true ∧ s.lampParams.configured 0 = true ∧ p.warming = true ∧ p.litOk = false ∧ p.failDark = false ∧
      warmEnd s.lampParams 0 s.lanes[(0 : LaneId)].prov[(0 : Chan)] + 20000000 ≤ s.now) ∧
    (quiet.active 0 = true ∧ quiet.lanes[(0 : LaneId)].latches.reverting 0 = true ∧ has quiet.lanes[(0 : LaneId)].latches.energy 0 = false ∧
      (quiet.lanes[(0 : LaneId)].rev[(0 : GroupId)]).stage1At = some a ∧ (quiet.lanes[(0 : LaneId)].rev[(0 : GroupId)]).watched quiet.params 0 = [1]) ∧
    (a + quiet.params.decayTicks 1 ≤ quiet.now ∧ 16 ≤ (quiet.envJudged 0 1 (a + quiet.params.decayTicks 1)).length ∧
      ∀ x ∈ quiet.envJudged 0 1 (a + quiet.params.decayTicks 1), x.ovI = false ∧ overEnvelope quiet.params 1 x.i = false) ∧
    (loud.lanes[(0 : LaneId)].rev[(0 : GroupId)]).watched loud.params 0 = [1] ∧ 16 ≤ (loud.envJudged 0 1 (a + loud.params.decayTicks 1)).length ∧
    ∃ x ∈ loud.envJudged 0 1 (a + loud.params.decayTicks 1), x.ovI = true ∨ overEnvelope loud.params 1 x.i = true := by decide +kernel

theorem wit_OffTestsWithdrawAndJudge :
    let s := sched0 (fun t => { t with nextOff := some sv.now }) (lit 1)
    let r : RunningTest := { ch := 0, majority := false, lane := 0, t0 := sv.now - 28000 }
    let t := grp0 (fun G => { G with test := some r }) (lit 1)
    s.offDue 0 = true ∧ t.groups[r.ch.group].test = some r ∧ r.failed = false ∧ r.tOpen = none ∧ r.t0 + 8000 ≤ t.now ∧ t.tests.chan[r.ch].trans = none ∧
    r.t0 + 28000 ≤ t.now := by decide +kernel

theorem wit_MajorityTestsAddOneLane :
    let s := sched0 (fun t => { t with nextMaj := some sv.now, lane := 2 }) sv
    let r : RunningTest := { ch := 0, majority := true, lane := 0, t0 := sv.now - 10740 }
    let t := grp0 (fun G => { G with test := some r }) sv
    let o : State := { sv with now := 17280000000000 }
    s.majDue 0 = true ∧ s.testLaneNow 0 = some 2 ∧ (t.groups[r.ch.group].test = some r ∧ r.t0 + 10740 ≤ t.now) ∧
    (o.params.used 0 = true ∧ o.tests.chan[(0 : Chan)].overdue = false ∧ 17280000000000 ≤ o.tests.chan[(0 : Chan)].proofNow o.now) ∧
    o.params.isOut 2 = true ∧ o.params.otEn 2 = true ∧ o.tests.point[(2 : Point)].overdue = false ∧ 17280000000000 ≤ o.tests.point[(2 : Point)].proofNow o.now := by decide +kernel

/-- A whole frame whose CRC checks, one word short, and one with a marker too many. -/
theorem wit_SideFramesAreTakenOrDiscarded :
    let s : State := { sv with lanes := sv.lanes.set 0 { lane with grp := lane.grp.set 0 { ({} : LaneGroup) with bad := 2 } } }
    let w := s.fe[(0 : GroupId)].sideFrame s.now 0xFF
    let ws := streamWords (s.idleMods 0) w (List.replicate 192 0)
    s.active 0 = true ∧ sideOf ws = some w ∧ Side.crcOk w = true ∧ sideOf (ws.drop 1) = none ∧ sideOf (ws.set 191 0x200000) = none ∧
    2 ≤ s.lanes[(0 : LaneId)].grp[(0 : GroupId)].bad := by decide +kernel

theorem wit_OverloadBitsAndReference :
    let s := fe0 (fun f => { f with ovl := 2, ovlAt := f.ovlAt.set 1 (sv.now - 1901), refs := false, refEnAt := sv.now - 2000000 }) sv
    let t := fe0 (fun f => { f with refEnAt := sv.now - 2400000 }) s
    s.fe[(0 : GroupId)].ovlAt[(1 : Modulator)] + 1901 ≤ s.now ∧ s.fe[(0 : GroupId)].refEn = true ∧ s.fe[(0 : GroupId)].refs = false ∧
    s.fe[(0 : GroupId)].refEnAt + 2000000 ≤ s.now ∧ t.fe[(0 : GroupId)].refEn = true ∧ t.fe[(0 : GroupId)].refs = false ∧
    t.fe[(0 : GroupId)].refEnAt + 2400000 ≤ t.now := by decide +kernel

theorem wit_ControlWritesNeedTwoLanes :
    let x (w : FeWrite) : PendingWrite := { lane := 1, w := w, at_ := sv.now - 4800 }
    let s := fe0 (fun f => { f with waiting := [x (.probe 3), x (.auxCtrl 0xB210)] }) sv
    let t := fe0 (fun f => { f with waiting := [{ x (.probe 3) with at_ := sv.now - 4801 }] }) sv
    (∃ x ∈ s.fe[(0 : GroupId)].waiting, x.w = .probe 3 ∧ x.lane ≠ 0 ∧ s.now ≤ x.at_ + 4800) ∧
    (∃ x ∈ s.fe[(0 : GroupId)].waiting, x.w = .auxCtrl 0xB210 ∧ x.lane ≠ 0 ∧ s.now ≤ x.at_ + 4800) ∧ badAuxCtrl (.auxCtrl 0xB210) = true ∧
    badAuxCtrl (.auxCtrl 0xA210) = false ∧ freshInputs sv.fe[(0 : GroupId)].inp sv.now 4800 = 0 ∧
    (∀ x ∈ t.fe[(0 : GroupId)].waiting, x.w = .probe 3 → x.lane ≠ 0 → x.at_ + 4800 < t.now) ∧ (1 : Word).getLsbD 0 = true := by decide +kernel

/-- A converter in sequencer mode with an injected sequence of 1 entry, converting each kind of entry; and one stopped. -/
theorem wit_TriggersStartTheInjectedSequence :
    let a : AuxConv := { ctrl := 0x2210, entry := some 3, input := 4 }
    let cal : AuxConv := { a with input := 1 }
    let pair : AuxConv := { a with entry := some 22 }
    (auxMode a.ctrl = 2 ∧ auxInjLen a.ctrl ≠ 0 ∧ a.nextMode = none) ∧ (a.entry = some 3 ∧ (3 : Nat) < 16 ∧ a.input ≠ 0 ∧ a.input ≠ 1) ∧
    (cal.entry = some 3 ∧ cal.input = 1) ∧ pair.entry = some 22 ∧ ({ a with entry := none } : AuxConv).entry = none ∧
    auxMode 0 ≠ 2 ∧ auxInjLen 0x2010 = 0 := by decide +kernel

theorem wit_ConversionsAreNumbered :
    let s := fe0 (fun f => { f with aux := { f.aux with ctrl := 0x2010, entry := some 0, seq := 0xFFFF } }) sv
    let t := fe0 (fun f => { f with aux := { f.aux with ctrl := 0x2010, entry := some 22 } }) sv
    s.fe[(0 : GroupId)].aux.entry = some 0 ∧ auxReg 0 = some (0 : Fin 20).val ∧ auxReg 19 = some (19 : Fin 20).val ∧ t.fe[(0 : GroupId)].aux.entry = some 22 := by decide +kernel

theorem wit_FeedDecisions :
    let s := grp0 (fun G => { G with feed := { G.feed with lock := true, lastCross := some (sv.now - 5000000), belowSince := some (sv.now - 4000000) } }) sv
    let t := grp0 (fun G => { G with feed := { G.feed with absent := true, aboveSince := some (sv.now - 4000000) } }) sv
    let f : State := { sv with now := 200000000 }
    let a := fe0 (fun f => { f with aux := { f.aux with ctrl := 0x2010 } }) sv
    (s.groups[(0 : GroupId)].feed.lock = true ∧ (∀ a ∈ s.groups[(0 : GroupId)].feed.lastCross, a + 5000000 ≤ s.laneTime) ∧ s.groups[(0 : GroupId)].level.val < 2 ∧
      s.groups[(0 : GroupId)].feed.absent = false ∧ s.groups[(0 : GroupId)].feed.belowSince = some (sv.now - 4000000) ∧
      sv.now - 4000000 + s.params.feedFilter 0 * 200000 ≤ s.now) ∧
    (t.groups[(0 : GroupId)].feed.absent = true ∧ t.groups[(0 : GroupId)].feed.aboveSince = some (sv.now - 4000000) ∧ t.groups[(0 : GroupId)].level.val < 2) ∧
    (f.params.isAc 1 = true ∧ f.params.chUsed 1 ≠ 0 ∧ f.groups[(1 : GroupId)].feed.lock = false ∧ f.groups[(1 : GroupId)].feed.absent = false ∧
      f.groups[(1 : GroupId)].level.val < 2 ∧ f.mode.mode.runs = true ∧ f.groups[(1 : GroupId)].feed.unlockedSince + 200000000 ≤ f.now) ∧
    auxMode a.fe[(0 : GroupId)].aux.ctrl = 2 ∧ 0 < auxRegLen a.fe[(0 : GroupId)].aux.ctrl ∧ a.fe[(0 : GroupId)].aux.res[0].at_ + 2000000 < a.now ∧
    a.groups[(0 : GroupId)].level.val < 2 := by decide +kernel

/-- A DC window of 20 ms that has ended: computed in every lane with samples, computed without, and computed in none. -/
theorem wit_WindowsYieldPeriodRecords :
    let a : Nat := sv.now - 4000000
    let s := grp0 (fun G => { G with feed := { G.feed with winStart := some a } }) (lg0 (fun B => { B with since := some a, fine := [frow (a + 1280) 100] }) sv)
    let e := grp0 (fun G => { G with feed := { G.feed with winStart := some a } }) (lg0 (fun B => { B with since := some a }) sv)
    let o := grp0 (fun G => { G with feed := { G.feed with overSince := some (sv.now - 200000000) } }) sv
    (∃ b, s.windowNow 0 = some (a, b) ∧ s.mode.mode.runs = true ∧ (s.winLanes 0 a).head? = some 0 ∧ ∀ k : Fin 8, 0 < (s.winSums 0 0 k a b).n) ∧
    (∃ b, e.windowNow 0 = some (a, b) ∧ (e.winLanes 0 a).head? = some 0 ∧ ∀ k : Fin 8, (e.winSums 0 0 k a b).n = 0 ∧ (e.winSums 0 0 k a b).refNs = false) ∧
    ((sv.windowNow 0).isSome = true ∧ ∀ a : Nat, (sv.winLanes 0 a) = []) ∧
    o.groups[(0 : GroupId)].feed.overSaid = false ∧ o.groups[(0 : GroupId)].feed.overSince = some (sv.now - 200000000) ∧ sv.now - 200000000 + 200000000 ≤ o.now := by
  refine ⟨⟨sv.now, ?_⟩, ⟨sv.now, ?_⟩, ⟨?_, fun a => rfl⟩, ?_⟩
  all_goals decide +kernel

/-- At a chip boundary; 2.5 µs after it; later. A source that is due in a group with two fresh inputs. -/
theorem wit_ProbeSourcesFollowTwoLanes :
    let x : Strobe := { chip := sv.laneTime / 25000, values := 1 }
    let s := fe0 (fun f => { f with strobe := f.strobe.set 2 (some x) }) sv
    let f := fe0 (fun f => { f with inp := Vector.replicate 3 { ({} : LaneInput) with lastAt := some (sv.now - 4799) } }) sv
    (s.active 0 = true ∧ s.laneTime % 25000 ≤ 500 ∧ ({ s with now := s.now + 500 } : State).laneTime % 25000 ≤ 500 ∧ (2 : LaneId) ≠ 0 ∧
      s.fe[(0 : GroupId)].strobe[(2 : LaneId)] = some { chip := s.laneTime / 25000, values := 1 }) ∧
    (∀ y : LaneId, y ≠ 0 → s.fe[(0 : GroupId)].strobe[y] ≠ some { chip := s.laneTime / 25000, values := 2 }) ∧
    500 < ({ s with now := s.now + 501 } : State).laneTime % 25000 ∧
    f.probeDue 0 = true ∧ 2 ≤ f.activeLanes.length ∧ 2 ≤ freshInputs f.fe[(0 : GroupId)].inp f.now 4800 := by decide +kernel

/-- The source of L00 driven since before the code period that ended last; a channel lit in it, and one dark since before. -/
theorem wit_CodePeriodsGiveVerdicts :
    let s : State := { sv with fe := sv.fe.map fun f => { f with probeEn := 3 } }
    let t : State := { s with lanes := s.lanes.map fun L => { L with prov := L.prov.set 1 { ({} : Proving) with offAt := some sv.now } } }
    let v : Verdict := .intact
    ∃ k ∈ s.endedPeriod 0, t.endedPeriod 0 = some k ∧ s.inVoteThrough 0 k.start = true ∧ s.mode.mode.runs = true ∧ s.probedIn 0 k = true ∧
      (s.isOn 0 0 = false ∧ s.lanes[(0 : LaneId)].prov[(0 : Chan)].offAt.getD 0 ≤ k.start) ∧ t.probedIn 1 k = true ∧
      k.start < t.lanes[(0 : LaneId)].prov[(1 : Chan)].offAt.getD 0 ∧ (Verdict.failedLow).failed.isSome = true ∧ v.failed.isSome = false := by decide +kernel

/-- A partial window that has ended with the source of L00 driven, its correlation valid and below the cold band, and with it
not driven; and a matrix row that is due with Q15 open, and full. -/
theorem wit_PartialWindowsAndMatrixRows :
    let s := lg0 (fun B => { B with since := some 0, fine := (List.range 1240).map fun k => frow (39999300000 - 2560 * k) 0 }) { sv with fe := sv.fe.map fun f => { f with probeEn := 1 } }
    let m : State := { sv with act := { sv.act with matrixDue := [(5, 0)] } }
    let full : State := { m with mail := { m.mail with subs := m.mail.subs.set 0 0x10, rings := m.mail.rings.set 15 { ({} : Ring) with prod := 31 } } }
    (∃ k ∈ s.endedPartial 0, s.inVoteThrough 0 (s.localOf (k.cpn * codePeriod)) = true ∧ s.mode.mode.runs = true ∧ s.probedIn 0 k = true ∧ s.corrValid 0 (s.corrRow 0 k 0) k = true) ∧
    (∃ k ∈ sv.endedPartial 0, sv.inVoteThrough 0 (sv.localOf (k.cpn * codePeriod)) = true ∧ sv.mode.mode.runs = true ∧ sv.probedIn 0 k = false) ∧
    (m.act.matrixDue = (5, 0) :: [] ∧ m.supplier = some 0 ∧ m.mail.rings[(15 : RingId)].room 216 = true) ∧
    full.mail.rings[(15 : RingId)].room 216 = false ∧ full.subscribers 15 ≠ [] := by decide +kernel

/-- The voltage spare lent for modulator 0 in a step that began some time ago. -/
def lent (k : LoanStep) (d : Nat) (s : State := sv) : State :=
  grp0 (fun G => { G with under := { G.under with volt := { ({} : Loan) with step := k, since := sv.now - d } } }) s
/-- In every lane of G00, 3,000 fine pairs of zeros in the last 40 ms, and eight fast samples that agree. -/
def paired (s : State) : State :=
  lg0 (fun B => { B with since := some 0, fine := List.replicate 3000 (frow (sv.now - 100) 0)
                         fast := (List.range 8).map fun k => { row (64 * (8 - k)) 0 0 with t := sv.now - 100 } }) s
/-- In every lane of G00, one fine output in the last 50 ms of ZERO, which ended 60 ms ago, and one of the reference since;
and a CMPREF result within its limit. -/
def measured (s : State) : State :=
  grp0 (fun G => { G with watch := { G.watch with cmpref := [(sv.now - 1000, true)] } })
    (lg0 (fun B => { B with since := some 0, fine := [frow (sv.now - 1000) 5368709, frow (sv.now - 12001000) 0] }) s)

/-- A loan of the voltage spare in each step, at its last instant; a compare that passes; a pair that two lanes derive and that
may be adopted. -/
theorem wit_LoanStepsFollowEachOther :
    let step (s : State) : LoanStep := (s.groups[(0 : GroupId)].under.loan .volt).step
    let since (s : State) : Nat := (s.groups[(0 : GroupId)].under.loan .volt).since
    let at_ (k : LoanStep) (d : Nat) : Bool := let s := lent k d
      decide (step s = k) && decide (since s + d = s.now) && !(s.groups[(0 : GroupId)].under.loan .volt).again
    let p := paired (lent .shadowOut 8000000)
    let r := measured (grp0 (fun G => { G with under := { G.under with volt := { G.under.volt with zeroEnd := sv.now - 12000000 } } }) (lent .ref 12000000))
    (at_ .connect 2000000 = true ∧ at_ .zero 12000000 = true ∧ at_ .reconnect 2000000 = true ∧ at_ .release 4000000 = true) ∧
    (step p = .shadowOut ∧ (p.loanCompare 0 .volt).out = .passes) ∧
    (step r = .ref ∧ since r + 12000000 ≤ r.now) ∧
    ∃ k ∈ agreedPair (r.calSums 0 (r.groups[(0 : GroupId)].under.loan .volt).target (r.groups[(0 : GroupId)].under.loan .volt).zeroEnd) r.voteMask,
      adoptable k (r.fe[(0 : GroupId)].refs && decide (r.fe[(0 : GroupId)].refSetAt ≤ (r.groups[(0 : GroupId)].under.loan .volt).zeroAt))
        ((r.groups[(0 : GroupId)].watch.cmpref.filter fun e => decide (since r ≤ e.1)).map (·.2)) = true := by decide +kernel

theorem wit_HandoffsSwitchTheSource :
    let pass (k : LoanStep) : State := grp0 (fun G => { G with under := { G.under with volt := { G.under.volt with passedAt := some (sv.now - 200000000) } } }) (paired (lent k 200000000))
    let i := pass .shadowIn
    let o := pass .shadowOut
    let x (s : State) : Loan := s.groups[(0 : GroupId)].under.loan .volt
    (i.coppice.step = 0 ∧ (x i).target = (0 : Modulator) ∧ (x i).step = .shadowIn ∧ ∃ h ∈ i.handoffsNow 0, i.mayHandOff 0 .volt 0 (spareIdx .volt) (modChan 0 0) h = true ∧
      (i.switchAt .volt (modChan 0 0) true h).isSome = true) ∧
    (o.coppice.step = 0 ∧ (x o).target = (0 : Modulator) ∧ (x o).step = .shadowOut ∧ o.groups[(0 : GroupId)].pendLevel = none ∧
      ∃ h ∈ o.handoffsNow 0, o.mayHandOff 0 .volt (spareIdx .volt) 0 (modChan 0 0) h = true ∧ (o.switchAt .volt (modChan 0 0) false h).isSome = true) ∧
    ((x i).passedAt = some (sv.now - 200000000) ∧ sv.now - 200000000 + 200000000 ≤ i.now) ∧
    ((x (lent .shadowIn 200000000)).again = false ∧ (x (lent .shadowIn 200000000)).passedAt = none ∧ ((lent .shadowIn 200000000).loanCompare 0 .volt).out = .running ∧
      (x (lent .shadowIn 200000000)).since + 200000000 ≤ sv.now) ∧
    (x (lent .shadowOut 200000000)).step = .shadowOut ∧ (x (lent .shadowOut 200000000)).repeated = false ∧ (x (lent .shadowOut 200000000)).again = false := by decide +kernel

theorem wit_CalibrationsAdoptAgreedPairs :
    let s := measured (grp0 (fun G => { G with under := { G.under with volt := { G.under.volt with zeroEnd := sv.now - 12000000 } } }) (lent .selfRef 12000000))
    let x := s.groups[(0 : GroupId)].under.loan .volt
    let r : CalRun := { step := .ref, since := sv.now - 12000000, zeroEnd := sv.now - 12000000 }
    let c := measured (grp0 (fun G => { G with under := { G.under with runs := G.under.runs.set 4 (some r) } }) sv)
    (x.step = .selfRef ∧ x.again = false ∧ x.since + 12000000 ≤ s.now ∧ ∃ k ∈ agreedPair (s.calSums 0 (spareIdx .volt) x.zeroEnd) s.voteMask,
      adoptable k (s.fe[(0 : GroupId)].refs && decide (s.fe[(0 : GroupId)].refSetAt ≤ x.zeroAt))
        ((s.groups[(0 : GroupId)].watch.cmpref.filter fun e => decide (x.since ≤ e.1)).map (·.2)) = true) ∧
    (sv.groups[(0 : GroupId)].level = 0 ∧ sv.mode.mode.runs = true ∧ sv.groups[(0 : GroupId)].under.runs[(4 : Modulator)] = none ∧ sv.fe[(0 : GroupId)].refs = true ∧
      sv.groups[(0 : GroupId)].pendLevel = none ∧ sv.inPlaceKind 0 4 = some false) ∧
    (c.groups[(0 : GroupId)].level = 0 ∧ c.mode.mode.runs = true ∧ c.groups[(0 : GroupId)].under.runs[(4 : Modulator)] = some r ∧ r.again = false ∧ r.step = .ref ∧
      r.since + 12000000 ≤ c.now ∧ ∃ k ∈ agreedPair (c.calSums 0 4 r.zeroEnd) c.voteMask,
        adoptable k (c.fe[(0 : GroupId)].refs && decide (c.fe[(0 : GroupId)].refSetAt ≤ r.zeroAt)) ((c.groups[(0 : GroupId)].watch.cmpref.filter fun e => decide (r.since ≤ e.1)).map (·.2)) = true) ∧
    has sv.groups[(0 : GroupId)].under.overdue 0 = false ∧
    max sv.groups[(0 : GroupId)].under.adoptedAt[(0 : Modulator)] sv.groups[(0 : GroupId)].under.p0Since + 1200000000 ≤ sv.now := by decide +kernel

/-- A teach-in of L00 through its steps: what the lanes recorded of a lamp of 100 V and 0.5 A in two or three lanes, a different
cold resistance in each, and no period result at all. -/
theorem wit_TeachAdoptsWhatTwoLanesLearned :
    let e : Chan × Nat × Nat × Nat × Nat := (0, 4, 900, 1100, 0)
    let r : TeachRun := { num := 1, entries := [e], since := Vector.replicate 12 (sv.now - 500000000) }
    let on : Nat := sv.now - 450000000
    let rec_ : PeriodRec := { ({} : PeriodRec) with vrms := 3355443, irms := 104858, imean := 104858, valid := true }
    let w : TeachWatch := { colds := [200, 200, 200, 200], peaks := [(0, 410, 13107)], wins := (List.range 40).map fun k => (on + 304000000 + 2000000 * k, rec_)
                            after := (List.range 8).map fun k => (on + 28000 + 1280 * k, 410, 13107), offAt := some (sv.now - 10000000), decayAt := sv.now - 9000000 }
    let at_ (f : LaneId → TeachWatch) : State :=
      { up .commission with act := { sv.act with teach := some r }
                            lanes := Vector.ofFn fun l => { lane with teach := Vector.replicate 12 (f l), prov := lane.prov.set 0 { ({} : Proving) with onAt := some on, otAt := some on } } }
    let s := at_ fun l => if l = 1 then { w with colds := [300] } else w
    let d := at_ fun l => { w with colds := [200 + l.val] }
    let n := at_ fun _ => { w with wins := [] }
    (s.act.teach = some r ∧ r.entries.find? (fun y => y.1 == 0) = some e ∧ r.current (0 : Chan).group = some 0 ∧ s.activeLanes ≠ [] ∧
      ∀ l : LaneId, s.active l = true → (s.lanes[l].teach[(0 : Chan).group]).over r.since[(0 : Chan).group] s.now = true) ∧
    (∃ y ∈ s.teachAgreed e, y.rCold = 200 ∧ s.teachOutcome e y (has r.feedLost (0 : Chan).group) = 0) ∧ d.teachAgreed e = none ∧
    ∃ y ∈ n.teachAgreed e, n.teachOutcome e y (has r.feedLost (0 : Chan).group) ≠ 0 := by decide +kernel

/-! ## Commands of the mailbox path -/

/-- The conditions of `State.Admits` as a Bool. -/
def admits (s : State) (c : MailCmd) (op : Nat) : Bool :=
  s.mailUp && s.mail.txns.isEmpty && !s.activeLanes.isEmpty && decide (s.mail.rings[c.ring].used + entriesOf (8 + c.payload.length) ≤ 32) &&
  decide (c.tag.toNat < 64) &&
  (match opInfo op with
    | some i => s.srcAllowed i c.src c.ring && i.modes.allows s.mode.mode && i.life.allows s.mode.lifecycle && decide (i.lo ≤ c.payload.length) && decide (c.payload.length ≤ i.hi)
    | none => false) &&
  (op != 0x0101 || (match recShape (leAt c.payload 0 1) with
    | some (n, k) => decide (leAt c.payload 2 2 < n) && c.payload.length == 4 + k
    | none => false)) &&
  (op != 0x0203 || c.payload.length == 4 + 8 * leAt c.payload 0 1)
theorem admits_spec (s : State) (c : MailCmd) (op : Nat) (h : admits s c op = true) : s.Admits c op := by
  simp only [admits, Bool.and_eq_true, decide_eq_true_eq, Bool.not_eq_true', List.isEmpty_iff, List.isEmpty_eq_false_iff] at h
  obtain ⟨⟨⟨⟨⟨⟨⟨h1, h2⟩, h3⟩, h4⟩, h5⟩, h6⟩, h7⟩, h8⟩ := h
  refine ⟨h1, h2, h3, h4, h5, ?_, ?_, ?_⟩
  · split at h6
    · rename_i i hi
      simp only [Bool.and_eq_true, decide_eq_true_eq] at h6
      obtain ⟨⟨⟨⟨a, b⟩, c⟩, d⟩, e⟩ := h6
      exact ⟨i, hi, a, b, c, d, e⟩
    · exact absurd h6 (by simp)
  · rintro rfl
    simp only [bne_self_eq_false, Bool.false_or] at h7
    split at h7
    · rename_i n k hk
      simp only [Bool.and_eq_true, decide_eq_true_eq, beq_iff_eq] at h7
      exact ⟨n, k, hk, h7.1, h7.2⟩
    · exact absurd h7 (by simp)
  · rintro rfl
    simpa using h8

/-- A command of the maintenance node, of the local port. -/
def mcmd (p : Bytes) : MailCmd := { src := .maint, ring := 3, tag := 1, payload := p }
def hcmd (p : Bytes) : MailCmd := { src := .host, ring := 4, tag := 63, payload := p }
/-- COMMISSION in a life-cycle state. -/
def com (k : LifeCycle) : State := { up .commission with mode := { (up .commission).mode with lifecycle := some k } }
/-- HALT. -/
def halted : State := up .halt

theorem wit_ReadsAnswerAtOnce :
    let r : Bytes := toLe 1 1 ++ toLe 1 0x0E ++ toLe 2 0
    let o : State := { sv with upd := { sv.upd with owner := some .maint } }
    sv.Admits (mcmd []) 0x0000 ∧ sv.Admits (hcmd []) 0x0001 ∧ (sv.Admits (mcmd r) 0x0100 ∧ leAt r 0 1 ≤ 1 ∧ recNamed (leAt r 1 1) (leAt r 2 2) = true) ∧
    o.Admits (hcmd []) 0x0907 ∧ o.upd.owner = some .maint := by
  refine ⟨?_, ?_, ⟨?_, ?_⟩, ?_, ?_⟩
  all_goals first | exact admits_spec _ _ _ (by decide +kernel) | decide +kernel

theorem wit_LaneReadsAnswerForEachLane :
    let p : Bytes := [11, 0]
    sv.Admits (mcmd []) 0x0007 ∧ sv.Admits (mcmd []) 0x0009 ∧ sv.Admits (mcmd [0, 63]) 0x0300 ∧ (sv.Admits (mcmd p) 0x0301 ∧ leAt p 0 1 = (11 : GroupId).val ∧ octet p 1 = 0) ∧
    (sv.Admits (mcmd [95, 0]) 0x0400 ∧ leAt [95, 0] 0 1 = (95 : Chan).val) ∧ (sv.Admits (mcmd [1, 0]) 0x0500 ∧ leAt [1, 0] 0 1 = (1 : HubId).val) ∧
    sv.Admits (mcmd []) 0x0700 ∧ sv.Admits (mcmd [1, 0]) 0x0A00 := by
  refine ⟨?_, ?_, ?_, ⟨?_, ?_⟩, ⟨?_, ?_⟩, ⟨?_, ?_⟩, ?_, ?_⟩
  all_goals first | exact admits_spec _ _ _ (by decide +kernel) | decide +kernel

theorem wit_ModeRequestsAreLoggedOrKept :
    let p (m : Nat) : Bytes := toLe 4 m ++ toLe 4 7
    let c := com .commissioning
    (sv.Admits (mcmd (p 3)) 0x0004 ∧ allZero (p 3) 1 3 = true ∧ reqTarget (leAt (p 3) 0 1) = some sv.mode.mode ∧ badPerson (leAt (p 3) 4 4) = false) ∧
    (halted.Admits (mcmd (p 3)) 0x0004 → False) ∧ (Mode.service ≠ (up .safe).mode.mode ∧ (up .safe).reqPermitted .service = false ∧ (up .safe).Admits (mcmd (p 3)) 0x0004) ∧
    (Mode.halt ≠ c.mode.mode ∧ c.reqPermitted .halt = true ∧ c.act.teach = none ∧ reqTarget (leAt (p 7) 0 1) = some .halt ∧ c.Admits (mcmd (p 7)) 0x0004) ∧
    Mode.service ≠ c.mode.mode ∧ c.reqPermitted .service = true ∧ Mode.service ≠ .halt ∧ c.Admits (mcmd (p 3)) 0x0004 := by
  refine ⟨⟨?_, ?_, ?_, ?_⟩, ?_, ⟨?_, ?_, ?_⟩, ⟨?_, ?_, ?_, ?_, ?_⟩, ?_, ?_, ?_, ?_⟩
  all_goals first | exact admits_spec _ _ _ (by decide +kernel) | decide +kernel | skip
  rintro ⟨-, -, -, -, -, ⟨i, h1, -, h2, -⟩, -⟩
  simp only [opInfo, Option.some.injEq] at h1
  subst h1
  exact absurd h2 (by decide +kernel)

theorem wit_LifecycleTakesTwoSteps :
    let p (k st w : Nat) : Bytes := toLe 1 k ++ toLe 1 st ++ toLe 2 w ++ toLe 4 7 ++ toLe 4 0
    let s := com .commissioning
    let t (k : LifeCycle) (n : Nat) : State := { com k with mode := { (com k).mode with lcStep := some (.maint, n, 7, 0x1234, sv.now - 60 * Config.sec) } }
    (s.Admits (mcmd (p 4 1 0)) 0x0005 ∧ allZero (p 4 1 0) 8 4 = true ∧ badPerson (leAt (p 4 1 0) 4 4) = false ∧ lcTarget (leAt (p 4 1 0) 0 1) = some .maintenance ∧
      lcStepOf .commissioning .maintenance = none) ∧
    (s.Admits (mcmd (p 1 1 0)) 0x0005 ∧ lcTarget (leAt (p 1 1 0) 0 1) = some .factory ∧ lcStepOf .commissioning .factory ≠ none) ∧
    (s.mode.lcStep = none ∧ s.Admits (mcmd (p 1 2 0)) 0x0005) ∧
    ((t .sealed 4).Admits (mcmd (p 4 2 0x1234)) 0x0005 ∧ lcStepOf .sealed .maintenance = some false ∧
      (t .sealed 4).mode.lcStep = some ((mcmd []).src, leAt (p 4 2 0x1234) 0 1, BitVec.ofNat 32 (leAt (p 4 2 0x1234) 4 4), 0x1234, sv.now - 60 * Config.sec)) ∧
    (t .commissioning 1).Admits (mcmd (p 1 2 0x1234)) 0x0005 ∧ lcStepOf .commissioning .factory = some true := by
  refine ⟨⟨?_, ?_⟩, ⟨?_, ?_⟩, ⟨?_, ?_⟩, ⟨?_, ?_⟩, ?_, ?_⟩
  all_goals first | exact admits_spec _ _ _ (by decide +kernel) | decide +kernel

theorem wit_ResetsTakeTwoSteps :
    let p : Bytes := toLe 2 0x1234 ++ toLe 2 0 ++ toLe 4 7
    let s : State := { halted with mode := { halted.mode with armed := some (7, 0x1234, sv.now - 10 * Config.sec), resetDue := some 0 } }
    (halted.Admits (hcmd (toLe 4 7)) 0x000A ∧ badPerson (leAt (toLe 4 7) 0 4) = false) ∧ (halted.Admits (hcmd p) 0x000B ∧ halted.mode.armed = none) ∧
    (s.Admits (hcmd p) 0x000B ∧ allZero p 2 2 = true ∧ badPerson (leAt p 4 4) = false ∧
      s.mode.armed = some (BitVec.ofNat 32 (leAt p 4 4), 0x1234, sv.now - 10 * Config.sec) ∧ leAt p 0 2 = (0x1234 : Word).toNat) ∧
    halted.mode.resetDue = none ∧ (s.mode.resetDue ≠ none ∧ 2 ≤ s.activeLanes.length) ∧ State.reset.activeLanes.length < 2 := by
  refine ⟨⟨?_, ?_⟩, ⟨?_, ?_⟩, ⟨?_, ?_⟩, ?_⟩
  all_goals first | exact admits_spec _ _ _ (by decide +kernel) | decide +kernel

theorem wit_StreamsAndCapturesStart :
    let p (trig pre : Nat) : Bytes := [0, 2] ++ toLe 2 trig ++ toLe 2 16384 ++ toLe 2 pre
    let r : CaptureRun := { id := 1, chan := 0, sel := 0, trig := 0, samples := 4, pre := 0, since := 0, lane := 0 }
    let s : State := { sv with act := { sv.act with capture := some r } }
    (sv.Admits (hcmd [0x1F, 0, 0, 0]) 0x0006 ∧ octet [0x1F, 0, 0, 0] 0 &&& 0xE0#8 = 0 ∧ allZero [0x1F, 0, 0, 0] 1 3 = true) ∧
    (let q : Bytes := toLe 4 0xFFFFFFFF ++ toLe 2 1000 ++ toLe 2 0
     sv.Admits (mcmd q) 0x0008 ∧ allZero q 6 2 = true ∧ 1 ≤ leAt q 4 2 ∧ leAt q 4 2 ≤ 1000) ∧
    (let q : Bytes := toLe 12 (2 ^ 95) ++ toLe 4 64
     sv.Admits (mcmd q) 0x0401 ∧ allZero q 13 3 = true ∧ leAt q 12 1 ≤ 64 ∧ maskAt 96 q 0 ≠ 0) ∧
    (sv.Admits (mcmd (p 2 16383)) 0x0302 ∧ octet (p 2 16383) 1 &&& 0xFC#8 = 0 ∧ octet (p 2 16383) 3 = 0 ∧ leAt (p 2 16383) 2 1 ≤ 2 ∧ leAt (p 2 16383) 4 2 ≤ 16384 ∧
      leAt (p 2 16383) 6 2 < leAt (p 2 16383) 4 2 ∧ leAt (p 2 16383) 2 1 = 2) ∧ (sv.act.capture = none ∧ s.act.capture ≠ none ∧ s.Admits (mcmd (p 0 0)) 0x0302) ∧
    s.Admits (mcmd []) 0x0303 ∧ sv.Admits (mcmd []) 0x0303 := by
  refine ⟨⟨?_, ?_⟩, ⟨?_, ?_⟩, ⟨?_, ?_⟩, ⟨?_, ?_⟩, ⟨?_, ?_, ?_⟩, ?_, ?_⟩
  all_goals first | exact admits_spec _ _ _ (by decide +kernel) | decide +kernel

theorem wit_ParameterCommandsChangeTheWorkingCopy :
    let w : Bytes := toLe 1 8 ++ toLe 1 0 ++ toLe 2 0 ++ toLe 4 3
    let b : State := { com .maintenance with flash := { (com .maintenance).flash with banks := #v[some { image := prm }, none], bankActive := true } }
    (b.Admits (mcmd w) 0x0101 ∧ octet w 1 = 0 ∧ reservedClear (leAt w 0 1) (w.drop 4) = true ∧
      ¬((leAt w 0 1 = 3 ∨ leAt w 0 1 = 4) ∧ b.teaching (leAt w 2 2) = true) ∧ b.activeBank.isSome = true) ∧
    b.Admits (hcmd []) 0x0102 ∧ (b.Admits (hcmd [0xFF, 0, 0xFF, 0xFF]) 0x0103 ∧ leAt [0xFF, 0, 0xFF, 0xFF] 2 2 = 0xFFFF) ∧
    b.Admits (hcmd [3, 0, 95, 0]) 0x0103 ∧ recShape (leAt [3, 0, 95, 0] 0 1) = some (96, 40) ∧ leAt [3, 0, 95, 0] 2 2 < 96 := by
  refine ⟨⟨?_, ?_⟩, ?_, ⟨?_, ?_⟩, ?_, ?_⟩
  all_goals first | exact admits_spec _ _ _ (by decide +kernel) | decide +kernel

/-- An image that passes every check of sealing: no channel in use. -/
def unused : ParamImage := { ParamImage.defaults 20 with
  groupOut := Vector.replicate 12 (toLe 1 1 ++ toLe 3 0 ++ toLe 2 10 ++ toLe 2 10 ++ toLe 1 60 ++ toLe 1 30 ++ toLe 2 100 ++ toLe 2 250 ++ toLe 2 20) }
theorem slice_seal (a b : Nat) (p : Bytes) : slice (toLe 4 a ++ toLe 4 b ++ p) 0 8 = toLe 4 a ++ toLe 4 b := rfl
theorem unused_seals : sealFailure unused 20 = none := by decide +kernel

/-- SEAL_CONFIRM of the code, and of another, while COMMISSIONING, and a working copy that fails. -/
theorem wit_SealsPutTheWorkingCopyInForce :
    let s : State := { com .commissioning with working := unused }
    let c : MailCmd := mcmd (unused.sealOctets ++ toLe 4 7)
    let f : State := { com .commissioning with working := ParamImage.defaults 20 }
    (s.Admits (mcmd []) 0x0104 ∧ sealFailure s.working (s.nodeOf s.working) = none) ∧ (sealFailure f.working (f.nodeOf f.working)).isSome = true ∧
    (s.Admits c 0x0105 ∧ slice c.payload 0 8 = s.working.sealOctets) ∧
    badPerson (leAt (mcmd (toLe 8 0 ++ toLe 4 7)).payload 8 4) = false ∧ s.Admits (mcmd (toLe 8 0 ++ toLe 4 7)) 0x0105 ∧ ∀ x ∈ s.faults, x.scope.length = 4 := by
  refine ⟨⟨?_, unused_seals⟩, ?_, ⟨?_, slice_seal _ _ _⟩, ?_, ?_, ?_⟩
  all_goals first | exact admits_spec _ _ _ (by decide +kernel) | decide +kernel

/-- A command of the update session's owner, through Q05. -/
def scmd (p : Bytes) : MailCmd := { src := .host, ring := 5, tag := 2, payload := p }

theorem wit_ClearsAndTestsAwaitTheirEffect :
    let c := com .commissioning
    let one : Bytes := toLe 12 1
    let lc : Bytes := one ++ toLe 2 4095 ++ [15, 15]
    let te : Bytes := toLe 4 1 ++ toLe 1 3 ++ toLe 1 2 ++ toLe 2 900 ++ toLe 2 1100 ++ toLe 2 100
    let lt : Bytes := toLe 12 15 ++ [5, 0] ++ toLe 2 600
    let ft : Bytes := toLe 6 4 ++ toLe 2 1
    let run : TimedTest := { num := 0 }
    let q : State := { c with fe := c.fe.map fun f => { f with aux := { f.aux with ctrl := 0x2210 } } }
    let k : PendingClear := { num := 1, prove := 1 }
    let v : State := { sv with act := { sv.act with clears := [k] }, mail := { sv.mail with txns := [{ num := 1, src := .maint, ring := 3, octets := [], entries := 1, storedAt := 0, judged := true, started := 7 }] } }
    let lamps := lit 1
    let f : State := { c with act := { c.act with field := some run } }
    let p : State := { c with act := { c.act with proof := some { num := 0, mask := 1, deadline := 0 } } }
    (sv.Admits (mcmd one) 0x0201 ∧ maskAt 96 one 0 ≠ 0) ∧
    (sv.Admits (mcmd lc) 0x0202 ∧ leAt lc 12 2 < 4096 ∧ leAt lc 14 1 < 16 ∧ octet lc 15 &&& 0xF0#8 = 0 ∧ octet lc 15 ≠ 0 ∧ maskAt 96 lc 0 ≠ 0) ∧
    (q.Admits (mcmd te) 0x0203 ∧ allZero te 1 3 = true ∧ teachEntries te = some [(3, 2, 900, 1100, 100)] ∧
      (∀ e ∈ ([(3, 2, 900, 1100, 100)] : List (Chan × Nat × Nat × Nat × Nat)), 1 ≤ e.2.1 ∧ e.2.1 ≤ 5 ∧ c.working.used e.1 = true ∧ c.teachFeed e.1.group = true ∧ classFits c.working e.1 e.2.1 = true) ∧
      (∀ g : GroupId, auxMode q.fe[g].aux.ctrl = 2) ∧ c.act.teach = none ∧ c.act.lamp = none ∧ c.activating = false) ∧
    (c.Admits (mcmd lt) 0x0204 ∧ octet lt 13 = 0 ∧ maskAt 96 lt 0 ≠ 0 ∧ 1 ≤ leAt lt 12 1 ∧ leAt lt 12 1 ≤ 5 ∧ 1 ≤ leAt lt 14 2 ∧ leAt lt 14 2 ≤ 600 ∧
      ∀ i : Chan, has (maskAt 96 lt 0) i = true → c.working.configured i = true) ∧
    (c.Admits (mcmd ft) 0x0601 ∧ maskAt 48 ft 0 ≠ 0 ∧ 1 ≤ leAt ft 6 2 ∧ leAt ft 6 2 ≤ 600 ∧ (∀ q : Point, has (maskAt 48 ft 0) q = true → c.working.isOut q = true) ∧ c.act.field = none) ∧
    (f.Admits (mcmd ft) 0x0601 ∧ f.act.field ≠ none) ∧ (sv.Admits (mcmd one) 0x0701 ∧ sv.act.proof = none) ∧
    (v.voteDue = true ∧ v.act.clears = [k] ∧ (∃ x ∈ v.txn 1, v.allStarted x = true) ∧ v.active 0 = true) ∧
    (sv.testFree 0 = true ∧ sv.onGrid = true ∧ sv.nearPeak 0 = true ∧ sv.taught 0 = false ∧ c.targetMode = .commission ∧
      (∀ l : LaneId, lamps.active l = true → lamps.steadyOn l 0 = true) ∧ (∀ l : LaneId, sv.active l = true → sv.isOn l 0 = false ∧ cmdDark sv.lanes[l].inForce.cmd[(0 : Chan)] = true) ∧
      ∀ x : LaneId, sv.stands FaultCode.driveLink [0, x.val] = false) ∧
    (maskOf fun i => has (maskAt 96 one 0) i && sv.lampParams.used i && ((sv.activeLanes.all fun l => sv.steadyOn l i) || sv.activeLanes.all fun l => !sv.isOn l i)) ≠ (0 : ChanMask) ∧
    (maskOf fun i => has (maskAt 96 (toLe 12 16) 0) i && sv.lampParams.used i) = (0 : ChanMask) ∧ sv.Admits (mcmd (toLe 12 16)) 0x0701 ∧
    p.Admits (mcmd one) 0x0701 ∧ p.act.proof ≠ none := by
  refine ⟨⟨?_, ?_⟩, ⟨?_, ?_⟩, ⟨?_, ?_⟩, ⟨?_, ?_⟩, ⟨?_, ?_⟩, ⟨?_, ?_⟩, ⟨?_, ?_⟩, ?_, ?_, ?_, ?_, ?_, ?_, ?_⟩
  all_goals first | exact admits_spec _ _ _ (by decide +kernel) | decide +kernel

theorem wit_WearCommandsReadAndClear :
    let r (k n : Nat) : Bytes := toLe 1 k ++ toLe 1 n ++ toLe 2 0 ++ toLe 4 7
    let m := com .maintenance
    (sv.Admits (mcmd [1, 95]) 0x0800 ∧ leAt [1, 95] 1 1 = (95 : Chan).val ∧ leAt [1, 95] 0 1 = 1) ∧ (sv.Admits (mcmd [2, 95]) 0x0800 ∧ leAt [2, 95] 0 1 = 2) ∧
    (sv.Admits (mcmd [3, 11]) 0x0800 ∧ leAt [3, 11] 1 1 = (11 : GroupId).val ∧ leAt [3, 11] 0 1 = 3) ∧ sv.Admits (mcmd []) 0x0801 ∧
    (m.Admits (mcmd (r 1 95)) 0x0802 ∧ allZero (r 1 95) 2 2 = true ∧ badPerson (leAt (r 1 95) 4 4) = false ∧ leAt (r 1 95) 0 1 = 1 ∧ leAt (r 1 95) 1 1 = (95 : Chan).val) ∧
    (m.Admits (mcmd (r 3 11)) 0x0802 ∧ leAt (r 3 11) 0 1 = 3 ∧ leAt (r 3 11) 1 1 = (11 : GroupId).val) ∧
    sv.Admits (mcmd []) 0x0702 ∧ sv.coppice.step = 0 ∧ sv.windowMay (if sv.mode.voted = true then sv.nextAp + sv.localIn sv.tCyc else sv.nextAp) = true := by
  refine ⟨⟨?_, ?_⟩, ⟨?_, ?_⟩, ⟨?_, ?_⟩, ?_, ⟨?_, ?_⟩, ⟨?_, ?_⟩, ?_, ?_⟩
  all_goals first | exact admits_spec _ _ _ (by decide +kernel) | decide +kernel

theorem wit_DownloadsFillTheOtherSlot :
    let o : Bytes := toLe 4 8388608 ++ toLe 4 5
    let b (off : Nat) : Bytes := toLe 4 off ++ [1, 2]
    let u (k : UpdState) (s : State) : State := { s with upd := { s.upd with st := k, owner := some .host, size := 6, received := 4 } }
    (sv.Admits (mcmd o) 0x0900 ∧ 1 ≤ leAt o 0 4 ∧ leAt o 0 4 ≤ 8388608 ∧ sv.upd.st ≠ .trial) ∧
    ((u .receiving sv).Admits (scmd (b 4)) 0x0901 ∧ (u .receiving sv).upd.st.opened = true ∧ leAt (b 4) 0 4 + ((b 4).drop 4).length ≤ (u .receiving sv).upd.size ∧
      leAt (b 4) 0 4 = (u .receiving sv).upd.received) ∧
    ((u .receiving sv).Admits (scmd (b 3)) 0x0901 ∧ leAt (b 3) 0 4 ≠ (u .receiving sv).upd.received) ∧
    ((u .received sv).Admits (scmd []) 0x0902 ∧ (u .received sv).upd.st = .received) ∧
    (u .receiving sv).Admits (scmd []) 0x0906 ∧ (u .receiving sv).upd.st ≠ .trial := by
  refine ⟨⟨?_, ?_⟩, ⟨?_, ?_⟩, ⟨?_, ?_⟩, ⟨?_, ?_⟩, ?_, ?_⟩
  all_goals first | exact admits_spec _ _ _ (by decide +kernel) | decide +kernel

/-- An image of one octet, signed with the key 0x1234…cdef (R512, R513); the signature was computed outside Lean. -/
def image : Bytes :=
  [0x49, 0x44, 0x56, 0x31] ++ toLe 2 1 ++ toLe 2 0x0960 ++ toLe 4 0xFFFFFFFF ++ toLe 4 5 ++ toLe 4 3 ++ toLe 4 1 ++ toLe 2 1 ++ toLe 2 1 ++ toLe 1 0 ++ toLe 1 2 ++ toLe 2 0 ++
  sha256 [0xA5] ++ List.replicate 384 0 ++ toLe 32 0xecf269583287f9c20ced5bb358f0005f2946e89ca7d0115cf4867eabec4e3185 ++
  toLe 32 0x12d9b44cd921c780ab1bcb43b1a7237bed89fa39b67e8d5ad1187226a24f9e93 ++ [0xA5]
/-- One-time-programmable memory with that key and chips of design 1. -/
def keyed : Otp := { ({} : Otp) with
  keys := #v[(0x471c3e758c4904285bba7e53118ed0f524adeb0757d25bd2f8e7b0d76dfa714c, 0xdd520f7aca8a8b917acc37f51de8f0c9bbe3ad858382e702dc25a12d09f7a858), (0, 0), (0, 0), (0, 0)]
  chips := Vector.replicate 21 { ({} : ChipId) with design := 1 } }
theorem image_is_ok : keyed.imageStatus image image.length = Status.ok := by decide +kernel

theorem wit_TrialsStartAndEnd :
    let c := com .commissioning
    let v : State := { c with upd := { c.upd with st := .verified, owner := some .host } }
    let t : State := { c with upd := { c.upd with st := .trial, trialRun := true } }
    let r : State := { c with otp := keyed, flash := { c.flash with slots := #v[[], image] } }
    let n : State := { c with flash := { c.flash with delivered := 0 } }
    (v.Admits (scmd []) 0x0903 ∧ v.upd.st = .verified ∧ v.act.teach = none ∧ v.act.lamp = none ∧ v.act.field = none) ∧
    (t.Admits (mcmd []) 0x0904 ∧ t.upd.trialRun = true ∧ t.upd.incompat = false ∧ t.flash.bootRec.fallbackBank = none) ∧
    (t.Admits (mcmd []) 0x0905 ∧ t.flash.bootRec.counted = true) ∧
    (n.Admits (mcmd []) 0x0905 ∧ n.upd.trialRun = false ∧ n.upd.owner = none ∧ n.slotPasses (other n.flash.bootRec.activeSlot) = false ∧
      has c.flash.delivered (other c.flash.bootRec.activeSlot) = true) ∧
    r.Admits (mcmd []) 0x0905 ∧ r.otp.imageStatus r.flash.slots[other r.flash.bootRec.activeSlot] r.flash.slots[other r.flash.bootRec.activeSlot].length = Status.ok := by
  refine ⟨⟨?_, ?_⟩, ⟨?_, ?_⟩, ⟨?_, ?_⟩, ⟨?_, ?_⟩, ?_, image_is_ok⟩
  all_goals first | exact admits_spec _ _ _ (by decide +kernel) | decide +kernel

/-- A NOP answered by two lanes, by none after 20 ms, a COUNTS_READ after 20 ms, and a command two lanes have started. -/
theorem wit_AnswersNeedTwoLanes :
    let ok : Reply := okReply []
    let x : Txn := { num := 1, src := .maint, ring := 3, octets := cmdOctets (mcmd []) 0x0000, entries := 1, storedAt := 0, judged := true, started := 3, outcome := some ok
                     replies := #v[some ok, some ok, none], firstAt := some (sv.now - 20 * Config.ms) }
    let late : Txn := { x with replies := #v[some ok, none, none] }
    let ls : Txn := { x with octets := cmdOctets (mcmd []) 0x0007 }
    let w (t : Txn) : State := { sv with mail := { sv.mail with txns := [t] } }
    let full : State := { sv with mail := { sv.mail with rings := sv.mail.rings.set 9 { ({} : Ring) with prod := 32, waiting := [{ octets := [0], dests := [] }] } } }
    ((w x).txn 1 = some x ∧ x.done = false ∧ x.lspec = false ∧ (w x).mailUp = true ∧ x.agreed = some 0 ∧ x.replies[(0 : LaneId)] = some ok) ∧
    ((w late).txn 1 = some late ∧ late.agreed = none ∧ late.late (w late).now = true) ∧ ((w ls).txn 1 = some ls ∧ ls.lspec = true ∧ ls.late (w ls).now = true) ∧
    full.mailUp = true ∧
    (w x).active 2 = true ∧ (w x).mailUp = true ∧ (w x).ringDue 2 = some 3 ∧ (w x).unstarted 2 3 = x :: [] ∧ ((w x).mail.txns.map (·.num)).Nodup ∧
    (∀ y ∈ (w x).mail.txns, y.judged = true) ∧ x.outcome = some ok ∧ x.replies[(2 : LaneId)] = none := by decide +kernel

/-! ## The cycle and the bus -/

/-- Both hubs are linked and in SEND. -/
def onBus (s : State) : State :=
  let b : HubBus := { ({} : HubBus) with link := true, acquired := true, integ := .send, validThis := true }
  { s with hubs := s.hubs.map fun H => { H with bus := b } }
/-- A hub's part replaced in both hubs. -/
def hubs (f : HubState → HubState) (s : State) : State := { s with hubs := s.hubs.map f }
/-- A null frame, a cyclic frame of a master with its time, as they lie on the bus (R211). -/
def hdr (cyc sender type plen : Nat) : Bytes :=
  toLe 1 16 ++ toLe 2 cyc ++ toLe 1 sender ++ toLe 1 type ++ toLe 1 (2 + (if plen = 0 then 1 else 0)) ++ toLe 2 plen ++ toLe 1 0 ++ toLe 4 0 ++ toLe 3 0
def nullFrame (cyc sender : Nat) : Bytes := frameOf (hdr cyc sender 0 0) []
def timeFrame (cyc sender gt : Nat) : Bytes := frameOf (hdr cyc sender 2 10) (toLe 1 3 ++ toLe 1 0xFF ++ toLe 8 gt)
def rx (o : Bytes) : RxFrame := { late := 0, codeOk := true, octets := o }

theorem wit_VotedOutputsNeedTwoMasters :
    let s : State := { sv with mode := { sv.mode with voted := true } }
    s.voteDue = false ∧ sv.voteDue = true ∧ sv.active 0 = true ∧ sv.mode.mode.drives = true ∧ sv.activeLanes ≠ [] ∧ sv.anyStands FaultCode.noQuorum = false ∧
    ∀ m n : MasterId, m ≠ n → (sv.masterView m).freshAt (2 * sv.params.maxAge) = false ∨ (sv.masterView n).freshAt (2 * sv.params.maxAge) = false := by decide +kernel

theorem wit_ActionPointsPutImagesInForce :
    let e : State := { sv with bus := { sv.bus with apAt := sv.now } }
    let n : State := { sv with bus := { sv.bus with apAt := sv.now + 440 - sv.tCyc } }
    let b := hubs (fun H => { H with time := { H.time with gt := 100000 } }) (onBus sv)
    e.apDue = false ∧ (sv.apDue = true ∧ sv.bus.coldStart = false ∧ ((sv.limitsAtAction (sv.now - sv.bus.apAt)).compareHubs).leader = none) ∧
    (b.apDue = true ∧ ((b.limitsAtAction (b.now - b.bus.apAt)).compareHubs).leader = some 0) ∧ sv.active 0 = true ∧ sv.lanes[(0 : LaneId)].noImage = false ∧ n.now + 440 ≤ n.nextAp ∧
    sv.nextAp < sv.now + 440 ∧ sv.active 2 = true ∧ ({ sv with lanes := sv.lanes.set 1 {} } : State).active 1 = false := by decide +kernel

theorem wit_FreezesAndSlotsReport :
    let x : Txn := { num := 1, src := .maint, ring := 3, octets := cmdOctets (mcmd []) 0x0002, entries := 1, storedAt := 0, judged := true, started := 7 }
    let f : State := { sv with mail := { sv.mail with txns := [x] } }
    let e : State := { sv with mode := { sv.mode with frozen := true } }
    let at20 (s : State) : State := hubs (fun H => { H with time := { H.time with gt := BitVec.ofNat 64 (2 * s.params.slotStart 0 20 + 50) } }) s
    let n := at20 (onBus sv)
    let o := hubs (fun H => { H with bus := { H.bus with sub := #v[some (List.replicate 96 0), none, none] } }) n
    let c : State := { hubs (fun H => { H with bus := { H.bus with link := true } }) (at20 sv) with bus := { sv.bus with coldStart := true } }
    e.freezeDue = false ∧ (f.freezeDue = true ∧ (f.mail.txns.map (·.num)).Nodup ∧ (∀ h : HubId, f.hubs[h].inReset = false) ∧ f.active 0 = true) ∧
    (x.judged = true ∧ x.outcome = none ∧ f.allStarted x = true ∧ (f.freezeReply x 0).isSome = true ∧ has x.started 2 = true ∧ x.replies[(2 : LaneId)] = none) ∧
    (o.ownSlot = some 20 ∧ o.mode.mode.runs = true ∧ o.bus.sent = false ∧ o.canSendOn 0 = true ∧ o.atSlot 0 20 = true ∧
      (∀ b ∈ o.bus.answers, b.length = 8) ∧ (∀ l : LaneId, ∀ b ∈ o.hubs[o.gtHub].bus.sub[l], b.length = 96) ∧ o.hubs[(0 : HubId)].bus.link = true ∧ o.hubs[(0 : HubId)].sends = true ∧
      o.bus.coldStart = false ∧ (∃ l : LaneId, o.hubs[o.gtHub].bus.sub[l] ≠ none)) ∧
    (n.canSendOn 0 = true ∧ n.atSlot 0 20 = true ∧ ∀ l : LaneId, n.hubs[n.gtHub].bus.sub[l] = none) ∧
    (c.canSendOn 0 = true ∧ c.atSlot 0 20 = true ∧ c.ownSlot = some 20 ∧ c.bus.coldStart = true ∧ c.hubs[(0 : HubId)].alive = true) := by decide +kernel

theorem ne_add_one (x : DWord) : x ≠ x + 1 := by bv_omega

/-- Three lanes, where the last record matches, differs alone, or all differ; two lanes, with and without a window. -/
theorem wit_ComparesWithdrawTheMinority :
    let x : CmpSeen := { index := 5, sender := 1, check := 0, same := true }
    let own : CmpOwn := { index := 5, base := [], groups := Vector.replicate 12 [], mask := 0xFFF }
    let holds (xs : List CmpSeen) (s : State) : State := { s with lanes := s.lanes.map fun L => { L with cmpOwn := [own], cmpSeen := xs } }
    let s := holds [x, { x with index := 4 }] sv
    let d := holds [] { up .degraded with lanes := (up .degraded).lanes.set 1 { lane with st := .lost } }
    let w := holds [] { sv with lanes := sv.lanes.set 1 { lane with st := .resting }, coppice := { sv.coppice with rest := some 1, step := 3 } }
    let r (n : DWord) : CompareRec := { index := 5, mask := 0, check := own.check (0 &&& own.mask) + n }
    ((0 : LaneId) ≠ 2 ∧ s.active 0 = true ∧ s.active 2 = true ∧ s.mode.mode.runs = true ∧ s.activeLanes.length = 3 ∧ s.lanes[(0 : LaneId)].evalAt 5 = some own ∧
      s.lanes[(2 : LaneId)].evalAt own.index = some own ∧ s.recordOf 2 own .asSent ≠ none ∧
      (s.lanes[(0 : LaneId)].cmpSeen.filter fun y => y.index == 5 && y.sender != 2 && s.active y.sender) = [x] ∧ x.sender ≠ 0 ∧ x.same = true ∧
      ({ x with same := false } : CmpSeen).same = false ∧ (∀ l : LaneId, ∀ a ∈ s.lanes[l].lastRestart, a + day24 ≤ s.now)) ∧
    (∀ n, s.recordOf 2 own (.record 0 (own.check (0 &&& own.mask) + n)) = some (r n)) ∧
    own.check ((r 1).mask &&& own.mask) ≠ (r 1).check ∧ own.check ((r 0).mask &&& own.mask) = (r 0).check ∧
    (d.activeLanes.length = 2 ∧ d.lanes[(0 : LaneId)].cmpSeen = [] ∧ d.lanes[(0 : LaneId)].evalAt 5 = some own ∧ d.windowOpen = false ∧ d.mode.mode = .degraded) ∧
    w.activeLanes.length = 2 ∧ w.lanes[(0 : LaneId)].cmpSeen = [] ∧ w.lanes[(0 : LaneId)].evalAt 5 = some own ∧ w.windowOpen = true ∧ w.coppice.aborted = false ∧
    w.coppice.step < 7 ∧ w.mode.mode.runs = true := by
  refine ⟨?_, fun n => rfl, ne_add_one _, (BitVec.add_zero _).symm, ?_, ?_⟩
  all_goals decide +kernel

theorem wit_FramesAreJudgedInOrder :
    let q := hubs (fun H => { H with bus := { H.bus with silent := 8 } }) sv
    let t := hubs (fun H => { H with bus := { H.bus with cycle := 100 }, time := { H.time with gt := 118 } }) (onBus sv)
    let a := hubs (fun H => { H with bus := { H.bus with link := true, integ := .acquire } }) sv
    let f := rx (timeFrame 100 0 777)
    let cl : State := { onBus sv with bus := { sv.bus with nodeId := 60, emptyTwice := [58, 59] }, working := { sv.working with bus := (sv.working.bus.take 3) ++ [1] ++ sv.working.bus.drop 4 } }
    let w : State := { sv with bus := { sv.bus with claimWait := some 5, apCycle := 6 } }
    (q.mode.mode.runs = true ∧ q.hubs[(0 : HubId)].inReset = false ∧ q.hubs[(0 : HubId)].bus.chDown = false ∧ q.params.chDown ≤ q.hubs[(0 : HubId)].bus.silent ∧
      q.stands FaultCode.channelDown [0] = false) ∧ sv.hubs[(0 : HubId)].bus.silent < sv.params.chDown ∧ sv.hubs[(0 : HubId)].bus.link = false ∧
    (t.hubs[(0 : HubId)].bus.link = true ∧ t.timed 0 = true ∧ rxEarly f = 0 ∧ t.judgeFrame 0 f = 0 ∧ t.params.payloadOk f.octets = true ∧
      t.params.sourceOf (Frame.sender f.octets) = some (.master 0) ∧ t.hubs[(0 : HubId)].bus.integ ≠ .acquire ∧ Frame.plen f.octets ≠ 0 ∧ Frame.type f.octets ≠ 1 ∧ t.pastSlot 0 (t.placeOf 0 f).1 = false) ∧
    (hubs (fun H => { H with time := { H.time with gt := 50000 } }) t).pastSlot 0 0 = true ∧
    (t.judgeFrame 0 (rx (timeFrame 101 0 777)) = 7 ∧ rxEarly { f with octets := f.octets.set 0 0 } = 2) ∧
    (a.hubs[(0 : HubId)].bus.link = true ∧ a.timed 0 = false ∧ a.hubs[(0 : HubId)].bus.integ = .acquire ∧ setValid a.params a.bus.nodeId (Frame.sset f.octets) = true ∧
      a.params.payloadOk f.octets = true ∧ a.params.slotOf (Frame.sset f.octets) (Frame.sender f.octets) = some 0 ∧ a.params.isSync (Frame.sset f.octets) 0 = true ∧
      (a.params.timesIn f.octets).head? = some 777) ∧
    (sv.mayClaim = false ∧ cl.mayClaim = true ∧ cl.bus.claimWait = none ∧ 58 ∈ cl.bus.emptyTwice ∧ ∀ i ∈ cl.bus.emptyTwice, 58 ≤ i) ∧
    sv.bus.claimWait = none ∧ w.bus.claimWait = some 5 ∧ laterCycle w.bus.apCycle 5 = true := by decide +kernel

theorem wit_HubsCorrectIntegrateAndColdStart :
    let dev (xs : List Int) : List SyncDev := xs.map fun d => { slot := 0, node := 0, dev := d }
    let c (xs : List Int) (n : Nat) : State := hubs (fun H => { H with time := { H.time with gt := 89600, devs := dev xs, overRun := n } }) (onBus sv)
    let g := hubs (fun H => { H with bus := { H.bus with validThis := false, ssetFails := 1 } }) (c [] 0)
    let vals (s : State) : List Int := (s.hubs[(0 : HubId)].time.devs.filter fun d => decide (d.dev.natAbs ≤ 100)).map (·.dev)
    let i (k : Integ) : State := hubs (fun H => { H with bus := { H.bus with integ := k, acquired := true }, time := { H.time with gt := 100000, corrected := true, c := some 50 } }) sv
    let ch : SchedChange := { target := 1, requester := 1, rcyc := 3, answered := [1, 20], needed := [1, 20], lastCycle := 0, lastSlot := 0 }
    let sc (ch : SchedChange) (n : Word) : State := { onBus sv with bus := { sv.bus with change := some ch, apCycle := n } }
    let cold : State := { sv with bus := { sv.bus with nodeId := 1 }, working := { sv.working with bus := (sv.working.bus.take 1) ++ [1] ++ sv.working.bus.drop 2 } }
    let b : State := { sv with bus := { sv.bus with coldStart := true, csLost := true } }
    let e : State := { sv with bus := { sv.bus with csWaitUntil := some sv.now } }
    (sv.correctionDue 0 = false ∧ (c [1, 2, 3] 0).correctionDue 0 = true ∧ (c [1, 2, 3] 0).hubs[(0 : HubId)].bus.validThis = true) ∧
    (g.correctionDue 0 = true ∧ g.hubs[(0 : HubId)].bus.validThis = false ∧ 0 < g.hubs[(0 : HubId)].bus.ssetFails) ∧
    (3 ≤ (c [1, 200, 300] 0).hubs[(0 : HubId)].time.devs.length ∧ 2 * (vals (c [1, 200, 300] 0)).length < 3) ∧ ((vals (c [1] 0)).length < 3) ∧
    ((vals (c [3, 100, -100] 0)).length = 3 ∧ sortInts (vals (c [3, 100, -100] 0)) = [-100, 3, 100]) ∧ 4 ≤ (vals (c [1, 2, 3, 4] 0)).length ∧
    ((c [60, 60, 60] 2).correctionDue 0 = true ∧ (c [60, 60, 60] 2).hubs[(0 : HubId)].time.overRun = 2 ∧ sortInts (vals (c [60, 60, 60] 2)) = [60, 60, 60] ∧
      3 ≤ 2 * (vals (c [60, 60, 60] 2)).length) ∧
    (sv.integrationDue 0 = false ∧ (i .acquire).integrationDue 0 = true ∧ (i .observe).integrationDue 0 = true ∧ (i .synchronise).integrationDue 0 = true ∧
      (i .synchronise).hubs[(0 : HubId)].time.corrected = true ∧ (i .synchronise).hubs[(0 : HubId)].time.c = some 50 ∧ (i .synchronise).hubs[(0 : HubId)].bus.repeats < 3) ∧
    (sv.bus.change = none ∧ (sc ch 1).integrated = true ∧ (sc ch 0xFFFF).answersOver ch = false ∧ (sc ch 1).answersOver ch = true ∧ (∀ n ∈ ch.needed, n ∈ ch.answered) ∧
      laterCycle (sc ch 1).bus.apCycle ch.lastCycle = true ∧ ({ sv with bus := { sv.bus with change := some ch } } : State).integrated = false) ∧
    ((sc { ch with answered := [1] } 1).answersOver { ch with answered := [1] } = true ∧ ∃ n ∈ ch.needed, n ∉ ([1] : List Nat)) ∧
    (sv.coldSlot = none ∧ cold.coldSlot = some 1 ∧ cold.silent = true ∧ ∃ h : HubId, cold.hubs[h].alive = true) ∧
    sv.backoffDue = false ∧ b.backoffDue = true ∧ sv.bus.csWaitUntil = none ∧ e.bus.csWaitUntil = some e.now := by decide +kernel

/-! ## The register window, self-tests, starts and what comes later -/

/-- Queue memory with a NOP of the local port at entry 0 of Q04. -/
def withNop (s : State) : State := hubs (fun H => { H with qmem := Memory.writeRun [] (4096 * 4) (cmdOctets (hcmd []) 0x0000) }) s

theorem wit_WindowWritesAreJudged :
    let s := withNop sv
    let t : State := { sv with mail := { sv.mail with rings := sv.mail.rings.set 10 { ({} : Ring) with prod := 3, hcons := 1 } } }
    let w : State := { sv with mail := { sv.mail with switching := true } }
    let o := com .commissioning
    let fl (v : FrontEnd → FrontEnd) : State := fe0 v o
    (State.reset.hubs[(0 : HubId)].inReset = false ∧ State.reset.ready = false) ∧ (halted.ready = true ∧ halted.mode.mode = .halt ∧ (5 : RingId) ≠ 4 ∧ (4 : RingId) ≠ 10) ∧
    (sv.ready = true ∧ sv.mode.mode ≠ .halt ∧ sv.hostProduces 5 = false ∧ sv.hostProduces 4 = true ∧ w.mailUp = false ∧ w.hostProduces 4 = true) ∧
    (s.hostProduces 4 = true ∧ s.mailUp = true ∧ s.mail.rings[(4 : RingId)].used + ((1 : Word) - s.mail.rings[(4 : RingId)].prod).toNat ≤ 32 ∧
      HubState.messages s.hubs[(0 : HubId)].qmem 4 0 1 33 = some [(cmdOctets (hcmd []) 0x0000, 1)]) ∧
    (sv.hostReads 11 = false ∧ t.hostReads 10 = true ∧
      (t.mail.rings[(10 : RingId)].prod - t.mail.rings[(10 : RingId)].hcons).toNat < ((4 : Word) - t.mail.rings[(10 : RingId)].hcons).toNat ∧
      ((3 : Word) - t.mail.rings[(10 : RingId)].hcons).toNat ≤ (t.mail.rings[(10 : RingId)].prod - t.mail.rings[(10 : RingId)].hcons).toNat) ∧
    ((com .sealed).mode.mode = .commission ∧ (com .sealed).mode.lifecycle = some .sealed) ∧ (auxMode 0x3000 = 3 ∧ 4 < auxInjLen 0x0A00 ∧ 16 < auxRegLen 0x0110) ∧
    (o.mode.mode = .commission ∧ ¬(o.mode.lifecycle = some .sealed ∨ o.mode.lifecycle = some .retired) ∧ ¬(auxMode 0xA210 = 3 ∨ 4 < auxInjLen 0xA210 ∨ 16 < auxRegLen 0xA210) ∧
      2 ≤ o.activeLanes.length ∧ (0xA210 : Word).getLsbD 15 = true ∧ (0x2210 : Word).getLsbD 15 = false ∧ o.fe[(0 : GroupId)].refEn = true ∧
      (fl fun f => { f with refEn := false }).fe[(0 : GroupId)].refEn = false ∧ o.fe[(0 : GroupId)].aux.entry = none) ∧
    (auxMode 0xA210 ≠ auxMode (fl fun f => { f with aux := { f.aux with entry := some 0 } }).fe[(0 : GroupId)].aux.ctrl ∧
      (fl fun f => { f with aux := { f.aux with entry := some 0 } }).fe[(0 : GroupId)].aux.entry ≠ none) ∧
    (auxMode (0x2210 : Word) = 2 ∧ auxInjLen 0x2210 ≠ 0) ∧ (reservedBits 0x1FF = none ∧ reservedBits 0x100 = some 1) ∧
    ((∀ h : HubId, Memory.wf sv.hubs[h].qmem = true) ∧ (∀ l : LaneId, Memory.wf sv.lanes[l].sram = true) ∧ sv.mailUp = true) ∧
    ((31 + 32 - sv.mail.rings[(4 : RingId)].prod.toNat % 32) % 32 + sv.mail.rings[(4 : RingId)].used < 32) ∧
    32 ≤ (0 + 32 - (3 : Nat) % 32) % 32 + ({ ({} : Ring) with prod := 3 } : Ring).used := by decide +kernel

theorem wit_WindowReadsAreCoherent :
    (State.reset.hubs[(0 : HubId)].inReset = false ∧ State.reset.ready = false ∧ sv.ready = true) ∧
    (field (0x4003 : Word) 14 2 = 1 ∧ field (0x4003 : Word) 11 3 = 0 ∧ 0 < field (0x4003 : Word) 0 11 ∧ ([0, 0, 0, 0] : List Word).length = field (0x4003 : Word) 0 11 + 1 ∧ (0xFFFD : Word).toNat + field (0x4003 : Word) 0 11 ≤ 0x10000) ∧
    (multiOf 4 = none ∧ multiOf 3 = some (0, 4)) ∧ (field (0xC001 : Word) 14 2 = 3 ∧ field (0xC001 : Word) 0 11 ≠ 0) ∧ (field (0x4801 : Word) 11 3 ≠ 0) ∧
    (field (0x8000 : Word) 14 2 = 2 ∧ field (0x8000 : Word) 11 3 = 0 ∧ field (0x8000 : Word) 0 11 = 0) ∧ multiOf (0x108 : Word).toNat = some ((0x108 : Word).toNat, 2) ∧
    (State.reset.supplier = none ∧ sv.supplier ≠ none ∧ sv.mode.mode.runs = true ∧ (∀ h : HubId, sv.hubs[h].inReset = false) ∧ laneBlock 0x100 = true) := by decide +kernel

theorem wit_CheckValuesAreCrcs :
    let s (i : Fin 4) (b : Bool) : State := { sv with lanes := sv.lanes.set 1 { lane with cvu := { lane.cvu with sel := i, busy := b } } }
    (∀ i, (s i false).lanes[(1 : LaneId)].st ≠ .lost ∧ (s i false).lanes[(1 : LaneId)].st ≠ .resting ∧ (s i false).lanes[(1 : LaneId)].cvu.busy = false ∧
      (s i false).lanes[(1 : LaneId)].cvu.sel = i ∧ (s i false).lanes[(1 : LaneId)].cvu.ctx[i] = CvContext.atReset[i]) ∧
    (s 0 true).lanes[(1 : LaneId)].cvu.busy = true ∧ (s 0 true).lanes[(1 : LaneId)].cvu.daddr.toNat + (s 0 true).lanes[(1 : LaneId)].cvu.dlen.toNat ≤ 2 ^ 20 ∧
    ((7 : DWord).toNat % 64 < 8) ∧ (8 ≤ (8 : DWord).toNat % 64 ∧ (8 : DWord).toNat % 64 ≤ 32) ∧ (32 < (33 : DWord).toNat % 64) ∧
    (match exec (.cvLoad 1) (s 2 false) with
      | .next a => (([0x31, 0x32] : Bytes).foldl (fun o d => o.bind fun x => match exec (.cvData8 1 d) x with
          | .next y => some y
          | _ => none) (some a)).isSome
      | _ => false) = true := by decide +kernel

theorem wit_SelfTestsAreJudged :
    let due : State := { sv with coppice := { sv.coppice with dueAt := some sv.now } }
    let w (k : Nat) : State := { sv with lanes := sv.lanes.set 1 { lane with st := .resting }, coppice := { sv.coppice with rest := some 1, step := k, stepAt := sv.now - 20 * Config.ms } }
    let inR (m : RangeMeas) : Prop := 816 ≤ m.vmin ∧ m.vmax ≤ 884 ∧ 9800 ≤ m.fmin ∧ m.fmax ≤ 10200
    let m : RangeMeas := { vmin := 816, vmax := 884, fmin := 9800, fmax := 10200, testf := 10000 }
    let r : LbistRun := { sig := 0, pcount := 32768, gen := 0, meas := m }
    let un : ParamBank := { image := prm, sealCode := [] }
    let us : State := { w 6 with flash := { sv.flash with banks := #v[some un, none], bankActive := true } }
    let rs : State := { sv with lanes := sv.lanes.set 2 { lane with st := .restarting } }
    let v : State := { sv with mode := { sv.mode with voted := true } }
    let at_ (s : State) (n : Nat) : State := hubs (fun H => { H with time := { H.time with gt := BitVec.ofNat 64 n } }) s
    let ab : Txn := { num := 1, src := .maint, ring := 3, octets := cmdOctets (mcmd []) 0x0000, entries := 1, storedAt := 0 }
    let q : State := { sv with mail := { sv.mail with txns := [ab], switching := true } }
    (sv.coppice.step = 0 ∧ (∀ a ∈ due.coppice.dueAt, a ≤ due.now) ∧ due.coppice.step = 0 ∧ (∀ a ∈ sv.coppice.dueAt, sv.now < a)) ∧
    ((w 2).coppice.rest = some 1 ∧ (w 2).coppice.step = 2 ∧ (w 2).coppice.stepAt + 20 * Config.ms ≤ (w 2).now ∧ (w 2).lanes[(1 : LaneId)].lbist.invc < 2 ∧
      ({ (w 2) with now := sv.now - 1 } : State).now < (w 2).coppice.stepAt + 20 * Config.ms) ∧
    ((w 6).coppice.step = 6 ∧ (w 6).activeLanes ≠ [] ∧ (w 6).mode.mode ≠ .halt ∧ (w 6).paramsSealed = true ∧ us.paramsSealed = false ∧ (w 6).mode.voted = false ∧ (w 3).coppice.step = 3 ∧ (w 1).coppice.step = 1) ∧ sv.coppice.rest ≠ some 1 ∧
    (inR m ∧ ¬inR { m with vmin := 815 } ∧ r.sig = sv.otp.lbSig[(1 : LaneId)] ∧ r.pcount = sv.otp.lbCount ∧ r.gen = sv.otp.lbGen[(1 : LaneId)] ∧ (1 : BitVec 64) ≠ sv.otp.lbSig[(1 : LaneId)] ∧
      (w 3).stands FaultCode.lbistFail [1] = false ∧ (w 3).lanes[(1 : LaneId)].st ≠ .lost) ∧
    (sv.lanes[(2 : LaneId)].st ≠ .restarting ∧ rs.lanes[(2 : LaneId)].st = .restarting ∧ rs.activeLanes ≠ [] ∧ rs.mode.mode ≠ .halt ∧ rs.paramsSealed = true ∧ rs.lanes[(2 : LaneId)].lbist.invc < 2 ∧
      rs.stands FaultCode.lbistFail [2] = false) ∧
    (sv.mode.voted = false ∧ v.hubs[(0 : HubId)].inReset = false ∧ v.mode.mode.runs = true ∧ v.mode.voted = true ∧ v.stands FaultCode.hubSliceFail [0] = false ∧
      v.hubs[(0 : HubId)].slice.cycle ≠ some v.hubs[(0 : HubId)].bus.cycle ∧ (v.otp.sliceSig[(0 : HubId)]).getD 0 0 = (0 : BitVec 64)) ∧
    ((at_ v 0).idleLeft 0 = none ∧ (at_ v (v.params.cycTicks 0 - 8000)).idleLeft 0 = some 8000 ∧ (at_ v (v.params.cycTicks 0 - 7999)).idleLeft 0 = some 7999) ∧
    (sv.lanes[(0 : LaneId)].st = .active ∧ (∀ a ∈ sv.lanes[(0 : LaneId)].lastRestart, a + day24 ≤ sv.now) ∧ sv.now < sv.now + day24) ∧
    (q.mail.active = 0 ∧ q.mail.switching = true ∧ q.hubs[(1 : HubId)].inReset = false ∧ q.hubs[(1 : HubId)].outOfMail = false ∧ ab.inFlight = true ∧ ab.done = false ∧
      q.mail.txns.find? (fun y => y.ring == 3 && !y.judged) = some ab) ∧ sv.mail.switching = false := by
  refine ⟨?_, ?_, ?_, ?_, ?_, ?_, ?_, ?_, ?_, ?_, ?_⟩
  all_goals decide +kernel

/-- A Thaw in which everything passed. -/
def good : ThawResult :=
  let r : LbistRun := { sig := 0, pcount := 32768, gen := 0, meas := { vmin := 816, vmax := 884, fmin := 9800, fmax := 10200, testf := 10000 } }
  { mbistL := 7, mbistH := 3, lbist := Vector.replicate 3 r, lbistHub := Vector.replicate 2 r, slotA := 7, slotB := 0, cvu := 7, pins := 20,
    groupFaults := [(FaultCode.refFault, [3])], cals := [] }

theorem wit_StartsAndLimitsOfTheModule :
    let z : State := { State.reset with now := 400000000 }
    let b : ParamBank := { image := unused, sealCode := [] }
    let c : State := { z with flash := { z.flash with banks := #v[some b, none], bankActive := true } }
    let tr (n : Nat) (k : Bool) : State := { z with flash := { z.flash with boot := Vector.replicate 2 { ({} : BootRec) with trial := true, trials := n, counted := k } } }
    let d : State := { sv with mode := { sv.mode with degradedTime := hours72 } }
    let g : State := { sv with lanes := sv.lanes.map fun L =>
      { L with rev := L.rev.set 0 { stage2At := some (sv.now - 100 * Config.ms - 4000000 - 2440000) } } }
    let sf := prov0 { ({} : Proving) with failLit := true } { sv with lanes := sv.lanes.map fun L => { L with latches := { L.latches with revert := 1, safeState := 1 }, rev := L.rev.set 0 { stage1At := some 0 }, decided := 1 } }
    (sv.supply.good = true ∧ ({ sv with supply := { good := false } } : State).supply.good = false ∧ sv.mode.mode ≠ .thaw) ∧
    z.thawLimit < ({ z with now := 400000001 } : State).now ∧
    (z.mode.mode = .thaw ∧ z.supply.good = true ∧ z.now ≤ z.thawLimit ∧ c.now ≤ c.thawLimit ∧ z.thawHubs good ≠ 0 ∧ z.thawSlot good = some 0 ∧ (∀ x ∈ good.groupFaults, x.1 = FaultCode.refFault) ∧
      twoLanes (z.thawLanes good &&& z.slotLanes good 0 &&& good.cvu) = true) ∧ (c.flash.wiping = false ∧ c.activeBank = some b) ∧
    (z.flash.bootRec.trial = false ∧ z.thawHubs { good with mbistH := 0 } = 0 ∧ twoLanes (z.thawLanes { good with mbistL := 1 }) = false ∧ z.thawSlot { good with slotA := 1 } = none ∧
      twoLanes (z.thawLanes { good with cvu := 1 } &&& z.slotLanes { good with cvu := 1 } 0 &&& 1) = false ∧ z.thawSlot { good with cvu := 1 } = some 0 ∧ z.flash.bootRec.activeSlot = 0) ∧
    (z.thawLimit ≤ z.now ∧ State.reset.now < State.reset.thawLimit ∧ State.reset.mode.mode = .thaw ∧ State.reset.supply.good = true) ∧
    ((tr 1 true).flash.bootRec.trial = true ∧ (tr 1 true).flash.bootRec.trials < 2 ∧ 2 ≤ (tr 2 true).flash.bootRec.trials ∧ (tr 2 true).flash.bootRec.counted = true ∧
      (tr 2 false).flash.bootRec.counted = false) ∧
    (sv.lanes[(0 : LaneId)].st = .active ∧ sv.mode.mode.runs = true ∧ sv.stands FaultCode.watchdog [0] = false ∧ State.reset.lanes[(0 : LaneId)].st = .thawing ∧
      State.reset.now < State.reset.mode.resetAt + State.reset.lanes[(0 : LaneId)].wdLimit ∧ z.mode.resetAt + z.lanes[(0 : LaneId)].wdLimit ≤ z.now ∧ z.stands FaultCode.watchdog [0] = false) ∧
    (sv.mode.degradedTime < hours72 ∧ sv.mode.driveLinkTime < hours72 ∧ hours72 ≤ d.mode.degradedTime ∧ d.stands FaultCode.degradedLimit [] = false) ∧
    ((sv.lanes[(0 : LaneId)].rev[(0 : GroupId)]).stage2At = none ∧ g.params.contactors 0 = true ∧ g.active 0 = true ∧ has g.lanes[(0 : LaneId)].latches.safeDark 0 = false ∧
      (g.lanes[(0 : LaneId)].rev[(0 : GroupId)]).stage2At = some (sv.now - 100 * Config.ms - 4000000 - 2440000) ∧
      sv.now - 100 * Config.ms - 4000000 - 2440000 + g.params.fbTime 0 * Config.ms + g.params.feedDecision 0 ≤ g.now ∧ g.stands FaultCode.revertFail [0] = false) ∧
    sf.active 0 = true ∧ has sf.lanes[(0 : LaneId)].latches.safeState 0 = true ∧ has sf.lanes[(0 : LaneId)].latches.energy 0 = false ∧ sf.gladeBad 0 0 = true ∧
    sf.stands FaultCode.gladeUnproven [0] = false := by decide +kernel

/-- The seal of the bank above is not that of its image: it holds no octet. -/
theorem seal_not_empty (p : ParamImage) : ([] : Bytes) ≠ p.sealOctets := by
  simp [ParamImage.sealOctets, toLe]

theorem wit_WearDaysAndUpdateTimersRun :
    let day : State := { sv with now := 17280000000000, mode := { sv.mode with voted := true }, bus := { sv.bus with apAt := 17280000000000, apGt := 17280000000000, everAcquired := true } }
    let run : LampRun := { ({} : LampRun) with gSum := 1, gN := 100 }
    let day : State := { day with wear := { day.wear with seen := some 0 } }
    let d : State := { day with wear := { day.wear with run := Vector.replicate 3 { lamp := (Vector.replicate 96 {}).set 0 run } } }
    let cl : State := { sv with upd := { sv.upd with claims := [(.host, 1, 512, 5), (.maint, 2, 513, 6)] } }
    let x : Txn := { num := 1, src := .host, ring := 4, octets := [], entries := 1, storedAt := 0 }
    let e : State := { cl with mail := { sv.mail with txns := [x, { x with num := 2, src := .maint, ring := 3 }] } }
    let one : State := { sv with upd := { sv.upd with claims := [(.host, 1, 512, 5)] } }
    let ses : State := { sv with now := 300 * Config.sec, upd := { sv.upd with st := .receiving, received := 5, owner := some .host } }
    let tr : State := { sv with now := 600 * Config.sec, upd := { sv.upd with trialRun := true, trialStart := some 0 } }
    (sv.closes = false ∧ day.closes = true ∧ day.supplier = some 0 ∧ ({ day with wear := { day.wear with seen := some 1 } } : State).closes = false) ∧
    (d.params.configured 0 = true ∧ d.params.configured 95 = false ∧ 100 ≤ (d.wear.run[(0 : LaneId)]).lamp[(0 : Chan)].gN ∧ d.params.contactors 0 = true ∧ d.wear.osc[(0 : Fin 5)].n = 0) ∧
    (({ sv with now := 720000000000 } : State).crossed 720000000000 = true ∧ sv.crossed 720000000000 = false ∧ sv.mail.opened = true ∧ State.reset.mail.opened = false) ∧
    (sv.active 0 = true ∧ sv.hubs[(1 : HubId)].inReset = false ∧ ({ sv with now := 720000000000 } : State).wear.osc[(0 : Fin 5)].hour ≠ some (({ sv with now := 720000000000 } : State).laneTime / 720000000000)) ∧
    (sv.upd.claims = [] ∧ e.reaches Config.ms = true ∧ e.upd.claims ≠ [] ∧ (e.upd.claims.map (·.2.1)).Nodup ∧ e.upd.owner = none ∧ (∃ c ∈ e.upd.claims, c.1 = .maint) ∧
      (∀ c ∈ one.upd.claims, c.1 ≠ .maint)) ∧
    (({ e with upd := { e.upd with owner := some .host } } : State).upd.owner = some .host) ∧
    (sv.upd.st = .idle ∧ ses.upd.st = .receiving ∧ ses.upd.lastCmd + 300 * Config.sec ≤ ses.now ∧ 0 < ses.upd.received) ∧ sv.upd.resetDue = none ∧
    ({ sv with upd := { sv.upd with resetDue := some 0 } } : State).upd.resetDue ≠ none ∧
    (tr.upd.trialRun = true ∧ tr.flash.bootRec.counted = true ∧ 600 * Config.sec ≤ tr.trialTicks ∧ tr.upd.trialStart = some 0 ∧ 0 + 10 * Config.sec ≤ tr.now ∧ sv.upd.trialRun = false ∧ tr.upd.trialStart.isSome = true) := by
  decide +kernel

theorem wit_LateAnswersCome :
    let r : CaptureRun := { id := 1, chan := 0, sel := 3, trig := 2, samples := 4, pre := 0, since := sv.now - 60 * Config.sec, lane := 1 }
    let s : State := { sv with act := { sv.act with capture := some r }, mail := { sv.mail with subs := sv.mail.subs.set 0 2 } }
    let q : CapSample := { v := 1, t := sv.now - 10, ovr := false, spare := false }
    let full : CaptureRun := { r with trigAt := some (sv.now - 100), buf := [q, q, q, q], lane := 0 }
    let x : TimedTest := { num := 1, snap := some [], endAt := some sv.now }
    let l : State := { sv with act := { sv.act with lamp := some x } }
    let f : State := { sv with act := { sv.act with field := some x }, bus := { sv.bus with apAt := sv.now } }
    let e : State := { sv with act := { sv.act with field := some x } }
    let p : State := { sv with act := { sv.act with proof := some { num := 1, mask := 1, deadline := sv.now } } }
    sv.Admits (mcmd []) 0x0002 ∧ sv.Admits (mcmd [0, 0]) 0x0003 ∧ sv.Admits (mcmd [95, 1]) 0x0200 ∧ sv.Admits (mcmd []) 0x0600 ∧
    (sv.act.capture = none ∧ s.act.capture = some r ∧ s.supplier ≠ some r.lane ∧ sv.supplier = some full.lane ∧ full.full = true ∧ full.cut = false ∧ ({ r with lane := 0 } : CaptureRun).full = false ∧
      r.trigAt = none ∧ full.trigAt ≠ none ∧ r.data.2.length ≤ 248 ∧ full.data.2.length ≤ 248 ∧ r.trig = 2 ∧ r.since + 60 * Config.sec ≤ s.now ∧ s.subscribers 12 ≠ [] ∧ s.mail.rings[(12 : RingId)].waiting = [] ∧
      s.mail.rings[(12 : RingId)].loss = false ∧ s.mail.rings[(12 : RingId)].room (8 + (24 + 4 * 248)) = true ∧ ({ r with trig := 0 } : CaptureRun).trig ≠ 2) ∧
    (l.act.lamp = some x ∧ x.snap = some [] ∧ sv.act.lamp = none) ∧ (f.act.field = some x ∧ x.endAt = some sv.now ∧ sv.now ≤ f.bus.apAt ∧ e.act.field = some x ∧ x.early = false ∧ e.bus.apAt < sv.now ∧ sv.act.field = none) ∧
    p.act.proof = some { num := 1, mask := 1, deadline := sv.now } ∧ sv.now ≤ p.now ∧ sv.act.proof = none := by
  refine ⟨?_, ?_, ?_, ?_, ?_, ?_⟩
  all_goals first | exact admits_spec _ _ _ (by decide +kernel) | decide +kernel

/-! ## Ill-formed commands are refused: one for each check of WellFormed -/

theorem test_wf_frames : Instr.wf (.driveFrame (.grp 0) 0 (.bits 0 17 true) 0) = false ∧ Instr.wf (.driveFrame (.grp 0) 0 .asSent 0x100) = false ∧
    Instr.wf (.pumpStarvation (.grp 0) 8) = false ∧ Instr.wf (.frameReceived 0 { rx [] with late := 5 }) = false ∧
    Instr.wf (.frameReceived 0 (rx (List.replicate 529 0))) = false ∧ Instr.wf (.compareRecord 1 1 0 .asSent) = false ∧
    Instr.wf (.driveFrame (.bank 0) 0 .asSent 0xFFF) = true := by decide +kernel
theorem test_wf_measurements : Instr.wf (.auxConversionDone 0 131072) = false ∧ Instr.wf (.auxConversionDone 0 (-131072)) = true ∧
    Instr.wf (.sideFrame 0 0 (.asSent [] 0)) = false ∧ Instr.wf (.sideFrame 0 0 (.words (List.replicate 191 0))) = false := by decide +kernel
theorem test_wf_commands : Instr.wf (.nop { src := .host, ring := 6, tag := 0, payload := [] }) = false ∧
    Instr.wf (.nop { src := .host, ring := 4, tag := 0, payload := List.replicate 4089 0 }) = false ∧ Instr.wf (.commandStart 0 6) = false ∧ Instr.wf (.responseRingRoom 5) = false ∧
    Instr.wf (.registerWrite (.cvu 0 2 0)) = false ∧ Instr.wf (.prodWrite 0 3 0) = false ∧ Instr.wf (.hconsWrite 0 9 0) = false ∧ Instr.wf (.cvDmaDone 0 (some 8192)) = false ∧
    Instr.wf (.qmemFault 0 (.inHeader 6)) = false ∧ Instr.wf (.qmemFault 0 (.outMsg 5)) = false ∧ Instr.wf (.coppiceStepEnd ⟨1, 0, 0, 0, 0⟩) = false := by decide +kernel
theorem test_wf_thaw :
    let k : ThawCal := { group := 0, mod := 0, meas := [], refsHeld := true, cmprefGood := 0, cmprefBad := 0 }
    Instr.wf (.thawDone { good with groupFaults := [(0x0200, [0])] }) = false ∧ Instr.wf (.thawDone { good with cals := [k, k] }) = false ∧
    Instr.wf (.thawDone { good with cals := [{ k with meas := [⟨0, 0, 1, 0, 1⟩, ⟨0, 0, 1, 0, 1⟩] }] }) = false ∧ Instr.wf (.thawDone { good with cals := [k] }) = true := by decide +kernel

/-! ## Values the spec gives -/

def ascii19 : Bytes := (List.range 9).map fun i => BitVec.ofNat 8 (0x31 + i)
/-- The check values of R297. -/
theorem test_crc_check_values : crc32c ascii19 = 0xE3069283 ∧ crc32 ascii19 = 0xCBF43926 ∧ crc16 ascii19 = 0x29B1 := by decide +kernel
/-- The frame of lane B in the example after R46. -/
theorem test_drive_frame_example : groupFrame 1 true false 0x05 = 0xB505 ∧ fcsOk (0xB505 : BitVec 16) = true ∧ fcsOk (0xB504 : BitVec 16) = false := by decide +kernel
/-- The worked example of R82. -/
theorem test_fine_sample_example : (correctFine { offset := -1200, gain := 0x501062 } 838861).1 = 1050916 := by decide +kernel
/-- A stream of ones drives both filters to the clamps of their widths (R79), one of alternating bits to nothing. -/
theorem test_filters : fastOut (List.replicate 190 true) = 2 ^ 18 - 1 ∧ fineOut (List.replicate 766 true) = 2 ^ 23 - 1 ∧ fastOut (List.replicate 190 false) = -(2 ^ 18 - 1) ∧
    sincSum 64 (List.replicate 190 true) = 64 ^ 3 ∧ sincSum 64 ((List.range 190).map (· % 2 == 0)) = 0 := by decide +kernel
/-- The example of R122: means of 2,310.4 and 5,372,030.2. -/
theorem test_calibration_example : calPair { lane := 0, zeroSum := 23104, zeroN := 10, refSum := 53720302, refN := 10 } = some { offset := 2310, gain := 0x4FFC24 } := by decide +kernel
/-- The worked example of R278. -/
theorem test_implicit_block_example :
    ecnOf 0x2A17 0x1234567000 = 0x00482A17 ∧ implicit 3 20 0xFE 1 0x00482A17 = [0x03, 0x14, 0xFE, 0x01, 0x17, 0x2A, 0x48, 0x00] := by decide +kernel
/-- The unit ID of the example of R508. -/
theorem test_unit_id_example :
    ({ ({} : Otp) with chips := ({} : Otp).chips.set 3 { ({} : ChipId) with fab := 2, lot := 4182731, wafer := 17, dieX := 112, dieY := 86 } } : Otp).unitId = 0x0000959C113FD2CB := by decide +kernel
/-- The votes of the worked example of R288. -/
theorem test_vote_example : agreedValue [2, 3, 1] = 0 ∧ agreedValue [4, 4, 5] = 4 ∧ agreedValue [1, 1, 0] = 1 := by decide +kernel
/-- The digest of "abc" (FIPS 180-4). -/
theorem test_sha256_abc : sha256Words [0x61, 0x62, 0x63] =
    [0xba7816bf, 0x8f01cfea, 0x414140de, 0x5dae2223, 0xb00361a3, 0x96177a9c, 0xb410ff61, 0xf20015ad] := by decide +kernel

/-! ## Single steps -/

/-- A tick passes on an empty queue (R251: 5 ns), and the front command runs alone. -/
theorem test_step_tick_and_front :
    (match step State.reset with | .next t => (t.now, t.hubs[(0 : HubId)].time.gt) | _ => (0, 0)) = (1, 1) ∧
    (match step { sv with pending := [.shortCircuitTrip 9, .overtempTrip 9] } with
      | .next t => (t.fe[(1 : GroupId)].sc, t.fe[(1 : GroupId)].ot, t.pending)
      | _ => (0, 0, [])) = (2, 0, [.overtempTrip 9]) := by decide +kernel
/-- A frame of two lanes closes the switch at once, of one lane does not (R50, R52). -/
theorem test_two_lanes_close_a_switch :
    let send (l : LaneId) (ph : Bool) (b : BitVec 8) (s : State) : State := match exec (.driveFrame (.grp 0) l (.bits (groupFrame l ph false b) 16 true) 0) s with
      | .next t => t
      | _ => s
    let a := send 0 false 0xFE (send 0 true 0x01 sv)
    let b := send 1 false 0xFE (send 1 true 0x01 a)
    a.fe[(0 : GroupId)].conducting = 0 ∧ b.fe[(0 : GroupId)].conducting = 0xFF := by decide +kernel
/-- A failed Thaw ends in HALT with cause 14 and closed rings; a good one in JOIN with the boot counter at 1 (R382, R384). -/
theorem test_thaw :
    (match exec (.thawDone { good with mbistL := 1 }) State.reset with | .next t => (t.mode.mode, t.mode.cause, t.mail.opened) | _ => (.thaw, 0, true)) = (.halt, 14, false) ∧
    (match exec (.thawDone good) State.reset with | .next t => (t.mode.mode, t.mode.cause, t.flash.bootCount) | _ => (.thaw, 0, 0)) = (.join, 1, 1) := by decide +kernel
/-- The NOP of R341 is answered OK by each lane. -/
theorem test_nop_answers : (match exec (.nop (hcmd [])) sv with
    | .next t => t.mail.txns.map fun x => (x.started, x.replies.toList)
    | _ => []) = [(7, [some ⟨0, []⟩, some ⟨0, []⟩, some ⟨0, []⟩])] := by decide +kernel

/-! ## The remaining hypotheses -/

theorem wit_StepRunsTheFrontCommand : ({ sv with pending := [.powerGood] } : State).pending = .powerGood :: [] ∧ sv.pending = [] := by decide +kernel
theorem wit_MemoriesStayCanonical :
    let s := withNop sv
    ((∀ h : HubId, Memory.wf s.hubs[h].qmem = true) ∧ ∀ l : LaneId, Memory.wf s.lanes[l].sram = true) ∧ s.hubs[(0 : HubId)].qmem ≠ [] ∧
    (match step s with | .next _ => true | _ => false) = true := by decide +kernel
theorem wit_HeldGatesNeverConduct :
    let s := fe0 (fun f => { f with conducting := 1, sc := 2, inp := Vector.replicate 3 { ({} : LaneInput) with vote := 3 } }) sv
    (∀ g : GroupId, s.fe[g].conducting &&& (s.fe[g].sc ||| s.fe[g].ot) = 0 ∧ (s.fe[g].gds = false → s.fe[g].conducting = 0)) ∧
    (∀ b : BankId, s.banks[b].conducting &&& s.banks[b].ol = 0 ∧ (s.banks[b].hwLoss = true → s.banks[b].conducting = 0)) ∧
    (match step { s with pending := [.driveLossTimer (.grp 0) 0] } with | .next _ => true | _ => false) = true := by decide +kernel
theorem wit_OtpIsOnlyProgrammed : (match step { sv with pending := [.trialTimeStore] } with | .next _ => true | _ => false) = true := by decide +kernel

end Sys2Proof.Tests
end

