-- ==== Sys2Proof/Proofs/WindowHalt.lean ====
section
/-!
PROOFS. A write of PROD in HALT (R376): the descriptors of Q04 and of Q10 both stay writable there, whole, so that a write of a
field that is read-only in one of them is ignored (R11) and not refused.
-/

namespace Sys2Proof.Machine

theorem State.portBegin_ref (s : State) (h : HubId) : (s.portBegin h).hubs[h].win.ref = false := by
  rw [State.portBegin, State.modHub_same]
theorem State.reported_ref (s : State) (h : HubId) (cause a : Nat) (rsv : Bool) :
    (s.reported h cause a rsv).hubs[h].win.ref = decide (cause ≠ 0) := by simp [State.reported]

/-- In HALT the PROD word of Q10 is one of the words that R376 keeps writable, but the local port does not produce into
Q10 (R318): the write is taken, and changes nothing but what the port reported of the transaction before. -/
theorem prodWrite_q10_halted (h : HubId) (v : Word) {s : State} (hr : s.hubs[h].inReset = false) (hm : s.mode.mode = .halt) :
    exec (.prodWrite h 10 v) s = .next (s.portBegin h) := by
  have mode : (s.portBegin h).mode = s.mode := rfl
  have ready : (s.portBegin h).ready = true := by simp [State.ready, mode, hm]
  have notOwn : (s.portBegin h).hostProduces 10 = false := by simp [State.hostProduces]
  have word : (s.portBegin h).writeWord h 0x344 v = { s := s.portBegin h } := by
    simp [State.writeWord, hostRing, reservedBits, ringRsv, notOwn]
  have write : (s.portBegin h).portWrite h 0x344 v = s.portBegin h := by simp [State.portWrite, ready, word]
  show Host.Outcome.next (s.oneWrite h 0x344 v) = _
  rw [State.oneWrite, hr, write]
  rfl

end Sys2Proof.Machine

open Sys2Proof Sys2Proof.Machine

/-- Refutes O54: after a reset, in HALT, a PROD write of 0 to Q10 is taken without a refusal, for R376 keeps the whole
descriptor of Q10 writable there and PROD is read-only in it (R11, R318); the statement has every ring but Q04 refuse the
write with cause MODE. -/
theorem not_windowWritesAreJudged : ¬ Obligations.WindowWritesAreJudged := by
  unfold Obligations.WindowWritesAreJudged
  intro h
  obtain ⟨-, rings, -⟩ := h 0 { State.reset with mode := { State.reset.mode with mode := .halt } } rfl
  obtain ⟨refused, -⟩ := rings rfl 10 0
  have same := refused rfl (by decide)
  rw [prodWrite_q10_halted 0 0 rfl rfl] at same
  have ref := congrArg (fun t : State => t.hubs[(0 : HubId)].win.ref) (Host.Outcome.next.inj same)
  rw [State.portBegin_ref, State.reported_ref] at ref
  exact absurd ref (by decide)
end

