-- ==== Sys2Proof/Proofs/ControlWrites.lean ====
section
/-!
PROOFS. Control writes of the lanes to a front-end (R97): what one leaves as it was, and what the register it names then holds.
-/

namespace Sys2Proof.Machine

/-- Two front-ends agree in what the lanes' drive frames and the trips made of it: lane inputs, gates and trip latches. -/
structure FrontEnd.SameGates (f t : FrontEnd) : Prop where
  inp : t.inp = f.inp
  conducting : t.conducting = f.conducting
  sc : t.sc = f.sc
  ot : t.ot = f.ot

/-- Keeping the stretches in which sources drive changes none of the enables. -/
@[simp] theorem FrontEnd.tracked_probeEn (f was : FrontEnd) (now : Nat) : (f.tracked was now).probeEn = f.probeEn := by
  unfold FrontEnd.tracked
  dsimp only
  split <;> rfl
theorem FrontEnd.SameGates.tracked {f t : FrontEnd} (h : f.SameGates t) (was : FrontEnd) (now : Nat) : f.SameGates (t.tracked was now) := by
  unfold FrontEnd.tracked
  dsimp only
  split
  · exact h
  · exact ⟨h.inp, h.conducting, h.sc, h.ot⟩
@[simp] theorem FrontEnd.setProbe_probeEn (f : FrontEnd) (m : BitVec 8) (now : Nat) :
    (f.setProbe m now).probeEn = if 2 ≤ freshInputs f.inp now 4800 then m else 0 := by
  simp [FrontEnd.setProbe]
theorem FrontEnd.setProbe_sameGates (f : FrontEnd) (m : BitVec 8) (now : Nat) : f.SameGates (f.setProbe m now) := by
  unfold FrontEnd.setProbe
  refine FrontEnd.SameGates.tracked ?_ f now
  exact ⟨rfl, rfl, rfl, rfl⟩
@[simp] theorem FrontEnd.setRef_refEn (f : FrontEnd) (on : Bool) (now : Nat) : (f.setRef on now).refEn = on := by
  cases on with
  | false => rfl
  | true => cases h : f.refEn <;> simp [FrontEnd.setRef, h]
theorem FrontEnd.setRef_sameGates (f : FrontEnd) (on : Bool) (now : Nat) : f.SameGates (f.setRef on now) := by
  unfold FrontEnd.setRef
  repeat' split
  all_goals exact ⟨rfl, rfl, rfl, rfl⟩
/-- A control write leaves the lane inputs, the gates and the trip latches. -/
theorem FrontEnd.apply_sameGates (f : FrontEnd) (w : FeWrite) (now : Nat) : f.SameGates (f.apply w now) := by
  unfold FrontEnd.apply
  split
  · exact ⟨rfl, rfl, rfl, rfl⟩
  · cases w with
    | refEn on => exact f.setRef_sameGates on now
    | probe m => exact f.setProbe_sameGates m now
    | auxCtrl v =>
      obtain ⟨inp, conducting, sc, ot⟩ := f.setRef_sameGates (v.getLsbD 15) now
      exact ⟨inp, conducting, sc, ot⟩
    | _ => exact ⟨rfl, rfl, rfl, rfl⟩
/-- A choice of the next conversion keeps the number of the last trigger. -/
@[simp] theorem AuxConv.boundary_trigLast (a : AuxConv) (now : Nat) (refs : Bool) : (a.boundary now refs).trigLast = a.trigLast := by
  have adopted (v : Word) : (a.adopt v now).trigLast = a.trigLast := by unfold AuxConv.adopt; split <;> rfl
  unfold AuxConv.boundary AuxConv.begin_
  cases h : a.nextMode with
  | none =>
    dsimp only
    repeat' split
    all_goals rfl
  | some v =>
    dsimp only
    repeat' split
    all_goals exact adopted v
@[simp] theorem AuxConv.trigger_trigLast (a : AuxConv) (k : BitVec 2) (now : Nat) (refs : Bool) : (a.trigger k now refs).trigLast = k := by
  unfold AuxConv.trigger
  dsimp only
  repeat' split
  all_goals simp

/-- The register that a control write names holds the value written: the enables of the probe sources only while two lane inputs
are fresh (R176), and none of a reserved encoding. -/
def FrontEnd.Holds (was f : FrontEnd) (now : Nat) : FeWrite → Prop
  | .refEn on => f.refEn = on
  | .probe m => f.probeEn = (if 2 ≤ freshInputs was.inp now 4800 then m else 0)
  | .auxCtrl v => if badAuxCtrl (.auxCtrl v) then f = { was with waiting := f.waiting } else f.refEn = v.getLsbD 15
  | .auxSel v => f.aux.sel = v &&& 0xF#16
  | .auxReq v => v.getLsbD 0 = true → f.aux.trigLast = 3
  | .auxRseq j v => f.aux.rseq[j] = v
  | .auxIseq v => f.aux.iseq = v
  | .modulators on => f.modsRun = on
  | .vwLimit k mv => f.vwLimit[k] = mv
  | .modInput m x => f.input[m] = x

/-- A control write that takes effect is held, whatever else waits. -/
theorem FrontEnd.apply_holds (f : FrontEnd) (ws : List PendingWrite) (w : FeWrite) (now : Nat) :
    f.Holds (({ f with waiting := ws } : FrontEnd).apply w now) now w := by
  cases w with
  | auxCtrl v =>
    unfold FrontEnd.Holds FrontEnd.apply
    cases h : badAuxCtrl (.auxCtrl v) <;> simp [h]
  | auxReq v =>
    intro h
    simp [FrontEnd.apply, badAuxCtrl, h]
  | _ => simp [FrontEnd.Holds, FrontEnd.apply, badAuxCtrl]

/-- Another lane's write of the same value waits that is no older than 24 us (R97). -/
def FrontEnd.Seconded (f : FrontEnd) (l : LaneId) (w : FeWrite) (now : Nat) : Prop :=
  ∃ x ∈ f.waiting, x.w = w ∧ x.lane ≠ l ∧ now ≤ x.at_ + 4800
/-- The writes that wait and are no older than 24 us. -/
def FrontEnd.unexpired (f : FrontEnd) (now : Nat) : List PendingWrite := f.waiting.filter fun x => decide (now ≤ x.at_ + 4800)
theorem FrontEnd.any_unexpired (f : FrontEnd) (l : LaneId) (w : FeWrite) (now : Nat) :
    ((f.unexpired now).any fun x => x.w == w && x.lane != l) = true ↔ f.Seconded l w now := by
  simp only [FrontEnd.unexpired, FrontEnd.Seconded, List.any_filter, List.any_eq_true, Bool.and_eq_true, decide_eq_true_eq, beq_iff_eq, bne_iff_ne]
  grind
/-- The second of two lanes that write the same value makes the write act. -/
theorem frontEndControlWrite_seconded {l : LaneId} {g : GroupId} {w : FeWrite} {s : State} (h : s.fe[g].Seconded l w s.now) :
    exec (.frontEndControlWrite l g w) s =
      .next (s.modFe g fun f => ({ f with waiting := (f.unexpired s.now).filter fun x => x.w != w } : FrontEnd).apply w s.now) := by
  refine congrArg Host.Outcome.next (congrArg (fun f => { s with fe := s.fe.set g f }) ?_)
  exact if_pos ((FrontEnd.any_unexpired _ l w s.now).mpr h)
/-- A write that no other lane has made waits. -/
theorem frontEndControlWrite_alone {l : LaneId} {g : GroupId} {w : FeWrite} {s : State} (h : ¬ s.fe[g].Seconded l w s.now) :
    exec (.frontEndControlWrite l g w) s =
      .next (s.modFe g fun f => { f with waiting := f.unexpired s.now ++ [{ lane := l, w := w, at_ := s.now }] }) := by
  refine congrArg Host.Outcome.next (congrArg (fun f => { s with fe := s.fe.set g f }) ?_)
  exact if_neg (mt (FrontEnd.any_unexpired _ l w s.now).mp h)
theorem State.modFe_agrees (s : State) (g : GroupId) (f : FrontEnd → FrontEnd) : agreeButFe s (s.modFe g f) g :=
  ⟨rfl, fun k hk => State.modFe_other s g f k hk⟩

end Sys2Proof.Machine

open Sys2Proof Sys2Proof.Machine

/-- Settles O23: a lane's control write acts where it is the second of its value within 24 us, and else joins those that wait. -/
theorem controlWritesNeedTwoLanes : Obligations.ControlWritesNeedTwoLanes := by
  unfold Obligations.ControlWritesNeedTwoLanes
  intro l g w s
  by_cases second : s.fe[g].Seconded l w s.now
  · refine ⟨_, frontEndControlWrite_seconded second, State.modFe_agrees s g _, ?_⟩
    rw [State.modFe_same]
    obtain ⟨inp, conducting, sc, ot⟩ :=
      FrontEnd.apply_sameGates { s.fe[g] with waiting := (s.fe[g].unexpired s.now).filter fun x => x.w != w } w s.now
    refine ⟨inp, conducting, sc, ot, fun _ => FrontEnd.apply_holds s.fe[g] _ w s.now, fun old => ?_⟩
    obtain ⟨x, hx, hw, hl, fresh⟩ := second
    exact absurd (old x hx hw hl) (by omega)
  · refine ⟨_, frontEndControlWrite_alone second, State.modFe_agrees s g _, ?_⟩
    rw [State.modFe_same]
    exact ⟨rfl, rfl, rfl, rfl, fun waits => absurd waits second, fun _ => ⟨rfl, List.mem_append_right _ (List.mem_singleton.mpr rfl)⟩⟩
end

