-- ==== Sys2Proof/Proofs/BankFrames.lean ====
section
/-!
PROOFS. The sample frames of the banks (R456, R457): what a lane makes of one changes what it holds of that bank, and neither what
any lane holds of another bank nor the banks themselves.
-/

namespace Sys2Proof.Machine

/-- Two states agree in the banks, and in what every lane holds of each of them. -/
structure BanksKept (s t : State) : Prop where
  banks : t.banks = s.banks
  lane : ∀ l : LaneId, t.lanes[l].bank = s.lanes[l].bank

namespace BanksKept

theorem refl (s : State) : BanksKept s s := ⟨rfl, fun _ => rfl⟩
theorem trans {s t u : State} (h : BanksKept s t) (k : BanksKept t u) : BanksKept s u :=
  ⟨k.banks.trans h.banks, fun l => (k.lane l).trans (h.lane l)⟩
theorem of_lanes {s t u : State} (h : BanksKept s t) (hb : u.banks = t.banks) (hl : u.lanes = t.lanes) : BanksKept s u :=
  h.trans ⟨hb, fun l => by rw [hl]⟩

section
variable {s t : State} (h : BanksKept s t)
include h

theorem ite {u : State} {p : Prop} [Decidable p] (k : BanksKept s u) : BanksKept s (if p then t else u) := by
  split <;> assumption
theorem each {α : Type} {f : State → α → State} (xs : List α) (hf : ∀ u x, BanksKept u (f u x)) : BanksKept s (t.each xs f) :=
  ⟨(each_field (·.banks) xs (fun u x _ => (hf u x).banks) t).trans h.banks,
   fun l => (each_field (·.lanes[l].bank) xs (fun u x _ => (hf u x).lane l) t).trans (h.lane l)⟩

/-! ## Updates of the lanes, of the tests, and reports -/

theorem tests (x : Tests) : BanksKept s { t with tests := x } := h.of_lanes rfl rfl

theorem modLane (l : LaneId) {f : LaneState → LaneState} (hf : ∀ L, (f L).bank = L.bank) : BanksKept s (t.modLane l f) := by
  refine h.trans ⟨rfl, fun k => ?_⟩
  by_cases e : k = l
  · subst e; rw [State.modLane_same, hf]
  · rw [State.modLane_other _ _ _ _ e]
theorem modLanes {f : LaneId → LaneState → LaneState} (hf : ∀ l L, (f l L).bank = L.bank) : BanksKept s (t.modLanes f) :=
  h.trans ⟨rfl, fun k => by rw [State.modLanes_at, hf]⟩
theorem event (code kind lane : Nat) (sc d : Bytes) : BanksKept s (t.event code kind lane sc d) := h.of_lanes (by simp) (by simp)
theorem note (code : Nat) (i : List Nat) (d : Bytes) (l k : Nat) : BanksKept s (t.note code i d l k) := h.event _ _ _ _ _
theorem notePoint (l : LaneId) (p : Point) : BanksKept s (t.notePoint l p) := by
  unfold State.notePoint
  extract_lets k s1
  have coded : BanksKept s s1 := h.modLane l fun _ => rfl
  exact h.ite ((coded.event ..).ite coded)
theorem raiseFault (code : Nat) (i : List Nat) (m : LaneMask) (k : Nat) : BanksKept s (t.raiseFault code i m k) := by
  refine h.trans ⟨by simp, fun l => ?_⟩
  obtain ⟨w, e⟩ := t.raiseFault_lane code i m k l
  rw [e]
theorem withdrawFault (code : Nat) (i : List Nat) (m : LaneMask) : BanksKept s (t.withdrawFault code i m) := h.of_lanes (by simp) (by simp)

/-! ## Reactions -/

theorem trigger (m : LaneMask) (g : GroupId) (k : Bool) : BanksKept s (t.trigger m g k) :=
  h.modLanes fun _ _ => by split <;> rfl
theorem triggerAt (m : LaneMask) (g : Option GroupId) (k : Bool) : BanksKept s (t.triggerAt m g k) := by
  cases g with
  | none => exact h
  | some g => exact h.trigger m g k
theorem setSafe : BanksKept s t.setSafe := h.modLanes fun _ _ => by split <;> rfl
theorem faultHub (x : HubId) : BanksKept s (t.faultHub x) := by
  unfold State.faultHub
  extract_lets s1
  have idle : BanksKept s s1 := h.of_lanes rfl rfl
  split
  · exact idle.of_lanes rfl rfl
  · exact idle
theorem abortWindow : BanksKept s t.abortWindow := by
  unfold State.abortWindow
  split
  · exact h
  · extract_lets c step s1
    have aborted : BanksKept s s1 := h.of_lanes rfl rfl
    refine h.ite (note ?_ ..)
    exact aborted.modLane _ fun _ => rfl
/-- The reactions of the fault table (R420) but the loss of a lane. -/
theorem reaction {code : Nat} (hc : ¬(code = FaultCode.cvuSelftest ∨ code = FaultCode.lbistFail ∨ code = FaultCode.watchdog))
    (items : List Nat) (m : LaneMask) : BanksKept s (t.reaction code items m) := by
  unfold State.reaction
  extract_lets lane pt fed
  rw [if_neg hc]
  refine ite (h.ite h.abortWindow) (ite (h.triggerAt ..) (ite (h.ite (h.triggerAt ..)) (ite h.setSafe ?_)))
  refine ite ((h.faultHub 0).ite ((h.faultHub 1).ite h)) (ite (h.triggerAt ..) (ite ((h.triggerAt ..).triggerAt ..) (ite ?_ h)))
  cases pt with
  | none => exact h
  | some p => exact h.triggerAt ..
theorem fault {code : Nat} (hc : ¬(code = FaultCode.cvuSelftest ∨ code = FaultCode.lbistFail ∨ code = FaultCode.watchdog))
    (items : List Nat) (m : LaneMask) (k : Nat) : BanksKept s (t.fault code items m k) := by
  unfold State.fault
  extract_lets known
  exact h.ite ((h.raiseFault ..).reaction hc ..)
theorem measLinkFault (l : LaneId) (n : Nat) (was now : Bool) : BanksKept s (t.measLinkFault l n was now) := by
  unfold State.measLinkFault
  refine ite ?_ ((h.withdrawFault ..).ite h)
  have raised := h.fault (code := FaultCode.measLink) (by decide) [l.val, n] (only l) 0xFF
  dsimp only
  split
  · exact (raised.trigger ..).ite raised
  · exact raised

/-! ## The points of a frame -/

theorem outputFault (m : LaneMask) (p : Point) (c : OutCause) : BanksKept s (t.outputFault m p c) := by
  unfold State.outputFault
  refine each (fault (h.modLanes fun _ _ => ?_) (by decide) _ _ _) _ fun u l => (refl u).notePoint l p
  split <;> rfl
theorem fieldMajSample (p : Point) (gs rb : Bool) : BanksKept s (t.fieldMajSample p gs rb) := by
  unfold State.fieldMajSample
  split
  · rename_i r _
    have stopped : BanksKept s (t.fieldMajStop r) := by
      unfold State.fieldMajStop
      exact (h.tests _).modLane r.lane fun _ => rfl
    have proved : BanksKept s ((t.fieldMajStop r).pointProved r.p) := (stopped.tests _).withdrawFault ..
    exact (proved.outputFault ..).ite h
  · exact h
theorem contactorWear (l : LaneId) (g : GroupId) (a open_ : Bool) : BanksKept s (t.contactorWear l g a open_) := by
  unfold State.contactorWear
  extract_lets r r1 s1
  have counted : BanksKept s s1 := h.of_lanes rfl rfl
  exact (counted.note ..).ite counted
theorem judgeContactor (m : LaneMask) (g : GroupId) (a : Bool) : BanksKept s (t.judgeContactor m g a) := by
  unfold State.judgeContactor
  extract_lets o bad right s1 s2
  have welded : BanksKept s s1 := h.ite (h.fault (by decide) ..)
  have open_ : BanksKept s s2 := welded.ite (welded.fault (by decide) ..)
  exact (open_.withdrawFault ..).withdrawFault ..
theorem feedbackEdge (l : LaneId) (p : Point) : BanksKept s (t.feedbackEdge l p) := by
  unfold State.feedbackEdge
  split
  · exact h
  · rename_i g a _
    have worn : BanksKept s (if t.active l then t.contactorWear l g a (t.inputState l p) else t) := (h.contactorWear ..).ite h
    exact worn.ite (worn.judgeContactor ..)
theorem bankPoint (l : LaneId) (p : Point) (w : BankBits) : BanksKept s (t.bankPoint l p w) := by
  unfold State.bankPoint
  extract_lets j q raw rb gs on measured before a0 a1 a2 a3 a4 s1 s2 s3 s4 tests sched s5 field s6 s6' s7
  have k1 : BanksKept s s1 := h.modLane l fun _ => rfl
  have k2 : BanksKept s s2 := (k1.fault (by decide) ..).ite ((k1.withdrawFault ..).ite k1)
  have k3 : BanksKept s s3 := (k2.fault (by decide) ..).ite ((k2.withdrawFault ..).ite k2)
  have k4 : BanksKept s s4 := (k3.outputFault ..).ite k3
  have k5 : BanksKept s s5 := (k4.tests _).ite k4
  have k6 : BanksKept s s6 := by
    unfold s6
    split
    · exact (k5.tests _).ite k5
    · exact k5
  have k7 : BanksKept s s7 := ((k6.fieldMajSample ..).feedbackEdge l p).ite (k6.fieldMajSample ..)
  exact k7.notePoint l p

end

end BanksKept

/-! ## A frame -/

/-- A lane holds something else of one bank. -/
def State.setLaneBank (s : State) (l : LaneId) (b : BankId) (B : LaneBank) : State := s.modLane l fun L => { L with bank := L.bank.set b B }

/-- A good frame is the lane's last good one, and none has been bad since. -/
theorem State.bankFrame_good (s : State) (l : LaneId) (b : BankId) (w : BankBits) :
    ∃ B : LaneBank, B.frame = w ∧ B.bad = 0 ∧ BanksKept (s.setLaneBank l b B) (s.bankFrame l b w) := by
  unfold State.bankFrame
  extract_lets B lk diff B1 s1 s2 s3
  have k1 : BanksKept s1 s2 := (BanksKept.refl s1).measLinkFault ..
  have k2 : BanksKept s1 s3 := k1.each _ fun u x => ((BanksKept.refl u).fault (by decide) ..).ite (.refl u)
  exact ⟨B1, rfl, rfl, k2.each _ fun u p => ((BanksKept.refl u).notePoint l p).ite ((BanksKept.refl u).bankPoint l p w)⟩
/-- A bad frame counts; the third in a row brings MEAS_LINK (R77). -/
theorem State.bankSample_bad (s : State) (l : LaneId) (b : BankId) {w : BankBits} (hw : BankF.good w = false) :
    ∃ B : LaneBank, B.frame = s.lanes[l].bank[b].frame ∧ B.bad = s.lanes[l].bank[b].bad + 1 ∧ (3 ≤ B.bad → B.measLink = true) ∧
      BanksKept (s.setLaneBank l b B) (s.bankSample l b w) := by
  unfold State.bankSample
  rw [hw]
  extract_lets B lk s1
  have k1 : BanksKept s1 _ := (BanksKept.refl s1).measLinkFault l (12 + b.val) B.measLink lk.2
  have k2 := k1.each (bankPoints b) fun u p => (BanksKept.refl u).notePoint l p
  refine ⟨{ B with bad := lk.1, good := 0, measLink := lk.2 }, rfl, rfl, fun third => ?_, k2⟩
  simpa [lk, linkBad] using Or.inr third

/-- A frame changes of what the lanes hold that lane's part of that bank alone. -/
theorem State.bankSample_laneBank (s : State) (l : LaneId) (b : BankId) (w : BankBits) : ∃ B : LaneBank,
    BanksKept (s.setLaneBank l b B) (s.bankSample l b w) ∧ (BankF.good w = true → B.frame = w ∧ B.bad = 0) ∧
    (BankF.good w = false → B.frame = s.lanes[l].bank[b].frame ∧ B.bad = s.lanes[l].bank[b].bad + 1 ∧ (3 ≤ B.bad → B.measLink = true)) := by
  cases hw : BankF.good w with
  | true =>
    obtain ⟨B, frame, bad, kept⟩ := s.bankFrame_good l b w
    refine ⟨B, ?_, fun _ => ⟨frame, bad⟩, nofun⟩
    rwa [State.bankSample, if_pos hw]
  | false =>
    obtain ⟨B, frame, bad, link, kept⟩ := s.bankSample_bad l b hw
    exact ⟨B, kept, nofun, fun _ => ⟨frame, bad, link⟩⟩
theorem BanksKept.setLaneBank_same {s t : State} {l : LaneId} {b : BankId} {B : LaneBank} (h : BanksKept (s.setLaneBank l b B) t) :
    t.lanes[l].bank[b] = B := by
  rw [h.lane l, State.setLaneBank, State.modLane_same]
  simp
theorem BanksKept.setLaneBank_otherBank {s t : State} {l : LaneId} {b k : BankId} {B : LaneBank} (h : BanksKept (s.setLaneBank l b B) t) (hk : k ≠ b) :
    t.lanes[l].bank[k] = s.lanes[l].bank[k] := by
  have far : b.val ≠ k.val := fun e => hk (Fin.ext e.symm)
  rw [h.lane l, State.setLaneBank, State.modLane_same]
  simp [far]
theorem BanksKept.setLaneBank_otherLane {s t : State} {l k : LaneId} {b : BankId} {B : LaneBank} (h : BanksKept (s.setLaneBank l b B) t) (hk : k ≠ l) :
    t.lanes[k].bank = s.lanes[k].bank := by
  rw [h.lane k, State.setLaneBank, State.modLane_other _ _ _ _ hk]
/-- The bank counts MIDX on for the lane that it has sent a frame to, from 13 to 0, and for no other (R456). -/
theorem BankState.sentTo_midx (x : BankState) (l : LaneId) :
    (x.sentTo l).midx[l] = (x.midx[l] + 1) % 14 ∧ ∀ k, k ≠ l → (x.sentTo l).midx[k] = x.midx[k] := by
  refine ⟨by simp [BankState.sentTo], fun k hk => ?_⟩
  have far : l.val ≠ k.val := fun e => hk (Fin.ext e.symm)
  simp [BankState.sentTo, far]
/-- A frame reaches a lane in the vote. -/
theorem bankSampleFrame_active {l : LaneId} {b : BankId} {rx : RxBank} {w : BankBits} {s : State} (h : s.active l = true)
    (hw : s.banks[b].received l s.now rx = w) :
    exec (.bankSampleFrame l b rx) s = .next ((s.modBank b fun x => x.sentTo l).bankSample l b w) := by
  subst hw
  exact congrArg Host.Outcome.next (if_pos h)

end Sys2Proof.Machine

open Sys2Proof Sys2Proof.Machine

/-- Settles O13: what a frame, good or bad, makes of the lane's part of the bank is all that it changes of what the lanes hold of
the banks, and the bank has counted its MIDX on. -/
theorem bankSampleFramesAreTakenOrDiscarded : Obligations.BankSampleFramesAreTakenOrDiscarded := by
  unfold Obligations.BankSampleFramesAreTakenOrDiscarded
  intro l b w s active
  obtain ⟨B, kept, good, bad⟩ := (s.modBank b fun x => x.sentTo l).bankSample_laneBank l b w
  have arrives (rx : RxBank) (hw : s.banks[b].received l s.now rx = w) := bankSampleFrame_active active hw
  generalize State.bankSample _ l b w = t at kept arrives
  have held : t.lanes[l].bank[b] = B := kept.setLaneBank_same
  have sent : t.banks[b] = s.banks[b].sentTo l := by
    rw [kept.banks]
    exact State.modBank_same s b fun x => x.sentTo l
  obtain ⟨next, others⟩ := s.banks[b].sentTo_midx l
  refine ⟨t, arrives (.bits w) rfl, fun ⟨crc, midx⟩ => ?_, fun wrong => ?_, fun k hk => kept.setLaneBank_otherBank hk,
    fun k hk => kept.setLaneBank_otherLane hk, by rw [sent, next], fun k hk => by rw [sent, others k hk],
    fun raw rb cl sup mval asSent => arrives _ asSent⟩
  · rw [held]
    exact good (by simp [BankF.good, crc, midx])
  · have notGood : BankF.good w = false := by
      rcases wrong with crc | midx
      · simp [BankF.good, crc]
      · simp [BankF.good, midx]
    obtain ⟨frame, count, link⟩ := bad notGood
    rw [held]
    exact ⟨frame, count, fun two => link (by rw [count]; exact Nat.succ_le_succ two)⟩
end

