-- ==== Sys2Proof/Proofs/OutputsKept.lean ====
section
/-!
PROOFS. What a vote and an action point leave of the outputs: most of what they do (counts, reports, latches, levels, the mailbox)
touches neither the images that a lane votes, derives and has in force, nor the cycle that runs. Said once for each operation.
-/

namespace Sys2Proof.Machine

/-! ## Faults of other codes -/

/-- A fault withdrawn leaves the list as it was for every other code. -/
theorem State.withdrawFault_anyStands (s : State) {code c : Nat} (i : List Nat) (m : LaneMask) (hne : c ≠ code) :
    (s.withdrawFault code i m).anyStands c = s.anyStands c := by
  unfold State.withdrawFault
  extract_lets sc hit out keep s1
  have reports : (s1.each out fun t f => t.event f.code 2 3 f.scope).anyStands c = s1.anyStands c :=
    each_field (·.anyStands c) out (fun t f _ => by unfold State.anyStands; rw [State.event_faults]) s1
  have spared : ∀ f : FaultRec, f.code = c → hit f = false := fun f hf => by simp [hit, hf, hne]
  rw [reports, Bool.eq_iff_iff]
  simp only [State.anyStands, s1, keep, List.any_map, List.any_filter, Function.comp_def, List.any_eq_true, Bool.and_eq_true,
    Bool.not_eq_true', beq_iff_eq]
  constructor
  · rintro ⟨f, hf, -, e⟩
    exact ⟨f, hf, by split at e <;> exact e⟩
  · rintro ⟨f, hf, e⟩
    exact ⟨f, hf, by simp [spared f e], by rw [spared f e]; exact e⟩
/-- A fault raised stands. -/
theorem State.raiseFault_anyStands (s : State) (code : Nat) (i : List Nat) (m : LaneMask) (k : Nat) :
    (s.raiseFault code i m k).anyStands code = true := by
  obtain ⟨f, hf, e⟩ := List.any_eq_true.mp (s.raiseFault_stands code i m k)
  exact List.any_eq_true.mpr ⟨f, hf, (Bool.and_eq_true_iff.mp e).1⟩

/-! ## Parameters -/

/-- The log is no parameter. -/
theorem State.params_congr {s t : State} {log : List Bytes} (hf : t.flash = { s.flash with log := log }) (hw : t.working = s.working) :
    t.params = s.params := by
  have bank : t.activeBank = s.activeBank := by
    simp only [State.activeBank, hf]
  unfold State.params
  rw [bank, hw]
theorem State.event_params (s : State) (code kind lane : Nat) (sc d : Bytes) : (s.event code kind lane sc d).params = s.params :=
  State.params_congr (s.event_flash ..) (s.event_working ..)
theorem State.raiseFault_params (s : State) (code : Nat) (i : List Nat) (m : LaneMask) (k : Nat) : (s.raiseFault code i m k).params = s.params := by
  unfold State.raiseFault
  extract_lets sc held s1 s2
  split
  · rfl
  · exact s2.event_params ..
theorem State.withdrawFault_params (s : State) (code : Nat) (i : List Nat) (m : LaneMask) : (s.withdrawFault code i m).params = s.params := by
  unfold State.withdrawFault
  extract_lets sc hit out keep s1
  exact each_field (·.params) out (fun t f _ => t.event_params ..) s1

/-! ## The outputs of a lane -/

/-- What a lane drives, and derives it from: whether it is in the vote, its voted images, whether they are missing, and its drive
images, the next one and the ones in force. -/
def LaneState.outputs (L : LaneState) : LaneStatus × Voted × Bool × DriveImage × DriveImage × Voted :=
  (L.st, L.voted, L.noImage, L.drive.next, L.drive.img, L.inForce)
/-- The cycle that runs: its nominal start by the module's crystal and in global time, its count, the set in force, and whether the
module is in cold start. -/
def ModuleBus.cycle (b : ModuleBus) : Nat × BitVec 64 × Word × Nat × Bool := (b.apAt, b.apGt, b.apCycle, b.sset, b.coldStart)

/-- Two states at one instant agree in the outputs of every lane, in the cycle that runs, in what is still to come in it, and in the
parameters. -/
structure OutputsKept (s t : State) : Prop where
  now : t.now = s.now
  cycle : t.bus.cycle = s.bus.cycle
  voted : t.mode.voted = s.mode.voted
  frozen : t.mode.frozen = s.mode.frozen
  params : t.params = s.params
  lane : ∀ l : LaneId, t.lanes[l].outputs = s.lanes[l].outputs

namespace OutputsKept

theorem refl (s : State) : OutputsKept s s := ⟨rfl, rfl, rfl, rfl, rfl, fun _ => rfl⟩
theorem trans {s t u : State} (h : OutputsKept s t) (k : OutputsKept t u) : OutputsKept s u :=
  ⟨k.now.trans h.now, k.cycle.trans h.cycle, k.voted.trans h.voted, k.frozen.trans h.frozen, k.params.trans h.params,
   fun l => (k.lane l).trans (h.lane l)⟩
/-- What touches none of these parts of the state. -/
theorem rest {s t u : State} (h : OutputsKept s t)
    (e : (u.now, u.bus, u.mode, u.lanes, u.flash, u.working) = (t.now, t.bus, t.mode, t.lanes, t.flash, t.working)) : OutputsKept s u := by
  simp only [Prod.mk.injEq] at e
  obtain ⟨hn, hb, hm, hl, hf, hw⟩ := e
  exact h.trans ⟨hn, by rw [hb], by rw [hm], by rw [hm], State.params_congr hf hw, fun l => by rw [hl]⟩
theorem of_mail {s t u : State} (h : OutputsKept s t) (k : MailOnly t u) : OutputsKept s u := by
  rw [k.rest]
  exact h.rest rfl
theorem active {s t : State} (h : OutputsKept s t) (l : LaneId) : t.active l = s.active l :=
  congrArg (fun x => x.1 == LaneStatus.active) (h.lane l)
theorem votedImage {s t : State} (h : OutputsKept s t) (l : LaneId) : t.lanes[l].voted = s.lanes[l].voted := congrArg (·.2.1) (h.lane l)

section
variable {s t : State} (h : OutputsKept s t)
include h

theorem ite {u : State} {p : Prop} [Decidable p] (k : OutputsKept s u) : OutputsKept s (if p then t else u) := by
  split <;> assumption
theorem each {α : Type} {f : State → α → State} (xs : List α) (hf : ∀ u x, OutputsKept u (f u x)) : OutputsKept s (t.each xs f) :=
  h.trans ⟨each_field (·.now) xs (fun u x _ => (hf u x).now) t, each_field (·.bus.cycle) xs (fun u x _ => (hf u x).cycle) t,
    each_field (·.mode.voted) xs (fun u x _ => (hf u x).voted) t, each_field (·.mode.frozen) xs (fun u x _ => (hf u x).frozen) t,
    each_field (·.params) xs (fun u x _ => (hf u x).params) t, fun l => each_field (·.lanes[l].outputs) xs (fun u x _ => (hf u x).lane l) t⟩
theorem modLane (l : LaneId) {f : LaneState → LaneState} (hf : ∀ L, (f L).outputs = L.outputs) : OutputsKept s (t.modLane l f) := by
  refine h.trans ⟨rfl, rfl, rfl, rfl, rfl, fun k => ?_⟩
  by_cases e : k = l
  · subst e; rw [State.modLane_same, hf]
  · rw [State.modLane_other _ _ _ _ e]
theorem modLanes {f : LaneId → LaneState → LaneState} (hf : ∀ l L, (f l L).outputs = L.outputs) : OutputsKept s (t.modLanes f) :=
  h.trans ⟨rfl, rfl, rfl, rfl, rfl, fun k => by rw [State.modLanes_at, hf]⟩

/-! ## Reports and answers -/

theorem event (code kind lane : Nat) (sc d : Bytes) : OutputsKept s (t.event code kind lane sc d) :=
  h.trans ⟨by simp, by simp, by simp, by simp, t.event_params .., fun l => by simp⟩
theorem note (code : Nat) (i : List Nat) (d : Bytes) (l k : Nat) : OutputsKept s (t.note code i d l k) := h.event _ _ _ _ _
theorem logRec (r : Bytes) : OutputsKept s (t.logRec r) := h.trans ⟨rfl, rfl, rfl, rfl, rfl, fun _ => rfl⟩
theorem raiseFault (code : Nat) (i : List Nat) (m : LaneMask) (k : Nat) : OutputsKept s (t.raiseFault code i m k) := by
  refine h.trans ⟨by simp, by simp, by simp, by simp, t.raiseFault_params .., fun l => ?_⟩
  obtain ⟨w, e⟩ := t.raiseFault_lane code i m k l
  rw [e]; rfl
theorem withdrawFault (code : Nat) (i : List Nat) (m : LaneMask) : OutputsKept s (t.withdrawFault code i m) :=
  h.trans ⟨by simp, by simp, by simp, by simp, t.withdrawFault_params .., fun l => by simp⟩
theorem answer (n : Nat) (r : Reply) : OutputsKept s (t.answer n r) := h.rest rfl
theorem setSafe : OutputsKept s t.setSafe := h.modLanes fun _ _ => by split <;> rfl
theorem feWrite (g : GroupId) (w : FeWrite) : OutputsKept s (t.feWrite g w) := by
  unfold State.feWrite
  split
  · exact h.rest rfl
  · exact h

end

end OutputsKept

end Sys2Proof.Machine
end

