-- ==== Sys2Proof/Proofs/VoteInstant.lean ====
section
/-!
PROOFS. The vote instant (R25): every lane in the vote takes the image that two masters carry in fresh images (R288), and derives its
next drive image from it; without a quorum SAFE is decided (R291).
-/

namespace Sys2Proof.Machine

/-! ## What a vote does besides -/

/-- Two states agree besides in the mode, in the SAFE latch of every lane, and in whether NO_QUORUM stands. -/
structure VoteKept (s t : State) : Prop extends OutputsKept s t where
  mode : t.mode = s.mode
  safe : ∀ l : LaneId, t.lanes[l].latches.safe = s.lanes[l].latches.safe
  quorum : t.anyStands FaultCode.noQuorum = s.anyStands FaultCode.noQuorum

namespace VoteKept

theorem refl (s : State) : VoteKept s s := ⟨.refl s, rfl, fun _ => rfl, rfl⟩
theorem trans {s t u : State} (h : VoteKept s t) (k : VoteKept t u) : VoteKept s u :=
  ⟨h.toOutputsKept.trans k.toOutputsKept, k.mode.trans h.mode, fun l => (k.safe l).trans (h.safe l), k.quorum.trans h.quorum⟩
theorem rest {s t u : State} (h : VoteKept s t)
    (e : (u.now, u.bus, u.mode, u.lanes, u.flash, u.working) = (t.now, t.bus, t.mode, t.lanes, t.flash, t.working)) (hf : u.faults = t.faults) :
    VoteKept s u := by
  have kept := (OutputsKept.refl t).rest e
  simp only [Prod.mk.injEq] at e
  obtain ⟨-, -, hm, hl, -, -⟩ := e
  exact h.trans ⟨kept, hm, fun l => by rw [hl], by unfold State.anyStands; rw [hf]⟩
theorem of_mail {s t u : State} (h : VoteKept s t) (k : MailOnly t u) : VoteKept s u := by
  rw [k.rest]
  exact h.rest rfl rfl

section
variable {s t : State} (h : VoteKept s t)
include h

theorem ite {u : State} {p : Prop} [Decidable p] (k : VoteKept s u) : VoteKept s (if p then t else u) := by
  split <;> assumption
theorem each {α : Type} {f : State → α → State} (xs : List α) (hf : ∀ u x, VoteKept u (f u x)) : VoteKept s (t.each xs f) :=
  h.trans ⟨(OutputsKept.refl t).each xs fun u x => (hf u x).toOutputsKept, each_field (·.mode) xs (fun u x _ => (hf u x).mode) t,
    fun l => each_field (·.lanes[l].latches.safe) xs (fun u x _ => (hf u x).safe l) t,
    each_field (·.anyStands FaultCode.noQuorum) xs (fun u x _ => (hf u x).quorum) t⟩
theorem modLanes {f : LaneId → LaneState → LaneState} (hf : ∀ l L, (f l L).outputs = L.outputs ∧ (f l L).latches.safe = L.latches.safe) :
    VoteKept s (t.modLanes f) :=
  h.trans ⟨(OutputsKept.refl t).modLanes fun l L => (hf l L).1, rfl, fun k => by rw [State.modLanes_at, (hf k _).2], rfl⟩
theorem modGroup (g : GroupId) (f : GroupState → GroupState) : VoteKept s (t.modGroup g f) := h.rest rfl rfl
theorem modBank (b : BankId) (f : BankState → BankState) : VoteKept s (t.modBank b f) := h.rest rfl rfl
theorem note (code : Nat) (i : List Nat) (d : Bytes) (l k : Nat) : VoteKept s (t.note code i d l k) :=
  h.trans ⟨(OutputsKept.refl t).note .., by simp, fun l => by simp, by unfold State.anyStands; rw [State.note_faults]⟩
theorem withdrawFault (code : Nat) (hc : FaultCode.noQuorum ≠ code) (i : List Nat) (m : LaneMask) : VoteKept s (t.withdrawFault code i m) :=
  h.trans ⟨(OutputsKept.refl t).withdrawFault .., by simp, fun l => by simp, t.withdrawFault_anyStands i m hc⟩
theorem answer (n : Nat) (r : Reply) : VoteKept s (t.answer n r) := h.rest rfl rfl
theorem noteMaster (m : MasterId) (v : MasterView) : VoteKept s (t.noteMaster m v) := by
  unfold State.noteMaster
  extract_lets n was now s1 say s2 s3 s4
  have counted : VoteKept s s1 := h.modLanes fun _ _ => by split <;> exact ⟨rfl, rfl⟩
  have said {u : State} (hu : VoteKept s u) (b : Bool) (code : Nat) : VoteKept s (say u b code) := (hu.note ..).ite hu
  exact said (said (said (said counted ..) ..) ..) ..

/-! ## Latches cleared at a vote (R289, R357, R358) -/

theorem clearGroup (g : GroupId) : VoteKept s (t.clearGroup g) := by
  unfold State.clearGroup
  extract_lets off s1
  have cleared : VoteKept s s1 := h.modLanes fun _ _ => ⟨rfl, rfl⟩
  exact cleared.withdrawFault _ (by decide) ..
theorem clearSupplyLoss (b : BankId) : VoteKept s (t.clearSupplyLoss b) := by
  unfold State.clearSupplyLoss
  extract_lets outs
  refine withdrawFault (modBank (h.modLanes fun _ _ => ?_) ..) _ (by decide) ..
  split <;> exact ⟨rfl, rfl⟩
theorem voteClears (v : Voted) : VoteKept s (t.voteClears v) := by
  unfold State.voteClears
  extract_lets gs bs chans outs s1 s2
  have named : VoteKept s s1 := h.modLanes fun _ _ => by split <;> exact ⟨rfl, rfl⟩
  have proven : VoteKept s s2 := named.each gs fun u g => (refl u).withdrawFault _ (by decide) ..
  exact proven.each bs fun u b => ((refl u).modBank ..).withdrawFault _ (by decide) ..
theorem proveClear (k : PendingClear) : VoteKept s (t.proveClear k) := by
  unfold State.proveClear
  extract_lets was s1
  have lapsed : VoteKept s s1 := h.modLanes fun _ _ => by split <;> exact ⟨by dsimp only [LaneState.outputs], rfl⟩
  exact lapsed.answer ..
theorem latchClear (k : PendingClear) : VoteKept s (t.latchClear k) := by
  unfold State.latchClear
  extract_lets sw re anyL chans gs bs s1 s2 s3 kinds
  have off : VoteKept s s1 := h.modLanes fun _ _ => by split <;> exact ⟨rfl, rfl⟩
  have groups : VoteKept s s2 := off.each _ fun u g => (refl u).clearGroup g
  have banks : VoteKept s s3 := groups.each _ fun u b => (refl u).clearSupplyLoss b
  exact banks.answer ..
theorem dueClears : VoteKept s t.dueClears := by
  unfold State.dueClears
  extract_lets due act s1
  exact each (t := s1) (h.rest rfl rfl) due fun u k => ((refl u).proveClear k).ite ((refl u).latchClear k)

/-! ## Levels, the Coppice rotation, the rings and the day -/

theorem feWrite (g : GroupId) (w : FeWrite) : VoteKept s (t.feWrite g w) := by
  unfold State.feWrite
  split
  · exact h.rest rfl rfl
  · exact h
theorem modLoan (g : GroupId) (sp : Spare) (f : Loan → Loan) : VoteKept s (t.modLoan g sp f) := by
  unfold State.modLoan State.modUnder
  exact h.modGroup ..
theorem connect (g : GroupId) (m : Modulator) (x : ModInput) : VoteKept s (t.connect g m x) := h.feWrite g (.modInput m x)
theorem bringHome (g : GroupId) (sp : Spare) : VoteKept s (t.bringHome g sp) := by
  unfold State.bringHome
  extract_lets x home later
  have homed : VoteKept s (home t) := ((h.connect ..).modLoan ..).modLoan ..
  have back : VoteKept s (t.reconnect g sp) := by
    unfold State.reconnect
    exact (h.connect ..).modLoan ..
  split
  case h_1 | h_2 => exact back.modLoan ..
  case h_3 | h_4 | h_5 | h_6 => exact h
  case h_7 | h_8 | h_9 | h_10 => exact homed.modLoan ..
  case h_11 | h_12 | h_13 => exact homed
theorem setLevel (g : GroupId) (k : Fin 4) : VoteKept s (t.setLevel g k) := by
  unfold State.setLevel
  extract_lets G votes held s1 lowering s2
  have counted : VoteKept s s1 := h.modGroup ..
  have risen : VoteKept s s2 := counted.modGroup ..
  have home : VoteKept s (if G.level = 0 then s1.bringHomeAll g else s1) := ((counted.bringHome g .volt).bringHome g .curr).ite counted
  exact ite (((risen.feWrite ..).feWrite ..).ite risen) (ite (home.modGroup ..) (counted.modGroup ..))
theorem copVote : VoteKept s t.copVote := by
  unfold State.copVote
  split
  · exact h.rest rfl rfl
  · exact h
theorem freeRings : VoteKept s t.freeRings := h.each _ fun u q => (refl u).of_mail ((MailOnly.refl u).freeRing q)
theorem seeDay : VoteKept s t.seeDay := by
  unfold State.seeDay
  split
  · exact h.rest rfl rfl
  · exact h

end

end VoteKept

/-! ## Two of three masters (R288) -/

theorem two_le_length_filter (p : MasterId → Bool) : 2 ≤ (allMasters.filter p).length ↔ ∃ m n : MasterId, m ≠ n ∧ p m = true ∧ p n = true := by
  revert p
  decide
/-- Two values of a list cannot fill more places than it has. -/
theorem count_add_count_le {α : Type} [DecidableEq α] {v w : α} (h : w ≠ v) (xs : List α) : xs.count v + xs.count w ≤ xs.length := by
  induction xs with
  | nil => exact Nat.le_refl 0
  | cons x xs ih =>
    rw [List.count_cons, List.count_cons, List.length_cons]
    by_cases hv : x = v
    · subst hv
      simp [h.symm]
      omega
    · simp only [beq_iff_eq, hv, if_false]
      split <;> omega
/-- Of three values or fewer at most one is carried twice. -/
theorem agreedValue_eq_iff {v : Nat} (hv : v ≠ 0) {xs : List Nat} (hx : xs.length ≤ 3) : agreedValue xs = v ↔ 2 ≤ xs.count v := by
  unfold agreedValue
  constructor
  · intro e
    cases found : xs.find? fun v => decide (2 ≤ xs.count v) with
    | none => rw [found] at e; exact absurd e.symm hv
    | some w =>
      rw [found] at e
      obtain rfl : w = v := e
      simpa using List.find?_some found
  · intro twice
    cases found : xs.find? fun v => decide (2 ≤ xs.count v) with
    | none =>
      have inList : v ∈ xs := List.count_pos_iff.mp (by omega)
      exact absurd (decide_eq_true twice) (List.find?_eq_none.mp found v inList)
    | some w =>
      have twiceW : 2 ≤ xs.count w := by simpa using List.find?_some found
      by_contra other
      have := count_add_count_le (v := v) (w := w) other xs
      omega
/-- What the masters carry, each its own or none: a value is carried twice exactly where two masters carry it. -/
theorem two_le_count_iff {α β : Type} [DecidableEq β] (g : MasterId → Option α) (f : α → β) (v : β) :
    2 ≤ ((allMasters.filterMap g).map f).count v ↔ ∃ m n p q, m ≠ n ∧ g m = some p ∧ g n = some q ∧ f p = v ∧ f q = v := by
  have carry : ((allMasters.filterMap g).map f).count v = (allMasters.filter fun m => (g m).any fun p => f p == v).length := by
    generalize allMasters = ms
    induction ms with
    | nil => rfl
    | cons m ms ih =>
      cases hm : g m with
      | none => simp [hm, ih]
      | some p =>
        by_cases hp : f p = v
        · simp [hm, hp, ih]
        · simp [hm, hp, ih]
  rw [carry, two_le_length_filter]
  simp only [Option.any_eq_true, beq_iff_eq]
  constructor
  · rintro ⟨m, n, hmn, ⟨p, hp, ep⟩, q, hq, eq⟩
    exact ⟨m, n, p, q, hmn, hp, hq, ep, eq⟩
  · rintro ⟨m, n, p, q, hmn, hp, hq, ep, eq⟩
    exact ⟨m, n, hmn, ⟨p, hp, ep⟩, q, hq, eq⟩
theorem carried_length_le {α : Type} (g : MasterId → Option α) : (allMasters.filterMap g).length ≤ 3 :=
  (List.length_filterMap_le g allMasters).trans (by decide)
/-- The value that two masters carry in a field of w bits, or 0, is one of w bits. -/
theorem agreedValue_lt {α : Type} {w : Nat} (xs : List α) (f : α → BitVec w) : agreedValue (xs.map fun x => (f x).toNat) < 2 ^ w := by
  unfold agreedValue
  cases found : (xs.map fun x => (f x).toNat).find? fun v => decide (2 ≤ (xs.map fun x => (f x).toNat).count v) with
  | none => exact Nat.two_pow_pos w
  | some v =>
    obtain ⟨x, -, e⟩ := List.mem_map.mp (List.mem_of_find?_eq_some found)
    rw [Option.getD_some, ← e]
    exact (f x).isLt
/-- A value other than 0 of a field of w bits is agreed on exactly where two masters carry it. -/
theorem agreedField_iff {α : Type} {w : Nat} (g : MasterId → Option α) (f : α → BitVec w) {v : BitVec w} (hv : v ≠ 0) :
    agreedValue ((allMasters.filterMap g).map fun p => (f p).toNat) = v.toNat ↔
      ∃ m n p q, m ≠ n ∧ g m = some p ∧ g n = some q ∧ f p = v ∧ f q = v := by
  have nonzero : v.toNat ≠ 0 := fun e => hv (BitVec.eq_of_toNat_eq e)
  rw [agreedValue_eq_iff nonzero (by rw [List.length_map]; exact carried_length_le g), two_le_count_iff g fun p => (f p).toNat]
  simp only [BitVec.toNat_inj]
theorem ofNat_agreed_iff {α : Type} {w : Nat} (xs : List α) (f : α → BitVec w) (v : BitVec w) :
    BitVec.ofNat w (agreedValue (xs.map fun x => (f x).toNat)) = v ↔ agreedValue (xs.map fun x => (f x).toNat) = v.toNat := by
  rw [← BitVec.toNat_inj, BitVec.toNat_ofNat, Nat.mod_eq_of_lt (agreedValue_lt xs f)]

/-! ## The voted image -/

/-- The payload of a master's fresh image, if it has one. -/
def State.freshImage (s : State) (m : MasterId) : Option Bytes :=
  if (s.masterView m).freshAt s.params.maxAge then (s.masterView m).image.map (·.payload) else none
theorem State.freshImage_iff (s : State) (m : MasterId) (p : Bytes) : s.freshImage m = some p ↔
    (s.masterView m).freshAt s.params.maxAge = true ∧ (s.masterView m).image.map (·.payload) = some p := by
  unfold State.freshImage
  split <;> simp [*]
/-- The image that the lanes vote. -/
def State.votedImage (s : State) : Voted := voteImage (Vector.ofFn s.masterView) s.params.maxAge
/-- The fresh images of a vote. -/
theorem State.votedImage_cmd (s : State) (c : Chan) : s.votedImage.cmd[c] =
    (let v := agreedValue ((allMasters.filterMap s.freshImage).map fun p => (imgLamp p c).toNat); if 6 ≤ v then 0 else BitVec.ofNat 4 v) := by
  simp [State.votedImage, voteImage]
  rfl
theorem State.votedImage_pts (s : State) : s.votedImage.pts =
    maskOf fun p => twoOf ((allMasters.filterMap s.freshImage).map fun b => has (imgPoints b) p) := by
  simp [State.votedImage, voteImage]
  rfl
theorem State.votedImage_budget (s : State) (i : Fin 24) : s.votedImage.budget[i] =
    BitVec.ofNat 8 (agreedValue ((allMasters.filterMap s.freshImage).map fun p => (imgBudget p i.val).toNat)) := by
  simp [State.votedImage, voteImage]
  rfl
/-- A channel has a command other than 0 exactly where two masters carry it in fresh images, and it is none of the reserved ones. -/
theorem State.votedImage_cmd_iff (s : State) (c : Chan) {v : BitVec 4} (hv : v ≠ 0) : s.votedImage.cmd[c] = v ↔
    v.toNat ≤ 5 ∧ ∃ m n p q, m ≠ n ∧ s.freshImage m = some p ∧ s.freshImage n = some q ∧ imgLamp p c = v ∧ imgLamp q c = v := by
  rw [← agreedField_iff s.freshImage (imgLamp · c) hv, s.votedImage_cmd c]
  dsimp only
  split
  · rename_i reserved
    exact ⟨fun e => absurd e.symm hv, fun ⟨five, e⟩ => by omega⟩
  · rename_i defined
    rw [ofNat_agreed_iff]
    exact ⟨fun e => ⟨by omega, e⟩, fun e => e.2⟩
theorem State.votedImage_pts_iff (s : State) (i : Point) : has s.votedImage.pts i = true ↔
    ∃ m n p q, m ≠ n ∧ s.freshImage m = some p ∧ s.freshImage n = some q ∧ has (imgPoints p) i = true ∧ has (imgPoints q) i = true := by
  rw [s.votedImage_pts, has_maskOf, twoOf, decide_eq_true_eq, two_le_count_iff]
theorem State.votedImage_budget_iff (s : State) (i : Fin 24) {v : Byte} (hv : v ≠ 0) : s.votedImage.budget[i] = v ↔
    ∃ m n p q, m ≠ n ∧ s.freshImage m = some p ∧ s.freshImage n = some q ∧ imgBudget p i.val = v ∧ imgBudget q i.val = v := by
  rw [← agreedField_iff s.freshImage (imgBudget · i.val) hv, s.votedImage_budget i, ofNat_agreed_iff]

/-! ## The drive image derived from the vote -/

/-- The end of a vote: other lanes and hubs, the wear monitor's day, and no vote to come. -/
def State.endVote (s : State) (ls : Vector LaneState 3) (hs : Vector HubState 2) (w : Wear) : State :=
  { s with lanes := ls, hubs := hs, wear := w, mode := { s.mode with voted := true } }

section
variable {s : State} {l : LaneId} {ls : Vector LaneState 3} (hs : Vector HubState 2) (w : Wear)

theorem State.endVote_cmdNext (hv : ls[l].voted = s.lanes[l].voted) (c : Chan) : (s.endVote ls hs w).cmdNext l c = s.cmdNext l c := by
  change (if _ then _ else ls[l].voted.cmd[c]) = _
  rw [hv]
  rfl

variable (hd : ls[l].due = s.lanes[l].due)
include hd

theorem State.endVote_revertNext (g : GroupId) : (s.endVote ls hs w).revertNext l g = s.revertNext l g := by
  change (_ && (has ls[l].due.revert g || _)) = _
  rw [hd]
  rfl
theorem State.endVote_testOnNext (c : Chan) : (s.endVote ls hs w).testOnNext l c = s.testOnNext l c := by
  change (_ && !has ls[l].due.chanOff c && !has ls[l].due.energy c.group && _) = _
  rw [hd]
  rfl
theorem State.endVote_testPtNext (i : Point) : (s.endVote ls hs w).testPtNext l i = s.testPtNext l i := by
  change (_ && !ls[l].due.pointOff i && _) = _
  rw [hd]
  rfl
variable (hv : ls[l].voted = s.lanes[l].voted)
include hv

theorem State.endVote_chanOnNext (c : Chan) : (s.endVote ls hs w).chanOnNext l c = s.chanOnNext l c := by
  unfold State.chanOnNext
  rw [State.endVote_revertNext hs w hd, State.endVote_cmdNext hs w hv, show (s.endVote ls hs w).lanes[l].due = s.lanes[l].due from hd]
  rfl
theorem State.endVote_pointOnNext (i : Point) : (s.endVote ls hs w).pointOnNext l i = s.pointOnNext l i := by
  unfold State.pointOnNext
  simp only [State.endVote_revertNext hs w hd, show (s.endVote ls hs w).lanes[l].due = s.lanes[l].due from hd,
    show (s.endVote ls hs w).lanes[l].voted = s.lanes[l].voted from hv]
  rfl
/-- The derivation reads of a lane its voted images and its latched fault set, and neither the hubs nor whether a vote is to come. -/
theorem State.endVote_derive : (s.endVote ls hs w).derive l = s.derive l := by
  unfold State.derive State.derived
  simp only [funext (State.endVote_chanOnNext hs w hd hv), funext (State.endVote_pointOnNext hs w hd hv), State.endVote_cmdNext hs w hv,
    State.endVote_revertNext hs w hd, funext (State.endVote_revertNext hs w hd), funext (State.endVote_testOnNext hs w hd), funext (State.endVote_testPtNext hs w hd),
    show (s.endVote ls hs w).lanes[l].due = s.lanes[l].due from hd]
  rfl

end

/-! ## The three parts of a vote -/

/-- The masters are counted, the lanes take the voted image, and the latches that it names, or that a due clear names, are cleared. -/
def State.castVote (s : State) : State :=
  (((s.each allMasters fun s' m => s'.noteMaster m (Vector.ofFn s.masterView)[m]).takeVote s.votedImage).voteClears s.votedImage).dueClears
/-- NO_QUORUM, and the changes of mode. -/
def State.judgeVote (s u : State) : State :=
  let s4 := (if s.noQuorum (Vector.ofFn s.masterView) then u.fault FaultCode.noQuorum [] u.voteMask else u).voteModes s.votedImage
  (s4.dormantModes (Vector.ofFn (s4.chosenLevel s.votedImage))).judgeReqs s.votedImage s4.mode.reqs
/-- The levels and the Coppice rotation, and the rings freed. -/
def State.levelVote (s : State) (v : Voted) : State := (s.each allGroups fun t g => t.setLevel g (s.chosenLevel v g)).copVote.freeRings
/-- A lane in the vote derives its next drive image. -/
def State.derivesLane (s : State) (l : LaneId) (L : LaneState) : LaneState :=
  if L.st == .active then { L with noImage := false, drive := { L.drive with next := s.derive l } } else L
/-- The images derived, and the vote over. -/
def State.deriveVote (s : State) : State :=
  let s7 := s.modLanes s.derivesLane
  (({ s7 with mode := { s7.mode with voted := true } } : State).modHubs fun _ H => { H with bus := H.bus.takeLate }).seeDay
theorem State.vote_parts (s : State) : s.vote = ((s.judgeVote s.castVote).levelVote s.votedImage).deriveVote := by
  unfold State.vote
  extract_lets vs v s1 s2 s3 s4 levels s5 s6 s7
  have cast : s2 = s.castVote := rfl
  have judged : s5 = s.judgeVote s2 := rfl
  have levelled : s6 = s5.levelVote s.votedImage := rfl
  rw [← cast, ← judged, ← levelled]
  rfl

/-! ## The voted image is taken -/

theorem State.takeVote_leaves (s : State) (v : Voted) : (s.takeVote v).mode = s.mode ∧ (∀ l, (s.takeVote v).active l = s.active l) ∧
    (s.takeVote v).anyStands FaultCode.noQuorum = s.anyStands FaultCode.noQuorum := by
  refine ⟨rfl, fun l => ?_, rfl⟩
  unfold State.takeVote State.active
  rw [State.modLanes_at]
  split <;> rfl
theorem State.takeVote_voted (s : State) (v : Voted) {l : LaneId} (h : s.active l = true) : (s.takeVote v).lanes[l].voted = v := by
  unfold State.takeVote
  rw [State.modLanes_at, if_pos (show (s.lanes[l].st == .active) = true from h)]
theorem State.castVote_counted (s : State) : ∃ u, VoteKept s u ∧ VoteKept (u.takeVote s.votedImage) s.castVote :=
  ⟨_, (VoteKept.refl s).each allMasters fun u m => (VoteKept.refl u).noteMaster m _, ((VoteKept.refl _).voteClears _).dueClears⟩
/-- Every lane in the vote has the voted image; the mode, and whether NO_QUORUM stands, are as before. -/
theorem State.castVote_takes (s : State) : s.castVote.mode = s.mode ∧ (∀ l, s.castVote.active l = s.active l) ∧
    s.castVote.anyStands FaultCode.noQuorum = s.anyStands FaultCode.noQuorum ∧
    ∀ l : LaneId, s.active l = true → s.castVote.lanes[l].voted = s.votedImage := by
  obtain ⟨u, counted, cleared⟩ := s.castVote_counted
  obtain ⟨mode, active, quorum⟩ := u.takeVote_leaves s.votedImage
  refine ⟨by rw [cleared.mode, mode, counted.mode], fun l => by rw [cleared.active, active, counted.active], by rw [cleared.quorum, quorum, counted.quorum],
    fun l hl => ?_⟩
  rw [cleared.votedImage l, u.takeVote_voted _ (by rw [counted.active, hl])]

/-! ## What a vote decides leaves the outputs -/

namespace OutputsKept
section
variable {s t : State} (h : OutputsKept s t)
include h

theorem decideMode (m : Mode) (k : Nat) : OutputsKept s (t.decideMode m k) := h.trans ⟨rfl, rfl, rfl, rfl, rfl, fun _ => rfl⟩
theorem quorumFault (m : LaneMask) : OutputsKept s (t.fault FaultCode.noQuorum [] m) := by
  unfold State.fault
  extract_lets known
  exact h.ite (h.raiseFault ..).setSafe
theorem clearSafe : OutputsKept s t.clearSafe := by
  unfold State.clearSafe
  refine withdrawFault ?_ ..
  exact h.modLanes fun _ _ => rfl
theorem voteModes (v : Voted) : OutputsKept s (t.voteModes v) := by
  unfold State.voteModes
  extract_lets f
  refine ite (h.decideMode ..) (ite (h.ite ((h.decideMode ..).ite (ite (h.decideMode ..) h))) (ite (h.setSafe.ite (h.clearSafe.decideMode ..)) h))
theorem dormantModes (v : Vector (Fin 4) 12) : OutputsKept s (t.dormantModes v) := h.ite ((h.decideMode ..).ite ((h.decideMode ..).ite h))
theorem modReqs (rs : List ModeReq) : OutputsKept s { t with mode := { t.mode with reqs := rs } } := h.trans ⟨rfl, rfl, rfl, rfl, rfl, fun _ => rfl⟩
theorem modAnswer (r : Option ModeReq) : OutputsKept s { t with mode := { t.mode with answer := r } } := h.trans ⟨rfl, rfl, rfl, rfl, rfl, fun _ => rfl⟩
theorem logReq (m : Mode) (k : Nat) (p : DWord) : OutputsKept s (t.logReq m k p) := by
  unfold State.logReq State.logNote
  exact (h.rest (u := t.free.2) rfl).logRec _
theorem judgeReqs (v : Voted) (rs : List ModeReq) : OutputsKept s (t.judgeReqs v rs) := by
  induction rs generalizing t with
  | nil => exact h.modReqs []
  | cons r rs ih =>
    unfold State.judgeReqs
    refine ite (h.modReqs _) (ite (ih (h.answer ..)) (ite (ih (h.answer ..)) (ite (ite ?_ (ih (h.answer ..))) ?_)))
    · exact ih (((h.logReq ..).decideMode ..).modAnswer _)
    · exact ih (((h.logReq ..).decideMode ..).modAnswer _)
theorem judgeVote (u : State) : OutputsKept s (u.judgeVote t) := by
  unfold State.judgeVote
  extract_lets s4
  have modes : OutputsKept s s4 := (ite (h.quorumFault _) h).voteModes _
  exact (modes.dormantModes _).judgeReqs ..

end
end OutputsKept

theorem VoteKept.levelVote (s : State) (v : Voted) : VoteKept s (s.levelVote v) :=
  (((VoteKept.refl s).each allGroups fun u g => (VoteKept.refl u).setLevel g _).copVote).freeRings

/-! ## The images derived -/

theorem State.seeDay_rest (s : State) : s.seeDay = { s with wear := s.seeDay.wear } := by
  unfold State.seeDay
  split <;> rfl
/-- What the end of a vote leaves, and where it leads. -/
theorem State.deriveVote_ends (s : State) : ∃ hs w, s.deriveVote = s.endVote (s.modLanes s.derivesLane).lanes hs w := ⟨_, _, State.seeDay_rest _⟩
/-- A lane in the vote has the image that is derived from what it voted. -/
theorem State.deriveVote_derives (s : State) {l : LaneId} (h : s.active l = true) :
    s.deriveVote.lanes[l].voted = s.lanes[l].voted ∧ s.deriveVote.lanes[l].drive.next = s.deriveVote.derive l := by
  obtain ⟨hs, w, e⟩ := s.deriveVote_ends
  have lane : (s.modLanes s.derivesLane).lanes[l] = { s.lanes[l] with noImage := false, drive := { s.lanes[l].drive with next := s.derive l } } := by
    rw [State.modLanes_at]
    exact if_pos h
  rw [e, State.endVote_derive hs w (by rw [lane]; rfl) (by rw [lane])]
  change (s.modLanes s.derivesLane).lanes[l].voted = _ ∧ (s.modLanes s.derivesLane).lanes[l].drive.next = _
  rw [lane]
  exact ⟨rfl, rfl⟩
/-- The end of a vote leaves the latches, the faults that stand, and the change of mode decided. -/
theorem State.deriveVote_leaves (s : State) : (∀ l : LaneId, s.deriveVote.lanes[l].latches = s.lanes[l].latches) ∧
    s.deriveVote.faults = s.faults ∧ s.deriveVote.mode = { s.mode with voted := true } := by
  obtain ⟨hs, w, e⟩ := s.deriveVote_ends
  rw [e]
  refine ⟨fun l => ?_, rfl, rfl⟩
  change (s.modLanes s.derivesLane).lanes[l].latches = _
  rw [State.modLanes_at, State.derivesLane]
  split <;> rfl

/-- After a vote every lane in it has the voted image, and its next drive image is derived from it. -/
theorem State.vote_derives (s : State) : s.vote.mode.voted = true ∧
    ∀ l : LaneId, s.active l = true → s.vote.lanes[l].voted = s.votedImage ∧ s.vote.lanes[l].drive.next = s.vote.derive l := by
  rw [s.vote_parts]
  obtain ⟨-, active, -, voted⟩ := s.castVote_takes
  have kept : OutputsKept s.castVote ((s.judgeVote s.castVote).levelVote s.votedImage) :=
    ((OutputsKept.refl _).judgeVote s).trans (VoteKept.levelVote ..).toOutputsKept
  refine ⟨by rw [(State.deriveVote_leaves _).2.2], fun l hl => ?_⟩
  obtain ⟨taken, derived⟩ := State.deriveVote_derives _ (show _ = true by rw [kept.active l, active, hl])
  exact ⟨taken.trans ((kept.votedImage l).trans (voted l hl)), derived⟩

/-! ## No quorum (R291) -/

/-- With a change of mode decided, the others that a vote may decide wait. -/
theorem State.judge_waits {s : State} (h : s.mode.next.isSome = true) (v : Voted) (levels : Vector (Fin 4) 12) (rs : List ModeReq) :
    ∃ xs, (s.dormantModes levels).judgeReqs v rs = { s with mode := { s.mode with reqs := xs } } := by
  have still : s.dormantModes levels = s := if_pos h
  rw [still]
  cases rs with
  | nil => exact ⟨[], rfl⟩
  | cons r rs => exact ⟨r :: rs, by unfold State.judgeReqs; rw [if_pos h]⟩
/-- NO_QUORUM is raised by the lanes in the vote, which set the SAFE latch. -/
theorem State.fault_noQuorum {s : State} (h : s.anyStands FaultCode.noQuorum = false) (m : LaneMask) :
    s.fault FaultCode.noQuorum [] m = (s.raiseFault FaultCode.noQuorum [] m).setSafe := by
  unfold State.fault
  extract_lets known
  have isNew : known = false := by
    rw [State.anyStands, List.any_eq_false] at h
    simp only [known, List.any_eq_false]
    intro f hf e
    exact h f hf (by simp_all)
  rw [isNew]
  rfl
/-- Without a quorum, in voted drive, NO_QUORUM stands, every lane in the vote holds the SAFE latch, and SAFE is decided. -/
theorem State.judgeVote_noQuorum {s u : State} (few : s.noQuorum (Vector.ofFn s.masterView) = true) (drives : u.mode.mode.drives = true)
    (some_ : ∃ l, u.active l = true) (fresh : u.anyStands FaultCode.noQuorum = false) :
    (s.judgeVote u).anyStands FaultCode.noQuorum = true ∧ (∀ l : LaneId, u.active l = true → (s.judgeVote u).lanes[l].latches.safe = true) ∧
      (s.judgeVote u).mode.next = some { target := .safe, cause := 9 } := by
  let r := u.raiseFault FaultCode.noQuorum [] u.voteMask
  have act (l : LaneId) : r.active l = u.active l := ((OutputsKept.refl u).raiseFault ..).active l
  have safe (l : LaneId) (hl : u.active l = true) : r.setSafe.lanes[l].latches.safe = true := by
    unfold State.setSafe
    rw [State.modLanes_at, if_pos (show _ = true by rw [← hl]; exact act l)]
  have decided : r.setSafe.voteModes s.votedImage = r.setSafe.decideMode .safe 9 := by
    unfold State.voteModes
    refine if_pos ⟨?_, ?_⟩
    · rw [show r.setSafe.mode = u.mode from u.raiseFault_mode ..]
      exact drives
    · obtain ⟨l, hl⟩ := some_
      have kept : r.setSafe.active l = true := by rw [(OutputsKept.refl r).setSafe.active l, act, hl]
      exact List.any_eq_true.mpr ⟨l, List.mem_filter.mpr ⟨List.mem_finRange l, kept⟩, safe l hl⟩
  unfold State.judgeVote
  dsimp only
  rw [if_pos few, u.fault_noQuorum fresh, decided]
  obtain ⟨xs, e⟩ := State.judge_waits (s := r.setSafe.decideMode .safe 9) rfl s.votedImage
    (Vector.ofFn ((r.setSafe.decideMode .safe 9).chosenLevel s.votedImage)) (r.setSafe.decideMode .safe 9).mode.reqs
  rw [e]
  exact ⟨u.raiseFault_anyStands .., safe, rfl⟩
theorem State.vote_noQuorum (s : State) (few : s.noQuorum (Vector.ofFn s.masterView) = true) (lanes : s.activeLanes ≠ [])
    (fresh : s.anyStands FaultCode.noQuorum = false) :
    s.vote.anyStands FaultCode.noQuorum = true ∧ (∀ l : LaneId, s.active l = true → s.vote.lanes[l].latches.safe = true) ∧
      s.vote.mode.next = some { target := .safe, cause := 9 } := by
  obtain ⟨mode, active, quorum, -⟩ := s.castVote_takes
  have drives : s.castVote.mode.mode.drives = true := by
    rw [mode]
    exact (Bool.and_eq_true_iff.mp few).1
  obtain ⟨l, hl⟩ := List.exists_mem_of_ne_nil _ lanes
  obtain ⟨stands, safe, next⟩ := State.judgeVote_noQuorum few drives ⟨l, by rw [active]; exact (List.mem_filter.mp hl).2⟩ (by rw [quorum, fresh])
  have kept := VoteKept.levelVote (s.judgeVote s.castVote) s.votedImage
  obtain ⟨latches, faults, ended⟩ := ((s.judgeVote s.castVote).levelVote s.votedImage).deriveVote_leaves
  rw [s.vote_parts]
  refine ⟨?_, fun l hl => ?_, ?_⟩
  · rw [State.anyStands, faults]
    exact kept.quorum.trans stands
  · rw [latches, kept.safe]
    exact safe l (by rw [active, hl])
  · rw [ended, kept.mode]
    exact next

theorem exec_voteInstant (s : State) : exec .voteInstant s = .next (if s.voteDue then s.vote else s) := rfl

end Sys2Proof.Machine

open Sys2Proof Sys2Proof.Machine

/-- Settles O48: a vote is cast, judged, and ends in the images derived (`vote_parts`). What is voted is decided by counting what
the masters carry in fresh images; nothing that the vote does besides touches the voted images, and nothing that follows a missing
quorum touches what that brings. -/
theorem votedOutputsNeedTwoMasters : Obligations.VotedOutputsNeedTwoMasters := by
  unfold Obligations.VotedOutputsNeedTwoMasters
  intro s
  obtain ⟨isOver, derives⟩ := s.vote_derives
  have noQuorum := s.vote_noQuorum
  rw [exec_voteInstant]
  generalize s.vote = t at isOver derives noQuorum
  refine ⟨fun early => by rw [early, if_neg Bool.false_ne_true], fun due => ⟨t, by rw [if_pos due], isOver, fun l hl => ?_, fun drives lanes fresh few => ?_⟩⟩
  · obtain ⟨voted, derived⟩ := derives l hl
    refine ⟨fun c v hv => ?_, fun i => ?_, fun i v hv => ?_, derived⟩
    · simpa only [voted, s.freshImage_iff] using s.votedImage_cmd_iff c hv
    · simpa only [voted, s.freshImage_iff] using s.votedImage_pts_iff i
    · simpa only [voted, s.freshImage_iff] using s.votedImage_budget_iff i hv
  · refine noQuorum ?_ lanes fresh
    have quorum : ¬ 2 ≤ (allMasters.filter fun m => (s.masterView m).freshAt (2 * s.params.maxAge)).length := by
      rw [two_le_length_filter]
      rintro ⟨m, n, hmn, hm, hn⟩
      rcases few m n hmn with e | e
      · rw [e] at hm; contradiction
      · rw [e] at hn; contradiction
    unfold State.noQuorum
    rw [drives]
    simpa using quorum
end

