-- ==== Sys2Proof/Proofs/ActionPoint.lean ====
section
/-!
PROOFS. What the action point does besides taking the derived images into force (R252): levels, modes, tests, points, contactors and
reports leave the outputs of every lane as they are.
-/

namespace Sys2Proof.Machine

/-- A change of mode that gives way leaves what is to come in the cycle. -/
theorem ModeState.superseded_toCome (x : ModeState) (m : Mode) : (x.superseded m).voted = x.voted ∧ (x.superseded m).frozen = x.frozen := by
  unfold ModeState.superseded
  split <;> exact ⟨rfl, rfl⟩

namespace OutputsKept

section
variable {s t : State} (h : OutputsKept s t)
include h

/-! ## Updates of one part -/

theorem modGroup (g : GroupId) (f : GroupState → GroupState) : OutputsKept s (t.modGroup g f) := h.rest rfl
theorem modUnder (g : GroupId) (f : Understorey → Understorey) : OutputsKept s (t.modUnder g f) := by
  unfold State.modUnder
  exact h.modGroup ..
theorem modLoan (g : GroupId) (sp : Spare) (f : Loan → Loan) : OutputsKept s (t.modLoan g sp f) := by
  unfold State.modLoan
  exact h.modUnder ..
theorem connect (g : GroupId) (m : Modulator) (x : ModInput) : OutputsKept s (t.connect g m x) := h.feWrite g (.modInput m x)
theorem modFe (g : GroupId) (f : FrontEnd → FrontEnd) : OutputsKept s (t.modFe g f) := h.rest rfl
theorem modHub (x : HubId) (f : HubState → HubState) : OutputsKept s (t.modHub x f) := h.rest rfl
theorem modHubs (f : HubId → HubState → HubState) : OutputsKept s (t.modHubs f) := h.rest rfl
theorem modRun (l : LaneId) (f : WearRun → WearRun) : OutputsKept s (t.modRun l f) := h.rest rfl
theorem modTests (x : Tests) : OutputsKept s { t with tests := x } := h.rest rfl
theorem modAct (x : Activities) : OutputsKept s { t with act := x } := h.rest rfl
theorem modSched (c : Chan) (f : TestSched → TestSched) : OutputsKept s (t.modSched c f) := h.rest rfl
theorem modPtSched (p : Point) (f : TestSched → TestSched) : OutputsKept s (t.modPtSched p f) := h.rest rfl
theorem modProv (l : LaneId) (c : Chan) (f : Proving → Proving) : OutputsKept s (t.modProv l c f) := h.modLane l fun _ => rfl
/-- The part of the bus that says nothing of the cycle. -/
theorem modBus {b : ModuleBus} (hb : b.cycle = t.bus.cycle) : OutputsKept s { t with bus := b } := h.trans ⟨rfl, hb, rfl, rfl, rfl, fun _ => rfl⟩
/-- The part of the mode that says nothing of the vote and the freeze. -/
theorem modMode {m : ModeState} (hv : m.voted = t.mode.voted) (hf : m.frozen = t.mode.frozen) : OutputsKept s { t with mode := m } :=
  h.trans ⟨rfl, rfl, hv, hf, rfl, fun _ => rfl⟩

/-! ## Reports -/

theorem noteChan (l : LaneId) (c : Chan) : OutputsKept s (t.noteChan l c) := by
  unfold State.noteChan
  extract_lets k act s0 s1
  have traced : OutputsKept s s0 := h.rest rfl
  have coded : OutputsKept s s1 := traced.modLane l fun _ => rfl
  exact h.ite ((coded.event ..).ite coded)
theorem notePoint (l : LaneId) (p : Point) : OutputsKept s (t.notePoint l p) := by
  unfold State.notePoint
  extract_lets k s1
  have coded : OutputsKept s s1 := h.modLane l fun _ => rfl
  exact h.ite ((coded.event ..).ite coded)
theorem noteAll : OutputsKept s t.noteAll :=
  h.each _ fun u l => ((refl u).each _ fun v c => (refl v).noteChan l c).each _ fun v i => (refl v).notePoint l i

/-! ## Faults and their reactions -/

theorem trigger (m : LaneMask) (g : GroupId) (k : Bool) : OutputsKept s (t.trigger m g k) :=
  h.modLanes fun _ _ => by split <;> rfl
theorem triggerAt (m : LaneMask) (g : Option GroupId) (k : Bool) : OutputsKept s (t.triggerAt m g k) := by
  cases g with
  | none => exact h
  | some g => exact h.trigger m g k
theorem faultHub (x : HubId) : OutputsKept s (t.faultHub x) := by
  unfold State.faultHub
  extract_lets s1
  have idle : OutputsKept s s1 := h.modHub ..
  split
  · exact idle.rest rfl
  · exact idle
theorem abortWindow : OutputsKept s t.abortWindow := by
  unfold State.abortWindow
  split
  · exact h
  · extract_lets c step s1
    have aborted : OutputsKept s s1 := h.rest rfl
    refine h.ite (note ?_ ..)
    exact aborted.modLane _ fun _ => rfl
/-- The reactions of the fault table (R420) but the loss of a lane. -/
theorem reaction {code : Nat} (hc : ¬(code = FaultCode.cvuSelftest ∨ code = FaultCode.lbistFail ∨ code = FaultCode.watchdog))
    (items : List Nat) (m : LaneMask) : OutputsKept s (t.reaction code items m) := by
  unfold State.reaction
  extract_lets lane pt fed
  rw [if_neg hc]
  refine ite (h.ite h.abortWindow) (ite (h.triggerAt ..) (ite (h.ite (h.triggerAt ..)) (ite h.setSafe ?_)))
  refine ite ((h.faultHub 0).ite ((h.faultHub 1).ite h)) (ite (h.triggerAt ..) (ite ((h.triggerAt ..).triggerAt ..) (ite ?_ h)))
  cases pt with
  | none => exact h
  | some p => exact h.triggerAt ..
theorem fault {code : Nat} (hc : ¬(code = FaultCode.cvuSelftest ∨ code = FaultCode.lbistFail ∨ code = FaultCode.watchdog))
    (items : List Nat) (m : LaneMask) (k : Nat) : OutputsKept s (t.fault code items m k) := by
  unfold State.fault
  extract_lets known
  exact h.ite ((h.raiseFault ..).reaction hc ..)
theorem outputFault (m : LaneMask) (p : Point) (c : OutCause) : OutputsKept s (t.outputFault m p c) := by
  unfold State.outputFault
  refine each (fault (h.modLanes fun _ _ => ?_) (by decide) _ _ _) _ fun u l => (refl u).notePoint l p
  split <;> rfl
theorem failDark (l : LaneId) (c : Chan) (k : Cause) : OutputsKept s (t.failDark l c k) := by
  unfold State.failDark
  exact (h.modProv ..).noteChan l c

/-! ## The hubs (R228, R252, R262) -/

theorem hubTime (x : HubId) : OutputsKept s (t.hubTime x) := by
  unfold State.hubTime
  exact h.fault (by decide) ..
theorem hubVerdict : OutputsKept s t.hubVerdict := by
  unfold State.hubVerdict
  extract_lets X Y a
  refine ite (h.hubTime 0) (ite (h.hubTime 1) (ite (h.hubTime 0) (ite (h.hubTime 1) (fault ?_ (by decide) ..))))
  exact h.modBus rfl
theorem hubWithin (x : HubId) (ok : Bool) : OutputsKept s (t.hubWithin x ok) := by
  unfold State.hubWithin
  extract_lets n s1
  have counted : OutputsKept s s1 := h.modHub ..
  exact ((counted.modHub ..).withdrawFault ..).ite counted
theorem compareHubs : OutputsKept s t.compareHubs := by
  unfold State.compareHubs
  extract_lets X Y sends s1 b1 m b2 run s2
  have apart : OutputsKept s s1 := h.modHubs _
  have compared : OutputsKept s s2 := h.modBus rfl
  have alone : OutputsKept s { s1 with bus := { s1.bus with diff := 0, diffRun := 0 } } := apart.modBus rfl
  have faulted : OutputsKept s { t with bus := { t.bus with diff := 0, diffRun := 0 } } := h.modBus rfl
  exact alone.ite ((faulted.each _ fun u x => ((refl u).hubWithin ..).ite (refl u)).ite (compared.hubVerdict.ite compared))
theorem limitsAtAction (n : Nat) : OutputsKept s (t.limitsAtAction n) := h.modMode rfl rfl
theorem countCycle (x : HubId) : OutputsKept s (t.countCycle x) := by
  unfold State.countCycle
  extract_lets b run s1
  have counted : OutputsKept s s1 := h.modHub ..
  exact (counted.withdrawFault ..).ite counted
theorem hubNewCycle (x : HubId) : OutputsKept s (t.hubNewCycle x) := by
  unfold State.hubNewCycle
  extract_lets t1 ng s1
  have begun : OutputsKept s s1 := h.modHub ..
  exact (begun.note ..).ite begun
theorem hubStart (x : HubId) : OutputsKept s (t.hubStart x) := by
  unfold State.hubStart
  extract_lets s1
  have counted : OutputsKept s s1 := (h.countCycle x).ite h
  exact (counted.hubNewCycle x).modHub ..
theorem hubAtAction (x : HubId) : OutputsKept s (t.hubAtAction x) := by
  unfold State.hubAtAction
  exact ite ((h.hubStart x).ite (h.modHub ..)) (h.ite (((h.countCycle x).ite h).hubNewCycle x))
theorem observeSpares : OutputsKept s t.observeSpares := by
  unfold State.observeSpares
  split
  · exact h.modBus rfl
  · exact h.modBus rfl
theorem turnBus : OutputsKept s t.turnBus := h.modBus rfl

/-! ## Modes and activities (R359, R372, R373, R376) -/

theorem haltEntry (k : Nat) : OutputsKept s (t.haltEntry k) := by
  unfold State.haltEntry
  extract_lets s0 s1 s2 s3
  have idle : OutputsKept s s1 := modLanes (t := s0) (h.rest rfl) fun _ _ => rfl
  have off : OutputsKept s s2 := idle.rest rfl
  have held : OutputsKept s s3 := off.modHubs _
  exact held.logRec _
theorem stopTeach : OutputsKept s t.stopTeach := by
  unfold State.stopTeach
  split
  · exact h
  · exact (h.modAct _).answer ..
theorem enterMode (m : Mode) (k : Nat) : OutputsKept s (t.enterMode m k) := by
  unfold State.enterMode
  extract_lets old ms s0 cop s1 d s2 s3 act s4
  obtain ⟨voted, frozen⟩ := t.mode.superseded_toCome m
  have entered : OutputsKept s s0 := h.modMode voted frozen
  have rotates : OutputsKept s s1 := entered.ite (entered.rest rfl)
  have said : OutputsKept s s2 := (rotates.logRec _).ite (rotates.note ..)
  have k3 : OutputsKept s s3 := (said.haltEntry k).ite ((said.each _ fun u g => (refl u).trigger ..).ite said)
  have k4 : OutputsKept s s4 := k3.rest rfl
  exact ite (k4.stopTeach.ite k4) k3
theorem modeAtAction : OutputsKept s t.modeAtAction := by
  unfold State.modeAtAction
  split
  · exact h
  · extract_lets m0 s0 s1
    have taken : OutputsKept s s0 := h.modMode rfl rfl
    have entered : OutputsKept s s1 := taken.enterMode ..
    split
    · exact entered.answer ..
    · exact entered
theorem degrade : OutputsKept s t.degrade := by
  unfold State.degrade
  exact (h.enterMode ..).ite h

end
end OutputsKept

namespace OutputsKept

section
variable {s t : State} (h : OutputsKept s t)
include h

/-! ## Levels (R134, R478, R484) -/

theorem stopRuns (g : GroupId) : OutputsKept s (t.stopRuns g) := by
  unfold State.stopRuns
  extract_lets out
  exact (h.each _ fun u m => (refl u).connect ..).modUnder ..
theorem resumeSpare (g : GroupId) (sp : Spare) : OutputsKept s (t.resumeSpare g sp) := by
  unfold State.resumeSpare
  extract_lets ms from_ s1
  have queued : OutputsKept s s1 := h.modLoan ..
  have zeroed : OutputsKept s (s1.spareZero g sp .selfCal) := by
    unfold State.spareZero State.enterStep
    exact ((queued.connect ..).modLoan ..).modLoan ..
  exact queued.ite zeroed
theorem resumeLoans (g : GroupId) : OutputsKept s (t.resumeLoans g) := by
  unfold State.resumeLoans
  exact ((h.resumeSpare g .volt).resumeSpare g .curr).modUnder ..
theorem enterLevel (g : GroupId) (k : Fin 4) : OutputsKept s (t.enterLevel g k) := by
  unfold State.enterLevel
  extract_lets s1 s2 s3
  have counted : OutputsKept s s1 := by
    refine modLanes (h.modGroup g _) fun _ L => ?_
    split <;> dsimp only [LaneState.outputs]
  have stopped : OutputsKept s s2 := (counted.stopRuns g).each _ fun u i => (refl u).feWrite ..
  have watched : OutputsKept s s3 := (stopped.feWrite ..).feWrite ..
  exact ite (((counted.feWrite ..).feWrite ..).resumeLoans g)
    (ite (watched.ite (watched.feWrite ..)) (((stopped.feWrite ..).feWrite ..).feWrite ..))
theorem levelAtAction (g : GroupId) : OutputsKept s (t.levelAtAction g) := by
  unfold State.levelAtAction
  refine ite (ite (h.modGroup ..) (h.enterLevel g 0)) ?_
  split
  · exact h
  · exact ite (h.modGroup ..) (h.ite (h.enterLevel ..))

/-! ## Tests of a channel (R63, R64) -/

theorem chanProved (c : Chan) : OutputsKept s (t.chanProved c) := by
  unfold State.chanProved
  exact (h.modSched ..).withdrawFault ..
theorem testResult (c : Chan) (k : Nat) : OutputsKept s (t.testResult c k) := by
  unfold State.testResult
  split
  · exact h
  · extract_lets res
    refine h.ite ?_
    split
    · exact (h.modAct _).answer ..
    · exact h.rest rfl
theorem testEnds (c : Chan) (k : Nat) : OutputsKept s (t.testEnds c k) := by
  unfold State.testEnds
  extract_lets s1
  have ended : OutputsKept s s1 := h.modGroup ..
  exact (ended.ite (ended.chanProved c)).testResult ..
theorem endOffNow (c : Chan) : OutputsKept s (t.endOffNow c) := by
  unfold State.endOffNow
  extract_lets off
  exact h.modLanes fun _ _ => rfl
theorem endMajority (r : RunningTest) : OutputsKept s (t.endMajority r) := by
  unfold State.endMajority
  exact h.modLane _ fun _ => rfl
theorem testAtAction (c : Chan) (x : Turn) : OutputsKept s (t.testAtAction c x) := by
  unfold State.testAtAction
  split
  · exact h
  · exact h.ite (ite (((h.endMajority _).testEnds ..).ite h) (ite ((((h.endOffNow c).testEnds ..).modSched ..).ite h) ((h.endOffNow c).testEnds ..)))
theorem transAtAction (c : Chan) (x : Turn) : OutputsKept s (t.transAtAction c x) := by
  unfold State.transAtAction
  extract_lets s1
  have judged : OutputsKept s s1 := by
    unfold s1
    split
    · refine ite (ite ?_ (h.modSched ..)) h
      exact (h.modSched ..).chanProved c
    · exact h
  exact (judged.modSched ..).ite judged
theorem wearAtAction (c : Chan) (x : Turn) : OutputsKept s (t.wearAtAction c x) := by
  unfold State.wearAtAction
  exact h.each _ fun u l => (refl u).modRun ..
theorem chanAtAction (c : Chan) (x : Turn) : OutputsKept s (t.chanAtAction c x) := by
  unfold State.chanAtAction
  extract_lets p s1 s2 s3
  have scheduled : OutputsKept s s1 := ((h.testAtAction c x).transAtAction c x).modSched ..
  have said : OutputsKept s s2 := ((scheduled.modSched ..).note ..).ite scheduled
  have worn : OutputsKept s s3 := said.ite (said.wearAtAction c x)
  exact (worn.feWrite ..).ite worn
theorem flashNotProven (l : LaneId) : OutputsKept s (t.flashNotProven l) := by
  unfold State.flashNotProven
  exact h.each _ fun u c => ((refl u).modProv ..).failDark ..

/-! ## Points and contactors (R413, R455, R459 to R461) -/

theorem ptOverlay (ps : List Point) (off : Bool) : OutputsKept s (t.ptOverlay ps off) := by
  unfold State.ptOverlay
  extract_lets m
  exact h.modLanes fun _ _ => by split <;> rfl
theorem feedFound (p : Point) : OutputsKept s (t.feedFound p) := by
  unfold State.feedFound
  refine fault (h.modLanes fun _ _ => ?_) (by decide) ..
  split <;> rfl
theorem nextPair (p : Point) (qs : List Point) : OutputsKept s (t.nextPair p qs) := by
  cases qs with
  | nil => exact h.feedFound p
  | cons q rest => exact h.modTests _
theorem pairsApart (p : Point) : OutputsKept s (t.pairsApart p) := by
  unfold State.pairsApart
  extract_lets names s1
  have withdrawn : OutputsKept s s1 := h.each _ fun u f => (refl u).withdrawFault ..
  exact withdrawn.modLanes fun _ _ => by dsimp only [LaneState.outputs]
theorem pointProved (p : Point) : OutputsKept s (t.pointProved p) := by
  unfold State.pointProved
  exact (h.modPtSched ..).withdrawFault ..
theorem fieldJudge (r : FieldTestRun) : OutputsKept s (t.fieldJudge r) := by
  unfold State.fieldJudge
  extract_lets s0 x1 s1 anyRb
  have ended : OutputsKept s s1 := (h.ptOverlay ..).rest rfl
  refine ended.ite (ite ((ended.outputFault ..).pointProved _) ?_)
  split
  · exact ite ((ended.pointProved _).nextPair ..) ((ended.pointProved _).pairsApart _)
  · refine ite (fault (ended.modLanes fun _ _ => ?_) (by decide) ..) (ended.nextPair ..)
    split <;> rfl
theorem pulsePair (r : FieldTestRun) (on : PointMask) : OutputsKept s (t.pulsePair r on) := by
  unfold State.pulsePair
  split
  · exact (h.modTests _).ptOverlay ..
  · exact (h.modTests _).feedFound _
theorem fieldMajStop (r : FieldMajRun) : OutputsKept s (t.fieldMajStop r) := by
  unfold State.fieldMajStop
  extract_lets x1 s1
  have stopped : OutputsKept s s1 := h.rest rfl
  exact stopped.modLane _ fun _ => rfl
theorem fieldMajAtAction (on : PointMask) : OutputsKept s (t.fieldMajAtAction on) := by
  unfold State.fieldMajAtAction
  split
  · exact (h.fieldMajStop _).ite h
  · exact h
theorem fieldAtAction (on : PointMask) : OutputsKept s (t.fieldAtAction on) := by
  unfold State.fieldAtAction
  extract_lets u
  have stopped : OutputsKept s u := h.fieldMajAtAction on
  split
  · exact stopped
  · refine ite (stopped.pulsePair ..) (stopped.ite (ite (stopped.fieldJudge _) ?_))
    exact (stopped.ptOverlay ..).rest rfl
theorem pointAtAction (p : Point) (was on voted cleared : Bool) : OutputsKept s (t.pointAtAction p was on voted cleared) := by
  unfold State.pointAtAction
  extract_lets s1
  have withdrawn : OutputsKept s s1 := (h.withdrawFault ..).ite h
  exact withdrawn.ite (withdrawn.modPtSched ..)
theorem contactorEdge (g : GroupId) (a was on : Bool) : OutputsKept s (t.contactorEdge g a was on) := by
  unfold State.contactorEdge
  extract_lets s1
  have released : OutputsKept s s1 := h.each _ fun u l => (refl u).modRun ..
  exact h.ite ((released.modGroup ..).modFe ..)
theorem contactorEdges (g : GroupId) (was on : PointMask) : OutputsKept s (t.contactorEdges g was on) := by
  unfold State.contactorEdges
  extract_lets at_
  exact h.ite ((h.contactorEdge ..).contactorEdge ..)
theorem revertAux (g : GroupId) (was now : Revert) : OutputsKept s (t.revertAux g was now) := by
  unfold State.revertAux
  extract_lets edge
  exact (h.modFe ..).ite h
theorem teachAtAction (on was : ChanMask) : OutputsKept s (t.teachAtAction on was) := by
  unfold State.teachAtAction
  split
  · exact h
  · extract_lets closes opens u
    have opened : OutputsKept s u := h.modLanes fun _ _ => by dsimp only [LaneState.outputs]
    unfold State.teachEnds
    exact ite (opened.modAct _).stopTeach (opened.modAct _)
/-- What follows from the images in force (R63, R64, R143, R413, R455). -/
theorem afterImages (old : LaneState) (l : LaneId) (cmds : Vector (BitVec 4) 96) : OutputsKept s (t.afterImages old l cmds) := by
  unfold State.afterImages
  extract_lets L ptsOff s1 s2 s3 s4
  have chans : OutputsKept s s1 := h.each _ fun u c => (refl u).chanAtAction ..
  have field : OutputsKept s s2 := chans.fieldAtAction _
  have points : OutputsKept s s3 := field.each _ fun u p => (refl u).pointAtAction ..
  have groups : OutputsKept s s4 := points.each _ fun u g => ((refl u).contactorEdges ..).revertAux ..
  exact groups.teachAtAction ..

/-! ## What the lanes count and decide -/

theorem captureAtAction : OutputsKept s t.captureAtAction := h.rest rfl
theorem wordsAtAction (n : Nat) : OutputsKept s (t.wordsAtAction n) := h.modLanes fun _ _ => by split <;> rfl
theorem auxAtAction (was : Mode) : OutputsKept s (t.auxAtAction was) := by
  unfold State.auxAtAction
  exact (h.each _ fun u g => (refl u).modFe ..).ite h
theorem testsAtAction (before : Bytes) : OutputsKept s (t.testsAtAction before) := by
  unfold State.testsAtAction
  exact h.ite (h.rest rfl)
theorem decideGroups : OutputsKept s t.decideGroups := h.modLanes fun _ _ => by split <;> rfl

end
end OutputsKept

/-! ## The cycle that starts (R16, R252) -/

/-- Global time and count at the start of the next cycle: those of the hub the lanes follow, or their own, one cycle on. -/
def State.nextStart (s : State) : BitVec 64 × Word :=
  match s.leader with
  | some h => (s.hubs[h].time.apGt + BitVec.ofNat 64 (s.hubCyc h), s.hubs[h].bus.cycle + 1)
  | none => (s.bus.apGt + BitVec.ofNat 64 s.tCyc, s.bus.apCycle + 1)
/-- Outside cold start the cycle that starts does so now. -/
theorem State.startCycle_starts (s : State) (warm : s.bus.coldStart = false) : ∃ u starts, OutputsKept s u ∧
    s.startCycle = { u with bus := { u.bus with apAt := s.now, apGt := s.nextStart.1, apCycle := s.nextStart.2, starts := starts } } := by
  unfold State.startCycle
  extract_lets x s1 s2 b s3
  have begun : OutputsKept s s1 := (((OutputsKept.refl s).observeSpares).turnBus).each _ fun u h => (OutputsKept.refl u).hubAtAction h
  have cleared : OutputsKept s s2 := begun.ite (begun.modHubs _)
  have stillWarm : s3.bus.coldStart = false := (congrArg (·.2.2.2.2) cleared.cycle).trans warm
  have started : x = s.nextStart := rfl
  refine ⟨s2, ({ cycle := x.2, gt := x.1, struck := s2.now } :: s2.bus.starts).take 17, cleared, ?_⟩
  rw [stillWarm, Bool.false_and, if_neg Bool.false_ne_true, ← started, ← cleared.now]

/-! ## The images in force (R25, R44) -/

/-- Two states agree in the cycle that runs, in what is still to come in it, and in the images that every lane has in force. -/
structure ImagesKept (s t : State) : Prop where
  cycle : t.bus.cycle = s.bus.cycle
  voted : t.mode.voted = s.mode.voted
  frozen : t.mode.frozen = s.mode.frozen
  img : ∀ l : LaneId, t.lanes[l].drive.img = s.lanes[l].drive.img
  inForce : ∀ l : LaneId, t.lanes[l].inForce = s.lanes[l].inForce
theorem OutputsKept.images {s t : State} (h : OutputsKept s t) : ImagesKept s t :=
  ⟨h.cycle, h.voted, h.frozen, fun l => congrArg (·.2.2.2.2.1) (h.lane l), fun l => congrArg (·.2.2.2.2.2) (h.lane l)⟩
theorem ImagesKept.trans {s t u : State} (h : ImagesKept s t) (k : ImagesKept t u) : ImagesKept s u :=
  ⟨k.cycle.trans h.cycle, k.voted.trans h.voted, k.frozen.trans h.frozen, fun l => (k.img l).trans (h.img l), fun l => (k.inForce l).trans (h.inForce l)⟩
/-- A wipe of station data touches neither lanes nor the cycle. -/
theorem State.wipeAtAction_images (s : State) : ImagesKept s s.wipeAtAction := by
  unfold State.wipeAtAction
  split <;> exact ⟨rfl, rfl, rfl, fun _ => rfl, fun _ => rfl⟩
theorem ImagesKept.modLane (s : State) (l : LaneId) {f : LaneState → LaneState}
    (hf : ∀ L, (f L).drive.img = L.drive.img ∧ (f L).inForce = L.inForce) : ImagesKept s (s.modLane l f) := by
  have lane (k : LaneId) : (s.modLane l f).lanes[k].drive.img = s.lanes[k].drive.img ∧ (s.modLane l f).lanes[k].inForce = s.lanes[k].inForce := by
    by_cases e : k = l
    · subst e
      rw [State.modLane_same]
      exact hf _
    · rw [State.modLane_other _ _ _ _ e]
      exact ⟨rfl, rfl⟩
  exact ⟨rfl, rfl, rfl, fun k => (lane k).1, fun k => (lane k).2⟩
theorem ImagesKept.modCoppice (s : State) (x : Coppice) : ImagesKept s { s with coppice := x } := ⟨rfl, rfl, rfl, fun _ => rfl, fun _ => rfl⟩
/-- A lane that leaves the vote for a Coppice window keeps its images. -/
theorem State.openWindow_images (s : State) : ImagesKept s s.openWindow := by
  unfold State.openWindow
  extract_lets c l s1
  have rests : ImagesKept s1 (s1.modLane l fun L => { L with
      st := .resting, drive := { L.drive with held := true }, cmpSeen := [], wdService := s.now, wdLimit := 700 * Config.ms }) :=
    ImagesKept.modLane s1 l fun _ => ⟨rfl, rfl⟩
  exact ((ImagesKept.modCoppice s s1.coppice).trans rests).trans ((OutputsKept.refl _).modAct _).images
theorem State.copActionPoint_images (s : State) : ImagesKept s s.copActionPoint := by
  unfold State.copActionPoint
  split
  · exact (ImagesKept.modCoppice s _).trans (OutputsKept.refl _).degrade.images
  · split
    · split
      · exact s.openWindow_images
      · exact ImagesKept.modCoppice s _
    · exact (OutputsKept.refl s).images
theorem LaneState.apply_images (L : LaneState) (p lp : ParamImage) (cmds : Vector (BitVec 4) 96) (clr : BitVec 4) (ap : Nat) (off : ChanMask) :
    (L.apply p lp cmds clr ap off).drive.img = L.drive.next ∧ (L.apply p lp cmds clr ap off).inForce.pts = L.voted.pts := by
  unfold LaneState.apply
  exact ⟨rfl, rfl⟩
theorem LaneState.stages_images (L : LaneState) (p : ParamImage) (was : ChanMask) (absent : GroupMask) (ap : Nat) :
    (L.stages p was absent ap).drive = L.drive ∧ (L.stages p was absent ap).inForce = L.inForce := by
  unfold LaneState.stages
  exact ⟨rfl, rfl⟩
/-- At the action point a lane in the vote that has its images takes them into force. -/
theorem State.applyImages_lane (s : State) (cmds : Vector (Vector (BitVec 4) 96) 3) {l : LaneId} (active : s.active l = true)
    (has_ : s.lanes[l].noImage = false) : (s.applyImages cmds).lanes[l].drive.img = s.lanes[l].drive.next ∧
      (s.applyImages cmds).lanes[l].inForce.pts = s.lanes[l].voted.pts := by
  unfold State.applyImages
  extract_lets clr off absent s1
  have lane : s1.lanes[l] = (s.lanes[l].apply s.params s.lampParams cmds[l] clr s.now (off l)).stages s.params s.lanes[l].drive.img.on absent s.now := by
    unfold s1
    rw [State.modLanes_at, if_pos]
    rw [has_, show (s.lanes[l].st == .active) = true from active]
    rfl
  change s1.lanes[l].drive.img = _ ∧ s1.lanes[l].inForce.pts = _
  obtain ⟨drive, inForce⟩ := (s.lanes[l].apply s.params s.lampParams cmds[l] clr s.now (off l)).stages_images s.params s.lanes[l].drive.img.on absent s.now
  rw [lane, drive, inForce]
  exact LaneState.apply_images ..
theorem State.applyImages_cycle (s : State) (cmds : Vector (Vector (BitVec 4) 96) 3) :
    (s.applyImages cmds).bus = s.bus ∧ (s.applyImages cmds).mode = s.mode := ⟨rfl, rfl⟩

/-! ## The action point -/

/-- A vote and a freeze are to come. -/
def State.toCome (s : State) : State := { s with mode := { s.mode with voted := false, frozen := false } }
/-- The lanes enter the next cycle: the levels and the mode agreed at the vote take effect, and a vote and a freeze are to come. -/
def State.enterCycle (s : State) (was : Nat) : State :=
  ((s.startCycle).wordsAtAction was).captureAtAction.modeAtAction.toCome.each allGroups fun s g => s.levelAtAction g
theorem State.enterCycle_enters (s : State) (was : Nat) (warm : s.bus.coldStart = false) :
    (s.enterCycle was).bus.cycle = (s.now, s.nextStart.1, s.nextStart.2, s.bus.sset, false) ∧ (s.enterCycle was).mode.voted = false ∧
      (s.enterCycle was).mode.frozen = false ∧ ∀ l : LaneId, (s.enterCycle was).lanes[l].outputs = s.lanes[l].outputs := by
  obtain ⟨u, starts, begun, e⟩ := s.startCycle_starts warm
  have moded : OutputsKept s.startCycle ((s.startCycle).wordsAtAction was).captureAtAction.modeAtAction :=
    (((OutputsKept.refl _).wordsAtAction was).captureAtAction).modeAtAction
  unfold State.enterCycle
  generalize ((s.startCycle).wordsAtAction was).captureAtAction.modeAtAction = s2 at moded
  have levelled : OutputsKept s2.toCome (s2.toCome.each allGroups fun s g => s.levelAtAction g) :=
    (OutputsKept.refl _).each _ fun u g => (OutputsKept.refl u).levelAtAction g
  refine ⟨?_, levelled.voted, levelled.frozen, fun l => ?_⟩
  · have sset : u.bus.sset = s.bus.sset := congrArg (·.2.2.2.1) begun.cycle
    have cold : u.bus.coldStart = false := (congrArg (·.2.2.2.2) begun.cycle).trans warm
    rw [levelled.cycle, show s2.toCome.bus = s2.bus from rfl, moded.cycle, e, ← sset, ← cold]
    rfl
  · rw [levelled.lane, show s2.toCome.lanes = s2.lanes from rfl, moded.lane, e]
    exact begun.lane l
/-- What follows from the images that have come into force. -/
theorem State.actionPoint_parts (s : State) : ∃ cmds, ImagesKept
    (((((s.limitsAtAction (s.now - s.bus.apAt)).compareHubs).enterCycle s.bus.apAt).applyImages cmds)) s.actionPoint := by
  unfold State.actionPoint
  extract_lets cmds before was s1 s2 m3 s3 s4 s5 s6
  have came : s3 = s2.toCome := rfl
  have entered : s4 = (s1.enterCycle s.bus.apAt).applyImages cmds := by
    change (s3.each allGroups fun s g => s.levelAtAction g).applyImages cmds = _
    rw [came]
    rfl
  refine ⟨cmds, ?_⟩
  rw [← entered]
  have follows : OutputsKept s4 s5 := by
    unfold s5
    split
    · exact (OutputsKept.refl s4).afterImages ..
    · exact OutputsKept.refl s4
  have proven : OutputsKept s4 s6 := follows.each _ fun u l => (OutputsKept.refl u).flashNotProven l
  have tested : OutputsKept s4 ((s6.auxAtAction was).testsAtAction before) := (proven.auxAtAction was).testsAtAction before
  have reported : OutputsKept _ ((((s6.auxAtAction was).testsAtAction before).wipeAtAction.copActionPoint).decideGroups.noteAll) :=
    ((OutputsKept.refl _).decideGroups).noteAll
  exact ((tested.images.trans (State.wipeAtAction_images _)).trans (State.copActionPoint_images _)).trans reported.images
/-- Outside cold start an action point enters the next cycle, and takes the images into force. -/
theorem State.actionPoint_enters (s : State) (warm : s.bus.coldStart = false) :
    let u := (s.limitsAtAction (s.now - s.bus.apAt)).compareHubs
    s.actionPoint.bus.cycle = (s.now, u.nextStart.1, u.nextStart.2, s.bus.sset, false) ∧ s.actionPoint.mode.voted = false ∧ s.actionPoint.mode.frozen = false ∧
      ∀ l : LaneId, s.active l = true → s.lanes[l].noImage = false →
        s.actionPoint.lanes[l].drive.img = s.lanes[l].drive.next ∧ s.actionPoint.lanes[l].inForce.pts = s.lanes[l].voted.pts := by
  intro u
  have compared : OutputsKept s u := ((OutputsKept.refl s).limitsAtAction _).compareHubs
  obtain ⟨cmds, follows⟩ := s.actionPoint_parts
  obtain ⟨cycle, voted, frozen, lane⟩ := u.enterCycle_enters s.bus.apAt ((congrArg (·.2.2.2.2) compared.cycle).trans warm)
  have sset : u.bus.sset = s.bus.sset := congrArg (·.2.2.2.1) compared.cycle
  change ImagesKept ((u.enterCycle s.bus.apAt).applyImages cmds) _ at follows
  obtain ⟨bus, mode⟩ := (u.enterCycle s.bus.apAt).applyImages_cycle cmds
  generalize u.enterCycle s.bus.apAt = v at *
  refine ⟨?_, ?_, ?_, fun l hl image => ?_⟩
  · rw [follows.cycle, bus, cycle, sset, compared.now]
  · rw [follows.voted, mode, voted]
  · rw [follows.frozen, mode, frozen]
  · have same : v.lanes[l].outputs = s.lanes[l].outputs := (lane l).trans (compared.lane l)
    have active : v.active l = true := (congrArg (fun x => x.1 == LaneStatus.active) same).trans hl
    have has_ : v.lanes[l].noImage = false := (congrArg (·.2.2.1) same).trans image
    obtain ⟨img, pts⟩ := v.applyImages_lane cmds active has_
    refine ⟨?_, ?_⟩
    · rw [follows.img, img]
      exact congrArg (·.2.2.2.1) same
    · rw [follows.inForce, pts]
      exact congrArg (·.2.1.pts) same

/-! ## Reports of a status (R169, R473) -/

/-- Two states agree but in the status codes of the lanes, the events of their changes, and the trigger of a capture. -/
structure Reported (s t : State) : Prop where
  rest : t = { s with lanes := t.lanes, act := t.act, mail := t.mail, hubs := t.hubs, flash := t.flash }
  log : t.flash = { s.flash with log := t.flash.log }
  hub : HubsButQmem s t
  act : t.act = { s.act with capture := s.act.capture.map fun r => { r with trigAt := t.act.capture.bind (·.trigAt) } }
  lane : ∀ l : LaneId, t.lanes[l] = { s.lanes[l] with codes := t.lanes[l].codes, ptCodes := t.lanes[l].ptCodes }

theorem Activities.capture_self (a : Activities) : a = { a with capture := a.capture.map fun r => { r with trigAt := a.capture.bind (·.trigAt) } } := by
  have same : (a.capture.map fun r => { r with trigAt := a.capture.bind (·.trigAt) }) = a.capture := by
    cases a.capture <;> rfl
  rw [same]

namespace Reported

theorem refl (s : State) : Reported s s := ⟨rfl, rfl, HubsButQmem.refl s, Activities.capture_self _, fun _ => rfl⟩
theorem trans {s t u : State} (h : Reported s t) (k : Reported t u) : Reported s u := by
  refine ⟨?_, ?_, h.hub.trans k.hub, ?_, fun l => ?_⟩
  · have e := k.rest; rw [h.rest] at e; exact e
  · have e := k.log; rw [h.log] at e; exact e
  · have e := k.act
    rw [h.act] at e
    simpa only [Option.map_map, Function.comp_def] using e
  · have e := k.lane l; rw [h.lane l] at e; exact e
theorem each {α : Type} {f : State → α → State} (xs : List α) (hf : ∀ u x, Reported u (f u x)) (s : State) : Reported s (s.each xs f) := by
  unfold State.each
  induction xs generalizing s with
  | nil => exact refl s
  | cons x xs ih => exact (hf s x).trans (ih (f s x))
theorem event (s : State) (code kind lane : Nat) (sc d : Bytes) : Reported s (s.event code kind lane sc d) := by
  refine ⟨?_, ?_, s.event_hubs code kind lane sc d, ?_, fun l => ?_⟩
  · have e := (MailOnly.event s code kind lane sc d).rest
    rw [e]
    rfl
  · rw [State.event_flash]
  · rw [State.event_act]
    exact Activities.capture_self _
  · rw [State.event_lanes]
theorem modLane (s : State) (l : LaneId) {f : LaneState → LaneState} (hf : ∀ L, f L = { L with codes := (f L).codes, ptCodes := (f L).ptCodes }) :
    Reported s (s.modLane l f) := by
  refine ⟨rfl, rfl, HubsButQmem.refl _, Activities.capture_self _, fun k => ?_⟩
  by_cases e : k = l
  · subst e
    rw [State.modLane_same]
    exact hf _
  · rw [State.modLane_other _ _ _ _ e]
theorem noteChan (s : State) (l : LaneId) (c : Chan) : Reported s (s.noteChan l c) := by
  unfold State.noteChan
  extract_lets k a s0 s1
  have trig (r : CaptureRun) : r.statusChange l c s.now = { r with trigAt := (r.statusChange l c s.now).trigAt } := by
    unfold CaptureRun.statusChange
    split <;> rfl
  have traced : Reported s s0 := by
    refine ⟨rfl, rfl, HubsButQmem.refl _, ?_, fun _ => rfl⟩
    show ({ s.act with capture := s.act.capture.map fun r => r.statusChange l c s.now } : Activities) =
      { s.act with capture := s.act.capture.map fun r => { r with trigAt := (s.act.capture.map fun r => r.statusChange l c s.now).bind (·.trigAt) } }
    cases s.act.capture with
    | none => rfl
    | some r => exact congrArg (fun x => ({ s.act with capture := some x } : Activities)) (trig r)
  have coded : Reported s s1 := traced.trans (modLane s0 l fun _ => rfl)
  split
  · exact refl s
  · split
    · exact coded.trans (event ..)
    · exact coded
theorem notePoint (s : State) (l : LaneId) (p : Point) : Reported s (s.notePoint l p) := by
  unfold State.notePoint
  extract_lets k s1
  have coded : Reported s s1 := modLane s l fun _ => rfl
  split
  · exact refl s
  · split
    · exact coded.trans (event ..)
    · exact coded
theorem noteAll (s : State) : Reported s s.noteAll :=
  each _ (fun u l => (each _ (fun v c => noteChan v l c) u).trans (each _ (fun v p => notePoint v l p) _)) s
theorem agrees {s t : State} (h : Reported s t) : agreeButReports { s with lanes := t.lanes, act := t.act } t := ⟨h.rest, h.log, h.hub⟩

end Reported

/-- A lane reports its own codes. -/
theorem State.noteChan_otherLane (s : State) {l k : LaneId} (c : Chan) (h : k ≠ l) : (s.noteChan l c).lanes[k] = s.lanes[k] := by
  unfold State.noteChan
  extract_lets q a s0 s1
  have coded : s1.lanes[k] = s.lanes[k] := State.modLane_other s0 l _ k h
  split
  · rfl
  · split
    · simpa only [State.event_lanes] using coded
    · exact coded
theorem State.notePoint_otherLane (s : State) {l k : LaneId} (p : Point) (h : k ≠ l) : (s.notePoint l p).lanes[k] = s.lanes[k] := by
  unfold State.notePoint
  extract_lets q s1
  have coded : s1.lanes[k] = s.lanes[k] := State.modLane_other s l _ k h
  split
  · rfl
  · split
    · simpa only [State.event_lanes] using coded
    · exact coded
/-- A lane outside the vote reports nothing. -/
theorem State.noteAll_otherLane (s : State) {k : LaneId} (h : s.active k = false) : s.noteAll.lanes[k] = s.lanes[k] := by
  refine each_field (·.lanes[k]) _ (fun u l hl => ?_) s
  have other : k ≠ l := by
    rintro rfl
    rw [(List.mem_filter.mp hl).2] at h
    contradiction
  exact (each_field (·.lanes[k]) _ (fun v p _ => v.notePoint_otherLane p other) _).trans
    (each_field (·.lanes[k]) _ (fun v c _ => v.noteChan_otherLane c other) u)

/-! ## The union of the latched fault sets (R22) -/

/-- A latch stands in a union of latched fault sets where it stands in one of them. -/
theorem Latches.foldl_union {α : Type} (π : Latches → Bool) (hu : ∀ a b, π (a.union b) = (π a || π b)) (f : α → Latches) (xs : List α) (a : Latches) :
    π (xs.foldl (fun k x => k.union (f x)) a) = (π a || xs.any fun x => π (f x)) := by
  induction xs generalizing a with
  | nil => rw [List.foldl_nil, List.any_nil, Bool.or_false]
  | cons x xs ih => rw [List.foldl_cons, ih, hu, List.any_cons, Bool.or_assoc]
theorem State.mergedLatches_iff (s : State) (π : Latches → Bool) (h0 : π {} = false) (hu : ∀ a b, π (a.union b) = (π a || π b)) :
    π s.mergedLatches = true ↔ ∃ k : LaneId, s.active k = true ∧ π s.lanes[k].latches = true := by
  rw [State.mergedLatches, Latches.foldl_union π hu, h0, Bool.false_or, List.any_eq_true]
  simp only [State.activeLanes, allLanes, List.mem_filter, List.mem_finRange, true_and]
theorem has_zero {n : Nat} (k : Fin n) : has (0 : BitVec n) k = false := by simp [has]
/-- A set of latches in the union. -/
theorem State.mergedLatches_has (s : State) {n : Nat} (π : Latches → BitVec n) (h0 : π {} = 0) (hu : ∀ a b, π (a.union b) = (π a ||| π b)) (i : Fin n) :
    has (π s.mergedLatches) i = true ↔ ∃ k : LaneId, s.active k = true ∧ has (π s.lanes[k].latches) i = true :=
  s.mergedLatches_iff (fun k => has (π k) i) (by rw [h0, has_zero]) fun a b => by rw [hu, has_or]
/-- The lanes take the union, before they report. -/
def State.merged (s : State) : State :=
  s.modLanes fun _ L => if L.st == .active then
    { L with latches := s.mergedLatches, clr := L.clr.less (s.activeLanes.foldl (fun d l => d.union s.lanes[l].due) {}) } else L
theorem State.merged_lane (s : State) (l : LaneId) : (s.active l = false → s.merged.lanes[l] = s.lanes[l]) ∧
    (s.active l = true → ∃ clr, s.merged.lanes[l] = { s.lanes[l] with latches := s.mergedLatches, clr := clr }) := by
  unfold State.merged
  rw [State.modLanes_at]
  refine ⟨fun h => if_neg ?_, fun h => ⟨_, if_pos h⟩⟩
  rw [show (s.lanes[l].st == .active) = false from h]
  exact Bool.false_ne_true
theorem exec_latchMerge (s : State) : exec .latchMerge s = .next s.merged.noteAll := rfl
theorem State.merged_active (s : State) (l : LaneId) : s.merged.active l = s.active l := by
  unfold State.merged State.active
  rw [State.modLanes_at]
  split <;> rfl

/-! ## The image derived anew (R400) -/

theorem exec_latchDriveRederive (l : LaneId) (s : State) : exec (.latchDriveRederive l) s =
    .next (if s.active l ∧ s.now + 440 ≤ s.nextAp then s.modLane l fun L => { L with drive := { L.drive with next := s.derive l } } else s) := rfl
theorem exec_actionPoint (s : State) : exec .actionPoint s = .next (if s.apDue then s.actionPoint else s) := rfl

end Sys2Proof.Machine

open Sys2Proof Sys2Proof.Machine

/-- Settles O49: an action point enters the next cycle, takes the images into force, and leaves both in all that follows
(`actionPoint_enters`); the union of the latched fault sets is taken latch by latch (`mergedLatches_iff`), and what is reported of it
leaves all else. -/
theorem actionPointsPutImagesInForce : Obligations.ActionPointsPutImagesInForce := by
  unfold Obligations.ActionPointsPutImagesInForce
  refine ⟨fun s => ⟨fun early => ?_, fun due warm => ?_⟩, fun l s active => ⟨fun inTime => ?_, fun late => ?_⟩, fun s => ?_⟩
  · rw [exec_actionPoint, early, if_neg Bool.false_ne_true]
  · obtain ⟨cycle, voted, frozen, images⟩ := s.actionPoint_enters warm
    rw [exec_actionPoint, if_pos due]
    have compared : OutputsKept s ((s.limitsAtAction (s.now - s.bus.apAt)).compareHubs) := ((OutputsKept.refl s).limitsAtAction _).compareHubs
    generalize (s.limitsAtAction (s.now - s.bus.apAt)).compareHubs = u at *
    generalize s.actionPoint = t at *
    have gt : t.bus.apGt = u.nextStart.1 := congrArg (·.2.1) cycle
    have count : t.bus.apCycle = u.nextStart.2 := congrArg (·.2.2.1) cycle
    refine ⟨t, rfl, congrArg (·.1) cycle, voted, frozen, fun alone => ?_, fun h follows => ?_, images⟩
    · have apGt : u.bus.apGt = s.bus.apGt := congrArg (·.2.1) compared.cycle
      have apCycle : u.bus.apCycle = s.bus.apCycle := congrArg (·.2.2.1) compared.cycle
      have sset : u.bus.sset = s.bus.sset := congrArg (·.2.2.2.1) compared.cycle
      have tCyc : u.tCyc = s.tCyc := by rw [State.tCyc, State.tCyc, compared.params, sset]
      rw [gt, count, State.nextStart, alone]
      exact ⟨by rw [apGt, tCyc], by rw [apCycle]⟩
    · rw [gt, count, State.nextStart, follows]
      exact ⟨rfl, rfl⟩
  · rw [exec_latchDriveRederive, if_pos ⟨active, inTime⟩]
    exact ⟨_, rfl, ⟨rfl, fun k hk => State.modLane_other _ _ _ _ hk⟩, State.modLane_same _ _ _⟩
  · rw [exec_latchDriveRederive, if_neg fun h => absurd h.2 (by omega)]
  · have reported := Reported.noteAll s.merged
    have other (l : LaneId) (h : s.active l = false) : s.merged.noteAll.lanes[l] = s.lanes[l] :=
      (s.merged.noteAll_otherLane (by rw [s.merged_active, h])).trans ((s.merged_lane l).1 h)
    rw [exec_latchMerge]
    generalize s.merged.noteAll = t at reported other
    refine ⟨t, rfl, reported.agrees, reported.act, fun l => ⟨other l, fun hl => ?_⟩⟩
    obtain ⟨clr, e⟩ := (s.merged_lane l).2 hl
    have lane := reported.lane l
    rw [e] at lane
    have latches : t.lanes[l].latches = s.mergedLatches := by rw [lane]
    rw [latches]
    refine ⟨by rw [lane], s.mergedLatches_iff (·.safe) rfl fun _ _ => rfl, fun c => ?_, fun g => ?_, s.mergedLatches_has (·.supplyLoss) rfl fun _ _ => rfl, fun i => ?_⟩
    · exact ⟨s.mergedLatches_has (·.short) rfl (fun _ _ => rfl) c, s.mergedLatches_has (·.overtemp) rfl (fun _ _ => rfl) c,
        s.mergedLatches_has (·.switchFault) rfl (fun _ _ => rfl) c, s.mergedLatches_has (·.react) rfl (fun _ _ => rfl) c⟩
    · exact ⟨s.mergedLatches_has (·.revert) rfl (fun _ _ => rfl) g, s.mergedLatches_has (·.energy) rfl (fun _ _ => rfl) g,
        s.mergedLatches_has (·.safeState) rfl (fun _ _ => rfl) g⟩
    · exact ⟨s.mergedLatches_has (·.outFault) rfl (fun _ _ => rfl) i, s.mergedLatches_has (·.restart) rfl (fun _ _ => rfl) i⟩
end

