-- ==== Sys2Proof/Proofs/Overlays.lean ====
section
/-!
PROOFS. The overlays on their way to the DRIVE domain (R20), and the edges of a dimming overlay (R59).
-/

namespace Sys2Proof.Machine

/-- Every lane sends its DRIVE domain its overlay state. -/
def State.wordSent (s : State) : State :=
  s.modLanes fun _ L => { L with drive := { L.drive with sent := L.drive.ov.word L.drive.sent, ov := L.drive.ov.handed } }
theorem exec_overlayWord (s : State) : exec .overlayWord s = .next (if s.reaches 2000 then s.wordSent else s) := rfl

/-- A channel's dimming overlay after an edge: on in the on-phase, withdrawn in the off-phase. -/
def LaneDrive.edge (d : LaneDrive) (c : Chan) (on : Bool) : LaneDrive :=
  { d with ov := { d.ov with dimOff := if on then d.ov.dimOff &&& ~~~(only c) else d.ov.dimOff ||| only c } }
theorem LaneDrive.edge_dimOff (d : LaneDrive) (c : Chan) (on : Bool) : has (d.edge c on).ov.dimOff c = !on := by
  cases on with
  | true =>
    have self : (only c).getLsbD c.val = true := by simpa [has] using has_only c c
    simp [LaneDrive.edge, has, self]
  | false => simp [LaneDrive.edge, has_or, has_only]
/-- A settle interval is no part of what a lane drives. -/
theorem State.settles_lane (s : State) (c : Chan) (a b : Nat) (l : LaneId) :
    (s.settles c a b).lanes[l].drive = s.lanes[l].drive ∧ (s.settles c a b).lanes[l].st = s.lanes[l].st ∧ (s.settles c a b).lanes[l].inForce = s.lanes[l].inForce := by
  unfold State.settles LaneState.modProv
  rw [State.modLanes_at]
  exact ⟨rfl, rfl, rfl⟩
/-- An edge changes what a lane drives where it is due, and there the dimming overlay of its channel. -/
theorem dimmingEdge_drives (c : Chan) (on : Bool) (s : State) : ∃ t, exec (.dimmingEdge c on) s = .next t ∧
    ∀ l : LaneId, t.lanes[l].drive = if s.edgeDue s.lanes[l] c on then s.lanes[l].drive.edge c on else s.lanes[l].drive := by
  refine ⟨_, rfl, fun l => ?_⟩
  generalize (allLanes.any fun l => s.edgeDue s.lanes[l] c on && !has s.lanes[l].drive.ov.dimOff c) = falls
  generalize hu : (if allLanes.any fun l => s.edgeDue s.lanes[l] c on && has s.lanes[l].drive.ov.dimOff c == on then s.settles c s.now (s.now + 6000) else s) = u
  have same : u.lanes[l].drive = s.lanes[l].drive ∧ u.lanes[l].st = s.lanes[l].st ∧ u.lanes[l].inForce = s.lanes[l].inForce := by
    subst hu
    split
    · exact s.settles_lane ..
    · exact ⟨rfl, rfl, rfl⟩
  obtain ⟨drive, st, inForce⟩ := same
  have due : s.edgeDue u.lanes[l] c on = s.edgeDue s.lanes[l] c on := by
    unfold State.edgeDue
    rw [drive, st, inForce]
  have lane : (u.modLanes fun _ L => if s.edgeDue L c on then { L with drive := L.drive.edge c on } else L).lanes[l].drive =
      if s.edgeDue s.lanes[l] c on then s.lanes[l].drive.edge c on else s.lanes[l].drive := by
    rw [State.modLanes_at, due, ← drive]
    split <;> rfl
  split
  · exact lane
  · exact lane

end Sys2Proof.Machine

open Sys2Proof Sys2Proof.Machine

/-- Settles O10: the overlay word is what every lane sends; an edge is due by lane, and changes its channel's dimming overlay alone. -/
theorem overlaysReachTheDriveDomain : Obligations.OverlaysReachTheDriveDomain := by
  unfold Obligations.OverlaysReachTheDriveDomain
  refine ⟨fun s due => ⟨s.wordSent, by rw [exec_overlayWord, if_pos due], fun l => ?_, rfl⟩, fun s early => ?_, fun c on s => ?_⟩
  · rw [State.wordSent, State.modLanes_at]
    exact ⟨rfl, rfl, rfl, rfl, rfl⟩
  · rw [exec_overlayWord, early, if_neg Bool.false_ne_true]
  · obtain ⟨t, e, drives⟩ := dimmingEdge_drives c on s
    refine ⟨t, e, fun l => ⟨?_, fun active dims phase => ?_, fun not => ?_⟩⟩
    · rw [drives l]
      split <;> rfl
    · have due : s.edgeDue s.lanes[l] c on = true := by
        rw [State.edgeDue, show (s.lanes[l].st == .active) = true from active, dims, phase, beq_self_eq_true]
        rfl
      rw [drives l, if_pos due, LaneDrive.edge_dimOff]
    · have notDue : s.edgeDue s.lanes[l] c on = false := by
        unfold State.edgeDue
        rcases not with out | undimmed | phase
        · rw [show (s.lanes[l].st == .active) = false from out, Bool.false_and, Bool.false_and]
        · rw [undimmed, Bool.and_false, Bool.false_and]
        · rw [beq_false_of_ne phase, Bool.and_false]
      rw [drives l, notDue, if_neg Bool.false_ne_true]
end

