-- ==== Sys2Proof/Proofs/WindowReads.lean ====
section
/-!
PROOFS. Reads of the register window (R32 to R34, R327 to R333): what a burst returns of single words and of multi-word values, and
what a refresh makes of the blocks that a lane supplies.
-/

namespace Sys2Proof.Machine

/-! ## Multi-word values (R333) -/

/-- Among some addresses: a value has all its words there, and each of them names the same value. -/
def Values (P : Nat → Prop) (f : Nat → Option (Nat × Nat)) : Prop :=
  ∀ a lo n, P a → f a = some (lo, n) → lo ≤ a ∧ a < lo + n ∧ ∀ b, lo ≤ b → b < lo + n → P b ∧ f b = some (lo, n)
/-- From an address on, and nowhere below it. -/
def ValuesFrom (k : Nat) (f : Nat → Option (Nat × Nat)) : Prop :=
  ∀ a lo n, f a = some (lo, n) → k ≤ lo ∧ lo ≤ a ∧ a < lo + n ∧ ∀ b, lo ≤ b → b < lo + n → f b = some (lo, n)

theorem Values.none (P : Nat → Prop) : Values P fun _ => none := fun _ _ _ _ => nofun
theorem Values.ite {P c : Nat → Prop} [DecidablePred c] {f g : Nat → Option (Nat × Nat)} (hf : Values (fun a => P a ∧ c a) f)
    (hg : Values (fun a => P a ∧ ¬ c a) g) : Values P fun a => if c a then f a else g a := by
  intro a lo n pa e
  dsimp only at e ⊢
  split at e
  · rename_i ca
    obtain ⟨low, high, same⟩ := hf a lo n ⟨pa, ca⟩ e
    refine ⟨low, high, fun b lb hb => ?_⟩
    obtain ⟨⟨pb, cb⟩, eb⟩ := same b lb hb
    exact ⟨pb, by rw [if_pos cb, eb]⟩
  · rename_i ca
    obtain ⟨low, high, same⟩ := hg a lo n ⟨pa, ca⟩ e
    refine ⟨low, high, fun b lb hb => ?_⟩
    obtain ⟨⟨pb, cb⟩, eb⟩ := same b lb hb
    exact ⟨pb, by rw [if_neg cb, eb]⟩
/-- Every address is r words above the start of its value. -/
theorem Values.above {P : Nat → Prop} {n : Nat} {r : Nat → Nat} (below : ∀ a, P a → r a ≤ a ∧ r a < n)
    (same : ∀ a, P a → ∀ b, a - r a ≤ b → b < a - r a + n → P b ∧ b - r b = a - r a) : Values P fun a => some (a - r a, n) := by
  intro a lo m pa e
  obtain ⟨rfl, rfl⟩ := Prod.mk.inj (Option.some.inj e)
  obtain ⟨ra, rn⟩ := below a pa
  refine ⟨by omega, by omega, fun b lb hb => ?_⟩
  obtain ⟨pb, eb⟩ := same a pa b lb hb
  exact ⟨pb, by dsimp only; rw [eb]⟩
/-- One value fills a range. -/
theorem Values.one {l h n : Nat} (e : l + n = h) : Values (fun a => l ≤ a ∧ a < h) fun _ => some (l, n) := by
  intro a lo m ⟨la, ah⟩ e
  obtain ⟨rfl, rfl⟩ := Prod.mk.inj (Option.some.inj e)
  exact ⟨la, by omega, fun b lb hb => ⟨⟨lb, by omega⟩, rfl⟩⟩
/-- Values of one length fill it. -/
theorem Values.group {l h n k : Nat} (e : l + k * n = h) : Values (fun a => l ≤ a ∧ a < h) fun a => some (l + (a - l) / n * n, n) := by
  intro a lo m ⟨la, ah⟩ e
  obtain ⟨rfl, rfl⟩ := Prod.mk.inj (Option.some.inj e)
  have pos : 0 < n := Nat.pos_of_ne_zero fun z => by subst z; omega
  have split := Nat.div_add_mod (a - l) n
  have rest := Nat.mod_lt (a - l) pos
  have index : (a - l) / n < k := Nat.div_lt_of_lt_mul (by rw [Nat.mul_comm]; omega)
  have all : ((a - l) / n + 1) * n ≤ k * n := Nat.mul_le_mul_right n index
  rw [Nat.mul_comm n] at split
  rw [Nat.add_mul, Nat.one_mul] at all
  refine ⟨by omega, by omega, fun b lb hb => ⟨⟨by omega, by omega⟩, ?_⟩⟩
  have same : (b - l) / n = (a - l) / n := by
    refine Nat.div_eq_of_lt_le (by omega) ?_
    rw [Nat.add_mul, Nat.one_mul]
    omega
  dsimp only
  rw [same]
theorem ValuesFrom.none (k : Nat) : ValuesFrom k fun _ => none := nofun
/-- A range stands before all that the other words name. -/
theorem ValuesFrom.range {k : Nat} (l h : Nat) {f g : Nat → Option (Nat × Nat)} (kl : k ≤ l) (lh : l ≤ h)
    (hf : Values (fun a => l ≤ a ∧ a < h) f) (hg : ValuesFrom h g) :
    ValuesFrom k fun a => if (decide (l ≤ a) && decide (a < h)) = true then f a else g a := by
  intro a lo n e
  simp only [Bool.and_eq_true, decide_eq_true_eq] at e ⊢
  split at e
  · rename_i inside
    obtain ⟨low, high, same⟩ := hf a lo n inside e
    have start := (same lo (Nat.le_refl lo) (by omega)).1.1
    refine ⟨by omega, low, high, fun b lb hb => ?_⟩
    obtain ⟨pb, eb⟩ := same b lb hb
    rw [if_pos pb, eb]
  · obtain ⟨start, low, high, same⟩ := hg a lo n e
    exact ⟨by omega, low, high, fun b lb hb => by rw [if_neg (by omega), same b lb hb]⟩

/-- The multi-word values of the window, block by block in ascending order. -/
theorem multiOf_valuesFrom : ValuesFrom 0 multiOf := by
  unfold multiOf
  dsimp only
  refine .range 0 4 (by decide) (by decide) (.one rfl) <| .range 6 8 (by decide) (by decide) (.one rfl) <|
    .range 9 0xD (by decide) (by decide) (.one rfl) <| .range 0xD 0xF (by decide) (by decide) (.one rfl) <|
    .range 0x108 0x110 (by decide) (by decide) (.group (k := 4) rfl) <|
    .range 0x200 0x400 (by decide) (by decide) (.ite (.above ?_ ?_) (.none _)) <|
    .range 0x400 0x408 (by decide) (by decide) (.group (k := 2) rfl) <| .range 0x40C 0x410 (by decide) (by decide) (.group (k := 2) rfl) <|
    .range 0x510 0x52C (by decide) (by decide) (.group (k := 14) rfl) <|
    .range 0x800 0xB00 (by decide) (by decide) (.ite (.above ?_ ?result) (.none _)) <|
    .range 0xB00 0xE00 (by decide) (by decide) (.group (k := 96) rfl) <|
    .range 0xE00 0xEC0 (by decide) (by decide) (.ite (.above ?_ ?_) (.ite (.above ?_ ?_) (.none _))) <|
    .range 0x1000 0x1600 (by decide) (by decide) (.ite (.above ?_ ?_) (.none _)) <|
    .range 0x1860 0x1870 (by decide) (by decide) (.ite (.above ?_ ?_) (.none _)) <|
    .range 0x2002 0x2008 (by decide) (by decide) (.group (k := 3) rfl) <|
    .range 0x2010 0x2040 (by decide) (by decide)
      (.ite (.none _) (.ite (.above ?_ ?_) (.ite (.above ?_ ?_) (.ite (.above ?_ ?_) (.none _))))) <|
    .range 0x2040 0x2060 (by decide) (by decide) (.ite (.above ?_ ?_) (.none _)) <|
    .range 0x2800 0x2802 (by decide) (by decide) (.one rfl) <| .range 0x2840 0x2BA0 (by decide) (by decide) (.group (k := 216) rfl) <|
    .range 0x2C00 0x2C18 (by decide) (by decide) (.group (k := 6) rfl) <| .none _
  case result =>
    intro a ⟨⟨la, ah⟩, ca⟩ b lb hb
    have entry : (a - 0x800) % 0x40 / 3 ≤ 19 := by omega
    have block : (b - 0x800) / 0x40 = (a - 0x800) / 0x40 := by omega
    omega
  all_goals
    intros
    omega
/-- A multi-word value reaches from its lowest word on, and each of its words names it. -/
theorem multiOf_value {a lo n : Nat} (h : multiOf a = some (lo, n)) :
    lo ≤ a ∧ a < lo + n ∧ ∀ b, lo ≤ b → b < lo + n → multiOf b = some (lo, n) :=
  (multiOf_valuesFrom a lo n h).2

/-! ## What the words of the window depend on -/

/-- Two lists of hubs agree in all but their windows. -/
def SameButWindows (hs ks : Vector HubState 2) : Prop := ∀ k : HubId, hs[k] = { ks[k] with win := hs[k].win }

section
variable {s : State} {hs : Vector HubState 2} (same : SameButWindows hs s.hubs)
include same

theorem SameButWindows.testWord (a : Nat) : ({ s with hubs := hs } : State).testWord a = s.testWord a := by
  have slice (k : HubId) : hs[k].slice = s.hubs[k].slice := by rw [same k]
  unfold State.testWord State.sliceWord
  simp only [slice]
  rfl
/-- A word that a lane supplies is the same whatever the windows hold. -/
theorem SameButWindows.laneWord (a : Nat) : ({ s with hubs := hs } : State).laneWord a = s.laneWord a := by
  have mode : ({ s with hubs := hs } : State).modeWord a = s.modeWord a := rfl
  have meas : ({ s with hubs := hs } : State).measWord a = s.measWord a := rfl
  have field : ({ s with hubs := hs } : State).fieldWord a = s.fieldWord a := by
    have supplier : ({ s with hubs := hs } : State).supplier = s.supplier := rfl
    have code (l : LaneId) (p : Point) : ({ s with hubs := hs } : State).pointCode l p = s.pointCode l p := rfl
    have input (l : LaneId) (p : Point) : ({ s with hubs := hs } : State).inputState l p = s.inputState l p := rfl
    have params : ({ s with hubs := hs } : State).params = s.params := rfl
    simp only [State.fieldWord, supplier, code, input, params]
  have wear : ({ s with hubs := hs } : State).wearWord a = s.wearWord a := rfl
  unfold State.laneWord
  rw [same.testWord, mode, meas, field, wear]
theorem SameButWindows.integrated : ({ s with hubs := hs } : State).integrated = s.integrated := by
  have sends (k : HubId) : hs[k].sends = s.hubs[k].sends := by rw [same k]; rfl
  unfold State.integrated
  simp only [sends]
theorem SameButWindows.timeWord (h : HubId) (a : Nat) : ({ s with hubs := hs } : State).timeWord h a = s.timeWord h a := by
  have timed : ({ s with hubs := hs } : State).timed h = s.timed h := by
    change (hs[h].bus.acquired || hs[h].inPhase s.bus.coldStart) = _
    rw [same h]
    rfl
  have time : hs[h].time = s.hubs[h].time := by rw [same h]
  have bus : hs[h].bus = s.hubs[h].bus := by rw [same h]
  have dev (i : Nat) : ({ s with hubs := hs } : State).devWord h i = s.devWord h i := by
    unfold State.devWord
    simp only [time, bus]
    rfl
  unfold State.timeWord
  simp only [timed, dev, time]
  rfl
theorem SameButWindows.busWord (h : HubId) (a : Nat) : ({ s with hubs := hs } : State).busWord h a = s.busWord h a := by
  have bus : hs[h].bus = s.hubs[h].bus := by rw [same h]
  unfold State.busWord State.claimInUse
  simp only [bus, same.integrated]
  rfl
/-- A word of a hub's own block is the same whatever the windows hold. -/
theorem SameButWindows.hubWord (h : HubId) (a : Nat) : ({ s with hubs := hs } : State).hubWord h a = s.hubWord h a := by
  have ident : ({ s with hubs := hs } : State).identWord a = s.identWord a := rfl
  have ring (q : RingId) (w : Nat) : ({ s with hubs := hs } : State).ringWord q w = s.ringWord q w := rfl
  unfold State.hubWord
  simp only [same.timeWord, same.busWord, same.testWord, ident, ring]
/-- A live word depends on what the window of its hub holds of the blocks. -/
theorem SameButWindows.liveWord (h : HubId) (a : Nat) (held : hs[h].win.held = s.hubs[h].win.held) (mem : hs[h].win.heldMem = s.hubs[h].win.heldMem)
    (supplied : hs[h].win.supplied = s.hubs[h].win.supplied) (refreshed : hs[h].win.refreshed = s.hubs[h].win.refreshed) :
    ({ s with hubs := hs } : State).liveWord h a = s.liveWord h a := by
  have qmem : hs[h].qmem = s.hubs[h].qmem := by rw [same h]
  unfold State.liveWord
  simp only [same.laneWord, same.hubWord, held, mem, supplied, refreshed, qmem]

end

/-! ## What a read captures (R333) -/

/-- A hub's port holds other captured values. -/
def State.withShadows (s : State) (h : HubId) (sh : List (Nat × List Word)) : State :=
  s.modHub h fun H => { H with win := { H.win with shadows := sh } }
/-- The words of a value as they stand. -/
def State.valueNow (s : State) (h : HubId) (lo n : Nat) : List Word := (List.range n).map fun i => s.liveWord h (lo + i)
/-- A word of a value that was captured, or live where none was. -/
def State.shadowWord (s : State) (h : HubId) (sh : List (Nat × List Word)) (lo a : Nat) : Word :=
  match sh.find? fun x => x.1 == lo with
  | some x => x.2.getD (a - lo) 0
  | none => s.liveWord h a

theorem State.modWin_liveWord (s : State) (h : HubId) {f : HubWindow → HubWindow} (hf : ∀ w, (f w).held = w.held ∧ (f w).heldMem = w.heldMem ∧
    (f w).supplied = w.supplied ∧ (f w).refreshed = w.refreshed) (k : HubId) (a : Nat) :
    (s.modHub h fun H => { H with win := f H.win }).liveWord k a = s.liveWord k a := by
  let t := s.modHub h fun H => { H with win := f H.win }
  have same : SameButWindows t.hubs s.hubs := by
    intro k
    by_cases e : k = h
    · subst e
      rw [show t.hubs[k] = _ from State.modHub_same ..]
    · rw [show t.hubs[k] = _ from State.modHub_other _ _ _ _ e]
  have blocks : t.hubs[k].win.held = s.hubs[k].win.held ∧ t.hubs[k].win.heldMem = s.hubs[k].win.heldMem ∧
      t.hubs[k].win.supplied = s.hubs[k].win.supplied ∧ t.hubs[k].win.refreshed = s.hubs[k].win.refreshed := by
    by_cases e : k = h
    · subst e
      rw [show t.hubs[k] = _ from State.modHub_same ..]
      exact hf _
    · rw [show t.hubs[k] = _ from State.modHub_other _ _ _ _ e]
      exact ⟨rfl, rfl, rfl, rfl⟩
  obtain ⟨held, mem, supplied, refreshed⟩ := blocks
  exact same.liveWord k a held mem supplied refreshed
theorem State.withShadows_liveWord (s : State) (h : HubId) (sh : List (Nat × List Word)) (k : HubId) (a : Nat) :
    (s.withShadows h sh).liveWord k a = s.liveWord k a :=
  s.modWin_liveWord h (f := fun w => { w with shadows := sh }) (fun _ => ⟨rfl, rfl, rfl, rfl⟩) k a
/-- Captured values that give way to others. -/
theorem State.withShadows_capture (s : State) (h : HubId) (sh : List (Nat × List Word)) (f : List (Nat × List Word) → List (Nat × List Word)) :
    ((s.withShadows h sh).modHub h fun H => { H with win := { H.win with shadows := f H.win.shadows } }) = s.withShadows h (f sh) := by
  unfold State.withShadows State.modHub
  simp
theorem State.withShadows_shadows (s : State) (h : HubId) (sh : List (Nat × List Word)) : (s.withShadows h sh).hubs[h].win.shadows = sh := by
  rw [State.withShadows, State.modHub_same]
theorem State.withShadows_self (s : State) (h : HubId) : s.withShadows h s.hubs[h].win.shadows = s := by
  have same : s.hubs.set h.val (s.hubs[h.val]'h.isLt) = s.hubs := Vector.set_getElem_self _
  exact congrArg (fun hs => { s with hubs := hs }) same

section
variable {s : State} {h : HubId} (sh : List (Nat × List Word)) (ready : s.ready = true)
include ready

theorem State.readWord_single {a : Nat} (single : multiOf a = none) :
    (s.withShadows h sh).readWord h a = (s.liveWord h a, s.withShadows h sh) := by
  unfold State.readWord
  rw [show (s.withShadows h sh).ready = true from ready, single]
  simp only [Bool.not_true, Bool.false_eq_true, if_false, s.withShadows_liveWord]
/-- The lowest word captures the value. -/
theorem State.readWord_lowest {a n : Nat} (lowest : multiOf a = some (a, n)) :
    (s.withShadows h sh).readWord h a = (s.liveWord h a, s.withShadows h ((a, s.valueNow h a n) :: sh.filter fun x => x.1 != a)) := by
  obtain ⟨-, pos, -⟩ := multiOf_value lowest
  obtain ⟨m, rfl⟩ : ∃ m, n = m + 1 := ⟨n - 1, by omega⟩
  have first : ((List.range (m + 1)).map fun i => s.liveWord h (a + i)).headD 0 = s.liveWord h a := by
    rw [List.range_succ_eq_map]
    rfl
  unfold State.readWord
  rw [show (s.withShadows h sh).ready = true from ready, lowest]
  simp only [Bool.not_true, Bool.false_eq_true, if_false, if_true, s.withShadows_liveWord, first]
  exact congrArg (Prod.mk _) (s.withShadows_capture h sh fun x => (a, s.valueNow h a (m + 1)) :: x.filter fun x => x.1 != a)
/-- A higher word is as it was captured, or live without a capture. -/
theorem State.readWord_higher {a lo n : Nat} (value : multiOf a = some (lo, n)) (higher : a ≠ lo) :
    (s.withShadows h sh).readWord h a = (s.shadowWord h sh lo a, s.withShadows h sh) := by
  unfold State.readWord State.shadowWord
  rw [show (s.withShadows h sh).ready = true from ready, value]
  simp only [Bool.not_true, Bool.false_eq_true, if_false, higher, s.withShadows_liveWord, s.withShadows_shadows]
  cases sh.find? fun x => x.1 == lo <;> rfl

end

/-! ## A read burst (R327, R333) -/

/-- What the port holds captured within a burst: of a value that starts in it, as it stands; of one below, as before. -/
structure Burst (s : State) (h : HubId) (first a : Nat) (sh : List (Nat × List Word)) : Prop where
  below : ∀ lo, lo < first → (sh.find? fun x => x.1 == lo) = s.hubs[h].win.shadows.find? fun x => x.1 == lo
  since : ∀ lo n, multiOf lo = some (lo, n) → first ≤ lo → lo < a → (sh.find? fun x => x.1 == lo) = some (lo, s.valueNow h lo n)
/-- The word that a burst returns. -/
def State.burstWord (s : State) (h : HubId) (first a : Nat) : Word :=
  match multiOf a with
  | none => s.liveWord h a
  | some (lo, _) => if first ≤ lo then s.liveWord h a else s.shadowWord h s.hubs[h].win.shadows lo a

theorem Burst.start (s : State) (h : HubId) (first : Nat) : Burst s h first first s.hubs[h].win.shadows :=
  ⟨fun _ _ => rfl, fun lo n _ le lt => absurd le (by omega)⟩
/-- A word that is no lowest word captures nothing. -/
theorem Burst.pass {s : State} {h : HubId} {first a : Nat} {sh : List (Nat × List Word)} (b : Burst s h first a sh) (not : ∀ n, multiOf a ≠ some (a, n)) :
    Burst s h first (a + 1) sh := by
  refine ⟨b.below, fun lo n value le lt => b.since lo n value le ?_⟩
  have : lo ≠ a := by
    rintro rfl
    exact not n value
  omega
theorem find?_capture {α : Type} (sh : List (Nat × α)) (a lo : Nat) (ws : α) (other : lo ≠ a) :
    (((a, ws) :: sh.filter fun x => x.1 != a).find? fun x => x.1 == lo) = sh.find? fun x => x.1 == lo := by
  rw [List.find?_cons_of_neg (by simpa using Ne.symm other), List.find?_filter]
  congr 1
  funext x
  by_cases e : x.1 = lo
  · simp [e, other]
  · simp [e]
/-- The lowest word captures its value. -/
theorem Burst.capture {s : State} {h : HubId} {first a n : Nat} {sh : List (Nat × List Word)} (b : Burst s h first a sh) (here : first ≤ a)
    (lowest : multiOf a = some (a, n)) : Burst s h first (a + 1) ((a, s.valueNow h a n) :: sh.filter fun x => x.1 != a) := by
  refine ⟨fun lo lt => ?_, fun lo m value le lt => ?_⟩
  · rw [find?_capture _ _ _ _ (by omega), b.below lo lt]
  · by_cases e : lo = a
    · subst e
      obtain ⟨-, rfl⟩ := Prod.mk.inj (Option.some.inj (lowest.symm.trans value))
      exact List.find?_cons_of_pos (by simp)
    · rw [find?_capture _ _ _ _ e, b.since lo m value le (by omega)]
/-- A higher word of a value that starts in the burst is live, and of one below it as it was before. -/
theorem Burst.higher {s : State} {h : HubId} {first a lo n : Nat} {sh : List (Nat × List Word)} (b : Burst s h first a sh)
    (value : multiOf a = some (lo, n)) (higher : a ≠ lo) : s.shadowWord h sh lo a = s.burstWord h first a := by
  obtain ⟨low, high, same⟩ := multiOf_value value
  unfold State.burstWord
  rw [value]
  dsimp only
  split
  · rename_i le
    unfold State.shadowWord
    rw [b.since lo n (same lo (Nat.le_refl lo) (by omega)) le (by omega)]
    have index : a - lo < n := by omega
    simp only [State.valueNow, List.getD_eq_getElem?_getD, List.getElem?_map, List.getElem?_range index, Option.map_some, Option.getD_some]
    rw [Nat.add_sub_cancel' low]
  · unfold State.shadowWord
    rw [b.below lo (by omega)]
/-- One read of a burst. -/
theorem Burst.read {s : State} {h : HubId} {first a : Nat} {sh : List (Nat × List Word)} (ready : s.ready = true) (b : Burst s h first a sh)
    (here : first ≤ a) : ∃ sh', (s.withShadows h sh).readWord h a = (s.burstWord h first a, s.withShadows h sh') ∧ Burst s h first (a + 1) sh' := by
  cases value : multiOf a with
  | none =>
    refine ⟨sh, ?_, b.pass fun n e => by rw [value] at e; contradiction⟩
    rw [State.readWord_single sh ready value, State.burstWord, value]
  | some v =>
    obtain ⟨lo, n⟩ := v
    by_cases e : a = lo
    · subst e
      refine ⟨_, ?_, b.capture here value⟩
      rw [State.readWord_lowest sh ready value, State.burstWord, value]
      simp only [here, if_true]
    · refine ⟨sh, ?_, b.pass fun m again => e ?_⟩
      · rw [State.readWord_higher sh ready value e, b.higher value e]
      · exact (Prod.mk.inj (Option.some.inj (again.symm.trans value))).1
/-- The words of a burst. -/
theorem Burst.reads {s : State} {h : HubId} {first : Nat} (ready : s.ready = true) (n : Nat) : ∀ {a : Nat} {sh : List (Nat × List Word)},
    Burst s h first a sh → first ≤ a → a + n ≤ 0x10000 →
    ∃ sh', (s.withShadows h sh).portReads h a n = (s.withShadows h sh', (List.range n).map fun i => s.burstWord h first (a + i)) := by
  induction n with
  | zero => exact fun {a sh} _ _ _ => ⟨sh, rfl⟩
  | succ n ih =>
    intro a sh b here end_
    obtain ⟨sh', word, b'⟩ := b.read ready here
    obtain ⟨sh'', rest⟩ := ih b' (by omega) (by omega)
    refine ⟨sh'', ?_⟩
    rw [State.portReads, if_neg (by omega), word]
    dsimp only
    rw [rest, List.range_succ_eq_map]
    simp only [List.map_cons, List.map_map, Function.comp_def, Nat.add_zero, Nat.succ_eq_add_one, Nat.add_assoc, Nat.add_comm 1]

/-! ## The blocks that a lane supplies (R32 to R34) -/

/-- The assigned words of the blocks that a lane supplies. -/
def LaneAssigned (a : Nat) : Prop :=
  (0x100 ≤ a ∧ a < 0x105) ∨ (0x108 ≤ a ∧ a < 0x110) ∨ (0x800 ≤ a ∧ a < 0xEC0) ∨ (0x1000 ≤ a ∧ a < 0x1600) ∨ (0x1800 ≤ a ∧ a < 0x1870) ∨
  (0x2000 ≤ a ∧ a < 0x2008) ∨ (0x2010 ≤ a ∧ a < 0x2040) ∨ (0x2800 ≤ a ∧ a < 0x2803) ∨ (0x2840 ≤ a ∧ a < 0x2BA0) ∨ (0x2C00 ≤ a ∧ a < 0x2C18)
theorem isSome_ite_some {α : Type} {c : Prop} [Decidable c] (x : α) (y : Option α) : (if c then some x else y).isSome = true ↔ c ∨ y.isSome = true := by
  split <;> simp [*]
theorem reservedBits_isSome {a : Nat} (block : laneBlock a = true) : (reservedBits a).isSome = true ↔ LaneAssigned a := by
  unfold LaneAssigned
  simp only [laneBlock, Bool.or_eq_true, Bool.and_eq_true, decide_eq_true_eq] at block
  unfold reservedBits
  dsimp only
  simp only [isSome_ite_some, Bool.and_eq_true, decide_eq_true_eq, Option.isSome_none, Bool.false_eq_true, or_false]
  constructor
  · intro h
    omega
  · intro h
    omega
/-- An unassigned word between them reads zero (R34). -/
theorem State.laneWord_unassigned (s : State) {a : Nat} (gap : (0x105 ≤ a ∧ a < 0x108) ∨ (0x2008 ≤ a ∧ a < 0x2010) ∨
    (0x2803 ≤ a ∧ a < 0x2840) ∨ (0x2BA0 ≤ a ∧ a < 0x2C00)) : s.laneWord a = 0 := by
  unfold State.laneWord
  rcases gap with gap | gap | gap | gap
  · have word : s.modeWord a = 0 := by
      unfold State.modeWord
      dsimp only
      rw [if_neg (by omega), if_neg (by omega), if_neg (by omega), if_neg (by omega), if_neg (by omega), if_neg (by omega)]
    rw [if_pos (by omega), word]
    rfl
  · have word : s.testWord a = 0 := by
      unfold State.testWord
      rw [if_neg (by omega), if_neg (by omega), if_neg (by omega), dif_neg (by omega), dif_neg (by omega)]
    rw [if_neg (by omega), if_neg (by omega), if_neg (by omega), if_pos (by omega), word]
    rfl
  all_goals
    have word : s.wearWord a = 0 := by
      unfold State.wearWord
      dsimp only
      rw [if_neg (by omega), if_neg (by omega), if_neg (by omega), if_neg (by omega), if_neg (by omega), if_neg (by omega), if_neg (by omega)]
    rw [if_neg (by omega), if_neg (by omega), if_neg (by omega), if_neg (by omega), word]
    rfl

/-- The addresses that a refresh fills. -/
def suppliedAddrs : List Nat :=
  ([(0x100, 0x10), (0x800, 0x6C0), (0x1000, 0x600), (0x1800, 0x70), (0x2000, 0x40), (0x2800, 0x418)] : List (Nat × Nat)).flatMap
    fun r => (List.range r.2).map fun i => r.1 + i
theorem mem_suppliedAddrs (a : Nat) : a ∈ suppliedAddrs ↔ (0x100 ≤ a ∧ a < 0x110) ∨ (0x800 ≤ a ∧ a < 0xEC0) ∨ (0x1000 ≤ a ∧ a < 0x1600) ∨
    (0x1800 ≤ a ∧ a < 0x1870) ∨ (0x2000 ≤ a ∧ a < 0x2040) ∨ (0x2800 ≤ a ∧ a < 0x2C18) := by
  have row (x n : Nat) : (∃ i, i < n ∧ x + i = a) ↔ x ≤ a ∧ a < x + n :=
    ⟨fun ⟨i, lt, e⟩ => by omega, fun h => ⟨a - x, by omega, by omega⟩⟩
  simp only [suppliedAddrs, List.flatMap_cons, List.flatMap_nil, List.append_nil, List.mem_append, List.mem_map, List.mem_range, row]
theorem State.suppliedNow_eq (s : State) : s.suppliedNow = (suppliedAddrs.map fun a => (a, s.laneWord a)).filter fun x => x.2 != 0 := by
  unfold State.suppliedNow suppliedAddrs
  rw [List.map_flatMap]
  simp only [List.map_map, Function.comp_def]
/-- A word looked up in a list of the words that are not zero. -/
theorem lookupWord_nonzero (xs : List Nat) (f : Nat → Word) (a : Nat) :
    lookupWord ((xs.map fun x => (x, f x)).filter fun x => x.2 != 0) a = if a ∈ xs then f a else 0 := by
  unfold lookupWord
  induction xs with
  | nil => rfl
  | cons x xs ih =>
    rw [List.map_cons]
    by_cases zero : f x = 0
    · rw [List.filter_cons_of_neg (by simpa using zero), ih]
      by_cases e : a = x
      · subst e
        simp [zero]
      · simp [e]
    · rw [List.filter_cons_of_pos (by simpa using zero)]
      by_cases e : a = x
      · subst e
        simp
      · rw [List.find?_cons_of_neg (by simpa using Ne.symm e), ih]
        simp [e]
/-- The refreshed word of a lane-supplied block: the lane's own, and zero where none is assigned. -/
theorem State.lookupWord_suppliedNow (s : State) {a : Nat} (block : laneBlock a = true) :
    lookupWord s.suppliedNow a = if (reservedBits a).isSome = true then s.laneWord a else 0 := by
  have assigned := reservedBits_isSome block
  simp only [laneBlock, Bool.or_eq_true, Bool.and_eq_true, decide_eq_true_eq] at block
  unfold LaneAssigned at assigned
  rw [s.suppliedNow_eq, lookupWord_nonzero]
  simp only [mem_suppliedAddrs, assigned]
  by_cases inBlocks : (0x100 ≤ a ∧ a < 0x110) ∨ (0x800 ≤ a ∧ a < 0xEC0) ∨ (0x1000 ≤ a ∧ a < 0x1600) ∨
    (0x1800 ≤ a ∧ a < 0x1870) ∨ (0x2000 ≤ a ∧ a < 0x2040) ∨ (0x2800 ≤ a ∧ a < 0x2C18)
  · rw [if_pos inBlocks]
    split
    · rfl
    · exact s.laneWord_unassigned (by omega)
  · rw [if_neg inBlocks, if_neg (by omega)]

/-- The state after a refresh. -/
def State.refreshed (s : State) : State :=
  s.modHubs fun _ H => if H.inReset then H else { H with win := { H.win with supplied := s.suppliedNow, refreshed := true } }
theorem exec_windowRefresh (s : State) : exec .windowRefresh s = .next (if s.supplier.isSome && s.mode.mode.runs then s.refreshed else s) := rfl
theorem State.refreshed_hub (s : State) (h : HubId) : (s.hubs[h].inReset = true → s.refreshed.hubs[h] = s.hubs[h]) ∧
    (s.hubs[h].inReset = false → s.refreshed.hubs[h] = { s.hubs[h] with win := { s.hubs[h].win with supplied := s.suppliedNow, refreshed := true } }) := by
  unfold State.refreshed
  rw [State.modHubs_at]
  exact ⟨fun e => if_pos e, fun e => if_neg (by rw [e]; exact Bool.false_ne_true)⟩
/-- After a refresh a hub's blocks hold the lane's words. -/
theorem State.refreshed_liveWord (s : State) {h : HubId} (run : s.hubs[h].inReset = false) (runs : s.mode.mode.runs = true) {a : Nat}
    (block : laneBlock a = true) : s.refreshed.liveWord h a = if (reservedBits a).isSome = true then s.laneWord a else 0 := by
  have notHalt : s.refreshed.mode.mode ≠ .halt := fun e => by
    rw [show s.mode.mode = .halt from e] at runs
    exact absurd runs (by decide)
  have range := block
  simp only [laneBlock, Bool.or_eq_true, Bool.and_eq_true, decide_eq_true_eq] at range
  unfold State.liveWord
  rw [(s.refreshed_hub h).2 run, if_neg (by omega), if_neg (by omega), if_neg (fun e => notHalt e.2.2), if_pos block]
  exact s.lookupWord_suppliedNow block

/-! ## Transactions (R327 to R330) -/

/-- A hub's window changes. -/
def State.modWin (s : State) (h : HubId) (f : HubWindow → HubWindow) : State := s.modHub h fun H => { H with win := f H.win }
/-- What a port shows as a transaction begins. -/
def HubWindow.begun (cut : Bool) (w : HubWindow) : HubWindow := { w with ref := false, refCause := 0, refAddr := 0, rsv := false, abort := cut }

theorem State.modWin_hub (s : State) (h : HubId) (f : HubWindow → HubWindow) : (s.modWin h f).hubs[h] = { s.hubs[h] with win := f s.hubs[h].win } :=
  State.modHub_same ..
theorem State.modWin_modWin (s : State) (h : HubId) (f g : HubWindow → HubWindow) : (s.modWin h f).modWin h g = s.modWin h fun w => g (f w) := by
  unfold State.modWin State.modHub
  simp
theorem State.modWin_agrees (s : State) (h : HubId) (f : HubWindow → HubWindow) : agreeButHub s (s.modWin h f) h :=
  ⟨rfl, fun _ other => State.modHub_other _ _ _ _ other⟩
theorem State.modWin_portMiso (s : State) (h : HubId) (f : HubWindow → HubWindow) (ws : List Word) :
    (s.modWin h f).portMiso h ws = s.modWin h fun w => { f w with miso := ws } := s.modWin_modWin h f fun w => { w with miso := ws }
theorem State.modWin_withShadows (s : State) (h : HubId) (f : HubWindow → HubWindow) (sh : List (Nat × List Word)) :
    (s.modWin h f).withShadows h sh = s.modWin h fun w => { f w with shadows := sh } := s.modWin_modWin h f fun w => { w with shadows := sh }
theorem State.portBegin_cut (s : State) (h : HubId) (cut : Bool) :
    (if cut then (s.portBegin h).modHub h fun H => { H with win := { H.win with abort := true } } else s.portBegin h) = s.modWin h (.begun cut) := by
  cases cut
  · rfl
  · exact s.modWin_modWin h (.begun false) fun w => { w with abort := true }

/-- While the port is not ready every word is zero (R329). -/
theorem State.spi_notReady (s : State) (h : HubId) (cut : Bool) (closed : s.ready = false) (cmd addr : Word) (data : List Word) :
    s.spi h (cmd :: addr :: data) cut = (s.modWin h (.begun cut)).portMiso h (0 :: 0 :: data.map fun _ => 0) := by
  have status : s.pstat h = 0 := by simp [State.pstat, closed]
  unfold State.spi
  simp only [s.portBegin_cut, closed, status, Bool.not_false, if_true, Bool.false_eq_true, if_false]
section
variable {s : State} (h : HubId) (ready : s.ready = true)
include ready

theorem State.spi_read (cut : Bool) {cmd : Word} (addr : Word) (data : List Word) (good : badCmd cmd = false) (op : field cmd 14 2 = 1)
    (some_ : 0 < field cmd 0 11) (whole : data.length = field cmd 0 11 + 1) (fits : addr.toNat + field cmd 0 11 ≤ 0x10000) :
    ∃ sh, s.spi h (cmd :: addr :: data) cut = (((s.modWin h (.begun cut)).withShadows h sh).portMiso h
      (s.pstat h :: s.hubs[h].win.refAddr :: 0 :: (List.range (field cmd 0 11)).map fun i => s.burstWord h addr.toNat (addr.toNat + i))) := by
  have word (a : Nat) : (s.modWin h (.begun cut)).burstWord h addr.toNat a = s.burstWord h addr.toNat a := by
    have live (a : Nat) : (s.modWin h (.begun cut)).liveWord h a = s.liveWord h a := s.modWin_liveWord h (f := .begun cut) (fun _ => ⟨rfl, rfl, rfl, rfl⟩) h a
    have shadows : (s.modWin h (.begun cut)).hubs[h].win.shadows = s.hubs[h].win.shadows := by rw [s.modWin_hub]; rfl
    unfold State.burstWord State.shadowWord
    simp only [live, shadows]
  obtain ⟨sh, reads⟩ := Burst.reads (s := s.modWin h (.begun cut)) ready (field cmd 0 11) (Burst.start _ h addr.toNat) (Nat.le_refl _) fits
  rw [State.withShadows_self] at reads
  obtain ⟨zero, rest, rfl⟩ := List.exists_cons_of_length_eq_add_one whole
  have count : min (field cmd 0 11) ((zero :: rest).length - 1) = field cmd 0 11 := by simp only [whole]; omega
  refine ⟨sh, ?_⟩
  unfold State.spi
  simp only [s.portBegin_cut, ready, good, op, Nat.ne_of_gt some_, count, reads, word, Bool.not_true, Bool.false_eq_true, if_false, if_true,
    Nat.reduceEqDiff]
  rfl
/-- A write burst of one word is its REGISTER_WRITE. -/
theorem State.spi_writeOne (run : s.hubs[h].inReset = false) (addr v : Word) :
    s.spi h [0x8001, addr, v] false = (s.oneWrite h addr.toNat v).portMiso h [s.pstat h, s.hubs[h].win.refAddr, 0] := by
  have good : badCmd 0x8001 = false := by decide
  have op : field (0x8001 : Word) 14 2 = 2 := by decide
  have count : field (0x8001 : Word) 0 11 = 1 := by decide
  unfold State.spi State.oneWrite
  simp only [ready, good, op, count, run, Bool.not_true, Bool.false_eq_true, if_false, if_true, Nat.reduceEqDiff]
  rfl
theorem State.spi_nothing {cmd : Word} (addr : Word) (good : badCmd cmd = false) (none_ : field cmd 0 11 = 0) :
    s.spi h [cmd, addr] false = (s.modWin h (.begun false)).portMiso h [s.pstat h, s.hubs[h].win.refAddr] := by
  unfold State.spi
  simp only [ready, good, none_, Bool.not_true, Bool.false_eq_true, if_false, if_true]
  rfl
/-- A transaction whose CMD is refused reports its address, or 0 where it named none. -/
theorem State.spi_refused (cut : Bool) {cmd : Word} (bad : badCmd cmd = true) (addr : Word) (data : List Word) (w : List Word) (e : w = addr :: data ∨ w = []) :
    ∃ ws, s.spi h (cmd :: w) cut = ((s.modWin h (.begun cut)).portRefuse h refRsvd (w.headD 0).toNat).portMiso h ws := by
  unfold State.spi
  simp only [s.portBegin_cut]
  rcases e with rfl | rfl
  · simp only [ready, bad, Bool.not_true, Bool.false_eq_true, if_false, if_true]
    exact ⟨_, rfl⟩
  · simp only [ready, bad, Bool.and_self, if_true]
    exact ⟨_, rfl⟩

end
theorem badCmd_iff (cmd : Word) : badCmd cmd = true ↔ field cmd 14 2 = 0 ∨ field cmd 14 2 = 3 ∨ field cmd 11 3 ≠ 0 := by
  simp [badCmd, or_assoc]
/-- A refusal with the first cause since the transaction began is the one that PSTAT shows. -/
theorem State.portRefuse_begun (s : State) (h : HubId) (cut : Bool) (cause a : Nat) (ws : List Word) :
    let t := ((s.modWin h (.begun cut)).portRefuse h cause a).portMiso h ws
    t = { s with hubs := t.hubs, mode := t.mode } ∧ t.mode = { s.mode with refusedX := t.mode.refusedX, refusedY := t.mode.refusedY } ∧
      (∀ k, k ≠ h → t.hubs[k] = s.hubs[k]) ∧
      t.hubs[h] = { s.hubs[h] with win := { s.hubs[h].win.begun cut with ref := true, refCause := BitVec.ofNat 3 cause, refAddr := BitVec.ofNat 16 a, miso := ws } } := by
  have hubs : ((s.modWin h (.begun cut)).portRefuse h cause a).hubs =
      ((s.modWin h (.begun cut)).modHub h fun H => if H.win.ref then H else
        { H with win := { H.win with ref := true, refCause := BitVec.ofNat 3 cause, refAddr := BitVec.ofNat 16 a } }).hubs := rfl
  refine ⟨rfl, ?_, fun k other => ?_, ?_⟩
  · change (if h = 0 then _ else _ : ModeState) = _
    dsimp only [State.portMiso, State.portRefuse, State.modHub, State.modWin]
    split <;> rfl
  · rw [State.portMiso, State.modHub_other _ _ _ _ other, hubs, State.modHub_other _ _ _ _ other, State.modWin, State.modHub_other _ _ _ _ other]
  · rw [State.portMiso, State.modHub_same, hubs, State.modHub_same, State.modWin_hub]
    rfl

/-! ## The instructions -/

theorem exec_spiTransaction {s : State} {h : HubId} (run : s.hubs[h].inReset = false) (mosi : List Word) (cut : Bool) :
    exec (.spiTransaction h mosi cut) s = .next (s.spi h mosi cut) := by
  change Host.Outcome.next (if s.hubs[h].inReset then s else s.spi h mosi cut) = _
  rw [run]
  rfl
theorem exec_windowWrite (h : HubId) (a v : Word) (s : State) : exec (.registerWrite (.window h a v)) s = .next (s.oneWrite h a.toNat v) := rfl
theorem exec_multiwordCapture (h : HubId) (a : Word) (s : State) : exec (.multiwordCapture h a) s = .next (s.readWord h a.toNat).2 := rfl
theorem State.burstWord_single {s : State} {h : HubId} {first a : Nat} (single : multiOf a = none) : s.burstWord h first a = s.liveWord h a := by
  rw [State.burstWord, single]
theorem State.burstWord_multi {s : State} {h : HubId} {first a lo n : Nat} (value : multiOf a = some (lo, n)) :
    s.burstWord h first a = if first ≤ lo then s.liveWord h a else s.shadowWord h s.hubs[h].win.shadows lo a := by
  rw [State.burstWord, value]
/-- A value captured is read as captured, whatever else has changed (R333). -/
theorem State.readWord_captured {s u : State} {h : HubId} {lo n : Nat} (lowest : multiOf lo = some (lo, n)) {sh : List (Nat × List Word)}
    (ready : u.ready = true) (shadows : u.hubs[h].win.shadows = (lo, s.valueNow h lo n) :: sh) {i : Nat} (pos : 0 < i) (lt : i < n) :
    (u.readWord h (lo + i)).1 = s.liveWord h (lo + i) := by
  obtain ⟨-, -, same⟩ := multiOf_value lowest
  have read := State.readWord_higher (h := h) u.hubs[h].win.shadows ready (same (lo + i) (by omega) (by omega)) (by omega)
  rw [u.withShadows_self] at read
  rw [read, State.shadowWord, shadows, List.find?_cons_of_pos (by simp)]
  simp [State.valueNow, List.getElem?_range lt]

end Sys2Proof.Machine

open Sys2Proof Sys2Proof.Machine

/-- Settles O55: what the port holds captured is followed through a burst word by word, and the port's other reports stand in its
window alone. -/
theorem windowReadsAreCoherent : Obligations.WindowReadsAreCoherent := by
  unfold Obligations.WindowReadsAreCoherent
  refine ⟨fun h cut s run closed cmd addr data => ?_, fun h cut s run ready cmd addr data => ⟨fun op res pos whole fits => ?_, fun v => ?_, fun w e bad => ?_,
    fun op res none_ => ?_⟩, fun h a n s ready lowest => ?_, fun s => ⟨fun no => ?_, fun sup runs => ?_⟩⟩
  · refine ⟨_, exec_spiTransaction run _ _, ?_⟩
    rw [s.spi_notReady h cut closed, s.modWin_portMiso, s.modWin_hub]
    exact ⟨s.modWin_agrees h _, rfl, rfl⟩
  · have good : badCmd cmd = false := by simp [badCmd, op, res]
    obtain ⟨sh, spi⟩ := State.spi_read h ready cut addr data good op pos whole fits
    refine ⟨_, (List.range (field cmd 0 11)).map fun i => s.burstWord h addr.toNat (addr.toNat + i), exec_spiTransaction run _ _, ?_⟩
    rw [spi, s.modWin_withShadows, s.modWin_portMiso, s.modWin_hub]
    refine ⟨s.modWin_agrees h _, rfl, rfl, rfl, rfl, by simp, fun i lt => ?_⟩
    dsimp only
    rw [List.getElem?_map, List.getElem?_range lt]
    refine ⟨fun single => ?_, fun lo n value => ⟨fun le => ?_, fun lt => ?_⟩⟩
    · rw [Option.map_some, State.burstWord_single single]
    · rw [Option.map_some, State.burstWord_multi value, if_pos le]
    · rw [Option.map_some, State.burstWord_multi value, if_neg (by omega)]
      rfl
  · exact ⟨_, _, exec_windowWrite h addr v s, exec_spiTransaction run _ _, State.spi_writeOne h ready run addr v⟩
  · obtain ⟨ws, spi⟩ := State.spi_refused h ready cut ((badCmd_iff cmd).2 bad) addr data w e
    obtain ⟨rest, mode, others, hub⟩ := s.portRefuse_begun h cut refRsvd (w.headD 0).toNat ws
    refine ⟨_, exec_spiTransaction run _ _, ?_⟩
    rw [spi, hub]
    refine ⟨rest, mode, others, rfl, rfl, rfl, ?_⟩
    exact BitVec.ofNat_toNat ..
  · have good : badCmd cmd = false := by rcases op with op | op <;> simp [badCmd, op, res]
    refine ⟨_, exec_spiTransaction run _ _, ?_⟩
    rw [State.spi_nothing h ready addr good none_, s.modWin_portMiso, s.modWin_hub]
    refine ⟨s.modWin_agrees h _, ?_⟩
    simp [State.reported, HubWindow.begun]
  · have read := State.readWord_lowest (h := h) s.hubs[h].win.shadows ready lowest
    rw [s.withShadows_self] at read
    refine ⟨_, exec_multiwordCapture h a s, ?_⟩
    rw [read]
    refine ⟨s.modWin_agrees h fun w => { w with shadows := _ }, ?_, fun u i ru eq pos lt => ?_⟩
    · rw [State.withShadows, State.modHub_same]
    · rw [State.withShadows_shadows] at eq
      exact State.readWord_captured lowest ru eq pos lt
  · rw [exec_windowRefresh]
    rcases no with e | e <;> simp [e]
  · refine ⟨s.refreshed, ?_, rfl, fun h => ⟨(s.refreshed_hub h).1, fun run => ⟨?_, fun a block => s.refreshed_liveWord run runs block⟩⟩⟩
    · rw [exec_windowRefresh, if_pos (by simp [runs, Option.isSome_iff_ne_none, sup])]
    · rw [(s.refreshed_hub h).2 run]
end

