-- ==== Sys2Proof/Proofs/Compares.lean ====
section
/-!
PROOFS. Compare records (R24, R436): what the lane that receives the last record of an index makes of it.
-/

namespace Sys2Proof.Machine

/-! ## The record -/

theorem LaneState.evalAt_index {L : LaneState} {i : Nat} {e : CmpOwn} (h : L.evalAt i = some e) : e.index = i := by
  simpa using List.find?_some h
theorem State.recordOf_asSent {s : State} {k : LaneId} {own e : CmpOwn} (h : s.lanes[k].evalAt own.index = some e) :
    s.recordOf k own .asSent = some { index := own.index, mask := e.mask, check := e.check (e.mask &&& own.mask) } := by
  unfold State.recordOf
  dsimp only
  rw [h, Option.map_some, LaneState.evalAt_index h]
theorem State.recordOf_index {s : State} {k : LaneId} {own : CmpOwn} {rx : RxCompare} {r : CompareRec} (h : s.recordOf k own rx = some r) :
    r.index = own.index := by
  cases rx with
  | asSent =>
    obtain ⟨e, found, rfl⟩ := Option.map_eq_some_iff.1 h
    exact LaneState.evalAt_index found
  | record m c => rw [← Option.some.inj h]
/-- A lane holds what it still has of its partners' records. -/
def State.dropRecords (s : State) (l : LaneId) (kept : List CmpSeen) : State := s.modLane l fun L => { L with cmpSeen := kept }
/-- The last partner's record of an index is judged with the records before it. -/
theorem exec_compareRecord {l k : LaneId} {i : Nat} {rx : RxCompare} {own : CmpOwn} {r : CompareRec} {s : State} (partner : l ≠ k) (hl : s.active l = true)
    (hk : s.active k = true) (runs : s.mode.mode.runs = true) (eval : s.lanes[l].evalAt i = some own) (record : s.recordOf k own rx = some r)
    {before : List CmpSeen} (held : (s.lanes[l].cmpSeen.filter fun y => y.index == i && y.sender != k && s.active y.sender) = before)
    (last : before.length + 2 = s.activeLanes.length) :
    exec (.compareRecord l k i rx) s = .next ((s.dropRecords l (s.lanes[l].cmpSeen.filter fun y => y.index != i && decide (i < y.index + 4))).judgeCompares l
      (before ++ [{ index := i, sender := k, check := r.check, same := own.check (r.mask &&& own.mask) == r.check }])) := by
  have index : r.index = i := (State.recordOf_index record).trans (LaneState.evalAt_index eval)
  change Host.Outcome.next _ = _
  rw [if_neg (by simp [partner, hl, hk, runs]), eval]
  dsimp only
  rw [record]
  dsimp only [State.compare]
  rw [index, held, if_pos (by simpa using last)]
  rfl
theorem State.dropRecords_lane (s : State) (l : LaneId) (kept : List CmpSeen) (a : LaneId) : ∃ c, (s.dropRecords l kept).lanes[a] = { s.lanes[a] with cmpSeen := c } := by
  by_cases e : a = l
  · subst e
    exact ⟨kept, State.modLane_same ..⟩
  · exact ⟨s.lanes[a].cmpSeen, State.modLane_other _ _ _ _ e⟩
theorem State.dropRecords_active (s : State) (l : LaneId) (kept : List CmpSeen) (a : LaneId) : (s.dropRecords l kept).active a = s.active a := by
  obtain ⟨c, e⟩ := s.dropRecords_lane l kept a
  rw [State.active, e]
  rfl
/-- Where the records match, the lane holds fewer of them, and nothing else has changed. -/
theorem State.dropRecords_agrees (s : State) (l : LaneId) (kept : List CmpSeen) :
    agreeButLane s (s.dropRecords l kept) l ∧ (s.dropRecords l kept).lanes[l] = { s.lanes[l] with cmpSeen := kept } :=
  ⟨⟨rfl, fun _ other => State.modLane_other _ _ _ _ other⟩, State.modLane_same ..⟩

/-! ## A minority lane (R436, R437) -/

theorem State.loseLane_st (s : State) (l : LaneId) : (s.loseLane l).lanes[l].st = .lost := by
  unfold State.loseLane
  split
  · assumption
  · extract_lets s1 named s2 cop
    have gone : s1.lanes[l].st = .lost := congrArg (·.st) (State.modLane_same s l fun L => { L with st := .lost, drive := { L.drive with running := false } })
    have ended : OutputsKept s1 s2 := ((OutputsKept.refl s1).raiseFault _ _ _ _).each named fun u f => (OutputsKept.refl u).withdrawFault _ _ _
    have lost {t : State} (kept : OutputsKept s1 t) : t.lanes[l].st = .lost := (congrArg (·.1) (kept.lane l)).trans gone
    repeat' split
    · exact lost ended
    · exact lost (ended.enterMode _ _)
    · refine lost (OutputsKept.degrade ?_)
      exact ended.rest rfl
    · exact lost ended.abortWindow
    · exact lost ended.degrade
/-- A minority lane is named, unless it is lost. -/
theorem State.withdrawLane_named (s : State) (l : LaneId) :
    (s.withdrawLane l).stands FaultCode.laneCompare [2 ^ l.val, 1] = true ∨ (s.withdrawLane l).lanes[l].st = .lost := by
  unfold State.withdrawLane
  dsimp only
  split
  · exact .inr (State.loseLane_st _ l)
  · exact .inl (State.raiseFault_stands ..)
theorem not_recent {restart : Option Nat} {now : Nat} (old : ∀ a, restart = some a → a + day24 ≤ now) :
    (restart.any fun t => decide (now < t + day24)) = false := by
  cases restart with
  | none => exact Option.any_none
  | some a => exact (Option.any_some ..).trans (decide_eq_false (Nat.not_lt.2 (old a rfl)))
/-- It restarts where its last restart lies 24 h back, and the others stay in the vote. -/
theorem State.withdrawLane_restarts (s : State) (l : LaneId) (old : ∀ a, s.lanes[l].lastRestart = some a → a + day24 ≤ s.now) :
    (s.withdrawLane l).lanes[l].st = .restarting ∧ (s.withdrawLane l).coppice.restarts = s.coppice.restarts + 1 ∧
      ∀ k, k ≠ l → (s.withdrawLane l).active k = s.active k := by
  unfold State.withdrawLane
  dsimp only
  rw [if_neg (by rw [not_recent old]; exact Bool.false_ne_true)]
  generalize hs : s.raiseFault FaultCode.laneCompare [2 ^ l.val, 1] (s.voteMask &&& ~~~(only l)) = s1
  refine ⟨?_, ?_, fun k other => ?_⟩
  · change (s1.modLane l fun L => L.restart s.now).lanes[l].st = _
    rw [State.modLane_same]
    rfl
  · change s1.coppice.restarts + 1 = _
    rw [← hs, State.raiseFault_coppice]
  · change ((s1.modLane l fun L => L.restart s.now).lanes[k].st == .active) = _
    rw [State.modLane_other _ _ _ _ other]
    obtain ⟨w, e⟩ := s.raiseFault_lane FaultCode.laneCompare [2 ^ l.val, 1] (s.voteMask &&& ~~~(only l)) 0xFF k
    rw [hs] at e
    rw [e]
    rfl

/-! ## SAFE -/

/-- A fault that sets SAFE stands, and every lane in the vote holds the latch. -/
theorem State.raiseFault_setSafe (s : State) (code : Nat) (items : List Nat) (m : LaneMask) :
    let t := (s.raiseFault code items m).setSafe
    t.stands code items = true ∧ t.mode = s.mode ∧ ∀ a : LaneId, s.active a = true → t.active a = true ∧ t.lanes[a].latches.safe = true := by
  refine ⟨State.raiseFault_stands .., State.raiseFault_mode .., fun a active => ?_⟩
  obtain ⟨w, e⟩ := s.raiseFault_lane code items m 0xFF a
  have st : ((s.raiseFault code items m).lanes[a].st == .active) = true := by rw [e]; exact active
  rw [State.active, State.setSafe, State.modLanes_at, if_pos st]
  exact ⟨st, rfl⟩
/-- What entering SAFE leaves: the faults that stand and the lanes' latches. -/
structure SafeKept (s t : State) : Prop where
  faults : t.faults = s.faults
  mode : t.mode = s.mode
  safe : ∀ a : LaneId, t.lanes[a].latches.safe = s.lanes[a].latches.safe
theorem SafeKept.trans {s t u : State} (h : SafeKept s t) (k : SafeKept t u) : SafeKept s u :=
  ⟨k.faults.trans h.faults, k.mode.trans h.mode, fun a => (k.safe a).trans (h.safe a)⟩
theorem State.note_safeKept (s : State) (code : Nat) (items : List Nat) (d : Bytes) : SafeKept s (s.note code items d) :=
  ⟨State.note_faults .., State.note_mode .., fun a => by rw [State.note_lanes]⟩
theorem State.trigger_safeKept (s : State) (m : LaneMask) (g : GroupId) (k : Bool) : SafeKept s (s.trigger m g k) :=
  ⟨rfl, rfl, fun a => by rw [State.trigger, State.modLanes_at]; split <;> rfl⟩
theorem SafeKept.each {α : Type} {f : State → α → State} (xs : List α) (hf : ∀ u x, SafeKept u (f u x)) (s : State) : SafeKept s (s.each xs f) :=
  ⟨each_field (·.faults) xs (fun u x _ => (hf u x).faults) s, each_field (·.mode) xs (fun u x _ => (hf u x).mode) s,
    fun a => each_field (·.lanes[a].latches.safe) xs (fun u x _ => (hf u x).safe a) s⟩
theorem State.enterMode_safe (s : State) (k : Nat) (logged : k ≠ 15) : (s.enterMode .safe k).mode.mode = .safe ∧ (s.enterMode .safe k).mode.cause = k ∧
    (s.enterMode .safe k).faults = s.faults ∧ ∀ a : LaneId, (s.enterMode .safe k).lanes[a].latches.safe = s.lanes[a].latches.safe := by
  unfold State.enterMode
  extract_lets old ms s0 cop s1 d s2 s3 act s4
  have entered : s1.mode.mode = .safe ∧ s1.mode.cause = k ∧ s1.faults = s.faults ∧ ∀ a : LaneId, s1.lanes[a].latches.safe = s.lanes[a].latches.safe := by
    unfold s1
    split <;> exact ⟨rfl, rfl, rfl, fun _ => rfl⟩
  have noted : s2 = s1.note EventCode.modeChange [] d := if_neg logged
  have kept : SafeKept s1 s3 := by
    unfold s3
    rw [if_neg (by decide), if_pos rfl, noted]
    exact (s1.note_safeKept _ _ _).trans (SafeKept.each _ (fun u g => u.trigger_safeKept _ _ _) _)
  have all : s3.mode.mode = .safe ∧ s3.mode.cause = k ∧ s3.faults = s.faults ∧ ∀ a : LaneId, s3.lanes[a].latches.safe = s.lanes[a].latches.safe := by
    obtain ⟨mode, cause, faults, safe⟩ := entered
    exact ⟨(congrArg (·.mode) kept.mode).trans mode, (congrArg (·.cause) kept.mode).trans cause, kept.faults.trans faults,
      fun a => (kept.safe a).trans (safe a)⟩
  clear_value s3
  split
  · rw [if_neg (by decide)]
    exact all
  · exact all

/-! ## An open window (R434, R435) -/

theorem State.abortWindow_faults (s : State) : s.abortWindow.faults = s.faults := by
  unfold State.abortWindow
  split
  · rfl
  · split
    · rfl
    · exact State.note_faults ..
theorem State.abortWindow_aborts (s : State) (opened : s.windowOpen = true) (first : s.coppice.aborted = false) :
    s.abortWindow.coppice.aborted = true ∧ s.abortWindow.coppice.aborts = s.coppice.aborts + 1 ∧ s.abortWindow.coppice.repeatLane = s.coppice.rest := by
  obtain ⟨l, rest⟩ := Option.isSome_iff_exists.1 opened
  unfold State.abortWindow
  rw [rest]
  dsimp only
  rw [if_neg (by rw [first]; exact Bool.false_ne_true), State.note_coppice]
  exact ⟨rfl, rfl, rfl⟩

end Sys2Proof.Machine

open Sys2Proof Sys2Proof.Machine

/-- Settles O51, case by case of what the records say of the partners. -/
theorem comparesWithdrawTheMinority : Obligations.ComparesWithdrawTheMinority := by
  unfold Obligations.ComparesWithdrawTheMinority
  refine ⟨fun k own e s found => State.recordOf_asSent found, fun l k i rx own r s partner hl hk runs eval record => ?_⟩
  extract_lets same before kept
  have withdraw (m : LaneId) (old : ∀ a, s.lanes[m].lastRestart = some a → a + day24 ≤ s.now) :=
    (s.dropRecords l kept).withdrawLane_restarts m fun a e => by
      obtain ⟨c, lane⟩ := s.dropRecords_lane l kept m
      rw [lane] at e
      exact old a e
  have safe (code : Nat) (items : List Nat) (m : LaneMask) := (s.dropRecords l kept).raiseFault_setSafe code items m
  refine ⟨fun x three held other => ?_, fun two held => ?_⟩
  · have ⟨xk, xa⟩ : x.sender ≠ k ∧ s.active x.sender = true := by
      have mem : x ∈ before := by rw [held]; exact List.mem_singleton_self x
      have cond := (List.mem_filter.1 mem).2
      simp only [Bool.and_eq_true, bne_iff_ne, ne_eq] at cond
      exact ⟨cond.1.2, cond.2⟩
    refine ⟨_, exec_compareRecord partner hl hk runs eval record held (by rw [three]; rfl), ?_⟩
    generalize hy : ({ index := i, sender := k, check := r.check, same := own.check (r.mask &&& own.mask) == r.check } : CmpSeen) = y
    have ys : y.same = decide same := by rw [← hy]; rfl
    have yk : y.sender = k ∧ y.check = r.check := by rw [← hy]; exact ⟨rfl, rfl⟩
    have active (a : LaneId) : (s.dropRecords l kept).active a = s.active a := s.dropRecords_active l kept a
    dsimp only [List.cons_append, List.nil_append, State.judgeCompares]
    rw [ys, yk.1, yk.2]
    refine ⟨fun sx sy => ?_, fun sx sy => ?_, fun sx sy old => ?_, fun sx sy old => ?_, fun sx sy eq old => ?_, fun sx sy ne => ?_⟩ <;>
      simp only [sx, sy, decide_true, decide_false, Bool.and_self, Bool.and_false, Bool.and_true, Bool.false_eq_true, if_true, if_false]
    · exact s.dropRecords_agrees l kept
    · exact State.withdrawLane_named _ k
    · obtain ⟨st, count, others⟩ := withdraw k old
      exact ⟨st, count, by rw [others l partner, active, hl], by rw [others _ xk, active, xa]⟩
    · obtain ⟨st, count, others⟩ := withdraw x.sender old
      exact ⟨st, count, by rw [others l other.symm, active, hl], by rw [others k xk.symm, active, hk]⟩
    · rw [if_pos eq]
      obtain ⟨st, count, others⟩ := withdraw l old
      exact ⟨st, count, by rw [others k partner.symm, active, hk], by rw [others _ other, active, xa]⟩
    · rw [if_neg ne]
      obtain ⟨stands, -, latches⟩ := safe FaultCode.laneCompare [7, 2] (s.dropRecords l kept).voteMask
      exact ⟨stands, fun a ha => latches a (by rw [active, ha])⟩
  · refine ⟨_, exec_compareRecord partner hl hk runs eval record held (by rw [two]; rfl), ?_⟩
    dsimp only [List.nil_append, State.judgeCompares]
    have active (a : LaneId) : (s.dropRecords l kept).active a = s.active a := s.dropRecords_active l kept a
    refine ⟨fun sy => ?_, fun sy shut => ?_, fun sy opened => ?_⟩
    · rw [if_pos (by simpa using sy)]
      exact s.dropRecords_agrees l kept
    · rw [if_neg (by simpa using sy), if_neg (by rw [show (s.dropRecords l kept).windowOpen = _ from shut]; exact Bool.false_ne_true)]
      obtain ⟨stands, mode, latches⟩ := safe FaultCode.laneCompare [2 ^ l.val + 2 ^ k.val, 3] (only l ||| only k)
      generalize ((s.dropRecords l kept).raiseFault FaultCode.laneCompare [2 ^ l.val + 2 ^ k.val, 3] (only l ||| only k)).setSafe = u at stands mode latches ⊢
      have held (a : LaneId) (ha : s.active a = true) := (latches a (by rw [active, ha])).2
      split
      · obtain ⟨safe, cause, faults, kept⟩ := u.enterMode_safe 10 (by decide)
        refine ⟨?_, fun a ha => (kept a).trans (held a ha), fun _ => ⟨safe, cause, rfl⟩⟩
        change (u.enterMode .safe 10).faults.any _ = true
        rw [faults]
        exact stands
      · rename_i no
        exact ⟨stands, held, fun degraded => absurd ((congrArg (·.mode) mode).trans degraded) no⟩
    · rw [if_neg (by simpa using sy), if_pos (show (s.dropRecords l kept).windowOpen = true from opened)]
      have stands := (s.dropRecords l kept).raiseFault_stands FaultCode.laneCompare [2 ^ l.val + 2 ^ k.val, 4] (only l ||| only k) 0xFF
      have coppice : ((s.dropRecords l kept).raiseFault FaultCode.laneCompare [2 ^ l.val + 2 ^ k.val, 4] (only l ||| only k)).coppice = s.coppice :=
        State.raiseFault_coppice ..
      generalize (s.dropRecords l kept).raiseFault FaultCode.laneCompare [2 ^ l.val + 2 ^ k.val, 4] (only l ||| only k) = u at stands coppice ⊢
      refine ⟨?_, fun first _ => ?_⟩
      · rw [State.stands, u.abortWindow_faults]
        exact stands
      · rw [← coppice] at first ⊢
        exact u.abortWindow_aborts (by rw [State.windowOpen, coppice]; exact opened) first
end

