-- ==== Sys2Proof/Proofs/Frames.lean ====
section
/-!
PROOFS. Frames received (R26, R226 to R228), acquisition (R229), links and spare slots (R208, R240, R241): what each check of a
frame leaves, and the images that a valid one brings.
-/

namespace Sys2Proof.Machine

/-! ## What a hub judges frames by, and the images it holds -/

/-- The counters of R226: of valid frames, and of each check that failed first. -/
def BusCounters.checks (c : BusCounters) : DWord × DWord × DWord × DWord × DWord × DWord × DWord × DWord × DWord :=
  (c.valid, c.code, c.fcs, c.header, c.timing, c.sender, c.sset, c.cycle, c.payload)
/-- What the masters' frames leave at a hub, and how its frames were counted. -/
def HubBus.images (b : HubBus) := (b.cnt.checks, b.store, b.late)
/-- What a hub judges a frame by, and its images. -/
def HubState.hearing (H : HubState) := (H.bus.integ, H.bus.sset, H.bus.cycle, { H.time with devs := [] }, H.bus.images)

theorem BusCounters.judged_checks {c d : BusCounters} (h : c.checks = d.checks) (k : Nat) : (c.judged k).checks = (d.judged k).checks := by
  simp only [BusCounters.checks, Prod.mk.injEq] at h
  obtain ⟨valid, code, fcs, header, timing, sender, sset, cycle, payload⟩ := h
  unfold BusCounters.judged
  split <;> simp [BusCounters.checks, *]

/-- Two states agree in what a hub judges a frame by, in the images it holds, in transactions and the schedule change. -/
structure Hears (h : HubId) (s t : State) : Prop where
  params : t.params = s.params
  mode : t.mode = s.mode
  node : t.bus.nodeId = s.bus.nodeId
  change : t.bus.change = s.bus.change
  txns : t.mail.txns = s.mail.txns
  hub : t.hubs[h].hearing = s.hubs[h].hearing

namespace Hears

theorem refl (h : HubId) (s : State) : Hears h s s := ⟨rfl, rfl, rfl, rfl, rfl, rfl⟩
theorem trans {h : HubId} {s t u : State} (a : Hears h s t) (b : Hears h t u) : Hears h s u :=
  ⟨b.params.trans a.params, b.mode.trans a.mode, b.node.trans a.node, b.change.trans a.change, b.txns.trans a.txns, b.hub.trans a.hub⟩

section
variable {h : HubId} {s t : State} (a : Hears h s t)
include a

theorem integ : t.hubs[h].bus.integ = s.hubs[h].bus.integ := congrArg (·.1) a.hub
theorem sset : t.hubs[h].bus.sset = s.hubs[h].bus.sset := congrArg (·.2.1) a.hub
theorem cycle : t.hubs[h].bus.cycle = s.hubs[h].bus.cycle := congrArg (·.2.2.1) a.hub
theorem time : { t.hubs[h].time with devs := [] } = { s.hubs[h].time with devs := [] } := congrArg (·.2.2.2.1) a.hub
theorem images : t.hubs[h].bus.images = s.hubs[h].bus.images := congrArg (·.2.2.2.2) a.hub
theorem checks : t.hubs[h].bus.cnt.checks = s.hubs[h].bus.cnt.checks := congrArg (·.1) a.images
theorem store : t.hubs[h].bus.store = s.hubs[h].bus.store := congrArg (·.2.1) a.images
theorem late : t.hubs[h].bus.late = s.hubs[h].bus.late := congrArg (·.2.2) a.images
theorem apGt : t.hubs[h].time.apGt = s.hubs[h].time.apGt := (congrArg HubTime.apGt a.time :)
theorem gt : t.hubs[h].time.gt = s.hubs[h].time.gt := (congrArg HubTime.gt a.time :)
theorem gtMismatch : t.hubs[h].time.gtMismatch = s.hubs[h].time.gtMismatch := (congrArg HubTime.gtMismatch a.time :)
theorem placeOf (f : RxFrame) : t.placeOf h f = s.placeOf h f := by
  have arrival : t.hubs[h].time.arrival f = s.hubs[h].time.arrival f := (congrArg (HubTime.arrival · f) a.time :)
  unfold State.placeOf
  dsimp only
  rw [a.params, a.sset, arrival, a.apGt]
theorem judgeFrame (f : RxFrame) : t.judgeFrame h f = s.judgeFrame h f := by
  unfold State.judgeFrame
  dsimp only
  rw [a.params, a.placeOf, a.sset, a.cycle]
theorem pastSlot (slot : Nat) : t.pastSlot h slot = s.pastSlot h slot := by
  unfold State.pastSlot
  dsimp only
  rw [a.mode, a.apGt, a.gt, a.params, a.sset]

theorem modHub (k : HubId) {f : HubState → HubState} (hf : ∀ H, (f H).hearing = H.hearing) : Hears h s (t.modHub k f) := by
  refine a.trans ⟨rfl, rfl, rfl, rfl, rfl, ?_⟩
  by_cases e : h = k
  · subst e
    rw [State.modHub_same, hf]
  · rw [State.modHub_other _ _ _ _ e]
theorem modBus (b : ModuleBus) (node : b.nodeId = t.bus.nodeId) (change : b.change = t.bus.change) : Hears h s { t with bus := b } :=
  a.trans ⟨rfl, rfl, node, change, rfl, rfl⟩
theorem note (code : Nat) (i : List Nat) (d : Bytes) : Hears h s (t.note code i d) := by
  refine a.trans ⟨State.event_params .., State.note_mode .., by simp, by simp, State.note_txns .., ?_⟩
  rw [State.note_hubs t code i d 3 0xFF h]
  rfl

end
end Hears

/-! ## A frame that is judged (R226) -/

theorem State.claimHeard_hears (s : State) (h : HubId) (slot : Nat) : Hears h s (s.claimHeard slot) := by
  unfold State.claimHeard
  split
  · refine Hears.note ?_ _ _ _
    exact (Hears.refl h s).modBus _ rfl rfl
  · exact .refl h s
theorem State.measureDev_hears (s : State) (h : HubId) (f : RxFrame) : Hears h s (s.measureDev h f) := by
  unfold State.measureDev
  dsimp only
  split
  · exact (Hears.refl h s).modHub h fun _ => rfl
  · exact .refl h s
theorem State.noteValid_hears (s : State) (h : HubId) (f : RxFrame) (slot : Nat) : Hears h s (s.noteValid h f slot) := by
  unfold State.noteValid
  refine ((Hears.refl h s).modHub h (f := fun H => { H with bus := _ }) fun H => ?_).modBus _ rfl rfl
  have checks : (if Frame.plen f.octets = 0 ∧ !Frame.nnd f.octets then { H.bus.cnt with nnd := H.bus.cnt.nnd + 1 } else H.bus.cnt).checks =
      H.bus.cnt.checks := by
    split <;> rfl
  exact congrArg (fun x => (H.bus.integ, H.bus.sset, H.bus.cycle, { H.time with devs := [] }, x, H.bus.store, H.bus.late)) checks
/-- What a frame's begin brings at a hub with cycle timing, before its checks. -/
def State.frameBegun (s : State) (h : HubId) (f : RxFrame) : State :=
  (s.modBus h fun b => { b with begun := if b.begun.contains (s.placeOf h f).1 then b.begun else b.begun ++ [(s.placeOf h f).1] }).claimHeard (s.placeOf h f).1
theorem State.frameBegun_hears (s : State) (h : HubId) (f : RxFrame) : Hears h s (s.frameBegun h f) := by
  refine Hears.trans ?_ (State.claimHeard_hears _ h _)
  exact (Hears.refl h s).modHub h fun _ => rfl
/-- A frame that fails the check k is counted there, and left. -/
structure Refused (h : HubId) (k : Nat) (s t : State) : Prop where
  heard : ∃ u, Hears h s u ∧ t = u.countRx h k
theorem Refused.result {h : HubId} {k : Nat} {s t : State} (r : Refused h k s t) :
    t.hubs[h].bus.cnt.checks = (s.hubs[h].bus.cnt.judged k).checks ∧ t.hubs[h].bus.store = s.hubs[h].bus.store ∧ t.mail.txns = s.mail.txns ∧
      t.bus.change = s.bus.change ∧ t.hubs[h].time.gtMismatch = s.hubs[h].time.gtMismatch := by
  obtain ⟨u, hears, rfl⟩ := r.heard
  have hub : (u.countRx h k).hubs[h] = _ := State.modHub_same ..
  rw [hub]
  exact ⟨BusCounters.judged_checks hears.checks k, hears.store, hears.txns, hears.change, hears.gtMismatch⟩

/-! ## What a valid frame brings -/

/-- A hub holds the same images in two states, and has counted the same frames. -/
def SameImages (h : HubId) (s t : State) : Prop := t.hubs[h].bus.images = s.hubs[h].bus.images

namespace SameImages

theorem refl (h : HubId) (s : State) : SameImages h s s := rfl
theorem trans {h : HubId} {s t u : State} (a : SameImages h s t) (b : SameImages h t u) : SameImages h s u := Eq.trans b a

section
variable {h : HubId} {s t : State} (a : SameImages h s t)
include a

theorem rest {u : State} (hubs : u.hubs = t.hubs) : SameImages h s u := by
  unfold SameImages
  rw [hubs]
  exact a
theorem of_mail {u : State} (m : MailOnly t u) : SameImages h s u := by
  unfold SameImages
  rw [m.hub h]
  exact a
theorem modHub (k : HubId) {f : HubState → HubState} (hf : ∀ H, (f H).bus.images = H.bus.images) : SameImages h s (t.modHub k f) := by
  refine a.trans ?_
  unfold SameImages
  by_cases e : h = k
  · subst e
    rw [State.modHub_same, hf]
  · rw [State.modHub_other _ _ _ _ e]
theorem note (code : Nat) (i : List Nat) (d : Bytes) : SameImages h s (t.note code i d) := by
  unfold SameImages
  rw [(State.note_hubs t code i d 3 0xFF).bus h]
  exact a

/-! ### Schedule changes (R236 to R238) -/

theorem changeRequest (slot : Nat) (cycle : Word) (b : Bytes) : SameImages h s (t.changeRequest slot cycle b) := by
  unfold State.changeRequest
  extract_lets target who rc known
  split
  · exact a
  · exact a.rest rfl
theorem cancelChange (items : List Nat) : SameImages h s (t.cancelChange items) := by
  unfold State.cancelChange
  exact (a.rest (u := { t with bus := { t.bus with change := none } }) rfl).note _ _ _
theorem changeAnswer (node : Nat) (b : Bytes) : SameImages h s (t.changeAnswer node b) := by
  unfold State.changeAnswer
  split
  · exact a
  · split
    · exact a
    · split
      · exact a.cancelChange _
      · exact a.rest rfl
theorem rxBlock (f : RxFrame) (slot : Nat) : SameImages h s (t.rxBlock f slot) := by
  unfold State.rxBlock
  extract_lets o
  split
  · exact a
  · split
    · exact a.changeRequest _ _ _
    · exact a.changeAnswer _ _

/-! ### Segments (R243 to R245) -/

theorem storeSegment (k : HubId) (x : Segment) : SameImages h s (t.storeSegment k x) := by
  unfold State.storeSegment
  extract_lets r had all n s1
  have stored : SameImages h s s1 := by
    refine a.trans ?_
    unfold SameImages s1
    rw [State.modHubs_at]
  clear_value s1
  split
  · exact a.of_mail (((MailOnly.refl t).modRing _ _).segDrop _ _)
  · split
    · exact stored.of_mail ((MailOnly.refl s1).modRing _ _)
    · split
      · exact stored.of_mail ((MailOnly.refl s1).modRing _ _)
      · exact stored.of_mail (((MailOnly.refl s1).modRing _ _).storeTxn _ _ _ _)
theorem takeInSequence (k : HubId) (x : Segment) : SameImages h s (t.takeInSequence k x) := by
  unfold State.takeInSequence
  split
  · exact (a.of_mail ((MailOnly.refl t).dropOpen _ _)).storeSegment _ _
  · split
    · exact a.storeSegment _ _
    · exact a.of_mail ((MailOnly.refl t).segDrop _ _)
theorem takeOutOfSequence (k : HubId) (x : Segment) : SameImages h s (t.takeOutOfSequence k x) := by
  unfold State.takeOutOfSequence
  extract_lets s1 s2
  have dropped : SameImages h s (t.each (t.ringsOf x.src) fun u q => u.modRing q Ring.dropPart) :=
    a.of_mail (MailOnly.each (fun u q => (MailOnly.refl u).modRing q _) (MailOnly.refl t))
  have counted : SameImages h s s1 := dropped.modHub k fun _ => rfl
  clear_value s1
  have noted : SameImages h s s2 := counted.note _ _ _
  clear_value s2
  split
  · exact noted.storeSegment _ _
  · exact noted
theorem takeSegment (k : HubId) (cycle : Word) (x : Segment) : SameImages h s (t.takeSegment k cycle x) := by
  unfold State.takeSegment
  extract_lets i want b s1 s2
  have begun : SameImages h s s2 := a.rest rfl
  clear_value s2
  split
  · exact a
  · split
    · exact begun.takeInSequence _ _
    · exact begun.takeOutOfSequence _ _
theorem rxSegment (k : HubId) (o : Bytes) : SameImages h s (t.rxSegment k o) := by
  unfold State.rxSegment
  extract_lets src
  clear_value src
  split
  · exact a
  · split
    · exact a.of_mail ((MailOnly.refl t).segDrop _ _)
    · split
      · exact a.of_mail ((MailOnly.refl t).segDrop _ _)
      · exact a.takeSegment _ _ _

end
end SameImages

/-! ## Its images (R219, R26) -/

/-- An image for this node that a frame carries, with the frame's cycle. -/
def Frame.imageFor (o : Bytes) (node : Nat) : Option (Bytes × Word) :=
  (((Frame.records o).getD []).filterMap fun r => if r.1 = 1 ∧ r.2.1 = node then some r.2.2 else none).head?.map fun r => (r, Frame.cycle o)
/-- A frame's records for this node: the first image replaces the one held, at once or at the vote. -/
theorem State.storeRecords_images (s : State) (h : HubId) (m : MasterId) (slot : Nat) (o : Bytes) :
    let b := s.hubs[h].bus
    let c := (s.storeRecords h m slot o).hubs[h].bus
    let img := (Frame.imageFor o s.bus.nodeId).or ((b.late[m]).getD b.store[m]).image
    c.cnt.checks = b.cnt.checks ∧ (s.pastSlot h slot = false → c.store[m].image = img ∧ c.late[m] = none) ∧
      (s.pastSlot h slot = true → c.store[m] = b.store[m] ∧ (c.late[m]).map (·.image) = some img) := by
  unfold State.storeRecords State.modBus
  dsimp only
  rw [State.modHub_same]
  refine ⟨rfl, fun inTime => ?_, fun past => ?_⟩
  · simp only [inTime, Bool.false_eq_true, if_false, Fin.getElem_fin, Vector.getElem_set_self]
    exact ⟨rfl, trivial⟩
  · simp only [past, if_true, Fin.getElem_fin, Vector.getElem_set_self]
    exact ⟨trivial, rfl⟩

/-! ## A frame at a hub with cycle timing (R226) -/

/-- The check of R226 that a frame fails first, or 0. -/
def State.frameCheck (s : State) (h : HubId) (f : RxFrame) : Nat :=
  if rxEarly f ≠ 0 then rxEarly f else if s.judgeFrame h f ≠ 0 then s.judgeFrame h f else if s.params.payloadOk f.octets = true then 0 else 8
/-- A frame that passes is counted as valid, and its payload is used. -/
structure Used (h : HubId) (f : RxFrame) (s t : State) : Prop where
  heard : ∃ u, Hears h s u ∧ t = (u.countRx h 0).usePayload h f (s.placeOf h f).1

theorem Refused.of {h : HubId} {k : Nat} {s u t : State} (a : Hears h s u) (r : Refused h k u t) : Refused h k s t := by
  obtain ⟨v, hears, e⟩ := r.heard
  exact ⟨v, a.trans hears, e⟩
theorem Used.of {h : HubId} {f : RxFrame} {s u t : State} (a : Hears h s u) (r : Used h f u t) : Used h f s t := by
  obtain ⟨v, hears, e⟩ := r.heard
  rw [a.placeOf] at e
  exact ⟨v, a.trans hears, e⟩

theorem State.receiveTimed_judged (s : State) (h : HubId) (f : RxFrame) (ok : rxEarly f = 0) :
    (s.frameCheck h f ≠ 0 → Refused h (s.frameCheck h f) s (s.receiveTimed h f)) ∧ (s.frameCheck h f = 0 → Used h f s (s.receiveTimed h f)) := by
  unfold State.receiveTimed
  extract_lets o k slot s1 s2
  have measured : Hears h s s1 := (s.measureDev_hears h f).modHub h fun _ => rfl
  have valid : Hears h s s2 := measured.trans (s1.noteValid_hears h f slot)
  have check : s.frameCheck h f = if k ≠ 0 then k else if s.params.payloadOk o = true then 0 else 8 := if_neg (by simp [ok])
  clear_value s1 s2 k
  rw [check]
  by_cases bad : k ≠ 0
  · rw [if_pos bad, if_pos bad]
    exact ⟨fun _ => ⟨s1, measured, rfl⟩, fun h => absurd h bad⟩
  · rw [if_neg bad, if_neg bad]
    by_cases payload : s.params.payloadOk o = true
    · rw [if_pos payload, if_pos payload]
      exact ⟨fun h => absurd rfl h, fun _ => ⟨s2, valid, rfl⟩⟩
    · rw [if_neg payload, if_neg payload]
      exact ⟨fun _ => ⟨s2, valid, rfl⟩, fun h => absurd h (by decide)⟩
theorem State.rxFrame_judged (s : State) (h : HubId) (f : RxFrame) (timed : s.timed h = true) :
    (s.frameCheck h f ≠ 0 → Refused h (s.frameCheck h f) s (s.rxFrame h f)) ∧ (s.frameCheck h f = 0 → Used h f s (s.rxFrame h f)) := by
  have begun := s.frameBegun_hears h f
  unfold State.rxFrame
  extract_lets o timedNow slot s1 own b s2
  have first : s1 = s.frameBegun h f := if_pos timed
  rw [← first] at begun
  have cold : Hears h s s2 := by
    unfold s2
    split
    · exact begun.modBus _ rfl rfl
    · exact begun
  clear_value s1 s2
  by_cases ok : rxEarly f = 0
  · have same : s2.frameCheck h f = s.frameCheck h f := by
      unfold State.frameCheck
      rw [cold.judgeFrame, cold.params]
    rw [if_neg (by simp [ok]), if_pos (show timedNow = true from timed), ← same]
    obtain ⟨refused, used⟩ := s2.receiveTimed_judged h f ok
    exact ⟨fun bad => .of cold (refused bad), fun good => .of cold (used good)⟩
  · have verdict : s.frameCheck h f = rxEarly f := if_pos ok
    rw [if_pos ok, verdict]
    exact ⟨fun _ => ⟨s1, begun, rfl⟩, fun good => absurd good ok⟩

/-! ## Its payload -/

theorem State.modHub_pastSlot (s : State) (h : HubId) (f : HubState → HubState) (slot : Nat)
    (kept : (f s.hubs[h]).time.apGt = s.hubs[h].time.apGt ∧ (f s.hubs[h]).time.gt = s.hubs[h].time.gt ∧ (f s.hubs[h]).bus.sset = s.hubs[h].bus.sset) :
    (s.modHub h f).pastSlot h slot = s.pastSlot h slot := by
  obtain ⟨apGt, gt, sset⟩ := kept
  have params : (s.modHub h f).params = s.params := rfl
  have mode : (s.modHub h f).mode = s.mode := rfl
  unfold State.pastSlot
  dsimp only
  rw [State.modHub_same, apGt, gt, sset, params, mode]
/-- What the records of a frame leave, before its block and its segment are taken. -/
def State.payloadStored (s : State) (h : HubId) (f : RxFrame) (slot : Nat) : State :=
  match s.params.sourceOf (Frame.sender f.octets) with
  | some (.master m) => if s.hubs[h].bus.integ = Integ.acquire ∨ Frame.plen f.octets = 0 ∨ Frame.type f.octets = 1 then s.noteTimes h f.octets
      else (s.noteTimes h f.octets).storeRecords h m slot f.octets
  | _ => s.noteTimes h f.octets
theorem State.usePayload_images (s : State) (h : HubId) (f : RxFrame) (slot : Nat) : SameImages h (s.payloadStored h f slot) (s.usePayload h f slot) :=
  ((SameImages.refl h (s.payloadStored h f slot)).rxBlock f slot).rxSegment h f.octets
theorem State.noteTimes_bus (s : State) (h : HubId) (o : Bytes) : (s.noteTimes h o).hubs[h].bus = s.hubs[h].bus := by
  rw [State.noteTimes, State.modTime, State.modHub_same]
theorem State.payloadStored_checks (s : State) (h : HubId) (f : RxFrame) (slot : Nat) :
    (s.payloadStored h f slot).hubs[h].bus.cnt.checks = s.hubs[h].bus.cnt.checks := by
  have times := s.noteTimes_bus h f.octets
  unfold State.payloadStored
  split
  · split
    · rw [times]
    · exact ((s.noteTimes h f.octets).storeRecords_images h _ slot f.octets).1.trans (by rw [times])
  · rw [times]
/-- The counters of a frame that passed. -/
theorem Used.checks {h : HubId} {f : RxFrame} {s t : State} (r : Used h f s t) : t.hubs[h].bus.cnt.checks = (s.hubs[h].bus.cnt.judged 0).checks := by
  obtain ⟨u, hears, rfl⟩ := r.heard
  have counted : (u.countRx h 0).hubs[h].bus.cnt = u.hubs[h].bus.cnt.judged 0 := congrArg (·.bus.cnt) (State.modHub_same ..)
  have images := (u.countRx h 0).usePayload_images h f (s.placeOf h f).1
  exact (congrArg (·.1) images).trans (((u.countRx h 0).payloadStored_checks h f _).trans
    ((congrArg BusCounters.checks counted).trans (BusCounters.judged_checks hears.checks 0)))
/-- The images that a master's frame leaves. -/
theorem Used.master {h : HubId} {f : RxFrame} {s t : State} (r : Used h f s t) {m : MasterId}
    (sender : s.params.sourceOf (Frame.sender f.octets) = some (.master m)) (runs : s.hubs[h].bus.integ ≠ .acquire)
    (some_ : Frame.plen f.octets ≠ 0) (warm : Frame.type f.octets ≠ 1) :
    let b := t.hubs[h].bus
    let img := (Frame.imageFor f.octets s.bus.nodeId).or ((s.hubs[h].bus.late[m]).getD s.hubs[h].bus.store[m]).image
    (s.pastSlot h (s.placeOf h f).1 = false → b.store[m].image = img ∧ b.late[m] = none) ∧
      (s.pastSlot h (s.placeOf h f).1 = true → b.store[m] = s.hubs[h].bus.store[m] ∧ (b.late[m]).map (·.image) = some img) := by
  obtain ⟨u, hears, rfl⟩ := r.heard
  generalize (s.placeOf h f).1 = slot
  have images := (u.countRx h 0).usePayload_images h f slot
  have stored : (u.countRx h 0).payloadStored h f slot = ((u.countRx h 0).noteTimes h f.octets).storeRecords h m slot f.octets := by
    have params : (u.countRx h 0).params = s.params := hears.params
    have integ : (u.countRx h 0).hubs[h].bus.integ = s.hubs[h].bus.integ :=
      (congrArg (·.bus.integ) (State.modHub_same ..)).trans hears.integ
    unfold State.payloadStored
    rw [params, sender]
    dsimp only
    rw [if_neg (not_or.2 ⟨by rw [integ]; exact runs, not_or.2 ⟨some_, warm⟩⟩)]
  have past : ((u.countRx h 0).noteTimes h f.octets).pastSlot h slot = s.pastSlot h slot :=
    ((u.countRx h 0).modHub_pastSlot h _ slot ⟨rfl, rfl, rfl⟩).trans ((u.modHub_pastSlot h _ slot ⟨rfl, rfl, rfl⟩).trans (hears.pastSlot slot))
  have bus := (u.countRx h 0).noteTimes_bus h f.octets
  have store : ((u.countRx h 0).noteTimes h f.octets).hubs[h].bus.store = s.hubs[h].bus.store := by
    rw [bus, State.countRx, State.modBus, State.modHub_same]
    exact hears.store
  have late : ((u.countRx h 0).noteTimes h f.octets).hubs[h].bus.late = s.hubs[h].bus.late := by
    rw [bus, State.countRx, State.modBus, State.modHub_same]
    exact hears.late
  have node : ((u.countRx h 0).noteTimes h f.octets).bus.nodeId = s.bus.nodeId := hears.node
  have records := ((u.countRx h 0).noteTimes h f.octets).storeRecords_images h m slot f.octets
  rw [stored] at images
  dsimp only at records ⊢
  rw [past, store, late, node] at records
  have storeEq := congrArg (·.2.1) images
  have lateEq := congrArg (·.2.2) images
  dsimp only [HubBus.images] at storeEq lateEq
  rw [storeEq, lateEq]
  exact records.2

theorem exec_frameReceived {s : State} {h : HubId} {f : RxFrame} (runs : s.mode.mode.runs = true) (up : s.hubs[h].inReset = false)
    (link : s.hubs[h].bus.link = true) : exec (.frameReceived h f) s = .next (s.rxFrame h f) := by
  change Host.Outcome.next (if _ then _ else _) = _
  rw [if_pos (by simp only [runs, up, link]; rfl)]
/-- In a mode without reception, in reset or while its link is down, a hub receives nothing. -/
theorem exec_frameReceived_deaf {s : State} {h : HubId} (f : RxFrame)
    (deaf : s.mode.mode.runs = false ∨ s.hubs[h].inReset = true ∨ s.hubs[h].bus.link = false) : exec (.frameReceived h f) s = .next s := by
  change Host.Outcome.next (if _ then _ else _) = _
  rw [if_neg]
  rcases deaf with e | e | e <;> rw [e] <;> simp

/-! ## Acquisition (R229) -/

/-- A valid frame leaves the hub's place in its set and its images. -/
theorem State.noteValid_counted (s : State) (h : HubId) (f : RxFrame) (slot : Nat) :
    let H := ((s.countRx h 0).noteValid h f slot).hubs[h]
    H.bus.acquired = s.hubs[h].bus.acquired ∧ H.bus.sset = s.hubs[h].bus.sset ∧ H.bus.cycle = s.hubs[h].bus.cycle ∧
      H.time.apGt = s.hubs[h].time.apGt ∧ H.bus.store = s.hubs[h].bus.store := by
  have counted : (s.countRx h 0).hubs[h] = { s.hubs[h] with bus := { s.hubs[h].bus with cnt := s.hubs[h].bus.cnt.judged 0 } } := State.modHub_same ..
  have hears := (s.countRx h 0).noteValid_hears h f slot
  refine ⟨?_, hears.sset.trans ?_, hears.cycle.trans ?_, hears.apGt.trans ?_, hears.store.trans ?_⟩
  · unfold State.noteValid State.modBus
    dsimp only
    rw [State.modHub_same, counted]
  all_goals rw [counted]
/-- What a hub takes from the frame of a sync node. -/
theorem State.acquire_hub (s : State) (h : HubId) (f : RxFrame) (slot : Nat) (gt : BitVec 64) :
    let H := (s.acquire h f slot gt).hubs[h]
    H.bus.acquired = true ∧ H.bus.sset = Frame.sset f.octets ∧ H.bus.cycle = Frame.cycle f.octets ∧ H.time.apGt = gt ∧ ∀ m : MasterId, H.bus.store[m] = {} := by
  unfold State.acquire
  extract_lets o k d s1 b
  have hub : s1.hubs[h] = _ := State.modHub_same s h _
  obtain ⟨acquired, sset, cycle, apGt, store⟩ := State.noteValid_counted { s1 with bus := { b with everAcquired := true } } h f slot
  dsimp only at acquired sset cycle apGt store
  rw [hub] at acquired sset cycle apGt store
  refine ⟨acquired, sset, cycle, apGt, fun m => ?_⟩
  exact (congrArg (fun v : Vector MasterStore 3 => v[m]) store).trans (Vector.getElem_replicate ..)
theorem State.rxFrame_acquires {s : State} {h : HubId} {f : RxFrame} {j : Nat} {gt : BitVec 64} (untimed : s.timed h = false) (ok : rxEarly f = 0)
    (acquires : s.hubs[h].bus.integ = .acquire) (set : setValid s.params s.bus.nodeId (Frame.sset f.octets) = true) (payload : s.params.payloadOk f.octets = true)
    (slot : s.params.slotOf (Frame.sset f.octets) (Frame.sender f.octets) = some j) (sync : s.params.isSync (Frame.sset f.octets) j = true)
    (time : (s.params.timesIn f.octets).head? = some gt) : s.rxFrame h f = s.acquire h f j gt := by
  unfold State.rxFrame State.tryAcquire
  simp only [untimed, ok, acquires, set, payload, slot, sync, time, Bool.false_eq_true, if_false, if_true, Bool.false_and, ne_eq, not_true_eq_false,
    Bool.not_true, or_self]

/-! ## Links and channels (R208, R228) -/

theorem exec_linkUp (h : HubId) (s : State) : exec (.linkUp h) s = .next (s.modHub h fun H => { H with bus := { H.bus with link := true } }) := rfl
theorem exec_linkDown (h : HubId) (s : State) : exec (.linkDown h) s = .next (s.modHub h fun H => { H with bus := { H.bus with link := false } }) := rfl
theorem exec_channelDown (h : HubId) (s : State) : exec (.channelDown h) s =
    .next (if s.mode.mode.runs && !s.hubs[h].inReset && !s.hubs[h].bus.chDown && decide (s.params.chDown ≤ s.hubs[h].bus.silent) then
      (s.modBus h fun b => { b with chDown := true, heardRun := 0 }).fault FaultCode.channelDown [h.val] s.voteMask else s) := rfl
/-- CHANNEL_DOWN has no reaction. -/
theorem State.fault_channelDown (s : State) (h : HubId) (m : LaneMask) : let t := s.fault FaultCode.channelDown [h.val] m
    t.hubs[h].bus = s.hubs[h].bus ∧ (s.stands FaultCode.channelDown [h.val] = false → t.stands FaultCode.channelDown [h.val] = true) ∧ t.fe = s.fe ∧ t.banks = s.banks := by
  unfold State.fault
  extract_lets known t
  have reaction (u : State) : u.reaction FaultCode.channelDown [h.val] m = u := rfl
  by_cases new : known = true
  · have same : t = s := if_pos new
    rw [same]
    refine ⟨rfl, fun no => ?_, rfl, rfl⟩
    obtain ⟨f, mem, cond⟩ := List.any_eq_true.1 new
    simp only [Bool.and_eq_true] at cond
    obtain ⟨named, -⟩ := cond
    exact absurd (List.any_eq_true.2 ⟨f, mem, Bool.and_eq_true_iff.2 named⟩) (by rw [show s.faults.any _ = false from no]; exact Bool.false_ne_true)
  · have raised : t = s.raiseFault FaultCode.channelDown [h.val] m := (if_neg new).trans (reaction _)
    rw [raised]
    exact ⟨HubsButQmem.bus (s.raiseFault_hubs _ _ _ _) h, fun _ => s.raiseFault_stands .., s.raiseFault_fe .., s.raiseFault_banks ..⟩

/-! ## Spare slots (R240, R241) -/

theorem exec_spareSlotClaim (s : State) : exec .spareSlotClaim s = .next (if s.mayClaim && s.bus.claimWait.isNone then
    (match s.bus.emptyTwice.find? fun j => s.bus.emptyTwice.all fun i => decide (j ≤ i) with
    | some j => { s with bus := { s.bus with claimed := some j, emptyOnce := [], emptyTwice := [] } }
    | none => s) else s) := rfl
theorem exec_claimWaitExpiry (s : State) : exec .claimWaitExpiry s = .next (if s.bus.claimWait.any fun c => s.bus.apCycle == c || laterCycle s.bus.apCycle c then
    { s with bus := { s.bus with claimWait := none, emptyOnce := [], emptyTwice := [] } } else s) := rfl
theorem find?_least {xs : List Nat} {j : Nat} (mem : j ∈ xs) (least : ∀ i ∈ xs, j ≤ i) : (xs.find? fun j => xs.all fun i => decide (j ≤ i)) = some j := by
  cases e : xs.find? fun j => xs.all fun i => decide (j ≤ i) with
  | none =>
    have no := List.find?_eq_none.1 e j mem
    exact absurd (List.all_eq_true.2 fun i hi => decide_eq_true (least i hi)) no
  | some x =>
    have xs_le := List.all_eq_true.1 (List.find?_some (p := fun j => xs.all fun i => decide (j ≤ i)) e) j mem
    exact congrArg some (Nat.le_antisymm (of_decide_eq_true xs_le) (least x (List.mem_of_find?_eq_some e)))

end Sys2Proof.Machine

open Sys2Proof Sys2Proof.Machine

/-- Settles O52: a hub judges a frame by what its earlier checks leave alone. -/
theorem framesAreJudgedInOrder : Obligations.FramesAreJudgedInOrder := by
  unfold Obligations.FramesAreJudgedInOrder
  refine ⟨fun h s => ⟨?_, ?_, fun runs up first silent => ?_, fun no => ?_⟩, fun h f s => ⟨exec_frameReceived_deaf f, fun runs up link timed => ?_,
    fun j gt runs up link untimed ok acquires set payload slot sync time => ?_⟩, fun s => ⟨fun no => ?_, fun j may idle mem least => ?_⟩,
    fun s => ⟨fun no => ?_, fun c wait due => ?_⟩⟩
  · exact ⟨_, exec_linkUp h s, ⟨rfl, fun _ other => State.modHub_other _ _ _ _ other⟩, State.modHub_same ..⟩
  · exact ⟨_, exec_linkDown h s, ⟨rfl, fun _ other => State.modHub_other _ _ _ _ other⟩, State.modHub_same ..⟩
  · refine ⟨_, exec_channelDown h s, ?_⟩
    rw [if_pos (by simp only [runs, up, first, silent]; rfl)]
    obtain ⟨bus, stands, fe, banks⟩ := (s.modBus h fun b => { b with chDown := true, heardRun := 0 }).fault_channelDown h s.voteMask
    refine ⟨?_, stands, fe, banks⟩
    rw [bus, State.modBus, State.modHub_same]
  · rw [exec_channelDown, if_neg]
    rcases no with e | e
    · rw [e]
      simp
    · simp only [Bool.and_eq_true, decide_eq_true_eq, not_and, Nat.not_le]
      exact fun _ => e
  · extract_lets k c
    obtain ⟨refused, used⟩ := s.rxFrame_judged h f timed
    refine ⟨_, exec_frameReceived runs up link, ?_, fun bad => ?_, fun m good sender integ some_ warm => ?_⟩
    · have checks : (s.rxFrame h f).hubs[h].bus.cnt.checks = c.checks := by
        by_cases good : k = 0
        · exact (used good).checks.trans (congrArg (fun n => (s.hubs[h].bus.cnt.judged n).checks) good.symm)
        · exact (refused good).result.1
      simpa only [BusCounters.checks, Prod.mk.injEq] using checks
    · exact (refused bad).result.2
    · exact (used good).master sender integ some_ warm
  · refine ⟨_, exec_frameReceived runs up link, ?_⟩
    rw [State.rxFrame_acquires untimed ok acquires set payload slot sync time]
    exact s.acquire_hub h f j gt
  · rw [exec_spareSlotClaim]
    rcases no with e | e | e
    · rw [if_neg (by rw [e]; simp)]
    · rw [if_neg (by simp [e])]
    · rw [e]
      simp
  · rw [exec_spareSlotClaim, if_pos (by rw [may, idle]; rfl), find?_least mem least]
  · rw [exec_claimWaitExpiry, no]
    rfl
  · rw [exec_claimWaitExpiry, if_pos (by simpa [wait] using due)]
end

