-- ==== Sys2Proof/Proofs/FreezeAndSlot.lean ====
section
/-!
PROOFS. The sub-image freeze (R29, R338) and the module's own slot (R215, R220, R222, R234): what a frame's octets read, what the
answers at the freeze say, and the credit limits.
-/

namespace Sys2Proof.Machine

/-! ## Octets (R7) -/

theorem toLe_length (n : Nat) : ∀ v, (toLe n v).length = n := by
  induction n with
  | zero => exact fun _ => rfl
  | succ n ih => exact fun v => congrArg (· + 1) (ih _)
theorem leAt_append_right (n : Nat) : ∀ (as bs : Bytes) (k : Nat), leAt (as ++ bs) (as.length + k) n = leAt bs k n := by
  induction n with
  | zero => exact fun _ _ _ => rfl
  | succ n ih =>
    intro as bs k
    have head : octet (as ++ bs) (as.length + k) = octet bs k := by
      simp [octet, List.getD_eq_getElem?_getD, List.getElem?_append_right]
    rw [leAt, leAt, head, Nat.add_assoc, ih]
theorem leAt_append_left (n : Nat) : ∀ (as bs : Bytes) (k : Nat), k + n ≤ as.length → leAt (as ++ bs) k n = leAt as k n := by
  induction n with
  | zero => exact fun _ _ _ _ => rfl
  | succ n ih =>
    intro as bs k fits
    have head : octet (as ++ bs) k = octet as k := by
      simp [octet, List.getD_eq_getElem?_getD, List.getElem?_append_left (show k < as.length by omega)]
    rw [leAt, leAt, head, ih _ _ _ (by omega)]
theorem leAt_toLe (n : Nat) : ∀ v, leAt (toLe n v) 0 n = v % 256 ^ n := by
  induction n with
  | zero => exact fun v => (Nat.mod_one v).symm
  | succ n ih =>
    intro v
    have tail : leAt (toLe (n + 1) v) 1 n = leAt (toLe n (v / 256)) 0 n := leAt_append_right n [BitVec.ofNat 8 v] _ 0
    change (BitVec.ofNat 8 v).toNat + 256 * leAt (toLe (n + 1) v) 1 n = _
    rw [tail, ih, BitVec.toNat_ofNat, Nat.pow_succ' (m := 256)]
    exact (Nat.mod_mul ..).symm
/-- A value within others is read where it stands. -/
theorem leAt_inside (as bs : Bytes) (n v : Nat) (fits : v < 256 ^ n) : leAt (as ++ (toLe n v ++ bs)) as.length n = v := by
  have right := leAt_append_right n as (toLe n v ++ bs) 0
  rw [Nat.add_zero] at right
  rw [right, leAt_append_left n _ _ _ (by rw [toLe_length]; omega), leAt_toLe, Nat.mod_eq_of_lt fits]
theorem slice_inside (as bs cs : Bytes) : slice (as ++ (bs ++ cs)) as.length bs.length = bs := by
  rw [slice, List.drop_left, List.take_left]

/-! ## The frame (R212) -/

/-- What a frame's header says, and where its payload lies. -/
structure FrameShape (fr : Bytes) (sset : Nat) (cycle : Word) (node type plen mseg : Nat) (payload : Bytes) : Prop where
  fcs : Frame.fcsOk fr = true
  sset : Frame.sset fr = sset % 8
  cycle : Frame.cycle fr = cycle
  sender : Frame.sender fr = node % 64
  type : Frame.type fr = type
  plen : Frame.plen fr = plen
  mseg : Frame.mseg fr = mseg
  content : ∃ hdr fcs, fr = hdr ++ (payload ++ fcs) ∧ hdr.length = 16
theorem State.frameShape (s : State) (type mseg : Nat) (seg : Bytes) (j : Nat) (payload : Bytes) (segs : seg.length = 4) (typed : type < 8)
    (short : payload.length < 65536) (part : mseg < 256) :
    FrameShape (frameOf (s.txHeader type payload.length mseg seg j) payload) s.bus.sset s.bus.apCycle s.bus.nodeId type payload.length mseg payload := by
  generalize hfr : frameOf (s.txHeader type payload.length mseg seg j) payload = fr
  have content : fr = s.txHeader type payload.length mseg seg j ++ (payload ++ toLe 4 (crc32 (s.txHeader type payload.length mseg seg j ++ payload)).toNat) := by
    rw [← hfr, frameOf, List.append_assoc]
  have size : (s.txHeader type payload.length mseg seg j).length = 16 := by simp [State.txHeader, toLe_length, segs]
  have sset : Frame.sset fr = leAt (toLe 1 (16 + s.bus.sset % 8)) 0 1 % 8 := by rw [content]; rfl
  have cycle : Frame.cycle fr = BitVec.ofNat 16 (leAt (toLe 2 s.bus.apCycle.toNat) 0 2) := by rw [content]; rfl
  have sender : Frame.sender fr = leAt (toLe 1 (s.bus.nodeId % 64)) 0 1 % 64 := by rw [content]; rfl
  have typeAt : Frame.type fr = leAt (toLe 1 type) 0 1 % 8 := by rw [content]; rfl
  have plen : Frame.plen fr = leAt (toLe 2 payload.length) 0 2 := by rw [content]; rfl
  have msegAt : Frame.mseg fr = leAt (toLe 1 mseg) 0 1 := by rw [content]; rfl
  rw [leAt_toLe] at sset cycle sender typeAt plen msegAt
  rw [Nat.mod_eq_of_lt (show payload.length < 256 ^ 2 by omega)] at plen
  refine ⟨?_, by omega, ?_, by omega, by omega, plen, by omega, _, _, content, size⟩
  · have all : 16 + payload.length = (s.txHeader type payload.length mseg seg j ++ payload).length := by rw [List.length_append, size]
    rw [Frame.fcsOk, plen, all, ← hfr, frameOf, slice, List.drop_left, List.take_left]
    exact beq_self_eq_true _
  · rw [cycle, Nat.mod_eq_of_lt (by simpa using s.bus.apCycle.isLt)]
    exact BitVec.ofNat_toNat ..

/-! ## What a frame carries on the line -/

theorem State.transmit_sends (s : State) (who : HubState → Bool) (fr : Bytes) : (s.transmit who fr).bus.sent = true ∧
    ∀ h : HubId, s.hubs[h].bus.link = true → who s.hubs[h] = true →
      (s.transmit who fr).hubs[h].bus.tx = fr ∧ (s.transmit who fr).hubs[h].bus.cnt.txFrames = s.hubs[h].bus.cnt.txFrames + 1 := by
  refine ⟨rfl, fun h link sends => ?_⟩
  have hub : (s.transmit who fr).hubs[h] = { s.hubs[h] with bus := { s.hubs[h].bus with tx := fr, cnt := { s.hubs[h].bus.cnt with txFrames := s.hubs[h].bus.cnt.txFrames + 1 } } } :=
    (State.modHubs_at ..).trans (if_pos (by rw [link, sends]; rfl))
  rw [hub]
  exact ⟨rfl, rfl⟩
/-- A frame stands sent, on what the hubs hold of the bus. -/
structure SentKept (s t : State) : Prop where
  sent : t.bus.sent = s.bus.sent
  hub : ∀ h : HubId, t.hubs[h].bus = s.hubs[h].bus
theorem SentKept.refl (s : State) : SentKept s s := ⟨rfl, fun _ => rfl⟩
theorem SentKept.trans {s t u : State} (a : SentKept s t) (b : SentKept t u) : SentKept s u :=
  ⟨b.sent.trans a.sent, fun h => (b.hub h).trans (a.hub h)⟩
theorem State.segSent_sent (s : State) (x : OutSeg) : SentKept s (s.segSent x) := by
  unfold State.segSent
  dsimp only
  split
  · split <;> exact ⟨rfl, fun _ => rfl⟩
  · exact ⟨rfl, fun _ => rfl⟩
theorem State.changeAnswer_sent (s : State) (node : Nat) (b : Bytes) : SentKept s (s.changeAnswer node b) := by
  unfold State.changeAnswer
  split
  · exact .refl s
  · split
    · exact .refl s
    · split
      · refine SentKept.trans (t := { s with bus := { s.bus with change := none } }) ⟨rfl, fun _ => rfl⟩ ?_
        unfold State.cancelChange
        exact ⟨by rw [State.note_bus], fun h => HubsButQmem.bus (State.note_hubs _ _ _ _ _ _) h⟩
      · exact ⟨rfl, fun _ => rfl⟩

/-! ## The cyclic part (R220) -/

/-- What a lane has written into the frame. -/
def subOrFill (subs : Vector (Option Bytes) 3) (l : LaneId) : Bytes := (subs[l]).getD (List.replicate 96 0xFF)
theorem subOrFill_length {subs : Vector (Option Bytes) 3} (coded : ∀ (l : LaneId) (b : Bytes), subs[l] = some b → b.length = 96) (l : LaneId) :
    (subOrFill subs l).length = 96 := by
  unfold subOrFill
  cases e : subs[l] with
  | none => exact List.length_replicate
  | some b => exact coded l b e
/-- What follows the sub-images, up to the time. -/
def State.cyclicMiddle (s : State) : Bytes := (segRings.map fun q => s.mail.rings[q].limit) ++ toLe 1 (min 255 (s.bus.int + 1)) ++ toLe 2 s.mode.bootShown.toNat
theorem State.cyclicPart_eq (s : State) (subs : Vector (Option Bytes) 3) : s.cyclicPart subs =
    subOrFill subs 0 ++ (subOrFill subs 1 ++ (subOrFill subs 2 ++ (s.cyclicMiddle ++ (toLe 8 s.hubs[s.gtHub].time.apGt.toNat ++ [])))) := by
  have lanes : (allLanes.flatMap fun l => (subs[l]).getD (List.replicate 96 0xFF)) = subOrFill subs 0 ++ (subOrFill subs 1 ++ (subOrFill subs 2 ++ [])) := rfl
  unfold State.cyclicPart State.cyclicMiddle
  rw [lanes]
  simp only [List.append_assoc, List.append_nil]
section
variable (s : State) {subs : Vector (Option Bytes) 3} (coded : ∀ (l : LaneId) (b : Bytes), subs[l] = some b → b.length = 96)
include coded

theorem State.cyclicPart_length : (s.cyclicPart subs).length = 304 := by
  rw [s.cyclicPart_eq]
  simp [subOrFill_length coded, State.cyclicMiddle, toLe_length, segRings]
theorem State.cyclicPart_sub (l : LaneId) : slice (s.cyclicPart subs) (96 * l.val) 96 = subOrFill subs l := by
  have size := subOrFill_length coded
  rw [s.cyclicPart_eq]
  fin_cases l
  · have at_ := slice_inside [] (subOrFill subs 0) (subOrFill subs 1 ++ (subOrFill subs 2 ++ (s.cyclicMiddle ++ (toLe 8 s.hubs[s.gtHub].time.apGt.toNat ++ []))))
    rw [size] at at_
    exact at_
  · have at_ := slice_inside (subOrFill subs 0) (subOrFill subs 1) (subOrFill subs 2 ++ (s.cyclicMiddle ++ (toLe 8 s.hubs[s.gtHub].time.apGt.toNat ++ [])))
    rw [size, size] at at_
    exact at_
  · have at_ := slice_inside (subOrFill subs 0 ++ subOrFill subs 1) (subOrFill subs 2) (s.cyclicMiddle ++ (toLe 8 s.hubs[s.gtHub].time.apGt.toNat ++ []))
    rw [List.length_append, size, size, size, List.append_assoc] at at_
    exact at_
theorem State.cyclicPart_time : leAt (s.cyclicPart subs) 296 8 = s.hubs[s.gtHub].time.apGt.toNat := by
  have size := subOrFill_length coded
  have at_ := leAt_inside (subOrFill subs 0 ++ (subOrFill subs 1 ++ (subOrFill subs 2 ++ s.cyclicMiddle))) [] 8 s.hubs[s.gtHub].time.apGt.toNat
    s.hubs[s.gtHub].time.apGt.isLt
  have before : (subOrFill subs 0 ++ (subOrFill subs 1 ++ (subOrFill subs 2 ++ s.cyclicMiddle))).length = 296 := by
    simp [size, State.cyclicMiddle, toLe_length, segRings]
  rw [before] at at_
  rw [s.cyclicPart_eq]
  simpa only [List.append_assoc] using at_

end

/-! ## The frames of the module's slot -/

/-- A frame as every channel that can send it carries it. -/
structure SlotSent (s : State) (who : HubState → Bool) (fr : Bytes) (t : State) : Prop where
  sent : t.bus.sent = true
  hub : ∀ h : HubId, s.hubs[h].bus.link = true → who s.hubs[h] = true →
    t.hubs[h].bus.tx = fr ∧ t.hubs[h].bus.cnt.txFrames = s.hubs[h].bus.cnt.txFrames + 1
theorem SlotSent.transmit (s : State) (b : ModuleBus) (who : HubState → Bool) (fr : Bytes) :
    SlotSent s who fr (({ s with bus := b } : State).transmit who fr) := by
  obtain ⟨sent, hub⟩ := State.transmit_sends { s with bus := b } who fr
  exact ⟨sent, hub⟩
theorem SlotSent.keep {s t u : State} {who : HubState → Bool} {fr : Bytes} (a : SlotSent s who fr t) (k : SentKept t u) : SlotSent s who fr u :=
  ⟨k.sent.trans a.sent, fun h link sends => by rw [k.hub h]; exact a.hub h link sends⟩
/-- The null frame. -/
theorem State.sendData_null (s : State) (j : Nat) (none_ : (s.hubs[s.gtHub].bus.sub).all (·.isNone) = true) :
    ∃ fr, SlotSent s HubState.sends fr (s.sendData j) ∧ FrameShape fr s.bus.sset s.bus.apCycle s.bus.nodeId 0 0 0 [] := by
  unfold State.sendData
  dsimp only
  rw [if_pos none_]
  exact ⟨_, .transmit s _ _ _, s.frameShape 0 0 (toLe 4 0) j [] (toLe_length 4 0) (by decide) (by decide) (by decide)⟩
theorem OutSeg.octets_length (x : OutSeg) : x.octets.length ≤ 128 := by
  rw [OutSeg.octets, List.length_take]
  omega
theorem State.segFields_length (s : State) (x : Option OutSeg) : (s.segFields x).length = 4 := by
  cases x <;> simp [State.segFields, toLe_length]
/-- The data frame: a block where one is to be sent, the cyclic part, and a segment. -/
theorem State.sendData_data (s : State) (j : Nat) (some_ : ¬(s.hubs[s.gtHub].bus.sub).all (·.isNone) = true)
    (blocks : ∀ b ∈ s.bus.answers, b.length = 8) (size : (s.cyclicPart s.hubs[s.gtHub].bus.sub).length = 304) :
    ∃ fr blk seg type, SlotSent s HubState.sends fr (s.sendData j) ∧ (blk.length = if type = 3 then 8 else 0) ∧
      FrameShape fr s.bus.sset s.bus.apCycle s.bus.nodeId type (blk.length + 304 + seg.length) seg.length (blk ++ s.cyclicPart s.hubs[s.gtHub].bus.sub ++ seg) := by
  unfold State.sendData
  extract_lets subs b s0 blk cyc base seg sb hdr s1 s2
  rw [if_neg some_]
  have short : sb.length ≤ 128 := by
    unfold sb
    cases seg with
    | none => exact Nat.zero_le _
    | some x => exact x.octets_length
  have block : blk.length = if (if blk.isEmpty then 2 else 3) = 3 then 8 else 0 := by
    unfold blk
    cases e : s.bus.answers with
    | nil => rfl
    | cons b bs =>
      have eight := blocks b (by rw [e]; exact List.mem_cons_self)
      have full : b.isEmpty = false := by
        rw [List.isEmpty_eq_false_iff_exists_mem]
        exact List.exists_mem_of_length_pos (by omega)
      simp only [List.head?_cons, Option.getD_some, full, eight, Bool.false_eq_true, if_false, if_true]
  have total : (blk ++ cyc ++ sb).length = blk.length + 304 + sb.length := by
    rw [List.length_append, List.length_append, size]
  have fits : blk.length ≤ 8 := by
    rw [block]
    split <;> decide
  have shape := s.frameShape (if blk.isEmpty then 2 else 3) sb.length (s.segFields seg) j (blk ++ cyc ++ sb) (s.segFields_length seg)
    (by split <;> decide) (by omega) (by omega)
  have same : hdr = s.txHeader (if blk.isEmpty then 2 else 3) (blk ++ cyc ++ sb).length sb.length (s.segFields seg) j := by
    rw [total]
    unfold hdr base
    rw [size]
  rw [← same, total] at shape
  refine ⟨_, blk, sb, _, ?_, block, shape⟩
  have first : SlotSent s HubState.sends (frameOf hdr (blk ++ cyc ++ sb)) s1 := .transmit s _ _ _
  clear_value s1 hdr
  have second : SlotSent s HubState.sends (frameOf hdr (blk ++ cyc ++ sb)) s2 := by
    unfold s2
    cases seg with
    | none => exact first
    | some x => exact first.keep (s1.segSent_sent x)
  clear_value s2
  split
  · exact second
  · exact second.keep (s2.changeAnswer_sent _ _)
/-- The cold-start frame (R234). -/
theorem State.sendCold_frame (s : State) (j : Nat) : ∃ fr rest, SlotSent s HubState.alive fr (s.sendCold j) ∧
    FrameShape fr s.bus.sset s.bus.apCycle s.bus.nodeId 1 16 0 (toLe 8 s.bus.apGt.toNat ++ (toLe 1 (min 255 (s.bus.csAttempt + 1)) ++ rest)) := by
  have shape := s.frameShape 1 0 (toLe 4 0) j (toLe 8 s.bus.apGt.toNat ++ (toLe 1 (min 255 (s.bus.csAttempt + 1)) ++ toLe 7 0)) (toLe_length 4 0)
    (by decide) (by simp [toLe_length]) (by decide)
  refine ⟨_, toLe 7 0, ?_, shape⟩
  unfold State.sendCold
  dsimp only
  rw [List.append_assoc]
  exact .transmit s _ _ _

/-! ## What the answers at a freeze depend on (R338) -/

/-- Two states agree but in the sub-images that the lanes and the hubs hold. -/
structure SubImagesOnly (s t : State) : Prop where
  rest : t = { s with lanes := t.lanes, hubs := t.hubs }
  lane : ∀ l : LaneId, t.lanes[l] = { s.lanes[l] with subImage := t.lanes[l].subImage }
  hub : ∀ h : HubId, t.hubs[h] = { s.hubs[h] with bus := t.hubs[h].bus }

/-- The coded sub-image that a lane writes at a freeze, if it writes one. -/
def State.written (s : State) (l : LaneId) : Option Bytes := if s.active l || s.lanes[l].st == .resting then some (s.subImage l) else none
theorem State.freezeImages_hub (s : State) (h : HubId) : (s.hubs[h].inReset = true → s.freezeImages.hubs[h] = s.hubs[h]) ∧
    (s.hubs[h].inReset = false → s.freezeImages.hubs[h] = { s.hubs[h] with bus := { s.hubs[h].bus with sub := Vector.ofFn s.written } }) := by
  have hub : s.freezeImages.hubs[h] = if s.hubs[h].inReset then s.hubs[h] else { s.hubs[h] with bus := { s.hubs[h].bus with sub := Vector.ofFn s.written } } :=
    State.modHubs_at ..
  exact ⟨fun e => hub.trans (if_pos e), fun e => hub.trans (if_neg (by rw [e]; exact Bool.false_ne_true))⟩
theorem State.freezeImages_sub (s : State) : SubImagesOnly s s.freezeImages := by
  refine ⟨rfl, fun l => ?_, fun h => ?_⟩
  · rw [show s.freezeImages.lanes[l] = { s.lanes[l] with subImage := s.written l } from
      State.modLanes_at s (fun l L => { L with subImage := s.written l }) l]
  · obtain ⟨reset, up⟩ := s.freezeImages_hub h
    cases e : s.hubs[h].inReset with
    | true => rw [reset e]
    | false => rw [up e]

namespace SubImagesOnly

section
variable {s t : State} (a : SubImagesOnly s t)
include a

theorem active (l : LaneId) : t.active l = s.active l := by rw [State.active, a.lane]; rfl
theorem activeLanes : t.activeLanes = s.activeLanes := congrArg allLanes.filter (funext a.active)
theorem voteMask : t.voteMask = s.voteMask := congrArg maskOf (funext a.active)
theorem supplier : t.supplier = s.supplier := congrArg List.head? a.activeLanes
theorem now : t.now = s.now := by rw [a.rest]
theorem mode : t.mode = s.mode := by rw [a.rest]
theorem groups : t.groups = s.groups := by rw [a.rest]
theorem fe : t.fe = s.fe := by rw [a.rest]
theorem banks : t.banks = s.banks := by rw [a.rest]
theorem tests : t.tests = s.tests := by rw [a.rest]
theorem bus : t.bus = s.bus := by rw [a.rest]
theorem faults : t.faults = s.faults := by rw [a.rest]
theorem mail : t.mail = s.mail := by rw [a.rest]
theorem params : t.params = s.params := by rw [a.rest]; rfl
theorem lampParams : t.lampParams = s.lampParams := by rw [a.rest]; rfl
theorem stands (code : Nat) (items : List Nat) : t.stands code items = s.stands code items := by rw [State.stands, a.faults]; rfl
theorem anyStands (code : Nat) : t.anyStands code = s.anyStands code := by rw [State.anyStands, a.faults]; rfl
theorem groupOctet (l : LaneId) (g : GroupId) : t.groupOctet l g = s.groupOctet l g := by
  unfold State.groupOctet
  dsimp only
  rw [a.lane, a.groups, a.params]
theorem hubsOctet : t.hubsOctet = s.hubsOctet := by
  have up : t.mailUp = s.mailUp := by
    unfold State.mailUp
    rw [a.hub, a.mail, a.mode]
  unfold State.hubsOctet
  rw [up, a.mail, a.hub 0, a.hub 1, a.anyStands, a.anyStands]
theorem isOn (l : LaneId) (c : Chan) : t.isOn l c = s.isOn l c := by rw [State.isOn, a.lane]; rfl
theorem unavailable (l : LaneId) (g : GroupId) : t.unavailable l g = s.unavailable l g := by rw [State.unavailable, a.lane, a.fe, a.groups]; rfl
theorem coldProof (l : LaneId) (c : Chan) : t.coldProof l c = s.coldProof l c := by
  unfold State.coldProof
  dsimp only
  rw [a.lane, a.groups, a.stands, a.stands, a.now, a.lampParams]
theorem chanCode (l : LaneId) (c : Chan) : t.chanCode l c = s.chanCode l c := by
  unfold State.chanCode State.chanConds
  dsimp only
  rw [a.unavailable, a.isOn, a.coldProof, a.lampParams, a.lane, a.groups]
theorem votedChan (c : Chan) : t.votedChan c = s.votedChan c := by
  unfold State.votedChan
  simp only [a.activeLanes, a.chanCode]
theorem lampEntry (l : LaneId) (c : Chan) : t.lampEntry l c = s.lampEntry l c := by
  have cause (k : Nat) : t.causeRead l c k = s.causeRead l c k := by
    unfold State.causeRead State.causeOf
    dsimp only
    rw [a.lane]
  have held : t.heldOctet l c = s.heldOctet l c := by
    unfold State.heldOctet
    dsimp only
    rw [a.lane]
  unfold State.lampEntry
  dsimp only
  rw [a.votedChan, cause, held, a.lane, a.tests, a.now]
theorem pointCode (l : LaneId) (p : Point) : t.pointCode l p = s.pointCode l p := by
  unfold State.pointCode State.pointConds
  dsimp only
  rw [a.lampParams, a.lane, a.banks]
theorem inputState (l : LaneId) (p : Point) : t.inputState l p = s.inputState l p := by
  unfold State.inputState
  rw [a.lane, a.banks]
theorem fieldOctets (l : LaneId) : t.fieldOctets l = s.fieldOctets l := by
  unfold State.fieldOctets State.pointOctets
  simp only [a.pointCode, a.inputState, a.lampParams, a.banks]
  rw [a.lane]
theorem lampReadOctets (l : LaneId) (first count : Nat) : t.lampReadOctets l first count = s.lampReadOctets l first count := by
  unfold State.lampReadOctets
  rw [show t.lampEntry l = s.lampEntry l from funext (a.lampEntry l)]
theorem statusOctets (l : LaneId) : t.statusOctets l = s.statusOctets l := by
  have resting (k : LaneId) : (t.lanes[k].st == .resting) = (s.lanes[k].st == .resting) := by rw [a.lane]
  have lc : t.lcCode = s.lcCode := by rw [State.lcCode, a.mode]; rfl
  have up : t.uptime = s.uptime := by rw [State.uptime, a.mode, a.now]; rfl
  unfold State.statusOctets
  simp only [a.mode, a.voteMask, a.supplier, a.hubsOctet, a.bus, a.groupOctet, a.faults, resting, lc, up]
  rw [a.lane]
theorem faultOctets (first : Nat) : t.faultOctets first = s.faultOctets first := by
  unfold State.faultOctets
  rw [a.faults]
/-- What a lane answers at a freeze does not depend on the sub-images. -/
theorem freezeReply (x : Txn) (l : LaneId) : t.freezeReply x l = s.freezeReply x l := by
  unfold State.freezeReply
  simp only [a.statusOctets, a.faultOctets, a.lampReadOctets, a.fieldOctets]
theorem allStarted (x : Txn) : t.allStarted x = s.allStarted x := by rw [State.allStarted, a.voteMask]; rfl

end
end SubImagesOnly

/-! ## What the reports of codes leave in the mailbox path -/

/-- Transactions, and the rings but the event ring, are the same. -/
def MailKept (s t : State) : Prop := t.mail.txns = s.mail.txns ∧ t.upd = s.upd ∧ ∀ q : RingId, q ≠ 11 → t.mail.rings[q] = s.mail.rings[q]

namespace MailKept

theorem refl (s : State) : MailKept s s := ⟨rfl, rfl, fun _ _ => rfl⟩
theorem trans {s t u : State} (a : MailKept s t) (b : MailKept t u) : MailKept s u :=
  ⟨b.1.trans a.1, b.2.1.trans a.2.1, fun q other => (b.2.2 q other).trans (a.2.2 q other)⟩
theorem each {α : Type} {f : State → α → State} (xs : List α) (hf : ∀ u x, MailKept u (f u x)) (s : State) : MailKept s (s.each xs f) :=
  ⟨each_field (·.mail.txns) xs (fun u x _ => (hf u x).1) s, each_field (·.upd) xs (fun u x _ => (hf u x).2.1) s,
    fun q other => each_field (·.mail.rings[q]) xs (fun u x _ => (hf u x).2.2 q other) s⟩
theorem modRing (s : State) (f : Ring → Ring) : MailKept s (s.modRing 11 f) := ⟨rfl, rfl, fun _ other => State.modRing_other _ _ _ _ other⟩
theorem post (s : State) (op : Nat) (p : Bytes) : MailKept s (s.post 11 op p) := by
  have placed (m : OutMsg) : MailKept s (s.placeMsg 11 m) := modRing (s.putMsg 11 m.octets) _
  unfold State.post
  extract_lets ds r m
  split
  · refine MailKept.trans ?_ (modRing _ _)
    split
    · exact placed m
    · exact refl s
  · split
    · exact (placed m).trans (modRing _ _)
    · split
      · exact modRing _ _
      · exact modRing _ _
theorem event (s : State) (code kind lane : Nat) (sc d : Bytes) : MailKept s (s.event code kind lane sc d) := post (s.logRec _) _ _
theorem noteChan (s : State) (l : LaneId) (c : Chan) : MailKept s (s.noteChan l c) := by
  unfold State.noteChan
  extract_lets k a s0 s1
  split
  · exact refl s
  · split
    · exact MailKept.trans (t := s1) ⟨rfl, rfl, fun _ _ => rfl⟩ (event ..)
    · exact ⟨rfl, rfl, fun _ _ => rfl⟩
theorem notePoint (s : State) (l : LaneId) (p : Point) : MailKept s (s.notePoint l p) := by
  unfold State.notePoint
  extract_lets k s1
  split
  · exact refl s
  · split
    · exact MailKept.trans (t := s1) ⟨rfl, rfl, fun _ _ => rfl⟩ (event ..)
    · exact ⟨rfl, rfl, fun _ _ => rfl⟩
theorem noteAll (s : State) : MailKept s s.noteAll :=
  each _ (fun u l => (each _ (fun v c => noteChan v l c) u).trans (each _ (fun v p => notePoint v l p) _)) s

end MailKept

/-! ## The credit limits (R244) -/

/-- The credit limit of a ring: the sequence number expected, and its free entries. -/
def State.creditLimit (s : State) (q : RingId) : Byte := s.expMseq q + BitVec.ofNat 8 s.mail.rings[q].free
/-- Two states agree in the rings but for the credit limits. -/
def LimitsOnly (s t : State) : Prop := t.upd = s.upd ∧ ∀ q : RingId, t.mail.rings[q] = { s.mail.rings[q] with limit := t.mail.rings[q].limit }
theorem LimitsOnly.creditLimit {s t : State} (a : LimitsOnly s t) (q : RingId) : t.creditLimit q = s.creditLimit q := by
  obtain ⟨upd, ring⟩ := a
  have seq (k : RingId) : t.mail.rings[k].expMseq = s.mail.rings[k].expMseq := by rw [ring k]
  have exp : t.expMseq q = s.expMseq q := by
    unfold State.expMseq
    simp only [upd, seq]
  have free : t.mail.rings[q].free = s.mail.rings[q].free := by
    rw [ring q]
    rfl
  rw [State.creditLimit, exp, free]
  rfl
theorem LimitsOnly.modRing {s t : State} (a : LimitsOnly s t) (q : RingId) (v : Byte) : LimitsOnly s (t.modRing q fun r => { r with limit := v }) := by
  refine ⟨a.1, fun k => ?_⟩
  by_cases e : k = q
  · subst e
    rw [State.modRing_same, a.2 k]
  · rw [State.modRing_other _ _ _ _ e]
    exact a.2 k
/-- The limits of some rings are taken one by one; none depends on another. -/
theorem LimitsOnly.each {s : State} (qs : List RingId) : ∀ {t : State}, LimitsOnly s t → ∀ q, q ∈ qs ∨ t.mail.rings[q].limit = s.creditLimit q →
    (t.each qs fun s q => s.modRing q fun r => { r with limit := s.expMseq q + BitVec.ofNat 8 r.free }).mail.rings[q].limit = s.creditLimit q := by
  unfold State.each
  induction qs with
  | nil => exact fun _ q done => done.resolve_left (List.not_mem_nil)
  | cons x qs ih =>
    intro t a q done
    have step : (t.modRing x fun r => { r with limit := t.expMseq x + BitVec.ofNat 8 r.free }) = t.modRing x fun r => { r with limit := s.creditLimit x } := by
      rw [← a.creditLimit x]
      rfl
    rw [List.foldl_cons, step]
    refine ih (a.modRing x _) q ?_
    by_cases e : q = x
    · subst e
      exact .inr (by rw [State.modRing_same])
    · rw [State.modRing_other _ _ _ _ e]
      rcases done with mem | done
      · exact .inl ((List.mem_cons.1 mem).resolve_left e)
      · exact .inr done
theorem State.freezeLimits_limit (s : State) {q : RingId} (mem : q ∈ segRings) : s.freezeLimits.mail.rings[q].limit = s.creditLimit q :=
  LimitsOnly.each segRings ⟨rfl, fun _ => rfl⟩ q (.inl mem)

/-! ## The answers -/

theorem State.modTxn_same {s : State} {x : Txn} (mem : x ∈ s.mail.txns) (f : Txn → Txn) : f x ∈ (s.modTxn x.num f).mail.txns :=
  List.mem_map.2 ⟨x, mem, if_pos (beq_self_eq_true _)⟩
theorem State.modTxn_other {s : State} {y : Txn} (mem : y ∈ s.mail.txns) {n : Nat} (other : y.num ≠ n) (f : Txn → Txn) : y ∈ (s.modTxn n f).mail.txns :=
  List.mem_map.2 ⟨y, mem, if_neg (by simpa using other)⟩
theorem State.each_modTxn_other (g : Txn → Txn → Txn) (y : Txn) (xs : List Txn) : ∀ {s : State}, y ∈ s.mail.txns → (∀ x ∈ xs, y.num ≠ x.num) →
    y ∈ (s.each xs fun u x => u.modTxn x.num (g x)).mail.txns := by
  unfold State.each
  induction xs with
  | nil => exact fun mem _ => mem
  | cons x xs ih =>
    exact fun mem other => ih (State.modTxn_other mem (other x List.mem_cons_self) _) fun z hz => other z (List.mem_cons_of_mem _ hz)
/-- Each of some transactions changes once. -/
theorem State.each_modTxn (g : Txn → Txn → Txn) (same : ∀ x, (g x x).num = x.num) {x : Txn} (xs : List Txn) : ∀ {s : State}, x ∈ s.mail.txns → x ∈ xs →
    (xs.map (·.num)).Nodup → g x x ∈ (s.each xs fun u x => u.modTxn x.num (g x)).mail.txns := by
  induction xs with
  | nil => exact fun _ mem => absurd mem List.not_mem_nil
  | cons z xs ih =>
    intro s there mem distinct
    obtain ⟨fresh, distinct⟩ := List.nodup_cons.1 distinct
    have others (y : Txn) (hy : y ∈ xs) : z.num ≠ y.num := fun e => fresh (List.mem_map.2 ⟨y, hy, e.symm⟩)
    rcases List.mem_cons.1 mem with rfl | mem
    · exact State.each_modTxn_other g (g x x) xs (s := s.modTxn x.num (g x)) (State.modTxn_same there _) fun y hy => by rw [same]; exact others y hy
    · exact ih (s := s.modTxn z.num (g z)) (State.modTxn_other there (others x mem).symm _) mem distinct
/-- Whether an opcode answers at a freeze. -/
theorem State.freezeReply_answers (s : State) (x : Txn) (l : LaneId) :
    (s.freezeReply x l).isSome = [0x0002, 0x0003, 0x0200, 0x0600].contains (msgOp x.octets) := by
  unfold State.freezeReply
  dsimp only
  split
  case h_5 status list lamps field =>
    simp only [List.contains_eq_mem, List.mem_cons, List.not_mem_nil, or_false, Option.isSome_none]
    exact (decide_eq_false fun e => e.elim status fun e => e.elim list fun e => e.elim lamps field).symm
  all_goals simp [*]
theorem State.freezeReply_isSome (s t : State) (x : Txn) (l k : LaneId) : (s.freezeReply x l).isSome = (t.freezeReply x k).isSome :=
  (s.freezeReply_answers x l).trans (t.freezeReply_answers x k).symm
/-- A transaction whose answer waits for the freeze is answered. -/
theorem State.answerFrozen_answers (s : State) (distinct : (s.mail.txns.map (·.num)).Nodup) {x : Txn} (mem : x ∈ s.mail.txns) (judged : x.judged = true)
    (pending : x.outcome = none) (started : s.allStarted x = true) (freezes : (s.freezeReply x 0).isSome = true) :
    ∃ y ∈ s.answerFrozen.mail.txns, y.num = x.num ∧ y.octets = x.octets ∧ y.outcome.isSome = true ∧
      ∀ l : LaneId, has x.started l = true → x.replies[l] = none → y.replies[l] = s.freezeReply x l := by
  refine ⟨_, State.each_modTxn (fun t x => { (x.reply s.now fun l => (s.freezeReply t l).getD (plain 0)) with outcome := s.freezeReply t ((s.supplier).getD 0) })
    (fun _ => rfl) _ mem (List.mem_filter.2 ⟨mem, by simp only [judged, pending, started, freezes]; rfl⟩) (distinct.sublist ((List.filter_sublist).map _)),
    rfl, rfl, ?_, fun l has_ none_ => ?_⟩
  · exact (s.freezeReply_isSome s x _ 0).trans freezes
  · obtain ⟨r, reply⟩ := Option.isSome_iff_exists.1 ((s.freezeReply_isSome s x l 0).trans freezes)
    have given : (x.reply s.now fun l => (s.freezeReply x l).getD (plain 0)).replies[l] = some ((s.freezeReply x l).getD (plain 0)) := by
      rw [Txn.reply]
      dsimp only
      rw [Fin.getElem_fin, Vector.getElem_ofFn]
      exact if_pos (by rw [has_, none_]; rfl)
    rw [given, reply]
    rfl
theorem State.answerFrozen_rest (s : State) : s.answerFrozen.mode = s.mode ∧ s.answerFrozen.hubs = s.hubs ∧ s.answerFrozen.upd = s.upd ∧
    s.answerFrozen.mail.rings = s.mail.rings := by
  unfold State.answerFrozen
  refine ⟨each_field (·.mode) _ ?_ s, each_field (·.hubs) _ ?_ s, each_field (·.upd) _ ?_ s, each_field (·.mail.rings) _ ?_ s⟩ <;>
    exact fun _ _ _ => rfl
theorem State.freezeLimits_rest (s : State) : s.freezeLimits.mode = s.mode ∧ s.freezeLimits.hubs = s.hubs ∧ s.freezeLimits.mail.txns = s.mail.txns := by
  unfold State.freezeLimits
  refine ⟨each_field (·.mode) _ ?_ s, each_field (·.hubs) _ ?_ s, each_field (·.mail.txns) _ ?_ s⟩ <;>
    exact fun _ _ _ => rfl

/-! ## The freeze -/

/-- The state in which the sub-images are taken. -/
def State.frozenNow (s : State) : State := s.decideGroups.noteAll
/-- The freeze of this cycle has been. -/
def State.markFrozen (s : State) : State := { s with mode := { s.mode with frozen := true } }
/-- The state after the freeze. -/
def State.frozen (s : State) : State := s.frozenNow.freezeImages.answerFrozen.freezeLimits.markFrozen
theorem State.markFrozen_rest (s : State) : s.markFrozen.hubs = s.hubs ∧ s.markFrozen.mail = s.mail ∧ s.markFrozen.mode = { s.mode with frozen := true } :=
  ⟨rfl, rfl, rfl⟩
theorem exec_subImageFreeze (s : State) : exec .subImageFreeze s = .next (if s.freezeDue then s.frozen else s) := rfl
theorem State.frozenNow_kept (s : State) : OutputsKept s s.frozenNow := (OutputsKept.refl s).decideGroups.noteAll
theorem State.frozenNow_mail (s : State) : MailKept s s.frozenNow := MailKept.noteAll s.decideGroups
theorem State.frozenNow_reported (s : State) : Reported s.decideGroups s.frozenNow := Reported.noteAll _
theorem State.frozenNow_bus (s : State) : s.frozenNow.bus = s.bus := by rw [s.frozenNow_reported.rest]; rfl
theorem State.frozenNow_mode (s : State) : s.frozenNow.mode = s.mode := by rw [s.frozenNow_reported.rest]; rfl
theorem State.frozenNow_inReset (s : State) (h : HubId) : s.frozenNow.hubs[h].inReset = s.hubs[h].inReset := by rw [s.frozenNow_reported.hub h]; rfl
theorem State.frozenNow_slotEcn (s : State) : s.frozenNow.slotEcn = s.slotEcn := by
  have early : s.frozenNow.earlySlot = s.earlySlot := by
    unfold State.earlySlot State.slotInUse
    rw [s.frozenNow_kept.params, s.frozenNow_bus]
  unfold State.slotEcn State.tCyc State.ecn
  rw [early, s.frozenNow_kept.params, s.frozenNow_bus]
/-- What a lane writes at the freeze. -/
theorem State.frozenNow_written (s : State) (l : LaneId) : s.frozenNow.written l = if s.active l = true ∨ s.lanes[l].st = .resting then
    some (s.frozenNow.subOctets l ++ scode (implicit 3 s.bus.nodeId 0xFE l.val s.slotEcn) (s.frozenNow.subOctets l)) else none := by
  have st : s.frozenNow.lanes[l].st = s.lanes[l].st := congrArg (·.1) (s.frozenNow_kept.lane l)
  unfold State.written State.subImage
  rw [s.frozenNow_kept.active, st, s.frozenNow_slotEcn, s.frozenNow_bus]
  simp only [Bool.or_eq_true, beq_iff_eq]
/-- The freeze leaves what the lanes have written in the hubs. -/
theorem State.frozen_hubs (s : State) : s.frozen.hubs = s.frozenNow.freezeImages.hubs := by
  rw [State.frozen]
  generalize s.frozenNow.freezeImages = u
  obtain ⟨marked, -⟩ := u.answerFrozen.freezeLimits.markFrozen_rest
  obtain ⟨-, limits, -⟩ := u.answerFrozen.freezeLimits_rest
  obtain ⟨-, answers, -⟩ := u.answerFrozen_rest
  exact marked.trans (limits.trans answers)
theorem State.frozen_sub (s : State) {h : HubId} (up : s.hubs[h].inReset = false) (l : LaneId) : s.frozen.hubs[h].bus.sub[l] = s.frozenNow.written l := by
  rw [s.frozen_hubs, (s.frozenNow.freezeImages_hub h).2 ((s.frozenNow_inReset h).trans up)]
  simp
/-- The credit limit of a ring that takes segments does not depend on the event ring. -/
theorem State.creditLimit_congr {s t : State} (upd : t.upd = s.upd) (rings : ∀ k : RingId, k ≠ 11 → t.mail.rings[k] = s.mail.rings[k]) {q : RingId}
    (mem : q ∈ segRings) : t.creditLimit q = s.creditLimit q := by
  have notEvents : q ≠ 11 := by
    rintro rfl
    exact absurd mem (by decide)
  have source (x : Source) : cmdRing x ≠ 11 := by
    cases x with
    | master m => fin_cases m <;> decide
    | _ => decide
  have exp : t.expMseq q = s.expMseq q := by
    unfold State.expMseq
    simp only [upd, rings _ (source _), rings q notEvents]
  rw [State.creditLimit, exp, rings q notEvents]
  rfl
theorem State.frozen_limit (s : State) {q : RingId} (mem : q ∈ segRings) : s.frozen.mail.rings[q].limit = s.creditLimit q := by
  have same := s.frozenNow_mail
  have images : s.frozenNow.freezeImages.upd = s.frozenNow.upd ∧ s.frozenNow.freezeImages.mail = s.frozenNow.mail := ⟨rfl, rfl⟩
  rw [State.frozen]
  generalize s.frozenNow.freezeImages = u at images
  obtain ⟨-, marked, -⟩ := u.answerFrozen.freezeLimits.markFrozen_rest
  obtain ⟨-, -, upd, rings⟩ := u.answerFrozen_rest
  rw [marked, State.freezeLimits_limit _ mem]
  refine State.creditLimit_congr (upd.trans (images.1.trans same.2.1)) (fun k other => ?_) mem
  rw [rings, images.2]
  exact same.2.2 k other
theorem State.frozen_mode (s : State) : s.frozen.mode = { s.mode with frozen := true } := by
  have images : s.frozenNow.freezeImages.mode = s.mode := s.frozenNow_mode
  rw [State.frozen]
  generalize s.frozenNow.freezeImages = u at images
  obtain ⟨-, -, marked⟩ := u.answerFrozen.freezeLimits.markFrozen_rest
  obtain ⟨limits, -⟩ := u.answerFrozen.freezeLimits_rest
  obtain ⟨answers, -⟩ := u.answerFrozen_rest
  rw [marked, limits, answers, images]
/-- The answers that waited for the freeze. -/
theorem State.frozen_answers (s : State) (distinct : (s.mail.txns.map (·.num)).Nodup) {x : Txn} (mem : x ∈ s.mail.txns) (judged : x.judged = true)
    (pending : x.outcome = none) (started : s.allStarted x = true) (freezes : (s.freezeReply x 0).isSome = true) :
    ∃ y ∈ s.frozen.mail.txns, y.num = x.num ∧ y.octets = x.octets ∧ y.outcome.isSome = true ∧
      ∀ l : LaneId, has x.started l = true → x.replies[l] = none → y.replies[l] = s.frozenNow.freezeReply x l := by
  have same := s.frozenNow.freezeImages_sub
  have txns : s.frozenNow.freezeImages.mail.txns = s.mail.txns := s.frozenNow_mail.1
  have vote : s.frozenNow.allStarted x = s.allStarted x := by
    have mask : s.frozenNow.voteMask = s.voteMask := congrArg maskOf (funext s.frozenNow_kept.active)
    rw [State.allStarted, mask]
    rfl
  obtain ⟨y, there, num, octets, outcome, replies⟩ := s.frozenNow.freezeImages.answerFrozen_answers (x := x) (by rw [txns]; exact distinct)
    (by rw [txns]; exact mem) judged pending (by rw [same.allStarted, vote]; exact started) ((State.freezeReply_isSome _ s x 0 0).trans freezes)
  refine ⟨y, ?_, num, octets, outcome, fun l has_ none_ => (replies l has_ none_).trans (same.freezeReply x l)⟩
  obtain ⟨-, marked, -⟩ := s.frozenNow.freezeImages.answerFrozen.freezeLimits.markFrozen_rest
  obtain ⟨-, -, limits⟩ := s.frozenNow.freezeImages.answerFrozen.freezeLimits_rest
  rw [State.frozen, marked, limits]
  exact there

/-! ## The module's slot -/

theorem exec_moduleSlotSend {s : State} {j : Nat} (slot : s.ownSlot = some j) (runs : s.mode.mode.runs = true) (first : s.bus.sent = false)
    (now : ∃ h : HubId, s.canSendOn h = true ∧ s.atSlot h j = true) :
    exec .moduleSlotSend s = .next (if s.bus.coldStart then s.sendCold j else s.sendData j) := by
  obtain ⟨h, can, at_⟩ := now
  have due : (s.mode.mode.runs && !s.bus.sent && (allHubs.any fun h => s.canSendOn h && s.atSlot h j)) = true := by
    rw [runs, first]
    exact List.any_eq_true.2 ⟨h, by fin_cases h <;> decide, by rw [can, at_]; rfl⟩
  change Host.Outcome.next (match s.ownSlot with
    | some j => _
    | none => _) = _
  rw [slot]
  dsimp only
  rw [if_pos due]
/-- The cyclic part of a frame lies between its block and its segment. -/
theorem FrameShape.cyclic {fr blk cyc seg : Bytes} {sset node type : Nat} {cycle : Word}
    (a : FrameShape fr sset cycle node type (blk.length + cyc.length + seg.length) seg.length (blk ++ cyc ++ seg))
    (lead : blk.length = if type = 3 then 8 else 0) : Frame.cyclic fr = cyc := by
  obtain ⟨hdr, fcs, content, size⟩ := a.content
  have leadAt : Frame.lead fr = blk.length := by rw [Frame.lead, a.type, lead]
  have start : 16 + blk.length = (hdr ++ blk).length := by rw [List.length_append, size]
  rw [Frame.cyclic, leadAt, a.plen, a.mseg, start, show blk.length + cyc.length + seg.length - seg.length - blk.length = cyc.length by omega, content]
  simpa only [List.append_assoc] using slice_inside (hdr ++ blk) cyc (seg ++ fcs)
/-- A value in a frame's payload is read where it stands. -/
theorem FrameShape.payloadAt {fr before after : Bytes} {sset node type plen mseg n v : Nat} {cycle : Word}
    (a : FrameShape fr sset cycle node type plen mseg (before ++ (toLe n v ++ after))) (fits : v < 256 ^ n) : leAt fr (16 + before.length) n = v := by
  obtain ⟨hdr, fcs, content, size⟩ := a.content
  have start : 16 + before.length = (hdr ++ before).length := by rw [List.length_append, size]
  rw [content, start]
  simpa only [List.append_assoc] using leAt_inside (hdr ++ before) (after ++ fcs) n v fits

end Sys2Proof.Machine

open Sys2Proof Sys2Proof.Machine

/-- Settles O50: the answers at the freeze do not depend on the sub-images, and a frame reads as it was put together. -/
theorem freezesAndSlotsReport : Obligations.FreezesAndSlotsReport := by
  unfold Obligations.FreezesAndSlotsReport
  refine ⟨fun s => ⟨fun no => ?_, fun due distinct => ?_⟩, fun j s slot runs first now blocks coded => ?_⟩
  · rw [exec_subImageFreeze, no]
    rfl
  · refine ⟨s.frozen, ?_, s.frozen_mode, fun h l up => ?_, fun q mem => s.frozen_limit mem,
      fun x mem judged pending started freezes => s.frozen_answers distinct mem judged pending started freezes⟩
    · rw [exec_subImageFreeze, if_pos due]
    · rw [s.frozen_sub up, s.frozenNow_written]
      rfl
  · rw [exec_moduleSlotSend slot runs first now]
    cases cold : s.bus.coldStart with
    | true =>
      rw [if_pos rfl]
      obtain ⟨fr, rest, sent, shape⟩ := s.sendCold_frame j
      refine ⟨_, fr, rfl, sent.sent, shape.fcs, shape.sset, shape.cycle, shape.sender, fun h link can => sent.hub h link can, nofun, nofun,
        fun _ => ⟨shape.type, ?_, ?_⟩⟩
      · exact FrameShape.payloadAt (before := []) shape s.bus.apGt.isLt
      · exact FrameShape.payloadAt (before := toLe 8 s.bus.apGt.toNat) shape (by omega)
    | false =>
      rw [if_neg Bool.false_ne_true]
      by_cases null : (s.hubs[s.gtHub].bus.sub).all (·.isNone) = true
      · obtain ⟨fr, sent, shape⟩ := s.sendData_null j null
        refine ⟨_, fr, rfl, sent.sent, shape.fcs, shape.sset, shape.cycle, shape.sender, fun h link can => sent.hub h link can,
          fun _ _ => shape.plen, fun _ some_ => ?_, nofun⟩
        obtain ⟨l, some_⟩ := some_
        rw [Vector.all_eq_true] at null
        exact absurd (Option.isNone_iff_eq_none.1 (null l.val l.isLt)) some_
      · obtain ⟨fr, blk, seg, type, sent, lead, shape⟩ := s.sendData_data j null blocks (s.cyclicPart_length coded)
        have size := s.cyclicPart_length coded
        rw [← size] at shape
        have cyclic := FrameShape.cyclic shape lead
        refine ⟨_, fr, rfl, sent.sent, shape.fcs, shape.sset, shape.cycle, shape.sender, fun h link can => sent.hub h link can,
          fun _ none_ => absurd ?_ null, fun _ _ => ?_, nofun⟩
        · rw [Vector.all_eq_true]
          exact fun i lt => Option.isNone_iff_eq_none.2 (none_ ⟨i, lt⟩)
        · rw [cyclic]
          exact ⟨fun l => s.cyclicPart_sub coded l, s.cyclicPart_time coded⟩
end

