-- ==== Sys2Proof/Proofs/HeldGates.lean ====
section
/-!
PROOFS. What the hardware holds off stays off (R42, R43, R56, R455, R467): a command keeps it, and so does the passing of a tick.
-/

namespace Sys2Proof.Machine

/-- The waiting commands are no part of what the gates rest on. -/
theorem State.gatesOk_pending {s : State} (h : s.gatesOk) (rest : List Instr) : ({ s with pending := rest } : State).gatesOk := h
/-- Whatever command answers next, no gate conducts that the hardware holds off. -/
theorem exec_gatesOk {i : Instr} {s t : State} (h : s.gatesOk) (e : exec i s = .next t) : t.gatesOk := by
  obtain ⟨u, answers, kept⟩ := exec_kept i s
  obtain rfl : u = t := Host.Outcome.next.inj (answers.symm.trans e)
  exact kept.gates h

end Sys2Proof.Machine

open Sys2Proof Sys2Proof.Machine

/-- Settles O6: the front command keeps the gates, and on an empty queue the tick and what the lanes evaluate at it do. -/
theorem heldGatesNeverConduct : Obligations.HeldGatesNeverConduct := by
  unfold Obligations.HeldGatesNeverConduct
  intro s t held e
  unfold step at e
  split at e
  case h_1 =>
    rw [← Host.Outcome.next.inj e]
    exact State.pass_gatesOk held
  case h_2 c rest _ => exact exec_gatesOk (State.gatesOk_pending held rest) e
end

