-- ==== Sys2Proof/Proofs/DriveInputs.lean ====
section
/-!
PROOFS. The lane inputs of the receivers: what a frame makes of each position (R49, R50), the loss of an input (R51, R452) and the
holdup of a switch that has lost its majority (R52).
-/

namespace Sys2Proof.Machine

/-! ## Sets -/

@[simp] theorem has_and {n : Nat} (x y : BitVec n) (k : Fin n) : has (x &&& y) k = (has x k && has y k) := by simp [has]
@[simp] theorem has_xor {n : Nat} (x y : BitVec n) (k : Fin n) : has (x ^^^ y) k = (has x k ^^ has y k) := by simp [has]
@[simp] theorem has_not {n : Nat} (x : BitVec n) (k : Fin n) : has (~~~x) k = !has x k := by simp [has]

/-! ## A lane input at one position -/

/-- Vote, TG and OFF of an input at a position. -/
def LaneInput.outputsAt (i : LaneInput) (k : Position) : Bool × Bool × Bool := (has i.vote k, has i.tg k, has i.off k)
theorem LaneInput.clear_outputsAt (i : LaneInput) (m : PosMask) (k : Position) :
    (i.clear m).outputsAt k = if has m k then (false, false, true) else i.outputsAt k := by
  cases h : has m k <;> simp [LaneInput.outputsAt, LaneInput.clear, has_or, h]
theorem LaneInput.toggle_outputsAt (i : LaneInput) (m : PosMask) (now : Nat) (k : Position) :
    (i.toggle m now).outputsAt k = if has m k then (true, !has i.tg k, false) else i.outputsAt k := by
  cases h : has m k <;> simp [LaneInput.outputsAt, LaneInput.toggle, has_or, h]
/-- A group's frame holds a channel whose bit arrived equal. -/
theorem has_heldBits_group (w v : BitVec 16) (n : Nat) {k : Position} (hk : k.val < 8) :
    has (heldBits false w v n) k = decide (k.val < n ∧ w.getLsbD k.val = v.getLsbD k.val) := by
  simp [heldBits, has_maskOf, hk, Bool.beq_eq_decide_eq]
theorem has_frameSpan_group (w : BitVec 16) {k : Position} (hk : k.val < 8) : has (frameSpan false w) k = true := by
  have spans : ∀ k : Position, k.val < 8 → has (0x0FF : PosMask) k = true := by decide
  exact spans k hk
/-- What a group's frame makes of a channel at an input with a reference: a bit that held clears it, valid frame or not, and in a
valid frame one that alternated toggles it. -/
theorem LaneInput.recv_outputsAt {i : LaneInput} {v : BitVec 16} (ref : i.last = some v) (l : LaneId) (now : Nat) (w : BitVec 16) (n : Nat) (fs : Bool)
    {k : Position} (hk : k.val < 8) : (i.recv l false now w n fs).outputsAt k =
      if k.val < n ∧ w.getLsbD k.val = v.getLsbD k.val then (false, false, true)
      else if frameValid i l w n fs false then (true, !has i.tg k, false) else i.outputsAt k := by
  have held := has_heldBits_group w v n hk
  have cleared := i.clear_outputsAt (heldBits false w v n) k
  rw [held] at cleared
  unfold LaneInput.recv
  simp only [Bool.false_and, Bool.false_eq_true, if_false, ref]
  by_cases same : k.val < n ∧ w.getLsbD k.val = v.getLsbD k.val
  · rw [if_pos same]
    rw [decide_eq_true same, if_pos rfl] at cleared
    split
    · refine ((i.clear _).toggle_outputsAt _ now k).trans ?_
      simp [held, same, cleared]
    · exact cleared
  · rw [if_neg same]
    rw [decide_eq_false same, if_neg Bool.false_ne_true] at cleared
    split
    · refine ((i.clear _).toggle_outputsAt _ now k).trans ?_
      have tg : has (i.clear (heldBits false w v n)).tg k = has i.tg k := congrArg (·.2.1) cleared
      simp [held, same, has_frameSpan_group w hk, tg]
    · exact cleared

/-! ## Receivers -/

theorem FrontEnd.settle_inp (f : FrontEnd) (new : Vector LaneInput 3) (now : Nat) : (f.settle new now).inp = new := by
  unfold FrontEnd.settle
  exact (FrontEnd.SameGates.tracked ⟨rfl, rfl, rfl, rfl⟩ f now).inp
theorem FrontEnd.clearTrips_inp (f : FrontEnd) (now : Nat) (hot : PosMask) : (f.clearTrips now hot).inp = f.inp := rfl
theorem BankState.settle_inp (b : BankState) (new : Vector LaneInput 3) (now : Nat) : (b.settle new now).inp = new := rfl
/-- One lane's input alone is set. -/
theorem setInput_same (v : Vector LaneInput 3) (l : LaneId) (i : LaneInput) : (v.set l i)[l] = i := by simp
theorem setInput_other (v : Vector LaneInput 3) {l j : LaneId} (i : LaneInput) (h : j ≠ l) : (v.set l i)[j] = v[j] := by
  have far : l.val ≠ j.val := fun e => h (Fin.ext e.symm)
  simp [far]
/-- A group's frame is taken at the input of its lane, and at no other input of any group. -/
theorem State.driveFrame_bits (s : State) (g : GroupId) (l : LaneId) (w : BitVec 16) (n : Nat) (fs : Bool) (hot : PosMask) :
    (s.driveFrame (.grp g) l (.bits w n fs) hot).fe[g].inp = s.fe[g].inp.set l (s.fe[g].inp[l].recv l false s.now w n fs) ∧
    ∀ h, h ≠ g → (s.driveFrame (.grp g) l (.bits w n fs) hot).fe[h] = s.fe[h] := by
  unfold State.driveFrame
  dsimp only
  generalize hu : (if s.streams l ∧ 16 ≤ n then s.frameSent l (.grp g) (s.formFrame l (.grp g)) else s) = u
  have fe : u.fe = s.fe := by subst hu; split <;> rfl
  have now : u.now = s.now := by subst hu; split <;> rfl
  refine ⟨?_, fun h far => ?_⟩
  · rw [State.receive, State.modFe_same, FrontEnd.clearTrips_inp, FrontEnd.settle_inp, fe, now]
  · rw [State.receive, State.modFe_other _ _ _ _ far, fe]
/-- A lost input holds no on-vote and no reference (R51). -/
theorem LaneInput.lose_clears (i : LaneInput) : i.lose.vote = 0 ∧ i.lose.last = none := by
  simp [LaneInput.lose, LaneInput.clear]
theorem State.modBank_agrees (s : State) (b : BankId) (f : BankState → BankState) : agreeButBank s (s.modBank b f) b :=
  ⟨rfl, fun k hk => State.modBank_other s b f k hk⟩
theorem State.lossDue_iff (s : State) (d : DriveDest) (l : LaneId) :
    s.lossDue d l = true ↔ ∀ a, (s.inputs d)[l].lastAt = some a → a + lossTime d ≤ s.now := by
  simp [State.lossDue, Option.all_eq_true]
theorem exec_driveLossTimer_group {s : State} {g : GroupId} {l : LaneId} (due : ∀ a, s.fe[g].inp[l].lastAt = some a → a + 4800 ≤ s.now) :
    exec (.driveLossTimer (.grp g) l) s = .next (s.modFe g fun f => f.settle (f.inp.set l f.inp[l].lose) s.now) :=
  congrArg Host.Outcome.next (if_pos ((s.lossDue_iff (.grp g) l).mpr due))
theorem exec_driveLossTimer_bank {s : State} {b : BankId} {l : LaneId} (due : ∀ a, s.banks[b].inp[l].lastAt = some a → a + 8000 ≤ s.now) :
    exec (.driveLossTimer (.bank b) l) s = .next (s.modBank b fun k => k.settle (k.inp.set l k.inp[l].lose) s.now) :=
  congrArg Host.Outcome.next (if_pos ((s.lossDue_iff (.bank b) l).mpr due))

/-! ## The holdup of a switch -/

theorem FrontEnd.stop_conducting (f : FrontEnd) (k : BitVec 8) (now : Nat) : (f.stop k now).conducting = f.conducting &&& ~~~k :=
  (FrontEnd.SameGates.tracked (f := { f with conducting := f.conducting &&& ~~~k }) ⟨rfl, rfl, rfl, rfl⟩ f now).conducting
theorem exec_pumpStarvation_held {s : State} {d : DriveDest} {k : Position} (maj : has (voteMaj (s.inputs d)) k = true) :
    exec (.pumpStarvation d k) s = .next s := congrArg Host.Outcome.next (if_pos maj)
theorem exec_pumpStarvation_group {s : State} {g : GroupId} {k : Position} (lost : has (voteMaj s.fe[g].inp) k = false) :
    exec (.pumpStarvation (.grp g) k) s = .next (s.modFe g fun f => f.stop ((only k : PosMask).setWidth 8) s.now) :=
  congrArg Host.Outcome.next (if_neg (by simpa [State.inputs] using lost))
theorem exec_pumpStarvation_bank {s : State} {b : BankId} {k : Position} (lost : has (voteMaj s.banks[b].inp) k = false) :
    exec (.pumpStarvation (.bank b) k) s = .next (s.modBank b fun x => x.stop (only k)) :=
  congrArg Host.Outcome.next (if_neg (by simpa [State.inputs] using lost))
/-- The first eight positions of a position mask, as a group's gates take them. -/
theorem has_only_group (k : Position) (j : Fin 8) : has ((only k : PosMask).setWidth 8) j = decide (j.val = k.val) := by
  have wide := has_only k ⟨j.val, by omega⟩
  simp only [has, Fin.ext_iff] at wide
  simp only [has, BitVec.getLsbD_setWidth, j.isLt, decide_true, Bool.true_and, wide, eq_comm]

end Sys2Proof.Machine

open Sys2Proof Sys2Proof.Machine

/-- Settles O7: the frame is taken at its lane's input alone, position by position. -/
theorem driveFrameSetsAndClearsVotes : Obligations.DriveFrameSetsAndClearsVotes := by
  unfold Obligations.DriveFrameSetsAndClearsVotes
  intro g l w v n fs hot s k hk _ ref
  obtain ⟨inp, far⟩ := s.driveFrame_bits g l w n fs hot
  refine ⟨_, rfl, ?_, fun j other => by rw [inp, setInput_other _ _ other], far⟩
  have at_ := LaneInput.recv_outputsAt ref l s.now w n fs hk
  rw [inp, setInput_same]
  generalize s.fe[g].inp[l].recv l false s.now w n fs = j at at_ ⊢
  simp only [LaneInput.outputsAt] at at_
  refine ⟨fun same => ?_, fun ⟨valid, other⟩ => ?_, fun ⟨invalid, other⟩ => ?_⟩
  · rw [if_pos same] at at_
    simpa using at_
  · rw [if_neg fun same => other same.2, if_pos valid] at at_
    simpa using at_
  · rw [if_neg other, invalid, if_neg Bool.false_ne_true] at at_
    simpa using at_

/-- Settles O8: a loss takes the votes and the reference of its input, and a starved pump the gate of its switch. -/
theorem driveLossClearsEveryVote : Obligations.DriveLossClearsEveryVote := by
  unfold Obligations.DriveLossClearsEveryVote
  refine ⟨fun g l s due => ?_, fun b l s due => ?_, fun g k s hk => ?_, fun b k s => ?_⟩
  · obtain ⟨vote, last⟩ := s.fe[g].inp[l].lose_clears
    refine ⟨_, exec_driveLossTimer_group due, ?_, ?_, fun j other => ?_, s.modFe_agrees g _⟩
    · rw [State.modFe_same, FrontEnd.settle_inp, setInput_same, vote]
    · rw [State.modFe_same, FrontEnd.settle_inp, setInput_same, last]
    · rw [State.modFe_same, FrontEnd.settle_inp, setInput_other _ _ other]
  · obtain ⟨vote, last⟩ := s.banks[b].inp[l].lose_clears
    refine ⟨_, exec_driveLossTimer_bank due, ?_, ?_, fun j other => ?_, s.modBank_agrees b _⟩
    · rw [State.modBank_same, BankState.settle_inp, setInput_same, vote]
    · rw [State.modBank_same, BankState.settle_inp, setInput_same, last]
    · rw [State.modBank_same, BankState.settle_inp, setInput_other _ _ other]
  · cases maj : has (voteMaj s.fe[g].inp) k with
    | true => exact ⟨s, exec_pumpStarvation_held maj, nofun, fun _ _ => rfl, rfl, fun _ _ => rfl⟩
    | false =>
      have gates (j : Fin 8) : has (s.modFe g fun f => f.stop ((only k : PosMask).setWidth 8) s.now).fe[g].conducting j =
          (has s.fe[g].conducting j && !decide (j.val = k.val)) := by
        rw [State.modFe_same, FrontEnd.stop_conducting, has_and, has_not, has_only_group]
      refine ⟨_, exec_pumpStarvation_group maj, fun _ => ?_, fun j other => ?_, s.modFe_agrees g _⟩
      · simpa [has] using gates ⟨k.val, hk⟩
      · rw [gates j]
        simp [other.resolve_right nofun]
  · cases maj : has (voteMaj s.banks[b].inp) k with
    | true => exact ⟨s, exec_pumpStarvation_held maj, nofun, fun _ _ => rfl, rfl, fun _ _ => rfl⟩
    | false =>
      have gates (j : Position) : has (s.modBank b fun x => x.stop (only k)).banks[b].conducting j =
          (has s.banks[b].conducting j && !decide (k = j)) := by
        rw [State.modBank_same, BankState.stop, has_and, has_not, has_only]
      refine ⟨_, exec_pumpStarvation_bank maj, fun _ => ?_, fun j other => ?_, s.modBank_agrees b _⟩
      · simpa using gates k
      · rw [gates j]
        simp [Ne.symm (other.resolve_right nofun)]
end

