-- ==== Sys2Proof/Proofs/Trips.lean ====
section
/-!
PROOFS. What opens the switches in hardware: a trip sets its own latch and opens its switch (R42, R43), and without gate-drive supply
no switch of the group conducts (R56).
-/

namespace Sys2Proof.Machine

/-- Keeping the stretches in which sources drive changes nothing else of a front-end. -/
theorem FrontEnd.tracked_eq (f was : FrontEnd) (now : Nat) : f.tracked was now =
    { f with probeSince := (f.tracked was now).probeSince, probePast := (f.tracked was now).probePast } := by
  unfold FrontEnd.tracked
  dsimp only
  split <;> rfl
@[simp] theorem FrontEnd.tracked_aux (f was : FrontEnd) (now : Nat) : (f.tracked was now).aux = f.aux := by rw [FrontEnd.tracked_eq]
@[simp] theorem FrontEnd.tracked_gds (f was : FrontEnd) (now : Nat) : (f.tracked was now).gds = f.gds := by rw [FrontEnd.tracked_eq]
/-- The gates after a trip: the switches of its channels open, and its latches stand. -/
theorem FrontEnd.trip_gates (f : FrontEnd) (sc ot : BitVec 8) (now : Nat) :
    (f.trip sc ot now).sc = f.sc ||| sc ∧ (f.trip sc ot now).ot = f.ot ||| ot ∧ (f.trip sc ot now).conducting = f.conducting &&& ~~~(sc ||| ot) := by
  have same := FrontEnd.SameGates.tracked
    (f := { f with sc := f.sc ||| sc, ot := f.ot ||| ot, conducting := f.conducting &&& ~~~(sc ||| ot) }) ⟨rfl, rfl, rfl, rfl⟩ f now
  exact ⟨same.sc, same.ot, same.conducting⟩
theorem FrontEnd.tripShort_gates (f : FrontEnd) (k : BitVec 8) (now : Nat) :
    (f.trip k 0 now).sc = f.sc ||| k ∧ (f.trip k 0 now).ot = f.ot ∧ (f.trip k 0 now).conducting = f.conducting &&& ~~~k := by
  obtain ⟨sc, ot, conducting⟩ := f.trip_gates k 0 now
  exact ⟨sc, ot.trans BitVec.or_zero, conducting.trans (congrArg (f.conducting &&& ~~~·) BitVec.or_zero)⟩
theorem FrontEnd.tripOvertemp_gates (f : FrontEnd) (k : BitVec 8) (now : Nat) :
    (f.trip 0 k now).ot = f.ot ||| k ∧ (f.trip 0 k now).sc = f.sc ∧ (f.trip 0 k now).conducting = f.conducting &&& ~~~k := by
  obtain ⟨sc, ot, conducting⟩ := f.trip_gates 0 k now
  exact ⟨ot, sc.trans BitVec.or_zero, conducting.trans (congrArg (f.conducting &&& ~~~·) BitVec.zero_or)⟩
theorem FrontEnd.supply_gates (f : FrontEnd) (ok : Bool) (now : Nat) : (f.supply ok now).gds = ok ∧
    (f.supply ok now).conducting = (if ok then f.conducting else 0) ∧ (f.supply ok now).sc = f.sc ∧ (f.supply ok now).ot = f.ot := by
  have same := FrontEnd.SameGates.tracked (f := { f with gds := ok, conducting := if ok then f.conducting else 0 }) ⟨rfl, rfl, rfl, rfl⟩ f now
  exact ⟨FrontEnd.tracked_gds .., same.conducting, same.sc, same.ot⟩
/-- A set of channels with one more, and without it. -/
theorem has_or_only_same {n : Nat} (m : BitVec n) (k : Fin n) : has (m ||| only k) k = true := by simp [has_or, has_only]
theorem has_or_only_other {n : Nat} (m : BitVec n) {k j : Fin n} (h : j ≠ k) : has (m ||| only k) j = has m j := by simp [has_or, has_only, h.symm]
theorem has_drop_same {n : Nat} (m : BitVec n) (k : Fin n) : has (m &&& ~~~only k) k = false := by simp [has_only]
theorem has_drop_other {n : Nat} (m : BitVec n) {k j : Fin n} (h : j ≠ k) : has (m &&& ~~~only k) j = has m j := by simp [has_only, h.symm]
/-- The settle interval of a trip is no part of the front-ends (R124). -/
theorem State.settles_fe (s : State) (c : Chan) (a b : Nat) : (s.settles c a b).fe = s.fe := rfl
theorem exec_shortCircuitTrip (c : Chan) (s : State) : exec (.shortCircuitTrip c) s = .next
    ((s.modFe c.group fun f => { f.trip (only c.pos) 0 s.now with aux := f.aux.trigger 2 s.now f.refs }).settles c s.now (s.now + 10 * Config.ms)) := rfl
theorem exec_overtempTrip (c : Chan) (s : State) : exec (.overtempTrip c) s = .next
    ((s.modFe c.group fun f => f.trip 0 (only c.pos) s.now).settles c s.now (s.now + 10 * Config.ms)) := rfl
theorem exec_gateDriveSupply (g : GroupId) (ok : Bool) (s : State) : exec (.gateDriveSupply g ok) s = .next (s.modFe g fun f => f.supply ok s.now) := rfl

end Sys2Proof.Machine

open Sys2Proof Sys2Proof.Machine

/-- Settles O9: each trip sets one bit of its own latch and clears the same bit of the gates; the supply takes all gates or none. -/
theorem tripsOpenAndLatch : Obligations.TripsOpenAndLatch := by
  unfold Obligations.TripsOpenAndLatch
  refine ⟨fun c s => ?_, fun c s => ?_, fun g ok s => ?_⟩
  · obtain ⟨sc, ot, conducting⟩ := s.fe[c.group].tripShort_gates (only c.pos) s.now
    refine ⟨_, exec_shortCircuitTrip c s, ?_⟩
    rw [State.settles_fe, State.modFe_same]
    dsimp only
    rw [sc, ot, conducting]
    exact ⟨has_or_only_same _ _, has_drop_same _ _, rfl, fun k other => ⟨has_or_only_other _ other, has_drop_other _ other⟩, rfl,
      _, s.modFe_agrees c.group _, rfl⟩
  · obtain ⟨ot, sc, conducting⟩ := s.fe[c.group].tripOvertemp_gates (only c.pos) s.now
    refine ⟨_, exec_overtempTrip c s, ?_⟩
    rw [State.settles_fe, State.modFe_same, sc, ot, conducting]
    exact ⟨has_or_only_same _ _, has_drop_same _ _, rfl, fun k other => ⟨has_or_only_other _ other, has_drop_other _ other⟩, FrontEnd.tracked_aux ..,
      _, s.modFe_agrees c.group _, rfl⟩
  · obtain ⟨gds, conducting, sc, ot⟩ := s.fe[g].supply_gates ok s.now
    refine ⟨_, exec_gateDriveSupply g ok s, ?_⟩
    rw [State.modFe_same, gds, conducting, sc, ot]
    exact ⟨rfl, fun out => by rw [out]; rfl, fun within => if_pos within, rfl, rfl, s.modFe_agrees g _⟩
end

