-- ==== Sys2Proof/Proofs/OutputTests.lean ====
section
/-!
PROOFS. Off-tests (R61 to R63) and majority tests (R66 to R68): the start and the end of one, a gate still sensed, and what a completed
test makes of the proof timer; a proof timer at 24 h.
-/

namespace Sys2Proof.Machine

/-! ## Schedules and results -/

@[simp] theorem State.modSched_same (s : State) (c : Chan) (f : TestSched → TestSched) : (s.modSched c f).tests.chan[c] = f s.tests.chan[c] := by
  simp [State.modSched]
theorem State.modSched_other (s : State) (c : Chan) (f : TestSched → TestSched) {d : Chan} (h : d ≠ c) :
    (s.modSched c f).tests.chan[d] = s.tests.chan[d] := by
  have far : c.val ≠ d.val := fun e => h (Fin.ext e.symm)
  simp [State.modSched, far]
@[simp] theorem State.modPtSched_same (s : State) (p : Point) (f : TestSched → TestSched) : (s.modPtSched p f).tests.point[p] = f s.tests.point[p] := by
  simp [State.modPtSched]
theorem State.modPtSched_other (s : State) (p : Point) (f : TestSched → TestSched) {d : Point} (h : d ≠ p) :
    (s.modPtSched p f).tests.point[d] = s.tests.point[d] := by
  have far : p.val ≠ d.val := fun e => h (Fin.ext e.symm)
  simp [State.modPtSched, far]
/-- A completed test has the proof timer read 0, lit or dark (R66). -/
theorem TestSched.proved_proofNow (t : TestSched) (now : Nat) : (t.proved now).proofNow now = 0 := by
  cases h : t.lit <;> simp [TestSched.proofNow, TestSched.proved, h]
/-- A result enters a PROOF_TEST, or answers it: neither lanes nor groups, schedules nor the time are touched. -/
theorem State.testResult_rest (s : State) (c : Chan) (code : Nat) : (s.testResult c code).lanes = s.lanes ∧
    (s.testResult c code).groups = s.groups ∧ (s.testResult c code).tests = s.tests ∧ (s.testResult c code).now = s.now := by
  unfold State.testResult
  split
  · exact ⟨rfl, rfl, rfl, rfl⟩
  · dsimp only
    repeat' split
    all_goals exact ⟨rfl, rfl, rfl, rfl⟩
theorem State.chanProved_rest (s : State) (c : Chan) : (s.chanProved c).lanes = s.lanes ∧ (s.chanProved c).groups = s.groups ∧
    (s.chanProved c).now = s.now ∧ (s.chanProved c).tests.chan[c].proofNow s.now = 0 := by
  unfold State.chanProved
  refine ⟨?_, ?_, ?_, ?_⟩
  · rw [State.withdrawFault_lanes]; rfl
  · rw [State.withdrawFault_groups]; rfl
  · rw [State.withdrawFault_now]; rfl
  · rw [State.withdrawFault_tests, State.modSched_same]
    exact s.tests.chan[c].proved_proofNow s.now
/-- A test that has passed or failed leaves its group, and the proof timer of its channel reads 0; the lanes are as they were. -/
theorem State.testEnds_completed (s : State) (c : Chan) {code : Nat} (completed : code ≠ 3) : (s.testEnds c code).groups[c.group].test = none ∧
    (s.testEnds c code).tests.chan[c].proofNow (s.testEnds c code).now = 0 ∧ (s.testEnds c code).lanes = s.lanes := by
  unfold State.testEnds
  dsimp only
  rw [if_neg completed]
  generalize hu : (s.modGroup c.group fun G => { G with test := none }) = u
  obtain ⟨lanes, groups, now, proof⟩ := u.chanProved_rest c
  obtain ⟨lanes', groups', tests', now'⟩ := (u.chanProved c).testResult_rest c code
  refine ⟨?_, ?_, ?_⟩
  · rw [groups', groups, ← hu, State.modGroup_same]
  · rw [tests', now', now, proof]
  · rw [lanes', lanes, ← hu]
    rfl
theorem resultCode_completed (failed : Bool) : (if failed then 2 else 1) ≠ 3 := by cases failed <;> decide

/-! ## Off-tests -/

/-- Every lane in the vote withdraws a channel's "on" for an off-test, and keeps the start of the overlay (R61). -/
def LaneState.offTested (L : LaneState) (c : Chan) (now : Nat) : LaneState :=
  if L.st == .active then
    { (L.modProv c fun a => { a with otAt := some now }) with drive := { L.drive with ov := { L.drive.ov with off := L.drive.ov.off ||| only c } } } else L
theorem exec_offTestStart {c : Chan} {s : State} (due : s.offDue c = true) : ∃ t, exec (.offTestStart c) s = .next t ∧
    t.groups = (s.modGroup c.group fun G => { G with test := some { ch := c, majority := false, lane := (s.supplier).getD 0, t0 := s.now } }).groups ∧
    ∀ l : LaneId, t.lanes[l] = ((s.settles c s.now (s.now + 68000)).lanes[l]).offTested c s.now :=
  ⟨_, congrArg Host.Outcome.next (if_pos due), rfl, fun _ => State.modLanes_at ..⟩
theorem LaneState.offTested_drive (L : LaneState) (c : Chan) (now : Nat) : (L.offTested c now).drive.img = L.drive.img ∧
    (L.st = .active → has (L.offTested c now).drive.ov.off c = true) := by
  unfold LaneState.offTested
  cases active : L.st == LaneStatus.active with
  | true => exact ⟨rfl, fun _ => has_or_only_same _ _⟩
  | false => exact ⟨rfl, fun e => by rw [e] at active; exact absurd active (by decide)⟩
/-- The end of an off-test withdraws its channel in no lane any more. -/
theorem State.endOff_drive (s : State) (c : Chan) (l : LaneId) : has (s.endOff c).lanes[l].drive.ov.off c = false ∧
    (s.endOff c).lanes[l].drive.img = s.lanes[l].drive.img := by
  rw [State.endOff, State.modLanes_at]
  exact ⟨has_drop_same _ _, rfl⟩
theorem exec_offTestEnd {r : RunningTest} {s : State} (runs : s.groups[r.ch.group].test = some r) (off : r.majority = false)
    (late : r.t0 + 28000 ≤ s.now) : exec (.offTestEnd r.ch) s =
      .next ((if r.failed then s else s.endOff r.ch).testEnds r.ch (if r.failed then 2 else 1)) := by
  refine congrArg Host.Outcome.next ?_
  rw [runs]
  exact if_pos ⟨rfl, by simp [off], late⟩

/-- A decided fault of a switch is latched with its cause, whatever else its group does; groups and schedules are as they were. -/
theorem State.switchFault_latches (s : State) (m : LaneMask) (c : Chan) (k : Cause) : (s.switchFault m c k).groups = s.groups ∧
    (s.switchFault m c k).tests = s.tests ∧ ∀ l : LaneId, has m l = true →
      has (s.switchFault m c k).lanes[l].latches.switchFault c = true ∧ (s.switchFault m c k).lanes[l].prov[c].swCause = k := by
  unfold State.switchFault
  extract_lets s1 s2
  have latched (l : LaneId) (hl : has m l = true) : has s1.lanes[l].latches.switchFault c = true ∧ s1.lanes[l].prov[c].swCause = k := by
    unfold s1
    rw [State.modLanes_at, if_pos hl]
    exact ⟨has_or_only_same _ _, by simp⟩
  have reverted : s2.groups = s.groups ∧ s2.tests = s.tests ∧
      ∀ l : LaneId, s2.lanes[l].latches.switchFault = s1.lanes[l].latches.switchFault ∧ s2.lanes[l].prov = s1.lanes[l].prov := by
    unfold s2
    split
    · refine ⟨rfl, rfl, fun l => ?_⟩
      rw [State.trigger, State.modLanes_at]
      split <;> exact ⟨rfl, rfl⟩
    · exact ⟨rfl, rfl, fun _ => ⟨rfl, rfl⟩⟩
  obtain ⟨groups, tests, lane⟩ := reverted
  have noted : Reported s2 (s2.each (members m) fun s l => s.noteChan l c) := Reported.each _ (fun u l => Reported.noteChan u l c) s2
  refine ⟨?_, ?_, fun l hl => ?_⟩
  · rw [noted.rest, ← groups]
  · rw [noted.rest, ← tests]
  · obtain ⟨latch, prov⟩ := lane l
    rw [noted.lane l, latch, prov]
    exact latched l hl
theorem has_voteMask (s : State) (l : LaneId) : has s.voteMask l = s.active l := has_maskOf _ _
/-- The gate still sensed 40 us after t0 fails the off-test. -/
theorem exec_offTestGateCheck {r : RunningTest} {s : State} (runs : s.groups[r.ch.group].test = some r) (off : r.majority = false)
    (running : r.failed = false) (sensed : r.tOpen = none) (late : r.t0 + 8000 ≤ s.now) (steady : s.tests.chan[r.ch].trans = none) :
    exec (.offTestGateCheck r.ch) s =
      .next ((s.switchFault s.voteMask r.ch .gateStuck).modGroup r.ch.group fun G => { G with test := some { r with failed := true } }) := by
  have fails : s.testFails s.voteMask r .gateStuck =
      (s.switchFault s.voteMask r.ch .gateStuck).modGroup r.ch.group fun G => { G with test := some { r with failed := true } } := by
    rw [State.testFails, off]
    rfl
  have tests : (s.testFails s.voteMask r .gateStuck).tests = s.tests := by
    rw [fails]
    exact (s.switchFault_latches ..).2.1
  refine congrArg Host.Outcome.next ?_
  rw [runs]
  dsimp only
  rw [if_pos ⟨rfl, by simp [off], by simp [running], by simp [sensed], late⟩, tests, steady]
  exact fails

/-! ## Majority tests -/

/-- A lane adds a channel's "on" for four frames (R67). -/
def LaneDrive.adds (d : LaneDrive) (c : Chan) : LaneDrive :=
  { d with ov := { d.ov with add := d.ov.add ||| only c, frames := (c.val, 4) :: d.ov.frames } }
/-- The lanes in the vote keep the start of a majority-test overlay. -/
def State.majorityMarked (s : State) (c : Chan) : State := (s.settles c s.now (s.now + 46740)).modLanes fun _ L =>
  if L.st == .active then L.modProv c fun a => { a with majAt := s.now :: a.majAt.filter fun t => decide (s.now ≤ t + keepFor) } else L
theorem State.majorityMarked_drive (s : State) (c : Chan) (l : LaneId) : (s.majorityMarked c).lanes[l].drive = s.lanes[l].drive := by
  rw [State.majorityMarked, State.modLanes_at, ← (s.settles_lane c s.now (s.now + 46740) l).1]
  split <;> rfl
/-- A majority test of a channel has started in its test lane. -/
def State.majorityStarted (s : State) (c : Chan) (tl : LaneId) : State :=
  (((s.majorityMarked c).modLane tl fun L => { L with drive := L.drive.adds c }).modGroup c.group fun G =>
    { G with test := some { ch := c, majority := true, lane := tl, t0 := s.now } }).modSched c fun t =>
      { t with want := false, lane := tl + 1, nextMaj := t.nextMaj.map fun d => nextAfter d (s.params.majPeriod c.group * Config.sec) s.now }
theorem exec_majorityTestStart {c : Chan} {tl : LaneId} {s : State} (due : s.majDue c = true) (lane : s.testLaneNow c = some tl) :
    exec (.majorityTestStart c) s = .next (s.majorityStarted c tl) := by
  refine congrArg Host.Outcome.next ?_
  rw [lane]
  exact if_pos due
theorem State.majorityStarted_drive (s : State) (c : Chan) (tl : LaneId) : (s.majorityStarted c tl).lanes[tl].drive = s.lanes[tl].drive.adds c ∧
    ∀ l, l ≠ tl → (s.majorityStarted c tl).lanes[l].drive = s.lanes[l].drive := by
  have lanes : (s.majorityStarted c tl).lanes = ((s.majorityMarked c).modLane tl fun L => { L with drive := L.drive.adds c }).lanes := rfl
  refine ⟨?_, fun l other => ?_⟩
  · rw [lanes, State.modLane_same, State.majorityMarked_drive]
  · rw [lanes, State.modLane_other _ _ _ _ other, State.majorityMarked_drive]
/-- The overlay of a majority test ends in its test lane alone (R68). -/
theorem State.endMajority_drive (s : State) (r : RunningTest) : has (s.endMajority r).lanes[r.lane].drive.ov.add r.ch = false ∧
    has (s.endMajority r).lanes[r.lane].drive.sent.add r.ch = false ∧ ∀ l, l ≠ r.lane → (s.endMajority r).lanes[l].drive = s.lanes[l].drive := by
  unfold State.endMajority
  refine ⟨?_, ?_, fun l other => by rw [State.modLane_other _ _ _ _ other]⟩
  · rw [State.modLane_same]
    exact has_drop_same _ _
  · rw [State.modLane_same]
    exact has_drop_same _ _
theorem exec_majorityTestEnd {r : RunningTest} {s : State} (runs : s.groups[r.ch.group].test = some r) (major : r.majority = true)
    (late : r.t0 + 10740 ≤ s.now) : exec (.majorityTestEnd r.ch) s = .next ((s.endMajority r).testEnds r.ch (if r.failed then 2 else 1)) := by
  refine congrArg Host.Outcome.next ?_
  rw [runs]
  exact if_pos ⟨rfl, major, late⟩

/-! ## Proof timers at 24 h -/

/-- A fault to which the fault table adds no reaction (R420) stands once it is raised, and neither schedules nor groups change. -/
theorem State.fault_report {code : Nat} {items : List Nat} {m : LaneMask} (s : State) (report : ∀ u : State, u.reaction code items m = u) :
    (s.fault code items m).stands code items = true ∧ (s.fault code items m).tests = s.tests ∧ (s.fault code items m).groups = s.groups := by
  unfold State.fault
  extract_lets known
  split
  · rename_i held
    obtain ⟨f, mem, cond⟩ := List.any_eq_true.1 held
    exact ⟨List.any_eq_true.2 ⟨f, mem, (Bool.and_eq_true_iff.1 cond).1⟩, rfl, rfl⟩
  · rw [report]
    exact ⟨s.raiseFault_stands code items m 0xFF, State.raiseFault_tests .., State.raiseFault_groups ..⟩
theorem exec_proofOverdue_chan {c : Chan} {s : State} (used : s.params.used c = true) (new : s.tests.chan[c].overdue = false)
    (day : 17280000000000 ≤ s.tests.chan[c].proofNow s.now) : exec (.proofOverdue (.chan c)) s =
      .next ((s.modSched c fun t => { t with overdue := true }).fault FaultCode.proofOverdue [c.val] s.voteMask) :=
  congrArg Host.Outcome.next (if_pos ⟨used, by simpa using new, day⟩)
theorem exec_proofOverdue_point {p : Point} {s : State} (out : s.params.isOut p = true) (tested : s.params.otEn p = true)
    (new : s.tests.point[p].overdue = false) (day : 17280000000000 ≤ s.tests.point[p].proofNow s.now) : exec (.proofOverdue (.point p)) s =
      .next ((s.modPtSched p fun t => { t with overdue := true }).fault FaultCode.proofOverdue [96 + p.val] s.voteMask) :=
  congrArg Host.Outcome.next (if_pos ⟨out, tested, by simpa using new, day⟩)

end Sys2Proof.Machine

open Sys2Proof Sys2Proof.Machine

/-- Settles O19: the start sets the overlay of every lane in the vote, the check latches the fault there, the end takes the overlay
back where the test passed. -/
theorem offTestsWithdrawAndJudge : Obligations.OffTestsWithdrawAndJudge := by
  unfold Obligations.OffTestsWithdrawAndJudge
  refine ⟨fun c s due => ?_, fun r s runs off running sensed late steady => ?_, fun r s runs off late => ?_⟩
  · obtain ⟨t, e, groups, lanes⟩ := exec_offTestStart due
    refine ⟨t, e, ⟨_, by rw [groups, State.modGroup_same], rfl, rfl, rfl, rfl⟩, fun l => ?_, fun h far => by rw [groups, State.modGroup_other _ _ _ _ far]⟩
    obtain ⟨drive, st, -⟩ := s.settles_lane c s.now (s.now + 68000) l
    obtain ⟨img, off⟩ := ((s.settles c s.now (s.now + 68000)).lanes[l]).offTested_drive c s.now
    rw [lanes l, img, drive]
    exact ⟨rfl, fun active => off (st.trans (by simpa [State.active] using active))⟩
  · obtain ⟨-, -, latched⟩ := s.switchFault_latches s.voteMask r.ch .gateStuck
    refine ⟨_, exec_offTestGateCheck runs off running sensed late steady, by rw [State.modGroup_same], fun l active => ?_⟩
    rw [State.modGroup_lanes]
    exact latched l (by rw [has_voteMask, active])
  · refine ⟨_, exec_offTestEnd runs off late, ?_⟩
    obtain ⟨ended, proof, lanes⟩ := (if r.failed then s else s.endOff r.ch).testEnds_completed r.ch (resultCode_completed r.failed)
    refine ⟨ended, proof, fun l => ?_⟩
    rw [lanes]
    cases r.failed with
    | true => exact ⟨rfl, rfl⟩
    | false => exact s.endOff_drive r.ch l

/-- Settles O20: a majority test adds and drops its channel in the test lane alone; a proof timer at 24 h raises its fault. -/
theorem majorityTestsAddOneLane : Obligations.MajorityTestsAddOneLane := by
  unfold Obligations.MajorityTestsAddOneLane
  refine ⟨fun c tl s due lane => ?_, fun r s runs major late => ?_, fun c s used new day => ?_, fun p s out tested new day => ?_⟩
  · obtain ⟨added, others⟩ := s.majorityStarted_drive c tl
    have groups : (s.majorityStarted c tl).groups =
      (s.modGroup c.group fun G => { G with test := some { ch := c, majority := true, lane := tl, t0 := s.now } }).groups := rfl
    refine ⟨_, exec_majorityTestStart due lane, ⟨_, by rw [groups, State.modGroup_same], rfl, rfl, rfl, rfl⟩, ?_, ?_, ?_, others,
      fun h far => by rw [groups, State.modGroup_other _ _ _ _ far]⟩
    · rw [added]
      exact has_or_only_same _ _
    · rw [added]
      exact List.mem_cons_self ..
    · rw [State.majorityStarted, State.modSched_same]
  · obtain ⟨ov, sent, others⟩ := s.endMajority_drive r
    obtain ⟨ended, proof, lanes⟩ := (s.endMajority r).testEnds_completed r.ch (resultCode_completed r.failed)
    refine ⟨_, exec_majorityTestEnd runs major late, ended, proof, ?_⟩
    rw [lanes]
    exact ⟨ov, sent, others⟩
  · obtain ⟨stands, tests, -⟩ := (s.modSched c fun t => { t with overdue := true }).fault_report
      (code := FaultCode.proofOverdue) (items := [c.val]) (m := s.voteMask) fun _ => rfl
    refine ⟨_, exec_proofOverdue_chan used new day, stands, ?_, fun d other => ?_⟩
    · rw [tests, State.modSched_same]
    · rw [tests, State.modSched_other _ _ _ other]
  · obtain ⟨stands, tests, -⟩ := (s.modPtSched p fun t => { t with overdue := true }).fault_report
      (code := FaultCode.proofOverdue) (items := [96 + p.val]) (m := s.voteMask) fun _ => rfl
    refine ⟨_, exec_proofOverdue_point out tested new day, stands, ?_, fun d other => ?_⟩
    · rw [tests, State.modPtSched_same]
    · rw [tests, State.modPtSched_other _ _ _ other]
end

