-- ==== Sys2Proof/Proofs/FeedDecisions.lean ====
section
/-!
PROOFS. The decisions on a feed: the tracker's unlock (R84), absent and present (R38), FEED_FREQ_RANGE (R85) and AUX_STALL (R105).
-/

namespace Sys2Proof.Machine

/-- A feed that fails a teach-in is remembered there alone (R163). -/
theorem State.teachLost_rest (s : State) (g : GroupId) : s.teachLost g = { s with act := (s.teachLost g).act } := by
  unfold State.teachLost
  split <;> rfl
theorem State.teachLost_groups (s : State) (g : GroupId) : (s.teachLost g).groups = s.groups := by rw [State.teachLost_rest]
/-- The lanes in the vote report the channels of a group anew. -/
def State.noteGroup (s : State) (g : GroupId) : State := s.each s.activeLanes fun s l => s.each (groupChans g) fun s c => s.noteChan l c
theorem State.noteGroup_groups (s : State) (g : GroupId) : (s.noteGroup g).groups = s.groups := by
  have noted : Reported s (s.noteGroup g) := Reported.each _ (fun u l => Reported.each _ (fun v c => Reported.noteChan v l c) u) s
  rw [noted.rest]
/-- The tracker of a group has unlocked. -/
def State.unlocked (s : State) (g : GroupId) : State :=
  (s.modGroup g fun G => { G with feed := G.feed.unlock s.now (s.nextMultiple (s.params.dcTicks g)) }).teachLost g
theorem exec_trackerUnlockTimeout {g : GroupId} {s : State} (lock : s.groups[g].feed.lock = true)
    (past : ∀ a, s.groups[g].feed.lastCross = some a → a + 5000000 ≤ s.laneTime) (level : s.groups[g].level.val < 2) :
    exec (.trackerUnlockTimeout g) s = .next (s.unlocked g) := by
  have crossed : (s.groups[g].feed.lastCross.all fun t => decide (t + 25 * Config.ms ≤ s.laneTime)) = true :=
    (Option.all_eq_true ..).mpr fun a at_ => decide_eq_true (past a at_)
  exact congrArg Host.Outcome.next (if_pos ⟨lock, crossed, level⟩)
/-- The feed-absent decision changes of the groups that feed alone. -/
theorem State.feedGone_groups (s : State) (g : GroupId) :
    (s.feedGone g).groups = (s.modGroup g fun G => { G with feed := { G.feed with absent := true } }).groups := by
  unfold State.feedGone
  extract_lets s1 dark s2
  rw [State.teachLost_groups, State.withdrawFault_groups]
  rfl
/-- The feed is present again. -/
def State.feedBack (s : State) (g : GroupId) : State := s.modGroup g fun G =>
  { G with feed := { G.feed with absent := false, unlockedSince := if G.feed.lock then G.feed.unlockedSince else s.now } }
/-- A feed condition that began at an instant has stood for FEED_FILTER. -/
theorem filtered {p : ParamImage} {g : GroupId} {since : Option Nat} {a now : Nat} (began : since = some a) (stood : a + p.feedFilter g * 200000 ≤ now) :
    (since.any fun t => decide (t + p.feedFilter g * Config.ms ≤ now)) = true := by
  rw [began]
  exact decide_eq_true stood
theorem exec_feedAbsentDecision_gone {g : GroupId} {s : State} {a : Nat} (present : s.groups[g].feed.absent = false)
    (below : s.groups[g].feed.belowSince = some a) (stood : a + s.params.feedFilter g * 200000 ≤ s.now) (level : s.groups[g].level.val < 2) :
    exec (.feedAbsentDecision g) s = .next ((s.feedGone g).noteGroup g) :=
  congrArg Host.Outcome.next ((if_neg (Nat.not_le.mpr level)).trans (if_pos ⟨by rw [present]; rfl, filtered below stood⟩))
theorem exec_feedAbsentDecision_back {g : GroupId} {s : State} {a : Nat} (absent : s.groups[g].feed.absent = true)
    (above : s.groups[g].feed.aboveSince = some a) (stood : a + s.params.feedFilter g * 200000 ≤ s.now) (level : s.groups[g].level.val < 2) :
    exec (.feedAbsentDecision g) s = .next ((s.feedBack g).noteGroup g) := by
  refine congrArg Host.Outcome.next ((if_neg (Nat.not_le.mpr level)).trans ((if_neg ?_).trans (if_pos ⟨absent, filtered above stood⟩)))
  rintro ⟨present, -⟩
  rw [absent] at present
  exact Bool.false_ne_true present
theorem exec_feedFreqRange {g : GroupId} {s : State} (ac : s.params.isAc g = true) (used : s.params.chUsed g ≠ 0)
    (lock : s.groups[g].feed.lock = false) (present : s.groups[g].feed.absent = false) (level : s.groups[g].level.val < 2)
    (runs : s.mode.mode.runs = true) (second : s.groups[g].feed.unlockedSince + 200000000 ≤ s.now) :
    exec (.feedFreqRange g) s = .next (s.fault FaultCode.feedFreqRange [g.val] s.voteMask) :=
  congrArg Host.Outcome.next (if_pos ⟨ac, used, by rw [lock]; rfl, by rw [present]; rfl, level, runs, second⟩)
/-- One regular result older than 10 ms stalls the converter. -/
theorem AuxConv.stalled_of {a : AuxConv} {r : Fin 20} {now : Nat} (sequencer : auxMode a.ctrl = 2) (regular : r.val < auxRegLen a.ctrl)
    (old : a.res[r].at_ + 2000000 < now) : a.stalled now = true := by
  have result : (a.res[r.val]?).getD {} = a.res[r] := by simp
  unfold AuxConv.stalled
  rw [sequencer]
  refine List.any_eq_true.2 ⟨r.val, List.mem_range.2 regular, ?_⟩
  rw [result]
  exact decide_eq_true old
theorem exec_auxStall {g : GroupId} {s : State} (stalled : s.fe[g].aux.stalled s.now = true) (level : s.groups[g].level.val < 2) :
    exec (.auxStall g) s = .next (s.fault FaultCode.auxStall [g.val] s.voteMask) := congrArg Host.Outcome.next (if_pos ⟨stalled, level⟩)

end Sys2Proof.Machine

open Sys2Proof Sys2Proof.Machine

/-- Settles O26: each decision that is due changes of the groups the feed it is about, or raises its fault. -/
theorem feedDecisions : Obligations.FeedDecisions := by
  unfold Obligations.FeedDecisions
  refine ⟨fun g s lock past level => ?_, fun g s a present below stood level => ?_, fun g s a absent above stood level => ?_,
    fun g s ac used lock present level runs second => ?_, fun g s r sequencer regular old level => ?_⟩
  · have groups : (s.unlocked g).groups =
      (s.modGroup g fun G => { G with feed := G.feed.unlock s.now (s.nextMultiple (s.params.dcTicks g)) }).groups := State.teachLost_groups ..
    refine ⟨_, exec_trackerUnlockTimeout lock past level, ?_⟩
    rw [groups, State.modGroup_same]
    refine ⟨rfl, rfl, rfl, rfl, ?_, fun h far => ?_⟩
    · rw [State.unlocked, State.teachLost_rest]
      rfl
    · rw [groups, State.modGroup_other _ _ _ _ far]
  · refine ⟨_, exec_feedAbsentDecision_gone present below stood level, ?_⟩
    rw [State.noteGroup_groups, State.feedGone_groups, State.modGroup_same]
    exact ⟨rfl, fun h far => State.modGroup_other _ _ _ _ far⟩
  · refine ⟨_, exec_feedAbsentDecision_back absent above stood level, ?_⟩
    rw [State.noteGroup_groups, State.feedBack, State.modGroup_same]
    exact ⟨rfl, fun h far => State.modGroup_other _ _ _ _ far⟩
  · obtain ⟨stands, -, groups⟩ := s.fault_report (code := FaultCode.feedFreqRange) (items := [g.val]) (m := s.voteMask) fun _ => rfl
    exact ⟨_, exec_feedFreqRange ac used lock present level runs second, stands, groups⟩
  · obtain ⟨stands, -, groups⟩ := s.fault_report (code := FaultCode.auxStall) (items := [g.val]) (m := s.voteMask) fun _ => rfl
    exact ⟨_, exec_auxStall (AuxConv.stalled_of sequencer regular old) level, stands, groups⟩
end

