-- ==== Sys2Proof/Proofs/SideFrames.lean ====
section
/-!
PROOFS. Side frames (R42, R43, R76, R77): what a good frame and a discarded one leave in their lane, through all that the lane decides
from the frame and through the samples that its stream brings.
-/

namespace Sys2Proof.Machine

/-! ## What a lane holds of the front-ends -/

/-- What a lane holds of the front-ends, and its trip latches. -/
def LaneState.frames (L : LaneState) : Vector LaneGroup 12 × ChanMask × ChanMask := (L.grp, L.latches.short, L.latches.overtemp)
theorem LaneState.frames_codes (L : LaneState) (x : Vector Nat 96) (y : Vector Nat 48) : ({ L with codes := x, ptCodes := y } : LaneState).frames = L.frames := rfl
/-- Two states agree in what every lane holds of the front-ends and in its trip latches. -/
structure FramesKept (s t : State) : Prop where
  lane : ∀ l : LaneId, t.lanes[l].frames = s.lanes[l].frames
theorem Reported.framesKept {s t : State} (r : Reported s t) : FramesKept s t := ⟨fun l => by rw [r.lane l, LaneState.frames_codes]⟩

namespace FramesKept

theorem refl (s : State) : FramesKept s s := ⟨fun _ => rfl⟩
theorem trans {s t u : State} (h : FramesKept s t) (k : FramesKept t u) : FramesKept s u := ⟨fun l => (k.lane l).trans (h.lane l)⟩

section
variable {s t : State} (h : FramesKept s t)
include h

theorem lanes {u : State} (e : u.lanes = t.lanes) : FramesKept s u := h.trans ⟨fun l => by rw [e]⟩
theorem ite {u : State} {p : Prop} [Decidable p] (k : FramesKept s u) : FramesKept s (if p then t else u) := by
  split <;> assumption
theorem each {α : Type} {f : State → α → State} (xs : List α) (hf : ∀ u x, FramesKept u (f u x)) : FramesKept s (t.each xs f) :=
  h.trans ⟨fun l => each_field (·.lanes[l].frames) xs (fun u x _ => (hf u x).lane l) t⟩
theorem modLane (l : LaneId) {f : LaneState → LaneState} (hf : ∀ L, (f L).frames = L.frames) : FramesKept s (t.modLane l f) := by
  refine h.trans ⟨fun k => ?_⟩
  by_cases e : k = l
  · subst e
    rw [State.modLane_same, hf]
  · rw [State.modLane_other _ _ _ _ e]
theorem modLanes {f : LaneId → LaneState → LaneState} (hf : ∀ l L, (f l L).frames = L.frames) : FramesKept s (t.modLanes f) :=
  h.trans ⟨fun k => by rw [State.modLanes_at, hf]⟩

/-! ### Reports -/

theorem event (code kind lane : Nat) (sc d : Bytes) : FramesKept s (t.event code kind lane sc d) := h.lanes (State.event_lanes ..)
theorem note (code : Nat) (i : List Nat) (d : Bytes) (l k : Nat) : FramesKept s (t.note code i d l k) := h.event ..
theorem noteChan (l : LaneId) (c : Chan) : FramesKept s (t.noteChan l c) :=
  h.trans (Reported.noteChan t l c).framesKept
theorem trigger (m : LaneMask) (g : GroupId) (k : Bool) : FramesKept s (t.trigger m g k) := h.modLanes fun _ _ => by split <;> rfl
theorem abortWindow : FramesKept s t.abortWindow := by
  unfold State.abortWindow
  split
  · exact h
  · extract_lets c step s1
    have aborted : FramesKept s s1 := h.lanes rfl
    refine h.ite (note ?_ ..)
    exact aborted.modLane _ fun _ => rfl
theorem fault {code : Nat} {items : List Nat} {m : LaneMask} (react : ∀ u, FramesKept u (u.reaction code items m)) (k : Nat) :
    FramesKept s (t.fault code items m k) := by
  have raised : FramesKept t (t.raiseFault code items m k) := ⟨fun l => by
    obtain ⟨w, e⟩ := t.raiseFault_lane code items m k l
    rw [e]
    rfl⟩
  unfold State.fault
  extract_lets known
  exact h.ite ((h.trans raised).trans (react _))
theorem measLinkFault (l : LaneId) (n : Nat) (was now : Bool) : FramesKept s (t.measLinkFault l n was now) := by
  unfold State.measLinkFault
  refine ite ?_ (ite (h.lanes (State.withdrawFault_lanes ..)) h)
  have raised := h.fault (code := FaultCode.measLink) (items := [l.val, n]) (m := only l) refl 0xFF
  dsimp only
  split
  · exact (raised.trigger ..).ite raised
  · exact raised
theorem driveLinkFault (items : List Nat) (m : LaneMask) : FramesKept s (t.fault FaultCode.driveLink items m) := by
  refine h.fault (fun u => ?_) 0xFF
  unfold State.reaction
  extract_lets lane pt fed
  rw [if_pos rfl]
  exact (refl u).ite (refl u).abortWindow

/-! ### Decisions -/

theorem switchFault (m : LaneMask) (c : Chan) (k : Cause) : FramesKept s (t.switchFault m c k) := by
  unfold State.switchFault
  extract_lets s1 s2
  have latched : FramesKept s s1 := h.modLanes fun _ _ => by split <;> rfl
  have reverted : FramesKept s s2 := (latched.trigger ..).ite latched
  exact reverted.each _ fun u l => (refl u).noteChan l c
theorem testFails (m : LaneMask) (r : RunningTest) (k : Cause) : FramesKept s (t.testFails m r k) := by
  unfold State.testFails
  extract_lets s1
  have failed : FramesKept s s1 := (h.switchFault m r.ch k).lanes rfl
  have ended : FramesKept s (s1.endMajority r) := failed.modLane r.lane fun _ => rfl
  exact ended.ite failed
theorem gateSense (l : LaneId) (g : GroupId) (gs : BitVec 8) : FramesKept s (t.gateSense l g gs) := by
  unfold State.gateSense
  refine each ?_ _ fun u c => (refl u).lanes rfl
  split
  · have opened (f : GroupState → GroupState) : FramesKept s (t.modGroup g f) := h.lanes rfl
    exact h.ite (ite ((h.testFails ..).ite h) ((opened _).ite h))
  · exact h
theorem foreignAt (l : LaneId) (c : Chan) (k : Cause) (src : Option Chan) : FramesKept s (t.foreignAt l c k src) := by
  unfold State.foreignAt
  extract_lets prot s1 s2 s3 s4
  have decided : FramesKept s s1 := h.modLane l fun _ => rfl
  have reverted : FramesKept s s2 := (decided.trigger ..).ite decided
  have reacted : FramesKept s s3 := by
    have latched (d : Chan) : FramesKept s (s2.react l d) := reverted.modLane l fun _ => rfl
    unfold s3
    split
    · exact (latched _).ite reverted
    · exact reverted
  have said : FramesKept s s4 := (reacted.note ..).ite reacted
  exact (said.noteChan l c).ite ((said.noteChan l c).event ..)
theorem vwJudge (l : LaneId) (c : Chan) : FramesKept s (t.vwJudge l c) := by
  unfold State.vwJudge
  extract_lets p a
  refine h.ite ?_
  have counted (f : Proving → Proving) : FramesKept s (t.modProv l c f) := h.modLane l fun _ => rfl
  exact ((counted _).foreignAt ..).ite (counted _)

end

end FramesKept

/-! ## A frame -/

/-- A lane holds something else of one front-end, and other trip latches. -/
def State.setLaneGroup (s : State) (l : LaneId) (g : GroupId) (B : LaneGroup) (k : Latches) : State :=
  s.modLane l fun L => { L with grp := L.grp.set g B, latches := k }
theorem State.setLaneGroup_frames (s : State) (l : LaneId) (g : GroupId) (B : LaneGroup) (k : Latches) :
    (s.setLaneGroup l g B k).lanes[l].frames = (s.lanes[l].grp.set g B, k.short, k.overtemp) := by
  rw [State.setLaneGroup, State.modLane_same]
  rfl
/-- A good frame is the lane's last good one, none has been bad since, and its trips are latched (R42, R43). -/
theorem State.sideGood_frames (s : State) (l : LaneId) (g : GroupId) (w : SideBits) : ∃ B : LaneGroup, B.side = w ∧ B.bad = 0 ∧
    (s.sideGood l g w).lanes[l].frames = (s.lanes[l].grp.set g B, s.lanes[l].latches.short ||| groupMask g (Side.sc w),
      s.lanes[l].latches.overtemp ||| groupMask g (Side.ot w)) := by
  unfold State.sideGood
  extract_lets L B lk diff s1 s2 s3
  have k2 : FramesKept s1 s2 := (FramesKept.refl s1).measLinkFault ..
  have k3 : FramesKept s1 s3 := (k2.each _ fun u x => ((FramesKept.refl u).driveLinkFault ..).ite (.refl u)).gateSense ..
  have watched : FramesKept s1 (s3.each (groupChans g) fun s c => if (Side.vw w).getLsbD c.pos.val then s.vwJudge l c else s) :=
    k3.each _ fun u c => ((FramesKept.refl u).vwJudge l c).ite (.refl u)
  have noted := watched.each (groupChans g) fun u c => (FramesKept.refl u).noteChan l c
  exact ⟨{ B with side := w, bad := 0, good := lk.1, measLink := lk.2, diffSince := diff }, rfl, rfl,
    (noted.lane l).trans (s.setLaneGroup_frames l g _ _)⟩
/-- A discarded frame counts; the third in a row brings MEAS_LINK (R77). -/
theorem State.sideBad_frames (s : State) (l : LaneId) (g : GroupId) : ∃ B : LaneGroup, B.side = s.lanes[l].grp[g].side ∧
    B.bad = s.lanes[l].grp[g].bad + 1 ∧ (2 ≤ s.lanes[l].grp[g].bad → B.measLink = true) ∧
    (s.sideBad l g).lanes[l].frames = (s.lanes[l].grp.set g B, s.lanes[l].latches.short, s.lanes[l].latches.overtemp) := by
  unfold State.sideBad
  extract_lets B lk s1
  have noted := ((FramesKept.refl s1).measLinkFault l g.val B.measLink lk.2).each (groupChans g) fun u c => (FramesKept.refl u).noteChan l c
  refine ⟨{ B with bad := lk.1, good := 0, measLink := lk.2 }, rfl, rfl, fun third => ?_, (noted.lane l).trans (s.setLaneGroup_frames l g _ s.lanes[l].latches)⟩
  have two : 2 ≤ B.bad := third
  simpa [lk, linkBad] using Or.inr two

/-! ## The stream -/

/-- What a lane's check of the side frames has made of its record of a front-end. -/
def LaneGroup.link (B : LaneGroup) : SideBits × Nat × Bool := (B.side, B.bad, B.measLink)
theorem LaneGroup.push_link (B : LaneGroup) (total now : Nat) (k : Vector Coef 20) (avail ns : Bool) (b : ModBits) :
    (B.push total now k avail ns b).link = B.link := by
  unfold LaneGroup.push
  extract_lets st n tf B1 B2
  have fast : B2.link = B.link := by unfold B2; split <;> rfl
  split
  · exact fast
  · exact fast
theorem LaneGroup.pushes_link (total now : Nat) (k : Vector Coef 20) (avail ns : Bool) (ws : List ModBits) (B : LaneGroup) :
    (ws.foldl (fun B b => B.push total now k avail ns b) B).link = B.link := by
  induction ws generalizing B with
  | nil => rfl
  | cons b ws ih => exact (ih _).trans (B.push_link ..)
theorem LaneGroup.intake_link (B : LaneGroup) (now : Nat) (k : Vector Coef 20) (avail ns : Bool) (ws : List ModBits) :
    (B.intake now k avail ns ws).link = B.link := B.pushes_link ..
/-- The samples of the stream change neither the check of the side frames nor the trip latches, and of no other front-end anything. -/
theorem State.takeMods_frames (s : State) (l : LaneId) (g : GroupId) (ms : List ModBits) : ∃ B : LaneGroup, B.link = s.lanes[l].grp[g].link ∧
    (s.takeMods l g ms).lanes[l].frames = (s.lanes[l].grp.set g B, s.lanes[l].latches.short, s.lanes[l].latches.overtemp) := by
  unfold State.takeMods
  extract_lets B C B1 B2
  have link : B2.link = B.link := by
    change B1.link = B.link
    unfold B1
    split
    · exact B.intake_link ..
    · rfl
  have captured (u : State) (n t : Nat) : (u.capTake l g n t).lanes = u.lanes := by
    unfold State.capTake
    split
    · rfl
    · split <;> rfl
  refine ⟨B2, link, ?_⟩
  rw [captured]
  exact s.setLaneGroup_frames l g B2 s.lanes[l].latches

/-! ## A frame with its stream -/

/-- What SIDE_FRAME leaves in its lane: the check of the frame, then the samples; of the other front-ends nothing. -/
theorem State.sideFrame_frames {s t : State} {l : LaneId} {g : GroupId} {B : LaneGroup} {x y : ChanMask}
    (checked : t.lanes[l].frames = (s.lanes[l].grp.set g B, x, y)) (ms : List ModBits) :
    ((t.takeMods l g ms).lanes[l].grp[g].link, (t.takeMods l g ms).lanes[l].latches.short, (t.takeMods l g ms).lanes[l].latches.overtemp)
      = (B.link, x, y) ∧ ∀ h, h ≠ g → (t.takeMods l g ms).lanes[l].grp[h] = s.lanes[l].grp[h] := by
  obtain ⟨C, link, e⟩ := t.takeMods_frames l g ms
  obtain ⟨grp, short, overtemp⟩ := by simpa only [LaneState.frames, Prod.mk.injEq] using e
  obtain ⟨grp0, short0, overtemp0⟩ := by simpa only [LaneState.frames, Prod.mk.injEq] using checked
  rw [grp, short, overtemp, grp0, short0, overtemp0]
  constructor
  · rw [grp0] at link
    simpa using link
  · intro h ne
    have far : g.val ≠ h.val := fun e => ne (Fin.ext e.symm)
    simp [far]
theorem exec_sideFrame {s : State} {l : LaneId} (active : s.active l = true) (g : GroupId) (rx : RxStream) :
    exec (.sideFrame l g rx) s = .next ((s.sideCheck l g (s.rxWords g rx)).takeMods l g ((s.rxWords g rx).map wordMods)) := by
  change execSideFrame l g rx s = _
  rw [execSideFrame, if_pos active]
theorem State.sideCheck_good {s : State} {l : LaneId} {g : GroupId} {ws : List StreamWord} {w : SideBits} (e : sideOf ws = some w)
    (ok : Side.crcOk w = true) : s.sideCheck l g ws = s.sideGood l g w := by
  simp [State.sideCheck, e, ok]
theorem State.sideCheck_bad {s : State} {l : LaneId} {g : GroupId} {ws : List StreamWord}
    (bad : ∀ w, sideOf ws = some w → Side.crcOk w = false) : s.sideCheck l g ws = s.sideBad l g := by
  unfold State.sideCheck
  cases e : sideOf ws with
  | none => rfl
  | some w => simp [bad w e]
/-- Whichever way the check of a frame goes, it changes what the lane holds of that front-end alone. -/
theorem State.sideCheck_frames (s : State) (l : LaneId) (g : GroupId) (ws : List StreamWord) :
    ∃ B x y, (s.sideCheck l g ws).lanes[l].frames = (s.lanes[l].grp.set g B, x, y) := by
  have discarded : ∃ B x y, (s.sideBad l g).lanes[l].frames = (s.lanes[l].grp.set g B, x, y) := by
    obtain ⟨B, -, -, -, e⟩ := s.sideBad_frames l g
    exact ⟨B, _, _, e⟩
  unfold State.sideCheck
  split
  · next w _ =>
    split
    · obtain ⟨B, -, -, e⟩ := s.sideGood_frames l g w
      exact ⟨B, _, _, e⟩
    · exact discarded
  · exact discarded

end Sys2Proof.Machine

open Sys2Proof Sys2Proof.Machine

/-- Settles O21. The check's lemma for a good and for a bad frame, then the samples of the stream, which leave both as they are. -/
theorem sideFramesAreTakenOrDiscarded : Obligations.SideFramesAreTakenOrDiscarded := by
  intro l g ws s active
  refine ⟨_, exec_sideFrame active g (.words ws), fun w e ok => ?_, fun bad => ?_, ?_, fun mods vw sent => ?_⟩
  · obtain ⟨B, side, count, checked⟩ := s.sideGood_frames l g w
    obtain ⟨lane, -⟩ := State.sideFrame_frames ((s.sideCheck_good (l := l) (g := g) e ok).symm ▸ checked) (ws.map wordMods)
    simp only [LaneGroup.link, Prod.mk.injEq, side, count] at lane
    obtain ⟨⟨hside, hbad, -⟩, short, overtemp⟩ := lane
    exact ⟨hside, hbad, short, overtemp⟩
  · obtain ⟨B, side, count, third, checked⟩ := s.sideBad_frames l g
    obtain ⟨lane, -⟩ := State.sideFrame_frames ((s.sideCheck_bad (l := l) (g := g) bad).symm ▸ checked) (ws.map wordMods)
    simp only [LaneGroup.link, Prod.mk.injEq, side, count] at lane
    obtain ⟨⟨hside, hbad, meas⟩, -⟩ := lane
    exact ⟨hside, hbad, fun two => meas.trans (third two)⟩
  · obtain ⟨B, x, y, checked⟩ := s.sideCheck_frames l g ws
    exact (State.sideFrame_frames checked (ws.map wordMods)).2
  · rw [exec_sideFrame active]
    have words : s.rxWords g (.asSent mods vw) = s.rxWords g (.words ws) := sent
    rw [words]
end

