-- ==== Sys2Proof/Proofs/PeriodWindows.lean ====
section
/-!
PROOFS. Period windows (R86, R87): the records that a closed window leaves in the lanes and in the group, and the event of a group's
overload (R40).
-/

namespace Sys2Proof.Machine

/-! ## What a lane judges from a record changes no record -/

/-- Two states agree in the groups and in what every lane holds of the front-ends. -/
structure ResultsKept (s t : State) : Prop where
  groups : t.groups = s.groups
  lane : ∀ l : LaneId, t.lanes[l].grp = s.lanes[l].grp

namespace ResultsKept

theorem refl (s : State) : ResultsKept s s := ⟨rfl, fun _ => rfl⟩
theorem trans {s t u : State} (h : ResultsKept s t) (k : ResultsKept t u) : ResultsKept s u :=
  ⟨k.groups.trans h.groups, fun l => (k.lane l).trans (h.lane l)⟩
theorem ite {s t u : State} {p : Prop} [Decidable p] (h : ResultsKept s t) (k : ResultsKept s u) : ResultsKept s (if p then t else u) := by
  split <;> assumption
theorem each {α : Type} {f : State → α → State} (xs : List α) (hf : ∀ u x, ResultsKept u (f u x)) (s : State) : ResultsKept s (s.each xs f) :=
  ⟨each_field (·.groups) xs (fun u x _ => (hf u x).groups) s, fun l => each_field (·.lanes[l].grp) xs (fun u x _ => (hf u x).lane l) s⟩
theorem modLane {s t : State} (h : ResultsKept s t) (l : LaneId) {f : LaneState → LaneState} (hf : ∀ L, (f L).grp = L.grp) :
    ResultsKept s (t.modLane l f) := by
  refine h.trans ⟨rfl, fun k => ?_⟩
  by_cases e : k = l
  · subst e
    rw [State.modLane_same, hf]
  · rw [State.modLane_other _ _ _ _ e]
theorem of_reported {s t : State} (h : Reported s t) : ResultsKept s t := ⟨by rw [h.rest], fun l => by rw [h.lane l]⟩
theorem drift (s : State) (l : LaneId) (c : Chan) (r : PeriodRec) (start len : Nat) : ResultsKept s (s.drift l c r start len) := by
  unfold State.drift
  extract_lets bad b out inn n was now s1
  have counted : ResultsKept s s1 := by
    refine modLane (modLane (refl s) l ?_) l ?_ <;> exact fun _ => rfl
  exact (counted.ite (counted.trans (of_reported (Reported.noteChan ..)))).ite (refl s)
theorem laneWindow (s : State) (l : LaneId) (c : Chan) (r : PeriodRec) (a b : Nat) : ResultsKept s (s.laneWindow l c r a b) := by
  unfold State.laneWindow
  extract_lets s1
  have judged : ResultsKept s s1 := (refl s).ite (drift ..)
  refine ite (judged.modLane l ?_) judged
  exact fun _ => rfl
theorem windowWear (s : State) (l : LaneId) (c : Chan) (r : PeriodRec) (start len : Nat) : ResultsKept s (s.windowWear l c r start len) := by
  unfold State.windowWear
  extract_lets d incl s1
  have summed (t : State) (f : LampRun → LampRun) : ResultsKept t (t.modLamp l c f) := ⟨rfl, fun _ => rfl⟩
  have conductance : ResultsKept s s1 := (summed s _).ite (refl s)
  exact (conductance.trans (summed ..)).ite conductance

end ResultsKept

/-! ## The lanes take their records -/

/-- A lane takes its own records of a window, and judges them channel by channel. -/
def State.recorded (s t : State) (g : GroupId) (a b : Nat) (mark : Bool) (pseq : Byte) (l : LaneId) : State :=
  (t.modLane l fun L => { L with grp := L.grp.set g { L.grp[g] with recs := s.windowRecs l g a b mark pseq } }).each (groupChans g)
    fun t c => match s.winRecord l g c.pos a b mark pseq with
      | some r => (t.laneWindow l c r a b).windowWear l c r a (b - a)
      | none => t
/-- Judging leaves the groups, and what the lanes hold of the front-ends, as the records have been taken. -/
theorem State.recorded_kept (s t : State) (g : GroupId) (a b : Nat) (mark : Bool) (pseq : Byte) (l : LaneId) :
    ResultsKept (t.modLane l fun L => { L with grp := L.grp.set g { L.grp[g] with recs := s.windowRecs l g a b mark pseq } })
      (s.recorded t g a b mark pseq l) := by
  refine ResultsKept.each _ (fun u c => ?_) _
  split
  · exact (ResultsKept.laneWindow ..).trans (ResultsKept.windowWear ..)
  · exact .refl u
theorem State.recorded_groups (s t : State) (g : GroupId) (a b : Nat) (mark : Bool) (pseq : Byte) (l : LaneId) :
    (s.recorded t g a b mark pseq l).groups = t.groups := (s.recorded_kept t g a b mark pseq l).groups
theorem State.recorded_same (s t : State) (g : GroupId) (a b : Nat) (mark : Bool) (pseq : Byte) (l : LaneId) :
    ((s.recorded t g a b mark pseq l).lanes[l].grp[g]).recs = s.windowRecs l g a b mark pseq := by
  rw [(s.recorded_kept t g a b mark pseq l).lane l, State.modLane_same]
  simp
theorem State.recorded_other (s t : State) (g : GroupId) (a b : Nat) (mark : Bool) (pseq : Byte) {l m : LaneId} (ne : m ≠ l) :
    (s.recorded t g a b mark pseq l).lanes[m].grp = t.lanes[m].grp := by
  rw [(s.recorded_kept t g a b mark pseq l).lane m, State.modLane_other _ _ _ _ ne]
/-- After a run through lanes each of them holds its own records, as does a lane that held them before. -/
theorem State.allRecorded (s : State) (g : GroupId) (a b : Nat) (mark : Bool) (pseq : Byte) (m : LaneId) (ls : List LaneId) (t : State)
    (h : m ∈ ls ∨ (t.lanes[m].grp[g]).recs = s.windowRecs m g a b mark pseq) :
    ((t.each ls fun t l => s.recorded t g a b mark pseq l).lanes[m].grp[g]).recs = s.windowRecs m g a b mark pseq := by
  unfold State.each
  induction ls generalizing t with
  | nil => simpa using h
  | cons l ls ih =>
    refine ih (s.recorded t g a b mark pseq l) ?_
    by_cases e : m = l
    · subst e
      exact .inr (s.recorded_same ..)
    · rw [s.recorded_other t g a b mark pseq e]
      simpa [e] using h
theorem State.windowRecs_at (s : State) (l : LaneId) (g : GroupId) (a b : Nat) (mark : Bool) (pseq : Byte) (k : Fin 8) :
    (s.windowRecs l g a b mark pseq)[k] = (s.winSums l g k a b).record (s.lanes[l].grp[g]).recs[k] mark pseq := by
  simp [State.windowRecs]

/-! ## The group takes the records of the first lane -/

/-- A window closes where no lane has computed samples: the next one begins. -/
def State.windowPassed (s : State) (g : GroupId) (b : Nat) : State := s.modGroup g fun G => { G with feed := G.feed.nextWindow b }
/-- The group's records are marked FIXED if it is an AC group on fixed windows (R86). -/
def State.fixedMark (s : State) (g : GroupId) : Bool := s.params.isAc g && !s.groups[g].feed.lock
/-- The sequence number of the records of a window that closes. -/
def State.windowSeq (s : State) (g : GroupId) : Byte := (nextSeq s.groups[g].feed.periodSeq).setWidth 8
/-- A window closes: the group shows the records of one lane. -/
def State.windowShown (s : State) (g : GroupId) (a b : Nat) (amb : Int) (l : LaneId) : State := s.modGroup g fun G =>
  let G1 := { G with recs := s.windowRecs l g a b (s.fixedMark g) (s.windowSeq g) }
  { G1 with feed := { (G.feed.nextWindow b).load (overLoad (G1.loadSum (s.params.chUsed g)) (loadLimit s.params g amb)) s.now with
    periodSeq := nextSeq s.groups[g].feed.periodSeq, fixed := !(s.params.isAc g && s.groups[g].feed.lock) } }
theorem State.closeWindow_none {s : State} {g : GroupId} {a : Nat} (e : s.winLanes g a = []) (b : Nat) (amb : Int) :
    s.closeWindow g a b amb = s.windowPassed g b := by
  rw [State.closeWindow, e]
  rfl
theorem State.closeWindow_some {s : State} {g : GroupId} {a : Nat} {l : LaneId} {rest : List LaneId} (e : s.winLanes g a = l :: rest) (b : Nat) (amb : Int) :
    s.closeWindow g a b amb = (s.windowShown g a b amb l).each (l :: rest) fun t l => s.recorded t g a b (s.fixedMark g) (s.windowSeq g) l := by
  have mark : (!(s.params.isAc g && s.groups[g].feed.lock) && s.params.isAc g) = s.fixedMark g := by
    unfold State.fixedMark
    cases s.params.isAc g <;> simp
  rw [State.closeWindow, e]
  dsimp only
  rw [mark]
  rfl
theorem exec_periodWindowClose {g : GroupId} {a b : Nat} {s : State} (window : s.windowNow g = some (a, b)) (runs : s.mode.mode.runs = true) (amb : Int) :
    exec (.periodWindowClose g amb) s = .next (s.closeWindow g a b amb) := by
  change execPeriodWindowClose g amb s = _
  rw [execPeriodWindowClose, window]
  dsimp only
  rw [if_pos runs]
/-- What closing a window leaves where a lane computed samples: the groups are those that show the first lane's records. -/
theorem State.closeWindow_groups {s : State} {g : GroupId} {a : Nat} {l : LaneId} {rest : List LaneId} (e : s.winLanes g a = l :: rest) (b : Nat) (amb : Int) :
    (s.closeWindow g a b amb).groups = (s.windowShown g a b amb l).groups := by
  rw [State.closeWindow_some e]
  exact each_field (·.groups) _ (fun t m _ => s.recorded_groups ..) _
theorem State.closeWindow_lane {s : State} {g : GroupId} {a : Nat} {m : LaneId} (h : m ∈ s.winLanes g a) (b : Nat) (amb : Int) :
    ((s.closeWindow g a b amb).lanes[m].grp[g]).recs = s.windowRecs m g a b (s.fixedMark g) (s.windowSeq g) := by
  cases e : s.winLanes g a with
  | nil => simp [e] at h
  | cons l rest =>
    rw [State.closeWindow_some e]
    exact s.allRecorded g a b _ _ m _ _ (.inl (e ▸ h))

/-! ## The overload of a group -/

/-- The stay above the limit is reported (R40). -/
def State.overloadSaid (s : State) (g : GroupId) : State := s.modGroup g fun G => { G with feed := { G.feed with overSaid := true } }
theorem exec_groupOverload {g : GroupId} {s : State} {a : Nat} (unsaid : s.groups[g].feed.overSaid = false)
    (since : s.groups[g].feed.overSince = some a) (second : a + Config.sec ≤ s.now) :
    exec (.groupOverload g) s = .next ((s.overloadSaid g).note EventCode.groupOverload [g.val]) := by
  have due : (!s.groups[g].feed.overSaid && s.groups[g].feed.overSince.any fun t => decide (t + Config.sec ≤ s.now)) = true := by
    rw [unsaid, since, Option.any_some, Bool.not_false, Bool.true_and]
    exact decide_eq_true second
  exact congrArg Host.Outcome.next (if_pos due)
/-- A reported event touches the reports alone. -/
theorem State.note_agrees (s : State) (code : Nat) (i : List Nat) : agreeButReports s (s.note code i) := by
  have agrees := (Reported.event s code 0 3 (scope i 0xFF) []).agrees
  rw [State.event_lanes, State.event_act] at agrees
  unfold State.note
  exact agrees

end Sys2Proof.Machine

open Sys2Proof Sys2Proof.Machine

/-- Settles O27. A window closes with or without a lane's results; where there are some the group takes the first lane's, and what the
lanes then judge keeps every record. -/
theorem windowsYieldPeriodRecords : Obligations.WindowsYieldPeriodRecords := by
  refine ⟨fun g a b amb s window runs => ⟨_, exec_periodWindowClose window runs amb, ?_⟩, fun g s a unsaid since second =>
    ⟨_, exec_groupOverload unsaid since second, ?_⟩⟩
  · cases e : s.winLanes g a with
    | nil =>
      rw [State.closeWindow_none e, State.windowPassed, State.modGroup_same]
      exact ⟨rfl, fun h ne => State.modGroup_other _ _ _ _ ne, fun _ => ⟨rfl, rfl⟩, by simp⟩
    | cons l0 rest =>
      rw [State.closeWindow_groups e, State.windowShown, State.modGroup_same]
      refine ⟨rfl, fun h ne => State.modGroup_other _ _ _ _ ne, by simp, fun l first => ?_⟩
      obtain rfl : l0 = l := by simpa using first
      refine ⟨rfl, fun k => s.windowRecs_at .., fun m hm k => ?_⟩
      rw [State.closeWindow_lane (e ▸ hm)]
      exact s.windowRecs_at ..
  · refine ⟨?_, ?_, fun h ne => ?_, ?_⟩
    · rw [State.note_flash]
      simp [State.overloadSaid]
    · rw [State.note_groups, State.overloadSaid, State.modGroup_same]
    · rw [State.note_groups, State.overloadSaid, State.modGroup_other _ _ _ _ ne]
    · rw [State.note_groups]
      exact State.note_agrees (s.overloadSaid g) ..
end

