-- ==== Sys2Proof/Proofs/Converter.lean ====
section
/-!
PROOFS. The auxiliary converter: what a trigger of the injected sequence makes of the conversion in progress (R101, R102), and what a
conversion that completes leaves in the result registers (R104, R109), whatever the lanes make of its result.
-/

namespace Sys2Proof.Machine

/-! ## The choice of the next conversion -/

/-- One converter comes from another without storing a result: the number, the pair still to convert and the results are the same, but for
the instants from which a new mode counts their age (R98, R105). -/
structure AuxConv.ResultsKept (a b : AuxConv) : Prop where
  seq : b.seq = a.seq
  calPend : b.calPend = a.calPend
  res : ∀ k : Fin 20, b.res[k] = { a.res[k] with at_ := b.res[k].at_ }
theorem AuxConv.ResultsKept.of_eq {a b : AuxConv} (seq : b.seq = a.seq) (pend : b.calPend = a.calPend) (res : b.res = a.res) : a.ResultsKept b :=
  ⟨seq, pend, fun k => by rw [res]⟩
theorem AuxConv.ResultsKept.adopt (a : AuxConv) (v : Word) (now : Nat) : a.ResultsKept { a.adopt v now with nextMode := none } := by
  unfold AuxConv.adopt
  split
  · exact .of_eq rfl rfl rfl
  · exact ⟨rfl, rfl, fun k => by simp⟩
/-- The choice of the next conversion stores no result, and leaves a requested pair pending. -/
theorem AuxConv.boundary_resultsKept (a : AuxConv) (now : Nat) (refs : Bool) : a.ResultsKept (a.boundary now refs) := by
  unfold AuxConv.boundary
  extract_lets x ns b e
  have moded : a.ResultsKept x := by
    unfold x
    split
    · exact .adopt ..
    · exact .of_eq rfl rfl rfl
  have chosen (y : AuxConv) (seq : y.seq = x.seq) (pend : y.calPend = x.calPend) (res : y.res = x.res) : a.ResultsKept y :=
    ⟨seq.trans moded.seq, pend.trans moded.calPend, fun k => by rw [res]; exact moded.res k⟩
  repeat' split
  all_goals exact chosen _ rfl rfl rfl
@[simp] theorem AuxConv.boundary_seq (a : AuxConv) (now : Nat) (refs : Bool) : (a.boundary now refs).seq = a.seq := (a.boundary_resultsKept now refs).seq

/-! ## Triggers of the injected sequence -/

/-- The injected sequence converts its entry 0. -/
def AuxConv.injects (a : AuxConv) (now : Nat) (refs : Bool) : AuxConv :=
  ({ a with injAct := true, injPend := false, injNext := 1 }).begin_ 16 (a.injInput 0) now !refs
/-- The trigger of a number has come, and its sequence waits; of the regular entries one is due next. -/
def AuxConv.triggered (a : AuxConv) (src : BitVec 2) (due : Nat) : AuxConv := { a with trigLast := src, injPend := true, nextReg := due }
/-- The converter runs injected sequences, and no change of its mode waits. -/
structure AuxConv.Sequences (a : AuxConv) : Prop where
  mode : auxMode a.ctrl = 2
  len : auxInjLen a.ctrl ≠ 0
  steady : a.nextMode = none
theorem AuxConv.boundary_injects {a : AuxConv} (runs : a.Sequences) (waits : a.injPend = true) (now : Nat) (refs : Bool) :
    a.boundary now refs = a.injects now refs := by
  obtain ⟨mode, len, steady⟩ := runs
  simp [AuxConv.boundary, AuxConv.injects, steady, mode, len, waits]
/-- In any other mode, or with INJ_LEN 0, a trigger leaves its number alone. -/
theorem AuxConv.trigger_off {a : AuxConv} (off : auxMode a.ctrl ≠ 2 ∨ auxInjLen a.ctrl = 0) (src : BitVec 2) (now : Nat) (refs : Bool) :
    a.trigger src now refs = { a with trigLast := src } := if_pos off

section
variable {a : AuxConv} (runs : a.Sequences) (src : BitVec 2) (now : Nat) (refs : Bool)
include runs

theorem AuxConv.triggered_boundary (due : Nat) : (a.triggered src due).boundary now refs = (a.triggered src due).injects now refs :=
  AuxConv.boundary_injects (a := a.triggered src due) ⟨runs.mode, runs.len, runs.steady⟩ rfl now refs
theorem AuxConv.trigger_idle (idle : a.entry = none) : a.trigger src now refs = (a.triggered src a.nextReg).injects now refs := by
  rw [← AuxConv.triggered_boundary runs]
  simp [AuxConv.trigger, AuxConv.triggered, runs.mode, runs.len, idle]
/-- A trigger during a conversion takes its place where it converts ZERO or REF, and else waits for its end. -/
theorem AuxConv.trigger_busy {e : Nat} (entry : a.entry = some e) : a.trigger src now refs =
    if e < 16 then (if a.input = 0 ∨ a.input = 1 then (a.triggered src e).injects now refs else a.triggered src a.nextReg)
    else if e = 21 ∨ e = 22 then (a.triggered src a.nextReg).injects now refs else a.triggered src a.nextReg := by
  rw [← AuxConv.triggered_boundary runs, ← AuxConv.triggered_boundary runs]
  simp [AuxConv.trigger, AuxConv.triggered, runs.mode, runs.len, entry]

end

/-- A trigger stores no result. -/
theorem AuxConv.trigger_seq (a : AuxConv) (src : BitVec 2) (now : Nat) (refs : Bool) : (a.trigger src now refs).seq = a.seq := by
  unfold AuxConv.trigger
  dsimp only
  repeat' split
  all_goals simp
/-- The number that TRIG of the next side frames names a source by. -/
def trigNumber : InjSource → BitVec 2
  | .contactor => 1
  | .trip => 2
  | .explicit => 3
theorem exec_injectedTrigger {g : GroupId} {x : InjSource} {s : State} (tripped : x = .trip → s.fe[g].sc ≠ 0) :
    exec (.injectedTrigger g x) s = .next (s.modFe g fun f => { f with aux := f.aux.trigger (trigNumber x) s.now f.refs }) := by
  have arises : ¬(x = .trip ∧ s.fe[g].sc = 0) := fun ⟨trip, none_⟩ => tripped trip none_
  refine congrArg Host.Outcome.next ((if_neg arises).trans ?_)
  cases x <;> rfl

/-! ## What the lanes make of a result leaves the front-ends -/

theorem fe_ite {s t u : State} {p : Prop} [Decidable p] (h : t.fe = s.fe) (k : u.fe = s.fe) : (if p then t else u).fe = s.fe := by
  split <;> assumption
theorem State.abortWindow_fe (s : State) : s.abortWindow.fe = s.fe := by
  unfold State.abortWindow
  split
  · rfl
  · exact fe_ite rfl (State.note_fe ..)
theorem State.triggerAt_fe (s : State) (m : LaneMask) (g : Option GroupId) (k : Bool) : (s.triggerAt m g k).fe = s.fe := by
  cases g <;> rfl
theorem State.faultHub_fe (s : State) (h : HubId) : (s.faultHub h).fe = s.fe := fe_ite rfl rfl
/-- A fault whose reaction loses no lane (R420) leaves the front-ends. -/
theorem State.fault_fe {code : Nat} (spared : ¬(code = FaultCode.cvuSelftest ∨ code = FaultCode.lbistFail ∨ code = FaultCode.watchdog))
    (s : State) (items : List Nat) (m : LaneMask) (k : Nat) : (s.fault code items m k).fe = s.fe := by
  have reacts (u : State) : (u.reaction code items m).fe = u.fe := by
    unfold State.reaction
    extract_lets lane pt fed
    rw [if_neg spared]
    refine fe_ite (fe_ite rfl u.abortWindow_fe) (fe_ite (u.triggerAt_fe ..) (fe_ite (fe_ite rfl (u.triggerAt_fe ..)) (fe_ite rfl ?_)))
    refine fe_ite (fe_ite (u.faultHub_fe 0) (fe_ite (u.faultHub_fe 1) rfl)) (fe_ite (u.triggerAt_fe ..) (fe_ite ?_ (fe_ite ?_ rfl)))
    · exact (State.triggerAt_fe ..).trans (u.triggerAt_fe ..)
    · cases pt with
      | none => rfl
      | some p => exact u.triggerAt_fe ..
  exact fe_ite rfl ((reacts _).trans (s.raiseFault_fe ..))
theorem State.auxCal_fe (s : State) (g : GroupId) (isRef : Bool) (raw : Int) : (s.auxCal g isRef raw).fe = s.fe := by
  unfold State.auxCal
  extract_lets w w1
  split
  · rfl
  · exact fe_ite (State.withdrawFault_fe ..) (State.fault_fe (by decide) ..)
theorem State.auxCheck_fe (s : State) (g : GroupId) (input : Nat) (y : Int) : (s.auxCheck g input y).fe = s.fe := by
  have reference (u : State) : (u.fault FaultCode.refFault [g.val] s.voteMask).fe = u.fe := State.fault_fe (by decide) ..
  have hot (u : State) : (u.fault FaultCode.feOvertemp [g.val] s.voteMask).fe = u.fe := State.fault_fe (by decide) ..
  have leak (u : State) : (u.fault FaultCode.feedEarthLeak [g.val] s.voteMask).fe = u.fe := State.fault_fe (by decide) ..
  have supply (u : State) : (u.fault FaultCode.feSupply [g.val, input] s.voteMask).fe = u.fe := State.fault_fe (by decide) ..
  unfold State.auxCheck
  extract_lets good s1 over_ since s2
  have taken : s1.fe = s.fe := rfl
  have leaking : s2.fe = s.fe := rfl
  clear_value good s1 over_ s2
  refine fe_ite (fe_ite taken ((reference _).trans taken)) (fe_ite (fe_ite (hot s) (fe_ite (s.withdrawFault_fe ..) rfl)) (fe_ite ?_ ?_))
  · exact fe_ite (fe_ite ((leak _).trans leaking) leaking) (State.withdrawFault_fe ..)
  · split
    · rfl
    · exact fe_ite (supply _) rfl
theorem State.teachLost_fe (s : State) (g : GroupId) : (s.teachLost g).fe = s.fe := by rw [State.teachLost_rest]
theorem State.feedResult_fe (s : State) (g : GroupId) (t : Nat) (y : Int) (ns : Bool) : (s.feedResult g t y ns).fe = s.fe := by
  unfold State.feedResult
  extract_lets p f hist up f1 f2 seen wrongAt wrong s1 s2 s3
  have tracked : s1.fe = s.fe := State.teachLost_fe ..
  have matched : s2.fe = s.fe :=
    fe_ite ((State.fault_fe (by decide) ..).trans tracked) (fe_ite ((State.withdrawFault_fe ..).trans tracked) tracked)
  have locked : s3.fe = s.fe := fe_ite ((State.withdrawFault_fe ..).trans matched) matched
  have noted : Reported s3 (s3.each s.activeLanes fun s l => s.each (groupChans g) fun s c => s.noteChan l c) :=
    Reported.each _ (fun u l => Reported.each _ (fun v c => Reported.noteChan v l c) u) s3
  refine fe_ite rfl (fe_ite rfl (fe_ite locked (Eq.trans ?_ locked)))
  rw [noted.rest]

/-! ## A conversion that completes -/

/-- The value of a completed conversion: raw for ZERO and REF, corrected for the rest (R95, R104). -/
def AuxConv.value (a : AuxConv) (k : Coef) (raw : Int) : Int := if a.input = 0 ∨ a.input = 1 then raw else correctAux k raw
/-- The converter after the conversion of an entry with a result register, before it chooses the next one (R104). -/
def AuxConv.stores (a : AuxConv) (r : Nat) (raw val : Int) (now : Nat) : AuxConv :=
  { a.finished raw true with
    res := a.res.setIfInBounds r { seq := a.seq, input := a.input, ns := a.startNs, val := val, at_ := now }, seq := nextSeq a.seq }
/-- The converter after a conversion of a requested pair, before it chooses the next one (R103). -/
def AuxConv.converts (a : AuxConv) (e : Nat) (raw : Int) : AuxConv :=
  { a.finished raw false with calZeroDone := e == 21, calPend := e != 22 && a.calPend }
/-- The converter of a completed conversion. -/
def AuxConv.completes (a : AuxConv) (e : Nat) (raw val : Int) (now : Nat) : AuxConv :=
  match auxReg e with
  | some r => a.stores r raw val now
  | none => a.converts e raw
/-- Of the front-ends a completed conversion changes the converter alone, whatever the lanes make of the result. -/
theorem State.auxDone_fe {s : State} {g : GroupId} {e : Nat} (entry : s.fe[g].aux.entry = some e) (raw : Int) : (s.auxDone g raw).fe =
    (s.modFe g fun f => { f with aux :=
      (f.aux.completes e raw (f.aux.value s.groups[g].watch.coef raw) s.now).boundary s.now f.refs }).fe := by
  unfold State.auxDone
  extract_lets f a cal y stored converted mid
  rw [show a.entry = some e from entry]
  dsimp -zeta only
  extract_lets a1 a2 s1 s2
  have value : y = a.value s.groups[g].watch.coef raw := by
    simp [y, cal, AuxConv.value]
  have completed : a1 = a.completes e raw y s.now := by
    unfold a1 AuxConv.completes
    cases auxReg e <;> rfl
  have chosen : s2.fe = s1.fe := fe_ite rfl (State.withdrawFault_fe ..)
  refine Eq.trans (fe_ite ((State.auxCal_fe ..).trans chosen)
    (fe_ite ((State.feedResult_fe ..).trans chosen) (fe_ite chosen ((State.auxCheck_fe ..).trans chosen)))) ?_
  unfold s1 a2
  rw [completed, value]
  rfl
/-- A result goes to the register of its entry, under the number of the conversion. -/
theorem AuxConv.stores_res (a : AuxConv) (r : Fin 20) (raw val : Int) (now : Nat) :
    (a.stores r raw val now).res[r] = { seq := a.seq, input := a.input, ns := a.startNs, val := val, at_ := now } ∧
      ∀ k, k ≠ r → (a.stores r raw val now).res[k] = a.res[k] := by
  refine ⟨by simp [AuxConv.stores], fun k other => ?_⟩
  have far : r.val ≠ k.val := fun e => other (Fin.ext e.symm)
  simp [AuxConv.stores, far]

end Sys2Proof.Machine

open Sys2Proof Sys2Proof.Machine

/-- Settles O24, by what the converter converts as the trigger comes. -/
theorem triggersStartTheInjectedSequence : Obligations.TriggersStartTheInjectedSequence := by
  unfold Obligations.TriggersStartTheInjectedSequence
  intro g x s tripped
  refine ⟨_, exec_injectedTrigger tripped, State.modFe_agrees s g _, ?_⟩
  rw [State.modFe_same]
  refine ⟨?_, AuxConv.trigger_seq .., fun mode len steady => ?_, fun off => ?_⟩
  · rw [AuxConv.trigger_trigLast]
    cases x <;> rfl
  · have runs : s.fe[g].aux.Sequences := ⟨mode, len, steady⟩
    refine ⟨fun e entry regular zero ref => ?_, fun e entry regular cal => ?_, fun e entry pair => ?_, fun idle => ?_⟩
    · have other : ¬(s.fe[g].aux.input = 0 ∨ s.fe[g].aux.input = 1) := fun cal => cal.elim zero ref
      rw [AuxConv.trigger_busy runs _ _ _ entry, if_pos regular, if_neg other]
      exact ⟨entry, rfl⟩
    · rw [AuxConv.trigger_busy runs _ _ _ entry, if_pos regular, if_pos cal]
      exact ⟨rfl, rfl, rfl⟩
    · have late : ¬ e < 16 := by omega
      rw [AuxConv.trigger_busy runs _ _ _ entry, if_neg late, if_pos pair]
      exact ⟨rfl, rfl⟩
    · rw [AuxConv.trigger_idle runs _ _ _ idle]
      rfl
  · rw [AuxConv.trigger_off off]

/-- Settles O25: the entry's register and the number are what the completed conversion leaves, and the choice of the next one keeps both. -/
theorem conversionsAreNumbered : Obligations.ConversionsAreNumbered := by
  unfold Obligations.ConversionsAreNumbered
  intro g raw s e entry
  refine ⟨_, rfl, ?_⟩
  have fe := State.auxDone_fe entry raw
  generalize s.auxDone g raw = t at fe
  rw [fe, State.modFe_same]
  dsimp only
  generalize s.fe[g].aux = a at *
  generalize value : a.value s.groups[g].watch.coef raw = v
  refine ⟨fun r register => ?_, fun pair => ?_, fun h other => by rw [State.modFe_other _ _ _ _ other]⟩
  · have stored : a.completes e raw v s.now = a.stores r raw v s.now := by
      rw [AuxConv.completes, register]
    obtain ⟨result, others⟩ := a.stores_res r raw v s.now
    obtain ⟨seq, -, kept⟩ := (a.stores r raw v s.now).boundary_resultsKept s.now s.fe[g].refs
    rw [stored, kept r, result, seq]
    refine ⟨rfl, rfl, rfl, value.symm, rfl, fun k ne => ?_⟩
    rw [kept k, others k ne]
    exact ⟨rfl, rfl, rfl⟩
  · have converted : a.completes e raw v s.now = a.converts e raw := by
      rcases pair with rfl | rfl <;> rfl
    obtain ⟨seq, pend, kept⟩ := (a.converts e raw).boundary_resultsKept s.now s.fe[g].refs
    rw [converted, seq, pend]
    refine ⟨rfl, fun k => ?_, fun ref => ?_⟩
    · rw [kept k]
      exact ⟨rfl, rfl⟩
    · rw [ref]
      rfl
end

