-- ==== Sys2Proof/Proofs/OverloadsAndReference.lean ====
section
/-!
PROOFS. The overload bits of a front-end (R78) and its reference (R96): what sets and clears them, and what else the start of the
calibrations with the reference touches.
-/

namespace Sys2Proof.Machine

/-! ## One group and its front-end -/

/-- Two states agree in all but one group and its front-end. -/
structure OneGroup (g : GroupId) (s t : State) : Prop where
  rest : t = { s with groups := t.groups, fe := t.fe }
  groups : ∀ h, h ≠ g → t.groups[h] = s.groups[h]
  fe : ∀ h, h ≠ g → t.fe[h] = s.fe[h]

namespace OneGroup

variable {g : GroupId} {s t : State}
theorem refl : OneGroup g s s := ⟨rfl, fun _ _ => rfl, fun _ _ => rfl⟩
theorem now (h : OneGroup g s t) : t.now = s.now := by rw [h.rest]
theorem modGroup (h : OneGroup g s t) (f : GroupState → GroupState) : OneGroup g s (t.modGroup g f) :=
  ⟨congrArg (fun u : State => u.modGroup g f) h.rest, fun k ne => (State.modGroup_other _ _ _ _ ne).trans (h.groups k ne), h.fe⟩
theorem modFe (h : OneGroup g s t) (f : FrontEnd → FrontEnd) : OneGroup g s (t.modFe g f) :=
  ⟨congrArg (fun u : State => u.modFe g f) h.rest, h.groups, fun k ne => (State.modFe_other _ _ _ _ ne).trans (h.fe k ne)⟩
theorem connect (h : OneGroup g s t) (m : Modulator) (x : ModInput) : OneGroup g s (t.connect g m x) := by
  unfold State.connect State.feWrite
  split
  · exact h.modFe _
  · exact h
theorem modUnder (h : OneGroup g s t) (f : Understorey → Understorey) : OneGroup g s (t.modUnder g f) :=
  h.modGroup fun G => { G with under := f G.under }
theorem agrees (h : OneGroup g s t) : agreeButGroup { s with fe := t.fe } t g := ⟨h.rest, h.groups⟩
theorem agreesFe (h : OneGroup g s t) : agreeButFe { s with groups := t.groups } t g := ⟨h.rest, h.fe⟩

end OneGroup

/-! ## Overload bits (R78) -/

theorem FrontEnd.overload_at (f : FrontEnd) (m : Modulator) (now : Nat) : has (f.overload m now).ovl m = true ∧ (f.overload m now).ovlAt[m] = now ∧
    ∀ k, k ≠ m → has (f.overload m now).ovl k = has f.ovl k :=
  ⟨has_or_only_same _ _, by simp [FrontEnd.overload], fun _ other => has_or_only_other _ other⟩
theorem exec_modulatorOverload (g : GroupId) (m : Modulator) (s : State) :
    exec (.modulatorOverload g m) s = .next (s.modFe g fun f => f.overload m s.now) := rfl
theorem exec_modulatorOverloadEnd_set {g : GroupId} {m : Modulator} {s : State} (overloaded : has s.fe[g].ovl m = true)
    (passed : s.fe[g].ovlAt[m] + 1901 ≤ s.now) :
    exec (.modulatorOverloadEnd g m) s = .next (s.modFe g fun f => f.overloadEnds m s.now) := congrArg Host.Outcome.next (if_pos ⟨overloaded, passed⟩)
theorem exec_modulatorOverloadEnd_clear {g : GroupId} {m : Modulator} {s : State} (within : has s.fe[g].ovl m = false) :
    exec (.modulatorOverloadEnd g m) s = .next s := by
  refine congrArg Host.Outcome.next (if_neg ?_)
  rintro ⟨overloaded, -⟩
  rw [within] at overloaded
  exact Bool.false_ne_true overloaded

/-! ## The reference (R96) -/

theorem State.startInPlace_oneGroup (s : State) (g : GroupId) : OneGroup g s (s.startInPlace g) := by
  unfold State.startInPlace
  split
  · exact .refl
  · exact (OneGroup.refl.modGroup _).modFe _
/-- The calibration in place switches the inputs of the modulators alone (R128). -/
theorem State.startInPlace_sameGates (s : State) (g : GroupId) : s.fe[g].SameGates (s.startInPlace g).fe[g] := by
  unfold State.startInPlace
  split
  · exact ⟨rfl, rfl, rfl, rfl⟩
  · rw [State.modFe_same]
    exact ⟨rfl, rfl, rfl, rfl⟩
/-- REFS sets, and the calibrations that wait for it begin (R96, R122, R128). -/
theorem exec_refsSet {g : GroupId} {s : State} (on : s.fe[g].refEn = true) (unset : s.fe[g].refs = false)
    (late : s.fe[g].refEnAt + 2000000 ≤ s.now) : ∃ t, exec (.refsSet g) s = .next t ∧ OneGroup g s t ∧ s.fe[g].SameGates t.fe[g] ∧
      t.fe[g].refs = true := by
  refine ⟨_, congrArg Host.Outcome.next (if_pos ⟨on, by rw [unset]; rfl, late⟩), ((s.startInPlace_oneGroup g).modGroup _).modFe _, ?_⟩
  obtain ⟨inp, conducting, sc, ot⟩ := s.startInPlace_sameGates g
  rw [State.modFe_same]
  exact ⟨⟨inp, conducting, sc, ot⟩, rfl⟩
/-- A fault stands once it is raised, where the reaction of the fault table (R420) keeps the faults. -/
theorem State.fault_stands {code : Nat} {items : List Nat} {m : LaneMask} (s : State)
    (react : ∀ u : State, (u.reaction code items m).faults = u.faults) (k : Nat) : (s.fault code items m k).stands code items = true := by
  unfold State.fault
  extract_lets known
  split
  · rename_i held
    obtain ⟨f, mem, cond⟩ := List.any_eq_true.1 held
    exact List.any_eq_true.2 ⟨f, mem, (Bool.and_eq_true_iff.1 cond).1⟩
  · unfold State.stands
    rw [react]
    exact s.raiseFault_stands code items m k
theorem State.reaction_refFault (s : State) (items : List Nat) (m : LaneMask) :
    s.reaction FaultCode.refFault items m = s.triggerAt m (itemGroup items 0) true := rfl
theorem State.triggerAt_faults (s : State) (m : LaneMask) (g : Option GroupId) (k : Bool) : (s.triggerAt m g k).faults = s.faults := by
  cases g <;> rfl
theorem exec_refFaultTimeout {g : GroupId} {s : State} (on : s.fe[g].refEn = true) (unset : s.fe[g].refs = false)
    (late : s.fe[g].refEnAt + 2400000 ≤ s.now) : exec (.refFaultTimeout g) s = .next (s.fault FaultCode.refFault [g.val] s.voteMask) :=
  congrArg Host.Outcome.next (if_pos ⟨on, by rw [unset]; rfl, late⟩)

end Sys2Proof.Machine

open Sys2Proof Sys2Proof.Machine

/-- Settles O22: each command that is due changes the bit it is about; REFS brings the calibrations of its own group alone. -/
theorem overloadBitsAndReference : Obligations.OverloadBitsAndReference := by
  unfold Obligations.OverloadBitsAndReference
  refine ⟨fun g m s => ?_, fun g m s passed => ?_, fun g s on unset late => ?_, fun g s on unset late => ?_⟩
  · obtain ⟨overloaded, at_, others⟩ := s.fe[g].overload_at m s.now
    refine ⟨_, exec_modulatorOverload g m s, ?_⟩
    rw [State.modFe_same]
    exact ⟨overloaded, at_, others, s.modFe_agrees g _⟩
  · cases held : has s.fe[g].ovl m with
    | false => exact ⟨s, exec_modulatorOverloadEnd_clear held, held, fun _ _ => rfl, rfl, fun _ _ => rfl⟩
    | true =>
      refine ⟨_, exec_modulatorOverloadEnd_set held passed, ?_⟩
      rw [State.modFe_same]
      exact ⟨has_drop_same _ _, fun k other => has_drop_other _ other, s.modFe_agrees g _⟩
  · obtain ⟨t, runs, one, gates, refs⟩ := exec_refsSet on unset late
    exact ⟨t, runs, refs, gates.inp, gates.conducting, one.agreesFe, one.agrees⟩
  · refine ⟨_, exec_refFaultTimeout on unset late, s.fault_stands (fun u => ?_) _⟩
    rw [State.reaction_refFault, State.triggerAt_faults]
end

