-- ==== Sys2Proof/Proofs/Calibration.lean ====
section
/-!
PROOFS. The calibration of the modulators: what the end of a loan's step makes of the loan (R120, R123), and what a pair on which two
lanes agree makes of the modulator it is adopted for (R117, R122, R126, R127).
-/

namespace Sys2Proof.Machine

/-! ## The Understorey state of a group -/

@[simp] theorem State.modUnder_same (s : State) (g : GroupId) (f : Understorey → Understorey) : (s.modUnder g f).groups[g].under = f s.groups[g].under := by
  rw [State.modUnder, State.modGroup_same]
theorem State.modUnder_other (s : State) {g h : GroupId} (f : Understorey → Understorey) (ne : h ≠ g) : (s.modUnder g f).groups[h] = s.groups[h] :=
  State.modGroup_other _ _ _ _ ne
/-- The Understorey state with one loan updated. -/
def Understorey.setLoan (u : Understorey) (sp : Spare) (f : Loan → Loan) : Understorey :=
  match sp with
  | .volt => { u with volt := f u.volt }
  | .curr => { u with curr := f u.curr }
@[simp] theorem Understorey.setLoan_loan (u : Understorey) (sp : Spare) (f : Loan → Loan) : (u.setLoan sp f).loan sp = f (u.loan sp) := by
  cases sp <;> rfl
@[simp] theorem Understorey.setLoan_coef (u : Understorey) (sp : Spare) (f : Loan → Loan) : (u.setLoan sp f).coef = u.coef := by
  cases sp <;> rfl
@[simp] theorem Understorey.setLoan_adoptedAt (u : Understorey) (sp : Spare) (f : Loan → Loan) : (u.setLoan sp f).adoptedAt = u.adoptedAt := by
  cases sp <;> rfl
@[simp] theorem Understorey.setLoan_rejects (u : Understorey) (sp : Spare) (f : Loan → Loan) : (u.setLoan sp f).rejects = u.rejects := by
  cases sp <;> rfl
theorem State.modLoan_eq (s : State) (g : GroupId) (sp : Spare) (f : Loan → Loan) : s.modLoan g sp f = s.modUnder g fun u => u.setLoan sp f := by
  cases sp <;> rfl
@[simp] theorem State.modLoan_under (s : State) (g : GroupId) (sp : Spare) (f : Loan → Loan) :
    (s.modLoan g sp f).groups[g].under = s.groups[g].under.setLoan sp f := by
  rw [State.modLoan_eq, State.modUnder_same]
theorem State.modLoan_other (s : State) {g h : GroupId} (sp : Spare) (f : Loan → Loan) (ne : h ≠ g) : (s.modLoan g sp f).groups[h] = s.groups[h] :=
  State.modUnder_other _ _ ne
theorem OneGroup.modLoan {g : GroupId} {s t : State} (h : OneGroup g s t) (sp : Spare) (f : Loan → Loan) : OneGroup g s (t.modLoan g sp f) := by
  rw [State.modLoan_eq]
  exact h.modUnder _
@[simp] theorem State.connect_groups (s : State) (g : GroupId) (m : Modulator) (x : ModInput) : (s.connect g m x).groups = s.groups := by
  unfold State.connect State.feWrite
  split <;> rfl
@[simp] theorem State.connect_now (s : State) (g : GroupId) (m : Modulator) (x : ModInput) : (s.connect g m x).now = s.now :=
  (OneGroup.refl.connect m x).now
@[simp] theorem State.enterStep_under (s : State) (g : GroupId) (sp : Spare) (k : LoanStep) :
    (s.enterStep g sp k).groups[g].under = s.groups[g].under.setLoan sp fun x => x.enter k s.now := s.modLoan_under ..
theorem State.enterStep_other (s : State) {g h : GroupId} (sp : Spare) (k : LoanStep) (ne : h ≠ g) : (s.enterStep g sp k).groups[h] = s.groups[h] :=
  s.modLoan_other _ _ ne
theorem State.enterStep_agrees (s : State) (g : GroupId) (sp : Spare) (k : LoanStep) : agreeButGroup s (s.enterStep g sp k) g :=
  ⟨rfl, fun _ ne => s.enterStep_other sp k ne⟩

/-! ## Lanes that differ, and pairs that agree -/

/-- A fault to which the fault table adds no reaction (R420) is dated by no instant but now. -/
theorem State.fault_report_now {code : Nat} {items : List Nat} {m : LaneMask} (s : State) (report : ∀ u : State, u.reaction code items m = u) :
    (s.fault code items m).now = s.now := by
  unfold State.fault
  extract_lets known
  split
  · rfl
  · rw [report, State.raiseFault_now]
/-- What the lanes report of each other (R132) touches no group. -/
theorem State.laneDissent_groups (s : State) (g : GroupId) (differ agree : LaneMask) : (s.laneDissent g differ agree).groups = s.groups := by
  refine each_field (·.groups) _ (fun t l _ => ?_) s
  split
  · exact (t.fault_report fun _ => rfl).2.2
  · split
    · exact State.withdrawFault_groups ..
    · rfl
theorem State.laneDissent_now (s : State) (g : GroupId) (differ agree : LaneMask) : (s.laneDissent g differ agree).now = s.now := by
  refine each_field (·.now) _ (fun t l _ => ?_) s
  split
  · exact t.fault_report_now fun _ => rfl
  · split
    · exact State.withdrawFault_now ..
    · rfl
theorem State.calDissent_groups (s : State) (g : GroupId) (m : Modulator) (zeroEnd : Nat) : (s.calDissent g m zeroEnd).groups = s.groups := by
  unfold State.calDissent
  extract_lets ms
  split
  · exact State.laneDissent_groups ..
  · rfl
theorem State.calDissent_now (s : State) (g : GroupId) (m : Modulator) (zeroEnd : Nat) : (s.calDissent g m zeroEnd).now = s.now := by
  unfold State.calDissent
  extract_lets ms
  split
  · exact State.laneDissent_now ..
  · rfl
/-- A pair on which two lanes agree and that may be adopted (R122) is the verdict of its REF step: CMPREF has given results. -/
theorem State.calVerdict_adopts {s : State} {g : GroupId} {m : Modulator} {zeroAt zeroEnd refAt : Nat} {k : Coef}
    (agreed : agreedPair (s.calSums g m zeroEnd) s.voteMask = some k)
    (fit : adoptable k (s.fe[g].refs && decide (s.fe[g].refSetAt ≤ zeroAt))
      ((s.groups[g].watch.cmpref.filter fun e => decide (refAt ≤ e.1)).map (·.2)) = true) :
    s.calVerdict g m zeroAt zeroEnd refAt = .adopt k := by
  unfold State.calVerdict
  extract_lets res
  have results : res.isEmpty = false := by
    have fit' := fit
    simp only [adoptable, Bool.and_eq_true, Bool.not_eq_true'] at fit'
    exact fit'.1.2
  rw [agreed, if_neg (by simp [results])]
  exact if_pos fit

/-- The Understorey state with a pair adopted for a modulator (R117, R122). -/
def Understorey.adopts (u : Understorey) (m : Modulator) (k : Coef) (now : Nat) : Understorey :=
  { u with coef := u.coef.set m k, adoptedAt := u.adoptedAt.set m now, rejects := u.rejects.set m 0, overdue := u.overdue &&& ~~~(only m) }
theorem Understorey.adopts_at (u : Understorey) (m : Modulator) (k : Coef) (now : Nat) :
    (u.adopts m k now).coef[m] = k ∧ (u.adopts m k now).rejects[m] = 0 ∧ (u.adopts m k now).adoptedAt[m] = now := by
  simp [Understorey.adopts]
/-- A pair is adopted with what the lanes report of each other. -/
def State.adopted (s : State) (g : GroupId) (m : Modulator) (zeroEnd : Nat) (k : Coef) : State := (s.calDissent g m zeroEnd).adoptPair g m k
@[simp] theorem State.adopted_under (s : State) (g : GroupId) (m : Modulator) (zeroEnd : Nat) (k : Coef) :
    (s.adopted g m zeroEnd k).groups[g].under = s.groups[g].under.adopts m k s.now := by
  rw [State.adopted, State.adoptPair, State.withdrawFault_groups, State.modUnder_same, State.calDissent_groups, State.calDissent_now]
  rfl
theorem State.adopted_other (s : State) {g h : GroupId} (m : Modulator) (zeroEnd : Nat) (k : Coef) (ne : h ≠ g) :
    (s.adopted g m zeroEnd k).groups[h] = s.groups[h] := by
  rw [State.adopted, State.adoptPair, State.withdrawFault_groups, State.modUnder_other _ _ ne, State.calDissent_groups]

/-! ## The steps of a loan -/

theorem State.since_of {s : State} {t d n : Nat} (ticks : d = n) (passed : t + n ≤ s.now) : s.since t d = true := by
  subst ticks
  exact decide_eq_true passed

/-- The steps of a loan that last a time (R120): their ticks, and what their end brings. -/
def State.stepEnds (s : State) (g : GroupId) (sp : Spare) (x : Loan) : LoanStep → Option (Nat × State)
  | .connect => some (2000000, s.enterStep g sp .shadowIn)
  | .zero => some (12000000, s.startRef g sp x.target .ref)
  | .ref => some (12000000, s.refEnds g sp x)
  | .reconnect => some (2000000, s.enterStep g sp .shadowOut)
  | .release => some (4000000, s.spareZero g sp .selfCal)
  | .arbitrate => some (12000000, s.startRef g sp (spareIdx sp) .arbRef)
  | .arbRef => some (12000000, s.arbitrated g sp x)
  | .selfCal => some (12000000, s.startRef g sp (spareIdx sp) .selfRef)
  | _ => none
theorem exec_loanStepEnd_timed {s t : State} {g : GroupId} {sp : Spare} {k : LoanStep} {n : Nat} (once : (s.groups[g].under.loan sp).again = false)
    (step : (s.groups[g].under.loan sp).step = k) (timed : s.stepEnds g sp (s.groups[g].under.loan sp) k = some (n, t))
    (due : (s.groups[g].under.loan sp).since + n ≤ s.now) : exec (.loanStepEnd g sp) s = .next t := by
  change Host.Outcome.next (s.loanStep g sp) = _
  unfold State.loanStep
  dsimp only
  rw [once, step, if_neg Bool.false_ne_true]
  cases k <;> cases timed
  all_goals exact congrArg Host.Outcome.next (if_pos (State.since_of rfl due))
theorem exec_loanStepEnd_compare {s : State} {g : GroupId} {sp : Spare} (once : (s.groups[g].under.loan sp).again = false)
    (step : (s.groups[g].under.loan sp).step = .shadowIn ∨ (s.groups[g].under.loan sp).step = .shadowOut) :
    exec (.loanStepEnd g sp) s = .next (s.judgeCompare g sp) := by
  change Host.Outcome.next (s.loanStep g sp) = _
  unfold State.loanStep
  dsimp only
  rw [once, if_neg Bool.false_ne_true]
  rcases step with step | step <;> rw [step]
/-- REF of a loan ends with the adoption of an agreed pair: the modulator reconnects (R122). -/
theorem State.refEnds_adopts {s : State} {g : GroupId} {x : Loan} {k : Coef} (sp : Spare)
    (verdict : s.calVerdict g x.target x.zeroAt x.zeroEnd x.since = .adopt k) :
    s.refEnds g sp x = (s.adopted g x.target x.zeroEnd k).reconnect g sp := by
  unfold State.refEnds
  rw [verdict]
  rfl
@[simp] theorem State.reconnect_under (s : State) (g : GroupId) (sp : Spare) :
    (s.reconnect g sp).groups[g].under = s.groups[g].under.setLoan sp fun x => x.enter .reconnect s.now := by
  rw [State.reconnect, State.enterStep_under, State.connect_groups, State.connect_now]
theorem State.reconnect_other (s : State) {g h : GroupId} (sp : Spare) (ne : h ≠ g) : (s.reconnect g sp).groups[h] = s.groups[h] := by
  rw [State.reconnect, State.enterStep_other _ _ _ ne, State.connect_groups]
/-- A compare that two lanes find passed marks the step, from the first instant at which it passed (R123). -/
theorem State.judgeCompare_passes {s : State} {g : GroupId} {sp : Spare} (passes : (s.loanCompare g sp).out = .passes) :
    (s.judgeCompare g sp).groups = (s.modLoan g sp fun x => { x with passedAt := some (x.passedAt.getD s.now) }).groups := by
  unfold State.judgeCompare
  extract_lets v s1
  have out : v.out = .passes := passes
  have same : s1.groups = s.groups := s.laneDissent_groups ..
  rw [out]
  change s1.groups.set g _ = s.groups.set g _
  rw [same]

/-! ## Self-calibration and calibration in place -/

theorem exec_spareSelfCalibration {s : State} {g : GroupId} {sp : Spare} (step : (s.groups[g].under.loan sp).step = .selfRef)
    (once : (s.groups[g].under.loan sp).again = false) (due : (s.groups[g].under.loan sp).since + 12000000 ≤ s.now) :
    exec (.spareSelfCalibration g sp) s = .next (s.selfEnds g sp (s.groups[g].under.loan sp)) :=
  congrArg Host.Outcome.next (if_pos ⟨step, by rw [once]; rfl, State.since_of rfl due⟩)
/-- A spare's own REF ends with the adoption of an agreed pair: the spare rests (R126). -/
theorem State.selfEnds_adopts {s : State} {g : GroupId} {sp : Spare} {x : Loan} {k : Coef}
    (verdict : s.calVerdict g (spareIdx sp) x.zeroAt x.zeroEnd x.since = .adopt k) :
    s.selfEnds g sp x = (((s.adopted g (spareIdx sp) x.zeroEnd k).connect g (spareIdx sp) .off).enterStep g sp .idle).modLoan g sp
      fun y => { y with rejected := false, needCal := false } := by
  unfold State.selfEnds
  dsimp only
  rw [verdict]
  rfl
theorem calibrates {s : State} {g : GroupId} (level : s.groups[g].level = 0) (runs : s.mode.mode.runs = true) :
    ¬(s.groups[g].level ≠ 0 ∨ (!s.mode.mode.runs) = true) := by
  rw [level, runs]
  decide
/-- At P0 in a running mode a modulator that runs in place goes on (R127). -/
theorem exec_inPlaceCalibration_goesOn {s : State} {g : GroupId} {m : Modulator} {r : CalRun} (level : s.groups[g].level = 0)
    (runs : s.mode.mode.runs = true) (out : s.groups[g].under.runs[m] = some r) : exec (.inPlaceCalibration g m) s = .next (s.runStep g m r) := by
  refine congrArg Host.Outcome.next ((if_neg (calibrates level runs)).trans ?_)
  rw [out]
theorem exec_inPlaceCalibration_starts {s : State} {g : GroupId} {m : Modulator} {release : Bool} (level : s.groups[g].level = 0)
    (runs : s.mode.mode.runs = true) (home : s.groups[g].under.runs[m] = none) (refs : s.fe[g].refs = true)
    (steady : s.groups[g].pendLevel = none) (kind : s.inPlaceKind g m = some release) :
    exec (.inPlaceCalibration g m) s = .next (s.startRun g m release) := by
  refine congrArg Host.Outcome.next ((if_neg (calibrates level runs)).trans ?_)
  rw [home, refs, steady, kind]
  rfl
/-- REF in place ends with the adoption of an agreed pair: the modulator reconnects (R127, R128). -/
theorem State.runStep_adopts {s : State} {g : GroupId} {m : Modulator} {r : CalRun} {k : Coef} (once : r.again = false) (step : r.step = .ref)
    (due : r.since + 12000000 ≤ s.now) (verdict : s.calVerdict g m r.zeroAt r.zeroEnd r.since = .adopt k) :
    s.runStep g m r = ((s.adopted g m r.zeroEnd k).connect g m .own).setRun g m
      (some { r with step := .reconnect, since := s.now, passedAt := none, again := false }) := by
  unfold State.runStep
  dsimp only
  rw [once, if_neg Bool.false_ne_true, step, verdict]
  exact if_pos (State.since_of rfl due)
theorem exec_calOverdue {s : State} {g : GroupId} {m : Modulator} (level : s.groups[g].level = 0) (runs : s.mode.mode.runs = true)
    (new : has s.groups[g].under.overdue m = false)
    (late : max s.groups[g].under.adoptedAt[m] s.groups[g].under.p0Since + 1200000000 ≤ s.now) : exec (.calOverdue g m) s =
      .next ((s.modUnder g fun u => { u with overdue := u.overdue ||| only m }).fault FaultCode.calOverdue [g.val, m.val] s.voteMask) :=
  congrArg Host.Outcome.next (if_pos ⟨level, runs, by rw [new]; rfl, late⟩)

end Sys2Proof.Machine

open Sys2Proof Sys2Proof.Machine

/-- Settles O31: each step that has lasted its time enters the next, and REF enters RECONNECT with the pair adopted. -/
theorem loanStepsFollowEachOther : Obligations.LoanStepsFollowEachOther := by
  unfold Obligations.LoanStepsFollowEachOther
  intro g sp s once
  refine ⟨fun step due => ?_, fun step due => ?_, fun step due => ?_, fun step due => ?_, fun step passes => ?_, fun k step due agreed fit => ?_⟩
  · refine ⟨_, exec_loanStepEnd_timed once step rfl due, ?_⟩
    rw [State.enterStep_under, Understorey.setLoan_loan]
    exact ⟨rfl, rfl, s.enterStep_agrees ..⟩
  · refine ⟨_, exec_loanStepEnd_timed once step rfl due, ?_⟩
    rw [State.startRef, State.modLoan_under, Understorey.setLoan_loan, State.enterStep_under, Understorey.setLoan_loan, State.connect_now]
    exact ⟨rfl, rfl, rfl, (((OneGroup.refl.connect ..).modLoan ..).modLoan ..).agrees⟩
  · refine ⟨_, exec_loanStepEnd_timed once step rfl due, ?_⟩
    rw [State.enterStep_under, Understorey.setLoan_loan]
    exact ⟨rfl, rfl, s.enterStep_agrees ..⟩
  · refine ⟨_, exec_loanStepEnd_timed once step rfl due, ?_⟩
    rw [State.spareZero, State.modLoan_under, Understorey.setLoan_loan, State.enterStep_under, Understorey.setLoan_loan, State.connect_now]
    exact ⟨rfl, rfl, rfl, (((OneGroup.refl.connect ..).modLoan ..).modLoan ..).agrees⟩
  · refine ⟨_, exec_loanStepEnd_compare once step, ?_⟩
    rw [State.judgeCompare_passes passes, State.modLoan_under, Understorey.setLoan_loan]
    exact ⟨rfl, rfl, fun h other => State.modLoan_other _ _ _ other⟩
  · have verdict := State.calVerdict_adopts agreed fit
    refine ⟨_, exec_loanStepEnd_timed once step rfl due, ?_⟩
    rw [State.refEnds_adopts sp verdict, State.reconnect_under, State.adopted_under, Understorey.setLoan_loan, Understorey.setLoan_coef,
      Understorey.setLoan_rejects, Understorey.setLoan_adoptedAt]
    obtain ⟨coef, rejects, adoptedAt⟩ := s.groups[g].under.adopts_at (s.groups[g].under.loan sp).target k s.now
    exact ⟨coef, rejects, adoptedAt, rfl, fun h other => (State.reconnect_other _ sp other).trans (State.adopted_other _ _ _ _ other)⟩

/-- Settles O33: adoption as in a loan, for the spare itself and for a modulator out in place. -/
theorem calibrationsAdoptAgreedPairs : Obligations.CalibrationsAdoptAgreedPairs := by
  unfold Obligations.CalibrationsAdoptAgreedPairs
  refine ⟨fun g sp k s step once due agreed fit => ?_, fun g m release s level runs home refs steady kind => ?_,
    fun g m r k s level runs out once step due agreed fit => ?_, fun g m s level runs new late => ?_⟩
  · refine ⟨_, exec_spareSelfCalibration step once due, ?_⟩
    rw [State.selfEnds_adopts (State.calVerdict_adopts agreed fit)]
    obtain ⟨coef, rejects, adoptedAt⟩ := s.groups[g].under.adopts_at (spareIdx sp) k s.now
    simp only [State.modLoan_under, State.enterStep_under, State.connect_groups, State.adopted_under, Understorey.setLoan_coef,
      Understorey.setLoan_adoptedAt, Understorey.setLoan_rejects, Understorey.setLoan_loan]
    exact ⟨coef, adoptedAt, rejects, rfl, trivial⟩
  · refine ⟨_, exec_inPlaceCalibration_starts level runs home refs steady kind, ?_, ((OneGroup.refl.connect ..).modUnder _).agrees⟩
    rw [State.startRun, State.modUnder_same]
    simp
  · refine ⟨_, exec_inPlaceCalibration_goesOn level runs out, ?_⟩
    rw [State.runStep_adopts once step due (State.calVerdict_adopts agreed fit), State.setRun, State.modUnder_same, State.connect_groups,
      State.adopted_under]
    obtain ⟨coef, rejects, adoptedAt⟩ := s.groups[g].under.adopts_at m k s.now
    exact ⟨coef, adoptedAt, rejects, by simp⟩
  · obtain ⟨stands, -, groups⟩ := (s.modUnder g fun u => { u with overdue := u.overdue ||| only m }).fault_report
      (code := FaultCode.calOverdue) (items := [g.val, m.val]) (m := s.voteMask) fun _ => rfl
    refine ⟨_, exec_calOverdue level runs new late, stands, ?_, fun h other => ?_⟩
    · rw [groups, State.modUnder_same]
      exact has_or_only_same _ _
    · rw [groups, State.modUnder_other _ _ other]
end

