-- ==== Sys2Proof/Proofs/Handoffs.lean ====
section
/-!
PROOFS. The handoffs of a loan (R121, R124, R125): which source a position has from then on. And the time limits of a loan: the loan
abandoned without a handoff (R130), the compare without samples (R123, R131).
-/

namespace Sys2Proof.Machine

/-! ## The sources of a position's samples -/

@[simp] theorem Understorey.setLoan_onSpare (u : Understorey) (sp : Spare) (f : Loan → Loan) : (u.setLoan sp f).onSpare = u.onSpare := by
  cases sp <;> rfl
@[simp] theorem Understorey.setLoan_switched (u : Understorey) (sp : Spare) (f : Loan → Loan) : (u.setLoan sp f).switched = u.switched := by
  cases sp <;> rfl
/-- The handoffs of a live modulator's position, newest first. -/
def Understorey.handoffsOf (u : Understorey) (m : Modulator) : List SourceSwitch := (u.switched[m.val]?).getD []
/-- The Understorey state with the source of a live modulator's position changed (R121). -/
def Understorey.setSource (u : Understorey) (m : Modulator) (x : SourceSwitch) (now : Nat) : Understorey :=
  { u with
    onSpare := if x.spare then u.onSpare ||| only m else u.onSpare &&& ~~~(only m)
    switched := u.switched.setIfInBounds m.val (x :: (u.handoffsOf m).filter fun y => decide (now ≤ y.fine + keepFor)) }
@[simp] theorem State.setSource_under (s : State) (g : GroupId) (m : Modulator) (x : SourceSwitch) :
    (s.setSource g m x).groups[g].under = s.groups[g].under.setSource m x s.now := s.modUnder_same ..
theorem Understorey.setSource_same (u : Understorey) (m : Modulator) (x : SourceSwitch) (now : Nat) :
    has (u.setSource m x now).onSpare m = x.spare := by
  unfold Understorey.setSource
  cases x.spare
  · exact has_drop_same _ _
  · exact has_or_only_same _ _
theorem Understorey.setSource_other (u : Understorey) {m k : Modulator} (x : SourceSwitch) (now : Nat) (ne : k ≠ m) :
    has (u.setSource m x now).onSpare k = has u.onSpare k := by
  unfold Understorey.setSource
  cases x.spare
  · exact has_drop_other _ ne
  · exact has_or_only_other _ ne
/-- The change-over is the newest handoff of a live modulator's position. -/
theorem Understorey.setSource_newest (u : Understorey) {m : Modulator} (x : SourceSwitch) (now : Nat) (live : m.val < 16) :
    ((u.setSource m x now).handoffsOf m).head? = some x := by
  simp [Understorey.setSource, Understorey.handoffsOf, live]

/-! ## Steps that a handoff or a failure enters -/

theorem State.startZero_under (s : State) (g : GroupId) (sp : Spare) :
    (s.startZero g sp).groups[g].under = s.groups[g].under.setLoan sp fun x => { x.enter .zero s.now with zeroAt := s.now } := by
  rw [State.startZero, State.modLoan_under, State.enterStep_under, State.connect_groups, State.connect_now]
  cases sp <;> rfl
theorem State.spareZero_under (s : State) (g : GroupId) (sp : Spare) (k : LoanStep) :
    (s.spareZero g sp k).groups[g].under = s.groups[g].under.setLoan sp fun x => { x.enter k s.now with zeroAt := s.now } := by
  rw [State.spareZero, State.modLoan_under, State.enterStep_under, State.connect_groups, State.connect_now]
  cases sp <;> rfl
theorem State.release_under (s : State) (g : GroupId) (sp : Spare) :
    (s.release g sp).groups[g].under = s.groups[g].under.setLoan sp fun x => x.enter .release s.now := by
  rw [State.release, State.enterStep_under, State.connect_groups, State.connect_now]

namespace OneGroup

variable {g : GroupId} {s t : State}
theorem setSource (h : OneGroup g s t) (m : Modulator) (x : SourceSwitch) : OneGroup g s (t.setSource g m x) := h.modUnder _
theorem enterStep (h : OneGroup g s t) (sp : Spare) (k : LoanStep) : OneGroup g s (t.enterStep g sp k) := h.modLoan ..
theorem startZero (h : OneGroup g s t) (sp : Spare) : OneGroup g s (t.startZero g sp) := ((h.connect ..).enterStep ..).modLoan ..
theorem release (h : OneGroup g s t) (sp : Spare) : OneGroup g s (t.release g sp) := (h.connect ..).enterStep ..

end OneGroup

/-! ## Permitted handoffs (R124, R125) -/

theorem State.switchAt_spare {s : State} {sp : Spare} {c : Chan} {spare : Bool} {x : HandoffAt} {h : SourceSwitch}
    (switch : s.switchAt sp c spare x = some h) : h.spare = spare := by
  unfold State.switchAt at switch
  extract_lets b at switch
  split at switch
  · cases switch
    rfl
  · split at switch <;> cases switch
    rfl
/-- Where a candidate permits a handoff, a candidate does, this one or an older one, and it switches to the source that comes in. -/
theorem State.handoffNow_permitted {s : State} {g : GroupId} {sp : Spare} {out inc : Modulator} {c : Chan} {spare : Bool} {x : HandoffAt}
    (closed : s.coppice.step = 0) (side : decide (16 ≤ inc.val) = spare) (candidate : x ∈ s.handoffsNow g)
    (permitted : s.mayHandOff g sp out inc c x = true) (switches : (s.switchAt sp c spare x).isSome = true) :
    ∃ h, s.handoffNow g sp out inc c = some h ∧ h.spare = spare := by
  unfold State.handoffNow
  rw [closed, side, if_neg (not_not_intro rfl)]
  have found : (((s.handoffsNow g).filter (s.mayHandOff g sp out inc c)).findSome? (s.switchAt sp c spare)).isSome = true :=
    List.findSome?_isSome_iff.2 ⟨x, List.mem_filter.2 ⟨candidate, permitted⟩, switches⟩
  obtain ⟨h, switched⟩ := Option.isSome_iff_exists.1 found
  obtain ⟨y, -, switch⟩ := List.exists_of_findSome?_eq_some switched
  exact ⟨h, switched, State.switchAt_spare switch⟩
theorem le_spareIdx (sp : Spare) : 16 ≤ (spareIdx sp).val := by
  cases sp <;> decide
/-- From a passed SHADOW_IN the spare takes over and the modulator goes to ZERO (R121, R122). -/
theorem exec_handoff_shadowIn {s : State} {g : GroupId} {sp : Spare} {m : Modulator} {h : SourceSwitch}
    (target : (s.groups[g].under.loan sp).target = m) (step : (s.groups[g].under.loan sp).step = .shadowIn)
    (now : s.handoffNow g sp m (spareIdx sp) (modChan g m) = some h) : exec (.handoff g sp) s = .next ((s.setSource g m h).startZero g sp) := by
  change Host.Outcome.next (s.handoff g sp) = _
  unfold State.handoff
  dsimp only
  rw [step, target, now]
/-- From a passed SHADOW_OUT, with no level change waiting, the modulator serves again and the spare is released (R121, R126). -/
theorem exec_handoff_shadowOut {s : State} {g : GroupId} {sp : Spare} {m : Modulator} {h : SourceSwitch}
    (target : (s.groups[g].under.loan sp).target = m) (step : (s.groups[g].under.loan sp).step = .shadowOut)
    (steady : s.groups[g].pendLevel = none) (now : s.handoffNow g sp (spareIdx sp) m (modChan g m) = some h) :
    exec (.handoff g sp) s = .next ((s.setSource g m h).release g sp) := by
  change Host.Outcome.next (s.handoff g sp) = _
  unfold State.handoff
  dsimp only
  rw [step, target, now, steady]
  rfl

/-! ## Time limits (R123, R130) -/

theorem exec_calHandoff {s : State} {g : GroupId} {sp : Spare} {a : Nat} (step : (s.groups[g].under.loan sp).step = .shadowIn)
    (passed : (s.groups[g].under.loan sp).passedAt = some a) (late : a + 200000000 ≤ s.now) :
    exec (.calHandoff g sp) s =
      .next ((s.abandonLoan g sp).note EventCode.calHandoff [g.val, (s.groups[g].under.loan sp).target.val]) := by
  refine congrArg Host.Outcome.next (if_pos ⟨step, ?_⟩)
  rw [passed, Option.any_some]
  exact State.since_of rfl late
theorem State.abandonLoan_oneGroup (s : State) (g : GroupId) (sp : Spare) : OneGroup g s (s.abandonLoan g sp) := (OneGroup.refl.modLoan ..).release sp
theorem State.abandonLoan_under (s : State) (g : GroupId) (sp : Spare) : (s.abandonLoan g sp).groups[g].under =
    s.groups[g].under.setLoan sp fun x => { x.enter .release s.now with retry := x.retry ++ [x.target] } := by
  rw [State.abandonLoan, State.release_under, State.modLoan_under, (OneGroup.refl.modLoan sp _).now]
  cases sp <;> rfl
theorem exec_compareNoSamples {s : State} {g : GroupId} {sp : Spare}
    (step : (s.groups[g].under.loan sp).step = .shadowIn ∨ (s.groups[g].under.loan sp).step = .shadowOut)
    (once : (s.groups[g].under.loan sp).again = false) (undecided : (s.groups[g].under.loan sp).passedAt = none)
    (runs : (s.loanCompare g sp).out = .running) (late : (s.groups[g].under.loan sp).since + 200000000 ≤ s.now) :
    exec (.compareNoSamples g sp) s = .next (s.compareFails g sp .noSamples) :=
  congrArg Host.Outcome.next (if_pos ⟨step, by rw [once]; rfl, by rw [undecided]; rfl, State.since_of rfl late, runs⟩)
/-- A compare that fails at SHADOW_IN is arbitrated (R131). -/
theorem State.compareFails_shadowIn {s : State} {g : GroupId} {sp : Spare} (why : CmpFail)
    (step : (s.groups[g].under.loan sp).step = .shadowIn) :
    s.compareFails g sp why = (s.calShadow g (s.groups[g].under.loan sp).target (spareIdx sp) why).spareZero g sp .arbitrate := if_pos step
/-- A compare that fails at a first SHADOW_OUT repeats the calibration from ZERO (R131). -/
theorem State.compareFails_shadowOut {s : State} {g : GroupId} {sp : Spare} (why : CmpFail)
    (step : (s.groups[g].under.loan sp).step = .shadowOut) (first : (s.groups[g].under.loan sp).repeated = false) :
    s.compareFails g sp why = ((s.calShadow g (s.groups[g].under.loan sp).target (spareIdx sp) why).modLoan g sp
      fun x => { x with repeated := true }).startZero g sp := by
  unfold State.compareFails
  dsimp only
  rw [step, first, if_neg LoanStep.noConfusion, if_neg Bool.false_ne_true]

end Sys2Proof.Machine

open Sys2Proof Sys2Proof.Machine

/-- Settles O32: a handoff sets the source of its position alone and enters the next step of its loan; a loan that runs out of time
enters RELEASE, ARBITRATE or ZERO. -/
theorem handoffsSwitchTheSource : Obligations.HandoffsSwitchTheSource := by
  unfold Obligations.HandoffsSwitchTheSource
  refine ⟨fun g sp m x s closed target live candidate => ⟨fun step permitted switches => ?_, fun step steady permitted switches => ?_⟩,
    fun g sp a s step passed late => ?_, fun g sp s once undecided runs late => ⟨fun step => ?_, fun step first => ?_⟩⟩
  · obtain ⟨h, now, spare⟩ := State.handoffNow_permitted closed (decide_eq_true (le_spareIdx sp)) candidate permitted switches
    refine ⟨_, exec_handoff_shadowIn target step now, ?_⟩
    rw [State.startZero_under, State.setSource_under, Understorey.setLoan_onSpare, Understorey.setLoan_switched, Understorey.setLoan_loan]
    exact ⟨(Understorey.setSource_same ..).trans spare, rfl, ⟨h, Understorey.setSource_newest _ h s.now live, spare⟩,
      fun k other => Understorey.setSource_other _ h s.now other, ((OneGroup.refl.setSource ..).startZero ..).agrees⟩
  · obtain ⟨h, now, spare⟩ := State.handoffNow_permitted closed (decide_eq_false (Nat.not_le.2 live)) candidate permitted switches
    refine ⟨_, exec_handoff_shadowOut target step steady now, ?_⟩
    rw [State.release_under, State.setSource_under, Understorey.setLoan_onSpare, Understorey.setLoan_switched, Understorey.setLoan_loan]
    exact ⟨(Understorey.setSource_same ..).trans spare, rfl, ⟨h, Understorey.setSource_newest _ h s.now live, spare⟩,
      fun k other => Understorey.setSource_other _ h s.now other, ((OneGroup.refl.setSource ..).release ..).agrees⟩
  · refine ⟨_, exec_calHandoff step passed late, ?_⟩
    rw [State.note_groups, State.abandonLoan_under, Understorey.setLoan_loan, State.note_flash, (s.abandonLoan_oneGroup g sp).rest]
    exact ⟨rfl, rfl, List.length_append⟩
  · refine ⟨_, exec_compareNoSamples (.inl step) once undecided runs late, ?_⟩
    rw [State.compareFails_shadowIn _ step, State.spareZero_under, Understorey.setLoan_loan]
    rfl
  · refine ⟨_, exec_compareNoSamples (.inr step) once undecided runs late, ?_⟩
    rw [State.compareFails_shadowOut _ step first, State.startZero_under, State.modLoan_under, Understorey.setLoan_loan, Understorey.setLoan_loan]
    exact ⟨rfl, rfl⟩
end

section
/-!
PROOFS. Lamp proving on fast samples (R143 to R149): what a judged sample makes of the proving state of its channel, said once for the
lit rule and once for the dark rule, while the reports, reactions and counts that go with it leave what every lane has decided.
-/

namespace Sys2Proof.Machine

/-! ## What the lanes have decided -/

/-- What a lane has decided of its channels, and what it holds of the front-ends. -/
def LaneState.proven (L : LaneState) : Vector Proving 96 × Vector LaneGroup 12 := (L.prov, L.grp)
/-- Two states agree in the parameters that proving uses, in what every lane has decided of its channels, and in what it holds of the
front-ends. -/
structure ProvenKept (s t : State) : Prop where
  params : t.lampParams = s.lampParams
  lane : ∀ l : LaneId, t.lanes[l].proven = s.lanes[l].proven

/-- What touches neither parameters, mode, nor the log but by adding to it, leaves the parameters of proving. -/
theorem State.lampParams_congr {s t : State} {log : List Bytes} (hm : t.mode = s.mode) (hf : t.flash = { s.flash with log := log })
    (hw : t.working = s.working) : t.lampParams = s.lampParams := by
  unfold State.lampParams
  rw [hm, hw, State.params_congr hf hw]
theorem Reported.lampParams {s t : State} (h : Reported s t) : t.lampParams = s.lampParams :=
  State.lampParams_congr (by rw [h.rest]) h.log (by rw [h.rest])

namespace ProvenKept

theorem refl (s : State) : ProvenKept s s := ⟨rfl, fun _ => rfl⟩
theorem trans {s t u : State} (h : ProvenKept s t) (k : ProvenKept t u) : ProvenKept s u :=
  ⟨k.params.trans h.params, fun l => (k.lane l).trans (h.lane l)⟩
theorem of_reported {s t : State} (h : Reported s t) : ProvenKept s t := ⟨h.lampParams, fun l => by rw [h.lane l]; rfl⟩
theorem prov {s t : State} (h : ProvenKept s t) (l : LaneId) : t.lanes[l].prov = s.lanes[l].prov := congrArg (·.1) (h.lane l)
theorem grp {s t : State} (h : ProvenKept s t) (l : LaneId) : t.lanes[l].grp = s.lanes[l].grp := congrArg (·.2) (h.lane l)

section
variable {s t : State} (h : ProvenKept s t)
include h

theorem ite {u : State} {p : Prop} [Decidable p] (k : ProvenKept s u) : ProvenKept s (if p then t else u) := by
  split <;> assumption
theorem modLane (l : LaneId) {f : LaneState → LaneState} (hf : ∀ L, (f L).proven = L.proven) : ProvenKept s (t.modLane l f) := by
  refine h.trans ⟨rfl, fun k => ?_⟩
  by_cases e : k = l
  · subst e
    rw [State.modLane_same, hf]
  · rw [State.modLane_other _ _ _ _ e]
theorem modLanes {f : LaneId → LaneState → LaneState} (hf : ∀ l L, (f l L).proven = L.proven) : ProvenKept s (t.modLanes f) :=
  h.trans ⟨rfl, fun k => by rw [State.modLanes_at, hf]⟩
theorem modLamp (l : LaneId) (c : Chan) (f : LampRun → LampRun) : ProvenKept s (t.modLamp l c f) := h.trans ⟨rfl, fun _ => rfl⟩
theorem modSched (c : Chan) (f : TestSched → TestSched) : ProvenKept s (t.modSched c f) := h.trans ⟨rfl, fun _ => rfl⟩
theorem trigger (m : LaneMask) (g : GroupId) (k : Bool) : ProvenKept s (t.trigger m g k) := h.modLanes fun _ _ => by split <;> rfl
theorem react (l : LaneId) (d : Chan) : ProvenKept s (t.react l d) := h.modLane l fun _ => rfl
theorem event (code kind lane : Nat) (sc d : Bytes) : ProvenKept s (t.event code kind lane sc d) := h.trans (of_reported (.event ..))
theorem note (code : Nat) (i : List Nat) (d : Bytes) (l k : Nat) : ProvenKept s (t.note code i d l k) := h.event ..
theorem noteChan (l : LaneId) (c : Chan) : ProvenKept s (t.noteChan l c) := h.trans (of_reported (.noteChan ..))

end

end ProvenKept

/-! ## One channel of one lane -/

/-- A lane holds a proving state of a channel. -/
def State.setProv (s : State) (l : LaneId) (c : Chan) (a : Proving) : State := s.modProv l c fun _ => a

@[simp] theorem State.setProv_same (s : State) (l : LaneId) (c : Chan) (a : Proving) : (s.setProv l c a).lanes[l].prov[c] = a := by
  rw [State.setProv, State.modProv, State.modLane_same]
  simp [LaneState.modProv]
theorem State.setProv_otherChan (s : State) (l : LaneId) (c : Chan) (a : Proving) {d : Chan} (h : d ≠ c) :
    (s.setProv l c a).lanes[l].prov[d] = s.lanes[l].prov[d] := by
  have far : c.val ≠ d.val := fun e => h (Fin.ext e.symm)
  rw [State.setProv, State.modProv, State.modLane_same]
  simp [LaneState.modProv, far]
theorem State.setProv_grp (s : State) (l : LaneId) (c : Chan) (a : Proving) (k : LaneId) : (s.setProv l c a).lanes[k].grp = s.lanes[k].grp := by
  by_cases e : k = l
  · subst e
    rw [State.setProv, State.modProv, State.modLane_same]
    rfl
  · rw [State.setProv, State.modProv, State.modLane_other _ _ _ _ e]
theorem State.modProv_eq_setProv (s : State) (l : LaneId) (c : Chan) (f : Proving → Proving) : s.modProv l c f = s.setProv l c (f s.lanes[l].prov[c]) := rfl
@[simp] theorem State.setProv_setProv (s : State) (l : LaneId) (c : Chan) (a b : Proving) : (s.setProv l c a).setProv l c b = s.setProv l c b := by
  simp [State.setProv, State.modProv, State.modLane, LaneState.modProv]

namespace ProvenKept

variable {s t : State}
theorem provAt (h : ProvenKept s t) (l : LaneId) (c : Chan) : t.lanes[l].prov[c] = s.lanes[l].prov[c] := by rw [h.prov l]
/-- A proving state that takes the place of what was kept. -/
theorem setProv (h : ProvenKept s t) (l : LaneId) (c : Chan) (a : Proving) : ProvenKept (s.setProv l c a) (t.setProv l c a) := by
  refine ⟨h.params, fun k => ?_⟩
  by_cases e : k = l
  · subst e
    simp only [State.setProv, State.modProv, State.modLane_same, LaneState.proven, LaneState.modProv, h.prov, h.grp]
  · simp only [State.setProv, State.modProv, State.modLane_other _ _ _ _ e, h.lane k]
theorem modProv (h : ProvenKept s t) (l : LaneId) (c : Chan) (f : Proving → Proving) :
    ProvenKept (s.setProv l c (f s.lanes[l].prov[c])) (t.modProv l c f) := by
  rw [State.modProv_eq_setProv, h.provAt]
  exact h.setProv ..
/-- A channel keeps the proving state it has. -/
theorem setProv_self (s : State) (l : LaneId) (c : Chan) : ProvenKept (s.setProv l c s.lanes[l].prov[c]) s := by
  refine ⟨rfl, fun k => ?_⟩
  by_cases e : k = l
  · subst e
    rw [State.setProv, State.modProv, State.modLane_same]
    simp [LaneState.proven, LaneState.modProv]
  · rw [State.setProv, State.modProv, State.modLane_other _ _ _ _ e]
/-- A further change of a channel's proving state, after changes that are known. -/
theorem setProv_modProv {l : LaneId} {c : Chan} {a : Proving} (h : ProvenKept (s.setProv l c a) t) (f : Proving → Proving) :
    ProvenKept (s.setProv l c (f a)) (t.modProv l c f) := by
  have k := h.modProv l c f
  rwa [State.setProv_same, State.setProv_setProv] at k

end ProvenKept

/-! ## Decisions -/

/-- FAIL_DARK is held with a cause (R145, R147). -/
def Proving.failsDark (a : Proving) (k : Cause) : Proving := { a with failDark := true, darkCause := k, litOk := false, warming := false }
theorem State.failDark_proven (s : State) (l : LaneId) (c : Chan) (k : Cause) :
    ProvenKept (s.setProv l c (s.lanes[l].prov[c].failsDark k)) (s.failDark l c k) :=
  ((ProvenKept.refl s).modProv l c fun a => a.failsDark k).noteChan l c
/-- FAIL_LIT is held (R149). -/
def Proving.failsLit (a : Proving) : Proving := { a with failLit := true }
theorem State.failLit_proven (s : State) (l : LaneId) (c : Chan) : ProvenKept (s.setProv l c s.lanes[l].prov[c].failsLit) (s.failLit l c) := by
  unfold State.failLit
  extract_lets s1 s2
  have held : ProvenKept (s.setProv l c s.lanes[l].prov[c].failsLit) s1 := (ProvenKept.refl s).modProv l c Proving.failsLit
  have reverted : ProvenKept (s.setProv l c s.lanes[l].prov[c].failsLit) s2 := (held.trigger ..).ite held
  exact reverted.noteChan l c
/-- FOREIGN touches of a channel's proving state what says of it (R200, R201). -/
def Proving.foreignFrom (a : Proving) (k : Cause) (src : Option Chan) : Proving := { a with foreign := true, forCause := k, source := src }
theorem State.foreignAt_proven (s : State) (l : LaneId) (c : Chan) (k : Cause) (src : Option Chan) :
    ProvenKept (s.setProv l c (s.lanes[l].prov[c].foreignFrom k src)) (s.foreignAt l c k src) := by
  unfold State.foreignAt
  extract_lets prot s1 s2 s3 s4
  have decided : ProvenKept (s.setProv l c (s.lanes[l].prov[c].foreignFrom k src)) s1 :=
    (ProvenKept.refl s).modProv l c fun a => a.foreignFrom k src
  have reverted : ProvenKept (s.setProv l c (s.lanes[l].prov[c].foreignFrom k src)) s2 := (decided.trigger ..).ite decided
  have reacted : ProvenKept (s.setProv l c (s.lanes[l].prov[c].foreignFrom k src)) s3 := by
    unfold s3
    split
    · exact (reverted.react ..).ite reverted
    · exact reverted
  have said : ProvenKept (s.setProv l c (s.lanes[l].prov[c].foreignFrom k src)) s4 := (reacted.note ..).ite reacted
  exact (said.noteChan l c).ite ((said.noteChan l c).event ..)

/-! ## The lit rule (R143 to R146) -/

/-- A judged sample enters the lit window, and the run of good samples from the end of WARMUP on. -/
def Proving.litCounted (a : Proving) (p : ParamImage) (c : Chan) (x : Judged) : Proving :=
  { a with litWin := pushWin a.litWin (badLit p c x) (p.filtDark c + p.filtTol c)
           goodRun := if badLit p c x then 0 else if warmEnd p c a ≤ x.t then a.goodRun + 1 else 0 }
/-- LIT_OK is held, and the channel is not warming (R146). -/
def Proving.litProven (a : Proving) : Proving := { a with litOk := true, warming := false }
/-- What the lit rule makes of a channel's proving state with a judged sample (R145, R146). -/
def Proving.litJudged (a : Proving) (p : ParamImage) (c : Chan) (x : Judged) : Proving :=
  let w := pushWin a.litWin (badLit p c x) (p.filtDark c + p.filtTol c)
  let run := if badLit p c x then 0 else if warmEnd p c a ≤ x.t then a.goodRun + 1 else 0
  if !a.failDark && decide (p.filtDark c ≤ w.countP (· == true)) then (a.litCounted p c x).failsDark .litRule
  else if !a.litOk && !a.failDark && decide (p.filtLit c ≤ run) then (a.litCounted p c x).litProven else a.litCounted p c x
theorem Proving.litJudged_decides (a : Proving) (p : ParamImage) (c : Chan) (x : Judged) :
    let w := pushWin a.litWin (badLit p c x) (p.filtDark c + p.filtTol c)
    let run := if badLit p c x then 0 else if warmEnd p c a ≤ x.t then a.goodRun + 1 else 0
    ((a.litJudged p c x).litWin = w ∧ (a.litJudged p c x).goodRun = run) ∧
    (a.failDark = false → p.filtDark c ≤ w.countP (· == true) →
      (a.litJudged p c x).failDark = true ∧ (a.litJudged p c x).darkCause = .litRule ∧ (a.litJudged p c x).litOk = false) ∧
    (a.failDark = false → w.countP (· == true) < p.filtDark c → a.litOk = false → p.filtLit c ≤ run →
      (a.litJudged p c x).litOk = true ∧ (a.litJudged p c x).warming = false) := by
  unfold Proving.litJudged
  extract_lets w run
  refine ⟨?_, fun free many => ?_, fun free few unproven good => ?_⟩
  · split
    · exact ⟨rfl, rfl⟩
    · split <;> exact ⟨rfl, rfl⟩
  · rw [if_pos (by rw [free, decide_eq_true many]; rfl)]
    exact ⟨rfl, rfl, rfl⟩
  · rw [if_neg (by rw [free, decide_eq_false (Nat.not_le.2 few)]; exact Bool.false_ne_true),
      if_pos (by rw [unproven, free, decide_eq_true good]; rfl)]
    exact ⟨rfl, rfl⟩
theorem State.litJudge_proven {s : State} {l : LaneId} {c : Chan} {x : Judged} (after : s.lanes[l].prov[c].cmdAt ≤ x.t) :
    ProvenKept (s.setProv l c (s.lanes[l].prov[c].litJudged s.lampParams c x)) (s.litJudge l c x) := by
  unfold State.litJudge
  extract_lets p a bad w run s1
  have counted : s1 = s.setProv l c (a.litCounted p c x) := rfl
  rw [counted, if_neg (Nat.not_lt.2 after)]
  change ProvenKept (s.setProv l c (if !a.failDark && decide (p.filtDark c ≤ w.countP (· == true)) then (a.litCounted p c x).failsDark .litRule
    else if !a.litOk && !a.failDark && decide (p.filtLit c ≤ run) then (a.litCounted p c x).litProven else a.litCounted p c x)) _
  split
  · have failed := (s.setProv l c (a.litCounted p c x)).failDark_proven l c .litRule
    rwa [State.setProv_same, State.setProv_setProv] at failed
  · split
    · exact (((ProvenKept.refl _).setProv_modProv Proving.litProven).modSched ..).noteChan l c
    · exact .refl _

/-- What a sample of a lit channel makes of the proving state beside the lit window: the peak of the voltage, and the inrush (R143, R148). -/
def Proving.sampled (a : Proving) (h : List (Nat × Nat)) (hi : Nat) (raised : Bool) : Proving :=
  { a with vHist := h, inrushMax := hi, inrushRaised := raised }
theorem State.inrush_proven (s : State) (l : LaneId) (c : Chan) (x : Judged) :
    ∃ hi raised, ProvenKept (s.setProv l c (s.lanes[l].prov[c].sampled s.lanes[l].prov[c].vHist hi raised)) (s.inrush l c x) := by
  unfold State.inrush
  extract_lets p a late ap hi over_ s1
  have counted : ProvenKept (s.setProv l c (a.sampled a.vHist hi (a.inrushRaised || over_))) s1 :=
    (ProvenKept.refl s).modProv l c fun a => a.sampled a.vHist hi (a.inrushRaised || over_)
  exact ⟨hi, _, ((counted.modLamp ..).note ..).ite counted⟩
/-- A sample of a lit channel that the lit rule judges (R143): of voltage and current, of the present command and lighting, of a channel
that is not dimmed, clear of tests, and with a voltage that counts. -/
structure State.LitJudges (s : State) (l : LaneId) (c : Chan) (x : Judged) : Prop where
  both : x.both = true
  recmd : s.lanes[l].prov[c].recmdAt ≤ x.t
  cmd : s.lanes[l].prov[c].cmdAt ≤ x.t
  peak : peakOf (if s.lanes[l].prov[c].litAts.headD 0 ≤ x.tv then pushPeak s.lanes[l].prov[c].vHist x.tv x.v.natAbs else s.lanes[l].prov[c].vHist)
    ≤ 10 * x.v.natAbs
  clear : otExcludes s.lampParams c s.lanes[l].prov[c] x.t = false
  from_ : litFrom s.lampParams c s.lanes[l].prov[c].onAt ≤ x.t
  bright : has s.lanes[l].drive.img.dim c = false
theorem State.litSample_proven {s : State} {l : LaneId} {c : Chan} {x : Judged} (h : s.LitJudges l c x) :
    ∃ v hi raised, ProvenKept (s.setProv l c ((s.lanes[l].prov[c].sampled v hi raised).litJudged s.lampParams c x)) (s.litSample l c x) := by
  obtain ⟨okV, okI⟩ : x.okV = true ∧ x.okI = true := Bool.and_eq_true_iff.1 h.both
  unfold State.litSample
  extract_lets p a v s0 s1 late duty
  have present : late = false := decide_eq_false (Nat.not_lt.2 h.recmd)
  have steady : duty = none := by
    unfold duty
    rw [present, h.bright]
    rfl
  have judged : (!x.both || decide (10 * x.v.natAbs < peakOf v) || otExcludes p c a x.t || decide (x.t < litFrom p c (if late then a.lateOn else a.onAt)) ||
      duty.any fun d => !dimWindow d (s.globalAt x.t)) = false := by
    have peak : peakOf v ≤ 10 * x.v.natAbs := by
      simp only [v, okV, true_and]
      exact h.peak
    have from_ : litFrom p c a.onAt ≤ x.t := h.from_
    simp [h.both, present, steady, Nat.not_lt.2 peak, Nat.not_lt.2 from_, show otExcludes p c a x.t = false from h.clear]
  rw [judged, if_neg Bool.false_ne_true]
  have peaked : ProvenKept (s.setProv l c { a with vHist := v }) s0 := (ProvenKept.refl s).modProv l c fun a => { a with vHist := v }
  obtain ⟨hi, raised, inrush⟩ := s0.inrush_proven l c x
  have sampled : ProvenKept (s.setProv l c (a.sampled v hi raised)) s1 := by
    have both := (peaked.setProv l c _).trans inrush
    unfold s1
    rw [okI]
    rw [State.setProv_setProv, peaked.provAt, State.setProv_same] at both
    exact both
  refine ⟨v, hi, raised, ?_⟩
  have done := sampled.setProv l c (s1.lanes[l].prov[c].litJudged s1.lampParams c x)
  have held : s1.lanes[l].prov[c] = a.sampled v hi raised := by rw [sampled.provAt, State.setProv_same]
  have judge := s1.litJudge_proven (l := l) (c := c) (x := x) (by rw [held]; exact h.cmd)
  have all := done.trans judge
  rw [State.setProv_setProv, held, sampled.params] at all
  exact all

/-! ## The dark rule (R149) -/

/-- A judged sample enters the dark window. -/
def Proving.darkCounted (a : Proving) (p : ParamImage) (c : Chan) (x : Judged) : Proving :=
  { a with darkWin := pushWin a.darkWin (atLeastMa x (p.darkI c)) (p.filtFlit c + p.filtTol c) }
/-- What the dark rule makes of a channel's proving state with a judged sample. -/
def Proving.darkJudged (a : Proving) (p : ParamImage) (c : Chan) (x : Judged) : Proving :=
  let w := pushWin a.darkWin (atLeastMa x (p.darkI c)) (p.filtFlit c + p.filtTol c)
  if !a.failLit && decide (p.filtFlit c ≤ w.countP (· == true)) then (a.darkCounted p c x).failsLit else a.darkCounted p c x
theorem Proving.darkJudged_decides (a : Proving) (p : ParamImage) (c : Chan) (x : Judged) :
    let w := pushWin a.darkWin (atLeastMa x (p.darkI c)) (p.filtFlit c + p.filtTol c)
    (a.darkJudged p c x).darkWin = w ∧ (a.darkJudged p c x).failLit = (a.failLit || decide (p.filtFlit c ≤ w.countP (· == true))) := by
  unfold Proving.darkJudged
  extract_lets w
  split
  · rename_i decided
    exact ⟨rfl, by rw [(Bool.and_eq_true_iff.1 decided).2, Bool.or_true]; rfl⟩
  · rename_i undecided
    refine ⟨rfl, ?_⟩
    change a.failLit = _
    cases held : a.failLit with
    | true => rfl
    | false => simpa [held] using undecided
theorem State.darkJudge_proven {s : State} {l : LaneId} {c : Chan} {x : Judged} (after : s.lanes[l].prov[c].cmdAt ≤ x.t) :
    ProvenKept (s.setProv l c (s.lanes[l].prov[c].darkJudged s.lampParams c x)) (s.darkJudge l c x) := by
  unfold State.darkJudge
  extract_lets p a w s1
  have counted : s1 = s.setProv l c (a.darkCounted p c x) := rfl
  rw [counted, if_neg (Nat.not_lt.2 after)]
  change ProvenKept (s.setProv l c (if !a.failLit && decide (p.filtFlit c ≤ w.countP (· == true)) then (a.darkCounted p c x).failsLit
    else a.darkCounted p c x)) _
  split
  · have failed := (s.setProv l c (a.darkCounted p c x)).failLit_proven l c
    rwa [State.setProv_same, State.setProv_setProv] at failed
  · exact .refl _
/-- A voltage that reaches the threshold enters what the foreign rule counts (R194). -/
def Proving.foreignCounted (a : Proving) (t : Nat) : Proving :=
  { a with forHist := t :: a.forHist.filter fun u => decide (t ≤ u + 5000000), onsetAt := if a.forHist.isEmpty then some t else a.onsetAt }
/-- The foreign rule leaves the dark window and FAIL_LIT of its channel (R194). -/
theorem State.foreignJudge_proven (s : State) (l : LaneId) (c : Chan) (x : Judged) :
    ∃ a : Proving, a.darkWin = s.lanes[l].prov[c].darkWin ∧ a.failLit = s.lanes[l].prov[c].failLit ∧
      ProvenKept (s.setProv l c a) (s.foreignJudge l c x) := by
  unfold State.foreignJudge
  extract_lets p a h s1
  split
  · exact ⟨_, rfl, rfl, .setProv_self s l c⟩
  · have counted : s1 = s.setProv l c (a.foreignCounted x.t) := rfl
    rw [counted]
    split
    · unfold State.decideForeign
      generalize State.suspect _ l c _ = src
      have decided := (s.setProv l c (a.foreignCounted x.t)).foreignAt_proven l c .fast src
      rw [State.setProv_same, State.setProv_setProv] at decided
      exact ⟨(a.foreignCounted x.t).foreignFrom .fast src, rfl, rfl, decided⟩
    · exact ⟨a.foreignCounted x.t, rfl, rfl, .refl _⟩
/-- A sample of a dark channel that the dark rule judges: of a current, after DECAY and under the present command. -/
structure State.DarkJudges (s : State) (l : LaneId) (c : Chan) (x : Judged) : Prop where
  class_ : s.lampParams.cls c ≠ 0
  okI : x.okI = true
  cmd : s.lanes[l].prov[c].cmdAt ≤ x.t
  decayed : s.lanes[l].prov[c].offAt.getD 0 + s.lampParams.decayTicks c ≤ x.t
theorem State.darkSample_proven {s : State} {l : LaneId} {c : Chan} {x : Judged} (h : s.DarkJudges l c x) :
    ∃ a : Proving, a.darkWin = (s.lanes[l].prov[c].darkJudged s.lampParams c x).darkWin ∧
      a.failLit = (s.lanes[l].prov[c].darkJudged s.lampParams c x).failLit ∧ ProvenKept (s.setProv l c a) (s.darkSample l c x) := by
  unfold State.darkSample
  extract_lets p a s1
  rw [if_neg (not_or.2 ⟨h.class_, Nat.not_lt.2 h.decayed⟩)]
  have judged : ProvenKept (s.setProv l c (a.darkJudged p c x)) s1 := by
    unfold s1
    rw [if_pos h.okI]
    exact State.darkJudge_proven h.cmd
  split
  · exact ⟨_, rfl, rfl, judged⟩
  · obtain ⟨b, win, lit, foreign⟩ := s1.foreignJudge_proven l c x
    have held : s1.lanes[l].prov[c] = a.darkJudged p c x := by rw [judged.provAt, State.setProv_same]
    rw [held] at win lit
    have all := (judged.setProv l c b).trans foreign
    rw [State.setProv_setProv] at all
    exact ⟨b, win, lit, all⟩

/-! ## A fast sample (R83) -/

/-- Other totals of wear. -/
def State.worn (s : State) (w : Wear) : State := { s with wear := w }
/-- The wear of a switch-on is all that a sample counts beside proving (R493, R495). -/
theorem State.switchOnWear_rest (s : State) (l : LaneId) (c : Chan) (x : Judged) : ∃ w, s.switchOnWear l c x = s.worn w := by
  unfold State.switchOnWear
  split
  · exact ⟨_, rfl⟩
  · exact ⟨s.wear, rfl⟩
theorem State.teachSample_proven (s : State) (l : LaneId) (c : Chan) (x : Judged) : ProvenKept s (s.teachSample l c x) := by
  unfold State.teachSample
  split
  · exact (ProvenKept.refl s).modLane l fun _ => rfl
  · exact .refl s
/-- Without a test of its group and a transition of its own a sample of a channel is judged for no test. -/
theorem State.testSample_idle {s : State} {c : Chan} (test : s.groups[c.group].test = none) (trans : s.tests.chan[c].trans = none) (l : LaneId)
    (x : Judged) : s.testSample l c x = s := by
  have trans_ : s.transSample l c x = s := by
    unfold State.transSample
    rw [trans]
  unfold State.testSample
  rw [trans_]
  unfold State.runSample
  rw [test]
  exact ite_self s
/-- A sample from after the last change is judged by the present derived state alone. -/
theorem State.judgeSample_present {s : State} {l : LaneId} {c : Chan} {x : Judged} (test : s.groups[c.group].test = none)
    (trans : s.tests.chan[c].trans = none) (change : s.lanes[l].prov[c].changeAt ≤ x.t) :
    s.judgeSample l c x = if s.isOn l c then s.litSample l c x else s.darkSample l c x := by
  unfold State.judgeSample
  rw [State.testSample_idle test trans]
  exact if_neg (Nat.not_lt.2 change)
/-- A channel in use and derived on takes its sample under the lit rule. -/
theorem State.takeSample_lit {s : State} {l : LaneId} {c : Chan} {x : Judged} (used : s.lampParams.configured c = true)
    (test : s.groups[c.group].test = none) (trans : s.tests.chan[c].trans = none) (change : s.lanes[l].prov[c].changeAt ≤ x.t)
    (on : s.isOn l c = true) (h : s.LitJudges l c x) :
    ∃ v hi raised, ProvenKept (s.setProv l c ((s.lanes[l].prov[c].sampled v hi raised).litJudged s.lampParams c x)) (s.takeSample l c x) := by
  obtain ⟨w, wear⟩ := s.switchOnWear_rest l c x
  obtain ⟨v, hi, raised, judged⟩ := State.litSample_proven (s := s.worn w) ⟨h.both, h.recmd, h.cmd, h.peak, h.clear, h.from_, h.bright⟩
  refine ⟨v, hi, raised, ?_⟩
  unfold State.takeSample
  dsimp only
  rw [if_pos used, wear, State.judgeSample_present (s := s.worn w) test trans change, if_pos (show (s.worn w).isOn l c = true from on)]
  have start : ProvenKept (s.setProv l c ((s.lanes[l].prov[c].sampled v hi raised).litJudged s.lampParams c x)) _ := ⟨judged.params, judged.lane⟩
  exact start.trans (State.teachSample_proven ..)
/-- A dark channel of a class takes its sample under the dark rule, in use or not (R149). -/
theorem State.takeSample_dark {s : State} {l : LaneId} {c : Chan} {x : Judged}
    (inUse : s.lampParams.used c = true → s.groups[c.group].test = none ∧ s.tests.chan[c].trans = none ∧ s.lanes[l].prov[c].changeAt ≤ x.t ∧
      s.isOn l c = false) (h : s.DarkJudges l c x) :
    ∃ a : Proving, a.darkWin = (s.lanes[l].prov[c].darkJudged s.lampParams c x).darkWin ∧
      a.failLit = (s.lanes[l].prov[c].darkJudged s.lampParams c x).failLit ∧ ProvenKept (s.setProv l c a) (s.takeSample l c x) := by
  obtain ⟨w, wear⟩ := s.switchOnWear_rest l c x
  obtain ⟨a, win, lit, judged⟩ := State.darkSample_proven (s := s.worn w) ⟨h.class_, h.okI, h.cmd, h.decayed⟩
  refine ⟨a, win, lit, ?_⟩
  have start : ProvenKept (s.setProv l c a) _ := ⟨judged.params, judged.lane⟩
  have dark : s.takeSample l c x = ((s.worn w).darkSample l c x).teachSample l c x := by
    unfold State.takeSample ParamImage.configured
    dsimp only
    rw [wear]
    cases used : s.lampParams.used c with
    | true =>
      obtain ⟨test, trans, change, off⟩ := inUse used
      rw [Bool.true_and, if_pos (by simpa using h.class_), State.judgeSample_present (s := s.worn w) test trans change,
        show (s.worn w).isOn l c = false from off, if_neg Bool.false_ne_true]
    | false => rfl
  rw [dark]
  exact start.trans (State.teachSample_proven ..)

/-- The row of a channel's sample has been judged. -/
def State.rowJudged (s : State) (l : LaneId) (c : Chan) (n : Nat) : State :=
  s.modLane l fun L => { L with grp := L.grp.set c.group { L.grp[c.group] with judged := (L.grp[c.group]).judged.set c.pos n } }
theorem State.rowJudged_same (s : State) (l : LaneId) (c : Chan) (n : Nat) :
    ((s.rowJudged l c n).lanes[l].grp[c.group]).judged[c.pos] = n ∧ (s.rowJudged l c n).lanes[l].prov = s.lanes[l].prov ∧
      (s.rowJudged l c n).lanes[l].drive = s.lanes[l].drive := by
  rw [State.rowJudged, State.modLane_same]
  exact ⟨by simp, rfl, rfl⟩
theorem exec_fastSample {s : State} {l : LaneId} {c : Chan} {r : FastRow} {x : Judged} (row : s.nextRow l c.group c.pos = some r)
    (sample : s.sampleOf l c.group c.pos r = some x) (decimates : s.decimates l c.group = true) (sees : s.blind l c.group = false) :
    exec (.fastSample l c) s = .next ((s.rowJudged l c r.n).takeSample l c x) := by
  refine congrArg Host.Outcome.next ?_
  unfold State.fastSample
  rw [row]
  dsimp only
  rw [sample, decimates, sees]
  rfl

theorem State.rowJudged_litJudges {s : State} {l : LaneId} {c : Chan} {x : Judged} (h : s.LitJudges l c x) (n : Nat) :
    (s.rowJudged l c n).LitJudges l c x := by
  obtain ⟨-, prov, drive⟩ := s.rowJudged_same l c n
  exact ⟨h.both, by rw [prov]; exact h.recmd, by rw [prov]; exact h.cmd, by rw [prov]; exact h.peak, by rw [prov]; exact h.clear,
    by rw [prov]; exact h.from_, by rw [drive]; exact h.bright⟩
theorem State.rowJudged_darkJudges {s : State} {l : LaneId} {c : Chan} {x : Judged} (h : s.DarkJudges l c x) (n : Nat) :
    (s.rowJudged l c n).DarkJudges l c x := by
  obtain ⟨-, prov, -⟩ := s.rowJudged_same l c n
  exact ⟨h.class_, h.okI, by rw [prov]; exact h.cmd, by rw [prov]; exact h.decayed⟩
/-- What a judged sample leaves of a lane: its row is judged, its channel has the proving state it makes, and the other channels have
theirs. -/
theorem ProvenKept.after_rowJudged {s t : State} {l : LaneId} {c : Chan} {n : Nat} {a : Proving}
    (h : ProvenKept ((s.rowJudged l c n).setProv l c a) t) : (t.lanes[l].grp[c.group]).judged[c.pos] = n ∧ t.lanes[l].prov[c] = a ∧
      ∀ d, d ≠ c → t.lanes[l].prov[d] = s.lanes[l].prov[d] := by
  obtain ⟨row, prov, -⟩ := s.rowJudged_same l c n
  refine ⟨?_, ?_, fun d other => ?_⟩
  · rw [h.grp, State.setProv_grp, row]
  · rw [h.provAt, State.setProv_same]
  · rw [h.provAt, State.setProv_otherChan _ _ _ _ other, prov]

end Sys2Proof.Machine

open Sys2Proof Sys2Proof.Machine

/-- Settles O16: beside its window and run the lit rule decides from what a sample does not touch, and one decision excludes the other. -/
theorem litSamplesDecideFailDark : Obligations.LitSamplesDecideFailDark := by
  unfold Obligations.LitSamplesDecideFailDark
  intro l c r x s row sample decimates sees used test trans both change recmd cmd on peak clear from_ bright
  obtain ⟨-, prov, drive⟩ := s.rowJudged_same l c r.n
  obtain ⟨v, hi, raised, judged⟩ := State.takeSample_lit (s := s.rowJudged l c r.n) (x := x) used test trans (by rw [prov]; exact change)
    (by rw [State.isOn, drive]; exact on) (State.rowJudged_litJudges ⟨both, recmd, cmd, peak, clear, from_, bright⟩ r.n)
  obtain ⟨row_, channel, others⟩ := judged.after_rowJudged
  refine ⟨_, exec_fastSample row sample decimates sees, row_, ?_, others⟩
  rw [channel, prov]
  obtain ⟨counted, darkens, proves⟩ := (s.lanes[l].prov[c].sampled v hi raised).litJudged_decides s.lampParams c x
  exact ⟨counted.1, counted.2, darkens, proves⟩

/-- Settles O17: the foreign rule, which judges the same sample, leaves what the dark rule decides. -/
theorem darkSamplesDecideFailLit : Obligations.DarkSamplesDecideFailLit := by
  unfold Obligations.DarkSamplesDecideFailLit
  intro l c r x s row sample decimates sees inUse class_ okI cmd decayed
  obtain ⟨-, prov, drive⟩ := s.rowJudged_same l c r.n
  obtain ⟨a, win, lit, judged⟩ := State.takeSample_dark (s := s.rowJudged l c r.n) (x := x) (by rw [prov, State.isOn, drive]; exact inUse)
    (State.rowJudged_darkJudges ⟨class_, okI, cmd, decayed⟩ r.n)
  obtain ⟨-, channel, others⟩ := judged.after_rowJudged
  refine ⟨_, exec_fastSample row sample decimates sees, ?_, others⟩
  rw [channel, win, lit, prov]
  exact s.lanes[l].prov[c].darkJudged_decides s.lampParams c x
end

section
/-!
PROOFS. A channel that is not proven in time (R147), and the envelope that a reverting group's currents are judged against (R404, R409).
-/

namespace Sys2Proof.Machine

/-! ## Not proven (R147) -/

theorem exec_notProven {s : State} {l : LaneId} {c : Chan} (active : s.active l = true) (runs : s.mode.mode.runs = true) (on : s.isOn l c = true)
    (used : s.lampParams.configured c = true) (warming : s.lanes[l].prov[c].warming = true) (unproven : s.lanes[l].prov[c].litOk = false)
    (free : s.lanes[l].prov[c].failDark = false) (late : warmEnd s.lampParams c s.lanes[l].prov[c] + 20000000 ≤ s.now) :
    exec (.notProven l c) s = .next (s.failDark l c .notProven) := by
  have due : s.notProvenDue l c = true := by
    unfold State.notProvenDue
    dsimp only
    rw [active, runs, on, used, warming, unproven, free, show 100 * Config.ms = 20000000 from rfl, decide_eq_true late]
    rfl
  exact congrArg Host.Outcome.next (if_pos due)

/-! ## The envelope of a revert (R404) -/

/-- A current of a watched channel reaches the envelope among those judged. -/
theorem State.envOver_iff {s : State} {l : LaneId} {g : GroupId} {a : Nat} (stage : (s.lanes[l].rev[g]).stage1At = some a) :
    s.envOver l g = true ↔ ∃ c ∈ (s.lanes[l].rev[g]).watched s.params g, ∃ x ∈ s.envJudged l c (a + s.params.decayTicks c),
      x.ovI = true ∨ overEnvelope s.params c x.i = true := by
  unfold State.envOver
  simp only [stage, Option.getD_some, List.any_eq_true, Bool.or_eq_true]
/-- A lane in the vote decides on a group at stage 1 of its revert once every watched channel has its 16 samples. -/
theorem State.envDue_judged {s : State} {l : LaneId} {g : GroupId} {a : Nat} (active : s.active l = true)
    (reverting : s.lanes[l].latches.reverting g = true) (first : has s.lanes[l].latches.energy g = false) (stage : (s.lanes[l].rev[g]).stage1At = some a)
    (judged : ∀ c ∈ (s.lanes[l].rev[g]).watched s.params g, a + s.params.decayTicks c ≤ s.now ∧
      16 ≤ (s.envJudged l c (a + s.params.decayTicks c)).length) : s.envDue l g = true := by
  have all : ((s.lanes[l].rev[g]).watched s.params g).all (fun c => decide (a + s.params.decayTicks c ≤ s.now) &&
      decide (16 ≤ (s.envJudged l c (a + s.params.decayTicks c)).length)) = true := by
    simpa [List.all_eq_true] using judged
  unfold State.envDue
  dsimp only
  rw [show (s.lanes[l].st == LaneStatus.active) = true from active, reverting, first, stage, Option.any_some, all, Bool.or_true]
  rfl
/-- The latches of a lane after the judgement: stage 2 above the envelope, the safe state below it. -/
theorem exec_revertEnvelopeJudge (g : GroupId) (s : State) : ∃ t, exec (.revertEnvelopeJudge g) s = .next t ∧
    ∀ l : LaneId, s.envDue l g = true →
      (s.envOver l g = false → t.lanes[l].latches = s.lanes[l].latches.reach g) ∧
      (s.envOver l g = true → t.lanes[l].latches = { s.lanes[l].latches with
        revert := s.lanes[l].latches.revert ||| only g, energy := s.lanes[l].latches.energy ||| only g }) := by
  refine ⟨_, rfl, fun l due => ⟨fun under => ?_, fun over_ => ?_⟩⟩
  · rw [State.reachSafe, State.modLanes_at, State.trigger, State.modLanes_at, has_maskOf, has_maskOf, due, under]
    rfl
  · rw [State.reachSafe, State.modLanes_at, State.trigger, State.modLanes_at, has_maskOf, has_maskOf, due, over_]
    rfl

end Sys2Proof.Machine

open Sys2Proof Sys2Proof.Machine

/-- Settles O18: NOT_PROVEN decides FAIL_DARK alone; the envelope is judged lane by lane, from the samples of that lane. -/
theorem notProvenHoldsFailDark : Obligations.NotProvenHoldsFailDark := by
  unfold Obligations.NotProvenHoldsFailDark
  refine ⟨fun l c s active runs on used warming unproven free late => ?_, fun l g s a active reverting first stage judged => ?_⟩
  · have decided := s.failDark_proven l c .notProven
    refine ⟨_, exec_notProven active runs on used warming unproven free late, ?_, ?_, fun d other => ?_⟩
    · rw [decided.provAt, State.setProv_same]
      rfl
    · rw [decided.provAt, State.setProv_same]
      rfl
    · rw [decided.provAt, State.setProv_otherChan _ _ _ _ other]
  · obtain ⟨t, e, lanes⟩ := exec_revertEnvelopeJudge g s
    obtain ⟨under, over_⟩ := lanes l (State.envDue_judged active reverting first stage judged)
    refine ⟨t, e, fun below => ?_, fun above => ?_⟩
    · have none_ : s.envOver l g = false := by
        rw [Bool.eq_false_iff, Ne, State.envOver_iff stage]
        rintro ⟨c, hc, x, hx, reaches⟩
        obtain ⟨ovI, envelope⟩ := below c hc x hx
        simp [ovI, envelope] at reaches
      rw [under none_]
      refine ⟨?_, first⟩
      unfold Latches.inSafe
      rw [show has (s.lanes[l].latches.reach g).energy g = false from first]
      exact has_or_only_same _ _
    · rw [over_ ((State.envOver_iff stage).2 above)]
      exact ⟨has_or_only_same _ _, rfl, rfl⟩
end

section
/-!
PROOFS. Teach-in (R160 to R163): the end of a taught channel, which adopts its fingerprint or leaves the working copy, and what follows
it: the group's next channel, or the answer.
-/

namespace Sys2Proof.Machine

/-- The fingerprint of a channel in the working copy is another. -/
def State.adoptFinger (s : State) (c : Chan) (rec_ : Bytes) : State := { s with working := { s.working with finger := s.working.finger.set c rec_ } }
/-- A taught channel has its outcome, and its group goes on to the next channel (R161). -/
def TeachRun.ended (r : TeachRun) (c : Chan) (out now : Nat) : TeachRun :=
  { r with done := r.done ++ [(c, out)], since := r.since.set c.group now, onAt := r.onAt.set c.group none, feedLost := r.feedLost &&& ~~~(only c.group) }
/-- The lanes begin the record of the group's next channel, or TEACH answers (R359). -/
def State.teachGoesOn (s : State) (r : TeachRun) (c : Chan) (out : Nat) : State :=
  let s2 := s.modLanes fun _ L => { L with teach := L.teach.set c.group {} }
  ({ s2 with act := { s2.act with teach := some (r.ended c out s.now) } } : State).teachEnds.probeTrim

/-- Trimming the sources touches the front-ends alone (R179). -/
theorem State.probeTrim_rest (s : State) : s.probeTrim.working = s.working ∧ s.probeTrim.act = s.act := by
  have write (u : State) (g : GroupId) (w : FeWrite) : (u.feWrite g w).working = u.working ∧ (u.feWrite g w).act = u.act := by
    unfold State.feWrite
    split <;> exact ⟨rfl, rfl⟩
  unfold State.probeTrim
  exact ⟨each_field (·.working) _ (fun u g _ => (write u g _).1) s, each_field (·.act) _ (fun u g _ => (write u g _).2) s⟩
/-- TEACH stands as it is, or has ended. -/
theorem State.teachEnds_rest (s : State) : s.teachEnds.working = s.working ∧ (s.teachEnds.act.teach = none ∨ s.teachEnds.act.teach = s.act.teach) := by
  unfold State.teachEnds
  split
  · unfold State.stopTeach
    cases run : s.act.teach with
    | none => exact ⟨rfl, .inl run⟩
    | some t => exact ⟨rfl, .inl rfl⟩
  · exact ⟨rfl, .inr rfl⟩
theorem State.teachGoesOn_rest (s : State) (r : TeachRun) (c : Chan) (out : Nat) : (s.teachGoesOn r c out).working = s.working ∧
    ((s.teachGoesOn r c out).act.teach = none ∨ (s.teachGoesOn r c out).act.teach = some (r.ended c out s.now)) := by
  unfold State.teachGoesOn
  extract_lets s2
  obtain ⟨working, act⟩ := ({ s2 with act := { s2.act with teach := some (r.ended c out s.now) } } : State).teachEnds.probeTrim_rest
  obtain ⟨kept, ends⟩ := ({ s2 with act := { s2.act with teach := some (r.ended c out s.now) } } : State).teachEnds_rest
  rw [working, act]
  exact ⟨kept, ends⟩

/-! ## The end of a taught channel -/

/-- A taught channel is through its steps: it is the present one of its group, and every lane in the vote is through. -/
structure State.TeachDone (s : State) (c : Chan) (r : TeachRun) (e : Chan × Nat × Nat × Nat × Nat) : Prop where
  run : s.act.teach = some r
  entry : r.entries.find? (fun y => y.1 == c) = some e
  current : r.current c.group = some c
  vote : s.activeLanes ≠ []
  through : ∀ l : LaneId, s.active l = true → (s.lanes[l].teach[c.group]).over r.since[c.group] s.now = true

theorem State.TeachDone.due {s : State} {c : Chan} {r : TeachRun} {e : Chan × Nat × Nat × Nat × Nat} (h : s.TeachDone c r e) :
    r.current c.group = some c ∧ !s.activeLanes.isEmpty ∧ s.activeLanes.all fun l => (s.lanes[l].teach[c.group]).over r.since[c.group] s.now := by
  refine ⟨h.current, by simpa using h.vote, List.all_eq_true.2 fun l hl => h.through l ?_⟩
  exact (List.mem_filter.1 hl).2
/-- No two lanes learned the same: outcome 6, and nothing is adopted (R162). -/
theorem exec_teachChannelDone_none {s : State} {c : Chan} {r : TeachRun} {e : Chan × Nat × Nat × Nat × Nat} (h : s.TeachDone c r e)
    (differ : s.teachAgreed e = none) : exec (.teachChannelDone c) s = .next (s.teachGoesOn r c 6) := by
  refine congrArg Host.Outcome.next ?_
  rw [h.run]
  dsimp only
  rw [h.entry]
  dsimp only
  rw [if_pos h.due, differ]
  rfl
/-- Two lanes learned the same: it is adopted unless a rule rejects it (R163). -/
theorem exec_teachChannelDone_some {s : State} {c : Chan} {r : TeachRun} {e : Chan × Nat × Nat × Nat × Nat} (h : s.TeachDone c r e)
    {y : TeachLearn} (agree : s.teachAgreed e = some y) : exec (.teachChannelDone c) s =
      .next ((if s.teachOutcome e y (has r.feedLost c.group) = 0 then s.adoptFinger c (teachRecord y e) else s).teachGoesOn r c
        (s.teachOutcome e y (has r.feedLost c.group))) := by
  refine congrArg Host.Outcome.next ?_
  rw [h.run]
  dsimp only
  rw [h.entry]
  dsimp only
  rw [if_pos h.due, agree]
  dsimp only
  split <;> rfl

end Sys2Proof.Machine

open Sys2Proof Sys2Proof.Machine

/-- Settles O34, by what the lanes learned: what follows the end of a channel touches neither the working copy nor its outcome. -/
theorem teachAdoptsWhatTwoLanesLearned : Obligations.TeachAdoptsWhatTwoLanesLearned := by
  unfold Obligations.TeachAdoptsWhatTwoLanesLearned
  intro c r e s run entry current vote through
  have done : s.TeachDone c r e := ⟨run, entry, current, vote, through⟩
  cases agreed : s.teachAgreed e with
  | none =>
    obtain ⟨working, teach⟩ := s.teachGoesOn_rest r c 6
    exact ⟨_, exec_teachChannelDone_none done agreed, nofun, fun _ => working, teach.imp id fun q => ⟨_, _, q, rfl, rfl⟩⟩
  | some y =>
    refine ⟨_, exec_teachChannelDone_some done agreed, ?_⟩
    by_cases adopted : s.teachOutcome e y (has r.feedLost c.group) = 0
    · rw [if_pos adopted]
      obtain ⟨working, teach⟩ := (s.adoptFinger c (teachRecord y e)).teachGoesOn_rest r c (s.teachOutcome e y (has r.feedLost c.group))
      refine ⟨fun z same _ => ?_, fun rejected => ?_, teach.imp id fun q => ⟨_, _, q, rfl, rfl⟩⟩
      · rw [working, ← Option.some.inj same]
        rfl
      · rcases rejected with none_ | ⟨z, same, rejected⟩
        · exact absurd none_ (by simp)
        · rw [← Option.some.inj same] at rejected
          exact absurd adopted rejected
    · rw [if_neg adopted]
      obtain ⟨working, teach⟩ := s.teachGoesOn_rest r c (s.teachOutcome e y (has r.feedLost c.group))
      refine ⟨fun z same zero => ?_, fun _ => working, teach.imp id fun q => ⟨_, _, q, rfl, rfl⟩⟩
      rw [← Option.some.inj same] at zero
      exact absurd zero adopted
end

section
/-!
PROOFS. What a vote instant clears (R357, R358): PROVE_CLEAR the held decisions of the channels it names, LATCH_CLEAR their latches where
the vote commands them dark; nothing that the vote does afterwards decides or latches anew.
-/

namespace Sys2Proof.Machine

/-! ## What the lanes hold against their channels -/

/-- What a lane holds against its channels: its decisions, and the latches of switches and sources. -/
def LaneState.held (L : LaneState) : Vector Proving 96 × ChanMask × ChanMask := (L.prov, L.latches.switchFault, L.latches.react)
/-- Two states agree in what every lane holds against its channels. -/
structure HeldKept (s t : State) : Prop where
  lane : ∀ l : LaneId, t.lanes[l].held = s.lanes[l].held

namespace HeldKept

theorem refl (s : State) : HeldKept s s := ⟨fun _ => rfl⟩
theorem trans {s t u : State} (h : HeldKept s t) (k : HeldKept t u) : HeldKept s u := ⟨fun l => (k.lane l).trans (h.lane l)⟩
theorem prov {s t : State} (h : HeldKept s t) (l : LaneId) : t.lanes[l].prov = s.lanes[l].prov := congrArg (·.1) (h.lane l)
theorem switchFault {s t : State} (h : HeldKept s t) (l : LaneId) : t.lanes[l].latches.switchFault = s.lanes[l].latches.switchFault :=
  congrArg (·.2.1) (h.lane l)
theorem react {s t : State} (h : HeldKept s t) (l : LaneId) : t.lanes[l].latches.react = s.lanes[l].latches.react := congrArg (·.2.2) (h.lane l)

section
variable {s t : State} (h : HeldKept s t)
include h

theorem lanes {u : State} (e : u.lanes = t.lanes) : HeldKept s u := h.trans ⟨fun l => by rw [e]⟩
theorem ite {u : State} {p : Prop} [Decidable p] (k : HeldKept s u) : HeldKept s (if p then t else u) := by
  split <;> assumption
theorem each {α : Type} {f : State → α → State} (xs : List α) (hf : ∀ u x, HeldKept u (f u x)) : HeldKept s (t.each xs f) :=
  h.trans ⟨fun l => each_field (·.lanes[l].held) xs (fun u x _ => (hf u x).lane l) t⟩
theorem modLanes {f : LaneId → LaneState → LaneState} (hf : ∀ l L, (f l L).held = L.held) : HeldKept s (t.modLanes f) :=
  h.trans ⟨fun k => by rw [State.modLanes_at, hf]⟩
theorem modBank (b : BankId) (f : BankState → BankState) : HeldKept s (t.modBank b f) := h.lanes rfl
theorem withdrawFault (code : Nat) (i : List Nat) (m : LaneMask) : HeldKept s (t.withdrawFault code i m) := h.lanes (State.withdrawFault_lanes ..)
theorem setSafe : HeldKept s t.setSafe := h.modLanes fun _ _ => by split <;> rfl
theorem clearSafe : HeldKept s t.clearSafe := by
  unfold State.clearSafe
  refine withdrawFault ?_ ..
  exact h.modLanes fun _ _ => rfl

/-! ## Clears -/

theorem clearGroup (g : GroupId) : HeldKept s (t.clearGroup g) := by
  unfold State.clearGroup
  extract_lets off s1
  have cleared : HeldKept s s1 := h.modLanes fun _ _ => rfl
  exact cleared.withdrawFault ..
theorem clearSupplyLoss (b : BankId) : HeldKept s (t.clearSupplyLoss b) := by
  unfold State.clearSupplyLoss
  extract_lets outs
  refine withdrawFault (modBank (h.modLanes fun _ _ => ?_) ..) ..
  split <;> rfl

/-! ## What a vote decides -/

theorem quorumFault (m : LaneMask) : HeldKept s (t.fault FaultCode.noQuorum [] m) := by
  unfold State.fault
  extract_lets known
  have raised : HeldKept s (t.raiseFault FaultCode.noQuorum [] m) := h.trans ⟨fun l => by
    obtain ⟨w, e⟩ := t.raiseFault_lane FaultCode.noQuorum [] m 0xFF l
    rw [e]
    rfl⟩
  exact h.ite raised.setSafe
theorem decideMode (m : Mode) (k : Nat) : HeldKept s (t.decideMode m k) := h.lanes rfl
theorem voteModes (v : Voted) : HeldKept s (t.voteModes v) := by
  unfold State.voteModes
  extract_lets f
  exact ite (h.decideMode ..) (ite (h.ite ((h.decideMode ..).ite (ite (h.decideMode ..) h))) (ite (h.setSafe.ite (h.clearSafe.decideMode ..)) h))
theorem dormantModes (v : Vector (Fin 4) 12) : HeldKept s (t.dormantModes v) := h.ite ((h.decideMode ..).ite ((h.decideMode ..).ite h))
theorem judgeReqs (v : Voted) (rs : List ModeReq) : HeldKept s (t.judgeReqs v rs) := by
  induction rs generalizing t with
  | nil => exact h.lanes rfl
  | cons r rs ih =>
    have answered (x : Reply) : HeldKept s ((t.answer r.num x).judgeReqs v rs) := ih (h.lanes rfl)
    have waits : HeldKept s { t with mode := { t.mode with reqs := r :: rs } } := h.lanes rfl
    unfold State.judgeReqs
    refine waits.ite (ite (answered _) (ite (answered _) (ite (ite ?_ (answered _)) ?_)))
    · exact ih (h.lanes rfl)
    · exact ih (h.lanes rfl)
theorem judgeVote (u : State) : HeldKept s (u.judgeVote t) := by
  unfold State.judgeVote
  extract_lets s4
  have modes : HeldKept s s4 := (ite (h.quorumFault _) h).voteModes _
  exact (modes.dormantModes _).judgeReqs ..

end

end HeldKept

/-! ## The levels touch no lane -/

theorem OneGroup.feWrite {g : GroupId} {s t : State} (h : OneGroup g s t) (w : FeWrite) : OneGroup g s (t.feWrite g w) := by
  unfold State.feWrite
  split
  · exact h.modFe _
  · exact h
theorem OneGroup.bringHome {g : GroupId} {s t : State} (h : OneGroup g s t) (sp : Spare) : OneGroup g s (t.bringHome g sp) := by
  unfold State.bringHome
  extract_lets x home later
  have homed : OneGroup g s (home t) := ((h.connect ..).enterStep ..).modLoan ..
  have back : OneGroup g s (t.reconnect g sp) := by
    unfold State.reconnect
    exact (h.connect ..).enterStep ..
  cases x.step with
  | zero | ref => exact back.modLoan ..
  | reconnect | shadowOut | takeover | idle => exact h
  | connect | shadowIn | arbitrate | arbRef => exact homed.modLoan ..
  | release | selfCal | selfRef => exact homed
theorem State.setLevel_oneGroup (s : State) (g : GroupId) (k : Fin 4) : OneGroup g s (s.setLevel g k) := by
  unfold State.setLevel
  extract_lets G votes held s1 lowering s2
  have counted : OneGroup g s s1 := OneGroup.refl.modGroup _
  have risen : OneGroup g s s2 := counted.modGroup _
  split
  · split
    · exact (risen.feWrite _).feWrite _
    · exact risen
  · split
    · refine OneGroup.modGroup ?_ _
      split
      · exact (counted.bringHome .volt).bringHome .curr
      · exact counted
    · exact counted.modGroup _
theorem State.levelVote_lanes (s : State) (v : Voted) : (s.levelVote v).lanes = s.lanes := by
  have levels : (s.each allGroups fun t g => t.setLevel g (s.chosenLevel v g)).lanes = s.lanes :=
    each_field (·.lanes) _ (fun t g _ => by rw [(t.setLevel_oneGroup g _).rest]) s
  have rotates (t : State) : t.copVote.lanes = t.lanes := by
    unfold State.copVote
    split <;> rfl
  have frees (t : State) : t.freeRings.lanes = t.lanes := each_field (·.lanes) _ (fun u q _ => by rw [((MailOnly.refl u).freeRing q).rest]) t
  rw [State.levelVote, frees, rotates, levels]
/-- Nothing that a vote does after its clears touches what the lanes hold against their channels. -/
theorem State.vote_heldKept (s : State) : HeldKept s.castVote s.vote := by
  rw [s.vote_parts]
  have levelled : HeldKept s.castVote ((s.judgeVote s.castVote).levelVote s.votedImage) :=
    ((HeldKept.refl _).judgeVote s).lanes (State.levelVote_lanes ..)
  generalize (s.judgeVote s.castVote).levelVote s.votedImage = t at levelled
  obtain ⟨hs, w, e⟩ := t.deriveVote_ends
  rw [e]
  refine HeldKept.lanes (t := t.modLanes t.derivesLane) (levelled.modLanes fun l L => ?_) rfl
  unfold State.derivesLane
  split <;> rfl

/-! ## The clears that are due -/

/-- The activities, and the transactions. -/
def State.tasks (s : State) : Activities × List Txn := (s.act, s.mail.txns)
theorem State.note_tasks (s : State) (code : Nat) (i : List Nat) : (s.note code i).tasks = s.tasks := by
  rw [State.tasks, State.note_act, State.note_txns, State.tasks]
theorem State.withdrawFault_tasks (s : State) (code : Nat) (i : List Nat) : (s.withdrawFault code i).tasks = s.tasks := by
  have txns : (s.withdrawFault code i).mail.txns = s.mail.txns := by
    unfold State.withdrawFault
    exact each_field (·.mail.txns) _ (fun t f _ => State.event_txns ..) _
  rw [State.tasks, State.withdrawFault_act, txns, State.tasks]
theorem State.noteMaster_tasks (s : State) (m : MasterId) (v : MasterView) : (s.noteMaster m v).tasks = s.tasks := by
  unfold State.noteMaster
  extract_lets n was now s1 say s2 s3 s4
  have said (u : State) (b : Bool) (code : Nat) : (say u b code).tasks = u.tasks := by
    unfold say
    split
    · exact u.note_tasks ..
    · rfl
  rw [said, said, said, said]
  rfl
theorem State.voteClears_tasks (s : State) (v : Voted) : (s.voteClears v).tasks = s.tasks := by
  unfold State.voteClears
  extract_lets gs bs chans outs s1 s2
  have proven : s2.tasks = s1.tasks := each_field State.tasks gs (fun u g _ => u.withdrawFault_tasks ..) s1
  exact (each_field State.tasks bs (fun u b _ => (u.modBank b _).withdrawFault_tasks ..) s2).trans proven
/-- A vote up to the clears that are due: the masters are counted, and the lanes take the voted image. -/
def State.countVote (s : State) : State :=
  ((s.each allMasters fun s' m => s'.noteMaster m (Vector.ofFn s.masterView)[m]).takeVote s.votedImage).voteClears s.votedImage
theorem State.castVote_eq (s : State) : s.castVote = s.countVote.dueClears := rfl
theorem State.takeVote_tasks (s : State) (v : Voted) : (s.takeVote v).tasks = s.tasks := rfl
theorem State.countVote_tasks (s : State) : s.countVote.tasks = s.tasks := by
  unfold State.countVote
  rw [State.voteClears_tasks, State.takeVote_tasks]
  exact each_field State.tasks allMasters (fun u m _ => u.noteMaster_tasks m _) s
theorem State.countVote_active (s : State) (l : LaneId) : s.countVote.active l = s.active l := by
  rw [← (VoteKept.refl s.countVote).dueClears.active l, ← State.castVote_eq]
  exact s.castVote_takes.2.1 l
/-- At a vote at which one clear waits that every lane has started, it takes effect. -/
theorem State.castVote_clears {s : State} {k : PendingClear} (waits : s.act.clears = [k]) (started : ∀ x, s.txn k.num = some x → s.allStarted x = true) :
    ∃ t : State, (∀ l, t.active l = s.active l) ∧ (∀ l : LaneId, t.lanes[l].voted = s.castVote.lanes[l].voted) ∧
      s.castVote = if k.isProve then t.proveClear k else t.latchClear k := by
  have tasks := s.countVote_tasks
  have active := s.countVote_active
  rw [State.castVote_eq]
  generalize s.countVote = u at tasks active
  obtain ⟨act, txns⟩ := Prod.mk.inj tasks
  have vote : u.voteMask = s.voteMask := congrArg maskOf (funext active)
  have due : (u.act.clears.filter fun k => (u.txn k.num).all u.allStarted) = [k] := by
    have all : (u.txn k.num).all u.allStarted = true := by
      unfold State.txn State.allStarted
      rw [txns, vote, Option.all_eq_true]
      exact started
    rw [act, waits]
    exact List.filter_cons_of_pos all
  let t : State := { u with act := { u.act with clears := u.act.clears.filter fun j => !([k] : List PendingClear).contains j } }
  have cleared : u.dueClears = if k.isProve then t.proveClear k else t.latchClear k := by
    unfold State.dueClears
    rw [due]
    rfl
  refine ⟨t, active, fun l => ((VoteKept.refl u).dueClears.votedImage l).symm, cleared⟩

/-- PROVE_CLEAR leaves no held decision of a channel that it names in a lane in the vote (R357). -/
theorem State.proveClear_lapses (s : State) (k : PendingClear) {l : LaneId} (active : s.active l = true) {i : Chan} (named : has k.prove i = true) :
    ∃ a : Proving, (s.proveClear k).lanes[l].prov[i] = a.lapsed := by
  refine ⟨s.lanes[l].prov[i], ?_⟩
  unfold State.proveClear
  extract_lets was s1
  have lane : s1.lanes[l].prov[i] = (s.lanes[l].prov[i]).lapsed := by
    unfold s1
    rw [State.modLanes_at, if_pos (show (s.lanes[l].st == LaneStatus.active) = true from active)]
    simp [named]
  exact lane
/-- LATCH_CLEAR leaves no latch, of a kind that it names, of a channel that it names and the vote commands dark, in a lane in the vote
(R358). -/
theorem State.latchClear_clears (s : State) (k : PendingClear) {l : LaneId} (active : s.active l = true) {i : Chan} (named : has k.latchCh i = true)
    (dark : s.voteDark i = true) :
    (k.kinds.getLsbD 0 = true → has (s.latchClear k).lanes[l].latches.switchFault i = false) ∧
    (k.kinds.getLsbD 1 = true → has (s.latchClear k).lanes[l].latches.react i = false) := by
  unfold State.latchClear
  extract_lets sw re anyL chans gs bs s1 s2 s3 kinds
  have later : HeldKept s1 (s3.answer k.num (okReply (maskBytes chans ++ toLe 2 gs.toNat ++ toLe 1 bs.toNat ++ toLe 1 kinds))) :=
    (((HeldKept.refl s1).each _ fun u g => (HeldKept.refl u).clearGroup g).each _ fun u b => (HeldKept.refl u).clearSupplyLoss b).lanes rfl
  have inVote : l ∈ s.activeLanes := List.mem_filter.2 ⟨List.mem_finRange l, active⟩
  have lane : s1.lanes[l].latches = { s.lanes[l].latches with
      switchFault := if sw then s.lanes[l].latches.switchFault &&& ~~~chans else s.lanes[l].latches.switchFault
      react := if re then s.lanes[l].latches.react &&& ~~~chans else s.lanes[l].latches.react } := by
    unfold s1
    rw [State.modLanes_at, if_pos (show (s.lanes[l].st == LaneStatus.active) = true from active)]
  /- A latch of the channel that stands in the lane makes the channel one of those cleared. -/
  have cleared (m : ChanMask) (hm : has m i = true → ((sw && has s.lanes[l].latches.switchFault i) || (re && has s.lanes[l].latches.react i)) = true) :
      has (m &&& ~~~chans) i = false := by
    rw [has_and, has_not]
    cases stands : has m i with
    | false => rfl
    | true =>
      have inChans : has chans i = true := by
        unfold chans anyL
        rw [has_maskOf, named, dark, Bool.true_and, Bool.true_and]
        exact List.any_eq_true.2 ⟨l, inVote, hm stands⟩
      rw [inChans]
      rfl
  refine ⟨fun kind => ?_, fun kind => ?_⟩
  · rw [later.switchFault, lane, show sw = true from kind]
    exact cleared _ fun stands => by rw [show sw = true from kind, stands]; rfl
  · rw [later.react, lane, show re = true from kind]
    exact cleared _ fun stands => by rw [show re = true from kind, stands]; exact Bool.or_true _

/-! ## After the vote -/

theorem exec_voteInstant_due {s : State} (due : s.voteDue = true) : exec .voteInstant s = .next s.vote := congrArg Host.Outcome.next (if_pos due)
/-- After the vote at which a PROVE_CLEAR takes effect no lane in it holds a decision of a channel named (R357). -/
theorem State.vote_proveClear {s : State} {k : PendingClear} (waits : s.act.clears = [k])
    (started : ∀ x, s.txn k.num = some x → s.allStarted x = true) (prove : k.isProve = true) {l : LaneId} (active : s.active l = true) {i : Chan}
    (named : has k.prove i = true) :
    s.vote.lanes[l].prov[i].failDark = false ∧ s.vote.lanes[l].prov[i].failLit = false ∧ s.vote.lanes[l].prov[i].foreign = false := by
  obtain ⟨t, inVote, -, cast⟩ := State.castVote_clears waits started
  obtain ⟨a, lapsed⟩ := t.proveClear_lapses k (show t.active l = true by rw [inVote, active]) named
  rw [if_pos prove] at cast
  rw [s.vote_heldKept.prov l, cast, lapsed]
  exact ⟨rfl, rfl, rfl⟩
/-- After the vote at which a LATCH_CLEAR takes effect no lane in it holds a latch, of a kind named, of a channel named that the vote
commands dark (R358). -/
theorem State.vote_latchClear {s : State} {k : PendingClear} (waits : s.act.clears = [k])
    (started : ∀ x, s.txn k.num = some x → s.allStarted x = true) (latch : k.isProve = false) {l : LaneId} (active : s.active l = true) {i : Chan}
    (named : has k.latchCh i = true) (dark : ∀ x : LaneId, s.active x = true → cmdDark s.vote.lanes[x].voted.cmd[i] = true) :
    (k.kinds.getLsbD 0 = true → has s.vote.lanes[l].latches.switchFault i = false) ∧
    (k.kinds.getLsbD 1 = true → has s.vote.lanes[l].latches.react i = false) := by
  obtain ⟨t, inVote, voted, cast⟩ := State.castVote_clears waits started
  have voteDark : t.voteDark i = true := by
    refine List.all_eq_true.2 fun x hx => ?_
    have hx : s.active x = true := by
      rw [← inVote]
      exact (List.mem_filter.1 hx).2
    have same : t.lanes[x].voted = s.vote.lanes[x].voted := by
      obtain ⟨-, derives⟩ := s.vote_derives
      obtain ⟨-, -, -, takes⟩ := s.castVote_takes
      exact (voted x).trans ((takes x hx).trans (derives x hx).1.symm)
    rw [same]
    exact dark x hx
  rw [if_neg (by rw [latch]; exact Bool.false_ne_true)] at cast
  rw [s.vote_heldKept.switchFault l, s.vote_heldKept.react l, cast]
  exact t.latchClear_clears k (by rw [inVote, active]) named voteDark

end Sys2Proof.Machine
end

section
/-!
PROOFS. The arrival of a command whose effect comes later (R357 to R365): the lanes start it, no answer is handed over, and beside the
mailbox path all is as its operation leaves it.
-/

namespace Sys2Proof.Machine

/-! ## The mailbox path aside -/

theorem agreeButMail.of_mailOnly {a t u : State} (h : agreeButMail a t) (k : MailOnly t u) : agreeButMail a u := by
  obtain ⟨rest, hub⟩ := h
  have upd : u.upd = t.upd := by rw [k.rest]
  have path := k.path
  rw [congrArg (·.mail) rest] at path
  refine ⟨?_, fun x => ?_⟩
  · have e := k.rest
    rw [rest, path] at e
    rw [upd]
    exact e
  · have e := k.hub x
    rw [hub x] at e
    exact e
/-- What does not look at the mailbox path does not tell two such states apart. -/
theorem agreeButMail.field {β : Type} {a t : State} (h : agreeButMail a t) (π : State → β)
    (hπ : ∀ m hs n, π { a with mail := m, hubs := hs, upd := { a.upd with lastCmd := n } } = π a) : π t = π a := by
  rw [h.1]
  exact hπ ..
theorem agreeButMail.act {a t : State} (h : agreeButMail a t) (x : Activities) : agreeButMail { a with act := x } { t with act := x } :=
  ⟨congrArg (fun u : State => { u with act := x }) h.1, h.2⟩
theorem agreeButMail.lanes {a t : State} (h : agreeButMail a t) (x : Vector LaneState 3) : agreeButMail { a with lanes := x } { t with lanes := x } :=
  ⟨congrArg (fun u : State => { u with lanes := x }) h.1, h.2⟩
theorem agreeButMail.tests {a t : State} (h : agreeButMail a t) (x : Tests) : agreeButMail { a with tests := x } { t with tests := x } :=
  ⟨congrArg (fun u : State => { u with tests := x }) h.1, h.2⟩
/-- The state on which an operation runs differs in the mailbox path. -/
theorem State.taken_agrees (s : State) (c : MailCmd) (op : Nat) : agreeButMail s (s.taken c op) := by
  refine ⟨?_, taken_hub s c op⟩
  have path := (MailOnly.stored s c op).path
  have upd : (s.taken c op).upd = { s.upd with lastCmd := (s.taken c op).upd.lastCmd } := by
    rw [taken_upd]
    split <;> rfl
  have mail : (s.taken c op).mail = { s.mail with
      rings := (s.taken c op).mail.rings, txns := (s.taken c op).mail.txns, nextNum := (s.taken c op).mail.nextNum, turn := (s.taken c op).mail.turn } := by
    unfold State.taken
    dsimp only
    rw [path]
  have rest : s.taken c op = { s with mail := (s.taken c op).mail, hubs := (s.taken c op).hubs, upd := (s.taken c op).upd } := by
    unfold State.taken
    dsimp only
    rw [stored_rest]
  rw [← mail, ← upd]
  exact rest
/-- What an admitted command leaves whose operation touches no transaction. -/
theorem State.accept_runs {s : State} {c : MailCmd} {op : Nat} {f : Cmd → State → OpRes} (h : s.Admits c op) (hf : votedOp op = some f)
    {r : State} {o : Option Reply} (run : f (cmdAs c s) (s.taken c op) = (r, o)) (txns : r.mail.txns = (s.taken c op).mail.txns) :
    s.Executed (s.accept c op) c op o ∧ MailOnly r (s.accept c op) := by
  obtain ⟨mail, alone⟩ := accept_voted h hf
  rw [run] at mail alone
  obtain ⟨x, one, num, src, octets, outcome, done, lanes, -⟩ := alone txns
  exact ⟨⟨x, one, num, src, octets, outcome, done, lanes⟩, mail⟩

/-! ## Checks -/

/-- A check that does not fail is passed over; one that does refuses with its status. -/
theorem State.unless_cons {s : State} {b : Bool} {n : Nat} {checks : List (Bool × Nat)} (h : b = false) (run : State → OpRes) :
    s.unless ((b, n) :: checks) run = s.unless checks run := by
  subst h
  rfl
theorem State.unless_nil (s : State) (run : State → OpRes) : s.unless [] run = run s := rfl
theorem State.unless_refused {s : State} {b : Bool} {n : Nat} {checks : List (Bool × Nat)} (h : b = true) (run : State → OpRes) :
    s.unless ((b, n) :: checks) run = (s, some (plain n)) := by
  subst h
  rfl

end Sys2Proof.Machine
end

section
/-!
PROOFS. PROVE_CLEAR and LATCH_CLEAR join the clears of the next vote (R357, R358); TEACH starts (R359).
-/

namespace Sys2Proof.Machine

section
variable {s : State} {c : MailCmd} {op : Nat} {f : Cmd → State → OpRes} {o : Option Reply}

/-- What an admitted command leaves whose operation changes nothing but the activities. -/
theorem State.accept_acts (h : s.Admits c op) (hf : votedOp op = some f) {x : Activities}
    (run : f (cmdAs c s) (s.taken c op) = ({ s.taken c op with act := x }, o)) :
    s.Executed (s.accept c op) c op o ∧ agreeButMail { s with act := x } (s.accept c op) := by
  obtain ⟨executed, mail⟩ := State.accept_runs h hf run rfl
  exact ⟨executed, ((s.taken_agrees c op).act x).of_mailOnly mail⟩
/-- What an admitted command leaves that answers and changes nothing. -/
theorem State.accept_answers (h : s.Admits c op) (hf : votedOp op = some f) (run : f (cmdAs c s) (s.taken c op) = (s.taken c op, o)) :
    s.Executed (s.accept c op) c op o ∧ agreeButMail s (s.accept c op) := by
  obtain ⟨executed, mail⟩ := State.accept_runs h hf run rfl
  exact ⟨executed, (s.taken_agrees c op).of_mailOnly mail⟩

end

section
variable {c : Cmd} (s : State)

theorem opProveClear_joins (set : maskAt 96 c.p 0 ≠ 0) : opProveClear c s =
    ({ s with act := { s.act with clears := s.act.clears ++ [{ num := c.num, prove := maskAt 96 c.p 0 }] } }, none) := by
  unfold opProveClear
  rw [State.unless_cons (beq_false_of_ne set)]
  rfl
theorem opLatchClear_joins (groups : leAt c.p 12 2 < 4096) (banks : leAt c.p 14 1 < 16) (clear : octet c.p 15 &&& 0xF0#8 = 0)
    (kinds : octet c.p 15 ≠ 0) (set : maskAt 96 c.p 0 ≠ 0 ∨ leAt c.p 12 2 ≠ 0 ∨ leAt c.p 14 1 ≠ 0) : opLatchClear c s =
    ({ s with act := { s.act with clears := s.act.clears ++ [{
      num := c.num, latchCh := maskAt 96 c.p 0, groups := BitVec.ofNat 12 (leAt c.p 12 2), banks := BitVec.ofNat 4 (leAt c.p 14 1)
      kinds := octet c.p 15, isProve := false }] } }, none) := by
  have reserved : (decide (4096 ≤ leAt c.p 12 2) || decide (16 ≤ leAt c.p 14 1) || octet c.p 15 &&& 0xF0#8 != 0) = false := by
    simp [groups, banks, clear]
  have named : (octet c.p 15 == 0 || (maskAt 96 c.p 0 == 0 && leAt c.p 12 2 == 0 && leAt c.p 14 1 == 0)) = false := by
    simp only [Bool.or_eq_false_iff, Bool.and_eq_false_iff, beq_eq_false_iff_ne, or_assoc]
    exact ⟨kinds, set⟩
  unfold opLatchClear
  dsimp only
  rw [State.unless_cons reserved, State.unless_cons named]
  rfl

/-- TEACH of entries that pass its checks: it runs, and every lane's record of it starts anew. -/
theorem opTeach_starts {es : List (Chan × Nat × Nat × Nat × Nat)} (clear : allZero c.p 1 3 = true) (hes : teachEntries c.p = some es)
    (some_ : es ≠ []) (few : es.length ≤ 96) (once : (es.map (·.1)).Nodup)
    (fits : ∀ e ∈ es, 1 ≤ e.2.1 ∧ e.2.1 ≤ 5 ∧ s.working.used e.1 = true ∧ s.teachFeed e.1.group = true ∧ classFits s.working e.1 e.2.1 = true)
    (sequenced : ∀ g : GroupId, auxMode s.fe[g].aux.ctrl = 2) (idle : s.act.teach = none) (unlit : s.act.lamp = none) (stays : s.activating = false) :
    opTeach c s = (({ s with act := { s.act with teach := some { num := c.num, entries := es, since := Vector.replicate 12 s.now } } } : State).modLanes
      fun _ L => { L with teach := Vector.replicate 12 {} }, none) := by
  have classes : es.any (fun e => e.2.1 == 0 || decide (5 < e.2.1)) = false := by
    rw [List.any_eq_false]
    intro e he
    obtain ⟨low, high, -⟩ := fits e he
    rw [beq_false_of_ne (show e.2.1 ≠ 0 by omega), decide_eq_false (show ¬5 < e.2.1 by omega)]
    exact Bool.false_ne_true
  have range : (es.isEmpty || decide (96 < es.length) || es.any (fun e => e.2.1 == 0 || decide (5 < e.2.1)) || !decide (es.map (·.1)).Nodup) = false := by
    rw [classes, decide_eq_true once, decide_eq_false (by omega), List.isEmpty_eq_false_iff.2 some_]
    rfl
  have used : (es.any fun e => !s.working.used e.1) = false := List.any_eq_false.2 fun e he => by
    obtain ⟨-, -, named, -⟩ := fits e he
    rw [named]
    exact Bool.false_ne_true
  have mode : (allGroups.any fun g => auxMode s.fe[g].aux.ctrl != 2) = false := List.any_eq_false.2 fun g _ => by
    rw [sequenced g]
    exact Bool.false_ne_true
  have feed : (es.any fun e => !s.teachFeed e.1.group) = false := List.any_eq_false.2 fun e he => by
    obtain ⟨-, -, -, named, -⟩ := fits e he
    rw [named]
    exact Bool.false_ne_true
  have fit : (es.any fun e => !classFits s.working e.1 e.2.1) = false := List.any_eq_false.2 fun e he => by
    obtain ⟨-, -, -, -, named⟩ := fits e he
    rw [named]
    exact Bool.false_ne_true
  have free : (s.act.teach.isSome || s.act.lamp.isSome || s.activating) = false := by
    rw [idle, unlit, stays]
    rfl
  unfold opTeach
  rw [hes]
  dsimp only
  rw [State.unless_cons (show (!allZero c.p 1 3) = false by rw [clear]; rfl), State.unless_cons range, State.unless_cons used, State.unless_cons mode,
    State.unless_cons feed, State.unless_cons fit, State.unless_cons free]
  rfl

end

/-! ## The commands as they arrive -/

/-- What is left of a state in which the operation has put other activities and other lanes. -/
theorem agreeButMail.of_lanes {s u t : State} {x : Activities} {ls : Vector LaneState 3} (h : agreeButMail s u)
    (k : MailOnly { u with act := x, lanes := ls } t) : t.lanes = ls ∧ agreeButMail { s with act := x, lanes := t.lanes } t := by
  have lanes : t.lanes = ls := by rw [k.rest]
  rw [lanes]
  exact ⟨rfl, ((h.act x).lanes ls).of_mailOnly k⟩

section
variable {s : State} {c : MailCmd}

theorem State.Admits.proveClear (h : s.Admits c 0x0201) (set : maskAt 96 c.payload 0 ≠ 0) :
    s.Executed (s.accept c 0x0201) c 0x0201 none ∧
    agreeButMail { s with act := { s.act with clears := s.act.clears ++ [{ num := s.mail.nextNum, prove := maskAt 96 c.payload 0 }] } } (s.accept c 0x0201) := by
  have run := opProveClear_joins (c := cmdAs c s) (s.taken c 0x0201) set
  rw [taken_act] at run
  exact State.accept_acts h rfl run
theorem State.Admits.latchClear (h : s.Admits c 0x0202) (groups : leAt c.payload 12 2 < 4096) (banks : leAt c.payload 14 1 < 16)
    (clear : octet c.payload 15 &&& 0xF0#8 = 0) (kinds : octet c.payload 15 ≠ 0)
    (set : maskAt 96 c.payload 0 ≠ 0 ∨ leAt c.payload 12 2 ≠ 0 ∨ leAt c.payload 14 1 ≠ 0) :
    s.Executed (s.accept c 0x0202) c 0x0202 none ∧
    agreeButMail { s with act := { s.act with clears := s.act.clears ++ [{
      num := s.mail.nextNum, latchCh := maskAt 96 c.payload 0, groups := BitVec.ofNat 12 (leAt c.payload 12 2)
      banks := BitVec.ofNat 4 (leAt c.payload 14 1), kinds := octet c.payload 15, isProve := false }] } } (s.accept c 0x0202) := by
  have run := opLatchClear_joins (c := cmdAs c s) (s.taken c 0x0202) groups banks clear kinds set
  rw [taken_act] at run
  exact State.accept_acts h rfl run

/-- The first named channel of a group is the one a TEACH that has taught none yet teaches. -/
theorem TeachRun.current_fresh (n : Nat) (es : List (Chan × Nat × Nat × Nat × Nat)) (since : Vector Nat 12) (g : GroupId) :
    ({ num := n, entries := es, since := since } : TeachRun).current g = (es.map (·.1)).find? fun j => j.group == g := by
  unfold TeachRun.current
  rw [List.head?_filter, List.find?_map]
  simp only [List.any_nil, Bool.not_false, Bool.and_true]
  rfl

theorem State.Admits.teach {es : List (Chan × Nat × Nat × Nat × Nat)} (h : s.Admits c 0x0203) (clear : allZero c.payload 1 3 = true)
    (hes : teachEntries c.payload = some es) (some_ : es ≠ []) (few : es.length ≤ 96) (once : (es.map (·.1)).Nodup)
    (fits : ∀ e ∈ es, 1 ≤ e.2.1 ∧ e.2.1 ≤ 5 ∧ s.working.used e.1 = true ∧ s.teachFeed e.1.group = true ∧ classFits s.working e.1 e.2.1 = true)
    (sequenced : ∀ g : GroupId, auxMode s.fe[g].aux.ctrl = 2) (idle : s.act.teach = none) (unlit : s.act.lamp = none) (stays : s.activating = false) :
    ∃ t, exec (.teach c) s = .next t ∧ s.Executed t c 0x0203 none ∧
      agreeButMail { s with act := { s.act with teach := some { num := s.mail.nextNum, entries := es, since := Vector.replicate 12 s.now } }, lanes := t.lanes } t ∧
      (∀ l : LaneId, t.lanes[l] = { s.lanes[l] with teach := Vector.replicate 12 {} }) ∧
      ∀ i : Chan, t.taught i = true ↔ (es.map (·.1)).find? (fun j => j.group == i.group) = some i := by
  have same := s.taken_agrees c 0x0203
  have feed (g : GroupId) : (s.taken c 0x0203).teachFeed g = s.teachFeed g := same.field (·.teachFeed g) fun _ _ _ => rfl
  have run := opTeach_starts (c := cmdAs c s) (s.taken c 0x0203) clear hes some_ few once
    (fun e he => by rw [taken_working, feed]; exact fits e he) (fun g => by rw [taken_fe]; exact sequenced g) (by rw [taken_act]; exact idle)
    (by rw [taken_act]; exact unlit) ((same.field State.activating fun _ _ _ => rfl).trans stays)
  obtain ⟨executed, mail⟩ := State.accept_runs h rfl run rfl
  obtain ⟨lanes, agrees⟩ := same.of_lanes mail
  rw [taken_act, taken_now] at agrees
  refine ⟨_, rfl, executed, agrees, fun l => ?_, fun i => ?_⟩
  · rw [lanes, Fin.getElem_fin, Vector.getElem_ofFn, taken_lanes]
  · rw [show (s.accept c 0x0203).taught i = _ from agrees.field (·.taught i) fun _ _ _ => rfl, ← TeachRun.current_fresh s.mail.nextNum es (Vector.replicate 12 s.now)]
    exact beq_iff_eq

end

end Sys2Proof.Machine
end

section
/-!
PROOFS. LAMP_TEST and FIELD_TEST start (R360, R364): the lanes hand over images derived anew.
-/

namespace Sys2Proof.Machine

/-! ## Images derived anew -/

/-- The derivation reads of a lane its voted images and its latched fault set. -/
theorem State.derive_lanes (s : State) {l : LaneId} {ls : Vector LaneState 3} (hd : ls[l].due = s.lanes[l].due) (hv : ls[l].voted = s.lanes[l].voted) :
    ({ s with lanes := ls } : State).derive l = s.derive l :=
  State.endVote_derive s.hubs s.wear hd hv
/-- The lanes after a test has started. -/
def State.overlayLanes (s : State) : Vector LaneState 3 :=
  if s.mode.voted && !s.pastHandOver then
    Vector.ofFn fun l => if s.active l && !s.lanes[l].noImage then { s.lanes[l] with drive := { s.lanes[l].drive with next := s.derive l } } else s.lanes[l]
  else s.lanes
theorem State.overlayNow_eq (s : State) : s.overlayNow = { s with lanes := s.overlayLanes } := by
  unfold State.overlayNow State.overlayLanes
  split
  · rfl
  · rfl
theorem State.overlayLanes_at (s : State) (l : LaneId) : s.overlayLanes[l] =
    if s.mode.voted = true ∧ s.pastHandOver = false ∧ s.active l = true ∧ s.lanes[l].noImage = false then
      { s.lanes[l] with drive := { s.lanes[l].drive with next := s.derive l } } else s.lanes[l] := by
  unfold State.overlayLanes
  cases s.mode.voted
  · simp
  cases s.pastHandOver
  · simp only [Bool.not_false, Bool.and_true, if_true, Fin.getElem_fin, Vector.getElem_ofFn, Bool.and_eq_true, Bool.not_eq_true', true_and]
  · simp
/-- What a test that starts leaves: the lanes alone differ, which hand over what they derive with the test. -/
theorem agreeButMail.overlays {s u t : State} {x : Activities} (h : agreeButMail s u) (k : MailOnly ({ u with act := x } : State).overlayNow t) :
    agreeButMail { s with act := x, lanes := t.lanes } t ∧ s.handsOverAnew t ∧ ∀ l, t.derive l = ({ s with act := x } : State).derive l := by
  rw [State.overlayNow_eq] at k
  obtain ⟨lanes, agrees⟩ := agreeButMail.of_lanes (x := x) h k
  have before := h.act x
  have same (l : LaneId) : t.lanes[l] =
      if s.mode.voted = true ∧ s.pastHandOver = false ∧ s.active l = true ∧ s.lanes[l].noImage = false then
        { s.lanes[l] with drive := { s.lanes[l].drive with next := ({ s with act := x } : State).derive l } } else s.lanes[l] := by
    rw [lanes, State.overlayLanes_at, before.field (·.derive l) fun _ _ _ => rfl, before.field (·.lanes[l]) fun _ _ _ => rfl,
      before.field (·.active l) fun _ _ _ => rfl, before.field State.pastHandOver fun _ _ _ => rfl, before.field (·.mode) fun _ _ _ => rfl]
    rfl
  have derives (l : LaneId) : t.derive l = ({ s with act := x } : State).derive l := by
    refine (agrees.field (·.derive l) fun _ _ _ => rfl).trans (State.derive_lanes { s with act := x } ?_ ?_)
    · rw [same l]
      split <;> rfl
    · rw [same l]
      split <;> rfl
  exact ⟨agrees, fun l => by rw [same l, derives l], derives⟩

/-! ## The derived image in COMMISSION -/

section
variable {s : State} (commission : s.targetMode = .commission) (l : LaneId)
include commission

theorem State.drivesNext_commission : s.drivesNext = false := by
  unfold State.drivesNext
  rw [commission]
  rfl
theorem State.revertNext_commission (g : GroupId) : s.revertNext l g = false := by
  unfold State.revertNext
  rw [commission]
  rfl
theorem State.chanOnNext_commission (i : Chan) : s.chanOnNext l i = false := by
  unfold State.chanOnNext
  rw [State.drivesNext_commission commission]
  rfl
theorem State.pointOnNext_commission (p : Point) : s.pointOnNext l p = false := by
  unfold State.pointOnNext
  rw [State.drivesNext_commission commission]
  simp only [State.revertNext_commission commission]
  split
  · rfl
  · split <;> rfl
/-- In COMMISSION a channel is derived on by the overlay of a test alone, a point too (R23, R371). -/
theorem State.derive_on_commission (i : Chan) : has (s.derive l).on i = s.testOnNext l i := by
  change has (maskOf _ ||| maskOf _) i = _
  rw [has_or, has_maskOf, has_maskOf, State.chanOnNext_commission commission, Bool.false_or]
theorem State.derive_pts_commission (p : Point) : has (s.derive l).pts p = s.testPtNext l p := by
  change has (maskOf _ ||| maskOf _) p = _
  rw [has_or, has_maskOf, has_maskOf, State.pointOnNext_commission commission, Bool.false_or]

end

section
variable (s : State) {t : TimedTest} (endless : t.endAt = none) (commission : s.targetMode = .commission) (l : LaneId)
include endless commission

/-- What LAMP_TEST derives on in COMMISSION. -/
theorem State.derive_lamp (used : ∀ i : Chan, has t.chans i = true → s.working.used i = true) (i : Chan) :
    has (({ s with act := { s.act with lamp := some t } } : State).derive l).on i =
      (has t.chans i && !has s.lanes[l].due.chanOff i && !has s.lanes[l].due.energy i.group && cmdLit t.cmd s.nextPhaseB) := by
  have covers : s.testCovers t = true := by
    unfold State.testCovers
    rw [endless]
    rfl
  rw [State.derive_on_commission (s := { s with act := { s.act with lamp := some t } }) commission]
  change (s.targetMode == .commission && s.working.used i && !has s.lanes[l].due.chanOff i && !has s.lanes[l].due.energy i.group &&
    cmdLit (if has t.chans i && s.testCovers t then t.cmd else 0) s.nextPhaseB) = _
  rw [commission, covers]
  cases named : has t.chans i
  · simp [cmdLit]
  · rw [used i named]
    rfl
/-- What FIELD_TEST derives on in COMMISSION. -/
theorem State.derive_field (outputs : ∀ p : Point, has t.pts p = true → s.working.isOut p = true) (p : Point) :
    has (({ s with act := { s.act with field := some t } } : State).derive l).pts p = (has t.pts p && !s.lanes[l].due.pointOff p) := by
  have covers : s.testCovers t = true := by
    unfold State.testCovers
    rw [endless]
    rfl
  rw [State.derive_pts_commission (s := { s with act := { s.act with field := some t } }) commission]
  change (s.targetMode == .commission && s.working.isOut p && !s.lanes[l].due.pointOff p && (has t.pts p && s.testCovers t)) = _
  rw [commission, covers]
  cases named : has t.pts p
  · simp
  · rw [outputs p named]
    simp

end

/-! ## The two tests as they arrive -/

section
variable {c : Cmd} (s : State)

theorem opLampTest_starts (clear : octet c.p 13 = 0) (set : maskAt 96 c.p 0 ≠ 0) (low : 1 ≤ leAt c.p 12 1) (high : leAt c.p 12 1 ≤ 5)
    (time : 1 ≤ leAt c.p 14 2) (ends : leAt c.p 14 2 ≤ 600) (configured : ∀ i : Chan, has (maskAt 96 c.p 0) i = true → s.working.configured i = true)
    (untaught : s.act.teach = none) (idle : s.act.lamp = none) : opLampTest c s =
    (({ s with act := { s.act with lamp := some {
      num := c.num, chans := maskAt 96 c.p 0, cmd := BitVec.ofNat 4 (leAt c.p 12 1), duration := s.wholeCycles (leAt c.p 14 2), skip := s.pastHandOver } } } : State).overlayNow, none) := by
  have range : (maskAt 96 c.p 0 == 0 || leAt c.p 12 1 == 0 || decide (5 < leAt c.p 12 1) || leAt c.p 14 2 == 0 || decide (600 < leAt c.p 14 2)) = false := by
    rw [beq_false_of_ne set, beq_false_of_ne (show leAt c.p 12 1 ≠ 0 by omega), decide_eq_false (show ¬5 < leAt c.p 12 1 by omega),
      beq_false_of_ne (show leAt c.p 14 2 ≠ 0 by omega), decide_eq_false (show ¬600 < leAt c.p 14 2 by omega)]
    rfl
  have use : (allChans.any fun i => has (maskAt 96 c.p 0) i && !s.working.configured i) = false := by
    simpa using fun i _ => configured i
  unfold opLampTest
  dsimp only
  rw [State.unless_cons (show (octet c.p 13 != 0) = false by rw [clear]; rfl), State.unless_cons range, State.unless_cons use,
    State.unless_cons (show (s.act.teach.isSome || s.act.lamp.isSome) = false by rw [untaught, idle]; rfl)]
  rfl

variable (set : maskAt 48 c.p 0 ≠ 0) (time : 1 ≤ leAt c.p 6 2) (ends : leAt c.p 6 2 ≤ 600)
  (outputs : ∀ p : Point, has (maskAt 48 c.p 0) p = true → s.working.isOut p = true)
include set time ends outputs

/-- FIELD_TEST with valid fields turns on whether one runs. -/
theorem opFieldTest_eq : opFieldTest c s = s.unless [(s.act.field.isSome, Status.state)] fun s =>
    (({ s with act := { s.act with field := some {
      num := c.num, pts := maskAt 48 c.p 0, duration := leAt c.p 6 2 * Config.sec, skip := s.pastHandOver } } } : State).overlayNow, none) := by
  have range : (maskAt 48 c.p 0 == 0 || leAt c.p 6 2 == 0 || decide (600 < leAt c.p 6 2)) = false := by
    rw [beq_false_of_ne set, beq_false_of_ne (show leAt c.p 6 2 ≠ 0 by omega), decide_eq_false (show ¬600 < leAt c.p 6 2 by omega)]
    rfl
  have use : (allPoints.any fun p => has (maskAt 48 c.p 0) p && !s.working.isOut p) = false := by
    simpa using fun p _ => outputs p
  unfold opFieldTest
  dsimp only
  rw [State.unless_cons range, State.unless_cons use]

end

theorem cmdAs_num (c : MailCmd) (s : State) : (cmdAs c s).num = s.mail.nextNum := rfl
theorem cmdAs_p (c : MailCmd) (s : State) : (cmdAs c s).p = c.payload := rfl

section
variable {s : State} {c : MailCmd}

theorem State.Admits.lampTest (h : s.Admits c 0x0204) (clear : octet c.payload 13 = 0) (set : maskAt 96 c.payload 0 ≠ 0)
    (low : 1 ≤ leAt c.payload 12 1) (high : leAt c.payload 12 1 ≤ 5) (time : 1 ≤ leAt c.payload 14 2) (ends : leAt c.payload 14 2 ≤ 600)
    (configured : ∀ i : Chan, has (maskAt 96 c.payload 0) i = true → s.working.configured i = true)
    (untaught : s.act.teach = none) (idle : s.act.lamp = none) :
    ∃ t, exec (.lampTest c) s = .next t ∧ s.Executed t c 0x0204 none ∧
      agreeButMail { s with act := { s.act with lamp := some {
        num := s.mail.nextNum, chans := maskAt 96 c.payload 0, cmd := BitVec.ofNat 4 (leAt c.payload 12 1), duration := s.wholeCycles (leAt c.payload 14 2)
        skip := s.pastHandOver } }, lanes := t.lanes } t ∧ s.handsOverAnew t ∧
      (s.targetMode = .commission → ∀ (l : LaneId) (i : Chan), has (t.derive l).on i = (has (maskAt 96 c.payload 0) i &&
        !has s.lanes[l].due.chanOff i && !has s.lanes[l].due.energy i.group && cmdLit (BitVec.ofNat 4 (leAt c.payload 12 1)) s.nextPhaseB)) := by
  have same := s.taken_agrees c 0x0204
  have run := opLampTest_starts (c := cmdAs c s) (s.taken c 0x0204) clear set low high time ends (by rw [taken_working]; exact configured)
    (by rw [taken_act]; exact untaught) (by rw [taken_act]; exact idle)
  rw [taken_act, same.field (·.wholeCycles _) fun _ _ _ => rfl, same.field State.pastHandOver fun _ _ _ => rfl, cmdAs_num, cmdAs_p] at run
  obtain ⟨executed, mail⟩ := State.accept_runs h rfl run (by rw [State.overlayNow_eq])
  obtain ⟨agrees, anew, derives⟩ := same.overlays mail
  refine ⟨_, rfl, executed, agrees, anew, fun commission l i => ?_⟩
  rw [derives l]
  refine s.derive_lamp ?_ commission l ?_ i
  · rfl
  · exact fun j named => (Bool.and_eq_true_iff.1 (configured j named)).1
theorem State.Admits.fieldTest (h : s.Admits c 0x0601) (set : maskAt 48 c.payload 0 ≠ 0) (time : 1 ≤ leAt c.payload 6 2) (ends : leAt c.payload 6 2 ≤ 600)
    (outputs : ∀ p : Point, has (maskAt 48 c.payload 0) p = true → s.working.isOut p = true) :
    ∃ t, exec (.fieldTest c) s = .next t ∧
      (s.act.field ≠ none → s.Executed t c 0x0601 (some (plain Status.state)) ∧ agreeButMail s t) ∧
      (s.act.field = none → s.Executed t c 0x0601 none ∧ agreeButMail { s with act := { s.act with field := some {
        num := s.mail.nextNum, pts := maskAt 48 c.payload 0, duration := leAt c.payload 6 2 * Config.sec, skip := s.pastHandOver } }, lanes := t.lanes } t ∧ s.handsOverAnew t ∧
        (s.targetMode = .commission → ∀ (l : LaneId) (p : Point), has (t.derive l).pts p = (has (maskAt 48 c.payload 0) p && !s.lanes[l].due.pointOff p))) := by
  have same := s.taken_agrees c 0x0601
  have run := opFieldTest_eq (c := cmdAs c s) (s.taken c 0x0601) set time ends (by rw [taken_working]; exact outputs)
  refine ⟨_, rfl, fun running => ?_, fun idle => ?_⟩
  · rw [State.unless_refused (by rw [taken_act]; exact Option.isSome_iff_ne_none.2 running)] at run
    exact State.accept_answers h rfl run
  · rw [State.unless_cons (by rw [taken_act, idle]; rfl), State.unless_nil, taken_act, same.field State.pastHandOver fun _ _ _ => rfl, cmdAs_num, cmdAs_p] at run
    obtain ⟨executed, mail⟩ := State.accept_runs h rfl run (by rw [State.overlayNow_eq])
    obtain ⟨agrees, anew, derives⟩ := same.overlays mail
    refine ⟨executed, agrees, anew, fun commission l p => ?_⟩
    rw [derives l]
    refine s.derive_field ?_ commission l ?_ p
    · rfl
    · exact outputs

end

end Sys2Proof.Machine
end

section
/-!
PROOFS. PROOF_TEST wants the tests of the channels that all lanes hold steady on or dark (R365); the obligation about the commands
whose effect comes later.
-/

namespace Sys2Proof.Machine

/-! ## The tests wanted -/

theorem mem_members {n : Nat} {m : BitVec n} {i : Fin n} : i ∈ members m ↔ has m i = true := by
  simp [members, has]
/-- A change of the schedules of channels is made in each channel named once, and elsewhere nowhere. -/
theorem State.each_modSched (f : TestSched → TestSched) : ∀ (xs : List Chan) (s : State), xs.Nodup →
    (s.each xs fun t i => t.modSched i f) = { s with tests := { s.tests with chan := (s.each xs fun t i => t.modSched i f).tests.chan } } ∧
    ∀ i : Chan, (s.each xs fun t i => t.modSched i f).tests.chan[i] = if i ∈ xs then f s.tests.chan[i] else s.tests.chan[i]
  | [], s, _ => ⟨rfl, fun i => by rw [if_neg List.not_mem_nil]; rfl⟩
  | x :: xs, s, once => by
    obtain ⟨fresh, once⟩ := List.nodup_cons.1 once
    obtain ⟨rest, chans⟩ := State.each_modSched f xs (s.modSched x f) once
    have step : (s.each (x :: xs) fun t i => t.modSched i f) = (s.modSched x f).each xs fun t i => t.modSched i f := rfl
    rw [step]
    refine ⟨rest, fun i => ?_⟩
    rw [chans i]
    by_cases at_ : i = x
    · subst at_
      rw [if_neg fresh, if_pos List.mem_cons_self, State.modSched_same]
    · rw [State.modSched_other s x f at_]
      exact if_congr (by rw [List.mem_cons, or_iff_right at_]) rfl rfl

/-- The channels that PROOF_TEST tests: those it names that are in use and that every lane in the vote holds steady on, or dark. -/
def State.proofMask (s : State) (m : ChanMask) : ChanMask := maskOf fun i => has m i && s.lampParams.used i &&
  ((s.activeLanes.all fun l => s.steadyOn l i) || s.activeLanes.all fun l => !s.isOn l i)
/-- The tests of a set of channels are wanted. -/
def State.wanted (s : State) (m : ChanMask) : State := s.each (members m) fun t i => t.modSched i fun x => { x with want := true }
theorem State.wanted_rest (s : State) (m : ChanMask) : s.wanted m = { s with tests := { s.tests with chan := (s.wanted m).tests.chan } } :=
  (State.each_modSched _ _ s ((List.nodup_finRange _).filter _)).1
theorem State.wanted_chan (s : State) (m : ChanMask) (i : Chan) :
    (s.wanted m).tests.chan[i] = if has m i = true then { s.tests.chan[i] with want := true } else s.tests.chan[i] :=
  ((State.each_modSched _ _ s ((List.nodup_finRange _).filter _)).2 i).trans (if_congr mem_members rfl rfl)

/-! ## PROOF_TEST as it arrives -/

theorem opProofTest_eq {c : Cmd} (s : State) (set : maskAt 96 c.p 0 ≠ 0) : opProofTest c s = s.unless [(s.act.proof.isSome, Status.state)] fun s =>
    if s.proofMask (maskAt 96 c.p 0) = 0 then (s, some (okReply (List.replicate 96 0)))
    else ({ s.wanted (s.proofMask (maskAt 96 c.p 0)) with act := { (s.wanted (s.proofMask (maskAt 96 c.p 0))).act with
      proof := some { num := c.num, mask := s.proofMask (maskAt 96 c.p 0), deadline := s.now + 5 * Config.sec } } }, none) := by
  unfold opProofTest
  dsimp only
  rw [State.unless_cons (beq_false_of_ne set)]
  rfl

section
variable {s t : State} {x : Activities} {i : Chan}
  (agrees : agreeButMail { s with tests := { s.tests with chan := t.tests.chan }, act := x } t) (want : t.tests.chan[i].want = true)
  (untaught : t.taught i = false) (free : s.testFree i.group = true) (grid : s.onGrid = true) (voting : s.activeLanes ≠ [])
include agrees want untaught free grid voting

/-- The wanted test of a channel that every lane holds steady on is due at a permitted instant. -/
theorem State.offDue_wanted (peak : s.nearPeak i.group = true) (steady : ∀ l : LaneId, s.active l = true → s.steadyOn l i = true) :
    t.offDue i = true := by
  have all : (s.activeLanes.all fun l => s.steadyOn l i) = true := List.all_eq_true.2 fun l named => steady l (List.mem_filter.1 named).2
  unfold State.offDue
  dsimp only
  rw [show t.testFree i.group = true from (agrees.field (·.testFree i.group) fun _ _ _ => rfl).trans free,
    show t.onGrid = true from (agrees.field State.onGrid fun _ _ _ => rfl).trans grid,
    show t.nearPeak i.group = true from (agrees.field (·.nearPeak i.group) fun _ _ _ => rfl).trans peak,
    show t.activeLanes = s.activeLanes from agrees.field State.activeLanes fun _ _ _ => rfl,
    show (s.activeLanes.all fun l => t.steadyOn l i) = true from
      (agrees.field (fun u => s.activeLanes.all fun l => u.steadyOn l i) fun _ _ _ => rfl).trans all,
    List.isEmpty_eq_false_iff.2 voting, want, untaught]
  rfl
/-- The wanted test of a channel that every lane holds off and commands dark is due where no DRIVE_LINK stands in its group. -/
theorem State.majDue_wanted (used : s.params.used i = true)
    (dark : ∀ l : LaneId, s.active l = true → s.isOn l i = false ∧ cmdDark s.lanes[l].inForce.cmd[i] = true)
    (linked : ∀ x : LaneId, s.stands FaultCode.driveLink [i.group.val, x.val] = false) : t.majDue i = true := by
  have all : (s.activeLanes.all fun l => !s.isOn l i && cmdDark s.lanes[l].inForce.cmd[i]) = true := List.all_eq_true.2 fun l named => by
    obtain ⟨off, cmd⟩ := dark l (List.mem_filter.1 named).2
    rw [off, cmd]
    rfl
  have links : (allLanes.all fun x => !s.stands FaultCode.driveLink [i.group.val, x.val]) = true := List.all_eq_true.2 fun x _ => by
    rw [linked x]
    rfl
  unfold State.majDue
  dsimp only
  rw [show t.testFree i.group = true from (agrees.field (·.testFree i.group) fun _ _ _ => rfl).trans free,
    show t.onGrid = true from (agrees.field State.onGrid fun _ _ _ => rfl).trans grid,
    show t.params.used i = true from (agrees.field (·.params.used i) fun _ _ _ => rfl).trans used,
    show t.activeLanes = s.activeLanes from agrees.field State.activeLanes fun _ _ _ => rfl,
    show (s.activeLanes.all fun l => !t.isOn l i && cmdDark t.lanes[l].inForce.cmd[i]) = true from
      (agrees.field (fun u => s.activeLanes.all fun l => !u.isOn l i && cmdDark u.lanes[l].inForce.cmd[i]) fun _ _ _ => rfl).trans all,
    show (allLanes.all fun x => !t.stands FaultCode.driveLink [i.group.val, x.val]) = true from
      (agrees.field (fun u => allLanes.all fun x => !u.stands FaultCode.driveLink [i.group.val, x.val]) fun _ _ _ => rfl).trans links,
    List.isEmpty_eq_false_iff.2 voting, want, untaught]
  rfl

end

/-- What is left of a state in which the operation has put other activities and other schedules of the channels. -/
theorem agreeButMail.of_chans {s u t : State} {x : Activities} {cs : Vector TestSched 96} (h : agreeButMail s u)
    (k : MailOnly { u with tests := { u.tests with chan := cs }, act := x } t) :
    t.tests.chan = cs ∧ agreeButMail { s with tests := { s.tests with chan := t.tests.chan }, act := x } t := by
  have chans : t.tests.chan = cs := by rw [k.rest]
  have agrees := ((h.act x).tests { u.tests with chan := cs }).of_mailOnly k
  rw [show u.tests = s.tests from h.field State.tests fun _ _ _ => rfl] at agrees
  rw [chans]
  exact ⟨rfl, agrees⟩

section
variable {s : State} {c : MailCmd} (h : s.Admits c 0x0701) (set : maskAt 96 c.payload 0 ≠ 0)
include set

/-- PROOF_TEST where none runs turns on whether any named channel can be tested. -/
theorem opProofTest_idle (idle : s.act.proof = none) : opProofTest (cmdAs c s) (s.taken c 0x0701) =
    if s.proofMask (maskAt 96 c.payload 0) = 0 then (s.taken c 0x0701, some (okReply (List.replicate 96 0)))
    else ({ s.taken c 0x0701 with
      tests := { (s.taken c 0x0701).tests with chan := ((s.taken c 0x0701).wanted (s.proofMask (maskAt 96 c.payload 0))).tests.chan }
      act := { (s.taken c 0x0701).act with
        proof := some { num := s.mail.nextNum, mask := s.proofMask (maskAt 96 c.payload 0), deadline := (s.taken c 0x0701).now + 5 * Config.sec } } }, none) := by
  have mask : (s.taken c 0x0701).proofMask (maskAt 96 c.payload 0) = s.proofMask (maskAt 96 c.payload 0) :=
    (s.taken_agrees c 0x0701).field (·.proofMask (maskAt 96 c.payload 0)) fun _ _ _ => rfl
  rw [opProofTest_eq (c := cmdAs c s) (s.taken c 0x0701) set, State.unless_cons (by rw [taken_act, idle]; rfl), State.unless_nil, cmdAs_num, cmdAs_p,
    mask, State.wanted_rest]
include h

theorem State.Admits.proofTest_running (running : s.act.proof ≠ none) :
    s.Executed (s.accept c 0x0701) c 0x0701 (some (plain Status.state)) ∧ agreeButMail s (s.accept c 0x0701) := by
  have run := opProofTest_eq (c := cmdAs c s) (s.taken c 0x0701) set
  rw [State.unless_refused (by rw [taken_act]; exact Option.isSome_iff_ne_none.2 running)] at run
  exact State.accept_answers h rfl run

variable (idle : s.act.proof = none)
include idle

theorem State.Admits.proofTest_none (none_ : s.proofMask (maskAt 96 c.payload 0) = 0) :
    s.Executed (s.accept c 0x0701) c 0x0701 (some (okReply (List.replicate 96 0))) ∧ agreeButMail s (s.accept c 0x0701) := by
  have run := opProofTest_idle set idle
  rw [if_pos none_] at run
  exact State.accept_answers h rfl run

variable (some_ : s.proofMask (maskAt 96 c.payload 0) ≠ 0)
include some_

theorem State.Admits.proofTest_starts : s.Executed (s.accept c 0x0701) c 0x0701 none ∧
    (∀ i : Chan, (s.accept c 0x0701).tests.chan[i] =
      if has (s.proofMask (maskAt 96 c.payload 0)) i = true then { s.tests.chan[i] with want := true } else s.tests.chan[i]) ∧
    agreeButMail { s with tests := { s.tests with chan := (s.accept c 0x0701).tests.chan }, act := { s.act with
      proof := some { num := s.mail.nextNum, mask := s.proofMask (maskAt 96 c.payload 0), deadline := s.now + 5 * Config.sec } } } (s.accept c 0x0701) := by
  have run := opProofTest_idle set idle
  rw [if_neg some_] at run
  obtain ⟨executed, mail⟩ := State.accept_runs h rfl run rfl
  obtain ⟨chans, agrees⟩ := (s.taken_agrees c 0x0701).of_chans mail
  rw [taken_act, taken_now] at agrees
  refine ⟨executed, fun i => ?_, agrees⟩
  rw [chans, State.wanted_chan, taken_tests]

end

theorem State.Admits.proofTest {s : State} {c : MailCmd} (h : s.Admits c 0x0701) (set : maskAt 96 c.payload 0 ≠ 0) :
    ∃ t, exec (.proofTest c) s = .next t ∧
      (s.act.proof ≠ none → s.Executed t c 0x0701 (some (plain Status.state)) ∧ agreeButMail s t) ∧
      (s.act.proof = none → s.proofMask (maskAt 96 c.payload 0) = 0 → s.Executed t c 0x0701 (some (okReply (List.replicate 96 0))) ∧ agreeButMail s t) ∧
      (s.act.proof = none → s.proofMask (maskAt 96 c.payload 0) ≠ 0 → s.Executed t c 0x0701 none ∧
        (∀ i : Chan, t.tests.chan[i] =
          if has (s.proofMask (maskAt 96 c.payload 0)) i = true then { s.tests.chan[i] with want := true } else s.tests.chan[i]) ∧
        agreeButMail { s with tests := { s.tests with chan := t.tests.chan }, act := { s.act with
          proof := some { num := s.mail.nextNum, mask := s.proofMask (maskAt 96 c.payload 0), deadline := s.now + 5 * Config.sec } } } t ∧
        ∀ i : Chan, has (s.proofMask (maskAt 96 c.payload 0)) i = true → s.testFree i.group = true → s.onGrid = true → s.nearPeak i.group = true →
          s.taught i = false → s.activeLanes ≠ [] → ((∀ l : LaneId, s.active l = true → s.steadyOn l i = true) → t.offDue i = true) ∧
          (s.params.used i = true → (∀ l : LaneId, s.active l = true → s.isOn l i = false ∧ cmdDark s.lanes[l].inForce.cmd[i] = true) →
            (∀ x : LaneId, s.stands FaultCode.driveLink [i.group.val, x.val] = false) → t.majDue i = true)) := by
  refine ⟨_, rfl, h.proofTest_running set, h.proofTest_none set, fun idle some_ => ?_⟩
  obtain ⟨executed, chans, agrees⟩ := h.proofTest_starts set idle some_
  refine ⟨executed, chans, agrees, fun i named free grid peak untaught voting => ?_⟩
  have want : (s.accept c 0x0701).tests.chan[i].want = true := by rw [chans i, if_pos named]
  have still : (s.accept c 0x0701).taught i = false := (agrees.field (·.taught i) fun _ _ _ => rfl).trans untaught
  exact ⟨State.offDue_wanted agrees want still free grid voting peak, State.majDue_wanted agrees want still free grid voting⟩

end Sys2Proof.Machine

open Sys2Proof Sys2Proof.Machine

/-- Settles O43: each command's operation passes its checks and changes the activities, and for the tests the lanes' next images or the
channels' schedules; the vote clears what the two clears name. -/
theorem clearsAndTestsAwaitTheirEffect : Obligations.ClearsAndTestsAwaitTheirEffect := by
  unfold Obligations.ClearsAndTestsAwaitTheirEffect
  refine ⟨fun c s h set => ?_, fun c s h groups banks clear kinds set => ?_, fun _ _ _ h => h.teach, fun _ _ h => h.lampTest, fun _ _ h => h.fieldTest,
    fun _ _ h => h.proofTest⟩
  · obtain ⟨executed, agrees⟩ := h.proveClear set
    exact ⟨_, rfl, executed, agrees, fun u ⟨due, clears, started⟩ => ⟨u.vote, exec_voteInstant_due due, fun _ _ active named =>
      State.vote_proveClear clears started rfl active named⟩⟩
  · obtain ⟨executed, agrees⟩ := h.latchClear groups banks clear kinds set
    refine ⟨_, rfl, executed, agrees, fun u ⟨due, clears, started⟩ => ⟨u.vote, exec_voteInstant_due due, fun _ _ active named => ?_⟩⟩
    have cleared := State.vote_latchClear clears started rfl active named
    generalize u.vote = v at cleared ⊢
    exact cleared
end

section
/-!
PROOFS. The probe sources (R176, R177): the chip values on which two lanes agree, and the enable of a source.
-/

namespace Sys2Proof.Machine

theorem FrontEnd.strobed_holds (f : FrontEnd) (l : LaneId) (x : Strobe) : (f.strobed l x).strobe[l] = some x := by
  unfold FrontEnd.strobed
  extract_lets f1
  have held : f1.strobe[l] = some x := by simp [f1]
  split <;> exact held
/-- The chips are those of a strobe that another lane's agrees with (R177). -/
theorem FrontEnd.strobed_agrees {f : FrontEnd} {l y : LaneId} {x : Strobe} (other : y ≠ l) (agrees : f.strobe[y] = some x) :
    (f.strobed l x).chips = x.values := by
  have seconded : (allLanes.any fun y => y != l && f.strobe[y] == some x) = true :=
    List.any_eq_true.2 ⟨y, List.mem_finRange y, by simp [other, agrees]⟩
  unfold FrontEnd.strobed
  extract_lets f1
  rw [if_pos seconded]
theorem FrontEnd.strobed_alone {f : FrontEnd} {l : LaneId} {x : Strobe} (alone : ∀ y : LaneId, y ≠ l → f.strobe[y] ≠ some x) :
    (f.strobed l x).chips = f.chips := by
  have differ : (allLanes.any fun y => y != l && f.strobe[y] == some x) = false :=
    List.any_eq_false.2 fun y _ => by simpa using alone y
  unfold FrontEnd.strobed
  extract_lets f1
  rw [if_neg (by rw [differ]; exact Bool.false_ne_true)]
/-- A lane in the vote strobes at a chip boundary (R177). -/
theorem exec_chipStrobe_due {g : GroupId} {l : LaneId} {v : BitVec 8} {s : State} (active : s.active l = true) (due : s.laneTime % 25000 ≤ 500) :
    exec (.chipStrobe g l (.values v)) s = .next (s.modFe g fun f => f.strobed l { chip := s.laneTime / 25000, values := v }) :=
  congrArg Host.Outcome.next (if_pos ⟨active, due⟩)
theorem exec_chipStrobe_not {g : GroupId} {l : LaneId} {x : RxChips} {s : State} (not : s.active l = false ∨ 500 < s.laneTime % 25000) :
    exec (.chipStrobe g l x) s = .next s := by
  refine congrArg Host.Outcome.next (if_neg ?_)
  rintro ⟨active, due⟩
  rcases not with out | late
  · exact Bool.false_ne_true (out.symm.trans active)
  · exact absurd late (Nat.not_lt.2 due)
/-- A write of the probe enables, agreed by the lanes in the vote (R97, R176). -/
theorem State.feWrite_probe (s : State) (g : GroupId) (m : BitVec 8) :
    s.feWrite g (.probe m) = if 2 ≤ s.activeLanes.length then s.modFe g fun f => f.setProbe m s.now else s := rfl
theorem exec_probeEnable_due {c : Chan} {s : State} (due : s.probeDue c = true) (agreed : 2 ≤ s.activeLanes.length) :
    exec (.probeEnable c) s = .next (s.modFe c.group fun f => f.setProbe (s.fe[c.group].probeEn ||| only c.pos) s.now) := by
  refine congrArg Host.Outcome.next ?_
  rw [if_pos due, State.feWrite_probe, if_pos agreed]

end Sys2Proof.Machine

open Sys2Proof Sys2Proof.Machine

/-- Settles O28: a strobe holds its values and takes over the chips where another lane's agrees; an enable is a write of the enables that
were and the channel's own. -/
theorem probeSourcesFollowTwoLanes : Obligations.ProbeSourcesFollowTwoLanes := by
  unfold Obligations.ProbeSourcesFollowTwoLanes
  refine ⟨fun g l v s active due => ?_, fun _ _ _ => rfl, fun _ _ _ _ not => exec_chipStrobe_not not, fun c s due agreed fresh => ?_⟩
  · refine ⟨_, exec_chipStrobe_due active due, s.modFe_agrees g _, ?_⟩
    rw [State.modFe_same]
    exact ⟨FrontEnd.strobed_holds .., fun ⟨_, other, agrees⟩ => FrontEnd.strobed_agrees other agrees, FrontEnd.strobed_alone⟩
  · refine ⟨_, exec_probeEnable_due due agreed, ?_⟩
    rw [State.modFe_same, FrontEnd.setProbe_probeEn, if_pos fresh]
    exact ⟨has_or_only_same _ _, fun _ other => has_or_only_other _ other, s.modFe_agrees c.group _⟩
end

section
/-!
PROOFS. Folds of an operation over items of which each is met once: what one of them finds and leaves.
-/

namespace Sys2Proof.Machine

section
variable {α β : Type} {f : State → α → State}

/-- A fold keeps what every one of its steps keeps. -/
theorem State.each_keeps {P : State → Prop} (xs : List α) : ∀ {s : State}, (∀ u, ∀ y ∈ xs, P u → P (f u y)) → P s → P (s.each xs f) := by
  unfold State.each
  induction xs with
  | nil => exact fun _ h => h
  | cons x xs ih => exact fun step h => ih (fun u y hy => step u y (List.mem_cons_of_mem _ hy)) (step _ x (List.mem_cons_self ..) h)
/-- An item of a fold that is met once alone decides a field that no other item touches: it finds the field as it was before the fold, and
the fold leaves it as the item does. -/
theorem State.each_once {P : State → Prop} (π : State → β) {xs : List α} {x : α} {s : State} (mem : x ∈ xs) (once : xs.Nodup)
    (step : ∀ u, ∀ y ∈ xs, P u → P (f u y)) (others : ∀ u, ∀ y ∈ xs, P u → y ≠ x → π (f u y) = π u) (h : P s) :
    ∃ u, P u ∧ π u = π s ∧ π (s.each xs f) = π (f u x) := by
  obtain ⟨as, bs, rfl⟩ := List.append_of_mem mem
  obtain ⟨-, tail, apart⟩ := List.nodup_append.1 once
  have before : ∀ y ∈ as, y ≠ x := fun y hy => apart y hy x (List.mem_cons_self ..)
  have after : ∀ y ∈ bs, y ≠ x := by
    rintro y hy rfl
    exact (List.nodup_cons.1 tail).1 hy
  have part (ys : List α) (sub : ∀ y ∈ ys, y ∈ as ++ x :: bs) (far : ∀ y ∈ ys, y ≠ x) {u : State} (hu : P u) :
      P (u.each ys f) ∧ π (u.each ys f) = π u :=
    State.each_keeps (P := fun v => P v ∧ π v = π u) ys
      (fun v y hy hv => ⟨step v y (sub y hy) hv.1, (others v y (sub y hy) hv.1 (far y hy)).trans hv.2⟩) ⟨hu, rfl⟩
  obtain ⟨found, same⟩ := part as (fun y hy => List.mem_append_left _ hy) before h
  have left := (part bs (fun y hy => List.mem_append_right _ (List.mem_cons_of_mem _ hy)) after (step _ x mem found)).2
  refine ⟨s.each as f, found, same, ?_⟩
  rw [← left]
  simp only [State.each, List.foldl_append, List.foldl_cons]
theorem State.each_map {γ : Type} (s : State) (xs : List γ) (g : γ → α) (f : State → α → State) :
    s.each (xs.map g) f = s.each xs fun u x => f u (g x) := by
  simp only [State.each, List.foldl_map]

end

end Sys2Proof.Machine
end

section
/-!
PROOFS. The parameter commands (R352, R353): records of the working copy, and the probe sources that a change of it stops (R179).
-/

namespace Sys2Proof.Machine

/-! ## Records of an image (R352) -/

theorem rowOf_set {n i : Nat} (v : Vector Bytes n) (h : i < n) (r : Bytes) (j : Nat) : rowOf (v.setIfInBounds i r) j = if j = i then r else rowOf v j := by
  rw [rowOf, Vector.getElem?_setIfInBounds]
  by_cases e : j = i
  · simp [e, h]
  · rw [if_neg (Ne.symm e), if_neg e, rowOf]
theorem recNamed_iff {t i : Nat} : recNamed t i = true ↔ ∃ n k, recShape t = some (n, k) ∧ i < n := by
  unfold recNamed
  cases recShape t with
  | none => simp
  | some x => obtain ⟨n, k⟩ := x; simp

namespace ParamImage

variable (p : ParamImage)

/-- Of the records of a TYPE the one written is the new one, and the others stay. -/
theorem getRec_setRec {t n k i j : Nat} (shape : recShape t = some (n, k)) (hi : i < n) (hj : j < n) (r : Bytes) :
    (p.setRec t i r).getRec t j = if j = i then r else p.getRec t j := by
  unfold recShape at shape
  split at shape
  case h_15 => contradiction
  all_goals obtain ⟨rfl, -⟩ : _ = n ∧ _ := by simpa only [Option.some.injEq, Prod.mk.injEq] using shape
  case h_6 | h_8 | h_9 | h_12 | h_13 | h_14 => exact (if_pos (by omega)).symm
  all_goals exact rowOf_set _ hi r j
/-- A record of one TYPE leaves those of the others. -/
theorem getRec_setRec_otherType {t u : Nat} (other : u ≠ t) (i j : Nat) (r : Bytes) : (p.setRec t i r).getRec u j = p.getRec u j := by
  unfold setRec
  split
  all_goals
    unfold getRec
    split
  any_goals exact absurd rfl other
  all_goals rfl
/-- The default of a record looks at records of another TYPE alone: PROT's, at the permissive channels (R181). -/
theorem defaultRec_setRec (node t i j : Nat) (r : Bytes) : (p.setRec t j r).defaultRec node t i = p.defaultRec node t i := by
  unfold defaultRec
  by_cases probe : t = 0x05
  · subst probe
    rfl
  · simp only [if_neg probe]

/-- Records of a TYPE are put at their defaults (R353). -/
def resetRecs (node t : Nat) (is : List Nat) : ParamImage := is.foldl (fun p j => p.setRec t j (p.defaultRec node t j)) p
theorem resetRecs_cons (node t j : Nat) (js : List Nat) :
    p.resetRecs node t (j :: js) = (p.setRec t j (p.defaultRec node t j)).resetRecs node t js := rfl
theorem resetRecs_otherType {t u : Nat} (other : u ≠ t) (node i : Nat) (is : List Nat) : (p.resetRecs node t is).getRec u i = p.getRec u i := by
  induction is generalizing p with
  | nil => rfl
  | cons j js ih => rw [resetRecs_cons, ih, p.getRec_setRec_otherType other]
theorem resetRecs_getRec {t n k i : Nat} (shape : recShape t = some (n, k)) (hi : i < n) (node : Nat) (is : List Nat) (within : ∀ j ∈ is, j < n) :
    (p.resetRecs node t is).getRec t i = if i ∈ is then p.defaultRec node t i else p.getRec t i := by
  induction is generalizing p with
  | nil => rfl
  | cons j js ih =>
    obtain ⟨hj, rest⟩ := List.forall_mem_cons.1 within
    rw [resetRecs_cons, ih _ rest, p.defaultRec_setRec, p.getRec_setRec shape hj hi]
    by_cases first : i = j
    · subst first
      simp
    · simp [first]

end ParamImage

end Sys2Proof.Machine
end

section
/-!
PROOFS. What PARAM_WRITE, PARAM_REVERT and PARAM_DEFAULTS leave: the working copy, and the probe sources that it stops (R179).
-/

namespace Sys2Proof.Machine

/-! ## The sources of channels that can no longer be probed (R179) -/

/-- Two states agree in all but the front-ends. -/
def FeOnly (s t : State) : Prop := t = { s with fe := t.fe }
theorem FeOnly.feWrite {s u : State} (h : FeOnly s u) (g : GroupId) (w : FeWrite) : FeOnly s (u.feWrite g w) := by
  unfold State.feWrite
  split
  · exact congrArg (fun v : State => v.modFe g fun f => f.apply w u.now) h
  · exact h
theorem State.feWrite_otherFe (s : State) {g k : GroupId} (w : FeWrite) (other : k ≠ g) : (s.feWrite g w).fe[k] = s.fe[k] := by
  unfold State.feWrite
  split
  · exact State.modFe_other _ _ _ _ other
  · rfl
/-- The enables that a group keeps: those of channels that can be probed. -/
def State.probeKeeps (s : State) (g : GroupId) : BitVec 8 := s.fe[g].probeEn &&& maskOf fun k => s.hasProbe (chanOf g k)
theorem State.probeTrim_eq (s : State) : s.probeTrim =
    s.each (allGroups.filter fun g => s.fe[g].probeEn &&& ~~~(maskOf fun k => s.hasProbe (chanOf g k)) != 0) fun u g =>
      u.feWrite g (.probe (u.probeKeeps g)) := rfl
theorem State.probeTrim_feOnly (s : State) : FeOnly s s.probeTrim :=
  State.each_keeps (P := FeOnly s) _ (fun _ g _ h => h.feWrite g _) rfl
/-- Each group whose enables change has them written once. -/
theorem State.probeTrim_fe (s : State) (g : GroupId) : s.probeTrim.fe[g] = s.fe[g] ∨ s.probeTrim.fe[g] = s.fe[g].setProbe (s.probeKeeps g) s.now := by
  rw [State.probeTrim_eq]
  generalize named : allGroups.filter _ = gs
  by_cases mem : g ∈ gs
  · obtain ⟨u, rest, found, left⟩ := State.each_once (P := FeOnly s) (·.fe[g]) mem (named ▸ (List.nodup_finRange 12).filter _)
      (f := fun u g => u.feWrite g (.probe (u.probeKeeps g))) (fun _ k _ h => h.feWrite k _)
      (fun u k _ _ other => u.feWrite_otherFe _ (Ne.symm other)) (show FeOnly s s from rfl)
    have keeps : u.probeKeeps g = s.probeKeeps g := by
      unfold State.probeKeeps
      rw [found, rest]
      rfl
    have now : u.now = s.now := by rw [rest]
    rw [left, State.feWrite_probe, keeps, now, ← found]
    split
    · exact .inr (State.modFe_same ..)
    · exact .inl rfl
  · exact .inl (each_field (·.fe[g]) gs (fun u k hk => u.feWrite_otherFe _ fun e => mem (e ▸ hk)) s)
theorem State.probeTrim_hasProbe (s : State) (c : Chan) : s.probeTrim.hasProbe c = s.hasProbe c := by
  rw [s.probeTrim_feOnly]
  rfl

/-! ## The commands as they arrive -/

theorem agreeButMail.working {a t : State} (h : agreeButMail a t) (p : ParamImage) : agreeButMail { a with working := p } { t with working := p } :=
  ⟨congrArg (fun u : State => { u with working := p }) h.1, h.2⟩
theorem agreeButMail.fe {a t : State} (h : agreeButMail a t) (x : Vector FrontEnd 12) : agreeButMail { a with fe := x } { t with fe := x } :=
  ⟨congrArg (fun u : State => { u with fe := x }) h.1, h.2⟩

section
variable {s : State} {c : MailCmd} {op : Nat} {f : Cmd → State → OpRes}

/-- What an admitted command leaves whose operation changes the working copy, and trims the sources by it. -/
theorem State.accept_works (h : s.Admits c op) (hf : votedOp op = some f) {p : ParamImage} {o : Option Reply}
    (run : f (cmdAs c s) (s.taken c op) = (({ s.taken c op with working := p } : State).probeTrim, o)) :
    s.Executed (s.accept c op) c op o ∧ agreeButMail { s with working := p, fe := (s.accept c op).fe } (s.accept c op) ∧ s.trimmed (s.accept c op) := by
  generalize works : ({ s.taken c op with working := p } : State) = u at run
  have rest := u.probeTrim_feOnly
  obtain ⟨executed, mail⟩ := State.accept_runs h hf run (by rw [rest, ← works])
  generalize s.accept c op = t at executed mail
  have fe : t.fe = u.probeTrim.fe := by rw [mail.rest]
  have agrees : agreeButMail { s with working := p, fe := t.fe } t := by
    refine agreeButMail.of_mailOnly ?_ mail
    rw [rest, ← works, fe, ← works]
    exact ((s.taken_agrees c op).working p).fe _
  refine ⟨executed, agrees, fun g => ?_⟩
  have probes (k : Chan) : t.hasProbe k = u.hasProbe k := by
    rw [← u.probeTrim_hasProbe, mail.rest]
    rfl
  have same : u.fe = s.fe ∧ u.now = s.now := by
    rw [← works]
    exact ⟨taken_fe .., taken_now ..⟩
  have trims := u.probeTrim_fe g
  unfold State.probeKeeps at trims
  rw [fe]
  simpa only [probes, same.1, same.2] using trims

theorem State.Admits.paramWrite (h : s.Admits c 0x0101) (zero : octet c.payload 1 = 0)
    (clear : reservedClear (leAt c.payload 0 1) (c.payload.drop 4) = true)
    (free : ¬((leAt c.payload 0 1 = 3 ∨ leAt c.payload 0 1 = 4) ∧ s.teaching (leAt c.payload 2 2) = true)) :
    s.Executed (s.accept c 0x0101) c 0x0101 (some (okReply [])) ∧
    agreeButMail { s with working := s.working.setRec (leAt c.payload 0 1) (leAt c.payload 2 2) (c.payload.drop 4), fe := (s.accept c 0x0101).fe }
      (s.accept c 0x0101) ∧ s.trimmed (s.accept c 0x0101) := by
  refine State.accept_works h rfl (?_ : opParamWrite (cmdAs c s) (s.taken c 0x0101) = _)
  have reserved : (octet c.payload 1 != 0 || !reservedClear (leAt c.payload 0 1) (c.payload.drop 4)) = false := by
    rw [zero, clear]
    rfl
  have untaught : ((leAt c.payload 0 1 == 3 || leAt c.payload 0 1 == 4) && (s.taken c 0x0101).teaching (leAt c.payload 2 2)) = false := by
    have same : (s.taken c 0x0101).teaching (leAt c.payload 2 2) = s.teaching (leAt c.payload 2 2) := by
      unfold State.teaching
      rw [taken_act]
    rw [same]
    simpa using free
  unfold opParamWrite
  dsimp only [cmdAs_p]
  rw [State.unless_cons reserved, State.unless_cons untaught, State.unless_nil, taken_working]
theorem State.Admits.paramRevert (h : s.Admits c 0x0102) :
    s.Executed (s.accept c 0x0102) c 0x0102 (some (okReply [])) ∧
    agreeButMail { s with working := (s.activeBank.map (·.image)).getD s.defaultImage, fe := (s.accept c 0x0102).fe } (s.accept c 0x0102) ∧
    s.trimmed (s.accept c 0x0102) := by
  refine State.accept_works h rfl (?_ : opParamRevert (cmdAs c s) (s.taken c 0x0102) = _)
  have bank : (s.taken c 0x0102).activeBank = s.activeBank := (s.taken_agrees c 0x0102).field (·.activeBank) fun _ _ _ => rfl
  have defaults : (s.taken c 0x0102).defaultImage = s.defaultImage := (s.taken_agrees c 0x0102).field (·.defaultImage) fun _ _ _ => rfl
  unfold opParamRevert State.workFromBank
  rw [bank, defaults]
/-- PARAM_DEFAULTS of the whole working copy. -/
theorem State.Admits.paramDefaults_all (h : s.Admits c 0x0103) (zero : octet c.payload 1 = 0) (all : leAt c.payload 0 1 = 0xFF)
    (index : leAt c.payload 2 2 = 0xFFFF) :
    s.Executed (s.accept c 0x0103) c 0x0103 (some (okReply [])) ∧
    agreeButMail { s with working := s.defaultImage, fe := (s.accept c 0x0103).fe } (s.accept c 0x0103) ∧ s.trimmed (s.accept c 0x0103) := by
  refine State.accept_works h rfl (?_ : opParamDefaults (cmdAs c s) (s.taken c 0x0103) = _)
  have defaults : (s.taken c 0x0103).defaultImage = s.defaultImage := (s.taken_agrees c 0x0103).field (·.defaultImage) fun _ _ _ => rfl
  unfold opParamDefaults
  dsimp only [cmdAs_p]
  rw [State.unless_cons (by rw [zero]; rfl), State.unless_cons (by rw [all, index]; rfl), State.unless_nil, if_pos all, defaults]
/-- The records that PARAM_DEFAULTS names by an INDEX: all of the TYPE, or one. -/
def namedRecs (n i : Nat) : List Nat := if i = 0xFFFF then List.range n else [i]
theorem namedRecs_within {n i : Nat} (index : i = 0xFFFF ∨ i < n) : ∀ j ∈ namedRecs n i, j < n := by
  unfold namedRecs
  split
  · exact fun j => List.mem_range.1
  · rename_i one
    exact fun j hj => List.mem_singleton.1 hj ▸ index.resolve_left one
theorem mem_namedRecs {n i j : Nat} (hj : j < n) : j ∈ namedRecs n i ↔ i = 0xFFFF ∨ i = j := by
  unfold namedRecs
  split
  · rename_i all
    simp [hj, all]
  · rename_i one
    simp [one, eq_comm]
/-- PARAM_DEFAULTS of the records of a TYPE, or of one. -/
theorem State.Admits.paramDefaults_named (h : s.Admits c 0x0103) (zero : octet c.payload 1 = 0) {n k : Nat} (some_ : leAt c.payload 0 1 ≠ 0xFF)
    (shape : recShape (leAt c.payload 0 1) = some (n, k)) (index : leAt c.payload 2 2 = 0xFFFF ∨ leAt c.payload 2 2 < n) :
    s.Executed (s.accept c 0x0103) c 0x0103 (some (okReply [])) ∧
    agreeButMail { s with working := s.working.resetRecs s.bus.nodeId (leAt c.payload 0 1) (namedRecs n (leAt c.payload 2 2)), fe := (s.accept c 0x0103).fe }
      (s.accept c 0x0103) ∧ s.trimmed (s.accept c 0x0103) := by
  refine State.accept_works h rfl (?_ : opParamDefaults (cmdAs c s) (s.taken c 0x0103) = _)
  have range : (if leAt c.payload 0 1 == 0xFF then leAt c.payload 2 2 != 0xFFFF
      else (recShape (leAt c.payload 0 1)).isNone || (leAt c.payload 2 2 != 0xFFFF && !recNamed (leAt c.payload 0 1) (leAt c.payload 2 2))) = false := by
    simpa [some_, shape, recNamed, or_iff_not_imp_left] using index
  unfold opParamDefaults
  dsimp only [cmdAs_p]
  rw [State.unless_cons (by rw [zero]; rfl), State.unless_cons range, State.unless_nil, if_neg some_, shape, taken_working, taken_bus]
  rfl

end

end Sys2Proof.Machine

open Sys2Proof Sys2Proof.Machine

/-- Settles O41: each operation puts another working copy in place of the one that was, and trims the probe sources by it. -/
theorem parameterCommandsChangeTheWorkingCopy : Obligations.ParameterCommandsChangeTheWorkingCopy := by
  unfold Obligations.ParameterCommandsChangeTheWorkingCopy
  refine ⟨fun c s h zero clear free => ?_, fun c s h => ⟨_, rfl, h.paramRevert⟩, fun c s h zero => ⟨fun all index => ⟨_, rfl, h.paramDefaults_all zero all index⟩,
    fun n k some_ shape index => ?_⟩⟩
  · obtain ⟨executed, agrees, trims⟩ := h.paramWrite zero clear free
    refine ⟨_, rfl, executed, agrees, trims, fun banked => ?_⟩
    obtain ⟨bank, active⟩ := Option.ne_none_iff_exists'.1 banked
    have params (p : ParamImage) (x : Vector FrontEnd 12) : ({ s with working := p, fe := x } : State).params = s.params := by
      have same : ({ s with working := p, fe := x } : State).activeBank = s.activeBank := rfl
      rw [State.params, same, State.params, active]
      rfl
    exact (agrees.field (·.params) fun _ _ _ => rfl).trans (params ..)
  · obtain ⟨executed, agrees, trims⟩ := h.paramDefaults_named zero some_ shape index
    have working := agrees.field (·.working) fun _ _ _ => rfl
    have others : agreeButMail { s with working := (s.accept c 0x0103).working, fe := (s.accept c 0x0103).fe } (s.accept c 0x0103) := by
      rw [working]
      exact agrees
    refine ⟨_, rfl, executed, others, trims, fun i hi named => ?_, fun ty i other unnamed => ?_⟩
    · rw [working, ParamImage.resetRecs_getRec _ shape hi _ _ (namedRecs_within index), if_pos ((mem_namedRecs hi).2 named)]
    · rw [working]
      by_cases same : ty = leAt c.payload 0 1
      · subst same
        obtain ⟨m, j, shape', hi⟩ := recNamed_iff.1 other
        obtain ⟨rfl, -⟩ : n = m ∧ k = j := by simpa [shape] using shape'
        rw [ParamImage.resetRecs_getRec _ shape hi _ _ (namedRecs_within index), if_neg]
        rw [mem_namedRecs hi, not_or]
        exact unnamed.resolve_left fun ne => ne rfl
      · exact ParamImage.resetRecs_otherType _ same ..
end

section
/-!
PROOFS. The cable probe in a lane (R183 to R191): what its judgement of a channel looks at, and what of it the judgements of other
channels leave.
-/

namespace Sys2Proof.Machine

theorem mem_allChans (c : Chan) : c ∈ allChans := List.mem_finRange c
theorem allChans_nodup : allChans.Nodup := List.nodup_finRange 96

/-! ## One channel's probing state -/

@[simp] theorem State.modProb_at (s : State) (l : LaneId) (c : Chan) (f : Probing → Probing) :
    (s.modProb l c f).lanes[l].prob[c] = f s.lanes[l].prob[c] := by
  rw [State.modProb, State.modLane_same]
  simp [LaneState.modProb]
theorem State.modProb_otherChan (s : State) (l : LaneId) {c d : Chan} (f : Probing → Probing) (other : d ≠ c) :
    (s.modProb l c f).lanes[l].prob[d] = s.lanes[l].prob[d] := by
  have far : c.val ≠ d.val := fun e => other (Fin.ext e.symm)
  rw [State.modProb, State.modLane_same]
  simp [LaneState.modProb, far]

/-! ## What the judgements look at -/

/-- What a lane's judgements look at of the lane, beside the channel's own probing state. -/
def LaneState.senses (L : LaneState) : LaneDrive × Vector Proving 96 × Vector LaneGroup 12 := (L.drive, L.prov, L.grp)
/-- Two states agree in what the judgements of a lane look at. -/
structure Sees (l : LaneId) (s t : State) : Prop where
  now : t.now = s.now
  bus : t.bus = s.bus
  mode : t.mode = s.mode
  fe : t.fe = s.fe
  groups : t.groups = s.groups
  working : t.working = s.working
  params : t.params = s.params
  teach : t.act.teach = s.act.teach
  lane : t.lanes[l].senses = s.lanes[l].senses

namespace Sees

variable {l : LaneId} {s t u : State}

theorem refl (l : LaneId) (s : State) : Sees l s s := ⟨rfl, rfl, rfl, rfl, rfl, rfl, rfl, rfl, rfl⟩
theorem trans (h : Sees l s t) (k : Sees l t u) : Sees l s u :=
  ⟨k.now.trans h.now, k.bus.trans h.bus, k.mode.trans h.mode, k.fe.trans h.fe, k.groups.trans h.groups, k.working.trans h.working,
    k.params.trans h.params, k.teach.trans h.teach, k.lane.trans h.lane⟩
theorem modLane (s : State) (l : LaneId) {f : LaneState → LaneState} (hf : ∀ L, (f L).senses = L.senses) : Sees l s (s.modLane l f) :=
  ⟨rfl, rfl, rfl, rfl, rfl, rfl, rfl, rfl, by rw [State.modLane_same, hf]⟩
theorem of_reported (h : Reported s t) : Sees l s t := by
  have act : t.act.teach = s.act.teach := by rw [h.act]
  refine ⟨?_, ?_, ?_, ?_, ?_, ?_, State.params_congr h.log (by rw [h.rest]), act, by rw [h.lane l]; rfl⟩
  all_goals rw [h.rest]
theorem raiseFault (s : State) (l : LaneId) (code : Nat) (i : List Nat) (m : LaneMask) (k : Nat) : Sees l s (s.raiseFault code i m k) := by
  obtain ⟨w, lane⟩ := s.raiseFault_lane code i m k l
  exact ⟨by simp, by simp, by simp, by simp, by simp, by simp, s.raiseFault_params .., by simp, by rw [lane]; rfl⟩
theorem withdrawFault (s : State) (l : LaneId) (code : Nat) (i : List Nat) (m : LaneMask) : Sees l s (s.withdrawFault code i m) :=
  ⟨by simp, by simp, by simp, by simp, by simp, by simp, s.withdrawFault_params .., by simp, by simp⟩

section
variable (h : Sees l s t)
include h

theorem lampParams : t.lampParams = s.lampParams := by
  unfold State.lampParams
  rw [h.mode, h.working, h.params]
theorem drive : t.lanes[l].drive = s.lanes[l].drive := congrArg (·.1) h.lane
theorem prov : t.lanes[l].prov = s.lanes[l].prov := congrArg (·.2.1) h.lane
theorem grp : t.lanes[l].grp = s.lanes[l].grp := congrArg (·.2.2) h.lane
theorem isOn (c : Chan) : t.isOn l c = s.isOn l c := by
  unfold State.isOn
  rw [h.drive]
theorem hasProbe (c : Chan) : t.hasProbe c = s.hasProbe c := by
  unfold State.hasProbe State.taught
  rw [h.lampParams, h.teach]
theorem probedIn (c : Chan) (k : CorrSpan) : t.probedIn c k = s.probedIn c k := by
  unfold State.probedIn
  rw [h.hasProbe, h.fe, h.now]
theorem clockRate : t.clockRate = s.clockRate := by
  unfold State.clockRate
  rw [h.bus]
theorem localOf (x : Nat) : t.localOf x = s.localOf x := by
  unfold State.localOf State.localIn State.laneTime State.laneAt
  rw [h.clockRate, h.bus, h.now]
theorem mains (g : GroupId) : t.mains g = s.mains g := by
  unfold State.mains State.iqRef State.localIn
  simp only [h.localOf, h.clockRate, h.params, h.groups]
theorem corrRow (k : CorrSpan) (c : Chan) : t.corrRow l k c = s.corrRow l k c := by
  unfold State.corrRow
  rw [h.mains, h.fe, h.groups, h.grp, h.prov, h.lampParams]
theorem corrValid (r : ChanCorr) (k : CorrSpan) : t.corrValid l r k = s.corrValid l r k := by
  unfold State.corrValid State.ranThrough State.vtSeen
  rw [h.hasProbe, h.fe, h.groups, h.grp, h.prov, h.lampParams, h.now]

end

end Sees

/-! ## What a judgement leaves -/

/-- The last code period and partial window that a lane has judged. -/
def LaneState.marks (L : LaneState) : Option Nat × Option Nat := (L.cpnDone, L.partDone)
/-- Two states agree in what the judgements of a lane look at, in its marks, and in its probing state of all channels but some. -/
structure Probed (C : Chan → Prop) (l : LaneId) (s t : State) : Prop extends Sees l s t where
  marks : t.lanes[l].marks = s.lanes[l].marks
  prob : ∀ d, ¬ C d → t.lanes[l].prob[d] = s.lanes[l].prob[d]

namespace Probed

section
variable {C : Chan → Prop} {l : LaneId} {s t u : State}

theorem refl (C : Chan → Prop) (l : LaneId) (s : State) : Probed C l s s := ⟨.refl l s, rfl, fun _ _ => rfl⟩
theorem trans (h : Probed C l s t) (k : Probed C l t u) : Probed C l s u :=
  ⟨h.toSees.trans k.toSees, k.marks.trans h.marks, fun d hd => (k.prob d hd).trans (h.prob d hd)⟩
theorem mono {D : Chan → Prop} (h : Probed C l s t) (sub : ∀ d, C d → D d) : Probed D l s t :=
  { h with prob := fun d hd => h.prob d fun hc => hd (sub d hc) }
theorem of_reported (h : Reported s t) : Probed C l s t := ⟨.of_reported h, by rw [h.lane l]; rfl, fun d _ => by rw [h.lane l]⟩

end

section
variable {C : Chan → Prop} {l : LaneId} {s t : State} (h : Probed C l s t)
include h

theorem ite {u : State} {p : Prop} [Decidable p] (k : Probed C l s u) : Probed C l s (if p then t else u) := by
  split <;> assumption
theorem each {α : Type} {f : State → α → State} (xs : List α) (hf : ∀ u x, Probed C l u (f u x)) : Probed C l s (t.each xs f) :=
  State.each_keeps (P := Probed C l s) xs (fun u x _ k => k.trans (hf u x)) h
theorem modLane {f : LaneState → LaneState} (hs : ∀ L, (f L).senses = L.senses) (hf : ∀ L, (f L).marks = L.marks ∧ (f L).prob = L.prob) :
    Probed C l s (t.modLane l f) := by
  refine h.trans ⟨.modLane t l hs, ?_, fun d _ => ?_⟩
  · rw [State.modLane_same, (hf _).1]
  · rw [State.modLane_same, (hf _).2]
theorem modProb {c : Chan} (hc : C c) (f : Probing → Probing) : Probed C l s (t.modProb l c f) :=
  h.trans ⟨.modLane t l fun _ => rfl, by rw [State.modProb, State.modLane_same]; rfl, fun _ hd => t.modProb_otherChan l f fun e => hd (e ▸ hc)⟩
theorem note (code : Nat) (i : List Nat) (d : Bytes) (k m : Nat) : Probed C l s (t.note code i d k m) := h.trans (of_reported (.event ..))
theorem noteChan (k : LaneId) (c : Chan) : Probed C l s (t.noteChan k c) := h.trans (of_reported (.noteChan ..))
/-- A fault to which the fault table adds no reaction (R420). -/
theorem fault {code : Nat} {items : List Nat} {m : LaneMask} (report : ∀ u : State, u.reaction code items m = u) (k : Nat) :
    Probed C l s (t.fault code items m k) := by
  obtain ⟨w, lane⟩ := t.raiseFault_lane code items m k l
  unfold State.fault
  extract_lets known
  refine h.ite ?_
  rw [report]
  exact h.trans ⟨.raiseFault .., by rw [lane]; rfl, fun d _ => by rw [lane]⟩
theorem withdrawFault (code : Nat) (i : List Nat) (m : LaneMask) : Probed C l s (t.withdrawFault code i m) :=
  h.trans ⟨.withdrawFault .., by rw [State.withdrawFault_lanes], fun d _ => by rw [State.withdrawFault_lanes]⟩

end

end Probed

end Sys2Proof.Machine
end

section
/-!
PROOFS. The end of a partial window (R191), and the rows of the coupling matrix that are sent (R192, R193).
-/

namespace Sys2Proof.Machine

/-! ## Partial windows -/

/-- The count of a channel's partial windows out of the cold band, after one more (R191). -/
def State.coldCount (s : State) (l : LaneId) (r : ChanCorr) (k : CorrSpan) : Nat :=
  if s.corrValid l r k = true ∧ (coldLow s.lampParams r || coldHigh s.lampParams r) = true then s.lanes[l].prob[r.ch].coldOut + 1 else 0
/-- A row of a partial window counts its channel, and says no more of any channel's probing state. -/
theorem State.partialRow_counts (s : State) (l : LaneId) (rows : List ChanCorr) (r : ChanCorr) (k : CorrSpan) :
    Probed (fun _ => False) l (s.modProb l r.ch fun b => { b with coldOut := s.coldCount l r k }) (s.partialRow l rows r k) := by
  unfold State.partialRow
  cases valid : s.corrValid l r k with
  | false =>
    have count : s.coldCount l r k = 0 := if_neg fun h => Bool.false_ne_true (valid.symm.trans h.1)
    rw [count]
    exact .refl ..
  | true =>
    have count : s.coldCount l r k = if (coldLow s.lampParams r || coldHigh s.lampParams r) = true then s.lanes[l].prob[r.ch].coldOut + 1 else 0 := by
      rw [State.coldCount, valid]
      simp only [true_and]
    rw [if_pos rfl, count]
    extract_lets p out n s1 s2
    have counted : Probed (fun _ => False) l s1 s2 := ((Probed.refl _ l s1).note ..).ite (.refl _ l s1)
    refine counted.each rows fun u rj => ?_
    have same := Probed.refl (fun _ => False) l u
    extract_lets hit key had
    refine Probed.ite (Probed.ite ?_ (Probed.ite ?_ same)) same
    · refine Probed.note ?_ ..
      exact same.modLane (fun _ => rfl) fun _ => ⟨rfl, rfl⟩
    · exact same.modLane (fun _ => rfl) fun _ => ⟨rfl, rfl⟩
theorem State.partialRow_probed (s : State) (l : LaneId) (rows : List ChanCorr) (r : ChanCorr) (k : CorrSpan) :
    Probed (· = r.ch) l s (s.partialRow l rows r k) :=
  ((Probed.refl (· = r.ch) l s).modProb rfl _).trans ((s.partialRow_counts l rows r k).mono fun _ => False.elim)
theorem State.partialRow_coldOut (s : State) (l : LaneId) (rows : List ChanCorr) (r : ChanCorr) (k : CorrSpan) :
    (s.partialRow l rows r k).lanes[l].prob[r.ch].coldOut = s.coldCount l r k := by
  rw [(s.partialRow_counts l rows r k).prob _ not_false, State.modProb_at]
theorem Sees.coldCount {l : LaneId} {s t : State} (h : Sees l s t) {r : ChanCorr}
    (same : t.lanes[l].prob[r.ch] = s.lanes[l].prob[r.ch]) (k : CorrSpan) : t.coldCount l r k = s.coldCount l r k := by
  unfold State.coldCount
  rw [h.corrValid, h.lampParams, same]

/-- A lane has judged a partial window. -/
def State.windowSeen (s : State) (l : LaneId) (k : CorrSpan) : State := s.modLane l fun L => { L with partDone := some (8 * k.cpn + k.chip / 128) }
/-- The channels of a lane whose probe did not run in a partial window begin to count anew. -/
def State.unprobed (s u : State) (l : LaneId) (k : CorrSpan) : State :=
  u.each (allChans.filter fun c => !s.probedIn c k) fun u c => u.modProb l c fun b => { b with coldOut := 0 }
/-- What a lane makes of a partial window (R191): the windows of channels that were probed are judged by their rows. -/
def State.windowRows (s u : State) (l : LaneId) (k : CorrSpan) : State :=
  u.each (allChans.filter fun c => s.probedIn c k) fun u c =>
    u.partialRow l ((allChans.filter fun c => s.probedIn c k).map (s.corrRow l k)) (s.corrRow l k c) k
theorem exec_partialWindowEnd {l : LaneId} {k : CorrSpan} {s : State} (ended : s.endedPartial l = some k)
    (vote : s.inVoteThrough l (s.localOf (k.cpn * codePeriod)) = true) (runs : s.mode.mode.runs = true) :
    exec (.partialWindowEnd l) s = .next (s.windowRows (s.unprobed (s.windowSeen l k) l k) l k) := by
  refine congrArg Host.Outcome.next ?_
  rw [ended]
  dsimp only
  rw [if_pos ⟨vote, runs⟩, State.each_map]
  rfl
theorem State.unprobed_probed (s u : State) (l : LaneId) (k : CorrSpan) : Probed (fun c => s.probedIn c k = false) l u (s.unprobed u l k) :=
  State.each_keeps (P := Probed _ l u) _
    (fun _ c hc h => h.modProb (by simpa using (List.mem_filter.1 hc).2) _) (.refl _ l u)
theorem State.unprobed_coldOut {s : State} (u : State) (l : LaneId) {k : CorrSpan} {c : Chan} (dark : s.probedIn c k = false) :
    (s.unprobed u l k).lanes[l].prob[c].coldOut = 0 := by
  obtain ⟨v, -, -, left⟩ := State.each_once (P := fun _ => True) (s := u) (fun v => v.lanes[l].prob[c])
    (List.mem_filter.2 ⟨mem_allChans c, by rw [dark]; rfl⟩) (allChans_nodup.filter fun c => !s.probedIn c k)
    (f := fun u c => u.modProb l c fun b => { b with coldOut := 0 }) (fun _ _ _ _ => trivial)
    (fun v _ _ _ other => v.modProb_otherChan l _ (Ne.symm other)) trivial
  rw [State.unprobed, left, State.modProb_at]
theorem State.windowRows_probed (s u : State) (l : LaneId) (k : CorrSpan) : Probed (fun c => s.probedIn c k = true) l u (s.windowRows u l k) :=
  State.each_keeps (P := Probed _ l u) _ (fun v _ hc h => h.trans ((v.partialRow_probed l _ _ k).mono fun _ e =>
    e ▸ (List.mem_filter.1 hc).2)) (.refl _ l u)
theorem State.windowRows_coldOut {s u : State} {l : LaneId} {k : CorrSpan} {c : Chan} (probed : s.probedIn c k = true) :
    (s.windowRows u l k).lanes[l].prob[c].coldOut = u.coldCount l (s.corrRow l k c) k := by
  obtain ⟨v, seen, found, left⟩ := State.each_once (P := Probed (fun _ => True) l u) (s := u) (fun v => v.lanes[l].prob[c])
    (List.mem_filter.2 ⟨mem_allChans c, probed⟩) (allChans_nodup.filter fun c => s.probedIn c k)
    (f := fun v c => v.partialRow l ((allChans.filter fun c => s.probedIn c k).map (s.corrRow l k)) (s.corrRow l k c) k)
    (fun v _ _ h => h.trans ((v.partialRow_probed l _ _ k).mono fun _ _ => trivial))
    (fun v _ _ _ other => (v.partialRow_probed l _ _ k).prob c (Ne.symm other)) (.refl _ l u)
  rw [← seen.toSees.coldCount found, ← State.partialRow_coldOut]
  exact congrArg (·.coldOut) left

/-! ## Matrix rows -/

theorem State.matrixRow_length (s : State) (l : LaneId) (i : Chan) (n : Nat) : (s.matrixRow l i n).length = 208 := by
  simp [State.matrixRow, toLeInt, toLe_length, allChans]
/-- The count of dropped rows after a row for which there is room, or none. -/
def dropped (n : Word) (room : Bool) : Word := if room then 0 else if n = 0xFFFF then 0xFFFF else n + 1
theorem dropped_full (n : Word) : (dropped n false).toNat = min (n.toNat + 1) 65535 := by
  unfold dropped
  by_cases last : n = 0xFFFF
  · subst last
    rfl
  · have below : n.toNat ≠ 65535 := fun e => last (BitVec.eq_of_toNat_eq e)
    have bound := n.isLt
    have next : (n + 1).toNat = n.toNat + 1 := by
      rw [BitVec.toNat_add, show (1 : Word).toNat = 1 from rfl]
      omega
    rw [if_neg Bool.false_ne_true, if_neg last, next]
    omega
/-- A row is due no longer, sent or discarded (R192). -/
def Activities.rowSent (x : Activities) (rest : List (Nat × Chan)) (room : Bool) : Activities :=
  { x with matrixDue := rest, matrixDropped := dropped x.matrixDropped room }
theorem exec_matrixRowSend {n : Nat} {i : Chan} {rest : List (Nat × Chan)} {l : LaneId} {s : State} (due : s.act.matrixDue = (n, i) :: rest)
    (supplies : s.supplier = some l) : exec .matrixRowSend s = .next
      { s.post 15 0x0F05 (s.matrixRow l i n) with
        act := s.act.rowSent rest (s.mail.rings[(15 : RingId)].room 216 || (s.subscribers 15).isEmpty) } := by
  refine congrArg Host.Outcome.next ?_
  rw [due, supplies]
  dsimp only
  rw [State.post_act, State.matrixRow_length]
  rfl
/-- A posted message is the mailbox path's alone. -/
theorem State.post_agrees (s : State) (q : RingId) (op : Nat) (p : Bytes) (x : Activities) :
    agreeButReports { s with act := x } { s.post q op p with act := x } ∧ (s.post q op p).flash = s.flash := by
  have mail := ((MailOnly.refl s).post q op p).rest
  have hubs := s.post_hubs q op p
  generalize s.post q op p = t at mail hubs
  have flash : t.flash = s.flash := by rw [mail]
  have rest : t = { s with mail := t.mail, hubs := t.hubs, flash := t.flash } := by
    rw [flash]
    exact mail
  refine ⟨⟨congrArg (fun u : State => { u with act := x }) rest, ?_, hubs⟩, flash⟩
  dsimp only
  rw [flash]

end Sys2Proof.Machine

open Sys2Proof Sys2Proof.Machine

/-- Settles O30: each channel is counted by its own row, or begins anew; of a row that is sent only the mailbox path takes notice. -/
theorem partialWindowsAndMatrixRows : Obligations.PartialWindowsAndMatrixRows := by
  unfold Obligations.PartialWindowsAndMatrixRows
  refine ⟨fun l k s ended vote runs => ⟨_, exec_partialWindowEnd ended vote runs, ?_, fun c => ?_⟩, fun n i rest l s due supplies => ?_⟩
  · have kept := (s.windowRows_probed _ l k).marks.trans (s.unprobed_probed (s.windowSeen l k) l k).marks
    exact (congrArg (·.2) kept).trans (by rw [State.windowSeen, State.modLane_same])
  · cases probed : s.probedIn c k with
    | true =>
      have anew := s.unprobed_probed (s.windowSeen l k) l k
      have found : (s.unprobed (s.windowSeen l k) l k).lanes[l].prob[c] = s.lanes[l].prob[c] := by
        rw [anew.prob c (by simp [probed]), State.windowSeen, State.modLane_same]
      have sees : Sees l s (s.windowSeen l k) := .modLane s l fun _ => rfl
      rw [State.windowRows_coldOut probed, (sees.trans anew.toSees).coldCount found]
      simp only [State.coldCount, true_and]
      rfl
    | false =>
      rw [(s.windowRows_probed _ l k).prob c (by simp [probed]), State.unprobed_coldOut _ _ probed]
      exact (if_neg fun h => Bool.false_ne_true h.1).symm
  · obtain ⟨agrees, flash⟩ := s.post_agrees 15 0x0F05 (s.matrixRow l i n) _
    refine ⟨_, exec_matrixRowSend due supplies, rfl, fun room => ?_, fun full some_ => ?_, agrees, flash⟩
    · have open_ : (s.mail.rings[(15 : RingId)].room 216 || (s.subscribers 15).isEmpty) = true := by simpa using room
      dsimp only
      rw [open_]
      rfl
    · have shut : (s.mail.rings[(15 : RingId)].room 216 || (s.subscribers 15).isEmpty) = false := by simpa using ⟨full, some_⟩
      dsimp only
      rw [shut]
      exact dropped_full _
end

section
/-!
PROOFS. The end of a code period (R183 to R189): the verdict of each channel, by its own row, and what the coupling matrix, the mains
rules and the matrix rows of the period leave of it.
-/

namespace Sys2Proof.Machine

/-! ## The verdict of a channel (R186 to R188) -/

/-- A channel's verdict: what it says, of which stretch, and OPEN_CIRCUIT. -/
def Probing.verdicts (b : Probing) : Verdict × Nat × Nat × Bool := (b.verdict, b.verdictStart, b.verdictEnd, b.openCircuit)
/-- OPEN_CIRCUIT after a verdict, which counts or not, at OC_COUNT n (R187). -/
def Probing.circuit (b : Probing) (n : Nat) (counts : Bool) (v : Verdict) : Bool :=
  if counts = true ∧ v.failed.isSome = true ∧ n ≤ b.failRun + 1 then true
  else if counts = true ∧ v = .intact ∧ n ≤ b.intactRun + 1 then false
  else b.openCircuit
/-- A verdict on a stretch counts for a channel that was dark since before it (R187). -/
def State.counts (s : State) (l : LaneId) (c : Chan) (start : Nat) : Bool := !s.isOn l c && decide (s.lanes[l].prov[c].offAt.getD 0 ≤ start)
theorem State.verdict_sets (s : State) (l : LaneId) (c : Chan) (v : Verdict) (start stop : Nat) :
    (s.verdict l c v start stop).lanes[l].prob[c].verdicts =
      (v, start, stop, s.lanes[l].prob[c].circuit (s.lampParams.ocCount c) (s.counts l c start) v) := by
  unfold State.verdict
  extract_lets n b counts bad good fr ir oc s1 s2
  have set : s1.lanes[l].prob[c].verdicts = (v, start, stop, oc) := by
    rw [State.modProb_at]
    rfl
  have withdrawn : s2.lanes[l].prob[c].verdicts = s1.lanes[l].prob[c].verdicts := by
    unfold s2
    split
    · refine (congrArg Probing.verdicts (((Probed.refl (fun _ => False) l _).withdrawFault ..).prob c not_false)).trans ?_
      rw [State.modProb_at]
      rfl
    · rfl
  have circuit : oc = b.circuit n counts v := by
    unfold oc Probing.circuit fr ir bad good
    cases counts with
    | false => simp
    | true => cases v <;> simp [Verdict.failed]
  rw [(Reported.noteChan s2 l c).lane l]
  exact withdrawn.trans (set.trans (by rw [circuit]; rfl))
theorem State.verdict_probed (s : State) (l : LaneId) (c : Chan) (v : Verdict) (start stop : Nat) :
    Probed (· = c) l s (s.verdict l c v start stop) := by
  unfold State.verdict
  extract_lets n b counts bad good fr ir oc s1 s2
  have set : Probed (· = c) l s s1 := (Probed.refl (· = c) l s).modProb rfl _
  exact (((set.modProb rfl _).withdrawFault ..).ite set).noteChan ..

/-! ## The verdict of a period, by the channel's row -/

/-- The verdict of a row: unavailable where the source itself did not deliver (R186, R188). -/
def State.rowVerdict (s : State) (l : LaneId) (r : ChanCorr) (k : CorrSpan) : Verdict :=
  let w := verdictOf s.lampParams r (s.corrValid l r k) (s.lanes[l].prov[r.ch].offAt.getD 0) k.start
  if w = .failedCompliance ∧ r.vcorr.natAbs < 8000000 then .unavailable else w
/-- What a lane says of a channel after the period of a row. -/
def State.judged (s : State) (l : LaneId) (r : ChanCorr) (k : CorrSpan) : Verdict × Nat × Nat × Bool :=
  (s.rowVerdict l r k, k.start, k.stop,
    s.lanes[l].prob[r.ch].circuit (s.lampParams.ocCount r.ch) (s.counts l r.ch k.start) (s.rowVerdict l r k))
theorem Sees.judged {l : LaneId} {s t : State} (h : Sees l s t) {r : ChanCorr} {c : Chan} (own : r.ch = c)
    (same : t.lanes[l].prob[c] = s.lanes[l].prob[c]) (k : CorrSpan) : t.judged l r k = s.judged l r k := by
  subst own
  unfold State.judged State.rowVerdict State.counts
  rw [h.lampParams, h.corrValid, h.prov, h.isOn, same]
/-- Before the verdict is entered a row notes its resistance, the fault of its source, and what a teach-in learns (R161, R188). -/
theorem State.judgeRow_enters {s : State} {l : LaneId} {r : ChanCorr} {k : CorrSpan} (probed : s.probedIn r.ch k = true) :
    ∃ u, Probed (· = r.ch) l s u ∧ u.lanes[l].prob[r.ch].circuit = s.lanes[l].prob[r.ch].circuit ∧
      s.judgeRow l r k = u.verdict l r.ch (s.rowVerdict l r k) k.start k.stop := by
  unfold State.judgeRow
  extract_lets c ok v bad s1 s2 s3
  rw [if_pos probed]
  have measured : Probed (· = c) l s s1 := (Probed.refl (· = c) l s).modProb rfl _
  have sourced : Probed (· = c) l s s2 := ((measured.modProb rfl _).fault (fun _ => rfl) _).ite measured
  have learned : Probed (fun _ => False) l s2 s3 := by
    refine Probed.ite ?_ (.refl ..)
    exact Probed.modLane (.refl ..) (fun _ => rfl) fun _ => ⟨rfl, rfl⟩
  have circuit1 : s1.lanes[l].prob[c].circuit = s.lanes[l].prob[c].circuit := by
    rw [State.modProb_at]
    rfl
  have circuit2 : s2.lanes[l].prob[c].circuit = s1.lanes[l].prob[c].circuit := by
    unfold s2
    split
    · refine (congrArg Probing.circuit (((Probed.refl (fun _ => False) l _).fault (fun _ => rfl) _).prob c not_false)).trans ?_
      rw [State.modProb_at]
      rfl
    · rfl
  have circuit3 : s3.lanes[l].prob[c].circuit = s2.lanes[l].prob[c].circuit := congrArg Probing.circuit (learned.prob c not_false)
  refine ⟨s3, sourced.trans (learned.mono fun _ => False.elim), circuit3.trans (circuit2.trans circuit1), ?_⟩
  have said : (if bad then Verdict.unavailable else v) = s.rowVerdict l r k := by
    unfold bad State.rowVerdict
    simp [v, ok, c]
  rw [said]
theorem State.judgeRow_probed (s : State) (l : LaneId) (r : ChanCorr) (k : CorrSpan) : Probed (· = r.ch) l s (s.judgeRow l r k) := by
  by_cases probed : s.probedIn r.ch k = true
  · obtain ⟨u, entered, -, e⟩ := s.judgeRow_enters probed
    rw [e]
    exact entered.trans (u.verdict_probed ..)
  · have idle : s.judgeRow l r k = s := if_neg probed
    rw [idle]
    exact .refl ..
theorem State.judgeRow_verdicts {s : State} (l : LaneId) {r : ChanCorr} {k : CorrSpan} {c : Chan} (own : r.ch = c) (probed : s.probedIn c k = true) :
    (s.judgeRow l r k).lanes[l].prob[c].verdicts = s.judged l r k := by
  subst own
  obtain ⟨u, entered, circuit, e⟩ := s.judgeRow_enters probed
  have counts : u.counts l r.ch k.start = s.counts l r.ch k.start := by
    unfold State.counts
    rw [entered.isOn, entered.prov]
  rw [e, State.verdict_sets, circuit, counts, entered.lampParams]
  rfl

/-! ## What follows the verdicts -/

/-- The coupling matrix is no part of what a lane says of a channel (R189, R190). -/
theorem State.couple_probed (s : State) (l : LaneId) (i j : Chan) (v diag : Int) (n : Nat) :
    Probed (fun _ => False) l s (s.couple l i j v diag n) := by
  unfold State.couple
  extract_lets old hit e cr s1
  have noted : Probed (fun _ => False) l s s1 := (Probed.refl _ l s).modLane (fun _ => rfl) fun _ => ⟨rfl, rfl⟩
  exact (noted.fault (fun _ => rfl) _).ite ((noted.withdrawFault ..).ite noted)
theorem State.coupleRow_probed (s : State) (l : LaneId) (rows : List ChanCorr) (r : ChanCorr) (k : CorrSpan) :
    Probed (fun _ => False) l s (s.coupleRow l rows r k) := by
  have same := Probed.refl (fun _ => False) l
  unfold State.coupleRow
  refine Probed.ite (Probed.each (s.couple_probed ..) rows fun u rj => Probed.ite ?_ (same u)) (same s)
  split
  · exact u.couple_probed ..
  · exact same u
/-- What a lane says of the cables, and which periods it has judged. -/
def LaneState.said (L : LaneState) : (Option Nat × Option Nat) × Vector Probing 96 := (L.marks, L.prob)
/-- FOREIGN leaves what the lanes say of the cables (R200, R201). -/
theorem State.foreignAt_said (s : State) (l : LaneId) (c : Chan) (k : Cause) (src : Option Chan) (j : LaneId) :
    (s.foreignAt l c k src).lanes[j].said = s.lanes[j].said := by
  have modified (u : State) {f : LaneState → LaneState} (hf : ∀ L, (f L).said = L.said) : (u.modLane l f).lanes[j].said = u.lanes[j].said := by
    by_cases e : j = l
    · subst e
      rw [State.modLane_same, hf]
    · rw [State.modLane_other _ _ _ _ e]
  have reported {u v : State} (h : Reported u v) : v.lanes[j].said = u.lanes[j].said := by
    rw [h.lane j]
    rfl
  unfold State.foreignAt
  extract_lets prot s1 s2 s3 s4
  have decided : s1.lanes[j].said = s.lanes[j].said := modified s fun _ => rfl
  have reverted : s2.lanes[j].said = s1.lanes[j].said := by
    unfold s2
    split
    · rw [State.trigger, State.modLanes_at]
      split <;> rfl
    · rfl
  have reacted : s3.lanes[j].said = s2.lanes[j].said := by
    unfold s3
    repeat' split
    · exact modified s2 fun _ => rfl
    all_goals rfl
  have logged : s4.lanes[j].said = s3.lanes[j].said := by
    unfold s4
    split
    · exact reported (.event ..)
    · rfl
  refine Eq.trans ?_ (logged.trans (reacted.trans (reverted.trans decided)))
  split
  · exact reported (.noteChan ..)
  · exact reported ((Reported.noteChan ..).trans (.event ..))
/-- A lane's last judged code period, and its verdict of a channel. -/
def LaneState.verdictOf (L : LaneState) (c : Chan) : Option Nat × Verdict × Nat × Nat × Bool := (L.cpnDone, L.prob[c].verdicts)
theorem LaneState.verdictOf_of_said {L M : LaneState} (h : L.said = M.said) (c : Chan) : L.verdictOf c = M.verdictOf c :=
  Prod.ext (congrArg (·.1.1) h) (congrArg (·.2[c].verdicts) h)
theorem State.foreignAt_verdict (s : State) (l : LaneId) (d : Chan) (k : Cause) (src : Option Chan) (c : Chan) :
    (s.foreignAt l d k src).lanes[l].verdictOf c = s.lanes[l].verdictOf c :=
  LaneState.verdictOf_of_said (s.foreignAt_said l d k src l) c
theorem State.modProb_verdict (s : State) (l : LaneId) (d c : Chan) {f : Probing → Probing} (hf : ∀ b, (f b).verdicts = b.verdicts) :
    (s.modProb l d f).lanes[l].verdictOf c = s.lanes[l].verdictOf c := by
  have kept := (Probed.refl (· = d) l s).modProb rfl f
  refine Prod.ext (congrArg (·.1) kept.marks) ?_
  by_cases e : c = d
  · subst e
    exact (congrArg Probing.verdicts (s.modProb_at ..)).trans (hf _)
  · exact congrArg Probing.verdicts (kept.prob c e)
theorem Probed.verdict {l : LaneId} {s t : State} (h : Probed (fun _ => False) l s t) (c : Chan) :
    t.lanes[l].verdictOf c = s.lanes[l].verdictOf c :=
  Prod.ext (congrArg (·.1) h.marks) (congrArg Probing.verdicts (h.prob c not_false))
/-- The mains rules decide FOREIGN, and leave the verdicts (R197, R198). -/
theorem State.iqRow_verdict (s : State) (l : LaneId) (r : ChanCorr) (k : CorrSpan) (c : Chan) :
    (s.iqRow l r k).lanes[l].verdictOf c = s.lanes[l].verdictOf c := by
  have foreign (u : State) (d : Chan) (x : Cause) : (u.decideForeign l d x).lanes[l].verdictOf c = u.lanes[l].verdictOf c := by
    unfold State.decideForeign
    exact u.foreignAt_verdict ..
  unfold State.iqRow
  extract_lets d p raise b intact num den res cap count
  split
  · rfl
  · split
    · have raised : raise.lanes[l].verdictOf c = s.lanes[l].verdictOf c := s.modProb_verdict l d c fun _ => rfl
      split
      · exact raised
      · exact (((Probed.refl _ l raise).note ..).verdict c).trans raised
    · have counted : count.lanes[l].verdictOf c = s.lanes[l].verdictOf c := s.modProb_verdict l d c fun _ => rfl
      repeat' split
      · exact counted
      · exact (foreign ..).trans counted
      · exact (foreign ..).trans counted
      · exact counted

/-! ## A lane's own results of a period -/

/-- A lane has judged a code period. -/
def State.periodSeen (s : State) (l : LaneId) (k : CorrSpan) : State := s.modLane l fun L => { L with cpnDone := some k.cpn }
/-- The channels of a period are judged in turn. -/
def State.judgeRows (s : State) (l : LaneId) (k : CorrSpan) : State := s.each allChans fun u c => u.judgeRow l (s.corrRow l k c) k
theorem State.judgeRows_marks (s : State) (l : LaneId) (k : CorrSpan) : (s.judgeRows l k).lanes[l].marks = s.lanes[l].marks :=
  (State.each_keeps (P := Probed (fun _ => True) l s) allChans (fun u c _ h => h.trans ((u.judgeRow_probed l (s.corrRow l k c) k).mono fun _ _ => trivial))
    (.refl _ l s)).marks
/-- No other channel's row tells on what a row finds. -/
theorem State.judgeRows_verdicts {s : State} {l : LaneId} {k : CorrSpan} {c : Chan} (probed : s.probedIn c k = true) :
    (s.judgeRows l k).lanes[l].prob[c].verdicts = s.judged l (s.corrRow l k c) k := by
  obtain ⟨u, sees, found, left⟩ := State.each_once (P := Probed (fun _ => True) l s) (s := s) (fun u => u.lanes[l].prob[c])
    (mem_allChans c) allChans_nodup (f := fun u c => u.judgeRow l (s.corrRow l k c) k)
    (fun u d _ h => h.trans ((u.judgeRow_probed l _ k).mono fun _ _ => trivial))
    (fun u d _ _ other => (u.judgeRow_probed l _ k).prob c (Ne.symm other)) (.refl _ l s)
  have own : (s.corrRow l k c).ch = c := rfl
  rw [← sees.toSees.judged own found, ← State.judgeRow_verdicts l own ((sees.probedIn c k).trans probed)]
  exact congrArg Probing.verdicts left
/-- What a lane's matrix row shows of a channel's period (R193). -/
def State.showRow (s u : State) (l : LaneId) (r : ChanCorr) (k : CorrSpan) : State :=
  let noRef := (s.iqRef r.ch.group).isNone
  u.modProb l r.ch fun b => b.row (s.probedIn r.ch k) (s.darkThrough l r.ch k) noRef (rowFlagsOf (s.corrValid l r k) r noRef) r
theorem State.periodRows_eq (s : State) (l : LaneId) (k : CorrSpan) : s.periodRows l k =
    (((s.judgeRows l k).each (allChans.map (s.corrRow l k)) fun u r => u.coupleRow l (allChans.map (s.corrRow l k)) r k).each
      (allChans.map (s.corrRow l k)) fun u r => u.iqRow l r k).each (allChans.map (s.corrRow l k)) fun u r => s.showRow u l r k := by
  rw [State.judgeRows, ← State.each_map s allChans (s.corrRow l k) fun u r => u.judgeRow l r k]
  rfl
/-- The coupling matrix, the mains rules and the rows to be sent leave the verdicts. -/
theorem State.periodRows_verdict (s : State) (l : LaneId) (k : CorrSpan) (c : Chan) :
    (s.periodRows l k).lanes[l].verdictOf c = (s.judgeRows l k).lanes[l].verdictOf c := by
  rw [State.periodRows_eq]
  generalize allChans.map (s.corrRow l k) = rows
  refine (each_field (·.lanes[l].verdictOf c) rows (fun u r _ => ?_) _).trans ?_
  · exact u.modProb_verdict l r.ch c fun _ => rfl
  refine (each_field (·.lanes[l].verdictOf c) rows (fun u r _ => ?_) _).trans ?_
  · exact u.iqRow_verdict l r k c
  · exact each_field (·.lanes[l].verdictOf c) rows (fun u r _ => (u.coupleRow_probed l rows r k).verdict c) _
/-- What the supplying lane sends after a period touches no lane (R179, R192). -/
theorem State.periodSends_lanes (s : State) (n : Nat) : (s.rowsDue n).periodStops.lanes = s.lanes := by
  have due : (s.rowsDue n).lanes = s.lanes := by
    unfold State.rowsDue
    split <;> rfl
  refine Eq.trans ?_ due
  refine each_field (·.lanes) _ (fun u g _ => ?_) _
  unfold State.feWrite
  split <;> rfl
theorem exec_codePeriodEnd {l : LaneId} {k : CorrSpan} {s : State} (ended : s.endedPeriod l = some k) (vote : s.inVoteThrough l k.start = true)
    (runs : s.mode.mode.runs = true) : ∃ t, exec (.codePeriodEnd l) s = .next t ∧ t.lanes = ((s.periodSeen l k).periodRows l k).lanes := by
  have active : s.active l = true := (Bool.and_eq_true_iff.1 vote).1
  have own : s.periodEnd l k = (s.periodSeen l k).periodRows l k := if_pos vote
  refine ⟨_, rfl, ?_⟩
  rw [ended]
  dsimp only
  rw [if_pos ⟨active, runs⟩, own]
  split
  · exact State.periodSends_lanes ..
  · rfl

end Sys2Proof.Machine

open Sys2Proof Sys2Proof.Machine

/-- Settles O29: each channel's verdict is that of its own row, which no other row changes and all that follows leaves. -/
theorem codePeriodsGiveVerdicts : Obligations.CodePeriodsGiveVerdicts := by
  unfold Obligations.CodePeriodsGiveVerdicts
  intro l k s ended vote runs
  obtain ⟨t, e, lanes⟩ := exec_codePeriodEnd ended vote runs
  have seen : Sees l s (s.periodSeen l k) := .modLane s l fun _ => rfl
  have lane (c : Chan) : t.lanes[l].verdictOf c = ((s.periodSeen l k).judgeRows l k).lanes[l].verdictOf c := by
    rw [lanes]
    exact State.periodRows_verdict ..
  have marks : ((s.periodSeen l k).judgeRows l k).lanes[l].cpnDone = some k.cpn :=
    (congrArg (·.1) ((s.periodSeen l k).judgeRows_marks l k)).trans (by rw [State.periodSeen, State.modLane_same]; rfl)
  refine ⟨t, e, (congrArg (·.1) (lane 0)).trans marks, fun c probed => ?_⟩
  have row : (s.periodSeen l k).corrRow l k c = s.corrRow l k c := seen.corrRow k c
  have same : (s.periodSeen l k).lanes[l].prob[c] = s.lanes[l].prob[c] := by rw [State.periodSeen, State.modLane_same]
  have verdicts : t.lanes[l].prob[c].verdicts = s.judged l (s.corrRow l k c) k := by
    rw [← seen.judged rfl same, ← row, ← State.judgeRows_verdicts ((seen.probedIn c k).trans probed)]
    exact congrArg (·.2) (lane c)
  refine ⟨congrArg (·.1) verdicts, congrArg (·.2.1) verdicts, congrArg (·.2.2.1) verdicts, (congrArg (·.2.2.2) verdicts).trans ?_⟩
  simp only [State.judged, Probing.circuit, State.counts, Bool.and_eq_true, Bool.not_eq_true', decide_eq_true_eq, and_assoc]
  rfl
end

