-- ==== Sys2Proof/Proofs/ClockAndStart.lean ====
section
/-!
PROOFS. A hub's clock correction and what makes it passive (R239, R258 to R260), the steps of its integration (R229), the end of a
schedule change (R238), and cold start (R231 to R233).
-/

namespace Sys2Proof.Machine

/-! ## The offset of a cycle (R258) -/

theorem offsetOf_few {vals : List Int} (few : vals.length < 3) : offsetOf vals = none := by
  unfold offsetOf
  dsimp only
  rw [sortInts_length, if_neg (by omega), if_neg (by omega)]
theorem offsetOf_three {vals : List Int} {x y z : Int} (sorted : sortInts vals = [x, y, z]) : offsetOf vals = some y := by
  unfold offsetOf
  rw [sorted]
  rfl
theorem offsetOf_more {vals : List Int} (more : 4 ≤ vals.length) :
    offsetOf vals = some (roundAway ((((sortInts vals).drop 1).take (vals.length - 2)).sum) (vals.length - 2)) := by
  unfold offsetOf
  dsimp only
  rw [sortInts_length, if_pos more]

/-! ## RATE (R258, R259) -/

theorem HubTime.correct_some_rate {t : HubTime} (n cyc : Nat) {v w : Int} (prev : t.c = some w) :
    (t.correct n (some v) cyc).rate = max (-4000) (min 4000 (rateAfter t.rate v w cyc)) := by
  unfold HubTime.correct
  rw [prev]

/-! ## The correction of a cycle -/

/-- The usable deviations of a hub: those within 100 ns (R258). -/
def HubTime.usable (t : HubTime) : List Int := (t.devs.filter fun d => decide (d.dev.natAbs ≤ 100)).map (·.dev)
/-- A hub measured three deviations or more, and fewer than half of them are usable (R260). -/
def HubTime.astray (t : HubTime) : Prop := 3 ≤ t.devs.length ∧ 2 * t.usable.length < t.devs.length
/-- The unit of a hub after the correction of its cycle. -/
def State.correctedTime (s : State) (h : HubId) : HubTime :=
  s.hubs[h].time.correct s.hubs[h].time.usable.length (offsetOf s.hubs[h].time.usable) (s.params.tCyc s.hubs[h].bus.sset)

theorem exec_clockCorrection (h : HubId) (s : State) : exec (.clockCorrection h) s = .next (if s.correctionDue h then s.correctCycle h else s) := rfl
/-- Frames of another set make a hub passive, and change nothing else of its unit (R239). -/
theorem State.correctCycle_passive (s : State) (h : HubId) :
    let a := (s.correctHub h).hubs[h]
    let b := (s.correctCycle h).hubs[h]
    b.time = { a.time with passive := b.time.passive } ∧ (a.time.passive = true → b.time.passive = true) ∧
      (a.bus.integ = .acquire → b.bus.integ = .acquire) := by
  intro a b
  obtain ⟨time, integ, -⟩ := s.correctCycle_time h
  have time : b.time = _ := time
  have integ : b.bus.integ = _ := integ
  rw [time, integ]
  split
  · exact ⟨rfl, fun _ => rfl, fun _ => rfl⟩
  · exact ⟨rfl, id, id⟩
theorem State.correctCycle_diverged {s : State} {h : HubId} (silent : s.hubs[h].bus.validThis = false) (others : 0 < s.hubs[h].bus.ssetFails) :
    (s.correctCycle h).hubs[h].time.passive = true ∧ (s.correctCycle h).hubs[h].bus.integ = .acquire ∧ (s.correctCycle h).bus.diverged = true := by
  have apart : (!s.hubs[h].bus.validThis && decide (0 < s.hubs[h].bus.ssetFails)) = true := by rw [silent, decide_eq_true others]; rfl
  obtain ⟨time, integ, diverged⟩ := s.correctCycle_time h
  rw [apart] at time integ
  exact ⟨congrArg (·.passive) time, integ, diverged apart⟩
theorem State.correctCycle_astray {s : State} {h : HubId} (astray : s.hubs[h].time.astray) :
    let t := (s.correctCycle h).hubs[h].time
    t.corrected = true ∧ t.nval = s.hubs[h].time.usable.length ∧ t.c = none ∧ t.passive = true ∧ t.passiveCnt = s.hubs[h].time.passiveCnt + 1 ∧
      (s.correctCycle h).hubs[h].bus.integ = .acquire := by
  obtain ⟨few, acquires⟩ := s.correctHub_few h _ rfl astray
  obtain ⟨time, passive, integ⟩ := s.correctCycle_passive h
  rw [few] at time passive
  dsimp only at time passive ⊢
  exact ⟨by rw [time], by rw [time]; rfl, by rw [time], passive rfl, by rw [time], integ acquires⟩
/-- Else the unit corrects, and goes passive with the third large offset in a row. -/
theorem State.correctCycle_corrects {s : State} {h : HubId} (fit : ¬s.hubs[h].time.astray) :
    let t := (s.correctCycle h).hubs[h].time
    t = { s.correctedTime h with passive := t.passive, passiveCnt := t.passiveCnt } ∧
      ((offsetOf s.hubs[h].time.usable).isSome = true → (s.correctedTime h).overRun = 3 →
        t.passive = true ∧ (s.correctCycle h).hubs[h].bus.integ = .acquire) := by
  obtain ⟨corrected, acquires⟩ := s.correctHub_many h _ rfl fit
  obtain ⟨time, passive, integ⟩ := s.correctCycle_passive h
  refine ⟨?_, fun offset third => ?_⟩
  · rw [time, corrected]
    split <;> rfl
  · have out : ((offsetOf s.hubs[h].time.usable).isSome && (s.correctedTime h).overRun == 3) = true := by rw [offset, third]; rfl
    refine ⟨passive ?_, integ (acquires out)⟩
    rw [corrected]
    exact congrArg HubTime.passive (if_pos out)

/-- The offset that the usable deviations give. -/
theorem State.correctCycle_c {s : State} {h : HubId} (fit : ¬s.hubs[h].time.astray) :
    (s.correctCycle h).hubs[h].time.c = offsetOf s.hubs[h].time.usable := by
  rw [(State.correctCycle_corrects fit).1]
  rfl
theorem State.correctedTime_eq {s : State} {h : HubId} {c : Option Int} (offset : offsetOf s.hubs[h].time.usable = c) :
    s.correctedTime h = s.hubs[h].time.correct s.hubs[h].time.usable.length c (s.params.tCyc s.hubs[h].bus.sset) := by
  rw [← offset]
  rfl
/-- A cycle without an offset. -/
theorem State.correctCycle_noOffset {s : State} {h : HubId} (fit : ¬s.hubs[h].time.astray) (offset : offsetOf s.hubs[h].time.usable = none) :
    let t := (s.correctCycle h).hubs[h].time
    t.c = none ∧ t.overRun = s.hubs[h].time.overRun ∧ t.rate = max (-4000) (min 4000 s.hubs[h].time.rate) := by
  obtain ⟨time, -⟩ := State.correctCycle_corrects fit
  rw [State.correctedTime_eq offset] at time
  dsimp only
  rw [time]
  exact ⟨rfl, rfl, rfl⟩
/-- A cycle with the offset v. -/
theorem State.correctCycle_offset {s : State} {h : HubId} {v : Int} (fit : ¬s.hubs[h].time.astray)
    (offset : offsetOf s.hubs[h].time.usable = some v) :
    let H := s.hubs[h]
    let t := (s.correctCycle h).hubs[h].time
    t.slew = v ∧ t.overRun = (if 50 < v.natAbs then H.time.overRun + 1 else 0) ∧
      (50 < v.natAbs → H.time.overRun = 2 → t.passive = true ∧ (s.correctCycle h).hubs[h].bus.integ = .acquire) ∧
      ∀ w, H.time.c = some w → t.rate = max (-4000) (min 4000 (rateAfter H.time.rate v w (s.params.tCyc H.bus.sset))) := by
  intro H t
  obtain ⟨time, third⟩ := State.correctCycle_corrects fit
  rw [State.correctedTime_eq offset] at time third
  have time : t = _ := time
  refine ⟨by rw [time]; rfl, by rw [time]; rfl, fun large second => third (Option.isSome_of_eq_some offset) ?_, fun w prev => ?_⟩
  · exact (if_pos large).trans (congrArg (· + 1) second)
  · exact (congrArg HubTime.rate time).trans (HubTime.correct_some_rate H.time.usable.length _ prev)

/-! ## The steps of integration (R229) -/

/-- What takes a hub from SYNCHRONISE to SEND: a small offset, or none with a sync frame usable. -/
def HubState.inStep (H : HubState) : Prop :=
  H.time.corrected = true ∧ ((∃ v, H.time.c = some v ∧ v.natAbs ≤ 50) ∨ (H.time.c = none ∧ H.bus.syncUsable = true))

theorem exec_integrationCycleEnd (h : HubId) (s : State) :
    exec (.integrationCycleEnd h) s = .next (if s.integrationDue h then s.integrationEnd h else s) := rfl
theorem HubState.nextStep_acquire {H : HubState} (step : H.bus.integ = .acquire) : H.nextStep = (.observe, 0) := by
  unfold HubState.nextStep
  rw [step]
theorem HubState.nextStep_observe {H : HubState} (step : H.bus.integ = .observe) :
    H.nextStep.1 = if (2 ≤ H.bus.syncNodes.length ∨ H.bus.csHeard = true) ∧ H.bus.timingFail = false then .synchronise else .acquire := by
  unfold HubState.nextStep
  rw [step]
  simp only [Bool.and_eq_true, Bool.or_eq_true, decide_eq_true_eq, Bool.not_eq_true']
  split <;> rfl
/-- An offset must be small, and without one a sync frame usable, whatever else the hub noted. -/
theorem HubState.nextStep_synchronise {H : HubState} (step : H.bus.integ = .synchronise) :
    (H.inStep → H.nextStep = (.send, 0)) ∧
      (¬H.inStep → H.nextStep = if 3 ≤ H.bus.repeats then (.acquire, 0) else (.synchronise, H.bus.repeats + 1)) := by
  unfold HubState.nextStep HubState.inStep
  rw [step]
  cases H.time.c with
  | none => simp +contextual
  | some v => simp +contextual

/-! ## The end of a schedule change (R238) -/

section
variable {s : State} {c : SchedChange}

theorem exec_schedChanged_idle (idle : s.bus.change = none) : exec .schedChanged s = .next s := by
  change execSchedChanged s = _
  unfold execSchedChanged
  rw [idle]

variable (pending : s.bus.change = some c)
include pending

theorem exec_schedChanged_apart (apart : s.integrated = false) :
    exec .schedChanged s = .next { s with bus := { s.bus with change := none, answers := [] } } := by
  change execSchedChanged s = _
  unfold execSchedChanged
  rw [pending, apart]
  rfl
theorem exec_schedChanged_open (runs : s.integrated = true) (more : s.answersOver c = false) : exec .schedChanged s = .next s := by
  change execSchedChanged s = _
  unfold execSchedChanged
  rw [pending, runs]
  simp only [more]
  rfl
/-- A node that has not accepted cancels the change. -/
theorem exec_schedChanged_cancels (runs : s.integrated = true) (ended : s.answersOver c = true) (missing : ∃ n ∈ c.needed, n ∉ c.answered) :
    ∃ n, exec .schedChanged s = .next (s.cancelChange [n]) := by
  cases first : c.needed.find? fun n => !c.answered.contains n with
  | none =>
    obtain ⟨n, needed, silent⟩ := missing
    exact absurd (List.find?_eq_none.1 first n needed) (by simp [silent])
  | some n =>
    refine ⟨n, ?_⟩
    change execSchedChanged s = _
    unfold execSchedChanged
    simp only [pending, runs, ended, first]
    rfl
theorem exec_schedChanged_agreed (runs : s.integrated = true) (ended : s.answersOver c = true) (all : ∀ n ∈ c.needed, n ∈ c.answered) :
    exec .schedChanged s = .next (if laterCycle s.bus.apCycle c.lastCycle then s.changeSet c.target else s) := by
  have none_ : (c.needed.find? fun n => !c.answered.contains n) = none := List.find?_eq_none.2 fun n needed => by simp [all n needed]
  change execSchedChanged s = _
  unfold execSchedChanged
  simp only [pending, runs, ended, none_]
  rfl

end

/-- A change that is cancelled is dropped and reported. -/
theorem State.cancelChange_reports (s : State) (items : List Nat) :
    (s.cancelChange items).bus = { s.bus with change := none } ∧
      agreeButReports { s with bus := (s.cancelChange items).bus } (s.cancelChange items) := by
  have bus : (s.cancelChange items).bus = { s.bus with change := none } := State.note_bus ..
  refine ⟨bus, ?_⟩
  rw [bus]
  exact ⟨State.note_rest .., by rw [State.cancelChange, State.note_flash], State.note_hubs _ _ _ _ _ _⟩
theorem State.changeSet_sset (s : State) (k : Nat) (h : HubId) :
    (s.changeSet k).hubs[h].bus.sset = if s.hubs[h].bus.acquired = true then k else s.hubs[h].bus.sset := by
  unfold State.changeSet
  dsimp only
  rw [State.note_hubBus, State.modHubs_at]
  split <;> rfl

/-! ## Cold start (R231 to R233) -/

theorem exec_coldStartListenTimeout {s : State} {j : Nat} (slot : s.coldSlot = some j) :
    exec .coldStartListenTimeout s = .next (if s.silent && allHubs.any (fun h => s.hubs[h].alive) then s.coldStart j else s) := by
  change execColdStartListenTimeout s = _
  unfold execColdStartListenTimeout
  rw [slot]
theorem exec_coldStartListenTimeout_none {s : State} (none_ : s.coldSlot = none) : exec .coldStartListenTimeout s = .next s := by
  change execColdStartListenTimeout s = _
  unfold execColdStartListenTimeout
  rw [none_]
theorem anyHub_iff (p : HubId → Bool) : allHubs.any p = true ↔ ∃ h, p h = true := by
  simp [allHubs]
/-- A hub that can take part counts the cycle that starts. -/
theorem State.coldStart_hub {s : State} {h : HubId} (j : Nat) (alive : s.hubs[h].alive = true) :
    let b := (s.coldStart j).hubs[h]
    b.bus.sset = s.params.startSet ∧ b.bus.cycle = s.bus.apCycle + 1 ∧ b.time.apGt = (s.coldStart j).bus.apGt ∧ b.bus.integ = .none := by
  unfold State.coldStart
  dsimp only
  rw [State.modHubs_at, if_pos alive]
  exact ⟨rfl, rfl, rfl, rfl⟩
/-- What CS_BACKOFF makes of the hubs and the module's bus side. -/
def State.backedOff (s : State) : State :=
  let s1 := s.modHubs fun _ H => if H.alive then { H with bus := { H.bus with tx := [] } } else H
  { s1 with bus := { s1.bus with
      coldStart := false, csAttempt := 0, csHeard := 0, csLost := false, csWaitUntil := some (s1.now + (1 + s1.bus.nodeId) * s1.tCs) } }
theorem exec_csBackoff (s : State) :
    exec .csBackoff s = .next (if s.backoffDue then s.backedOff.note EventCode.csBackoff [s.bus.nodeId] else s) := rfl
theorem State.backedOff_tx {s : State} {h : HubId} (alive : s.hubs[h].alive = true) : s.backedOff.hubs[h].bus.tx = [] := by
  unfold State.backedOff
  dsimp only
  rw [State.modHubs_at, if_pos alive]
/-- The hubs wait for the bus, and the silence is counted anew. -/
def State.backToListen (s : State) : State :=
  let s1 := s.modHubs fun _ H => if H.alive then { H with bus := { H.bus with integ := .acquire, acquired := false } } else H
  { s1 with bus := { s1.bus with csWaitUntil := none, lastValid := s1.now } }
theorem exec_csBackoffExpiry (s : State) :
    exec .csBackoffExpiry s = .next (if s.bus.csWaitUntil.any fun t => decide (t ≤ s.now) then s.backToListen else s) := rfl

end Sys2Proof.Machine

open Sys2Proof Sys2Proof.Machine

/-- Settles O53: a correction is that of the usable deviations, the steps of integration are `nextStep`'s, and a schedule change, a cold
start and a backoff end in one update each. -/
theorem hubsCorrectIntegrateAndColdStart : Obligations.HubsCorrectIntegrateAndColdStart := by
  unfold Obligations.HubsCorrectIntegrateAndColdStart
  refine ⟨fun h s => ⟨fun early => ?_, fun due => ?_⟩, fun h s => ⟨fun early => ?_, fun due => ?_⟩,
    fun s => ⟨exec_schedChanged_idle, fun c pending apart => exec_schedChanged_apart pending apart, fun c pending runs => ⟨fun waits => ?_, fun ended missing => ?_,
      fun ended all later => ?_⟩⟩,
    fun s => ⟨fun no => ?_, fun j slot silent some_ => ?_⟩, fun s => ⟨fun early => ?_, fun due => ?_, fun early => ?_, fun a waits due => ?_⟩⟩
  · rw [exec_clockCorrection, early, if_neg Bool.false_ne_true]
  · intro H vals
    rw [exec_clockCorrection, if_pos due]
    refine ⟨_, rfl, ?_⟩
    rcases Classical.em H.time.astray with astray | fit
    · obtain ⟨corrected, nval, none_, passive, counted, acquires⟩ := State.correctCycle_astray astray
      refine ⟨corrected, nval, State.correctCycle_diverged, fun _ _ => ⟨none_, passive, counted, acquires⟩, fun fit => absurd astray ?_⟩
      rintro ⟨three, half⟩
      have few : 2 * vals.length < H.time.devs.length := half
      omega
    · obtain ⟨time, -⟩ := State.correctCycle_corrects fit
      have offset := State.correctCycle_c fit
      refine ⟨by rw [time]; rfl, by rw [time]; rfl, State.correctCycle_diverged, fun three half => absurd ⟨three, half⟩ fit, fun _ =>
        ⟨fun few => State.correctCycle_noOffset fit (offsetOf_few few), fun x y z sorted => offset.trans (offsetOf_three sorted),
          fun more => offset.trans (offsetOf_more more), fun v w now prev => ?_, fun v now => ?_⟩⟩
      · obtain ⟨-, -, -, rate⟩ := State.correctCycle_offset fit (offset.symm.trans now)
        exact rate w prev
      · obtain ⟨slew, overRun, third, -⟩ := State.correctCycle_offset fit (offset.symm.trans now)
        exact ⟨slew, overRun, third⟩
  · rw [exec_integrationCycleEnd, early, if_neg Bool.false_ne_true]
  · obtain ⟨integ, repeats⟩ := s.integrationEnd_integ h
    rw [exec_integrationCycleEnd, if_pos due]
    refine ⟨_, rfl, fun step => ?_, fun step => ?_, fun step => ?_⟩
    · rw [integ, HubState.nextStep_acquire step]
    · rw [integ, HubState.nextStep_observe step]
    · obtain ⟨passes, fails⟩ := HubState.nextStep_synchronise step
      refine ⟨fun pass => ?_, fun fail third => ?_, fun fail fewer => ?_⟩
      · rw [integ, passes pass]
      · rw [integ, fails fail, if_pos third]
      · have again := (fails fail).trans (if_neg (by omega))
        rw [again] at integ repeats
        exact ⟨integ, repeats rfl⟩
  · rcases waits with more | ⟨all, early⟩
    · exact exec_schedChanged_open pending runs more
    · cases ended : s.answersOver c with
      | false => exact exec_schedChanged_open pending runs ended
      | true => rw [exec_schedChanged_agreed pending runs ended all, early, if_neg Bool.false_ne_true]
  · obtain ⟨n, e⟩ := exec_schedChanged_cancels pending runs ended missing
    exact ⟨_, e, s.cancelChange_reports [n]⟩
  · rw [exec_schedChanged_agreed pending runs ended all, if_pos later]
    refine ⟨_, rfl, ?_, ?_, s.changeSet_sset c.target, ?_, ?_⟩
    · rw [State.changeSet, State.note_bus]
    · rw [State.changeSet, State.note_bus]
    · rw [State.changeSet, State.note_lanes]; rfl
    · rw [State.changeSet, State.note_flash]; rfl
  · cases slot : s.coldSlot with
    | none => exact exec_coldStartListenTimeout_none slot
    | some j =>
      rw [exec_coldStartListenTimeout slot, if_neg]
      rw [Bool.and_eq_true, anyHub_iff]
      rintro ⟨silent, h, alive⟩
      rcases no with no | no | no
      · exact no j slot
      · rw [no] at silent; contradiction
      · rw [no h] at alive; contradiction
  · rw [exec_coldStartListenTimeout slot, if_pos (by rw [Bool.and_eq_true, anyHub_iff]; exact ⟨silent, some_⟩)]
    exact ⟨_, rfl, rfl, rfl, rfl, rfl, rfl, fun h alive => State.coldStart_hub j alive⟩
  · rw [exec_csBackoff, early, if_neg Bool.false_ne_true]
  · rw [exec_csBackoff, if_pos due]
    refine ⟨_, rfl, ?_, ?_, fun h alive => ?_⟩
    · rw [State.note_bus]; rfl
    · rw [State.note_bus]; rfl
    · rw [State.note_hubBus, State.backedOff_tx alive]
  · rw [exec_csBackoffExpiry, if_neg]
    cases waits : s.bus.csWaitUntil with
    | none => exact Bool.false_ne_true
    | some a =>
      have later := early a waits
      simpa using later
  · rw [exec_csBackoffExpiry, if_pos (by rw [waits]; exact decide_eq_true due)]
    exact ⟨_, rfl, rfl, rfl, fun h => by rw [State.backToListen, State.modHubs_at]⟩
end

