-- ==== Sys2Proof/Proofs/CheckValues.lean ====
section
/-!
PROOFS. The check-value unit of a lane (R297 to R303): what a write of its registers makes of it, idle and busy, the end of a DMA,
and the check values that octet after octet leaves in RESULT.
-/

namespace Sys2Proof.Machine

/-! ## A register of w bits holds what is folded into it (R297) -/

theorem crcBit_lt {w poly : Nat} (fits : poly < 2 ^ w) (reg : Nat) (b : Bool) : crcBit w poly reg b < 2 ^ w := by
  have shifted : (2 * reg) % 2 ^ w < 2 ^ w := Nat.mod_lt _ (Nat.two_pow_pos w)
  unfold crcBit
  dsimp only
  split
  · exact Nat.xor_lt_two_pow shifted fits
  · exact shifted
theorem crcOctet_lt {w poly : Nat} (fits : poly < 2 ^ w) (refin : Bool) {reg : Nat} (lt : reg < 2 ^ w) (d : Byte) :
    crcOctet w poly refin reg d < 2 ^ w :=
  List.foldlRecOn (motive := (· < 2 ^ w)) (octetBits refin d) (crcBit w poly) lt fun r _ b _ => crcBit_lt fits r b
theorem crcFold_lt {w poly : Nat} (fits : poly < 2 ^ w) (refin : Bool) {reg : Nat} (lt : reg < 2 ^ w) (bs : Bytes) :
    crcFold w poly refin reg bs < 2 ^ w :=
  List.foldlRecOn (motive := (· < 2 ^ w)) bs (crcOctet w poly refin) lt fun _ lt d _ => crcOctet_lt fits refin lt d

theorem Cvu.polynomial_lt (u : Cvu) (k : CvContext) : u.polynomial k < 2 ^ u.width k := by
  unfold Cvu.polynomial
  split_ifs with castagnoli ieee ccitt
  · simp [Cvu.width, castagnoli]
  · simp [Cvu.width, ieee]
  · simp [Cvu.width, ccitt]
  · exact Nat.mod_lt _ (Nat.two_pow_pos _)
/-- The contexts but the last have a polynomial of their own (R297). -/
theorem CvContext.atReset_fixed : ∀ i : Fin 4, i ≠ 3 → CvContext.atReset[i].poly ≠ 3 := by decide
theorem Cvu.width_le (u : Cvu) {k : CvContext} (fixed : k.poly ≠ 3) : u.width k ≤ 32 := by
  rw [Cvu.width, if_neg fixed]
  split <;> decide

/-! ## The running value -/

/-- The unit with another running value in the selected context. -/
def Cvu.withVal (u : Cvu) (n : Nat) : Cvu := u.modCur fun k => { k with val := BitVec.ofNat 32 n }

theorem Cvu.load_eq (u : Cvu) : u.load = u.withVal (u.cur.init.toNat % 2 ^ u.width u.cur) := rfl
theorem Cvu.fold_eq (u : Cvu) (bs : Bytes) :
    u.fold bs = u.withVal (crcFold (u.width u.cur) (u.polynomial u.cur) u.cur.refin (u.cur.val.toNat % 2 ^ u.width u.cur) bs) := rfl
@[simp] theorem Cvu.withVal_cur (u : Cvu) (n : Nat) : (u.withVal n).cur = { u.cur with val := BitVec.ofNat 32 n } := by
  simp [Cvu.withVal, Cvu.modCur, Cvu.cur]
@[simp] theorem Cvu.withVal_withVal (u : Cvu) (m n : Nat) : (u.withVal m).withVal n = u.withVal n := by
  simp [Cvu.withVal, Cvu.modCur, Cvu.cur]
theorem Cvu.withVal_held (u : Cvu) {n w : Nat} (narrow : w ≤ 32) (lt : n < 2 ^ w) : (u.withVal n).cur.val.toNat % 2 ^ w = n := by
  have word : n < 2 ^ 32 := Nat.lt_of_lt_of_le lt (Nat.pow_le_pow_right Nat.two_pos narrow)
  rw [Cvu.withVal_cur, BitVec.toNat_ofNat, Nat.mod_eq_of_lt word, Nat.mod_eq_of_lt lt]
theorem Cvu.withVal_fold (u : Cvu) {n : Nat} (narrow : u.width u.cur ≤ 32) (lt : n < 2 ^ u.width u.cur) (bs : Bytes) :
    (u.withVal n).fold bs = u.withVal (crcFold (u.width u.cur) (u.polynomial u.cur) u.cur.refin n bs) := by
  have width : (u.withVal n).width (u.withVal n).cur = u.width u.cur := by rw [Cvu.withVal_cur]; rfl
  have polynomial : (u.withVal n).polynomial (u.withVal n).cur = u.polynomial u.cur := by rw [Cvu.withVal_cur]; rfl
  rw [Cvu.fold_eq, Cvu.withVal_withVal, width, polynomial, Cvu.withVal_held u narrow lt, Cvu.withVal_cur]
theorem Cvu.withVal_result (u : Cvu) {n : Nat} (narrow : u.width u.cur ≤ 32) (lt : n < 2 ^ u.width u.cur) :
    (u.withVal n).result = BitVec.ofNat 32
      (((if u.cur.refout then reflect (u.width u.cur) n else n) ^^^ u.cur.xorout.toNat) % 2 ^ u.width u.cur) := by
  have width : (u.withVal n).width (u.withVal n).cur = u.width u.cur := by rw [Cvu.withVal_cur]; rfl
  unfold Cvu.result
  dsimp only
  rw [width, Cvu.withVal_held u narrow lt, Cvu.withVal_cur]

/-! ## RESULT from the reset configuration (R297, R303) -/

/-- What LOAD and a run of octets leave in the unit. -/
def Cvu.loaded (u : Cvu) (bs : Bytes) : Cvu :=
  u.withVal (crcFold (u.width u.cur) (u.polynomial u.cur) u.cur.refin (u.cur.init.toNat % 2 ^ u.width u.cur) bs)

theorem Cvu.loaded_result {u : Cvu} {k : CvContext} {w p : Nat} (cur : u.cur = k) (width : u.width k = w) (polynomial : u.polynomial k = p)
    (narrow : w ≤ 32) (bs : Bytes) : (u.loaded bs).result = BitVec.ofNat 32 (((if k.refout then reflect w (crcFold w p k.refin (k.init.toNat % 2 ^ w) bs)
      else crcFold w p k.refin (k.init.toNat % 2 ^ w) bs) ^^^ k.xorout.toNat) % 2 ^ w) := by
  subst cur width polynomial
  exact u.withVal_result narrow (crcFold_lt (u.polynomial_lt u.cur) _ (Nat.mod_lt _ (Nat.two_pow_pos _)) bs)
theorem Cvu.loaded_crc32c {u : Cvu} (cur : u.cur = CvContext.atReset[0]) (bs : Bytes) : (u.loaded bs).result = crc32c bs :=
  (Cvu.loaded_result cur rfl rfl le_rfl bs).trans (BitVec.eq_of_toNat_eq (Nat.mod_mod ..))
theorem Cvu.loaded_crc32 {u : Cvu} (cur : u.cur = CvContext.atReset[1]) (bs : Bytes) : (u.loaded bs).result = crc32 bs :=
  (Cvu.loaded_result cur rfl rfl le_rfl bs).trans (BitVec.eq_of_toNat_eq (Nat.mod_mod ..))
theorem Cvu.loaded_crc16 {u : Cvu} (cur : u.cur = CvContext.atReset[2]) (bs : Bytes) : (u.loaded bs).result = (crc16 bs).setWidth 32 := by
  rw [Cvu.loaded_result (w := 16) (p := 0x1021) cur rfl rfl (by decide)]
  change BitVec.ofNat 32 ((crcFold 16 0x1021 false 0xFFFF bs ^^^ 0) % 2 ^ 16) = _
  rw [Nat.xor_zero, ← BitVec.toNat_ofNat, BitVec.ofNat_toNat, crc16]

/-! ## The registers (R299 to R302) -/

/-- The octets of a word, lowest first (R302). -/
theorem toLe_four (d : DWord) : toLe 4 d.toNat = [d.setWidth 8, (d >>> 8).setWidth 8, (d >>> 16).setWidth 8, (d >>> 24).setWidth 8] := by
  have octet (k : Nat) : BitVec.ofNat 8 (d.toNat / 2 ^ k) = (d >>> k).setWidth 8 :=
    BitVec.eq_of_toNat_eq (by simp [Nat.shiftRight_eq_div_pow])
  calc toLe 4 d.toNat = [0, 8, 16, 24].map fun k => BitVec.ofNat 8 (d.toNat / 2 ^ k) := by simp [toLe, Nat.div_div_eq_div_mul]
    _ = [0, 8, 16, 24].map fun k => (d >>> k).setWidth 8 := List.map_congr_left fun k _ => octet k
    _ = _ := by simp
/-- A DMA begins for the lengths 1 to 4,096 alone (R302). -/
theorem Cvu.startDma_eq (u : Cvu) :
    u.startDma = if 1 ≤ u.dlen.toNat ∧ u.dlen.toNat ≤ 4096 then { u with busy := true } else { u with err := true } := by
  have zero : u.dlen = 0 ↔ u.dlen.toNat = 0 := BitVec.toNat_inj.symm
  unfold Cvu.startDma
  by_cases h : 1 ≤ u.dlen.toNat ∧ u.dlen.toNat ≤ 4096
  · rw [if_neg (by rw [zero]; omega), if_pos h]
  · rw [if_pos (by rw [zero]; omega), if_neg h]
theorem Cvu.write_busy {u : Cvu} (busy : u.busy = true) (off : Nat) (v : DWord) : u.write off v = { u with err := true } := if_pos busy
theorem Cvu.write_width {u : Cvu} (idle : u.busy = false) (v : DWord) : u.write 0x18 v =
    if v.toNat % 64 < 8 ∨ 32 < v.toNat % 64 then { u with err := true } else { u with uwid := v.setWidth 6 } := by
  rw [Cvu.write, Cvu.unlessBusy, idle]
  rfl

/-! ## The unit in its lane -/

/-- The state with another unit in a lane. -/
def State.putCvu (s : State) (l : LaneId) (v : Cvu) : State := { s with lanes := s.lanes.set l { s.lanes[l] with cvu := v } }
/-- A lane's core runs. -/
def State.laneRuns (s : State) (l : LaneId) : Prop := s.lanes[l].st ≠ .lost ∧ s.lanes[l].st ≠ .resting

theorem State.putCvu_lane (s : State) (l : LaneId) (v : Cvu) : (s.putCvu l v).lanes[l] = { s.lanes[l] with cvu := v } :=
  State.modLane_same s l fun L => { L with cvu := v }
theorem State.putCvu_putCvu (s : State) (l : LaneId) (v w : Cvu) : (s.putCvu l v).putCvu l w = s.putCvu l w := by
  rw [State.putCvu, State.putCvu_lane]
  simp [State.putCvu]
theorem State.laneRuns.putCvu {s : State} {l : LaneId} (runs : s.laneRuns l) (v : Cvu) : (s.putCvu l v).laneRuns l := by
  rw [State.laneRuns, State.putCvu_lane]
  exact runs
theorem State.modCvu_runs {s : State} {l : LaneId} (runs : s.laneRuns l) (f : Cvu → Cvu) : s.modCvu l f = s.putCvu l (f s.lanes[l].cvu) := by
  have awake : ¬(s.lanes[l].st == .lost || s.lanes[l].st == .resting) = true := by simpa [State.laneRuns] using runs
  rw [State.modCvu, State.modLane, if_neg awake]
  rfl
theorem State.modCvu_busy {s : State} {l : LaneId} (runs : s.laneRuns l) (busy : s.lanes[l].cvu.busy = true) (f : Cvu → Cvu) :
    s.modCvu l (fun u => u.unlessBusy f) = s.putCvu l { s.lanes[l].cvu with err := true } := by
  rw [State.modCvu_runs runs, Cvu.unlessBusy, if_pos busy]
theorem State.modCvu_idle {s : State} {l : LaneId} (runs : s.laneRuns l) (idle : s.lanes[l].cvu.busy = false) (f : Cvu → Cvu) :
    s.modCvu l (fun u => u.unlessBusy f) = s.putCvu l (f s.lanes[l].cvu) := by
  rw [State.modCvu_runs runs, Cvu.unlessBusy, idle, if_neg Bool.false_ne_true]

/-! ## The commands -/

theorem exec_cvLoad (l : LaneId) (s : State) : exec (.cvLoad l) s = .next (s.modCvu l fun u => u.unlessBusy Cvu.load) := rfl
theorem exec_cvWrite {s : State} {l : LaneId} (runs : s.laneRuns l) (off : Nat) (v : DWord) :
    exec (.registerWrite (.cvu l off v)) s = .next (s.putCvu l (s.lanes[l].cvu.write off v)) :=
  congrArg Host.Outcome.next (State.modCvu_runs runs fun u => u.write off v)

/-- One octet more, while the commands answer with a next state. -/
def feedCv (l : LaneId) (o : Option State) (d : Byte) : Option State := o.bind fun x => match exec (.cvData8 l d) x with
  | .next y => some y
  | _ => none
theorem feedCv_withVal {s : State} {l : LaneId} {u : Cvu} (runs : s.laneRuns l) (idle : u.busy = false) (narrow : u.width u.cur ≤ 32) {n : Nat}
    (lt : n < 2 ^ u.width u.cur) (d : Byte) : feedCv l (some (s.putCvu l (u.withVal n))) d =
      some (s.putCvu l (u.withVal (crcOctet (u.width u.cur) (u.polynomial u.cur) u.cur.refin n d))) := by
  have unit : (s.putCvu l (u.withVal n)).lanes[l].cvu = u.withVal n := by rw [State.putCvu_lane]
  have folded : (u.withVal n).fold [d] = u.withVal (crcOctet (u.width u.cur) (u.polynomial u.cur) u.cur.refin n d) := u.withVal_fold narrow lt [d]
  have next := State.modCvu_idle (runs.putCvu (u.withVal n)) ((congrArg Cvu.busy unit).trans idle) fun v => v.fold [d]
  rw [unit, folded, State.putCvu_putCvu] at next
  exact congrArg some next
/-- Octet after octet is the run of octets. -/
theorem feedCv_foldl {s : State} {l : LaneId} {u : Cvu} (runs : s.laneRuns l) (idle : u.busy = false) (narrow : u.width u.cur ≤ 32) (bs : Bytes) {n : Nat}
    (lt : n < 2 ^ u.width u.cur) : bs.foldl (feedCv l) (some (s.putCvu l (u.withVal n))) =
      some (s.putCvu l (u.withVal (crcFold (u.width u.cur) (u.polynomial u.cur) u.cur.refin n bs))) := by
  induction bs generalizing n with
  | nil => rfl
  | cons d bs ih =>
    rw [List.foldl_cons, feedCv_withVal runs idle narrow lt, ih (crcOctet_lt (u.polynomial_lt u.cur) _ lt d)]
    rfl
theorem feedCv_loaded {s a t : State} {l : LaneId} {bs : Bytes} (runs : s.laneRuns l) (idle : s.lanes[l].cvu.busy = false)
    (narrow : s.lanes[l].cvu.width s.lanes[l].cvu.cur ≤ 32) (load : exec (.cvLoad l) s = .next a) (feed : bs.foldl (feedCv l) (some a) = some t) :
    t.lanes[l].cvu = s.lanes[l].cvu.loaded bs := by
  rw [exec_cvLoad, State.modCvu_idle runs idle, Cvu.load_eq] at load
  rw [← Host.Outcome.next.inj load, feedCv_foldl runs idle narrow bs (Nat.mod_lt _ (Nat.two_pow_pos _))] at feed
  rw [← Option.some.inj feed, State.putCvu_lane]
  rfl

/-! ## The end of a DMA (R298) -/

/-- Octets within the SRAM are its own. -/
theorem dmaOctets_inside {L : LaneState} (inside : L.cvu.daddr.toNat + L.cvu.dlen.toNat ≤ 2 ^ 20) (fresh : Nat) :
    dmaOctets L fresh = Memory.readRun L.sram L.cvu.daddr.toNat L.cvu.dlen.toNat := by
  refine List.map_congr_left fun i mem => ?_
  have lt : i < L.cvu.dlen.toNat := List.mem_range.1 mem
  exact if_pos (by omega)
/-- The unit after a fold that an uncorrectable error ended: the running value is free. -/
def Cvu.dmaFailed (u : Cvu) (v : DWord) : Cvu := { (u.modCur fun k => { k with val := v }) with busy := false, err := true, ecc := true }
theorem Cvu.dmaFailed_other (u : Cvu) (v : DWord) {j : Fin 4} (other : j ≠ u.sel) : (u.dmaFailed v).ctx[j] = u.ctx[j] :=
  Vector.getElem_set_ne u.sel.isLt j.isLt fun e => other (Fin.ext e.symm)
theorem exec_cvDmaDone_idle {s : State} {l : LaneId} (idle : s.lanes[l].cvu.busy = false) (e : Option Nat) : exec (.cvDmaDone l e) s = .next s := by
  change execCvDmaDone l e s = _
  rw [execCvDmaDone.eq_def, idle, if_neg Bool.false_ne_true]
theorem exec_cvDmaDone_good {s : State} {l : LaneId} (busy : s.lanes[l].cvu.busy = true) : exec (.cvDmaDone l none) s =
    .next ((s.putCvu l { s.lanes[l].cvu.fold (dmaOctets s.lanes[l] s.fresh) with busy := false }).useFree s.lanes[l].cvu.dlen.toNat) := by
  change execCvDmaDone l none s = _
  rw [execCvDmaDone.eq_def, if_pos busy]
  rfl
theorem exec_cvDmaDone_failed {s : State} {l : LaneId} (busy : s.lanes[l].cvu.busy = true) (e : Nat) :
    exec (.cvDmaDone l (some e)) s = .next (s.free.2.putCvu l (s.lanes[l].cvu.dmaFailed s.free.1)) := by
  change execCvDmaDone l (some e) s = _
  rw [execCvDmaDone.eq_def, if_pos busy]
  rfl
theorem State.putCvu_other (s : State) {l j : LaneId} (v : Cvu) (other : j ≠ l) : (s.putCvu l v).lanes[j] = s.lanes[j] :=
  State.modLane_other s l (fun L => { L with cvu := v }) j other

end Sys2Proof.Machine

open Sys2Proof Sys2Proof.Machine

/-- Settles O56: idle, a write is an update of the unit alone, busy, it sets ERR; octets fold into a register of the context's width, so
that one after another gives the check value of the run. -/
theorem checkValuesAreCrcs : Obligations.CheckValuesAreCrcs := by
  unfold Obligations.CheckValuesAreCrcs
  intro l s alive awake u k put val
  have runs : s.laneRuns l := ⟨alive, awake⟩
  refine ⟨fun busy => ?_, fun idle => ?_, fun busy => ⟨?_, fun e => ?_⟩⟩
  · have refused (f : Cvu → Cvu) :
        (.next (s.modCvu l fun u => u.unlessBusy f) : Host.Outcome State Fault Refusal) = .next (put { u with err := true }) :=
      congrArg Host.Outcome.next (State.modCvu_busy runs busy f)
    refine ⟨refused _, refused _, refused _, fun d => refused _, fun d => refused _, fun off v => ?_⟩
    rw [exec_cvWrite runs, Cvu.write_busy busy]
    rfl
  · have does (f : Cvu → Cvu) : (.next (s.modCvu l fun u => u.unlessBusy f) : Host.Outcome State Fault Refusal) = .next (put (f u)) :=
      congrArg Host.Outcome.next (State.modCvu_idle runs idle f)
    have writes (off : Nat) (v : DWord) {w : Cvu} (h : u.write off v = w) : exec (.registerWrite (.cvu l off v)) s = .next (put w) :=
      h ▸ exec_cvWrite runs off v
    refine ⟨does _, fun d => does _, fun d => ?_, ?_, ?_, fun e => exec_cvDmaDone_idle idle e, fun v => ⟨?_, ?_, ?_, ?_, ?_, fun bad => ?_, fun low high => ?_⟩,
      fun i bs a t sel reset load feed => ?_⟩
    · rw [← toLe_four]
      exact does _
    · have octets := congrArg₂ (· ++ ·) (toLe_four u.imp0) (toLe_four u.imp1)
      exact (does _).trans (congrArg (fun bs => Host.Outcome.next (put (u.fold bs))) octets)
    · rw [← Cvu.startDma_eq]
      exact does _
    iterate 5 exact writes _ v (if_neg (by rw [idle]; exact Bool.false_ne_true))
    · exact writes _ v ((Cvu.write_width idle v).trans (if_pos bad))
    · exact writes _ v ((Cvu.write_width idle v).trans (if_neg (by omega)))
    · have cur : u.cur = CvContext.atReset[i] := reset
      have result (named : i ≠ 3) : t.lanes[l].cvu.result = (u.loaded bs).result :=
        congrArg Cvu.result (feedCv_loaded runs idle (u.width_le (cur ▸ CvContext.atReset_fixed i named)) load feed)
      refine ⟨?_, ?_, ?_⟩ <;> rintro rfl
      · exact (result (by decide)).trans (Cvu.loaded_crc32c cur bs)
      · exact (result (by decide)).trans (Cvu.loaded_crc32 cur bs)
      · exact (result (by decide)).trans (Cvu.loaded_crc16 cur bs)
  · refine ⟨_, exec_cvDmaDone_good busy, rfl, fun j other => s.putCvu_other _ other, ?_, fun inside => ?_⟩
    · exact (s.putCvu_lane l _).trans (by rw [State.useFree, State.putCvu_lane]; rfl)
    · rw [State.useFree, State.putCvu_lane, dmaOctets_inside inside]
      rfl
  · have lane := s.free.2.putCvu_lane l (u.dmaFailed s.free.1)
    refine ⟨_, exec_cvDmaDone_failed busy e, rfl, fun j other => s.free.2.putCvu_other _ other, ?_, fun j other => ?_⟩
    · rw [lane]
      rfl
    · rw [lane]
      exact u.dmaFailed_other _ other
end

section
/-!
PROOFS. The memories stay canonical (R299, R305, notes/assumptions/5.md): whatever command is at the front keeps their form, and so
does what passes on an empty queue.
-/

namespace Sys2Proof.Machine

/-- The waiting commands are no part of a memory. -/
theorem State.memOk_pending {s : State} (h : s.memOk) (rest : List Instr) : ({ s with pending := rest } : State).memOk := h
/-- Whatever command answers next, the memories are canonical after it. -/
theorem exec_memOk {i : Instr} {s t : State} (h : s.memOk) (e : exec i s = .next t) : t.memOk := by
  obtain ⟨u, answers, kept⟩ := exec_kept i s
  obtain rfl : u = t := Host.Outcome.next.inj (answers.symm.trans e)
  exact kept.mem h

end Sys2Proof.Machine

open Sys2Proof Sys2Proof.Machine

/-- Settles O3: the front command keeps the form of the memories, and on an empty queue the tick and what the lanes evaluate at it do. -/
theorem memoriesStayCanonical : Obligations.MemoriesStayCanonical := by
  unfold Obligations.MemoriesStayCanonical
  intro s t canonical e
  unfold step at e
  split at e
  case h_1 =>
    rw [← Host.Outcome.next.inj e]
    exact State.pass_memOk canonical
  case h_2 c rest _ => exact exec_memOk (State.memOk_pending canonical rest) e
end

section
/-!
PROOFS. The commands that each lane answers for itself (R313, R343, R350, R361, R366, R509): each lane reads as the command left the module,
and its answer on the way touches of the hubs their queue memory alone.
-/

namespace Sys2Proof.Machine

/-! ## An answer on its way -/

theorem State.placeMsg_hubs (s : State) (q : RingId) (m : OutMsg) : HubsButQmem s (s.placeMsg q m) := s.putMsg_hubs q m.octets
theorem State.placeResp_hubs (s : State) (q : RingId) (m : OutMsg) : HubsButQmem s (s.placeResp q m) := by
  unfold State.placeResp
  dsimp only
  split
  · split <;> exact s.placeMsg_hubs q m
  · exact s.placeMsg_hubs q m
theorem State.forward_hubs (s : State) (t : Txn) (os : Bytes) (b : Bool) : HubsButQmem s (s.forward t os b) := by
  unfold State.forward
  extract_lets q s1 m r
  have marked : HubsButQmem s s1 := by unfold s1; split <;> exact HubsButQmem.refl s
  split
  · exact marked.trans (s1.placeResp_hubs q m)
  · exact marked
theorem State.sendLspec_hubs (s : State) (n : Nat) (l : LaneId) (r : Reply) : HubsButQmem s (s.sendLspec n l r) := by
  unfold State.sendLspec
  split
  · exact HubsButQmem.refl s
  · dsimp only
    split
    · exact HubsButQmem.refl s
    · exact State.forward_hubs (s.modTxn n _) _ _ _
theorem State.handOver_hubs (s : State) (l : LaneId) (n : Nat) : HubsButQmem s (s.handOver l n) := by
  unfold State.handOver
  extract_lets s1
  split
  · exact HubsButQmem.refl s
  · split
    · split
      · exact s1.sendLspec_hubs n l _
      · rename_i f _ found
        dsimp only
        rw [laneOp_state found]
        exact s1.sendLspec_hubs n l _
      · exact HubsButQmem.refl s
    · split <;> exact HubsButQmem.refl s

/-! ## A lane's turn -/

/-- A lane marks a transaction as started. -/
def State.startedBy (s : State) (l : LaneId) (n : Nat) : State := s.modTxn n fun t => { t with started := t.started ||| only l }

/-- A lane reads for its answer as it starts the transaction. -/
theorem State.handOver_own {s : State} {l : LaneId} {n : Nat} {t : Txn} {f : Cmd → LaneId → State → State × Reply}
    (found : (s.startedBy l n).txn n = some t) (own : t.lspec = true) (unknown : t.outcome = none) (hf : laneOp (msgOp t.octets) = some f) :
    s.handOver l n = (s.startedBy l n).sendLspec n l (f t.cmd l (s.startedBy l n)).2 := by
  have reads : s.handOver l n = (f t.cmd l (s.startedBy l n)).1.sendLspec n l (f t.cmd l (s.startedBy l n)).2 := by
    unfold State.handOver
    dsimp only
    rw [← State.startedBy, found]
    dsimp only
    rw [if_pos own, unknown, hf]
  rw [reads, laneOp_state hf]
/-- What a lane sends of its own reaches the response ring of the source, or waits behind it. -/
theorem Holds.ownSent {s : State} {n : Nat} {t : Txn} (found : s.txn n = some t) (open_ : t.done = false) (up : s.mailUp = true) (l : LaneId) (r : Reply) :
    Holds (s.sendLspec n l r) (respRing t.src) (laneResponse t.octets r l (!s.allStarted t)) := by
  have octets : t.message r (16 + 32 * l.val + if s.allStarted t then 0 else 8) = laneResponse t.octets r l (!s.allStarted t) := by
    unfold Txn.message laneResponse
    cases s.allStarted t <;> rfl
  unfold State.sendLspec
  rw [found]
  dsimp only
  rw [if_neg (by rw [open_, up]; exact Bool.false_ne_true), octets]
  exact Holds.forwarded ..

section
variable {s0 s : State} {c : MailCmd} {op n : Nat} {l : LaneId} {ls : List LaneId}

/-- The transaction as the lane whose turn it is starts it: of the lanes in the vote those of the list have still to start it. -/
theorem LaneTurn.starts (h : LaneTurn s0 s c op n (l :: ls)) (hd : (l :: ls).Nodup) :
    ∃ t, (s.startedBy l n).txn n = some t ∧ t.src = c.src ∧ t.octets = cmdOctets c op ∧ t.outcome = none ∧ t.done = false ∧
      t.cmd = { src := c.src, ring := c.ring, num := n, tag := c.tag, p := c.payload } ∧ (s.startedBy l n).allStarted t = ls.isEmpty := by
  obtain ⟨-, -, t, one, num, src, ring, octets, outcome, done, rest, all⟩ := h
  have started (k : LaneId) : has (t.started ||| Sys2Proof.Machine.only l) k = (has t.started k || decide (l = k)) := has_or_only ..
  refine ⟨{ t with started := t.started ||| Sys2Proof.Machine.only l }, by simp [State.txn, State.startedBy, State.modTxn, one, num], src, octets, outcome, done,
    by simp [Txn.cmd, num, src, ring, octets, cmdOctets_tag, cmdOctets_drop], ?_⟩
  cases ls with
  | nil =>
    refine all_started fun k active => ?_
    rw [started]
    rcases all k active with mem | already
    · simp [List.mem_singleton.1 mem]
    · simp [already]
  | cons k _ =>
    obtain ⟨active, unstarted⟩ := rest k (List.mem_cons_of_mem _ List.mem_cons_self)
    have other : l ≠ k := fun e => (List.nodup_cons.1 hd).1 (e ▸ List.mem_cons_self)
    exact not_allStarted (s := s.startedBy l n) active (by rw [started, unstarted, decide_eq_false other]; rfl)

/-- Every lane in turn reads as the hubs were but for their queue memory. -/
theorem LaneTurn.each_hubs (h : LaneTurn s0 s c op n ls) (hubs : HubsButQmem s0 s) (hd : ls.Nodup) {f : Cmd → LaneId → State → State × Reply}
    (hf : laneOp op = some f) (hop : msgOp (cmdOctets c op) = op) (q : RingId) :
    ∀ l ∈ ls, ∃ u, MailOnly s0 u ∧ HubsButQmem s0 u ∧ Holds (s.each ls fun u l => (u.handOver l n).passTurn l q) (respRing c.src)
      (laneResponse (cmdOctets c op) (f { src := c.src, ring := c.ring, num := n, tag := c.tag, p := c.payload } l u).2 l (decide (ls.getLast? ≠ some l))) := by
  have own : (opInfo (msgOp (cmdOctets c op))).any (·.lspec) = true := by rw [hop]; exact (laneOp_lspec hf).1
  induction ls generalizing s with
  | nil => exact fun l mem => nomatch mem
  | cons k r ih =>
    obtain ⟨unlisted, nodup⟩ := List.nodup_cons.1 hd
    have next := (h.step hd hf own hop).2
    intro l mem
    rcases List.mem_cons.1 mem with rfl | later
    · obtain ⟨t, found, src, octets, unknown, open_, cmd, last⟩ := h.starts hd
      have sent : decide ((l :: r).getLast? ≠ some l) = !r.isEmpty := by
        cases r with
        | nil => simp
        | cons a b =>
          rw [List.getLast?_cons_cons]
          exact decide_eq_true fun e => unlisted (List.mem_of_getLast? e)
      have answered := Holds.ownSent found open_ h.still l (f t.cmd l (s.startedBy l n)).2
      rw [← State.handOver_own found (by rw [Txn.lspec, octets]; exact own) unknown (by rw [octets, hop]; exact hf), src, octets, cmd, last, ← sent] at answered
      exact ⟨s.startedBy l n, h.only.modTxn n _, hubs, Holds.each (s := (s.handOver l n).passTurn l q) (answered.rings rfl) n q r⟩
    · have last : (k :: r).getLast? = r.getLast? := by
        cases r with
        | nil => cases later
        | cons a b => exact List.getLast?_cons_cons
      rw [last]
      exact ih ((next (List.ne_nil_of_mem later)).passTurn k q) (hubs.trans (s.handOver_hubs k n)) nodup l later

end

/-! ## What a lane reads of the hubs -/

theorem groupAt_val (g : GroupId) : groupAt g.val = some g := dif_pos g.isLt
theorem chanAt_val (i : Chan) : chanAt i.val = some i := dif_pos i.isLt
theorem hubAt_val : ∀ h : HubId, hubAt h.val = some h := by decide

section
variable {s u : State}

theorem agreeButMail.timeWord (same : agreeButMail s u) (h : HubId) (a : Nat) : u.timeWord h a = s.timeWord h a := by
  have params : u.params = s.params := same.field State.params fun _ _ _ => rfl
  have bus : u.bus = s.bus := same.field (·.bus) fun _ _ _ => rfl
  have stands (i : Nat) : u.stands FaultCode.hubTime [i] = s.stands FaultCode.hubTime [i] := same.field (·.stands FaultCode.hubTime [i]) fun _ _ _ => rfl
  have dev (i : Nat) : u.devWord h i = s.devWord h i := by
    unfold State.devWord
    rw [same.2 h, params, bus]
    rfl
  have timed : u.timed h = s.timed h := by
    unfold State.timed
    rw [same.2 h, bus]
    rfl
  unfold State.timeWord
  rw [timed, dev, stands, stands, bus, same.2 h]
  rfl
theorem agreeButMail.testWord (same : agreeButMail s u) (a : Nat) : u.testWord a = s.testWord a := by
  have slice (h : HubId) (o : Nat) : u.sliceWord h o = s.sliceWord h o := by
    have now : u.now = s.now := same.field (·.now) fun _ _ _ => rfl
    have mode : u.mode = s.mode := same.field (·.mode) fun _ _ _ => rfl
    unfold State.sliceWord
    rw [same.2 h, now, mode]
    rfl
  have lbist (l : LaneId) (o : Nat) : u.lbistWord l o = s.lbistWord l o := same.field (·.lbistWord l o) fun _ _ _ => rfl
  have stat : u.copStat = s.copStat := same.field State.copStat fun _ _ _ => rfl
  have next : u.copNextMs = s.copNextMs := same.field State.copNextMs fun _ _ _ => rfl
  have coppice : u.coppice = s.coppice := same.field (·.coppice) fun _ _ _ => rfl
  unfold State.testWord
  simp only [slice, lbist, stat, next, coppice]
theorem HubsButQmem.busWord (hubs : HubsButQmem s u) (params : u.params = s.params) (bus : u.bus = s.bus) (h : HubId) (a : Nat) :
    u.busWord h a = s.busWord h a := by
  have integrated : u.integrated = s.integrated := congrArg (List.any allHubs) (funext fun k => by rw [hubs k]; rfl)
  unfold State.busWord State.claimInUse State.slotInUse
  rw [integrated, params, bus, hubs.bus h]

end

/-! ## The operations -/

section
variable {c : Cmd} (l : LaneId) (u : State)

theorem opAuxRead_group {g : GroupId} (named : leAt c.p 0 1 = g.val) (zero : octet c.p 1 = 0) : (opAuxRead c l u).2 =
    okReply (u.fe[g].aux.res.toList.flatMap (fun r => toLe 6 r.value) ++ toLe 2 u.fe[g].auxStat ++ toLe 2 u.fe[g].auxCtrl ++ toLe 2 u.fe[g].aux.sel.toNat ++
      toLe 4 u.groups[g].feed.periodLen ++ toLe 2 u.groups[g].feed.periodSeq.toNat ++ toLe 2 u.groups[g].feed.flagsWord) := by
  unfold opAuxRead
  rw [if_neg (not_not.2 zero), named, groupAt_val]
theorem opProbeRead_chan {i : Chan} (named : leAt c.p 0 1 = i.val) (zero : octet c.p 1 = 0) : (opProbeRead c l u).2 = okReply (u.probeOctets l i) := by
  unfold opProbeRead
  rw [if_neg (not_not.2 zero), named, chanAt_val]
theorem opBusRead_hub {h : HubId} (named : leAt c.p 0 1 = h.val) (zero : octet c.p 1 = 0) :
    (opBusRead c l u).2 = okReply (wordOctets (u.busWord h) 0x500 2 ++ wordOctets (u.busWord h) 0x510 28) := by
  unfold opBusRead
  rw [if_neg (not_not.2 zero), named, hubAt_val]
theorem opTimeRead_hub {h : HubId} (named : leAt c.p 0 1 = h.val) (zero : octet c.p 1 = 0) :
    (opTimeRead c l u).2 = okReply (wordOctets (u.timeWord h) 0x400 17 ++ wordOctets (u.timeWord h) 0x420 8) := by
  unfold opTimeRead
  rw [if_neg (not_not.2 zero), named, hubAt_val]

end

/-! ## The commands as they arrive -/

section
variable {s : State} {c : MailCmd} {op : Nat} {f : Cmd → LaneId → State → State × Reply}

/-- An admitted command that each lane answers for itself is answered by every lane in the vote with what it reads as the command has been
stored, and leaves of the hubs all but their queue memory as the store left it. -/
theorem accept_lanes_hubs (h : s.Admits c op) (hf : laneOp op = some f) :
    HubsButQmem (s.taken c op) (s.accept c op) ∧
    ∀ l ∈ s.activeLanes, ∃ u, MailOnly (s.taken c op) u ∧ HubsButQmem (s.taken c op) u ∧ Holds (s.accept c op) (respRing c.src)
      (laneResponse (cmdOctets c op) (f (cmdAs c s) l u).2 l (decide (s.activeLanes.getLast? ≠ some l))) := by
  obtain ⟨i, known, -⟩ := h.row
  have turn : LaneTurn (s.taken c op) (s.taken c op) c op s.mail.nextNum s.activeLanes := by
    refine ⟨MailOnly.refl _, (mailUp_of_only (MailOnly.stored s c op)).trans h.up, _, taken_txns s c op, rfl, rfl, rfl, rfl, rfl, rfl, fun k mem => ⟨?_, ?_⟩,
      fun k active => .inl (List.mem_filter.2 ⟨List.mem_finRange k, ?_⟩)⟩
    · rw [State.active, taken_lanes]
      exact (List.mem_filter.1 mem).2
    · simp [State.newTxn, has]
    · rw [State.active, taken_lanes] at active
      exact active
  rw [accept_admitted h, judge_lane h (laneOp_lspec hf).2]
  refine ⟨HubsButQmem.each (f := fun u l => (u.handOver l s.mail.nextNum).passTurn l c.ring) (fun u l => u.handOver_hubs l _) s.activeLanes (s.taken c op), fun l mem => ?_⟩
  obtain ⟨u, only_, hubs, answered⟩ :=
    turn.each_hubs (HubsButQmem.refl _) (allLanes_nodup.filter _) hf (cmdOctets_msgOp c (opInfo_bound known).1) c.ring l mem
  exact ⟨u, only_, hubs, answered.freeRing c.ring⟩
theorem State.Admits.lanesAgree (h : s.Admits c op) (hf : laneOp op = some f) : agreeButMail s (s.accept c op) :=
  (s.taken_agrees c op).of_mailOnly (accept_lanes h hf).1
/-- Where what a lane reads rests on nothing that the mailbox path touches but the counts of dropped segments, it is the same once the
command has been answered. -/
theorem State.Admits.lanesAnswer (h : s.Admits c op) (hf : laneOp op = some f) {r : LaneId → Reply}
    (reads : ∀ l u, agreeButMail s u → HubsButQmem u (s.accept c op) → (f (cmdAs c s) l u).2 = r l) :
    s.LanesAnswer (s.accept c op) c op r ∧ agreeButMail s (s.accept c op) := by
  obtain ⟨hubs, answers⟩ := accept_lanes_hubs h hf
  refine ⟨fun l mem => ?_, h.lanesAgree hf⟩
  obtain ⟨u, only_, same, answered⟩ := answers l mem
  rw [reads l u ((s.taken_agrees c op).of_mailOnly only_) fun k => by rw [hubs k, same k]] at answered
  exact answered

end

end Sys2Proof.Machine

open Sys2Proof Sys2Proof.Machine

/-- Settles O36: each lane's answer is read from what the mailbox path leaves alone; for BUS_READ the count of dropped segments is that of
the command's own arrival, which no answer changes. -/
theorem laneReadsAnswerForEachLane : Obligations.LaneReadsAnswerForEachLane := by
  unfold Obligations.LaneReadsAnswerForEachLane
  refine ⟨fun c s h => ?_, fun c s h => ?_, fun c s h => ?_, fun c g s h named zero => ?_, fun c i s h named zero => ?_, fun c k s h named zero => ?_,
    fun c s h => ?_, fun c k s h named zero => ?_⟩
  · exact ⟨_, rfl, h.lanesAnswer rfl fun l u same _ => same.field (fun u => okReply u.lanes[l].countOctets) fun _ _ _ => rfl⟩
  · exact ⟨_, rfl, h.lanesAnswer rfl fun l u same _ => same.field (fun u => okReply (u.otp.chipOctets l)) fun _ _ _ => rfl⟩
  · exact ⟨_, rfl, (h.lanesAnswer rfl fun l u same _ => same.field (fun u => (opMeasRead (cmdAs c s) l u).2) fun _ _ _ => rfl).symm⟩
  · refine ⟨_, rfl, (h.lanesAnswer rfl fun l u same _ => ?_).symm⟩
    rw [same.field (fun u => (opAuxRead (cmdAs c s) l u).2) fun _ _ _ => rfl, opAuxRead_group l s named zero]
  · refine ⟨_, rfl, h.lanesAnswer rfl fun l u same _ => ?_⟩
    rw [opProbeRead_chan l u named zero, same.field (·.probeOctets l i) fun _ _ _ => rfl]
  · refine ⟨_, rfl, (h.lanesAnswer rfl fun l u same hubs => ?_).symm⟩
    have after : agreeButMail s (s.accept c 0x0500) := h.lanesAgree rfl
    have words : (s.accept c 0x0500).busWord k = u.busWord k := funext fun a => hubs.busWord
      ((after.field State.params fun _ _ _ => rfl).trans (same.field State.params fun _ _ _ => rfl).symm)
      ((after.field (·.bus) fun _ _ _ => rfl).trans (same.field (·.bus) fun _ _ _ => rfl).symm) k a
    rw [opBusRead_hub l u named zero, words]
  · refine ⟨_, rfl, h.lanesAnswer rfl fun l u same _ => ?_⟩
    exact congrArg (fun w => okReply (wordOctets w 0x2000 96)) (funext same.testWord)
  · refine ⟨_, rfl, (h.lanesAnswer rfl fun l u same _ => ?_).symm⟩
    rw [opTimeRead_hub l u named zero, show u.timeWord k = s.timeWord k from funext (same.timeWord k)]
end

section
/-!
PROOFS. Responses and their vote (R311 to R314): a response is forwarded once, what waits enters its ring in order, and a lane that starts a
judged command hands its answer over.
-/

namespace Sys2Proof.Machine

/-! ## Transactions -/

/-- Every transaction of a number is done. -/
def State.Done (s : State) (n : Nat) : Prop := ∀ y ∈ s.mail.txns, y.num = n → y.done = true

theorem State.mem_modTxn {s : State} {n : Nat} {f : Txn → Txn} {y : Txn} :
    y ∈ (s.modTxn n f).mail.txns ↔ ∃ z ∈ s.mail.txns, (if z.num == n then f z else z) = y := List.mem_map
theorem State.txn_modTxn (s : State) (n : Nat) {f : Txn → Txn} (same : ∀ y, (f y).num = y.num) : (s.modTxn n f).txn n = (s.txn n).map f := by
  unfold State.txn State.modTxn
  dsimp only
  induction s.mail.txns with
  | nil => rfl
  | cons y ys ih =>
    by_cases h : (y.num == n) = true
    · have found : ((f y).num == n) = true := by rw [same]; exact h
      rw [List.map_cons, if_pos h, List.find?_cons, found, List.find?_cons, h]
      rfl
    · rw [List.map_cons, if_neg h, List.find?_cons, Bool.eq_false_of_not_eq_true h, List.find?_cons, Bool.eq_false_of_not_eq_true h]
      exact ih
/-- With numbers that differ, each transaction is the one of its number. -/
theorem State.txn_of_mem {s : State} {x : Txn} (nodup : (s.mail.txns.map (·.num)).Nodup) (mem : x ∈ s.mail.txns) : s.txn x.num = some x := by
  unfold State.txn
  generalize s.mail.txns = ts at nodup mem
  induction ts with
  | nil => cases mem
  | cons y ys ih =>
    obtain ⟨unlisted, rest⟩ := List.nodup_cons.1 nodup
    rcases List.mem_cons.1 mem with rfl | later
    · exact List.find?_cons_of_pos (beq_self_eq_true _)
    · have other : y.num ≠ x.num := fun e => unlisted (List.mem_map.2 ⟨x, later, e.symm⟩)
      rw [List.find?_cons_of_neg (by simpa using other)]
      exact ih rest later
theorem State.txn_num {s : State} {n : Nat} {x : Txn} (found : s.txn n = some x) : x.num = n := by
  simpa using List.find?_some found

theorem State.Done.modTxn {s : State} {n : Nat} (h : s.Done n) (k : Nat) {f : Txn → Txn} (hf : ∀ y, (f y).num = y.num ∧ (f y).done = y.done) :
    (s.modTxn k f).Done n := by
  intro y mem num
  obtain ⟨z, held, rfl⟩ := State.mem_modTxn.1 mem
  by_cases own : (z.num == k) = true
  · obtain ⟨same, done⟩ := hf z
    rw [if_pos own] at num ⊢
    rw [done]
    exact h z held (same.symm.trans num)
  · rw [if_neg own] at num ⊢
    exact h z held num
theorem State.Done.prune {s : State} {n : Nat} (h : s.Done n) : s.prune.Done n := fun y mem => h y (List.mem_filter.1 mem).1
theorem State.Done.placeResp {s : State} {n : Nat} (h : s.Done n) (q : RingId) (m : OutMsg) : (s.placeResp q m).Done n := by
  have placed : (s.placeMsg q m).Done n := h
  unfold State.placeResp
  dsimp only
  split
  · split
    · exact (placed.modTxn _ (f := fun t => { t with inFlight := false }) fun _ => ⟨rfl, rfl⟩).prune
    · exact placed
  · exact placed
/-- The last response of a transaction ends its vote. -/
theorem State.forward_done (s : State) (t : Txn) (os : Bytes) : (s.forward t os true).Done t.num := by
  unfold State.forward
  extract_lets q s1 m r
  have ended : s1.Done t.num := by
    intro y mem num
    obtain ⟨z, -, rfl⟩ := State.mem_modTxn.1 mem
    by_cases own : (z.num == t.num) = true
    · rw [if_pos own]
    · rw [if_neg own] at num
      exact absurd (beq_iff_eq.2 num) own
  split
  · exact (ended.placeResp q m).prune
  · exact State.Done.prune (s := s1.modRing q _) ended

/-! ## What is left beside the mailbox path -/

theorem agreeButMail.of_only {s t : State} (h : MailOnly s t) : agreeButMail s t := agreeButMail.of_mailOnly ⟨rfl, fun _ => rfl⟩ h
/-- A report to the event ring leaves the responses where they are. -/
theorem Holds.mailKept {s t : State} {q : RingId} {bs : Bytes} (h : Holds s q bs) (kept : MailKept s t) (other : q ≠ 11) : Holds t q bs := by
  unfold Holds
  rw [kept.2.2 q other]
  exact h
theorem respRing_ne_events (x : Source) : respRing x ≠ 11 := by
  intro e
  have lt := (srcIdx x).isLt
  have val : 6 + (srcIdx x).val = 11 := congrArg Fin.val e
  omega
/-- A message on its way and a record of the log leave the rest as it was. -/
theorem MailOnly.note_agrees {s t : State} (h : MailOnly s t) (hubs : HubsButQmem s t) (code : Nat) (i : List Nat) (d : Bytes) (l k : Nat) :
    agreeButReports s (t.note code i d l k) := by
  have flash : t.flash = s.flash := by rw [h.rest]
  refine ⟨?_, ?_, hubs.trans (t.note_hubs code i d l k)⟩
  · have e := t.note_rest code i d l k
    rw [h.rest] at e ⊢
    exact e
  · rw [State.note_flash, flash]

/-! ## The vote over responses (R312, R313) -/

section
variable {s : State} {n : Nat} {x : Txn}

theorem exec_responseVote_split (found : s.txn n = some x) (split : x.agreed = none) : exec (.responseVote n) s = .next s := by
  refine congrArg Host.Outcome.next ?_
  rw [found]
  dsimp only
  rw [split]
  exact ite_self _
theorem exec_responseVote_agreed (found : s.txn n = some x) (open_ : x.done = false) (voted : x.lspec = false) (up : s.mailUp = true) {l : LaneId} {r : Reply}
    (agreed : x.agreed = some l) (reply : x.replies[l] = some r) : exec (.responseVote n) s = .next (s.forward x (x.message r) true) := by
  refine congrArg Host.Outcome.next ?_
  rw [found]
  dsimp only
  rw [if_neg (by rw [open_, voted, up]; exact Bool.false_ne_true), agreed]
  dsimp only
  rw [reply]
theorem exec_laneDisagree_late (found : s.txn n = some x) (open_ : x.done = false) (voted : x.lspec = false) (up : s.mailUp = true)
    (split : x.agreed = none) (late : x.late s.now = true) : ∃ d, exec (.laneDisagree n) s =
      .next ((s.forward x (x.message (plain Status.laneDisagree)) true).note EventCode.laneDisagree [msgTag x.octets, s.ownerOctet x.src] d) := by
  let chk (l : LaneId) : Bytes := toLe 4 ((x.check l).map (·.toNat) |>.getD 0)
  refine ⟨chk 0 ++ chk 1 ++ chk 2, congrArg Host.Outcome.next ?_⟩
  rw [found]
  exact if_neg (by rw [open_, voted, up, split, late]; exact Bool.false_ne_true)
theorem exec_lspecResponseTimeout_late (found : s.txn n = some x) (open_ : x.done = false) (own : x.lspec = true) (late : x.late s.now = true) :
    exec (.lspecResponseTimeout n) s = .next ((s.modTxn n fun t => { t with done := true }).endTxn n) := by
  refine congrArg Host.Outcome.next ?_
  rw [found]
  exact if_pos (by rw [open_, own, late]; rfl)

end

/-! ## Room in a ring (R314) -/

theorem State.placeResp_rings (s : State) (q : RingId) (m : OutMsg) : (s.placeResp q m).mail.rings = (s.placeMsg q m).mail.rings := by
  unfold State.placeResp
  dsimp only
  split
  · split <;> rfl
  · rfl
theorem State.placeResp_ring (s : State) (q : RingId) (m : OutMsg) : (s.placeResp q m).mail.rings[q] = s.mail.rings[q].place m := by
  rw [State.placeResp_rings]
  exact State.modRing_same (s.putMsg q m.octets) q _
theorem State.placeResp_otherRing (s : State) {q k : RingId} (m : OutMsg) (other : k ≠ q) : (s.placeResp q m).mail.rings[k] = s.mail.rings[k] := by
  rw [State.placeResp_rings]
  exact State.modRing_other (s.putMsg q m.octets) q _ k other
/-- Of what waits the first enter their ring, until one has no room. -/
theorem State.fillRing_ring (q : RingId) (ms : List OutMsg) (s : State) : ∃ k, let t := s.fillRing q ms
    t.mail.rings[q].msgs = s.mail.rings[q].msgs ++ ms.take k ∧ t.mail.rings[q].waiting = ms.drop k ∧
    (∀ m ∈ t.mail.rings[q].waiting.head?, t.mail.rings[q].room m.octets.length = false) ∧ ∀ q', q' ≠ q → t.mail.rings[q'] = s.mail.rings[q'] := by
  induction ms generalizing s with
  | nil =>
    refine ⟨0, ?_⟩
    unfold State.fillRing
    dsimp only
    rw [State.modRing_same]
    exact ⟨(List.append_nil _).symm, rfl, nofun, fun q' other => State.modRing_other _ _ _ _ other⟩
  | cons m ms ih =>
    unfold State.fillRing
    split
    · obtain ⟨k, msgs, waiting, full, others⟩ := ih (s.placeResp q m)
      rw [State.placeResp_ring] at msgs
      refine ⟨k + 1, ?_, waiting, full, fun q' other => (others q' other).trans (s.placeResp_otherRing m other)⟩
      rw [msgs]
      exact List.append_assoc ..
    · rename_i none_
      refine ⟨0, ?_⟩
      dsimp only
      rw [State.modRing_same]
      refine ⟨(List.append_nil _).symm, rfl, fun x mem => ?_, fun q' other => State.modRing_other _ _ _ _ other⟩
      obtain rfl : m = x := Option.some.inj mem
      exact Bool.eq_false_of_not_eq_true none_
theorem MailOnly.fillRing {s t : State} (h : MailOnly s t) (q : RingId) (ms : List OutMsg) : MailOnly s (t.fillRing q ms) := by
  induction ms generalizing t with
  | nil => exact h.modRing q _
  | cons m ms ih =>
    unfold State.fillRing
    exact ite (ih (h.placeResp q m)) (h.modRing q _)
theorem exec_responseRingRoom {s : State} (up : s.mailUp = true) (q : RingId) :
    exec (.responseRingRoom q) s = .next (s.fillRing q s.mail.rings[q].waiting) :=
  congrArg Host.Outcome.next (if_neg (by rw [up]; exact Bool.false_ne_true))

/-! ## The start of a command (R311) -/

theorem State.judgeUpTo_judged {s : State} (judged : ∀ y ∈ s.mail.txns, y.judged = true) (n : Nat) : s.judgeUpTo n = s := by
  have none_ : (s.mail.txns.filter fun t => !t.judged && decide (t.num ≤ n)) = [] := List.filter_eq_nil_iff.2 fun y mem => by simp [judged y mem]
  unfold State.judgeUpTo
  rw [none_]
  rfl
theorem State.handOver_known {s : State} {l : LaneId} {n : Nat} {t : Txn} {r : Reply} (found : (s.startedBy l n).txn n = some t) (voted : t.lspec = false)
    (known : t.outcome = some r) : s.handOver l n = (s.startedBy l n).modTxn n fun t => t.reply s.now fun _ => r := by
  unfold State.handOver
  dsimp only
  rw [← State.startedBy, found]
  dsimp only
  rw [voted, known]
  rfl
theorem exec_commandStart {s : State} {l : LaneId} {q : RingId} {x : Txn} {rest : List Txn} (active : s.active l = true) (up : s.mailUp = true)
    (due : s.ringDue l = some q) (first : s.unstarted l q = x :: rest) (judged : ∀ y ∈ s.mail.txns, y.judged = true) :
    exec (.commandStart l q) s = .next (((s.handOver l x.num).passTurn l q).freeRing q) := by
  refine congrArg Host.Outcome.next ?_
  rw [if_pos (by simp [active, up, due]), first]
  dsimp only
  rw [State.startTxn, State.judgeUpTo_judged judged]
/-- A transaction not done stays when the entries of its ring are freed. -/
theorem State.freeRing_mem {s : State} {y : Txn} (mem : y ∈ s.mail.txns) (open_ : y.done = false) (q : RingId) :
    ∃ b, { y with freed := b } ∈ (s.freeRing q).mail.txns := by
  have listed (b : Bool) (f : Txn → Txn) (h : f y = { y with freed := b }) : { y with freed := b } ∈
      (s.mail.txns.map f).filter fun t => !(t.freed && t.done && !t.inFlight) :=
    List.mem_filter.2 ⟨List.mem_map.2 ⟨y, mem, h⟩, by dsimp only; rw [open_, Bool.and_false]; rfl⟩
  by_cases h : ((((s.mail.txns.filter fun t => t.ring == q && !t.freed).takeWhile fun t => s.voteMask &&& ~~~t.started == 0).map (·.num)).contains y.num) = true
  · exact ⟨true, listed true _ (if_pos h)⟩
  · exact ⟨y.freed, listed y.freed _ (if_neg h)⟩
/-- A lane that has a judged command to start, and whose answer is known, hands the answer over. -/
theorem State.handOver_replies {s : State} {l : LaneId} {x : Txn} {r : Reply} (found : s.txn x.num = some x) (voted : x.lspec = false)
    (known : x.outcome = some r) (unanswered : x.replies[l] = none) (open_ : x.done = false) :
    ∃ y ∈ (s.handOver l x.num).mail.txns, y.num = x.num ∧ has y.started l = true ∧ y.replies[l] = some r ∧ y.outcome = some r ∧ y.done = false := by
  have starts : (s.startedBy l x.num).txn x.num = some { x with started := x.started ||| only l } := by
    rw [State.startedBy, State.txn_modTxn (f := fun t => { t with started := t.started ||| only l }) s x.num fun _ => rfl, found]
    rfl
  have started : has (x.started ||| only l) l = true := by rw [has_or_only]; simp
  rw [State.handOver_known starts voted known]
  refine ⟨Txn.reply { x with started := x.started ||| only l } s.now fun _ => r, State.mem_modTxn.2 ⟨_, List.mem_of_find?_eq_some starts, ?_⟩,
    rfl, started, ?_, known, open_⟩
  · exact if_pos (beq_self_eq_true _)
  · rw [Txn.reply, Fin.getElem_fin, Vector.getElem_ofFn]
    exact if_pos (by rw [started, unanswered]; rfl)

end Sys2Proof.Machine

open Sys2Proof Sys2Proof.Machine

/-- Settles O47: a response once forwarded ends its transaction, and all of it stays within the mailbox path. -/
theorem answersNeedTwoLanes : Obligations.AnswersNeedTwoLanes := by
  unfold Obligations.AnswersNeedTwoLanes
  refine ⟨fun n x s found open_ voted up => ⟨exec_responseVote_split found, fun l r agreed reply => ?_, fun split late => ?_⟩,
    fun n x s found open_ own late => ?_, fun q s up => ?_, fun l q x rest r s active up due first nodup judged voted known unanswered open_ => ?_⟩
  · refine ⟨_, exec_responseVote_agreed found open_ voted up agreed reply, Holds.forwarded .., ?_, agreeButMail.of_only ((MailOnly.refl s).forward ..)⟩
    exact State.txn_num found ▸ s.forward_done x (x.message r)
  · obtain ⟨d, answers⟩ := exec_laneDisagree_late found open_ voted up split late
    have sent : MailOnly s (s.forward x (x.message (plain Status.laneDisagree)) true) := (MailOnly.refl s).forward ..
    have done := s.forward_done x (x.message (plain Status.laneDisagree))
    refine ⟨_, _, answers, rfl, (Holds.forwarded ..).mailKept (MailKept.event ..) (respRing_ne_events _), ?_, ?_, sent.note_agrees (s.forward_hubs x _ true) ..⟩
    · rw [State.note_txns]
      exact State.txn_num found ▸ done
    · rw [State.note_flash, sent.rest]
      exact List.length_append
  · refine ⟨_, exec_lspecResponseTimeout_late found open_ own late, fun y mem num => ?_, agreeButMail.of_only (((MailOnly.refl s).modTxn ..).endTxn ..)⟩
    obtain ⟨z, held, rfl⟩ := State.mem_modTxn.1 (List.mem_filter.1 mem).1
    obtain ⟨w, -, rfl⟩ := State.mem_modTxn.1 held
    by_cases own : (w.num == n) = true
    · rw [if_pos own, if_pos (show _ = true from own)]
      exact ⟨rfl, rfl⟩
    · rw [if_neg own, if_neg own] at num
      exact absurd (beq_iff_eq.2 num) own
  · obtain ⟨k, msgs, waiting, full, others⟩ := s.fillRing_ring q s.mail.rings[q].waiting
    exact ⟨_, k, exec_responseRingRoom up q, msgs, waiting, full, others, agreeButMail.of_only ((MailOnly.refl s).fillRing ..)⟩
  · have mem : x ∈ s.mail.txns := (List.mem_filter.1 (first ▸ List.mem_cons_self : x ∈ s.unstarted l q)).1
    obtain ⟨y, held, num, started, replied, outcome, stays⟩ := State.handOver_replies (State.txn_of_mem nodup mem) voted known unanswered open_
    obtain ⟨b, kept⟩ := State.freeRing_mem (s := (s.handOver l x.num).passTurn l q) held stays q
    refine ⟨_, _, exec_commandStart active up due first judged, kept, num, started, replied, outcome, ?_,
      agreeButMail.of_only ((((MailOnly.refl s).handOver ..).passTurn ..).freeRing ..)⟩
    exact congrArg Fin.val (Vector.getElem_set_self _)
end

section
/-!
PROOFS. Runs, windows and restarts judged (R423 to R425, R428, R429, R435, R437): what a fault without a reaction leaves, what the loss of
a lane leaves, what a judged run leaves of what a lane that rejoins goes by, and how it rejoins.
-/

namespace Sys2Proof.Machine

/-! ## Faults that stand -/

theorem State.stands_congr {s t : State} (h : t.faults = s.faults) (c : Nat) (j : List Nat) : t.stands c j = s.stands c j := by
  unfold State.stands
  rw [h]
/-- A fault withdrawn brings none. -/
theorem State.withdrawFault_unraised {s : State} {c : Nat} {j : List Nat} (h : s.stands c j = false) (code : Nat) (i : List Nat) (m : LaneMask) :
    (s.withdrawFault code i m).stands c j = false := by
  unfold State.withdrawFault
  extract_lets sc hit out keep s1
  have reports : (s1.each out fun t f => t.event f.code 2 3 f.scope).stands c j = s1.stands c j :=
    each_field (·.stands c j) out (fun t f _ => State.stands_congr (State.event_faults ..) c j) s1
  rw [reports]
  refine List.any_eq_false.2 fun f mem stands => ?_
  obtain ⟨x, held, rfl⟩ := List.mem_map.1 mem
  refine List.any_eq_false.1 h x (List.mem_filter.1 held).1 ?_
  split at stands <;> exact stands
/-- A fault to which the table adds no reaction (R420) is raised, or its lanes hold it already. -/
theorem State.fault_silent {code : Nat} {items : List Nat} {m : LaneMask} (s : State) (report : ∀ u : State, u.reaction code items m = u) :
    s.fault code items m = s ∨ s.fault code items m = s.raiseFault code items m := by
  unfold State.fault
  extract_lets known
  split
  · exact .inl rfl
  · exact .inr (report _)

/-! ## The loss of a lane (R373, R383, R435) -/

/-- What neither the mode nor the window's timers, the reports of a change, the entries of HALT and SAFE nor the end of COMMISSION's tests
touch, a change of mode leaves. -/
theorem State.enterMode_field {β : Type} {m : Mode} {k : Nat} (g : State → β)
    (turn : ∀ (u : State) (x : ModeState) (due : Option Nat) (d : Bool), g { u with mode := x, coppice := { u.coppice with dueAt := due, deferred := d } } = g u)
    (record : ∀ (u : State) (r : Bytes), g (u.logRec r) = g u) (note : ∀ (u : State) (d : Bytes), g (u.note EventCode.modeChange [] d) = g u)
    (halt : m = .halt → ∀ u : State, g (u.haltEntry k) = g u)
    (safe : m = .safe → ∀ (u : State) (v : LaneMask) (i : GroupId), g (u.trigger v i false) = g u)
    (tests : ∀ (u : State) (x : Activities), g { u with act := x } = g u) (answer : ∀ (u : State) (n : Nat) (r : Reply), g (u.answer n r) = g u)
    (s : State) : g (s.enterMode m k) = g s := by
  unfold State.enterMode
  extract_lets old ms s0 cop s1 d s2 s3 act s4
  have turned : g s1 = g s := by
    unfold s1
    split
    · exact turn s _ s.coppice.dueAt s.coppice.deferred
    · exact turn s _ _ _
  clear_value s1
  have said : g s2 = g s := by
    unfold s2
    split
    · exact (record ..).trans turned
    · exact (note ..).trans turned
  clear_value s2
  have entered : g s3 = g s := by
    unfold s3
    split
    · exact (halt ‹_› s2).trans said
    · split
      · exact (each_field g allGroups (fun u i _ => safe ‹_› u _ i) s2).trans said
      · exact said
  clear_value s3
  have ended : g s4 = g s := (tests ..).trans entered
  clear_value s4
  split
  · split
    · unfold State.stopTeach
      split
      · exact ended
      · exact ((answer ..).trans (tests ..)).trans ended
    · exact ended
  · exact entered
theorem State.enterMode_faults (s : State) (m : Mode) (k : Nat) : (s.enterMode m k).faults = s.faults :=
  State.enterMode_field (·.faults) (fun _ _ _ _ => rfl) (fun _ _ => rfl) (fun _ _ => State.note_faults ..) (fun _ _ => rfl) (fun _ _ _ _ => rfl)
    (fun _ _ => rfl) (fun _ _ _ => rfl) s
/-- A change to a mode other than HALT and SAFE leaves the lanes as they are, and a window at its step. -/
theorem State.enterMode_lanes {m : Mode} (s : State) (k : Nat) (running : m ≠ .halt) (other : m ≠ .safe) :
    (s.enterMode m k).lanes = s.lanes ∧ (s.enterMode m k).coppice.step = s.coppice.step :=
  Prod.mk.inj (State.enterMode_field (fun u => (u.lanes, u.coppice.step)) (fun _ _ _ _ => rfl) (fun _ _ => rfl)
    (fun _ _ => Prod.ext (State.note_lanes ..) (congrArg (·.step) (State.note_coppice ..))) (fun e => absurd e running) (fun e => absurd e other)
    (fun _ _ => rfl) (fun _ _ _ => rfl) s)
theorem State.haltEntry_lbist (s : State) (k : Nat) (l : LaneId) : (s.haltEntry k).lanes[l].lbist = s.lanes[l].lbist := by
  unfold State.haltEntry
  extract_lets s0 s1 s2 s3
  have stopped : s1.lanes[l].lbist = s.lanes[l].lbist := by unfold s1; rw [State.modLanes_at]
  exact stopped
theorem State.enterMode_lbist (s : State) (m : Mode) (k : Nat) (l : LaneId) : (s.enterMode m k).lanes[l].lbist = s.lanes[l].lbist := by
  refine State.enterMode_field (·.lanes[l].lbist) (fun _ _ _ _ => rfl) (fun _ _ => rfl) (fun _ _ => ?_) (fun _ u => ?_) (fun _ u v i => ?_)
    (fun _ _ => rfl) (fun _ _ _ => rfl) s
  · rw [State.note_lanes]
  · exact u.haltEntry_lbist k l
  · rw [State.trigger, State.modLanes_at]
    split <;> rfl
theorem State.degrade_lanes (s : State) : s.degrade.lanes = s.lanes ∧ s.degrade.coppice.step = s.coppice.step := by
  unfold State.degrade
  split
  · exact s.enterMode_lanes 6 (by decide) (by decide)
  · exact ⟨rfl, rfl⟩
theorem State.degrade_faults (s : State) : s.degrade.faults = s.faults := by
  unfold State.degrade
  split
  · exact s.enterMode_faults ..
  · rfl
/-- What the loss of a lane leaves: the results of its logic BIST, and the faults that stand but LANE_COMPARE. -/
structure LossKept (l : LaneId) (s t : State) : Prop where
  lbist : t.lanes[l].lbist = s.lanes[l].lbist
  stands : ∀ c j, c ≠ FaultCode.laneCompare → s.stands c j = true → t.stands c j = true

namespace LossKept

theorem refl (l : LaneId) (s : State) : LossKept l s s := ⟨rfl, fun _ _ _ h => h⟩
theorem trans {l : LaneId} {s t u : State} (a : LossKept l s t) (b : LossKept l t u) : LossKept l s u :=
  ⟨b.lbist.trans a.lbist, fun c j hc h => b.stands c j hc (a.stands c j hc h)⟩
theorem keep {l : LaneId} {s t : State} (lbist : t.lanes[l].lbist = s.lanes[l].lbist) (faults : t.faults = s.faults) : LossKept l s t :=
  ⟨lbist, fun c j _ h => (State.stands_congr faults c j).trans h⟩
theorem ite {l : LaneId} {s t u : State} {p : Prop} [Decidable p] (a : LossKept l s t) (b : LossKept l s u) : LossKept l s (if p then t else u) := by
  split <;> assumption
theorem raiseFault (l : LaneId) (s : State) (code : Nat) (i : List Nat) (m : LaneMask) (k : Nat) : LossKept l s (s.raiseFault code i m k) := by
  obtain ⟨w, e⟩ := s.raiseFault_lane code i m k l
  exact ⟨by rw [e], fun c j _ h => s.raiseFault_stands_other code i m k c j h⟩
/-- LANE_COMPAREs that name the lane end. -/
theorem endCompares (l : LaneId) {fs : List FaultRec} (named : ∀ f ∈ fs, f.code = FaultCode.laneCompare) (s : State) :
    LossKept l s (s.each fs State.endFault) := by
  unfold State.each
  induction fs generalizing s with
  | nil => exact refl l s
  | cons f fs ih =>
    have code := named f List.mem_cons_self
    have ended : LossKept l s (s.endFault f) := by
      unfold State.endFault
      exact ⟨by rw [State.withdrawFault_lanes], fun c j hc h => State.withdrawFault_stands _ _ _ _ _ _ (by rw [code]; exact hc) h⟩
    exact ended.trans (ih (fun g mem => named g (List.mem_cons_of_mem _ mem)) _)
theorem enterMode (l : LaneId) (s : State) (m : Mode) (k : Nat) : LossKept l s (s.enterMode m k) := keep (s.enterMode_lbist ..) (s.enterMode_faults ..)
theorem degrade (l : LaneId) (s : State) : LossKept l s s.degrade := keep (by rw [s.degrade_lanes.1]) s.degrade_faults
/-- A window that rests another lane is aborted. -/
theorem abortWindow {l : LaneId} {s : State} (other : s.coppice.rest ≠ some l) : LossKept l s s.abortWindow := by
  unfold State.abortWindow
  split
  · exact refl l s
  · rename_i k rests
    extract_lets c step s1
    have apart : l ≠ k := fun e => other (e ▸ rests)
    have aborted : (s1.modLane k fun L => { L with lbist := { L.lbist with res := 4 } }).lanes[l] = s.lanes[l] := State.modLane_other s1 _ _ _ apart
    exact ite (refl l s) (keep (by rw [State.note_lanes, aborted]) (State.note_faults ..))

end LossKept

/-- A lane in its loss has left the vote. -/
def State.leaveVote (s : State) (l : LaneId) : State :=
  (s.modLane l fun L => { L with st := .lost, drive := { L.drive with running := false } }).cutCapture
/-- After LANE_LOST is raised a loss leaves the other faults, and the lane's BIST results. -/
theorem State.loseLane_kept_after {s : State} {l : LaneId} (present : s.lanes[l].st ≠ .lost) :
    LossKept l ((s.leaveVote l).raiseFault FaultCode.laneLost [l.val] (s.leaveVote l).voteMask) (s.loseLane l) := by
  unfold State.loseLane
  rw [if_neg present]
  extract_lets s1 named s2 cop
  have code : ∀ f ∈ named, f.code = FaultCode.laneCompare := fun f mem => by
    have picked := (List.mem_filter.1 mem).2
    simp only [Bool.and_eq_true, beq_iff_eq] at picked
    exact picked.1.1
  have ended : LossKept l (s1.raiseFault FaultCode.laneLost [l.val] s1.voteMask) s2 := .endCompares l code _
  refine ended.trans ?_
  clear_value s2
  split
  · exact .refl l s2
  · split
    · exact .enterMode l s2 _ _
    · split
      · refine LossKept.trans ?_ (.degrade l _)
        exact .keep rfl rfl
      · rename_i other
        split
        · exact .abortWindow other
        · exact .degrade l s2
theorem State.leaveVote_kept (s : State) (l : LaneId) : LossKept l s (s.leaveVote l) :=
  .keep (congrArg (·.lbist) (State.modLane_same s l fun L => { L with st := .lost, drive := { L.drive with running := false } })) rfl
theorem State.loseLane_kept_loss (s : State) (l : LaneId) : LossKept l s (s.loseLane l) := by
  by_cases present : s.lanes[l].st = .lost
  · have same : s.loseLane l = s := if_pos present
    rw [same]
    exact .refl l s
  · exact ((s.leaveVote_kept l).trans (.raiseFault l _ _ _ _ _)).trans (State.loseLane_kept_after present)
/-- A lane that was there is lost with LANE_LOST. -/
theorem State.loseLane_raises {s : State} {l : LaneId} (present : s.lanes[l].st ≠ .lost) :
    (s.loseLane l).lanes[l].st = .lost ∧ (s.loseLane l).stands FaultCode.laneLost [l.val] = true :=
  ⟨s.loseLane_st l, (State.loseLane_kept_after present).stands _ _ (by decide) (State.raiseFault_stands ..)⟩

/-! ## A run judged (R423 to R425) -/

theorem rangesOk_iff (r : RangeMeas) : rangesOk r = true ↔ 816 ≤ r.vmin ∧ r.vmax ≤ 884 ∧ 9800 ≤ r.fmin ∧ r.fmax ≤ 10200 := by
  simp [rangesOk, RangeOk.supply, RangeOk.clock, and_assoc]
theorem Otp.runOk_iff (o : Otp) (l : LaneId) (r : LbistRun) :
    o.runOk l r = true ↔ r.sig = o.lbSig[l] ∧ r.pcount = o.lbCount ∧ r.gen = o.lbGen[l] := by
  simp [Otp.runOk, Otp.sigOk, Otp.countOk, Otp.genOk, and_assoc]

section
variable {o : Otp} {l : LaneId} {r : LbistRun} {n : Nat}

theorem lbistResult_pass (inRange : rangesOk r.meas = true) (ok : o.runOk l r = true) : lbistResult o l r n = 1 := by
  unfold lbistResult
  rw [inRange, ok]
  rfl
theorem lbistResult_fail (inRange : rangesOk r.meas = true) (bad : o.runOk l r = false) : lbistResult o l r n = 2 := by
  unfold lbistResult
  rw [inRange, bad]
  rfl
theorem lbistResult_third (outside : rangesOk r.meas = false) (third : 2 ≤ n) : lbistResult o l r n = 2 := by
  unfold lbistResult
  rw [outside]
  exact if_pos third
theorem lbistResult_invalid (outside : rangesOk r.meas = false) (repeats : n < 2) : lbistResult o l r n = 3 := by
  unfold lbistResult
  rw [outside]
  exact if_neg (Nat.not_le.2 repeats)

end

/-- Two states agree but for the faults, and, of each lane, for its BIST results and its FAULT_SEQ, in what a lane that rejoins goes by. -/
structure OnlyJudged (s t : State) : Prop where
  now : t.now = s.now
  bus : t.bus = s.bus
  mode : t.mode = s.mode
  bank : t.activeBank = s.activeBank
  working : t.working = s.working
  lane : ∀ k : LaneId, ∃ b w, t.lanes[k] = { s.lanes[k] with lbist := b, faultSeq := w }

theorem State.event_activeBank (s : State) (code kind lane : Nat) (sc d : Bytes) : (s.event code kind lane sc d).activeBank = s.activeBank := by
  simp only [State.activeBank, State.event_flash]

namespace OnlyJudged

theorem refl (s : State) : OnlyJudged s s := ⟨rfl, rfl, rfl, rfl, rfl, fun _ => ⟨_, _, rfl⟩⟩
theorem trans {s t u : State} (a : OnlyJudged s t) (b : OnlyJudged t u) : OnlyJudged s u := by
  refine ⟨b.now.trans a.now, b.bus.trans a.bus, b.mode.trans a.mode, b.bank.trans a.bank, b.working.trans a.working, fun k => ?_⟩
  obtain ⟨x, v, first⟩ := a.lane k
  obtain ⟨y, w, second⟩ := b.lane k
  exact ⟨y, w, by rw [second, first]⟩
theorem raiseFault (s : State) (code : Nat) (i : List Nat) (m : LaneMask) (k : Nat) : OnlyJudged s (s.raiseFault code i m k) := by
  refine ⟨by simp, by simp, by simp, ?_, by simp, fun q => ?_⟩
  · unfold State.raiseFault
    extract_lets sc held s1 s2
    split
    · rfl
    · exact s2.event_activeBank ..
  · obtain ⟨w, e⟩ := s.raiseFault_lane code i m k q
    exact ⟨_, w, e⟩
theorem withdrawFault (s : State) (code : Nat) (i : List Nat) (m : LaneMask) : OnlyJudged s (s.withdrawFault code i m) := by
  refine ⟨by simp, by simp, by simp, ?_, by simp, fun q => ⟨_, _, by rw [State.withdrawFault_lanes]⟩⟩
  unfold State.withdrawFault
  extract_lets sc hit out keep s1
  exact each_field (·.activeBank) out (fun t f _ => t.event_activeBank ..) s1

section
variable {s t : State} (h : OnlyJudged s t)
include h

theorem st (k : LaneId) : t.lanes[k].st = s.lanes[k].st := by
  obtain ⟨b, w, e⟩ := h.lane k
  rw [e]
theorem latches (k : LaneId) : t.lanes[k].latches = s.lanes[k].latches := by
  obtain ⟨b, w, e⟩ := h.lane k
  rw [e]
theorem activeLanes : t.activeLanes = s.activeLanes := by
  unfold State.activeLanes
  exact congrArg (List.filter · allLanes) (funext fun k => congrArg (· == LaneStatus.active) (h.st k))
theorem mergedLatches : t.mergedLatches = s.mergedLatches := by
  unfold State.mergedLatches
  rw [h.activeLanes]
  simp only [h.latches]
theorem paramsSealed : t.paramsSealed = s.paramsSealed := by
  unfold State.paramsSealed
  rw [h.bank]
theorem nextAp : t.nextAp = s.nextAp := by
  unfold State.nextAp State.localIn State.clockRate State.tCyc State.params
  rw [h.bus, h.bank, h.working]

end

end OnlyJudged

theorem State.reaction_lbistFail (s : State) (l : LaneId) (m : LaneMask) : s.reaction FaultCode.lbistFail [l.val] m = s.loseLane l := by
  unfold State.reaction
  extract_lets lane pt fed
  have named : lane 0 = some l := dif_pos l.isLt
  rw [named]
  rfl
theorem State.lbistFollows_fail (s : State) (l : LaneId) : s.lbistFollows l 2 =
    (s.withdrawFault FaultCode.lbistInvalid [l.val]).fault FaultCode.lbistFail [l.val] s.voteMask := rfl
theorem State.lbistFollows_invalid (s : State) (l : LaneId) : s.lbistFollows l 3 =
    ({ s with coppice := { s.coppice with repeatLane := some l } } : State).fault FaultCode.lbistInvalid [l.val] s.voteMask := rfl
theorem State.lbistFollows_valid (s : State) (l : LaneId) {res : Nat} (passes : res ≠ 2) (counts : res ≠ 3) :
    s.lbistFollows l res = s.withdrawFault FaultCode.lbistInvalid [l.val] := (if_neg passes).trans (if_neg counts)
/-- An INVALID result repeats the lane's test, and is raised unless its lanes hold it. -/
theorem State.lbistFollows_repeats (s : State) (l : LaneId) :
    (s.lbistFollows l 3).coppice = { s.coppice with repeatLane := some l } ∧ (s.lbistFollows l 3).stands FaultCode.lbistInvalid [l.val] = true ∧
      OnlyJudged s (s.lbistFollows l 3) ∧ (s.lbistFollows l 3).lanes[l].lbist = s.lanes[l].lbist := by
  rw [s.lbistFollows_invalid]
  generalize hu : ({ s with coppice := { s.coppice with repeatLane := some l } } : State) = u
  have coppice : u.coppice = { s.coppice with repeatLane := some l } := by rw [← hu]
  have lanes : u.lanes = s.lanes := by rw [← hu]
  have judged : OnlyJudged s u := by rw [← hu]; exact ⟨rfl, rfl, rfl, rfl, rfl, fun _ => ⟨_, _, rfl⟩⟩
  obtain ⟨stands, -, -⟩ := u.fault_report (code := FaultCode.lbistInvalid) (items := [l.val]) (m := s.voteMask) fun _ => rfl
  refine ⟨?_, stands, ?_⟩
  · rcases u.fault_silent (code := FaultCode.lbistInvalid) (items := [l.val]) (m := s.voteMask) fun _ => rfl with e | e
    · rw [e, coppice]
    · rw [e, State.raiseFault_coppice, coppice]
  · rcases u.fault_silent (code := FaultCode.lbistInvalid) (items := [l.val]) (m := s.voteMask) fun _ => rfl with e | e
    · rw [e, lanes]
      exact ⟨judged, rfl⟩
    · rw [e, ← lanes]
      exact ⟨judged.trans (.raiseFault ..), (LossKept.raiseFault l u _ _ _ _).lbist⟩
/-- FAIL loses the lane. -/
theorem State.lbistFollows_loses {s : State} {l : LaneId} (new : s.stands FaultCode.lbistFail [l.val] = false) (present : s.lanes[l].st ≠ .lost) :
    let t := s.lbistFollows l 2
    t.lanes[l].st = .lost ∧ t.stands FaultCode.lbistFail [l.val] = true ∧ t.stands FaultCode.laneLost [l.val] = true := by
  dsimp only
  rw [s.lbistFollows_fail, State.fault_new _ _ _ _ (State.withdrawFault_unraised new ..), State.reaction_lbistFail]
  generalize hu : (s.withdrawFault FaultCode.lbistInvalid [l.val]).raiseFault FaultCode.lbistFail [l.val] s.voteMask = u
  have stands : u.stands FaultCode.lbistFail [l.val] = true := by rw [← hu]; exact State.raiseFault_stands ..
  have there : u.lanes[l].st ≠ .lost := by
    have judged : OnlyJudged s u := by rw [← hu]; exact (OnlyJudged.withdrawFault ..).trans (.raiseFault ..)
    rw [judged.st]
    exact present
  obtain ⟨lost, said⟩ := State.loseLane_raises there
  exact ⟨lost, (u.loseLane_kept_loss l).stands _ _ (by decide) stands, said⟩
/-- What follows from a result leaves the BIST results. -/
theorem State.lbistFollows_lbist (s : State) (l : LaneId) (res : Nat) : (s.lbistFollows l res).lanes[l].lbist = s.lanes[l].lbist := by
  by_cases fails : res = 2
  · have withdrawn : (s.withdrawFault FaultCode.lbistInvalid [l.val]).lanes[l].lbist = s.lanes[l].lbist := by rw [State.withdrawFault_lanes]
    rw [fails, s.lbistFollows_fail, ← withdrawn]
    generalize s.withdrawFault FaultCode.lbistInvalid [l.val] = u
    unfold State.fault
    extract_lets known
    split
    · rfl
    · rw [State.reaction_lbistFail]
      exact ((LossKept.raiseFault l u _ _ _ _).trans (State.loseLane_kept_loss _ l)).lbist
  · by_cases repeats : res = 3
    · rw [repeats]
      exact (s.lbistFollows_repeats l).2.2.2
    · rw [s.lbistFollows_valid l fails repeats, State.withdrawFault_lanes]

/-- A run is judged by its readings, its three values and the INVALID results before it; the results stand in the lane's block. -/
theorem State.judgeRun_follows (s : State) (l : LaneId) (r : LbistRun) : ∃ u : State,
    s.judgeRun l r = u.lbistFollows l (lbistResult s.otp l r s.lanes[l].lbist.invc) ∧ OnlyJudged s u ∧ u.coppice = s.coppice ∧ u.faults = s.faults ∧
      u.lanes[l].lbist = s.lanes[l].lbist.after s.otp l r s.now := by
  refine ⟨s.modLane l fun L => { L with lbist := L.lbist.after s.otp l r s.now }, ?_, ⟨rfl, rfl, rfl, rfl, rfl, fun k => ?_⟩, rfl, rfl, ?_⟩
  · unfold State.judgeRun
    dsimp only
    rw [State.modLane_same]
    rfl
  · by_cases own : k = l
    · subst own
      exact ⟨_, _, State.modLane_same ..⟩
    · exact ⟨_, _, State.modLane_other _ _ _ _ own⟩
  · rw [State.modLane_same]
theorem State.judgeRun_lbist (s : State) (l : LaneId) (r : LbistRun) : (s.judgeRun l r).lanes[l].lbist = s.lanes[l].lbist.after s.otp l r s.now := by
  obtain ⟨u, follows, -, -, -, lbist⟩ := s.judgeRun_follows l r
  rw [follows, State.lbistFollows_lbist, lbist]
/-- A run that neither fails leaves the lane and all else a lane that rejoins goes by. -/
theorem State.judgeRun_only {s : State} {l : LaneId} {r : LbistRun} (passes : lbistResult s.otp l r s.lanes[l].lbist.invc ≠ 2) :
    OnlyJudged s (s.judgeRun l r) := by
  obtain ⟨u, follows, judged, -⟩ := s.judgeRun_follows l r
  rw [follows]
  refine judged.trans ?_
  by_cases repeats : lbistResult s.otp l r s.lanes[l].lbist.invc = 3
  · rw [repeats]
    exact (u.lbistFollows_repeats l).2.2.1
  · rw [u.lbistFollows_valid l passes repeats]
    exact .withdrawFault ..
/-- One that fails loses it. -/
theorem State.judgeRun_loses {s : State} {l : LaneId} {r : LbistRun} (fails : lbistResult s.otp l r s.lanes[l].lbist.invc = 2)
    (new : s.stands FaultCode.lbistFail [l.val] = false) (present : s.lanes[l].st ≠ .lost) : let t := s.judgeRun l r
    t.lanes[l].st = .lost ∧ t.stands FaultCode.lbistFail [l.val] = true ∧ t.stands FaultCode.laneLost [l.val] = true := by
  obtain ⟨u, follows, judged, -, faults, -⟩ := s.judgeRun_follows l r
  dsimp only
  rw [follows, fails]
  exact State.lbistFollows_loses ((State.stands_congr faults ..).trans new) (by rw [judged.st]; exact present)

/-! ## A lane rejoins (R397, R432) -/

theorem State.rejoin_unsealed {s : State} (l : LaneId) (voting : s.activeLanes ≠ []) (unsealed : s.paramsSealed = false) :
    s.rejoin l = s.loseLane l := by
  obtain ⟨k, found⟩ : ∃ k, s.supplier = some k := Option.isSome_iff_exists.1 (by rw [State.supplier, List.isSome_head?]; simpa using voting)
  unfold State.rejoin
  rw [found]
  exact if_pos (by rw [unsealed]; rfl)
/-- A lane that has adopted what the vote stands at: in the vote, with given latches, and its frames held where given. -/
structure BackIn (l : LaneId) (k : Latches) (held : Prop) (n : Nat) (t : State) : Prop where
  st : t.lanes[l].st = .active
  latches : t.lanes[l].latches = k
  held : held → t.lanes[l].drive.held = true
  step : t.coppice.step = n
theorem BackIn.keep {l : LaneId} {k : Latches} {held : Prop} {n : Nat} {s t : State} (h : BackIn l k held n s) (lanes : t.lanes = s.lanes)
    (step : t.coppice.step = s.coppice.step) : BackIn l k held n t :=
  ⟨by rw [lanes]; exact h.st, by rw [lanes]; exact h.latches, by rw [lanes]; exact h.held, step.trans h.step⟩
/-- The first image is handed over for the next action point, 2.2 µs before it or earlier. -/
theorem State.firstImage_backIn {l : LaneId} {k : Latches} {n : Nat} {s : State} (h : BackIn l k True n s) (x : Voted) :
    BackIn l k (s.now + 440 ≤ s.nextAp) n (s.firstImage l x) := by
  unfold State.firstImage
  extract_lets t img
  have lane : t.lanes[l] = { s.lanes[l] with voted := x } := State.modLane_same ..
  refine ⟨?_, ?_, fun early => ?_, h.step⟩
  · rw [State.modLane_same, lane]
    exact h.st
  · rw [State.modLane_same, lane]
    exact h.latches
  · rw [State.modLane_same, lane]
    dsimp only
    rw [if_pos early]
    exact h.held trivial
theorem State.rejoin_backIn {s : State} (l : LaneId) (voting : s.activeLanes ≠ []) (sealed_ : s.paramsSealed = true) :
    BackIn l s.mergedLatches (s.mode.voted = false ∨ s.now + 440 ≤ s.nextAp) s.coppice.step (s.rejoin l) := by
  unfold State.rejoin
  split
  · rename_i none_
    exact absurd (List.head?_eq_none_iff.1 none_) voting
  rename_i k found
  rw [if_neg (by rw [sealed_]; exact Bool.false_ne_true)]
  extract_lets s1 s2 s3 four
  have adopted : BackIn l s.mergedLatches True s.coppice.step s1 := by
    have lane : s1.lanes[l] = s.lanes[l].adopt s.lanes[k] s.mergedLatches s.agreedGroups s.now :=
      State.modLane_same s l fun L => L.adopt s.lanes[k] s.mergedLatches s.agreedGroups s.now
    exact ⟨by rw [lane]; rfl, by rw [lane]; rfl, fun _ => by rw [lane]; rfl, rfl⟩
  have imaged : BackIn l s.mergedLatches (s.mode.voted = false ∨ s.now + 440 ≤ s.nextAp) s.coppice.step s2 := by
    unfold s2
    cases shared : s.sharedVote k with
    | none => exact { adopted with held := fun _ => adopted.held trivial }
    | some x =>
      have first : BackIn l s.mergedLatches (s.now + 440 ≤ s.nextAp) s.coppice.step (s1.firstImage l x) := s1.firstImage_backIn adopted x
      refine { first with held := fun h => first.held (h.resolve_left fun unvoted => ?_) }
      simp [State.sharedVote, unvoted] at shared
  have ended : BackIn l s.mergedLatches (s.mode.voted = false ∨ s.now + 440 ≤ s.nextAp) s.coppice.step s3 :=
    imaged.keep (State.withdrawFault_lanes ..) (congrArg (·.step) (State.withdrawFault_coppice ..))
  refine BackIn.keep ?_ (State.degrade_lanes _).1 (State.degrade_lanes _).2
  exact ended.keep (each_field (·.lanes) four (fun u f _ => State.withdrawFault_lanes ..) s3)
    (each_field (·.coppice.step) four (fun u f _ => congrArg (·.step) (State.withdrawFault_coppice ..)) s3)

end Sys2Proof.Machine
end

section
/-!
PROOFS. What the windows, runs and restarts of a lane end in, step by step (R424, R425, R428, R429, R435, R437, R442).
-/

namespace Sys2Proof.Machine

/-! ## A window (R428, R429) -/

theorem exec_coppiceDue {s : State} {a : Nat} (idle : s.coppice.step = 0) (due : s.coppice.dueAt = some a) (reached : a ≤ s.now) :
    exec .coppiceDue s = .next { s with coppice := { s.coppice with deferred := true } } :=
  congrArg Host.Outcome.next (if_pos ⟨idle, by rw [due]; exact decide_eq_true reached⟩)
theorem exec_coppiceDue_early {s : State} (early : ∀ a, s.coppice.dueAt = some a → s.now < a) : exec .coppiceDue s = .next s := by
  refine congrArg Host.Outcome.next (if_neg fun due => ?_)
  obtain ⟨a, at_, reached⟩ := Option.any_eq_true .. |>.1 due.2
  exact absurd (early a at_) (Nat.not_lt.2 (of_decide_eq_true reached))

section
variable {s : State} {l : LaneId} (r : RangeMeas) (rests : s.coppice.rest = some l)
include rests

theorem exec_coppiceStepEnd_save (step : s.coppice.step = 1) :
    exec (.coppiceStepEnd r) s = .next (s.copStep (if s.coppice.aborted = true then 6 else 2)) := by
  refine congrArg Host.Outcome.next ?_
  simp only [rests, step, apply_ite s.copStep]
theorem exec_coppiceStepEnd_precheck (step : s.coppice.step = 2) : exec (.coppiceStepEnd r) s =
    .next (if !s.since s.coppice.stepAt (20 * Config.ms) then s else if rangesOk r then s.copStep 3 else s.precheckInvalid l r) := by
  refine congrArg Host.Outcome.next ?_
  simp only [rests, step]
theorem exec_coppiceStepEnd_early (step : s.coppice.step = 2) (early : s.now < s.coppice.stepAt + 20 * Config.ms) :
    exec (.coppiceStepEnd r) s = .next s := by
  rw [exec_coppiceStepEnd_precheck r rests step, if_pos]
  rw [Bool.not_eq_true']
  exact decide_eq_false (Nat.not_le.2 early)
theorem exec_coppiceStepEnd_late (step : s.coppice.step = 2) (late : s.coppice.stepAt + 20 * Config.ms ≤ s.now) :
    exec (.coppiceStepEnd r) s = .next (if rangesOk r then s.copStep 3 else s.precheckInvalid l r) := by
  have since : s.since s.coppice.stepAt (20 * Config.ms) = true := decide_eq_true late
  rw [exec_coppiceStepEnd_precheck r rests step, since]
  rfl
theorem exec_coppiceStepEnd_judge (step : s.coppice.step = 4) : exec (.coppiceStepEnd r) s = .next (s.copStep 5) := by
  refine congrArg Host.Outcome.next ?_
  simp only [rests, step]
theorem exec_coppiceStepEnd_restore (step : s.coppice.step = 5) : exec (.coppiceStepEnd r) s = .next (s.copStep 6) := by
  refine congrArg Host.Outcome.next ?_
  simp only [rests, step]
theorem exec_coppiceStepEnd_rejoin (step : s.coppice.step = 6) : exec (.coppiceStepEnd r) s = .next ((s.copStep 7).rejoin l) := by
  refine congrArg Host.Outcome.next ?_
  simp only [rests, step]

end

/-- Readings out of range at PRECHECK make the result INVALID, to be repeated, and lead to RESTORE. -/
theorem State.precheckInvalid_repeats {s : State} {l : LaneId} (r : RangeMeas) (repeats : s.lanes[l].lbist.invc < 2) : let t := s.precheckInvalid l r
    t.coppice = { s.coppice with step := 5, stepAt := s.now, repeatLane := some l } ∧ t.lanes[l].lbist.res = 3 ∧
      t.lanes[l].lbist.invc = s.lanes[l].lbist.invc + 1 ∧ t.lanes[l].st = s.lanes[l].st ∧ t.stands FaultCode.lbistInvalid [l.val] = true := by
  dsimp only
  unfold State.precheckInvalid
  extract_lets b res s1
  have invalid : res = 3 := if_neg (Nat.not_le.2 repeats)
  have lane : s1.lanes[l] = { s.lanes[l] with lbist := s1.lanes[l].lbist } := by unfold s1; rw [State.modLane_same]
  have result : s1.lanes[l].lbist.res = 3 ∧ s1.lanes[l].lbist.invc = s.lanes[l].lbist.invc + 1 := by
    unfold s1
    rw [State.modLane_same]
    exact ⟨invalid, Nat.min_eq_left repeats⟩
  obtain ⟨coppice, stands, judged, lbist⟩ := (s1.copStep 5).lbistFollows_repeats l
  rw [invalid, lbist]
  refine ⟨coppice, result.1, result.2, ?_, stands⟩
  rw [judged.st]
  change s1.lanes[l].st = _
  rw [lane]

/-! ## A logic BIST (R424, R425) -/

theorem exec_lbistDone {s : State} {l : LaneId} (r : LbistRun) (rests : s.coppice.rest = some l) (step : s.coppice.step = 3) :
    exec (.lbistDone l r) s = .next ((s.copStep 4).judgeRun l r) := congrArg Host.Outcome.next (if_pos ⟨rests, step⟩)
theorem exec_lbistDone_other {s : State} {l : LaneId} (r : LbistRun) (other : s.coppice.rest ≠ some l ∨ s.coppice.step ≠ 3) :
    exec (.lbistDone l r) s = .next s :=
  congrArg Host.Outcome.next (if_neg fun h => other.elim (· h.1) (· h.2))
/-- PASS. -/
theorem State.judgeRun_passes {s : State} {l : LaneId} {r : LbistRun} (inRange : rangesOk r.meas = true) (ok : s.otp.runOk l r = true) :
    let t := s.judgeRun l r
    t.lanes[l].lbist.res = 1 ∧ t.lanes[l].lbist.invc = 0 ∧ t.lanes[l].lbist.passAt = some s.now ∧ t.coppice = s.coppice ∧
      t.lanes[l].st = s.lanes[l].st := by
  have pass : lbistResult s.otp l r s.lanes[l].lbist.invc = 1 := lbistResult_pass inRange ok
  have only : OnlyJudged s (s.judgeRun l r) := State.judgeRun_only (by rw [pass]; decide)
  obtain ⟨u, follows, -, coppice, -⟩ := s.judgeRun_follows l r
  dsimp only
  rw [State.judgeRun_lbist]
  refine ⟨pass, if_pos inRange, if_pos pass, ?_, only.st l⟩
  rw [follows, u.lbistFollows_valid l (by rw [pass]; decide) (by rw [pass]; decide), State.withdrawFault_coppice, coppice]
/-- INVALID, to be repeated. -/
theorem State.judgeRun_repeats {s : State} {l : LaneId} {r : LbistRun} (outside : rangesOk r.meas = false) (repeats : s.lanes[l].lbist.invc < 2) :
    let t := s.judgeRun l r
    t.lanes[l].lbist.res = 3 ∧ t.lanes[l].lbist.invc = s.lanes[l].lbist.invc + 1 ∧ t.coppice = { s.coppice with repeatLane := some l } ∧
      t.lanes[l].st = s.lanes[l].st ∧ t.stands FaultCode.lbistInvalid [l.val] = true := by
  have invalid : lbistResult s.otp l r s.lanes[l].lbist.invc = 3 := lbistResult_invalid outside repeats
  have only : OnlyJudged s (s.judgeRun l r) := State.judgeRun_only (by rw [invalid]; decide)
  have count : (if rangesOk r.meas then 0 else min (s.lanes[l].lbist.invc + 1) 2) = s.lanes[l].lbist.invc + 1 := by
    rw [outside]
    exact Nat.min_eq_left repeats
  obtain ⟨u, follows, -, coppice, -⟩ := s.judgeRun_follows l r
  obtain ⟨repeated, stands, -⟩ := u.lbistFollows_repeats l
  dsimp only
  rw [State.judgeRun_lbist]
  refine ⟨invalid, count, ?_, only.st l, ?_⟩
  · rw [follows, invalid, repeated, coppice]
  · rw [follows, invalid]
    exact stands

/-! ## The end of a restart (R437) -/

section
variable {s : State} {l : LaneId} {r : RestartResult}

theorem exec_laneRestartDone_other (other : s.lanes[l].st ≠ .restarting) : exec (.laneRestartDone l r) s = .next s :=
  congrArg Host.Outcome.next (if_neg other)
theorem exec_laneRestartDone_memory (restarts : s.lanes[l].st = .restarting) (bad : r.mbist = false) :
    exec (.laneRestartDone l r) s = .next (s.loseLane l) := by
  refine congrArg Host.Outcome.next ?_
  rw [if_pos restarts]
  exact if_pos (by rw [bad]; rfl)
theorem exec_laneRestartDone_fails (restarts : s.lanes[l].st = .restarting) (memory : r.mbist = true) (gone : (s.judgeRun l r.lbist).lanes[l].st ≠ .restarting) :
    exec (.laneRestartDone l r) s = .next (s.judgeRun l r.lbist) := by
  refine congrArg Host.Outcome.next ?_
  rw [if_pos restarts, if_neg (by rw [memory]; exact Bool.false_ne_true)]
  exact if_pos gone
theorem exec_laneRestartDone_judged (restarts : s.lanes[l].st = .restarting) (memory : r.mbist = true)
    (stays : (s.judgeRun l r.lbist).lanes[l].st = .restarting) : exec (.laneRestartDone l r) s =
      .next (if r.image && r.param then (s.judgeRun l r.lbist).rejoin l else (s.judgeRun l r.lbist).loseLane l) := by
  refine congrArg Host.Outcome.next ?_
  rw [if_pos restarts, if_neg (by rw [memory]; exact Bool.false_ne_true)]
  exact if_neg (fun gone => gone stays)

/-- A lane whose steps passed is back in the vote. -/
theorem exec_laneRestartDone_rejoins (restarts : s.lanes[l].st = .restarting) (voting : s.activeLanes ≠ []) (sealed_ : s.paramsSealed = true)
    (memory : r.mbist = true) (image : r.image = true) (param : r.param = true) (passes : lbistResult s.otp l r.lbist s.lanes[l].lbist.invc ≠ 2) :
    ∃ t n, exec (.laneRestartDone l r) s = .next t ∧ BackIn l s.mergedLatches (s.mode.voted = false ∨ s.now + 440 ≤ s.nextAp) n t := by
  have only : OnlyJudged s (s.judgeRun l r.lbist) := State.judgeRun_only passes
  have back := State.rejoin_backIn (s := s.judgeRun l r.lbist) l (by rw [only.activeLanes]; exact voting) (by rw [only.paramsSealed]; exact sealed_)
  rw [only.mergedLatches, only.mode, only.now, only.nextAp] at back
  refine ⟨_, (s.judgeRun l r.lbist).coppice.step, exec_laneRestartDone_judged restarts memory ((only.st l).trans restarts), ?_⟩
  rw [image, param]
  exact back
/-- One that failed a step, or whose parameters fail their seal, is lost. -/
theorem exec_laneRestartDone_loses (restarts : s.lanes[l].st = .restarting) (new : s.stands FaultCode.lbistFail [l.val] = false)
    (bad : lbistResult s.otp l r.lbist s.lanes[l].lbist.invc = 2 ∨ r.mbist = false ∨ r.image = false ∨ r.param = false ∨
      (s.activeLanes ≠ [] ∧ s.paramsSealed = false)) :
    ∃ t, exec (.laneRestartDone l r) s = .next t ∧ t.lanes[l].st = .lost ∧ t.stands FaultCode.laneLost [l.val] = true := by
  have present : s.lanes[l].st ≠ .lost := by rw [restarts]; decide
  by_cases memory : r.mbist = true
  · by_cases fails : lbistResult s.otp l r.lbist s.lanes[l].lbist.invc = 2
    · obtain ⟨lost, -, said⟩ := State.judgeRun_loses fails new present
      exact ⟨_, exec_laneRestartDone_fails restarts memory (by rw [lost]; decide), lost, said⟩
    · have only : OnlyJudged s (s.judgeRun l r.lbist) := State.judgeRun_only fails
      have stays : (s.judgeRun l r.lbist).lanes[l].st = .restarting := (only.st l).trans restarts
      obtain ⟨lost, said⟩ := State.loseLane_raises (s := s.judgeRun l r.lbist) (l := l) (by rw [stays]; decide)
      refine ⟨_, exec_laneRestartDone_judged restarts memory stays, ?_⟩
      by_cases passed : (r.image && r.param) = true
      · obtain ⟨image, param⟩ := Bool.and_eq_true_iff.1 passed
        obtain ⟨voting, unsealed⟩ : s.activeLanes ≠ [] ∧ s.paramsSealed = false := by
          simpa [memory, image, param] using bad.resolve_left fails
        rw [if_pos passed, State.rejoin_unsealed l (by rw [only.activeLanes]; exact voting) (by rw [only.paramsSealed]; exact unsealed)]
        exact ⟨lost, said⟩
      · rw [if_neg passed]
        exact ⟨lost, said⟩
  · obtain ⟨lost, said⟩ := State.loseLane_raises present
    exact ⟨_, exec_laneRestartDone_memory restarts (Bool.eq_false_of_not_eq_true memory), lost, said⟩

end

/-! ## A lane's scrubber (R442) -/

theorem exec_sramScrubError_corrected {s : State} {l : LaneId} (present : s.lanes[l].st ≠ .lost) (thawed : s.lanes[l].st ≠ .thawing) :
    exec (.sramScrubError (.lane l) true) s = .next (s.modLane l fun L => { L with lbist := { L.lbist with sramCe := L.lbist.sramCe + 1 } }) :=
  congrArg Host.Outcome.next (if_neg fun h : s.lanes[l].st = .lost ∨ s.lanes[l].st = .thawing => h.elim present thawed)
/-- What is withdrawn has restarted now. -/
theorem State.withdrawLane_lastRestart (s : State) (l : LaneId) (old : ∀ a, s.lanes[l].lastRestart = some a → a + day24 ≤ s.now) :
    (s.withdrawLane l).lanes[l].lastRestart = some s.now := by
  unfold State.withdrawLane
  extract_lets s1 s2
  rw [if_neg (by rw [not_recent old]; exact Bool.false_ne_true)]
  exact congrArg (·.lastRestart) (State.modLane_same s1 l fun L => L.restart s.now)
theorem State.withdrawLane_recent {s : State} {l : LaneId} {a : Nat} (last : s.lanes[l].lastRestart = some a) (recent : s.now < a + day24) :
    (s.withdrawLane l).lanes[l].st = .lost := by
  have within : (s.lanes[l].lastRestart.any fun t => decide (s.now < t + day24)) = true := by
    rw [last, Option.any_some]
    exact decide_eq_true recent
  unfold State.withdrawLane
  extract_lets s1 s2
  rw [if_pos within]
  exact State.loseLane_st ..
/-- An aborted window leaves the time, a lane's last restart and the count of restarts. -/
theorem State.abortWindow_restarts (s : State) (l : LaneId) :
    (s.abortWindow.now, s.abortWindow.lanes[l].lastRestart, s.abortWindow.coppice.restarts) = (s.now, s.lanes[l].lastRestart, s.coppice.restarts) := by
  unfold State.abortWindow
  split
  · rfl
  · rename_i k rests
    extract_lets c step s1
    have aborted : (s1.modLane k fun L => { L with lbist := { L.lbist with res := 4 } }).lanes[l].lastRestart = s.lanes[l].lastRestart := by
      by_cases own : l = k
      · subst own
        rw [State.modLane_same]
      · rw [State.modLane_other _ _ _ _ own]
    by_cases before : s.coppice.aborted = true
    · rw [if_pos before]
    · rw [if_neg before, State.note_now, State.note_lanes, State.note_coppice, aborted]
      rfl
/-- An uncorrectable error of a lane in the vote, or at rest, withdraws the lane, after its window's abort. -/
theorem exec_sramScrubError_withdraws {s : State} {l : LaneId} (there : s.lanes[l].st = .active ∨ s.lanes[l].st = .resting) :
    ∃ u : State, exec (.sramScrubError (.lane l) false) s = .next (u.withdrawLane l) ∧ u.now = s.now ∧
      u.lanes[l].lastRestart = s.lanes[l].lastRestart ∧ u.coppice.restarts = s.coppice.restarts := by
  obtain ⟨now, last, restarts⟩ : s.abortWindow.now = s.now ∧ s.abortWindow.lanes[l].lastRestart = s.lanes[l].lastRestart ∧
      s.abortWindow.coppice.restarts = s.coppice.restarts := by simpa only [Prod.mk.injEq] using s.abortWindow_restarts l
  rcases there with st | st
  · by_cases opened : s.windowOpen = true
    · refine ⟨s.abortWindow, ?_, now, last, restarts⟩
      refine congrArg Host.Outcome.next ?_
      simp only [Bool.false_eq_true, if_false, st, if_pos opened]
    · refine ⟨s, ?_, rfl, rfl, rfl⟩
      refine congrArg Host.Outcome.next ?_
      simp only [Bool.false_eq_true, if_false, st, if_neg opened]
  · refine ⟨{ s.abortWindow with coppice := { s.abortWindow.coppice with rest := none, step := 0, aborted := false } }, ?_, now, last, restarts⟩
    refine congrArg Host.Outcome.next ?_
    simp only [Bool.false_eq_true, if_false, st]

end Sys2Proof.Machine
end

section
/-!
PROOFS. Hub test slices (R438), errors in queue memory (R321) and the switchover (R324).
-/

namespace Sys2Proof.Machine

/-! ## Test slices (R28, R438) -/

theorem HubSlice.nextIndex_eq (x : HubSlice) : x.nextIndex = if x.started = false then 0 else if x.res = 3 then x.slice else (x.slice + 1) % 2048 := by
  unfold HubSlice.nextIndex
  cases x.started <;> rfl
/-- The result of a slice: INVALID, PASS or FAIL. -/
def State.sliceResult (s : State) (h : HubId) (r : SliceRun) : Nat :=
  if !rangesOk r.meas then 3 else if s.otp.sliceOk h s.hubs[h].slice.nextIndex r then 1 else 2
/-- A hub's slices after one that ran with a result. -/
def State.sliceAfter (s : State) (h : HubId) (res : Nat) : HubSlice :=
  let x := s.hubs[h].slice
  let full := res = 1 ∧ x.nextIndex = 2047
  { x with
    res := res, skip := false, slice := x.nextIndex, cycle := some s.hubs[h].bus.cycle, started := true
    passes := if full then x.passes + 1 else x.passes, passAt := if full then some s.now else x.passAt }

section
variable {s : State} {h : HubId} {r : SliceRun}

theorem exec_hubTestSlice_other (other : s.hubs[h].inReset = true ∨ s.mode.mode.runs = false ∨ s.mode.voted = false ∨ s.idleLeft h = none ∨
    s.hubs[h].slice.cycle = some s.hubs[h].bus.cycle) : exec (.hubTestSlice h r) s = .next s := by
  refine congrArg Host.Outcome.next (if_pos ?_)
  simpa only [Bool.not_eq_true', Option.isNone_iff_eq_none] using other

section
variable {n : Nat} (serves : s.hubs[h].inReset = false) (runs : s.mode.mode.runs = true) (voted : s.mode.voted = true) (idle : s.idleLeft h = some n)
  (new : s.hubs[h].slice.cycle ≠ some s.hubs[h].bus.cycle)
include serves runs voted idle new

theorem slice_due : ¬(s.hubs[h].inReset ∨ !s.mode.mode.runs ∨ !s.mode.voted ∨ (s.idleLeft h).isNone ∨
    s.hubs[h].slice.cycle = some s.hubs[h].bus.cycle) := by
  rw [serves, runs, voted, idle]
  rintro (e | e | e | e | e)
  · exact Bool.false_ne_true e
  · exact Bool.false_ne_true e
  · exact Bool.false_ne_true e
  · exact Bool.false_ne_true e
  · exact new e
theorem exec_hubTestSlice_skips (short : n < 8000) : exec (.hubTestSlice h r) s = .next (s.modHub h fun H =>
    { H with slice := { s.hubs[h].slice with skip := true, skips := s.hubs[h].slice.skips + 1, cycle := some s.hubs[h].bus.cycle } }) := by
  refine congrArg Host.Outcome.next ?_
  dsimp only
  rw [if_neg (slice_due serves runs voted idle new), if_pos (by rw [idle]; exact decide_eq_true short)]
theorem exec_hubTestSlice_runs (long : 8000 ≤ n) : exec (.hubTestSlice h r) s =
    .next (if s.sliceResult h r = 2 then
        (s.modHub h fun H => { H with slice := s.sliceAfter h (s.sliceResult h r) }).fault FaultCode.hubSliceFail [h.val] s.voteMask
      else s.modHub h fun H => { H with slice := s.sliceAfter h (s.sliceResult h r) }) := by
  refine congrArg Host.Outcome.next ?_
  dsimp only
  rw [if_neg (slice_due serves runs voted idle new), if_neg (by rw [idle, Option.any_some, decide_eq_true_eq]; exact Nat.not_lt.2 long)]
  rfl

end

theorem State.sliceResult_pass (inRange : rangesOk r.meas = true) (same : r.misr = s.otp.sliceSig[h].getD s.hubs[h].slice.nextIndex 0) :
    s.sliceResult h r = 1 := by
  unfold State.sliceResult Otp.sliceOk
  rw [inRange, same, beq_self_eq_true]
  rfl
theorem State.sliceResult_fail (inRange : rangesOk r.meas = true) (differs : r.misr ≠ s.otp.sliceSig[h].getD s.hubs[h].slice.nextIndex 0) :
    s.sliceResult h r = 2 := by
  unfold State.sliceResult Otp.sliceOk
  rw [inRange, beq_false_of_ne differs]
  rfl
theorem State.sliceResult_invalid (outside : rangesOk r.meas = false) : s.sliceResult h r = 3 := by
  unfold State.sliceResult
  rw [outside]
  rfl

end

theorem State.reaction_hubSliceFail (s : State) (h : HubId) (m : LaneMask) : s.reaction FaultCode.hubSliceFail [h.val] m = s.faultHub h := by
  match h with
  | 0 => rfl
  | 1 => rfl
theorem State.faultHub_faulted (s : State) (h : HubId) : (s.faultHub h).hubs[h].faulted = true ∧ (s.faultHub h).hubs[h].slice = s.hubs[h].slice ∧
    (s.faultHub h).faults = s.faults := by
  unfold State.faultHub
  extract_lets s1
  have idle : s1.hubs[h] = { s.hubs[h] with faulted := true, within := 0, bus := s1.hubs[h].bus } := by unfold s1; rw [State.modHub_same]
  split
  · dsimp only
    rw [idle]
    exact ⟨rfl, rfl, rfl⟩
  · rw [idle]
    exact ⟨rfl, rfl, rfl⟩
/-- A slice that fails anew faults its hub. -/
theorem State.fault_hubSliceFail {s : State} {h : HubId} (m : LaneMask) (new : s.stands FaultCode.hubSliceFail [h.val] = false) :
    let t := s.fault FaultCode.hubSliceFail [h.val] m
    t.hubs[h].faulted = true ∧ t.stands FaultCode.hubSliceFail [h.val] = true ∧ t.hubs[h].slice = s.hubs[h].slice := by
  dsimp only
  rw [State.fault_new _ _ _ _ new, State.reaction_hubSliceFail]
  obtain ⟨faulted, slice, faults⟩ := (s.raiseFault FaultCode.hubSliceFail [h.val] m).faultHub_faulted h
  refine ⟨faulted, (State.stands_congr faults ..).trans (State.raiseFault_stands ..), slice.trans ?_⟩
  rw [s.raiseFault_hubs FaultCode.hubSliceFail [h.val] m 0xFF h]

section
variable {s : State} {h : HubId} {r : SliceRun} {n : Nat} (serves : s.hubs[h].inReset = false) (runs : s.mode.mode.runs = true)
  (voted : s.mode.voted = true) (idle : s.idleLeft h = some n) (new : s.hubs[h].slice.cycle ≠ some s.hubs[h].bus.cycle) (long : 8000 ≤ n)
include serves runs voted idle new long

theorem exec_hubTestSlice_unfailed {res : Nat} (result : s.sliceResult h r = res) (unfailed : res ≠ 2) :
    exec (.hubTestSlice h r) s = .next (s.modHub h fun H => { H with slice := s.sliceAfter h res }) := by
  rw [exec_hubTestSlice_runs serves runs voted idle new long, result, if_neg unfailed]
theorem exec_hubTestSlice_fails (result : s.sliceResult h r = 2) (unraised : s.stands FaultCode.hubSliceFail [h.val] = false) :
    ∃ t, exec (.hubTestSlice h r) s = .next t ∧ t.hubs[h].faulted = true ∧ t.stands FaultCode.hubSliceFail [h.val] = true ∧
      t.hubs[h].slice = s.sliceAfter h 2 := by
  obtain ⟨faulted, stands, slice⟩ := State.fault_hubSliceFail (s := s.modHub h fun H => { H with slice := s.sliceAfter h 2 }) (h := h) s.voteMask unraised
  refine ⟨_, exec_hubTestSlice_runs serves runs voted idle new long, ?_⟩
  rw [result, if_pos rfl]
  refine ⟨faulted, stands, slice.trans ?_⟩
  rw [State.modHub_same]

end

/-! ## Errors in queue memory (R321) -/

section
variable {s : State} {h : HubId} (serves : s.hubs[h].inReset = false)
include serves

theorem exec_sramScrubError_hubCorrected : exec (.sramScrubError (.hub h) true) s =
    .next (s.modHub h fun H => { H with slice := { H.slice with qmemCe := H.slice.qmemCe + 1 } }) :=
  congrArg Host.Outcome.next ((if_neg (by rw [serves]; exact Bool.false_ne_true)).trans (if_pos rfl))
theorem exec_sramScrubError_hub : exec (.sramScrubError (.hub h) false) s = .next (s.qmemFault h .idle) :=
  congrArg Host.Outcome.next ((if_neg (by rw [serves]; exact Bool.false_ne_true)).trans (if_neg Bool.false_ne_true))

end


theorem MailOnly.qmemLoss {s t : State} (h : MailOnly s t) (a : QmemHit) : MailOnly s (t.qmemLoss a) := by
  unfold State.qmemLoss
  extract_lets oldest
  split
  · exact h
  · split
    · exact ((h.modTxn ..).modRing ..).freeRing _
    · exact h.modRing ..
  · split
    · exact (((h.modTxn ..).modRing ..).forward ..).freeRing _
    · exact h.modRing ..
  · split
    · dsimp only
      split
      · exact (h.modRing ..).endTxn _
      · exact h.modRing ..
    · exact h
theorem State.qmemLoss_body {s : State} {q : RingId} {x : Txn} (oldest : s.mail.txns.find? (fun y => y.ring == q && !y.judged) = some x) :
    Holds (s.qmemLoss (.inBody q)) (respRing x.src) (x.message (plain Status.format)) := by
  unfold State.qmemLoss
  dsimp only
  rw [oldest]
  exact (Holds.forwarded ..).freeRing q
/-- Faults raised without a reaction: beside the list and its events, FAULT_SEQ alone of each lane is touched. -/
structure RaisedOnly (s t : State) : Prop where
  hubs : HubsButQmem s t
  lane : ∀ l : LaneId, ∃ w, t.lanes[l] = { s.lanes[l] with faultSeq := w }
  mail : MailKept s t
  active : t.mail.active = s.mail.active
  switching : t.mail.switching = s.mail.switching
  stands : ∀ c j, s.stands c j = true → t.stands c j = true

namespace RaisedOnly

theorem refl (s : State) : RaisedOnly s s := ⟨.refl s, fun _ => ⟨_, rfl⟩, .refl s, rfl, rfl, fun _ _ h => h⟩
theorem trans {s t u : State} (a : RaisedOnly s t) (b : RaisedOnly t u) : RaisedOnly s u := by
  refine ⟨a.hubs.trans b.hubs, fun l => ?_, a.mail.trans b.mail, b.active.trans a.active, b.switching.trans a.switching,
    fun c j h => b.stands c j (a.stands c j h)⟩
  obtain ⟨v, first⟩ := a.lane l
  obtain ⟨w, second⟩ := b.lane l
  exact ⟨w, by rw [second, first]⟩
theorem raiseFault (s : State) (code : Nat) (i : List Nat) (m : LaneMask) (k : Nat) : RaisedOnly s (s.raiseFault code i m k) := by
  obtain ⟨mail, active, switching⟩ : MailKept s (s.raiseFault code i m k) ∧ (s.raiseFault code i m k).mail.active = s.mail.active ∧
      (s.raiseFault code i m k).mail.switching = s.mail.switching := by
    unfold State.raiseFault
    extract_lets sc held s1 s2
    split
    · exact ⟨.refl s, rfl, rfl⟩
    · have path := (MailOnly.event s2 code 1 (laneOctet m) sc []).path
      refine ⟨(MailKept.refl s).trans (MailKept.event s2 ..), ?_, ?_⟩
      all_goals
        rw [path]
        rfl
  exact ⟨s.raiseFault_hubs code i m k, fun l => s.raiseFault_lane .., mail, active, switching, fun c j h => s.raiseFault_stands_other code i m k c j h⟩
theorem fault {code : Nat} {items : List Nat} (s : State) (m : LaneMask) (report : ∀ u : State, u.reaction code items m = u) :
    RaisedOnly s (s.fault code items m) := by
  rcases s.fault_silent report with e | e
  · rw [e]
    exact .refl s
  · rw [e]
    exact .raiseFault ..

end RaisedOnly

/-- A hub leaves mailbox service with its fault. -/
def State.hubOut (s : State) (h : HubId) : State :=
  (s.modHub h fun H => { H with outOfMail := true }).fault FaultCode.qmemFault [h.val] s.voteMask
theorem State.hubOut_raised (s : State) (h : HubId) : RaisedOnly (s.modHub h fun H => { H with outOfMail := true }) (s.hubOut h) :=
  .fault _ _ fun _ => rfl
theorem State.hubOut_out (s : State) (h : HubId) : (s.hubOut h).hubs[h].outOfMail = true := by rw [(s.hubOut_raised h).hubs h, State.modHub_same]
theorem State.hubOut_stands (s : State) (h : HubId) : (s.hubOut h).stands FaultCode.qmemFault [h.val] = true := (State.fault_report _ fun _ => rfl).1
/-- What is lost of the mailbox path where the active hub is hit. -/
def State.lostBy (s : State) (h : HubId) (a : QmemHit) : State := if s.mail.active = h then s.qmemLoss a else s
theorem State.lostBy_mailOnly (s : State) (h : HubId) (a : QmemHit) : MailOnly s (s.lostBy h a) := ((MailOnly.refl s).qmemLoss a).ite (.refl s)
theorem State.lostBy_txns {s : State} {h : HubId} {a : QmemHit} (spared : a = .idle ∨ s.mail.active ≠ h) : s.lostBy h a = s := by
  unfold State.lostBy
  rcases spared with rfl | other
  · exact ite_self s
  · exact if_neg other
theorem State.qmemFault_x (s : State) (a : QmemHit) : s.qmemFault 0 a = { (s.lostBy 0 a).hubOut 0 with
    mail := { ((s.lostBy 0 a).hubOut 0).mail with
      switching := ((s.lostBy 0 a).hubOut 0).mail.switching || ((s.lostBy 0 a).hubOut 0).mail.active == 0 } } := rfl
theorem State.qmemFault_y (s : State) (a : QmemHit) :
    s.qmemFault 1 a = ((s.lostBy 1 a).hubOut 1).fault FaultCode.standbyLost [1] ((s.lostBy 1 a).hubOut 1).voteMask := rfl
/-- What a hub's error leaves after what it loses: the hub out of service, its fault, FAULT_SEQ of the lanes, and the engine. -/
structure HubOut (h : HubId) (s t : State) : Prop where
  out : t.hubs[h].outOfMail = true
  stands : t.stands FaultCode.qmemFault [h.val] = true
  lane : ∀ l : LaneId, ∃ w, t.lanes[l] = { s.lanes[l] with faultSeq := w }
  mail : MailKept s t
  active : t.mail.active = s.mail.active
  switching : t.mail.switching = (s.mail.switching || (h == 0 && s.mail.active == 0))
theorem State.qmemFault_out (s : State) (h : HubId) (a : QmemHit) : HubOut h (s.lostBy h a) (s.qmemFault h a) := by
  match h with
  | 0 =>
    rw [State.qmemFault_x]
    generalize s.lostBy 0 a = u
    have raised := u.hubOut_raised 0
    refine ⟨u.hubOut_out 0, u.hubOut_stands 0, raised.lane, raised.mail, raised.active, ?_⟩
    change ((u.hubOut 0).mail.switching || (u.hubOut 0).mail.active == 0) = _
    rw [raised.switching, raised.active]
    rfl
  | 1 =>
    rw [State.qmemFault_y]
    generalize s.lostBy 1 a = u
    have last : RaisedOnly (u.hubOut 1) ((u.hubOut 1).fault FaultCode.standbyLost [1] (u.hubOut 1).voteMask) := .fault _ _ fun _ => rfl
    have all := (u.hubOut_raised 1).trans last
    refine ⟨by rw [last.hubs 1]; exact u.hubOut_out 1, last.stands _ _ (u.hubOut_stands 1), all.lane, all.mail, all.active, all.switching.trans ?_⟩
    exact (Bool.or_false _).symm
theorem State.qmemFault_standbyLost (s : State) (a : QmemHit) : (s.qmemFault 1 a).stands FaultCode.standbyLost [1] = true := by
  rw [State.qmemFault_y]
  exact (State.fault_report _ fun _ => rfl).1

/-! ## The switchover (R324) -/

theorem exec_hubSwitchover_other {s : State}
    (other : s.mail.switching = false ∨ s.mail.active ≠ 0 ∨ s.hubs[(1 : HubId)].inReset = true ∨ s.hubs[(1 : HubId)].outOfMail = true) :
    exec .hubSwitchover s = .next s := by
  refine congrArg Host.Outcome.next (if_neg fun due => ?_)
  simp only [Bool.and_eq_true, Bool.not_eq_true', beq_iff_eq] at due
  obtain ⟨⟨⟨switching, engine⟩, up⟩, serves⟩ := due
  rcases other with h | h | h | h
  · exact Bool.false_ne_true (h.symm.trans switching)
  · exact h engine
  · exact Bool.false_ne_true (up.symm.trans h)
  · exact Bool.false_ne_true (serves.symm.trans h)
theorem exec_hubSwitchover {s : State} (switching : s.mail.switching = true) (engine : s.mail.active = 0) (up : s.hubs[(1 : HubId)].inReset = false)
    (serves : s.hubs[(1 : HubId)].outOfMail = false) : exec .hubSwitchover s = .next s.switchover :=
  congrArg Host.Outcome.next (if_pos (by rw [switching, engine, up, serves]; rfl))
theorem MailOnly.freeRings {s t : State} (h : MailOnly s t) : MailOnly s t.freeRings := .each (fun u q => (MailOnly.refl u).freeRing q) h
theorem Holds.freeRings {s : State} {q : RingId} {bs : Bytes} (h : Holds s q bs) : Holds s.freeRings q bs :=
  State.each_keeps (P := fun u => Holds u q bs) [0, 1, 2, 3, 4, 5] (fun _ k _ held => held.freeRing k) h
/-- A transaction discarded leaves what the rings hold. -/
theorem Holds.discarded {s : State} {q : RingId} {bs : Bytes} (h : Holds s q bs) (n : Nat) (f : Txn → Txn) (k : RingId) :
    Holds ((s.modTxn n f).modRing k Ring.drop) q bs :=
  Holds.modRing (s := s.modTxn n f) h k _ fun _ _ held => held
theorem Holds.abort {s : State} {q : RingId} {bs : Bytes} (h : Holds s q bs) (t : Txn) : Holds (s.abort t) q bs := by
  unfold State.abort
  extract_lets s1
  have answered : Holds s1 q bs := by
    unfold s1
    split
    · exact h
    · exact h.forward ..
  split
  · exact answered
  · exact answered.discarded ..
/-- What is aborted is answered ABORTED. -/
theorem Holds.aborted (s : State) {t : Txn} (open_ : t.done = false) : Holds (s.abort t) (respRing t.src) (t.message (plain Status.aborted)) := by
  unfold State.abort
  extract_lets s1
  have answered : Holds s1 (respRing t.src) (t.message (plain Status.aborted)) := by
    unfold s1
    rw [if_neg (by rw [open_]; exact Bool.false_ne_true)]
    exact Holds.forwarded ..
  split
  · exact answered
  · exact answered.discarded ..
theorem Holds.allAborted {ts : List Txn} {t : Txn} (open_ : t.done = false) (mem : t ∈ ts) (s : State) :
    Holds (s.each ts State.abort) (respRing t.src) (t.message (plain Status.aborted)) := by
  induction ts generalizing s with
  | nil => cases mem
  | cons y ys ih =>
    rcases List.mem_cons.1 mem with rfl | later
    · exact State.each_keeps (P := fun u => Holds u (respRing t.src) (t.message (plain Status.aborted))) ys (fun _ y _ held => held.abort y)
        (Holds.aborted s open_)
    · exact ih later (s.abort y)
/-- Hub Y is the engine, what was in flight is answered, and beside the mailbox path and the log nothing is touched. -/
theorem State.switchover_answers (s : State) : let t := s.switchover
    t.mail.active = 1 ∧ t.mail.switching = false ∧
    (∀ x ∈ s.mail.txns, x.inFlight = true → x.done = false → Holds t (respRing x.src) (x.message (plain Status.aborted))) ∧
    s.flash.log <+: t.flash.log ∧ t.lanes = s.lanes ∧ t.fe = s.fe ∧ t.banks = s.banks := by
  dsimp only
  unfold State.switchover
  extract_lets m s0 s1
  have path : MailOnly s0 s1.freeRings := (MailOnly.each (fun u x => (MailOnly.refl u).abort x) (MailOnly.refl s0)).freeRings
  have noted := (MailOnly.event s1.freeRings EventCode.hubSwitchover 0 3 (scope [0, 1] 0xFF) []).path
  refine ⟨?_, ?_, fun x mem flies open_ => ?_, ?_, ?_, ?_, ?_⟩
  · unfold State.note
    rw [noted]
    change s1.freeRings.mail.active = 1
    rw [path.path]
  · unfold State.note
    rw [noted]
    change s1.freeRings.mail.switching = false
    rw [path.path]
  · refine Holds.mailKept ?_ (MailKept.event ..) (respRing_ne_events _)
    exact (Holds.allAborted open_ (List.mem_filter.2 ⟨mem, by rw [flies, open_]; rfl⟩) s0).freeRings
  · rw [State.note_flash, path.rest]
    exact List.prefix_append ..
  · rw [State.note_lanes, path.rest]
  · rw [State.note_fe, path.rest]
  · rw [State.note_banks, path.rest]

end Sys2Proof.Machine
end

section
/-!
PROOFS. The statement of the self-tests (R28, R321, R324, R423 to R425, R428, R429, R435, R437, R438, R442), put together.
-/

open Sys2Proof Sys2Proof.Machine

/-- Settles O57: a step of the window, a run, a restart or a slice at a time, each by what it ends in. -/
theorem selfTestsAreJudged : Obligations.SelfTestsAreJudged := by
  unfold Obligations.SelfTestsAreJudged
  refine ⟨fun s idle => ⟨fun a due reached => exec_coppiceDue idle due reached, exec_coppiceDue_early⟩, fun r l s rests => ?_, fun l r s => ?_,
    fun l r s => ?_, fun h r s => ?_, fun l s => ⟨fun present thawed => ?_, fun there => ?_⟩, fun h a s => ⟨fun serves => ⟨?_, ?_⟩, ?_⟩,
    fun s => ⟨rfl, exec_hubSwitchover_other, fun switching engine up serves => ⟨_, exec_hubSwitchover switching engine up serves, s.switchover_answers⟩⟩⟩
  · refine ⟨exec_coppiceStepEnd_save r rests, exec_coppiceStepEnd_early r rests, fun step late inRange => ?_, fun step late outside repeats => ?_,
      exec_coppiceStepEnd_judge r rests, exec_coppiceStepEnd_restore r rests, fun step voting _ sealed_ => ?_, fun step voting unsealed => ?_⟩
    · rw [exec_coppiceStepEnd_late r rests step late, if_pos ((rangesOk_iff r).2 inRange)]
      rfl
    · refine ⟨_, ?_, State.precheckInvalid_repeats r repeats⟩
      rw [exec_coppiceStepEnd_late r rests step late, if_neg fun ok => outside ((rangesOk_iff r).1 ok)]
    · obtain ⟨st, latches, held, step7⟩ := (s.copStep 7).rejoin_backIn l voting sealed_
      exact ⟨_, exec_coppiceStepEnd_rejoin r rests step, step7, beq_iff_eq.2 st, latches, held⟩
    · refine ⟨_, exec_coppiceStepEnd_rejoin r rests step, ?_⟩
      rw [(s.copStep 7).rejoin_unsealed l voting unsealed]
      exact State.loseLane_st ..
  · dsimp only
    rw [← rangesOk_iff, ← Otp.runOk_iff]
    refine ⟨exec_lbistDone_other r, fun rests step => ⟨_, exec_lbistDone r rests step, ?_, ?_, ?_, fun inRange ok => ?_, fun inRange bad new present => ?_,
      fun outside repeats => ?_⟩⟩
    · rw [State.judgeRun_lbist]
      rfl
    · rw [State.judgeRun_lbist]
      rfl
    · rw [State.judgeRun_lbist]
      rfl
    · exact State.judgeRun_passes (s := s.copStep 4) inRange ok
    · have fails : lbistResult s.otp l r s.lanes[l].lbist.invc = 2 := lbistResult_fail inRange (Bool.eq_false_of_not_eq_true bad)
      refine ⟨?_, State.judgeRun_loses (s := s.copStep 4) fails new present⟩
      rw [State.judgeRun_lbist]
      exact fails
    · exact State.judgeRun_repeats (s := s.copStep 4) (Bool.eq_false_of_not_eq_true outside) repeats
  · dsimp only
    rw [← rangesOk_iff, ← Otp.runOk_iff]
    refine ⟨exec_laneRestartDone_other, fun restarts voting _ sealed_ memory image param valid => ?_, fun restarts new bad => ?_⟩
    · have passes : lbistResult s.otp l r.lbist s.lanes[l].lbist.invc ≠ 2 := by
        rcases valid with ⟨inRange, ok⟩ | ⟨outside, repeats⟩
        · rw [lbistResult_pass inRange ok]
          decide
        · rw [lbistResult_invalid (Bool.eq_false_of_not_eq_true outside) repeats]
          decide
      obtain ⟨t, n, runs, st, latches, held, -⟩ := exec_laneRestartDone_rejoins restarts voting sealed_ memory image param passes
      exact ⟨t, runs, beq_iff_eq.2 st, latches, held⟩
    · refine exec_laneRestartDone_loses restarts new ?_
      rcases bad with ⟨inRange, differs⟩ | ⟨outside, third⟩ | rest
      · exact .inl (lbistResult_fail inRange (Bool.eq_false_of_not_eq_true differs))
      · exact .inl (lbistResult_third (Bool.eq_false_of_not_eq_true outside) third)
      · exact .inr rest
  · dsimp only
    rw [← rangesOk_iff, ← HubSlice.nextIndex_eq]
    refine ⟨exec_hubTestSlice_other, fun n serves runs voted idle new => ⟨exec_hubTestSlice_skips serves runs voted idle new, fun long inRange same => ?_,
      fun long outside => ?_, fun long inRange differs unraised => ?_⟩⟩
    · rw [exec_hubTestSlice_unfailed serves runs voted idle new long (State.sliceResult_pass inRange same) (by decide)]
      simp only [State.sliceAfter, true_and]
      rfl
    · exact exec_hubTestSlice_unfailed serves runs voted idle new long (State.sliceResult_invalid (Bool.eq_false_of_not_eq_true outside)) (by decide)
    · exact exec_hubTestSlice_fails serves runs voted idle new long (State.sliceResult_fail inRange differs) unraised
  · exact ⟨_, exec_sramScrubError_corrected present thawed, ⟨rfl, fun _ other => State.modLane_other _ _ _ _ other⟩, State.modLane_same ..⟩
  · obtain ⟨u, withdraws, now, last, restarts⟩ := exec_sramScrubError_withdraws there
    refine ⟨_, withdraws, fun old => ?_, fun a held recent => State.withdrawLane_recent (last.trans held) (by rw [now]; exact recent)⟩
    have old' : ∀ a, u.lanes[l].lastRestart = some a → a + day24 ≤ u.now := by rw [last, now]; exact old
    obtain ⟨st, count, -⟩ := u.withdrawLane_restarts l old'
    refine ⟨st, ?_, ?_⟩
    · rw [u.withdrawLane_lastRestart l old', now]
    · rw [count, restarts]
  · exact ⟨_, exec_sramScrubError_hubCorrected serves, ⟨rfl, fun _ other => State.modHub_other _ _ _ _ other⟩, State.modHub_same ..⟩
  · exact ⟨_, rfl, exec_sramScrubError_hub serves⟩
  · obtain ⟨out, stands, lane, mail, active, switching⟩ := s.qmemFault_out h a
    have path := s.lostBy_mailOnly h a
    refine ⟨_, rfl, out, stands, fun l => ?_, active.trans (by rw [path.path]), switching.trans (by rw [path.path]), fun y => ?_, fun spared => ?_,
      fun q x hit engine oldest => ?_⟩
    · obtain ⟨w, e⟩ := lane l
      rw [e, path.rest]
    · subst y
      exact s.qmemFault_standbyLost a
    · rw [mail.1, State.lostBy_txns spared]
    · refine Holds.mailKept ?_ mail (respRing_ne_events _)
      rw [hit, State.lostBy, if_pos engine]
      exact State.qmemLoss_body oldest
end

section
/-!
PROOFS. The arrival of a command whose operation changes what the mailbox path neither holds nor looks at.
-/

namespace Sys2Proof.Machine

/-- A change of the state that neither looks at the mailbox path of a state nor touches it. -/
def Beside (g : State → State) (a : State) : Prop := ∀ m hs n,
  g { a with mail := m, hubs := hs, upd := { a.upd with lastCmd := n } } = { g a with mail := m, hubs := hs, upd := { (g a).upd with lastCmd := n } }

theorem Beside.mail {g : State → State} {a : State} (h : Beside g a) : (g a).mail = a.mail := congrArg (·.mail) (h a.mail a.hubs a.upd.lastCmd)
theorem Beside.hubs {g : State → State} {a : State} (h : Beside g a) : (g a).hubs = a.hubs := congrArg (·.hubs) (h a.mail a.hubs a.upd.lastCmd)
/-- Two states that differ in the mailbox path still do so after a change beside it. -/
theorem agreeButMail.change {g : State → State} {a t : State} (h : agreeButMail a t) (beside : Beside g a) : agreeButMail (g a) (g t) := by
  obtain ⟨rest, hub⟩ := h
  have path : t.mail = { a.mail with rings := t.mail.rings, txns := t.mail.txns, nextNum := t.mail.nextNum, turn := t.mail.turn } := congrArg (·.mail) rest
  have whole : t = { a with mail := t.mail, hubs := t.hubs, upd := { a.upd with lastCmd := t.upd.lastCmd } } := by
    rw [← path] at rest
    exact rest
  have changed : g t = { g a with mail := t.mail, hubs := t.hubs, upd := { (g a).upd with lastCmd := t.upd.lastCmd } } :=
    (congrArg g whole).trans (beside ..)
  refine ⟨?_, fun x => ?_⟩
  · rw [changed, beside.mail]
    dsimp only
    rw [← path]
  · rw [changed, beside.hubs]
    exact hub x

/-- What is left beside the mailbox path after a change of both. -/
theorem MailOnly.change {g : State → State} {s t : State} (h : MailOnly s t)
    (beside : ∀ m hs, g { s with mail := m, hubs := hs } = { g s with mail := m, hubs := hs }) : MailOnly (g s) (g t) := by
  have changed : g t = { g s with mail := t.mail, hubs := t.hubs } := (congrArg g h.rest).trans (beside ..)
  have mail : (g s).mail = s.mail := congrArg (·.mail) (beside s.mail s.hubs)
  have hubs : (g s).hubs = s.hubs := congrArg (·.hubs) (beside s.mail s.hubs)
  refine ⟨?_, ?_, fun x => ?_⟩
  · rw [changed]
  · rw [changed, mail]
    exact h.path
  · rw [changed, hubs]
    exact h.hub x

section
variable {s : State} {c : MailCmd} {op : Nat} {f : Cmd → State → OpRes} {o : Option Reply}

/-- What an admitted command leaves whose operation makes a change beside the mailbox path and reports it. -/
theorem State.accept_changes (h : s.Admits c op) (hf : votedOp op = some f) (g : State → State) (beside : Beside g s) {r : State}
    (run : f (cmdAs c s) (s.taken c op) = (r, o)) (mail : MailOnly (g (s.taken c op)) r) (txns : r.mail.txns = (s.taken c op).mail.txns) :
    s.Executed (s.accept c op) c op o ∧ agreeButMail (g s) (s.accept c op) := by
  obtain ⟨executed, only_⟩ := State.accept_runs h hf run txns
  exact ⟨executed, ((s.taken_agrees c op).change beside).of_mailOnly (mail.trans only_)⟩
/-- What an admitted command leaves whose operation makes a change beside the mailbox path alone. -/
theorem State.accept_sets (h : s.Admits c op) (hf : votedOp op = some f) (g : State → State) (beside : Beside g s)
    (run : f (cmdAs c s) (s.taken c op) = (g (s.taken c op), o)) (txns : (g (s.taken c op)).mail.txns = (s.taken c op).mail.txns) :
    s.Executed (s.accept c op) c op o ∧ agreeButMail (g s) (s.accept c op) :=
  State.accept_changes h hf g beside run (.refl _) txns
/-- Where an operation's answer does not rest on the mailbox path, it is what the state before the arrival gives. -/
theorem State.accept_reads (h : s.Admits c op) (hf : votedOp op = some f) (r : State → Option Reply)
    (reads : ∀ m hs n, r { s with mail := m, hubs := hs, upd := { s.upd with lastCmd := n } } = r s)
    (run : f (cmdAs c s) (s.taken c op) = (s.taken c op, r (s.taken c op))) :
    s.Executed (s.accept c op) c op (r s) ∧ agreeButMail s (s.accept c op) := by
  rw [(s.taken_agrees c op).field r reads] at run
  exact State.accept_answers h hf run

end

end Sys2Proof.Machine
end

section
/-!
PROOFS. NOP, IDENT, PARAM_READ and UPD_STATUS (R342, R343, R353, R369).
-/

namespace Sys2Proof.Machine

section
variable {s : State} {c : MailCmd}

/-- What PARAM_READ answers to BANK 0 or 1 and a record that exists (R353). -/
def State.recordReply (s : State) (bank type index : Nat) : Reply :=
  if bank = 0 ∧ s.activeBank = none then plain Status.notReady
  else okReply (toLe 1 type ++ toLe 1 0 ++ toLe 2 index ++ (if bank = 1 then s.working else s.params).getRec type index)
theorem opParamRead_named {c : Cmd} (u : State) (bank : leAt c.p 0 1 ≤ 1) (named : recNamed (leAt c.p 1 1) (leAt c.p 2 2) = true) :
    opParamRead c u = (u, some (u.recordReply (leAt c.p 0 1) (leAt c.p 1 1) (leAt c.p 2 2))) := by
  have range : (decide (1 < leAt c.p 0 1) || !recNamed (leAt c.p 1 1) (leAt c.p 2 2)) = false := by
    rw [named, decide_eq_false (Nat.not_lt.2 bank)]
    rfl
  unfold opParamRead State.recordReply
  dsimp only
  rw [State.unless_cons range]
  by_cases missing : leAt c.p 0 1 = 0 ∧ u.activeBank = none
  · rw [if_pos missing, State.unless_refused (by simp [missing])]
  · have ready : (leAt c.p 0 1 == 0 && u.activeBank.isNone) = false := by
      rw [← Bool.not_eq_true]
      simpa using missing
    rw [if_neg missing, State.unless_cons ready, State.unless_nil]
/-- OWNER of UPD_STATUS: a free octet while no session is owned. -/
def State.shownOwner (s : State) : Nat :=
  match s.upd.owner with
  | some x => s.ownerOctet x
  | none => (Config.freeValue s.fresh).toNat % 256
/-- UPD_STATUS (R369). -/
def State.updOctets (s : State) : Bytes :=
  toLe 1 s.upd.st.code ++ toLe 1 s.shownOwner ++ toLe 1 (bit s.upd.trialRun 0 + bit s.upd.incompat 1 + bit (s.upd.st == .verified) 2) ++
  toLe 1 s.flash.bootRec.trials ++ toLe 4 s.upd.received ++ toLe 4 s.upd.size ++ toLe 4 s.upd.version.toNat
theorem opUpdStatus_answers (c : Cmd) (u : State) : opUpdStatus c u = (u.useFree 1, some (okReply u.updOctets)) := rfl

theorem State.Admits.updStatus (h : s.Admits c 0x0907) : s.Executed (s.accept c 0x0907) c 0x0907 (some (okReply s.updOctets)) ∧
    agreeButMail (s.useFree 1) (s.accept c 0x0907) := by
  have run := opUpdStatus_answers (cmdAs c s) (s.taken c 0x0907)
  rw [(s.taken_agrees c 0x0907).field State.updOctets fun _ _ _ => rfl] at run
  exact State.accept_sets h rfl (fun u => u.useFree 1) (fun _ _ _ => rfl) run rfl

end

end Sys2Proof.Machine

open Sys2Proof Sys2Proof.Machine

/-- Settles O35: what the four answer with lies outside the mailbox path, so that the arrival of the command does not change it. -/
theorem readsAnswerAtOnce : Obligations.ReadsAnswerAtOnce := by
  unfold Obligations.ReadsAnswerAtOnce
  refine ⟨fun c s h => ⟨_, rfl, State.accept_answers h rfl rfl⟩,
    fun c s h => ⟨_, rfl, State.accept_reads h rfl (fun u => some (okReply u.identOctets)) (fun _ _ _ => rfl) rfl⟩,
    fun c s h bank named => ⟨_, rfl, ?_⟩, fun c s h => ⟨_, s.shownOwner, rfl, fun x owned => ?_, h.updStatus.symm⟩⟩
  · exact (State.accept_reads h rfl (fun u => some (u.recordReply (leAt c.payload 0 1) (leAt c.payload 1 1) (leAt c.payload 2 2))) (fun _ _ _ => rfl)
      (opParamRead_named (c := cmdAs c s) _ bank named)).symm
  · rw [State.shownOwner, owned]
end

section
/-!
PROOFS. LIFECYCLE_REQ, RESET_ARM and RESET_EXEC (R347, R348, R388): the two steps of a command that is not to be given by mistake.
-/

namespace Sys2Proof.Machine

theorem leAt_lt (bs : Bytes) (n : Nat) : ∀ k, leAt bs k n < 256 ^ n := by
  induction n with
  | zero => exact fun _ => Nat.one_pos
  | succ n ih =>
    intro k
    have head := (octet bs k).isLt
    have tail := ih (k + 1)
    rw [leAt, Nat.pow_succ]
    omega
theorem ofNat_leAt_toNat (bs : Bytes) (k : Nat) : (BitVec.ofNat 32 (leAt bs k 4)).toNat = leAt bs k 4 :=
  Nat.mod_eq_of_lt (leAt_lt bs 4 k)

/-! ## The life cycle (R388) -/

/-- A transition that wipes station data leads to FACTORY or RETIRED. -/
theorem lcStepOf_wipes {old k : LifeCycle} (h : lcStepOf old k = some true) : k ≠ .maintenance ∧ k ≠ .commissioning := by
  revert h
  cases old <;> cases k <;> decide
/-- The working copy after a transition (R388). -/
def State.workAfter (s : State) (old k : LifeCycle) : ParamImage :=
  if k = .maintenance then (s.activeBank.map (·.image)).getD s.defaultImage
  else if k = .commissioning ∧ old = .factory then s.defaultImage else s.working
/-- The life-cycle state moves at step 2 (R388), with the mark of a wipe that is to follow (R389). -/
def State.lifecycleMoved (s : State) (old k : LifeCycle) (person : Nat) (wipe : Bool) (num : Nat) : State :=
  { s with
    flash := { s.flash with
      lifecycle := k
      wiping := wipe || s.flash.wiping
      log := s.flash.log ++ [s.eventOctets EventCode.lifecycleChange 0 3 (scope []) (toLe 1 old.code ++ toLe 1 k.code ++ toLe 4 person)] }
    mode := { s.mode with lifecycle := some k, lcStep := none, wipeNum := if wipe then some num else s.mode.wipeNum }
    working := s.workAfter old k }

/-- What step 1 keeps: its sender, its fields, CONFIRM and its instant (R347). -/
def State.stepKept (s : State) (x : Source) (target person : Nat) : State :=
  { s with mode := { s.mode with lcStep := some (x, target, BitVec.ofNat 32 person, s.confirmOf target person, s.now) } }
def State.stepSpent (s : State) : State := { s with mode := { s.mode with lcStep := none } }
/-- The step is spent, and the state stored and reported (R388). -/
def State.lifecycleSet (s : State) (k : LifeCycle) : State :=
  { s with flash := { s.flash with lifecycle := k }, mode := { s.mode with lcStep := none, lifecycle := some k } }
/-- Station data is to be wiped, and the command answered then (R389). -/
def State.wipeMarked (s : State) (num : Nat) : State := { s with flash := { s.flash with wiping := true }, mode := { s.mode with wipeNum := some num } }
def State.workDefault (s : State) : State := { s with working := s.defaultImage }
/-- Step 2 as it was asked for, in time. -/
def State.stepTaken (s : State) (old k : LifeCycle) (person num : Nat) : OpRes :=
  match lcStepOf old k with
  | none => (s.stepSpent, some (plain Status.lifecycle))
  | some wipe =>
    let t := s.stepSpent.setLifecycle k person
    if wipe then (t.wipeMarked num, none)
    else if k = .commissioning ∧ old = .factory then (t.workDefault, some (okReply []))
    else if k = .maintenance then (t.workFromBank, some (okReply []))
    else (t, some (okReply []))

section
variable {c : Cmd} (u : State) {k old : LifeCycle}

/-- LIFECYCLE_REQ of valid fields at step 1. -/
theorem opLifecycleReq_first (zero : allZero c.p 8 4 = true) (target : lcTarget (leAt c.p 0 1) = some k) (person : badPerson (leAt c.p 4 4) = false)
    (stands : u.mode.lifecycle = some old) (step : leAt c.p 1 1 = 1) (confirm : leAt c.p 2 2 = 0) :
    opLifecycleReq c u = match lcStepOf old k with
      | none => (u, some (plain Status.lifecycle))
      | some _ => (u.stepKept c.src (leAt c.p 0 1) (leAt c.p 4 4),
          some (okReply (toLe 2 (u.confirmOf (leAt c.p 0 1) (leAt c.p 4 4)).toNat ++ toLe 2 0))) := by
  unfold opLifecycleReq
  dsimp only
  rw [State.unless_cons (by rw [zero]; rfl), State.unless_cons (by rw [target, person, step, confirm]; rfl), State.unless_nil, target]
  split
  · rename_i k' old' to_ from_
    obtain rfl := Option.some.inj to_
    obtain rfl := Option.some.inj (stands.symm.trans from_)
    exact if_pos step
  · rename_i none_
    exact absurd stands (none_ k old rfl)
/-- LIFECYCLE_REQ of valid fields at step 2. -/
theorem opLifecycleReq_second (zero : allZero c.p 8 4 = true) (target : lcTarget (leAt c.p 0 1) = some k) (person : badPerson (leAt c.p 4 4) = false)
    (stands : u.mode.lifecycle = some old) (step : leAt c.p 1 1 = 2) :
    opLifecycleReq c u = match u.mode.lcStep with
      | none => (u, some (plain Status.auth))
      | some (src, t1, p1, w, at1) =>
        if src = c.src ∧ t1 = leAt c.p 0 1 ∧ p1.toNat = leAt c.p 4 4 ∧ w.toNat = leAt c.p 2 2 ∧ u.now ≤ at1 + 60 * Config.sec then
          u.stepTaken old k (leAt c.p 4 4) c.num
        else (u, some (plain Status.auth)) := by
  unfold opLifecycleReq
  dsimp only
  rw [State.unless_cons (by rw [zero]; rfl), State.unless_cons (by rw [target, person, step]; rfl), State.unless_nil, target]
  split
  · rename_i k' old' to_ from_
    obtain rfl := Option.some.inj to_
    obtain rfl := Option.some.inj (stands.symm.trans from_)
    exact if_neg (by rw [step]; decide)
  · rename_i none_
    exact absurd stands (none_ k old rfl)
/-- Step 2 moves the life-cycle state. -/
theorem State.stepTaken_moves (stands : u.mode.lifecycle = some old) {wipe : Bool} (leads : lcStepOf old k = some wipe) (person num : Nat) :
    ∃ r, u.stepTaken old k person num = (r, if wipe then none else some (okReply [])) ∧
      MailOnly (u.lifecycleMoved old k person wipe num) r ∧ r.mail.txns = u.mail.txns := by
  unfold State.stepTaken
  rw [leads]
  extract_lets t
  have code : u.stepSpent.lcCode = old.code := congrArg (fun x => (Option.map LifeCycle.code x).getD 0) stands
  have txns : t.mail.txns = u.mail.txns := State.note_txns ..
  have logged : MailOnly ((u.lifecycleSet k).logRec
      (u.eventOctets EventCode.lifecycleChange 0 3 (scope []) (toLe 1 u.stepSpent.lcCode ++ toLe 1 k.code ++ toLe 4 person))) t :=
    MailOnly.event (u.lifecycleSet k) ..
  rw [code] at logged
  generalize t = t at txns logged
  unfold State.lifecycleMoved
  cases wipe with
  | true =>
    obtain ⟨maintenance, commissioning⟩ := lcStepOf_wipes leads
    have work : u.workAfter old k = u.working := (if_neg maintenance).trans (if_neg fun h => commissioning h.1)
    rw [work]
    exact ⟨_, rfl, logged.change (g := fun v => v.wipeMarked num) fun _ _ => rfl, txns⟩
  | false =>
    rw [if_neg Bool.false_ne_true, if_neg Bool.false_ne_true]
    by_cases first : k = .commissioning ∧ old = .factory
    · have work : u.workAfter old k = u.defaultImage := (if_neg (by rw [first.1]; decide)).trans (if_pos first)
      rw [if_pos first, work]
      exact ⟨_, rfl, logged.change (g := State.workDefault) fun _ _ => rfl, txns⟩
    · rw [if_neg first]
      by_cases maintenance : k = .maintenance
      · have work : u.workAfter old k = (u.activeBank.map (·.image)).getD u.defaultImage := if_pos maintenance
        rw [if_pos maintenance, work]
        exact ⟨_, rfl, logged.change (g := State.workFromBank) fun _ _ => rfl, txns⟩
      · have work : u.workAfter old k = u.working := (if_neg maintenance).trans (if_neg first)
        rw [if_neg maintenance, work]
        exact ⟨_, rfl, logged, txns⟩

end

end Sys2Proof.Machine

open Sys2Proof Sys2Proof.Machine

/-- Settles O38: the first step keeps what the second has to repeat, and the second moves the state that flash and register hold. -/
theorem lifecycleTakesTwoSteps : Obligations.LifecycleTakesTwoSteps := by
  unfold Obligations.LifecycleTakesTwoSteps
  intro c k old s h zero target person stands
  have stands' : (s.taken c 0x0005).mode.lifecycle = some old := by rw [taken_mode, stands]
  have confirms := (s.taken_agrees c 0x0005).field (·.confirmOf (leAt c.payload 0 1) (leAt c.payload 4 4)) fun _ _ _ => rfl
  refine ⟨fun step confirm none_ => ⟨_, rfl, State.accept_answers h rfl ?_⟩, fun step confirm leads => ⟨_, rfl, ?_⟩,
    fun step none_ => ⟨_, rfl, State.accept_answers h rfl ?_⟩, fun w at1 wipe step confirm inTime first leads => ⟨_, rfl, ?_⟩⟩
  · rw [opLifecycleReq_first (c := cmdAs c s) _ zero target person stands' step confirm, none_]
  · obtain ⟨wipe, leads⟩ := Option.ne_none_iff_exists'.1 leads
    refine State.accept_sets h rfl (fun u => u.stepKept c.src (leAt c.payload 0 1) (leAt c.payload 4 4)) (fun _ _ _ => rfl) ?_ rfl
    rw [opLifecycleReq_first (c := cmdAs c s) _ zero target person stands' step confirm, leads]
    dsimp only [cmdAs_p]
    rw [confirms]
    rfl
  · rw [opLifecycleReq_second (c := cmdAs c s) _ zero target person stands' step, taken_mode, none_]
  · have run := opLifecycleReq_second (c := cmdAs c s) (s.taken c 0x0005) zero target person stands' step
    rw [taken_mode, taken_now, first] at run
    replace run := run.trans (if_pos ⟨rfl, rfl, ofNat_leAt_toNat .., confirm.symm, inTime⟩)
    obtain ⟨r, moves, mail, txns⟩ := State.stepTaken_moves (s.taken c 0x0005) stands' leads (leAt c.payload 4 4) s.mail.nextNum
    replace run := run.trans moves
    obtain ⟨executed, agrees⟩ := State.accept_changes h rfl (fun u => u.lifecycleMoved old k (leAt c.payload 4 4) wipe s.mail.nextNum)
      (fun _ _ _ => rfl) run mail txns
    have flash := agrees.field (·.flash) fun _ _ _ => rfl
    have mode := agrees.field (·.mode) fun _ _ _ => rfl
    have working := agrees.field (·.working) fun _ _ _ => rfl
    refine ⟨executed, flash, mode, working, ?_⟩
    rw [flash, mode, working]
    exact agrees
end

section
/-!
PROOFS. RESET_ARM, RESET_EXEC and the reset that they make due (R348, R377, R380).
-/

namespace Sys2Proof.Machine

/-- RESET_EXEC of valid fields: it repeats the arming that stands, within 10 s (R348). -/
def State.resetAsked (u : State) (person confirm : Nat) : OpRes :=
  match u.mode.armed with
  | none => (u, some (plain Status.auth))
  | some (p1, w, at1) =>
    if p1.toNat = person ∧ w.toNat = confirm ∧ u.now ≤ at1 + 10 * Config.sec then
      ({ u with mode := { u.mode with armed := none, resetDue := some u.now } }, some (okReply []))
    else (u, some (plain Status.auth))

section
variable {c : Cmd} (u : State)

theorem opResetArm_arms (person : badPerson (leAt c.p 0 4) = false) : opResetArm c u =
    ({ u with mode := { u.mode with armed := some (BitVec.ofNat 32 (leAt c.p 0 4), u.confirmOf 0 (leAt c.p 0 4), u.now) } },
      some (okReply (toLe 2 (u.confirmOf 0 (leAt c.p 0 4)).toNat ++ toLe 2 0))) := by
  unfold opResetArm
  dsimp only
  rw [State.unless_cons person, State.unless_nil]
theorem opResetExec_valid (zero : allZero c.p 2 2 = true) (person : badPerson (leAt c.p 4 4) = false) :
    opResetExec c u = u.resetAsked (leAt c.p 4 4) (leAt c.p 0 2) := by
  unfold opResetExec
  dsimp only
  rw [State.unless_cons (by rw [zero]; rfl), State.unless_cons person, State.unless_nil]
  rfl

end

theorem exec_moduleResetAfterExec_due {s : State} (due : s.mode.resetDue ≠ none) (two : 2 ≤ s.activeLanes.length) :
    exec .moduleResetAfterExec s = .next s.moduleReset := by
  refine congrArg Host.Outcome.next (if_pos ?_)
  rw [Option.isSome_iff_ne_none.2 due, decide_eq_true two]
  rfl
theorem exec_moduleResetAfterExec_not {s : State} (not : s.mode.resetDue = none ∨ s.activeLanes.length < 2) : exec .moduleResetAfterExec s = .next s := by
  refine congrArg Host.Outcome.next (if_neg ?_)
  rcases not with none_ | few
  · rw [none_]
    exact Bool.false_ne_true
  · rw [decide_eq_false (Nat.not_le.2 few), Bool.and_false]
    exact Bool.false_ne_true

end Sys2Proof.Machine

open Sys2Proof Sys2Proof.Machine

/-- Settles O39: the arming is kept, what repeats it in time makes the reset due, and the reset keeps what flash and OTP hold. -/
theorem resetsTakeTwoSteps : Obligations.ResetsTakeTwoSteps := by
  unfold Obligations.ResetsTakeTwoSteps
  refine ⟨fun c s h person => ⟨_, rfl, ?_⟩, fun c s h zero person => ⟨fun w at1 armed confirm inTime => ⟨_, rfl, ?_⟩, fun none_ => ⟨_, rfl, ?_⟩⟩,
    fun s => ⟨exec_moduleResetAfterExec_not, fun due two => ⟨_, exec_moduleResetAfterExec_due due two, s.moduleReset_restarted⟩⟩⟩
  · refine State.accept_sets h rfl (fun u => { u with mode := { u.mode with
      armed := some (BitVec.ofNat 32 (leAt c.payload 0 4), u.confirmOf 0 (leAt c.payload 0 4), u.now) } }) (fun _ _ _ => rfl) ?_ rfl
    rw [opResetArm_arms (c := cmdAs c s) _ person]
    dsimp only [cmdAs_p]
    rw [(s.taken_agrees c 0x000A).field (·.confirmOf 0 (leAt c.payload 0 4)) fun _ _ _ => rfl]
    rfl
  · refine State.accept_sets h rfl (fun u => { u with mode := { u.mode with armed := none, resetDue := some u.now } }) (fun _ _ _ => rfl) ?_ rfl
    rw [opResetExec_valid (c := cmdAs c s) _ zero person, State.resetAsked, taken_mode, armed]
    exact if_pos ⟨ofNat_leAt_toNat .., confirm.symm, by rw [taken_now]; exact inTime⟩
  · refine State.accept_answers h rfl ?_
    rw [opResetExec_valid (c := cmdAs c s) _ zero person, State.resetAsked, taken_mode, none_]
end

section
/-!
PROOFS. MODE_REQ (R346, R373, R374), and HALT entered by a command (R376).
-/

namespace Sys2Proof.Machine

/-- What HALT leaves that is entered at once: the mode, the lanes' drive streams and the probe sources; of the rest the log alone has grown. -/
structure Halts (s t : State) (cause : Nat) : Prop where
  mode : t.mode = { s.mode with
    mode := .halt, prev := s.mode.mode, cause := cause, next := none, reqs := s.mode.answer.toList ++ s.mode.reqs, answer := none }
  lane : ∀ l : LaneId, t.lanes[l] = { s.lanes[l] with drive := { s.lanes[l].drive with running := false } }
  fe : ∀ g : GroupId, t.fe[g] = { s.fe[g] with probeEn := 0, chips := 0 }
  working : t.working = s.working
  flash : t.flash = { s.flash with log := t.flash.log }
  log : s.flash.log <+: t.flash.log
  groups : t.groups = s.groups
  banks : t.banks = s.banks
  faults : t.faults = s.faults
  otp : t.otp = s.otp
  wear : t.wear = s.wear

/-- Nothing that HALT entry bears on rests on the activities or the mailbox path. -/
theorem Halts.rest {s t : State} {cause : Nat} (h : Halts s t cause) {u : State} (e : u = { t with act := u.act, mail := u.mail, hubs := u.hubs }) :
    Halts s u cause := by
  rw [e]
  exact ⟨h.mode, h.lane, h.fe, h.working, h.flash, h.log, h.groups, h.banks, h.faults, h.otp, h.wear⟩
theorem State.haltEntry_lane (s : State) (cause : Nat) (l : LaneId) :
    (s.haltEntry cause).lanes[l] = { s.lanes[l] with drive := { s.lanes[l].drive with running := false } } := by
  unfold State.haltEntry
  extract_lets s0 s1 s2 s3
  show s1.lanes[l] = _
  exact State.modLanes_at s0 _ l
theorem State.haltEntry_fe (s : State) (cause : Nat) (g : GroupId) : (s.haltEntry cause).fe[g] = { s.fe[g] with probeEn := 0, chips := 0 } := by
  unfold State.haltEntry
  extract_lets s0 s1 s2 s3
  exact Vector.getElem_map ..
theorem Halts.of_mailOnly {s t u : State} {cause : Nat} (h : Halts s t cause) (k : MailOnly t u) : Halts s u cause := by
  have act : u.act = t.act := by rw [k.rest]
  refine h.rest ?_
  rw [act]
  exact k.rest
/-- HALT entry stops drive streams and probe sources and adds to the log (R376). -/
theorem State.haltEntry_halts {s u : State} {cause : Nat} (mode : u.mode = { s.mode with
      mode := .halt, prev := s.mode.mode, cause := cause, next := none, reqs := s.mode.answer.toList ++ s.mode.reqs, answer := none })
    (flash : u.flash = { s.flash with log := u.flash.log }) (log : s.flash.log <+: u.flash.log)
    (rest : u = { s with mode := u.mode, coppice := u.coppice, mail := u.mail, hubs := u.hubs, flash := u.flash }) : Halts s (u.haltEntry cause) cause where
  mode := mode
  lane l := by rw [State.haltEntry_lane, rest]
  fe g := by rw [State.haltEntry_fe, rest]
  working := by rw [rest]; rfl
  flash := congrArg (fun f : Flash => { f with log := (u.haltEntry cause).flash.log }) flash
  log := log.trans (List.prefix_append ..)
  groups := by rw [rest]; rfl
  banks := by rw [rest]; rfl
  faults := by rw [rest]; rfl
  otp := by rw [rest]; rfl
  wear := by rw [rest]; rfl

theorem State.stopTeach_rest (s : State) : s.stopTeach = { s with act := s.stopTeach.act, mail := s.stopTeach.mail, hubs := s.stopTeach.hubs } := by
  unfold State.stopTeach
  split <;> rfl
/-- A TEACH that ends answers its own transaction. -/
theorem State.stopTeach_txns {s : State} (others : ∀ r, s.act.teach = some r → ∀ x ∈ s.mail.txns, x.num ≠ r.num) :
    s.stopTeach.mail.txns = s.mail.txns := by
  unfold State.stopTeach
  split
  · rfl
  · rename_i r running
    exact (List.map_congr_left fun x mem => if_neg fun e => others r running x mem (beq_iff_eq.1 e)).trans (List.map_id _)

section
variable (s : State) (cause : Nat)

/-- HALT entered at once (R373, R376). -/
theorem State.enterMode_halts (causeNot : cause ≠ 15) : Halts s (s.enterMode .halt cause) cause := by
  unfold State.enterMode
  extract_lets old m s0 p s1 d s2 s3 a s4
  have turned : s1 = { s0 with coppice := s1.coppice } := by
    unfold s1
    split <;> rfl
  have noted : s2 = s1.note EventCode.modeChange [] d := if_neg causeNot
  have told := s1.note_rest EventCode.modeChange [] d 3 0xFF
  have halted : Halts s s3 cause := by
    refine State.haltEntry_halts ?_ ?_ ?_ ?_
    · rw [noted, State.note_mode, turned]
      rfl
    · rw [noted, State.note_flash, turned]
    · rw [noted, State.note_flash, turned]
      exact List.prefix_append ..
    · rw [noted]
      dsimp only at told
      rw [told, turned]
  split
  · have ended : Halts s s4 cause := halted.rest rfl
    refine ended.rest ?_
    rw [if_pos rfl]
    exact s4.stopTeach_rest
  · exact halted
/-- HALT ends no transaction but that of a running TEACH. -/
theorem State.enterMode_halt_txns (others : ∀ r, s.act.teach = some r → ∀ x ∈ s.mail.txns, x.num ≠ r.num) :
    (s.enterMode .halt cause).mail.txns = s.mail.txns := by
  unfold State.enterMode
  extract_lets old m s0 p s1 d s2 s3 a s4
  have turned : s1 = { s0 with coppice := s1.coppice } := by
    unfold s1
    split <;> rfl
  have noted : s2.mail.txns = s.mail.txns ∧ s2.act = s.act := by
    unfold s2
    split
    · rw [turned]
      exact ⟨rfl, rfl⟩
    · rw [State.note_txns, State.note_act, turned]
      exact ⟨rfl, rfl⟩
  obtain ⟨txns, act⟩ := noted
  split
  · rw [if_pos rfl, ← txns]
    refine State.stopTeach_txns fun r running x mem => ?_
    have teach : s.act.teach = some r := by
      rw [← act]
      exact running
    exact others r teach x (txns ▸ mem)
  · exact txns

end

/-- MODE_REQ of valid fields. -/
theorem opModeReq_valid {c : Cmd} {m : Mode} (u : State) (zero : allZero c.p 1 3 = true) (target : reqTarget (leAt c.p 0 1) = some m)
    (person : badPerson (leAt c.p 4 4) = false) : opModeReq c u =
    if m = u.mode.mode then (u, some (okReply []))
    else if !u.reqPermitted m then (u, some (plain Status.mode))
    else if m = .halt then ((u.logReq m 12 (BitVec.ofNat 32 (leAt c.p 4 4))).enterMode .halt 12, some (okReply []))
    else ({ u with mode := { u.mode with
      reqs := u.mode.reqs ++ [{ target := m, person := BitVec.ofNat 32 (leAt c.p 4 4), num := c.num }] } }, none) := by
  unfold opModeReq
  dsimp only
  rw [State.unless_cons (by rw [zero]; rfl), State.unless_cons (by rw [target, person]; rfl), State.unless_nil, target]
/-- HALT entered after its request has been logged. -/
theorem State.logReq_halts (s : State) (p : DWord) : Halts s ((s.logReq .halt 12 p).enterMode .halt 12) 12 := by
  obtain ⟨mode, lane, fe, working, flash, log, groups, banks, faults, otp, wear⟩ := (s.logReq .halt 12 p).enterMode_halts 12 (by decide)
  exact ⟨mode, lane, fe, working, flash, (List.prefix_append ..).trans log, groups, banks, faults, otp, wear⟩
/-- MODE_REQ HALT while no TEACH of its own number runs. -/
theorem State.Admits.halt {s : State} {c : MailCmd} (h : s.Admits c 0x0004) {m : Mode} (zero : allZero c.payload 1 3 = true)
    (target : reqTarget (leAt c.payload 0 1) = some m) (person : badPerson (leAt c.payload 4 4) = false) (changes : m ≠ s.mode.mode)
    (permitted : s.reqPermitted m = true) (halt : m = .halt) (apart : ∀ r, s.act.teach = some r → r.num ≠ s.mail.nextNum) :
    s.Executed (s.accept c 0x0004) c 0x0004 (some (okReply [])) ∧ Halts s (s.accept c 0x0004) 12 := by
  have run := opModeReq_valid (c := cmdAs c s) (s.taken c 0x0004) zero target person
  rw [taken_mode, if_neg changes, (s.taken_agrees c 0x0004).field (·.reqPermitted m) fun _ _ _ => rfl, permitted, Bool.not_true,
    if_neg Bool.false_ne_true, if_pos halt, halt] at run
  obtain ⟨executed, only_⟩ := State.accept_runs h rfl run (State.enterMode_halt_txns _ 12 fun r running x mem => by
    obtain rfl := List.mem_singleton.1 mem
    refine Ne.symm (apart r ?_)
    rw [← running]
    exact congrArg (·.teach) (taken_act s c 0x0004).symm)
  refine ⟨executed, Halts.of_mailOnly ?_ only_⟩
  obtain ⟨mode, lane, fe, working, flash, log, groups, banks, faults, otp, wear⟩ :=
    (s.taken c 0x0004).logReq_halts (BitVec.ofNat 32 (leAt c.payload 4 4))
  simp only [taken_mode, taken_lanes, taken_fe, taken_working, taken_flash, taken_groups, taken_banks, taken_faults, taken_otp, taken_wear]
    at mode lane fe working flash log groups banks faults otp wear
  exact ⟨mode, lane, fe, working, flash, log, groups, banks, faults, otp, wear⟩

end Sys2Proof.Machine

open Sys2Proof Sys2Proof.Machine

/-- Settles O37: the request is judged by the mode in force, and of those that change it HALT alone does so at once. -/
theorem modeRequestsAreLoggedOrKept : Obligations.ModeRequestsAreLoggedOrKept := by
  unfold Obligations.ModeRequestsAreLoggedOrKept
  intro c m s h zero target person
  have run := opModeReq_valid (c := cmdAs c s) (s.taken c 0x0004) zero target person
  have permits := (s.taken_agrees c 0x0004).field (·.reqPermitted m) fun _ _ _ => rfl
  rw [taken_mode, permits] at run
  refine ⟨fun same => ⟨_, rfl, State.accept_answers h rfl (run.trans (if_pos same))⟩, fun changes refused => ⟨_, rfl, State.accept_answers h rfl ?_⟩,
    fun changes permitted halt apart => ⟨_, rfl, ?_⟩, fun changes permitted other => ⟨_, rfl, ?_⟩⟩
  · rw [run, if_neg changes, refused]
    rfl
  · obtain ⟨executed, halts⟩ := h.halt zero target person changes permitted halt apart
    exact ⟨executed, halts.mode, halts.lane, halts.fe, halts.working, halts.flash, halts.log, halts.groups, halts.banks, halts.faults, halts.otp, halts.wear⟩
  · rw [if_neg changes, permitted, Bool.not_true, if_neg Bool.false_ne_true, if_neg other] at run
    exact State.accept_sets h rfl (fun u => { u with mode := { s.mode with
      reqs := s.mode.reqs ++ [{ target := m, person := BitVec.ofNat 32 (leAt c.payload 4 4), num := s.mail.nextNum }] } }) (fun _ _ _ => rfl) run rfl
end

section
/-!
PROOFS. SEAL_SHOW and SEAL_CONFIRM (R354): the working copy becomes the active bank, and no PARAM_CORRUPT is left standing.
-/

namespace Sys2Proof.Machine

/-! ## Faults that end -/

/-- A fault of a code and items, whatever its cause octet. -/
def isFault (f : FaultRec) (code : Nat) (items : List Nat) : Bool := f.code == code && f.scope.take 3 == (scope items).take 3

/-- No lane holds a fault that all withdraw. -/
theorem State.withdrawFault_faults (s : State) (code : Nat) (items : List Nat) :
    (s.withdrawFault code items).faults = s.faults.filter fun f => !isFault f code items := by
  unfold State.withdrawFault
  extract_lets sc hit out keep s1
  have none_ : ∀ m : LaneMask, m &&& ~~~7 = 0 := by decide
  have kept : keep = s.faults.filter fun f => !isFault f code items := List.filter_congr fun f _ => by
    rw [none_, beq_self_eq_true, Bool.and_true]
    rfl
  have same : (keep.map fun (f : FaultRec) => if hit f then { f with lanes := f.lanes &&& ~~~7 } else f) = keep := by
    refine (List.map_congr_left fun f mem => if_neg ?_).trans (List.map_id _)
    rw [kept, List.mem_filter, Bool.not_eq_true'] at mem
    exact ne_true_of_eq_false mem.2
  rw [each_field (·.faults) out (fun t f _ => State.event_faults ..) s1, ← kept]
  exact same
/-- A scope of four octets is told by the items it names. -/
theorem scope_take (sc : Bytes) (four : sc.length = 4) : (scope ((sc.take 3).map (·.toNat))).take 3 = sc.take 3 := by
  obtain ⟨a, b, c, d, rfl⟩ := List.length_eq_four.1 four
  simp [scope]
/-- A state without what reports and seals touch beside the stores: rings and hubs, the log, the list of faults, the wear monitor, the update
session and the counter of free values. -/
def State.settings (s : State) : State :=
  { s with
    mail := { txns := s.mail.txns }, hubs := Vector.replicate 2 {}, flash := { s.flash with log := [] }, faults := [], wear := {}, upd := {}, fresh := 0 }
theorem State.event_settings (s : State) (code kind lane : Nat) (sc d : Bytes) : (s.event code kind lane sc d).settings = s.settings := by
  have rest := (MailOnly.event s code kind lane sc d).rest
  have txns := s.event_txns code kind lane sc d
  generalize s.event code kind lane sc d = t at rest txns
  unfold State.settings
  rw [txns, rest]
  rfl
theorem State.withdrawFault_settings (s : State) (code : Nat) (items : List Nat) (m : LaneMask) : (s.withdrawFault code items m).settings = s.settings := by
  unfold State.withdrawFault
  exact each_field (·.settings) _ (fun t f _ => t.event_settings ..) _

/-- Every fault of a code ends, each by its items. -/
def State.endAll (s : State) (code : Nat) (fs : List FaultRec) : State :=
  s.each fs fun t f => t.withdrawFault code ((f.scope.take 3).map (·.toNat))
theorem State.endAll_settings (s : State) (code : Nat) (fs : List FaultRec) : (s.endAll code fs).settings = s.settings :=
  each_field (·.settings) fs (fun t _ _ => t.withdrawFault_settings ..) s
theorem State.endAll_cons (s : State) (code : Nat) (f : FaultRec) (fs : List FaultRec) :
    s.endAll code (f :: fs) = (s.withdrawFault code ((f.scope.take 3).map (·.toNat))).endAll code fs := by
  simp only [State.endAll, State.each, List.foldl_cons]
theorem State.mem_endAll (code : Nat) (fs : List FaultRec) (f : FaultRec) : ∀ s : State,
    f ∈ (s.endAll code fs).faults ↔ f ∈ s.faults ∧ ∀ x ∈ fs, isFault f code ((x.scope.take 3).map (·.toNat)) = false := by
  induction fs with
  | nil => exact fun s => by simp [State.endAll, State.each]
  | cons y ys ih =>
    intro s
    rw [State.endAll_cons, ih, State.withdrawFault_faults, List.mem_filter, Bool.not_eq_true', List.forall_mem_cons, and_assoc]
/-- Where all faults of a code end, those of the others are left. -/
theorem State.endAll_faults {s : State} (code : Nat) (four : ∀ f ∈ s.faults, f.scope.length = 4) (f : FaultRec) :
    f ∈ (s.endAll code (s.faults.filter fun f => f.code == code)).faults ↔ f ∈ s.faults ∧ f.code ≠ code := by
  rw [State.mem_endAll]
  refine and_congr_right fun mem => ⟨fun spared same => ?_, fun other x _ => ?_⟩
  · have ends := spared f (List.mem_filter.2 ⟨mem, beq_iff_eq.2 same⟩)
    rw [isFault, scope_take _ (four f mem), same] at ends
    simp at ends
  · rw [isFault, beq_false_of_ne other, Bool.false_and]

/-! ## The seal -/

/-- The bank that SEAL_CONFIRM writes. -/
def State.newBank (s : State) : ParamBank where
  pfmt := slotField s.flash.slots[s.upd.runSlot] 24 2
  seq := (((s.flash.banks[other s.flash.lastBank]).map (·.seq)).getD 0 + 1) % 2 ^ 32
  confirmed := true
  image := s.working
  sealCode := s.working.sealOctets

section
variable (u : State)

/-- The working copy is sealed, and the seal logged (R354, R388). -/
def State.sealLogged (person : Nat) : State :=
  (u.sealBank.setLifecycle .sealed person).logNote (toLe 4 person ++ u.working.sealOctets)
/-- The bank not last used holds the working copy and is active, and the life-cycle state is SEALED. -/
def State.sealSet : State :=
  { u with
    flash := { u.flash with
      banks := u.flash.banks.set (other u.flash.lastBank) (some u.newBank), lastBank := other u.flash.lastBank, bankActive := true, lifecycle := .sealed }
    mode := { u.mode with lifecycle := some .sealed } }
theorem State.sealSet_params : u.sealSet.params = u.working := by
  have bank : u.sealSet.activeBank = some u.newBank := by
    unfold State.activeBank State.sealSet
    simp
  rw [State.params, bank]
  rfl
theorem State.sealLogged_settings (person : Nat) : (u.sealLogged person).settings = u.sealSet.settings :=
  State.event_settings ..
theorem State.sealLogged_faults (person : Nat) : (u.sealLogged person).faults = u.faults :=
  State.note_faults ..

variable {c : Cmd}

/-- What SEAL_SHOW answers (R354). -/
def State.sealReply : Reply :=
  match sealFailure u.working (u.nodeOf u.working) with
  | some f => sealRefusal f
  | none => okReply (u.working.sealOctets ++ toLe 8 0)
theorem opSealShow_shows : opSealShow c u = (u, some u.sealReply) := by
  unfold opSealShow State.sealReply
  generalize sealFailure u.working (u.nodeOf u.working) = x
  cases x <;> rfl
/-- SEAL_CONFIRM outside SEALED. -/
theorem opSealConfirm_open (person : badPerson (leAt c.p 8 4) = false) (open_ : u.mode.lifecycle ≠ some .sealed) : opSealConfirm c u =
    match sealFailure u.working (u.nodeOf u.working) with
    | some f => (u, some (sealRefusal f))
    | none =>
      if slice c.p 0 8 ≠ u.working.sealOctets then (u, some (plain Status.sealWrong))
      else
        let s1 := u.sealLogged (leAt c.p 8 4)
        let s2 := s1.endAll FaultCode.paramCorrupt (s1.faults.filter fun f => f.code == FaultCode.paramCorrupt)
        (s2, some (okReply (toLe 1 0 ++ toLe 1 s2.pbank ++ toLe 2 0))) := by
  unfold opSealConfirm
  dsimp only
  rw [State.unless_cons person, State.unless_nil]
  simp only [open_, false_and, if_false]
  rfl

end

/-- SEAL_CONFIRM is admitted in COMMISSIONING and MAINTENANCE only (R341). -/
theorem State.Admits.unsealed {s : State} {c : MailCmd} (h : s.Admits c 0x0105) : s.mode.lifecycle ≠ some .sealed := by
  obtain ⟨i, row, -, -, life, -⟩ := h.row
  obtain rfl : _ = i := Option.some.inj row
  intro sealed_
  rw [sealed_] at life
  exact absurd life (by decide)

/-- SEAL_CONFIRM of a valid working copy with its code. -/
theorem State.Admits.sealConfirm {s : State} {c : MailCmd} (h : s.Admits c 0x0105) (person : badPerson (leAt c.payload 8 4) = false)
    (valid : sealFailure s.working (s.nodeOf s.working) = none) (code : slice c.payload 0 8 = s.working.sealOctets) :
    ∃ r : State, s.Executed (s.accept c 0x0105) c 0x0105 (some (okReply (toLe 1 0 ++ toLe 1 r.pbank ++ toLe 2 0))) ∧ MailOnly r (s.accept c 0x0105) ∧
      r.settings = (s.taken c 0x0105).sealSet.settings ∧
      ((∀ f ∈ s.faults, f.scope.length = 4) → ∀ f, f ∈ r.faults ↔ f ∈ s.faults ∧ f.code ≠ FaultCode.paramCorrupt) := by
  have same := s.taken_agrees c 0x0105
  have open_ : (s.taken c 0x0105).mode.lifecycle ≠ some .sealed := by rw [taken_mode]; exact h.unsealed
  have run := opSealConfirm_open (c := cmdAs c s) (s.taken c 0x0105) person open_
  rw [same.field (fun u => sealFailure u.working (u.nodeOf u.working)) fun _ _ _ => rfl, valid] at run
  dsimp only at run
  rw [if_neg (by rw [taken_working]; exact not_not.2 code)] at run
  have faults := (s.taken c 0x0105).sealLogged_faults (leAt (cmdAs c s).p 8 4)
  have settings := (s.taken c 0x0105).sealLogged_settings (leAt (cmdAs c s).p 8 4)
  generalize (s.taken c 0x0105).sealLogged (leAt (cmdAs c s).p 8 4) = u at run faults settings
  have ended := (u.endAll_settings FaultCode.paramCorrupt (u.faults.filter fun f => f.code == FaultCode.paramCorrupt)).trans settings
  obtain ⟨executed, only_⟩ := State.accept_runs h rfl run (congrArg (·.mail.txns) ended)
  refine ⟨_, executed, only_, ended, fun four f => ?_⟩
  rw [taken_faults] at faults
  rw [State.endAll_faults FaultCode.paramCorrupt (by rw [faults]; exact four), faults]

end Sys2Proof.Machine

open Sys2Proof Sys2Proof.Machine

/-- Settles O42: outside SEALED the command with the code of the working copy always writes the bank not last used, and it alone. -/
theorem sealsPutTheWorkingCopyInForce : Obligations.SealsPutTheWorkingCopyInForce := by
  unfold Obligations.SealsPutTheWorkingCopyInForce
  refine ⟨fun c s h => ⟨_, rfl, (State.accept_reads h rfl (fun u => some u.sealReply) (fun _ _ _ => rfl) (opSealShow_shows _)).symm⟩,
    fun c s h person four => ⟨_, rfl, fun f fails => ?_, fun valid wrong => ?_, fun valid code => ?_⟩⟩
  · refine State.accept_answers h rfl ?_
    rw [opSealConfirm_open (c := cmdAs c s) _ person (by rw [taken_mode]; exact h.unsealed),
      (s.taken_agrees c 0x0105).field (fun u => sealFailure u.working (u.nodeOf u.working)) fun _ _ _ => rfl, fails]
  · refine State.accept_answers h rfl ?_
    rw [opSealConfirm_open (c := cmdAs c s) _ person (by rw [taken_mode]; exact h.unsealed),
      (s.taken_agrees c 0x0105).field (fun u => sealFailure u.working (u.nodeOf u.working)) fun _ _ _ => rfl, valid]
    exact if_pos (by rw [taken_working]; exact wrong)
  · obtain ⟨r, executed, only_, settings, faults⟩ := h.sealConfirm person valid code
    have same := s.taken_agrees c 0x0105
    have kept := only_.rest
    generalize s.accept c 0x0105 = t at executed kept
    generalize s.taken c 0x0105 = u at same settings
    have flash : t.flash = { u.sealSet.flash with log := t.flash.log } := by
      rw [kept]
      exact congrArg (fun v : State => { v.flash with log := r.flash.log }) settings
    have pbank : r.pbank = (other s.flash.lastBank).val := (congrArg State.pbank settings).trans (same.field (·.sealSet.pbank) fun _ _ _ => rfl)
    rw [pbank] at executed
    refine ⟨executed, ?_, ?_, fun f mem => ?_, fun f other => ?_, ?_, ?_, ?_, ?_, ?_, ?_, ?_⟩
    · rw [flash, same.field (·.sealSet.flash) fun _ _ _ => rfl]
      rfl
    · rw [kept]
      exact (congrArg (·.mode) settings).trans (same.field (·.sealSet.mode) fun _ _ _ => rfl)
    · rw [kept] at mem
      exact ((faults four f).1 mem).2
    · rw [kept]
      exact (faults four f).trans (and_iff_left other)
    · rw [kept]
      exact ((congrArg State.params settings).trans u.sealSet_params).trans (same.field (·.working) fun _ _ _ => rfl)
    · rw [kept]
      exact (congrArg (·.working) settings).trans (same.field (·.working) fun _ _ _ => rfl)
    · rw [kept]
      exact (congrArg (·.lanes) settings).trans (same.field (·.lanes) fun _ _ _ => rfl)
    · rw [kept]
      exact (congrArg (·.groups) settings).trans (same.field (·.groups) fun _ _ _ => rfl)
    · rw [kept]
      exact (congrArg (·.fe) settings).trans (same.field (·.fe) fun _ _ _ => rfl)
    · rw [kept]
      exact (congrArg (·.banks) settings).trans (same.field (·.banks) fun _ _ _ => rfl)
    · rw [kept]
      exact (congrArg (·.otp) settings).trans (same.field (·.otp) fun _ _ _ => rfl)
end

section
/-!
PROOFS. The download (R368, R517 to R519): UPD_OPEN, UPD_BLOCK, UPD_VERIFY and UPD_CLOSE.
-/

namespace Sys2Proof.Machine

/-- The status of an image, by the first of its checks that fails (R513 to R515). -/
theorem Otp.imageStatus_eq (o : Otp) (img : Bytes) (size : Nat) : o.imageStatus img size =
    if o.authentic img size = false then Status.imageAuth else if o.bound img = false then Status.imageBinding
    else if leAt img 12 4 < o.minimum then Status.imageRollback else Status.ok := by
  unfold Otp.imageStatus
  simp only [Bool.not_eq_true']

section
variable (s : State)

/-- A claim to the session waits for the tick (R518). -/
def State.claimed (x : Source) (num size : Nat) (version : DWord) : State :=
  { s with upd := { s.upd with claims := s.upd.claims ++ [(x, num, size, version)] } }
/-- Octets are appended to the download (R519). -/
def State.appended (d : Bytes) : State :=
  { s with
    flash := { s.flash with
      slots := s.flash.slots.set s.targetSlot ((s.flash.slots[s.targetSlot]).take s.upd.received ++ d)
      delivered := s.flash.delivered &&& ~~~(only s.targetSlot) }
    upd := { s.upd with
      received := s.upd.received + d.length, st := if s.upd.received + d.length = s.upd.size then .received else .receiving } }
/-- The status of the image downloaded. -/
def State.downloadStatus : Nat := s.otp.imageStatus s.flash.slots[s.targetSlot] s.upd.size
/-- The download has been judged (R369). -/
def State.verified : State := { s with upd := { s.upd with st := if s.downloadStatus = Status.ok then .verified else .received } }
/-- What UPD_VERIFY answers. -/
def State.verifyReply : Reply where
  status := s.downloadStatus
  payload := toLe 4 (leAt s.flash.slots[s.targetSlot] 12 4) ++ toLe 2 (leAt s.flash.slots[s.targetSlot] 6 2) ++ toLe 2 0
/-- A session has ended, and a slot partly received is erased (R369). -/
def State.sessionCleared : State :=
  { s with
    flash := { s.flash with
      slots := if s.upd.st = .receiving ∧ 0 < s.upd.received then s.flash.slots.set s.targetSlot [] else s.flash.slots }
    upd := { s.upd with st := .idle, owner := none, size := 0, version := 0, received := 0 } }
theorem State.closeSession_eq (cause : Nat) : s.closeSession cause = s.sessionCleared.note 0x0261 [] (toLe 1 cause) := by
  unfold State.closeSession State.sessionCleared
  split <;> rfl
/-- The end of a session with its record in the log. -/
def State.sessionEnded (cause : Nat) : State := s.sessionCleared.logRec (s.eventOctets 0x0261 0 3 (scope []) (toLe 1 cause))
theorem State.closeSession_ends (cause : Nat) : MailOnly (s.sessionEnded cause) (s.closeSession cause) := by
  rw [State.closeSession_eq]
  exact MailOnly.event s.sessionCleared ..
theorem State.closeSession_txns (cause : Nat) : (s.closeSession cause).mail.txns = s.mail.txns := by
  rw [State.closeSession_eq, State.note_txns]
  rfl

end

section
variable {c : Cmd} (u : State)

theorem opUpdOpen_claims (least : 1 ≤ leAt c.p 0 4) (most : leAt c.p 0 4 ≤ 8388608) (steady : u.upd.st ≠ .trial) :
    opUpdOpen c u = (u.claimed c.src c.num (leAt c.p 0 4) (dw (leAt c.p 4 4)), none) := by
  have range : (leAt c.p 0 4 == 0 || decide (8388608 < leAt c.p 0 4)) = false := by
    rw [decide_eq_false (Nat.not_lt.2 most), beq_false_of_ne (Nat.one_le_iff_ne_zero.1 least)]
    rfl
  unfold opUpdOpen
  dsimp only
  rw [State.unless_cons range, State.unless_cons (beq_false_of_ne steady), State.unless_nil]
  rfl
/-- UPD_BLOCK of a block within the size, in a session open. -/
theorem opUpdBlock_within (opened : u.upd.st.opened = true) (within : leAt c.p 0 4 + (c.p.drop 4).length ≤ u.upd.size) : opUpdBlock c u =
    if leAt c.p 0 4 ≠ u.upd.received then (u, some { status := Status.updateOffset, payload := toLe 4 u.upd.received })
    else (u.appended (c.p.drop 4), some (okReply [])) := by
  unfold opUpdBlock
  dsimp only
  rw [State.unless_cons (decide_eq_false (Nat.not_lt.2 within)), State.unless_cons (by rw [opened]; rfl), State.unless_nil]
  by_cases next : leAt c.p 0 4 = u.upd.received
  · rw [if_neg (not_not.2 next), if_neg (not_not.2 next), next]
    rfl
  · rw [if_pos next, if_pos next]
theorem opUpdVerify_judges (received : u.upd.st = .received ∨ u.upd.st = .verified) : opUpdVerify c u = (u.verified, some u.verifyReply) := by
  have complete : (u.upd.st != .received && u.upd.st != .verified) = false := by
    rcases received with e | e <;> rw [e] <;> rfl
  unfold opUpdVerify
  rw [State.unless_cons complete, State.unless_nil]
  rfl
theorem opUpdClose_ends (steady : u.upd.st ≠ .trial) : opUpdClose c u = (u.closeSession 1, some (okReply [])) := by
  unfold opUpdClose
  rw [State.unless_cons (beq_false_of_ne steady), State.unless_nil]

end

end Sys2Proof.Machine

open Sys2Proof Sys2Proof.Machine

/-- Settles O45: each of the four changes the session and the slot that is not active, and no more of the flash than the log. -/
theorem downloadsFillTheOtherSlot : Obligations.DownloadsFillTheOtherSlot := by
  unfold Obligations.DownloadsFillTheOtherSlot
  refine ⟨fun c s h least most steady => ⟨_, rfl, ?_⟩, fun c s h opened within => ⟨_, rfl, ?_⟩, fun c s h received => ⟨_, rfl, ?_⟩,
    fun c s h steady => ⟨_, rfl, ?_⟩⟩
  · have st := (s.taken_agrees c 0x0900).field (·.upd.st) fun _ _ _ => rfl
    exact State.accept_sets h rfl (fun u => u.claimed c.src s.mail.nextNum (leAt c.payload 0 4) (dw (leAt c.payload 4 4))) (fun _ _ _ => rfl)
      (opUpdOpen_claims (c := cmdAs c s) _ least most (by rw [st]; exact steady)) rfl
  · have same := s.taken_agrees c 0x0901
    have run := opUpdBlock_within (c := cmdAs c s) (s.taken c 0x0901) (by rw [same.field (·.upd.st) fun _ _ _ => rfl]; exact opened)
      (by rw [same.field (·.upd.size) fun _ _ _ => rfl]; exact within)
    rw [same.field (·.upd.received) fun _ _ _ => rfl] at run
    refine ⟨fun elsewhere => (State.accept_answers h rfl (run.trans (if_pos elsewhere))).symm, fun next => ?_⟩
    exact State.accept_sets h rfl (fun u => u.appended (c.payload.drop 4)) (fun _ _ _ => rfl) (run.trans (if_neg (not_not.2 next))) rfl
  · have same := s.taken_agrees c 0x0902
    have run := opUpdVerify_judges (c := cmdAs c s) (s.taken c 0x0902) (by rw [same.field (·.upd.st) fun _ _ _ => rfl]; exact received)
    rw [same.field State.verifyReply fun _ _ _ => rfl] at run
    have verified := State.accept_sets h rfl State.verified (fun _ _ _ => rfl) run rfl
    dsimp only
    rw [← Otp.imageStatus_eq]
    exact verified
  · have st := (s.taken_agrees c 0x0906).field (·.upd.st) fun _ _ _ => rfl
    have run := opUpdClose_ends (c := cmdAs c s) (s.taken c 0x0906) (by rw [st]; exact steady)
    obtain ⟨executed, agrees⟩ := State.accept_changes h rfl (fun u => u.sessionEnded 1) (fun _ _ _ => rfl) run (State.closeSession_ends ..)
      (State.closeSession_txns ..)
    have flash := agrees.field (·.flash) fun _ _ _ => rfl
    refine ⟨executed, flash, ?_⟩
    rw [flash]
    exact agrees
end

section
/-!
PROOFS. Trial boots (R521 to R525): UPD_ACTIVATE, UPD_CONFIRM and UPD_ROLLBACK.
-/

namespace Sys2Proof.Machine

/-! ## Reports -/

/-- One state comes from another by reports alone: messages on their way and records of the log. -/
def Logged (s t : State) : Prop := MailOnly { s with flash := { s.flash with log := t.flash.log } } t ∧ t.mail.txns = s.mail.txns

namespace Logged

theorem refl (s : State) : Logged s s := ⟨.refl _, rfl⟩
theorem note {s t : State} (h : Logged s t) (code : Nat) (items : List Nat) (d : Bytes) : Logged s (t.note code items d) := by
  obtain ⟨only_, txns⟩ := h
  refine ⟨(only_.change (g := fun v => { v with flash := { v.flash with log := (t.note code items d).flash.log } }) fun _ _ => rfl).trans ?_,
    (State.note_txns ..).trans txns⟩
  rw [State.note_flash]
  exact MailOnly.event ..
theorem upd {s t : State} (h : Logged s t) (x : Update → Update) : Logged { s with upd := x s.upd } { t with upd := x t.upd } :=
  ⟨h.1.change (g := fun v => { v with upd := x v.upd }) fun _ _ => rfl, h.2⟩

end Logged

/-- What an admitted command leaves whose operation makes a change beside the mailbox path and reports it in the log. -/
theorem State.accept_logs {s : State} {c : MailCmd} {op : Nat} {f : Cmd → State → OpRes} {o : Option Reply} (h : s.Admits c op) (hf : votedOp op = some f)
    (g : State → State) (beside : Beside g s) {r : State} (run : f (cmdAs c s) (s.taken c op) = (r, o)) (logged : Logged (g (s.taken c op)) r)
    (txns : (g (s.taken c op)).mail.txns = (s.taken c op).mail.txns) :
    s.Executed (s.accept c op) c op o ∧ agreeButMail { g s with flash := { (g s).flash with log := (s.accept c op).flash.log } } (s.accept c op) := by
  obtain ⟨executed, agrees⟩ := State.accept_changes h hf (fun u => { g u with flash := { (g u).flash with log := r.flash.log } })
    (fun m hs n => congrArg (fun v : State => { v with flash := { v.flash with log := r.flash.log } }) (beside m hs n)) run logged.1 (logged.2.trans txns)
  have log : (s.accept c op).flash.log = r.flash.log := agrees.field (·.flash.log) fun _ _ _ => rfl
  exact ⟨executed, by rw [log]; exact agrees⟩

/-! ## The operations -/

section
variable (s : State)

/-- A trial boot of a slot begins (R521). -/
def State.trialBegun (slot : Fin 2) : State :=
  { s with
    flash := s.flash.putBoot fun b => { b with
      trial := true, trialSlot := slot, fallbackBank := if s.flash.bankActive then some s.flash.lastBank else none, trials := 0, trialTime := 0
      preLc := s.flash.lifecycle, counted := true }
    upd := { s.upd with st := .trial, resetDue := some s.now } }
theorem State.activate_begins (slot : Fin 2) : Logged (s.trialBegun slot) (s.activate slot) :=
  (Logged.refl (s.trialBegun slot)).note ..
/-- The record of a trial boot that begins. -/
theorem State.trialBegun_bootRec (slot : Fin 2) : (s.trialBegun slot).flash.bootRec = { s.flash.bootRec with
    seq := s.flash.bootRec.seq + 1, crcOk := true, trial := true, trialSlot := slot
    fallbackBank := if s.flash.bankActive then some s.flash.lastBank else none, trials := 0, trialTime := 0, preLc := s.flash.lifecycle, counted := true } :=
  Flash.putBoot_bootRec ..

/-- The minimum-version cells once an image that names a version is confirmed (R515). -/
def Otp.cellsAfter (o : Otp) (v : Nat) : List DWord := if v ≤ o.minimum ∨ 8 ≤ o.minCells.length then o.minCells else o.minCells ++ [dw v]
/-- The image on trial. -/
def State.trialImage : Bytes := s.flash.slots[s.flash.bootRec.trialSlot]
/-- The image on trial is confirmed (R523). -/
def State.trialConfirmed : State :=
  { s with
    flash := s.flash.putBoot fun b => { b with activeSlot := b.trialSlot, trial := false, trials := 0, trialTime := 0 }
    otp := { s.otp with revoked := s.otp.revoked ||| (octet s.trialImage 29).setWidth 4, minCells := s.otp.cellsAfter (leAt s.trialImage 16 4) }
    upd := { s.upd with st := .idle, owner := none, trialRun := false, incompat := false, sealedInTrial := false, trialStart := none } }
/-- The record once the image on trial is confirmed. -/
theorem State.trialConfirmed_bootRec : s.trialConfirmed.flash.bootRec = { s.flash.bootRec with
    seq := s.flash.bootRec.seq + 1, crcOk := true, activeSlot := s.flash.bootRec.trialSlot, trial := false, trials := 0, trialTime := 0 } :=
  Flash.putBoot_bootRec s.flash fun b => { b with activeSlot := b.trialSlot, trial := false, trials := 0, trialTime := 0 }
/-- The keys that the image on trial names are revoked, and its slot is the active one. -/
def State.trialKept : State :=
  (s.putBoot fun b => { b with activeSlot := b.trialSlot, trial := false, trials := 0, trialTime := 0 }).revoke ((octet s.trialImage 29).setWidth 4)
/-- A minimum version that the image on trial names is programmed, or reported while no cell is free (R515). -/
def State.versionRaised (v : Nat) : State :=
  if v ≤ s.otp.minimum then s
  else if 8 ≤ s.otp.minCells.length then s.note 0x0267 [] (toLe 4 v)
  else (s.addMinCell (dw v)).note 0x0266 [] (toLe 4 v)
theorem State.versionRaised_logged (v : Nat) : Logged { s with otp := { s.otp with minCells := s.otp.cellsAfter v } } (s.versionRaised v) := by
  unfold State.versionRaised
  by_cases reached : v ≤ s.otp.minimum
  · have cells : s.otp.cellsAfter v = s.otp.minCells := if_pos (.inl reached)
    rw [if_pos reached, cells]
    exact Logged.refl s
  · rw [if_neg reached]
    by_cases full : 8 ≤ s.otp.minCells.length
    · have cells : s.otp.cellsAfter v = s.otp.minCells := if_pos (.inr full)
      rw [if_pos full, cells]
      exact (Logged.refl s).note ..
    · have cells : s.otp.cellsAfter v = s.otp.minCells ++ [dw v] := if_neg (not_or.2 ⟨reached, full⟩)
      rw [if_neg full, cells]
      exact (Logged.refl (s.addMinCell (dw v))).note ..

/-- The fallback that UPD_ROLLBACK asks for (R524). -/
def State.rolledBack : State := { s.fallback 3 with upd := { s.upd with resetDue := some s.now } }
theorem State.rolledBack_bootRec : s.rolledBack.flash.bootRec =
    { s.flash.bootRec with seq := s.flash.bootRec.seq + 1, crcOk := true, trial := false, fell := 3 } :=
  (Flash.bootRec_congr rfl).trans (Flash.putBoot_bootRec s.flash fun b => { b with trial := false, fell := 3 })
/-- The bank to fall back to is active, and keeps what it holds. -/
theorem State.rolledBack_bank {b : Fin 2} (bank : s.flash.bootRec.fallbackBank = some b) :
    s.rolledBack.flash.lastBank = b ∧ s.rolledBack.flash.banks[b] = s.flash.banks[b] := by
  unfold State.rolledBack State.fallback State.putBoot Flash.putBoot
  simp [bank]

end

section
variable {c : Cmd} (u : State)

theorem opUpdActivate_begins (verified : u.upd.st = .verified) (untaught : u.act.teach = none) (lamp : u.act.lamp = none) (field : u.act.field = none) :
    opUpdActivate c u = (u.activate u.targetSlot, some (okReply [])) := by
  unfold opUpdActivate
  rw [State.unless_cons (by rw [verified]; rfl), State.unless_cons (by rw [untaught, lamp, field]; rfl), State.unless_nil]
theorem opUpdConfirm_confirms (trial : u.upd.trialRun = true) (compatible : u.upd.incompat = false ∨ u.upd.sealedInTrial = true)
    (resealed : u.flash.bootRec.fallbackBank = none ∨ u.upd.sealedInTrial = true) :
    ∃ r, opUpdConfirm c u = (r, some (okReply [])) ∧ Logged u.trialConfirmed r := by
  have settings : (u.upd.incompat && !u.upd.sealedInTrial) = false := by
    rcases compatible with e | e <;> simp [e]
  have bank : (u.flash.bootRec.fallbackBank.isSome && !u.upd.sealedInTrial) = false := by
    rcases resealed with e | e <;> simp [e]
  have run : opUpdConfirm c u = ((({ u.trialKept.versionRaised (leAt u.trialImage 16 4) with
      upd := { (u.trialKept.versionRaised (leAt u.trialImage 16 4)).upd with
        st := .idle, owner := none, trialRun := false, incompat := false, sealedInTrial := false, trialStart := none } } : State).note
      0x0265 [] (slice u.trialImage 12 4)), some (okReply [])) := by
    unfold opUpdConfirm
    rw [State.unless_cons (by rw [trial]; rfl), State.unless_cons settings, State.unless_cons bank, State.unless_nil]
    rfl
  exact ⟨_, run, (((State.versionRaised_logged u.trialKept _).upd fun x => { x with
    st := .idle, owner := none, trialRun := false, incompat := false, sealedInTrial := false, trialStart := none })).note ..⟩
theorem opUpdRollback_trial (trial : u.upd.trialRun = true) (counted : u.flash.bootRec.counted = true) :
    opUpdRollback c u = (u.rolledBack, some (okReply [])) := by
  unfold opUpdRollback
  rw [if_pos trial, if_pos counted]
  rfl
/-- UPD_ROLLBACK outside a trial and a session (R525). -/
theorem opUpdRollback_other (untried : u.upd.trialRun = false) (unowned : u.upd.owner = none) : opUpdRollback c u =
    if u.slotPasses u.targetSlot = true then (u.activate u.targetSlot, some (okReply []))
    else (u, some (plain (u.otp.imageStatus u.flash.slots[u.targetSlot] (u.flash.slots[u.targetSlot]).length))) := by
  unfold opUpdRollback
  rw [if_neg (by rw [untried]; exact Bool.false_ne_true), State.unless_cons (by rw [unowned]; rfl), State.unless_nil]
  rfl
theorem State.slotPasses_iff (k : Fin 2) : u.slotPasses k = true ↔
    u.otp.imageStatus u.flash.slots[k] (u.flash.slots[k]).length = Status.ok ∨ has u.flash.delivered k = true := by
  rw [State.slotPasses, Bool.or_eq_true, beq_iff_eq, or_comm]

end

/-! ## The commands as they arrive -/

section
variable {s : State} {c : MailCmd}

/-- What is left of a command that begins a trial boot of the other slot. -/
theorem State.Admits.activates {op : Nat} {f : Cmd → State → OpRes} (h : s.Admits c op) (hf : votedOp op = some f)
    (run : f (cmdAs c s) (s.taken c op) = ((s.taken c op).activate (s.taken c op).targetSlot, some (okReply []))) :
    s.Executed (s.accept c op) c op (some (okReply [])) ∧
    agreeButMail { s.trialBegun s.targetSlot with flash := { (s.trialBegun s.targetSlot).flash with log := (s.accept c op).flash.log } } (s.accept c op) :=
  State.accept_logs h hf (fun u => u.trialBegun u.targetSlot) (fun _ _ _ => rfl) run ((s.taken c op).activate_begins _) rfl

end

end Sys2Proof.Machine

open Sys2Proof Sys2Proof.Machine

/-- Settles O46: each of the three writes the boot control record once, and beside it what a trial, its confirmation or its end changes. -/
theorem trialsStartAndEnd : Obligations.TrialsStartAndEnd := by
  unfold Obligations.TrialsStartAndEnd
  refine ⟨fun c s h verified untaught lamp field => ⟨_, rfl, ?_⟩, fun c s h trial compatible resealed => ⟨_, rfl, ?_⟩,
    fun c s h trial counted => ⟨_, rfl, ?_⟩, fun c s h untried unowned => ?_⟩
  · have same := s.taken_agrees c 0x0903
    obtain ⟨executed, agrees⟩ := h.activates rfl (opUpdActivate_begins (s.taken c 0x0903) ((same.field (·.upd.st) fun _ _ _ => rfl).trans verified)
      (by rw [taken_act]; exact untaught) (by rw [taken_act]; exact lamp) (by rw [taken_act]; exact field))
    have flash := agrees.field (·.flash) fun _ _ _ => rfl
    refine ⟨executed, ?_, flash.trans ?_, ?_⟩
    · exact (congrArg Flash.bootRec flash).trans ((Flash.bootRec_congr rfl).trans (s.trialBegun_bootRec s.targetSlot))
    · rw [flash]
      rfl
    · rw [flash]
      exact agrees
  · have same := s.taken_agrees c 0x0904
    obtain ⟨r, run, logged⟩ := opUpdConfirm_confirms (c := cmdAs c s) (s.taken c 0x0904) ((same.field (·.upd.trialRun) fun _ _ _ => rfl).trans trial)
      (by rw [same.field (·.upd.incompat) fun _ _ _ => rfl, same.field (·.upd.sealedInTrial) fun _ _ _ => rfl]; exact compatible)
      (by rw [taken_flash, same.field (·.upd.sealedInTrial) fun _ _ _ => rfl]; exact resealed)
    obtain ⟨executed, agrees⟩ := State.accept_logs h rfl State.trialConfirmed (fun _ _ _ => rfl) run logged rfl
    have flash := agrees.field (·.flash) fun _ _ _ => rfl
    have otp := agrees.field (·.otp) fun _ _ _ => rfl
    refine ⟨executed, ?_, flash.trans ?_, otp, ?_⟩
    · exact (congrArg Flash.bootRec flash).trans ((Flash.bootRec_congr rfl).trans s.trialConfirmed_bootRec)
    · rw [flash]
      rfl
    · rw [flash, otp]
      exact agrees
  · have same := s.taken_agrees c 0x0905
    obtain ⟨executed, agrees⟩ := State.accept_sets h rfl State.rolledBack (fun _ _ _ => rfl)
      (opUpdRollback_trial (c := cmdAs c s) (s.taken c 0x0905) ((same.field (·.upd.trialRun) fun _ _ _ => rfl).trans trial)
        (by rw [taken_flash]; exact counted)) rfl
    have flash := agrees.field (·.flash) fun _ _ _ => rfl
    rw [flash]
    exact ⟨executed, s.rolledBack_bootRec, rfl, rfl, fun b bank => s.rolledBack_bank bank, rfl, agrees⟩
  · have same := s.taken_agrees c 0x0905
    have run := opUpdRollback_other (c := cmdAs c s) (s.taken c 0x0905) ((same.field (·.upd.trialRun) fun _ _ _ => rfl).trans untried)
      ((taken_owner ..).trans unowned)
    rw [same.field (fun u => u.slotPasses u.targetSlot) fun _ _ _ => rfl] at run
    refine ⟨_, rfl, fun fails => ?_, fun passes => ?_⟩
    · exact State.accept_reads h rfl (fun u => some (plain (u.otp.imageStatus u.flash.slots[u.targetSlot] (u.flash.slots[u.targetSlot]).length)))
        (fun _ _ _ => rfl) (run.trans (if_neg (ne_true_of_eq_false fails)))
    · obtain ⟨executed, agrees⟩ := h.activates rfl (run.trans (if_pos ((s.slotPasses_iff _).2 passes)))
      have bootRec := (agrees.field (·.flash.bootRec) fun _ _ _ => rfl).trans ((Flash.bootRec_congr rfl).trans (s.trialBegun_bootRec s.targetSlot))
      rw [bootRec]
      exact ⟨executed, rfl, rfl, agrees.field (·.upd.resetDue) fun _ _ _ => rfl⟩
end

section
/-!
PROOFS. The outbound rings while a command arrives (R305, R311): what an operation has put into them stays as it is.
-/

namespace Sys2Proof.Machine

/-- A lane that hands over the answer of a transaction of an opcode that all lanes vote on puts nothing into a ring. -/
theorem Alone.handOver_rings {s : State} {n : Nat} {src : Source} {bs : Bytes} {o : Option Reply} {ls : List LaneId} (h : Alone s n src bs o ls)
    (voted : (opInfo (msgOp bs)).any (·.lspec) = false) (l : LaneId) : (s.handOver l n).mail.rings = s.mail.rings := by
  obtain ⟨t, alone, num, -, octets, -⟩ := h
  have found : (s.modTxn n fun t => { t with started := t.started ||| only l }).txn n = some { t with started := t.started ||| only l } := by
    simp [State.txn, State.modTxn, alone, num]
  have shared : Txn.lspec { t with started := t.started ||| only l } = false := by
    rw [Txn.lspec, octets]
    exact voted
  unfold State.handOver
  dsimp only
  rw [found]
  dsimp only
  rw [shared, if_neg Bool.false_ne_true]
  split <;> rfl
theorem Alone.each_rings {n : Nat} {src : Source} {bs : Bytes} {o : Option Reply} (voted : (opInfo (msgOp bs)).any (·.lspec) = false) (q : RingId)
    (ls : List LaneId) : ∀ {s : State} {js : List LaneId}, Alone s n src bs o js →
    (s.each ls fun u l => (u.handOver l n).passTurn l q).mail.rings = s.mail.rings := by
  induction ls with
  | nil => exact fun _ => rfl
  | cons l ls ih =>
    intro s js h
    have next : Alone ((s.handOver l n).passTurn l q) n src bs o (l :: js) := h.handOver voted l
    exact (ih next).trans (h.handOver_rings voted l)
theorem State.freeRing_otherRing (s : State) {q k : RingId} (other : k ≠ q) : (s.freeRing q).mail.rings[k] = s.mail.rings[k] := by
  unfold State.freeRing State.prune
  dsimp only
  rw [State.modRing_other _ _ _ _ other]

section
variable {s : State} {c : MailCmd} {op : Nat} {f : Cmd → State → OpRes}

/-- A command comes in an inbound ring (R305). -/
theorem State.Admits.inbound (h : s.Admits c op) {q : RingId} (out : 6 ≤ q.val) : q ≠ c.ring := by
  have lt := (srcIdx c.src).isLt
  rintro rfl
  have comes := admits_produce h
  rw [State.mayProduce, Bool.or_eq_true, Bool.and_eq_true, beq_iff_eq, beq_iff_eq] at comes
  rcases comes with own | ⟨update, -⟩
  · rw [own] at out
    simp only [cmdRing] at out
    omega
  · rw [update] at out
    exact absurd out (by decide)
/-- An outbound ring is left as the operation leaves it. -/
theorem State.accept_outRing (h : s.Admits c op) (hf : votedOp op = some f) {r : State} {o : Option Reply} (run : f (cmdAs c s) (s.taken c op) = (r, o))
    (txns : r.mail.txns = (s.taken c op).mail.txns) {q : RingId} (out : 6 ≤ q.val) : (s.accept c op).mail.rings[q] = r.mail.rings[q] := by
  obtain ⟨i, known, -⟩ := h.row
  have voted : (opInfo (msgOp (cmdOctets c op))).any (·.lspec) = false := by
    rw [cmdOctets_msgOp c (opInfo_bound known).1]
    exact votedOp_not_lspec hf
  rw [accept_admitted h, judge_voted h hf, run, State.freeRing_otherRing _ (h.inbound out)]
  rw [taken_txns] at txns
  cases o with
  | none =>
    have alone : Alone r s.mail.nextNum c.src (cmdOctets c op) none [] :=
      ⟨_, txns, rfl, rfl, rfl, rfl, rfl, fun _ mem => (List.not_mem_nil mem).elim, fun l => .inl (by simp [State.newTxn])⟩
    exact congrArg (·[q]) (alone.each_rings voted c.ring s.activeLanes)
  | some a =>
    have alone : Alone (r.modTxn s.mail.nextNum fun t => { t with outcome := some a }) s.mail.nextNum c.src (cmdOctets c op) (some a) [] :=
      ⟨{ s.newTxn c op with judged := true, outcome := some a }, by simp [State.modTxn, txns, State.newTxn], rfl, rfl, rfl, rfl, rfl,
        fun _ mem => (List.not_mem_nil mem).elim, fun l => .inl (by simp [State.newTxn])⟩
    exact congrArg (·[q]) (alone.each_rings voted c.ring s.activeLanes)
theorem State.taken_outRing (h : s.Admits c op) {q : RingId} (out : 6 ≤ q.val) : (s.taken c op).mail.rings[q] = s.mail.rings[q] :=
  stored_outRing s c op q (h.inbound out) out

end

/-! ## Messages posted -/

/-- The message that a post forms (R305, R315). -/
def State.posted (s : State) (q : RingId) (op : Nat) (p : Bytes) : OutMsg :=
  { octets := header 0xFF (2 + if s.mail.rings[q].loss then 4 else 0) op 0 p.length ++ p, dests := s.subscribers q, stamp := s.now }
/-- A ring once a message has been posted to it. -/
def Ring.posted (r : Ring) (q : RingId) (m : OutMsg) : Ring :=
  if m.dests.isEmpty then
    let r1 := if r.room m.octets.length then r.place m else r
    { r1.settle with dropCnt := r1.dropCnt + 1 }
  else if r.room m.octets.length && r.waiting.isEmpty then { r.place m with loss := false }
  else if q == 14 then { r with waiting := r.waiting ++ [m] }
  else { r with dropCnt := r.dropCnt + 1, loss := true }
/-- A post reads and changes its own ring alone. -/
theorem State.post_ring (s : State) (q : RingId) (op : Nat) (p : Bytes) :
    (s.post q op p).mail.rings[q] = s.mail.rings[q].posted q (s.posted q op p) := by
  have placed : (s.placeMsg q (s.posted q op p)).mail.rings[q] = s.mail.rings[q].place (s.posted q op p) := State.modRing_same ..
  change (if (s.posted q op p).dests.isEmpty then
      (if s.mail.rings[q].room (s.posted q op p).octets.length then s.placeMsg q (s.posted q op p) else s).modRing q
        fun r => { r.settle with dropCnt := r.dropCnt + 1 }
    else if s.mail.rings[q].room (s.posted q op p).octets.length && s.mail.rings[q].waiting.isEmpty then
      (s.placeMsg q (s.posted q op p)).modRing q fun r => { r with loss := false }
    else if q == 14 then s.modRing q fun r => { r with waiting := r.waiting ++ [s.posted q op p] }
    else s.modRing q fun r => { r with dropCnt := r.dropCnt + 1, loss := true }).mail.rings[q] = _
  generalize s.posted q op p = m at placed
  unfold Ring.posted
  by_cases unread : m.dests.isEmpty
  · rw [if_pos unread, if_pos unread, State.modRing_same]
    by_cases room : s.mail.rings[q].room m.octets.length
    · rw [if_pos room, if_pos room, placed]
    · rw [if_neg room, if_neg room]
  · rw [if_neg unread, if_neg unread]
    by_cases fits : s.mail.rings[q].room m.octets.length && s.mail.rings[q].waiting.isEmpty
    · rw [if_pos fits, if_pos fits, State.modRing_same, placed]
    · rw [if_neg fits, if_neg fits]
      split
      · exact State.modRing_same ..
      · exact State.modRing_same ..
/-- Two states in which a post to a ring forms the same message and finds the same ring. -/
structure SamePosts (q : RingId) (s t : State) : Prop where
  ring : t.mail.rings[q] = s.mail.rings[q]
  subs : t.mail.subs = s.mail.subs
  now : t.now = s.now
theorem SamePosts.post {q : RingId} {s t : State} (h : SamePosts q s t) (op : Nat) (p : Bytes) : SamePosts q (s.post q op p) (t.post q op p) := by
  have forms : t.posted q op p = s.posted q op p := by
    unfold State.posted State.subscribers
    rw [h.ring, h.subs, h.now]
  refine ⟨?_, ?_, ?_⟩
  · rw [State.post_ring, State.post_ring, h.ring, forms]
  · rw [State.post_subs, State.post_subs, h.subs]
  · rw [State.post_now, State.post_now, h.now]

end Sys2Proof.Machine
end

section
/-!
PROOFS. WEAR_READ, WEAR_REPORT, WEAR_RESET and COPPICE_NOW (R366, R367, R499, R503).
-/

namespace Sys2Proof.Machine

section
variable {c : Cmd} (u : State)

theorem opWearRead_lamp (kind : leAt c.p 0 1 = 1) (i : Chan) (item : leAt c.p 1 1 = i.val) :
    opWearRead c u = (u, some (okReply ((u.wear.lamp[i]).octets 1 i.val 0))) := by
  unfold opWearRead
  rw [kind, item]
  dsimp only
  rw [Vector.getElem?_eq_getElem (xs := u.wear.lamp) i.isLt]
  rfl
theorem opWearRead_switch (kind : leAt c.p 0 1 = 2) (i : Chan) (item : leAt c.p 1 1 = i.val) :
    opWearRead c u = (u, some (okReply ((u.wear.switch[i]).octets 2 i.val 0))) := by
  unfold opWearRead
  rw [kind, item]
  dsimp only
  rw [Vector.getElem?_eq_getElem (xs := u.wear.switch) i.isLt]
  rfl
/-- Both contactors of a pair, as WEAR_READ answers them. -/
def Wear.pairOctets (w : Wear) (g : GroupId) : Bytes :=
  (w.cont[(⟨2 * g.val, by omega⟩ : Fin 24)]).octets 3 g.val 0 ++ (w.cont[(⟨2 * g.val + 1, by omega⟩ : Fin 24)]).octets 3 g.val 1
theorem opWearRead_pair (kind : leAt c.p 0 1 = 3) (g : GroupId) (item : leAt c.p 1 1 = g.val) :
    opWearRead c u = (u, some (okReply (u.wear.pairOctets g))) := by
  unfold opWearRead
  rw [kind, item]
  dsimp only
  rw [Vector.getElem?_eq_getElem (xs := u.wear.cont) (show 2 * g.val < 24 by omega),
    Vector.getElem?_eq_getElem (xs := u.wear.cont) (show 2 * g.val + 1 < 24 by omega)]
  rfl

/-! ## The report -/

theorem MailOnly.sendWear {s t : State} (fuel : Nat) : ∀ (rs : List Bytes), MailOnly s t → MailOnly s (t.sendWear rs fuel) := by
  induction fuel generalizing t with
  | zero => exact fun _ h => h
  | succ n ih => exact fun rs h => MailOnly.ite h (ih _ (h.post 13 _ _))
theorem State.sendWear_txns (fuel : Nat) : ∀ (s : State) (rs : List Bytes), (s.sendWear rs fuel).mail.txns = s.mail.txns := by
  induction fuel with
  | zero => exact fun _ _ => rfl
  | succ n ih =>
    intro s rs
    unfold State.sendWear
    split
    · rfl
    · rw [ih, State.post_txns]
theorem SamePosts.sendWear (fuel : Nat) : ∀ {s t : State} (_ : SamePosts 13 s t) (_ : t.wear = s.wear) (rs : List Bytes),
    SamePosts 13 (s.sendWear rs fuel) (t.sendWear rs fuel) := by
  induction fuel with
  | zero => exact fun h _ _ => h
  | succ n ih =>
    intro s t h wear rs
    unfold State.sendWear
    rw [wear]
    split
    · exact h
    · exact ih (h.post ..) (by rw [State.post_wear, State.post_wear, wear]) _

/-! ## Histories that start anew -/

theorem eq_set_of_getElem {α : Type} {n : Nat} {v w : Vector α n} {i : Fin n} {x : α} (h : ∀ j : Fin n, w[j] = if j = i then x else v[j]) :
    w = v.set i x := by
  refine Vector.ext fun j hj => (h ⟨j, hj⟩).trans ?_
  rw [Vector.getElem_set]
  simp [Fin.ext_iff, eq_comm]

/-- The histories of some lamps and contactors have been cleared, with one record in the log (R499). -/
def State.wearCleared (lamp : Chan → Bool) (cont : Fin 24 → Bool) (d : Bytes) : State :=
  ({ u with wear := u.wear.clear lamp cont u.now } : State).logNote d
/-- WEAR_RESET of a lamp or a contactor pair that exists. -/
theorem opWearReset_clears (zero : allZero c.p 2 2 = true) (person : badPerson (leAt c.p 4 4) = false)
    (item : leAt c.p 0 1 = 1 ∧ leAt c.p 1 1 < 96 ∨ leAt c.p 0 1 = 3 ∧ leAt c.p 1 1 < 12) : opWearReset c u =
    (u.wearCleared (fun i => leAt c.p 0 1 == 1 && i.val == leAt c.p 1 1) (fun n => leAt c.p 0 1 == 3 && n.val / 2 == leAt c.p 1 1)
      (toLe 1 (leAt c.p 0 1) ++ toLe 1 (leAt c.p 1 1) ++ toLe 2 0 ++ toLe 4 (leAt c.p 4 4)), some (okReply [])) := by
  have range : (!(leAt c.p 0 1 == 1 && decide (leAt c.p 1 1 < 96)) && !(leAt c.p 0 1 == 3 && decide (leAt c.p 1 1 < 12)) || badPerson (leAt c.p 4 4)) = false := by
    rw [person, Bool.or_false]
    rcases item with ⟨kind, i⟩ | ⟨kind, i⟩ <;> simp [kind, i]
  unfold opWearReset
  dsimp only
  rw [State.unless_cons (by rw [zero]; rfl), State.unless_cons range, State.unless_nil]
  rfl

section
variable (w : Wear) (lamp : Chan → Bool) (cont : Fin 24 → Bool) (now : Nat)

theorem Wear.clear_lamp (i : Chan) : (w.clear lamp cont now).lamp[i] = if lamp i then (w.lamp[i]).clearHistory else w.lamp[i] := by
  simp [Wear.clear]
theorem Wear.clear_cont (j : Fin 24) : (w.clear lamp cont now).cont[j] = if cont j then (w.cont[j]).clearHistory else w.cont[j] := by
  simp [Wear.clear]
theorem Wear.clear_runLamp (l : LaneId) (i : Chan) : ((w.clear lamp cont now).run[l]).lamp[i] =
    if lamp i then ((w.run[l]).lamp[i]).clearHistory now else (w.run[l]).lamp[i] := by
  simp [Wear.clear, WearRun.clear]
theorem Wear.clear_runCont (l : LaneId) (j : Fin 24) : ((w.clear lamp cont now).run[l]).cont[j] = if cont j then {} else (w.run[l]).cont[j] := by
  simp [Wear.clear, WearRun.clear]

/-- Of the lamps one is cleared. -/
theorem Wear.clear_lamp_one {i : Chan} (one : ∀ j, lamp j = decide (j = i)) :
    (w.clear lamp cont now).lamp = w.lamp.set i { w.lamp[i] with pts := [], offDays := 0, clearedNow := true } := by
  refine eq_set_of_getElem fun j => ?_
  rw [Wear.clear_lamp, one]
  by_cases same : j = i
  · subst same
    rw [decide_eq_true rfl, if_pos rfl, if_pos rfl]
    rfl
  · rw [decide_eq_false same, if_neg Bool.false_ne_true, if_neg same]
theorem Wear.clear_runLamp_one {i : Chan} (one : ∀ j, lamp j = decide (j = i)) (l : LaneId) :
    ((w.clear lamp cont now).run[l]).lamp = (w.run[l]).lamp.set i (((w.run[l]).lamp[i]).clearHistory now) := by
  refine eq_set_of_getElem fun j => ?_
  rw [Wear.clear_runLamp, one]
  by_cases same : j = i
  · subst same
    rw [decide_eq_true rfl, if_pos rfl, if_pos rfl]
  · rw [decide_eq_false same, if_neg Bool.false_ne_true, if_neg same]
theorem Wear.clear_lamp_none (none_ : ∀ j, lamp j = false) : (w.clear lamp cont now).lamp = w.lamp :=
  Vector.ext fun j hj => (w.clear_lamp lamp cont now ⟨j, hj⟩).trans (if_neg (ne_true_of_eq_false (none_ _)))
theorem Wear.clear_runLamp_none (none_ : ∀ j, lamp j = false) (l : LaneId) : ((w.clear lamp cont now).run[l]).lamp = (w.run[l]).lamp :=
  Vector.ext fun j hj => (w.clear_runLamp lamp cont now l ⟨j, hj⟩).trans (if_neg (ne_true_of_eq_false (none_ _)))
theorem Wear.clear_cont_none (none_ : ∀ j, cont j = false) : (w.clear lamp cont now).cont = w.cont :=
  Vector.ext fun j hj => (w.clear_cont lamp cont now ⟨j, hj⟩).trans (if_neg (ne_true_of_eq_false (none_ _)))
/-- Where no contactor is cleared, the lamps and the totals of the lanes alone change; and so for contactors. -/
theorem Wear.clear_lamps (none_ : ∀ j, cont j = false) :
    w.clear lamp cont now = { w with lamp := (w.clear lamp cont now).lamp, run := (w.clear lamp cont now).run } := by
  have kept := w.clear_cont_none lamp cont now none_
  unfold Wear.clear at kept ⊢
  rw [show (Vector.ofFn fun i => if cont i then (w.cont[i]).clearHistory else w.cont[i]) = w.cont from kept]
theorem Wear.clear_conts (none_ : ∀ j, lamp j = false) :
    w.clear lamp cont now = { w with cont := (w.clear lamp cont now).cont, run := (w.clear lamp cont now).run } := by
  have kept := w.clear_lamp_none lamp cont now none_
  unfold Wear.clear at kept ⊢
  rw [show (Vector.ofFn fun c => if lamp c then (w.lamp[c]).clearHistory else w.lamp[c]) = w.lamp from kept]
theorem Wear.clear_runCont_none (none_ : ∀ j, cont j = false) (l : LaneId) : ((w.clear lamp cont now).run[l]).cont = (w.run[l]).cont :=
  Vector.ext fun j hj => (w.clear_runCont lamp cont now l ⟨j, hj⟩).trans (if_neg (ne_true_of_eq_false (none_ _)))

end

/-! ## The next window -/

/-- START of COPPICE_NOW: the whole milliseconds to the action point at which the window opens; a free value where none can (R366). -/
def State.coppiceStart : Nat :=
  let opens := if u.mode.voted = true then u.nextAp + u.localIn u.tCyc else u.nextAp
  if u.coppice.step != 0 || !u.windowMay opens then (Config.freeValue u.fresh).toNat % 65536 else (opens - u.now + Config.ms - 1) / Config.ms
/-- The next window is due now (R366). -/
def State.coppiceDue : State := { u with coppice := { u.coppice with dueAt := some u.now, deferred := false }, fresh := u.fresh + 1 }
theorem opCoppiceNow_due : opCoppiceNow c u = (u.coppiceDue,
    some (okReply (toLe 1 ((u.coppice.repeatLane).getD u.coppice.next).val ++ toLe 1 0 ++ toLe 2 u.coppiceStart))) := rfl
theorem agreeButMail.coppiceStart {s : State} (same : agreeButMail s u) : u.coppiceStart = s.coppiceStart := by
  rw [same.1]
  rfl

end

/-! ## The commands as they arrive -/

section
variable {s : State} {c : MailCmd}

theorem State.Admits.wearReport (h : s.Admits c 0x0801) : s.Executed (s.accept c 0x0801) c 0x0801 (some (okReply [])) ∧ agreeButMail s (s.accept c 0x0801) ∧
    (s.accept c 0x0801).mail.rings[(13 : RingId)] = (s.sendWear s.wear.records 8).mail.rings[(13 : RingId)] := by
  have run : opWearReport (cmdAs c s) (s.taken c 0x0801) = ((s.taken c 0x0801).sendWear s.wear.records 8, some (okReply [])) := by
    rw [← taken_wear s c 0x0801]
    rfl
  have txns := State.sendWear_txns 8 (s.taken c 0x0801) s.wear.records
  have same : SamePosts 13 s (s.taken c 0x0801) := ⟨State.taken_outRing h (by decide), taken_subs .., taken_now ..⟩
  obtain ⟨executed, agrees⟩ := State.accept_changes h rfl id (fun _ _ _ => rfl) run (MailOnly.sendWear 8 _ (.refl _)) txns
  exact ⟨executed, agrees, (State.accept_outRing h rfl run txns (by decide)).trans (same.sendWear 8 (taken_wear ..) _).ring⟩
/-- WEAR_RESET of a lamp or a contactor pair that exists. -/
theorem State.Admits.wearReset (h : s.Admits c 0x0802) (zero : allZero c.payload 2 2 = true) (person : badPerson (leAt c.payload 4 4) = false)
    (item : leAt c.payload 0 1 = 1 ∧ leAt c.payload 1 1 < 96 ∨ leAt c.payload 0 1 = 3 ∧ leAt c.payload 1 1 < 12) :
    let t := s.accept c 0x0802
    s.Executed t c 0x0802 (some (okReply [])) ∧
    t.wear = s.wear.clear (fun i => leAt c.payload 0 1 == 1 && i.val == leAt c.payload 1 1)
      (fun n => leAt c.payload 0 1 == 3 && n.val / 2 == leAt c.payload 1 1) s.now ∧
    t.flash = { s.flash with log := t.flash.log } ∧ t.flash.log.length = s.flash.log.length + 1 ∧
    agreeButMail { s with wear := t.wear, flash := t.flash, fresh := s.fresh + 1 } t := by
  dsimp only
  obtain ⟨executed, agrees⟩ := State.accept_sets h rfl (fun u => u.wearCleared (fun i => leAt c.payload 0 1 == 1 && i.val == leAt c.payload 1 1)
      (fun n => leAt c.payload 0 1 == 3 && n.val / 2 == leAt c.payload 1 1)
      (toLe 1 (leAt c.payload 0 1) ++ toLe 1 (leAt c.payload 1 1) ++ toLe 2 0 ++ toLe 4 (leAt c.payload 4 4))) (fun _ _ _ => rfl)
    (opWearReset_clears (c := cmdAs c s) _ zero person item) rfl
  have wear := agrees.field (·.wear) fun _ _ _ => rfl
  have flash := agrees.field (·.flash) fun _ _ _ => rfl
  rw [wear, flash]
  exact ⟨executed, rfl, rfl, List.length_append, agrees⟩

end

end Sys2Proof.Machine

open Sys2Proof Sys2Proof.Machine

/-- Settles O44: a reset clears the item that it names and no other, and a report sends the records that stand. -/
theorem wearCommandsReadAndClear : Obligations.WearCommandsReadAndClear := by
  unfold Obligations.WearCommandsReadAndClear
  refine ⟨fun c i s h item => ⟨fun kind => ⟨_, rfl, ?_⟩, fun kind => ⟨_, rfl, ?_⟩⟩, fun c g s h item kind => ⟨_, rfl, ?_⟩,
    fun c s h => ⟨_, rfl, h.wearReport⟩, fun c s h zero person => ⟨fun i kind item => ⟨_, rfl, ?_⟩, fun g kind item => ⟨_, rfl, ?_⟩⟩,
    fun c s h => ⟨_, s.coppiceStart, rfl, fun idle may => ?_, ?_⟩⟩
  · exact State.accept_reads h rfl (fun u => some (okReply ((u.wear.lamp[i]).octets 1 i.val 0))) (fun _ _ _ => rfl) (opWearRead_lamp (c := cmdAs c s) _ kind i item)
  · exact State.accept_reads h rfl (fun u => some (okReply ((u.wear.switch[i]).octets 2 i.val 0))) (fun _ _ _ => rfl)
      (opWearRead_switch (c := cmdAs c s) _ kind i item)
  · exact (State.accept_reads h rfl (fun u => some (okReply (u.wear.pairOctets g))) (fun _ _ _ => rfl) (opWearRead_pair (c := cmdAs c s) _ kind g item)).symm
  · obtain ⟨executed, wear, flash, log, agrees⟩ := h.wearReset zero person (.inl ⟨kind, item ▸ i.isLt⟩)
    have one (j : Chan) : (leAt c.payload 0 1 == 1 && j.val == leAt c.payload 1 1) = decide (j = i) := by
      rw [kind, item, Bool.eq_iff_iff]
      simp [Fin.ext_iff]
    have none_ (j : Fin 24) : (leAt c.payload 0 1 == 3 && j.val / 2 == leAt c.payload 1 1) = false := by
      rw [kind]
      rfl
    have cont : (s.accept c 0x0802).wear = { s.wear with lamp := (s.accept c 0x0802).wear.lamp, run := (s.accept c 0x0802).wear.run } := by
      rw [wear]
      exact s.wear.clear_lamps _ _ s.now none_
    refine ⟨executed, ?_, fun l => ⟨?_, ?_⟩, flash, log, by rw [← cont]; exact agrees⟩
    · rw [wear, Wear.clear_lamp_one _ _ _ _ one]
    · rw [wear, Wear.clear_runLamp_one _ _ _ _ one]
    · rw [wear, Wear.clear_runCont_none _ _ _ _ none_]
  · obtain ⟨executed, wear, flash, log, agrees⟩ := h.wearReset zero person (.inr ⟨kind, item ▸ g.isLt⟩)
    have none_ (j : Chan) : (leAt c.payload 0 1 == 1 && j.val == leAt c.payload 1 1) = false := by
      rw [kind]
      rfl
    have pair (j : Fin 24) : (leAt c.payload 0 1 == 3 && j.val / 2 == leAt c.payload 1 1) = decide (j.val / 2 = g.val) := by
      rw [kind, item]
      rfl
    have lamp : (s.accept c 0x0802).wear = { s.wear with cont := (s.accept c 0x0802).wear.cont, run := (s.accept c 0x0802).wear.run } := by
      rw [wear]
      exact s.wear.clear_conts _ _ s.now none_
    refine ⟨executed, fun j => ?_, fun l j => ?_, fun l => ?_, flash, log, by rw [← lamp]; exact agrees⟩
    · rw [wear, Wear.clear_cont, pair]
      simp only [decide_eq_true_eq]
    · rw [wear, Wear.clear_runCont, pair]
      simp only [decide_eq_true_eq]
    · rw [wear, Wear.clear_runLamp_none _ _ _ _ none_]
  · exact if_neg (by rw [idle, may]; exact Bool.false_ne_true)
  · have run := opCoppiceNow_due (c := cmdAs c s) (s.taken c 0x0702)
    rw [(s.taken_agrees c 0x0702).coppiceStart, taken_coppice] at run
    exact State.accept_sets h rfl State.coppiceDue (fun _ _ _ => rfl) run rfl
end

section
/-!
PROOFS. The answers that come later (R338, R344, R345, R355, R360, R362, R364, R365).
-/

namespace Sys2Proof.Machine

/-! ## A reply handed over -/

theorem Txn.reply_given {t : Txn} {l : LaneId} (started : has t.started l = true) (missing : t.replies[l] = none) (now : Nat) (r : LaneId → Reply) :
    (t.reply now r).replies[l] = some (r l) := by
  unfold Txn.reply
  dsimp only
  rw [Fin.getElem_fin, Vector.getElem_ofFn]
  exact if_pos (by rw [started, missing]; rfl)
/-- The answer to a transaction reaches every lane that has started it, and the others stay. -/
theorem State.Answered.handed {s u : State} (same : u.mail.txns = s.mail.txns) (n : Nat) (r : LaneId → Reply) (o : Reply) :
    s.Answered (u.modTxn n fun x => { (x.reply u.now r) with outcome := some o }) n r := by
  intro x mem
  rw [← same] at mem
  refine ⟨fun other => State.modTxn_other mem other _, ?_⟩
  rintro rfl
  exact ⟨_, State.modTxn_same mem _, rfl, rfl, rfl, rfl, fun l started missing => Txn.reply_given started missing u.now r⟩

/-! ## Data of a capture -/

/-- What reports to the rings leave: the mailbox path alone changes, and of a hub its queue memory alone. -/
def Posts (s t : State) : Prop := MailOnly s t ∧ HubsButQmem s t
theorem Posts.trans {s t u : State} (a : Posts s t) (b : Posts t u) : Posts s u := ⟨a.1.trans b.1, a.2.trans b.2⟩
theorem Posts.ite {s t u : State} {p : Prop} [Decidable p] (a : Posts s t) (b : Posts s u) : Posts s (if p then t else u) := by
  split <;> assumption
theorem Posts.agreeButReports {s t : State} (h : Posts s t) : agreeButReports s t ∧ t.flash = s.flash := by
  obtain ⟨mail, hubs⟩ := h
  have flash : t.flash = s.flash := by rw [mail.rest]
  exact ⟨⟨by rw [flash]; exact mail.rest, by rw [flash], hubs⟩, flash⟩
theorem State.post_posts (s : State) (q : RingId) (op : Nat) (p : Bytes) : Posts s (s.post q op p) := ⟨(MailOnly.refl s).post q op p, s.post_hubs q op p⟩

/-- A message to a ring that has a subscriber, room and nothing lost is held there. -/
theorem Holds.posted {s : State} {q : RingId} (subscribed : s.subscribers q ≠ []) (waiting : s.mail.rings[q].waiting = []) (whole : s.mail.rings[q].loss = false)
    (op : Nat) {p : Bytes} (room : s.mail.rings[q].room (8 + p.length) = true) : Holds (s.post q op p) q (header 0xFF 2 op 0 p.length ++ p) := by
  have fits : (s.mail.rings[q].room (header 0xFF 2 op 0 p.length ++ p).length && (s.mail.rings[q].waiting).isEmpty) = true := by
    rw [List.length_append, show (header 0xFF 2 op 0 p.length).length = 8 from rfl, room, waiting]
    rfl
  unfold State.post
  dsimp only
  rw [whole, show (2 + if false = true then 4 else 0) = 2 from rfl, if_neg (by rwa [List.isEmpty_iff]), if_pos fits]
  exact Holds.modRing (Holds.placed s q _) q _ fun _ _ mem => mem

theorem State.captureSend_posts (r : CaptureRun) (flags fuel : Nat) (s : State) (xs : List CapSample) (first : Nat) :
    Posts s (s.captureSend r xs flags first fuel) := by
  induction fuel generalizing s xs first with
  | zero => exact ⟨.refl s, .refl s⟩
  | succ fuel ih =>
    unfold State.captureSend
    exact Posts.ite (s.post_posts ..) ((s.post_posts ..).trans (ih ..))

/-- The samples of a CAPTURE_DATA message. -/
def CaptureRun.perMessage (r : CaptureRun) : Nat := if r.sel.getLsbD 1 = true then 248 else 496
/-- The payload of a CAPTURE_DATA message with LAST (R362), the time of an instant in global time given. -/
def CaptureRun.lastOctets (r : CaptureRun) (time : Nat → Nat) (xs : List CapSample) (flags first : Nat) : Bytes :=
  let fine := r.sel.getLsbD 1
  let stamp (x : Option CapSample) : Bytes := toLe 8 ((x.map fun y => time y.t + (if fine = true then 3840 else 960)).getD 0)
  toLe 2 r.id.toNat ++ toLe 1 (1 + flags + bit (xs.any (·.ovr)) 3 + bit (xs.any (·.spare)) 4) ++ [r.sel] ++ toLe 1 r.chan.val ++ toLe 1 r.lane.val ++
    toLe 2 first ++ stamp xs.head? ++ stamp xs.getLast? ++ xs.flatMap fun x => toLeInt (if fine = true then 4 else 2) x.v
theorem toLe_one (b : Byte) : toLe 1 b.toNat = [b] := by
  unfold toLe toLe
  rw [BitVec.ofNat_toNat, BitVec.setWidth_eq]
theorem State.captureSend_fits (s : State) (r : CaptureRun) {xs : List CapSample} (fits : xs.length ≤ r.perMessage) (flags first fuel : Nat) :
    s.captureSend r xs flags first (fuel + 1) = s.post 12 0x0F02 (r.lastOctets s.globalAt xs flags first) := by
  unfold CaptureRun.perMessage at fits
  unfold State.captureSend CaptureRun.lastOctets State.sampleTime
  dsimp only
  rw [if_pos (decide_eq_true fits), if_pos (decide_eq_true fits), List.take_of_length_le fits, toLe_one]

/-- A capture that ends sends what it holds, and nothing else changes. -/
theorem State.captureEnds_posts (s : State) (r : CaptureRun) (flags : Nat) :
    Posts { s with act := { s.act with capture := none } } (s.captureEnds r flags) := State.captureSend_posts ..
theorem Holds.captureEnds {s : State} {r : CaptureRun} {flags : Nat} (fits : r.data.2.length ≤ r.perMessage) (subscribed : s.subscribers 12 ≠ [])
    (waiting : s.mail.rings[(12 : RingId)].waiting = []) (whole : s.mail.rings[(12 : RingId)].loss = false)
    (room : s.mail.rings[(12 : RingId)].room (8 + (r.lastOctets s.globalAt r.data.2 flags r.data.1).length) = true) :
    Holds (s.captureEnds r flags) 12 (header 0xFF 2 0x0F02 0 (r.lastOctets s.globalAt r.data.2 flags r.data.1).length ++
      r.lastOctets s.globalAt r.data.2 flags r.data.1) := by
  have clock : State.globalAt { s with act := { s.act with capture := none } } = s.globalAt := rfl
  have receivers : State.subscribers { s with act := { s.act with capture := none } } 12 = s.subscribers 12 := rfl
  have rings : State.mail { s with act := { s.act with capture := none } } = s.mail := rfl
  unfold State.captureEnds
  generalize ({ s with act := { s.act with capture := none } } : State) = u at clock receivers rings ⊢
  rw [State.captureSend_fits u r fits, clock]
  rw [← receivers] at subscribed
  rw [← rings] at waiting whole room
  exact Holds.posted subscribed waiting whole _ room

/-! ## The instants at which a capture ends -/

section
variable {s : State} {r : CaptureRun} (runs : s.act.capture = some r)
include runs

theorem execCaptureTrigger_truncated (lost : r.cut = true ∨ s.supplier ≠ some r.lane) : execCaptureTrigger s = .next (s.captureEnds r 2) := by
  unfold execCaptureTrigger
  rw [runs]
  exact congrArg _ (if_pos lost)
theorem execCaptureTrigger_full (kept : r.cut = false) (same : s.supplier = some r.lane) (full : r.full = true) :
    execCaptureTrigger s = .next (s.captureEnds r 0) := by
  unfold execCaptureTrigger
  rw [runs]
  dsimp only
  rw [if_neg (by simp [kept, same]), if_pos full]
theorem execCaptureTrigger_goesOn (kept : r.cut = false) (same : s.supplier = some r.lane) (full : r.full = false) :
    execCaptureTrigger s = .next s := by
  unfold execCaptureTrigger
  rw [runs]
  dsimp only
  rw [if_neg (by simp [kept, same]), if_neg (by simp [full])]
theorem execCaptureTimeout_due (trig : r.trig = 2) (quiet : r.trigAt = none) (due : r.since + 60 * Config.sec ≤ s.now) :
    execCaptureTimeout s = .next (s.captureEnds r 4) := by
  unfold execCaptureTimeout
  rw [runs]
  dsimp only
  rw [if_pos ⟨trig, by rw [quiet]; rfl, decide_eq_true due⟩]
theorem execCaptureTimeout_goesOn (early : r.trig ≠ 2 ∨ r.trigAt ≠ none ∨ s.now < r.since + 60 * Config.sec) : execCaptureTimeout s = .next s := by
  unfold execCaptureTimeout
  rw [runs]
  dsimp only
  rw [if_neg ?_]
  rintro ⟨trig, quiet, due⟩
  rcases early with other | seen | soon
  · exact other trig
  · exact seen (Option.isNone_iff_eq_none.1 quiet)
  · exact absurd (of_decide_eq_true due) (Nat.not_le.2 soon)

end

/-! ## The end of LAMP_TEST and of FIELD_TEST -/

theorem execLampTestEnd_due {s : State} {x : TimedTest} (runs : s.act.lamp = some x) {v : Bytes} (seen : x.snap = some v) : execLampTestEnd s =
    .next (({ s with act := { s.act with lamp := none } } : State).answer x.num (okReply (v ++ [if x.early = true then 1 else 0, 0, 0, 0]))) := by
  have octets : toLe 1 (bit x.early 0) ++ toLe 3 0 = [if x.early = true then 1 else 0, 0, 0, 0] := by
    cases x.early <;> rfl
  unfold execLampTestEnd
  rw [runs]
  dsimp only
  rw [seen, ← octets, ← List.append_assoc]
theorem execFieldTestEnd_due {s : State} {x : TimedTest} (runs : s.act.field = some x) (ended : x.early = true ∨ ∃ e, x.endAt = some e ∧ e ≤ s.bus.apAt) :
    execFieldTestEnd s = .next (({ s with act := { s.act with field := none } } : State).modTxn x.num fun y =>
      { (y.reply s.now fun l => okReply (s.pointOctets l)) with outcome := some (okReply (s.pointOctets ((s.supplier).getD 0))) }) := by
  have due : x.early = true ∨ (x.endAt.any fun e => decide (e ≤ s.bus.apAt)) = true := by
    refine ended.imp_right ?_
    rintro ⟨e, ends, past⟩
    rw [ends]
    exact decide_eq_true past
  unfold execFieldTestEnd
  rw [runs]
  exact congrArg _ (if_pos due)

/-! ## The end of PROOF_TEST -/

/-- No channel's test is wanted any more. -/
def State.unwanted (s : State) : State := s.each allChans fun u i => u.modSched i fun x => { x with want := false }
theorem State.unwanted_eq (s : State) : ∃ v : Vector TestSched 96, s.unwanted = { s with tests := { s.tests with chan := v } } ∧
    ∀ i : Chan, v[i] = { s.tests.chan[i] with want := false } := by
  obtain ⟨rest, chans⟩ := State.each_modSched (fun x => { x with want := false }) allChans s allChans_nodup
  exact ⟨_, rest, fun i => (chans i).trans (if_pos (mem_allChans i))⟩
theorem execProofTestTimeout_due {s : State} {r : ProofRun} (runs : s.act.proof = some r) (due : r.deadline ≤ s.now) : execProofTestTimeout s =
    .next (({ s.unwanted with act := { s.unwanted.act with proof := none } } : State).answer r.num (okReply r.results.toList)) := by
  unfold execProofTestTimeout
  rw [runs]
  exact congrArg _ (if_pos due)

end Sys2Proof.Machine

open Sys2Proof Sys2Proof.Machine

/-- Settles O60: a capture that ends sends its data in messages that change the mailbox path alone, and an activity that ends answers through its
transaction. -/
theorem lateAnswersCome : Obligations.LateAnswersCome := by
  unfold Obligations.LateAnswersCome
  refine ⟨fun c s => ⟨fun h => ⟨_, rfl, State.accept_answers h rfl rfl⟩, fun h => ⟨_, rfl, State.accept_answers h rfl rfl⟩, fun h => ⟨_, rfl, ?_⟩,
    fun h => ⟨_, rfl, State.accept_answers h rfl rfl⟩⟩, fun s => ?_, fun s => ⟨fun still => ?_, fun x v runs seen => ?_⟩,
    fun s => ⟨fun still => ?_, fun x runs past => ?_⟩, fun s => ⟨fun still => ?_, fun r runs due => ?_⟩⟩
  · refine (State.accept_answers h rfl ?_).symm
    change State.unless _ [(decide (96 < leAt c.payload 0 1 + leAt c.payload 1 1), Status.range)] _ = _
    by_cases exist : leAt c.payload 0 1 + leAt c.payload 1 1 ≤ 96
    · rw [if_pos exist, State.unless_cons (decide_eq_false (Nat.not_lt.2 exist)), State.unless_nil]
    · rw [if_neg exist, State.unless_refused (decide_eq_true (Nat.lt_of_not_le exist))]
  · intro sent
    have ends (r : CaptureRun) (flags : Nat) : sent r (s.captureEnds r flags) flags := by
      have posts := s.captureEnds_posts r flags
      have act : (s.captureEnds r flags).act = { s.act with capture := none } := by rw [posts.1.rest]
      obtain ⟨agrees, flash⟩ := posts.agreeButReports
      exact ⟨act, by rw [act]; exact agrees, flash, fun fits subscribed waiting whole => Holds.captureEnds fits subscribed waiting whole⟩
    refine ⟨fun none_ => ⟨?_, ?_⟩, fun r runs => ⟨fun lost => ⟨_, execCaptureTrigger_truncated runs lost, ends r 2⟩,
      fun kept same full => ⟨_, execCaptureTrigger_full runs kept same full, ends r 0⟩, execCaptureTrigger_goesOn runs,
      execCaptureTimeout_goesOn runs, fun trig quiet due => ⟨_, execCaptureTimeout_due runs trig quiet due, ends r 4⟩⟩⟩
    · change execCaptureTrigger s = _
      rw [execCaptureTrigger, none_]
    · change execCaptureTimeout s = _
      rw [execCaptureTimeout, none_]
  · change execLampTestEnd s = _
    unfold execLampTestEnd
    cases runs : s.act.lamp with
    | none => rfl
    | some x =>
      dsimp only
      rw [still x runs]
  · exact ⟨_, execLampTestEnd_due runs seen, rfl, State.Answered.handed rfl _ _ _⟩
  · change execFieldTestEnd s = _
    unfold execFieldTestEnd
    cases runs : s.act.field with
    | none => rfl
    | some x =>
      obtain ⟨onTime, later⟩ := still x runs
      dsimp only
      rw [if_neg ?_]
      rintro (early | ended)
      · exact ne_true_of_eq_false onTime early
      · obtain ⟨e, ends, past⟩ := (Option.any_eq_true _ _).1 ended
        exact Nat.not_le.2 (later e ends) (of_decide_eq_true past)
  · exact ⟨_, execFieldTestEnd_due runs past, rfl, State.Answered.handed rfl _ _ _⟩
  · change execProofTestTimeout s = _
    unfold execProofTestTimeout
    cases runs : s.act.proof with
    | none => rfl
    | some r => exact congrArg _ (if_neg (Nat.not_le.2 (still r runs)))
  · obtain ⟨v, rest, chans⟩ := s.unwanted_eq
    refine ⟨_, execProofTestTimeout_due runs due, ?_⟩
    rw [rest]
    exact ⟨rfl, rfl, chans, State.Answered.handed rfl _ _ _⟩
end
